-- ==== Sys2Proof/Word.lean ====
section
/-! DEFINITION. The words of the machine: the widths the spec names, and nothing that computes a result. -/

namespace Sys2Proof

/-- A byte of memory. -/
abbrev Byte := BitVec 8
/-- A control-plane payload, a scalar local, a scratchpad word. -/
abbrev W32 := BitVec 32
/-- A sequencer register, a word of code, an address before it is checked. -/
abbrev W64 := BitVec 64
/-- The data bits of a data-plane token, a vector local (R17, R92). -/
abbrev Vec := BitVec 512

end Sys2Proof
end

