-- ==== Sys2Proof/Config.lean ====
section
/-! DEFINITION. What an implementation fixes and what the spec leaves open, as constants without a body: nothing in
Lean can evaluate one, so a claim holds whatever they are. The counter they are applied to is `State.free`, which every
use advances (log 7). -/

namespace Sys2Proof.Config

/-- A delay in fc that the spec gives only as typical, as a bound or not at all (R149, R242, R85, R326; log 8). -/
opaque delay : Nat → Nat

/-- A choice the spec leaves to the device: an L1 line used or refilled (R186), a line evicted or written back, a PREF
that moves a line (R90, R175; logs 8, 9, 10). -/
opaque choice : Nat → Bool

/-- Whether a store that waits for a full word to empty is an operation in progress of R138. Its text says that waits on
full/empty bits are; R349 has a region that waits so taken as quiescent (log 94). -/
opaque storeWaitBusy : Bool

/-- The set of an E tile's L1 that a line lies in, by the line's number, modulo 256 (Table 9-1; log 9). -/
opaque l1Set : Nat → Nat

/-- The order in which an engine performs the n accesses of an entry, for a number drawn as the entry starts (R184, R239). -/
opaque order : Nat → (n : Nat) → Equiv.Perm (Fin n)

/-- A value the spec does not state: a TVAL or TVAL2 that no rule gives (log 15). -/
opaque freeWord : Nat → BitVec 64

/-- The pod of MODID, set at start (R378; log 11). -/
opaque pod : Fin 768

/-- The module in the pod of MODID, set at start (R378; log 11). -/
opaque modInPod : BitVec 10

/-- MODID (Table 24-5). -/
def modid : BitVec 20 := BitVec.ofNat 20 (pod.val * 1024 + modInPod.toNat)

/-- The rest of a firmware image: what its digest and its signatures are over (R382; log 11). -/
opaque imageRest : List (BitVec 8) → List (BitVec 8)

/-- The SHA-384 digest a firmware image carries (R382; log 11). -/
opaque imageDigest : List (BitVec 8) → List (BitVec 8)

/-- The Ed25519 and ML-DSA-65 signatures a firmware image carries (R382; log 11). -/
opaque imageEdSig : List (BitVec 8) → BitVec 512
opaque imageMlSig : List (BitVec 8) → BitVec 26472

/-- The root public keys in the boot ROM (R382; log 11). -/
opaque edRoot : BitVec 256
opaque mlRoot : BitVec 15616

/-- Verification of an Ed25519 signature over a message, as RFC 8032 defines it (R382; log 11). -/
opaque ed25519Verify : BitVec 256 → List (BitVec 8) → BitVec 512 → Bool

/-- Verification of an ML-DSA-65 signature over a message, as FIPS 204 defines it (R382; log 11). -/
opaque mldsaVerify : BitVec 15616 → List (BitVec 8) → BitVec 26472 → Bool

/-- Whether a firmware image is well formed (R384, CODE 0x05). -/
opaque imageOk : List (BitVec 8) → Bool

/-- The security version of a firmware image (R382). -/
opaque imageSecVer : List (BitVec 8) → BitVec 64

/-- The firmware version of a firmware image (R386). -/
opaque imageVersion : List (BitVec 8) → BitVec 64

/-- The Ed25519 signature, 64 bytes, of the module's identity key over a report (R386). -/
opaque ed25519Sign : List (BitVec 8) → BitVec 512

/-- The ML-DSA-65 signature, 3,309 bytes, of the module's identity key over a report (R386). -/
opaque mldsaSign : List (BitVec 8) → BitVec 26472

/-- The identity certificates IDENT writes (R385). -/
opaque identCerts : List (BitVec 8)

/-- The firmware image a module's flash holds when it leaves the factory (R382; log 11). -/
opaque flashImage : List (BitVec 8)

/-- The security version a module's non-volatile store holds when it leaves the factory (R382; log 11). -/
opaque flashSecVer : BitVec 64

end Sys2Proof.Config
end

