-- ==== Sys2Proof/Syntax.lean ====
section
/-! DEFINITION. The instructions and the events of the GZ-960: one constructor per row of spec/opcode_table.json.

A sequencer row carries the fields of the sequencer word (R29) other than KIND and OPC, a fabric row those of the
triggered element word (R25); the opcode is the constructor. A row that has no word of its own (a step the machine
takes by itself or at the host's word) carries the numbers of the units it acts on: `p` a paddock, `q` a launch queue,
`t` a tile (12 × row + column), `r` a region id, `k` a task slot, `c` a chain id, `o` an element output. -/

namespace Sys2Proof

/-- The fields of a sequencer word (R29, Table 3-6) other than KIND and OPC. -/
structure SeqF where
  /-- COND: 0 always, 1 if p[PC], 2 if not p[PC], 3 illegal. -/
  cond : BitVec 2 := 0
  pc   : BitVec 3 := 0
  d    : BitVec 5 := 0
  a    : BitVec 5 := 0
  b    : BitVec 5 := 0
  w    : BitVec 2 := 0
  imm  : BitVec 32 := 0
deriving DecidableEq, Repr

/-- The fields of a triggered element word (R25, Table 3-2) other than KIND and OPC. -/
structure FabF where
  v   : Bool := true
  rr  : Bool := false
  pm  : BitVec 8 := 0
  pv  : BitVec 8 := 0
  im  : BitVec 4 := 0
  tc  : BitVec 2 := 0
  tt  : BitVec 3 := 0
  dq  : BitVec 4 := 0
  om  : BitVec 4 := 0
  pu  : BitVec 3 := 0
  pd  : BitVec 3 := 0
  sa  : BitVec 4 := 0
  sb  : BitVec 4 := 0
  dst : BitVec 4 := 0
  k   : Bool := false
deriving DecidableEq, Repr

/-- The operand words 0x08 to 0x38 of a mailbox command (R376). -/
structure Mbox where
  w1 : BitVec 64 := 0
  w2 : BitVec 64 := 0
  w3 : BitVec 64 := 0
  w4 : BitVec 64 := 0
  w5 : BitVec 64 := 0
  w6 : BitVec 64 := 0
  w7 : BitVec 64 := 0
deriving DecidableEq, Repr

/-- What a stage found failing (R381): die spines and GDDR-7 channels, channel 8p + k being paddock p's k-th, in Stage B;
paddocks in Stage C. -/
structure StageFaults where
  spines : BitVec 4
  channels : BitVec 256
  pads : BitVec 32
deriving DecidableEq, Repr

/-- A context page (R373): a page of BAR2 of PF0 (function 0) or of BAR0 of VF `fn`. -/
structure CtxPage where
  fn : Fin 33
  page : Fin 128
deriving DecidableEq, Repr

/-- The host registers a plain write reaches (R373, R376, R377, R384): SUBADDR of a context page, a word of the
mailbox, its doorbell at 0x40, MWBASE, MWSIZE, and BOOT_REASON, which ignores the write. -/
inductive HostReg where
  | subaddr (g : CtxPage)
  | mailbox (word : Fin 8)
  | doorbell
  | mwbase
  | mwsize
  | bootReason
deriving DecidableEq, Repr

/-- One constructor per row of spec/opcode_table.json. -/
inductive Instr where
  /-- SEQ_OP_COMPLETE (R75): A multi-cycle or memory sequencer instruction completes, writing its result and freeing the context. -/
  | seqOpComplete (p : Fin 32) (q : Fin 4)
  /-- TAG_WAIT_COMPLETE (R84): A waiting WANY or WALL finds its tag condition met at the end of an fc. -/
  | tagWaitComplete (p : Fin 32) (q : Fin 4)
  /-- WFE_WAKE (R85): A wake event ends a gated context's WFE, within 2 us. -/
  | wfeWake (p : Fin 32) (q : Fin 4)
  /-- PADDOCK_GATE_F3 (R85): The module controller places an idle paddock in state F3. -/
  | paddockGateF3 (p : Fin 32)
  /-- ILLEGAL_WORD (R31): A word that fails the issue checks takes a precise ILLEGAL trap. -/
  | illegalWord (w : BitVec 64)
  /-- FETCH_FAULT (R77): Fetching a sequencer word faults with XLATE, ACCESS or ECC_UE. -/
  | fetchFault (cause : BitVec 8)
  /-- CONTEXT_BUDGET_TRAP (R270): A context with an exhausted enforced counter takes BUDGET_I or BUDGET_T instead of issuing. -/
  | contextBudgetTrap
  /-- LNCH_SLOT_ACQUIRE (R262): A LNCH that waited for a task slot continues once a slot is free. -/
  | lnchSlotAcquire (p : Fin 32) (q : Fin 4)
  /-- ECCMODE_CLR (R161): Writing 1 to ECCMODE.CLR clears CECNT. -/
  | eccmodeClr (p : Fin 32)
  /-- ECCMODE_DEC_WRITE (R162): Writing DEC selects the ECC code and starts re-encoding by the scrubbers. -/
  | eccmodeDecWrite (p : Fin 32) (dec : Bool)
  /-- PADDOCK_RESET_DONE (R326): A paddock reset completes and its gate is CLOSED again. -/
  | paddockResetDone (p : Fin 32)
  /-- GATH_ROW_TOKEN_EMIT (R173): A later token of a gathered row leaves the reorder area once its outputs have room. -/
  | gathRowTokenEmit (p : Fin 32) (t : Fin 144)
  /-- MEM_NODE_COMPLETE (R165): A deferred slot's request completes: DST, predicate and reserved output places are written. -/
  | memNodeComplete (p : Fin 32) (t : Fin 144) (n : Nat)
  /-- PARKED_REQUEST_RETRY (R159): Requests parked by a translation or permission fault retry in the fc after ERET. -/
  | parkedRequestRetry (p : Fin 32) (t : Fin 144)
  /-- MFIRE_POSITION_TAKE (R194): A pass takes its next A token position from its channel. -/
  | mfirePositionTake (p : Fin 32) (t : Fin 144)
  /-- MATRIX_PASS_COMPLETE (R196): A pass makes its group additions into the anchored accumulators. -/
  | matrixPassComplete (p : Fin 32) (t : Fin 144)
  /-- CARRY_HOLD_RESUME (R197): A held pass resumes at the addition that held it. -/
  | carryHoldResume (p : Fin 32) (t : Fin 144)
  /-- MDRN_SPILL_TOKEN (R203): A draining MDRN consumes one spill token of high words. -/
  | mdrnSpillToken (p : Fin 32) (t : Fin 144)
  /-- MDRN_COMPLETE (R202): A drain writes and emits its lanes. -/
  | mdrnComplete (p : Fin 32) (t : Fin 144)
  /-- MCARRY_EXP_TOKEN (R206): One spill token of an export leaves when its outputs allow. -/
  | mcarryExpToken (p : Fin 32) (t : Fin 144)
  /-- TOKEN_HOP (R37): A token leaves a buffer along its route to every fan-out destination that has space. -/
  | tokenHop (p : Fin 32) (t : Fin 144) (src : Fin 20)
  /-- SKIP_FLUSH_EMIT (R64): Before a configuration change, a pending SKIP count is flushed as one zero token. -/
  | skipFlushEmit (p : Fin 32) (t : Fin 144) (o : Fin 4)
  /-- BID_ADMIT (R129): The admission arbiter admits a waiting bid when area is freed or a bid arrives. -/
  | bidAdmit (p : Fin 32) (n : Nat)
  /-- CFGA_ACTIVATE (R145): A waiting CFGA activates its slot once the region drains. -/
  | cfgaActivate (p : Fin 32) (q : Fin 4)
  /-- RGNF_FREE (R146): A waiting RGNF frees the region once it drains. -/
  | rgnfFree (p : Fin 32) (q : Fin 4)
  /-- QWAIT_RETURN (R146): A waiting QWAIT returns its status. -/
  | qwaitReturn (p : Fin 32) (q : Fin 4)
  /-- DECISION_SWITCH (R136): A pending decision switches every tile of the drained region to its target slot. -/
  | decisionSwitch (p : Fin 32) (r : Fin 16)
  /-- SPLICE_SWAP (R137): A tile swaps to the splice successor once its old stream has ended. -/
  | spliceSwap (p : Fin 32) (t : Fin 144)
  /-- QNC (R138): The quiescence detector finds a region stuck for 4,096 fc. -/
  | qnc (p : Fin 32) (r : Fin 16)
  /-- TASK_RETIRE (R264): A task retires, returns budgets, frees its region and sets its tag. -/
  | taskRetire (p : Fin 32) (k : Fin 64)
  /-- BUDGET_ADDER_UPDATE (R267): The budget adder tree applies fc t's charges at the end of fc t+3. -/
  | budgetAdderUpdate (p : Fin 32) (r : Fin 16)
  /-- BUDGET_FREEZE (R267): A region whose enforced counter ran out stops firing from fc t+8. -/
  | budgetFreeze (p : Fin 32) (r : Fin 16)
  /-- TASK_RESUME (R269): A frozen task is restored once every enforced counter is positive. -/
  | taskResume (p : Fin 32) (k : Fin 64)
  /-- YIELD_RELEASE (R273): After work in progress completes, a yielding region is saved, freed and rebid. -/
  | yieldRelease (p : Fin 32) (k : Fin 64)
  /-- ASYNC_TRAP_DELIVERY (R311): An asynchronous trap is delivered to its owner at an instruction boundary. -/
  | asyncTrapDelivery (p : Fin 32) (q : Fin 4)
  /-- REGION_ECC_RECOVERY (R319): An uncorrectable error in an uncommitted epoch is recovered by flush, reload and replay, or traps ECC_UE. -/
  | regionEccRecovery (p : Fin 32) (r : Fin 16) (t : Fin 144)
  /-- SCRUB_VISIT (R162): A scrubber reads, corrects and rewrites a line. -/
  | scrubVisit (p : Fin 32) (line : Nat)
  /-- SPARE_ADVANCE (R106): Every 2^Q fc the spare element moves to the next column. -/
  | spareAdvance (p : Fin 32) (row : Fin 12)
  /-- SPARE_COMPARE (R106): The spare compares its repeated firing with the shadowed element's. -/
  | spareCompare (p : Fin 32) (row : Fin 12)
  /-- COPY (R239): Engine entry copies elements over up to nine dimensions. -/
  | copy (p : Fin 32) (c : Fin 17)
  /-- FILL (R239): Engine entry fills every destination element with a value. -/
  | fill (p : Fin 32) (c : Fin 17)
  /-- CONV (R239): Engine entry converts and rounds elements. -/
  | conv (p : Fin 32) (c : Fin 17)
  /-- ENG_GATH (R239): Engine entry gathers rows by an index list. -/
  | engGath (p : Fin 32) (c : Fin 17)
  /-- ENG_SCAT (R239): Engine entry scatters rows by an index list. -/
  | engScat (p : Fin 32) (c : Fin 17)
  /-- AREDUCE (R240): Collective entry sums a tensor exactly over a group. -/
  | areduce (p : Fin 32) (c : Fin 17)
  /-- RSCAT (R240): Collective entry sums exactly and gives each member its slice. -/
  | rscat (p : Fin 32) (c : Fin 17)
  /-- AGATH (R239): Collective entry gathers each member's tensor. -/
  | agath (p : Fin 32) (c : Fin 17)
  /-- SIGNAL (R239): Engine entry writes a 64-bit value. -/
  | signal (p : Fin 32) (c : Fin 17)
  /-- WAITSEQ (R239): Engine entry waits until a local word reaches a value. -/
  | waitseq (p : Fin 32) (c : Fin 17)
  /-- WAITSEQ_REREAD (R239): A waiting WAITSEQ re-reads its word every 64 fc. -/
  | waitseqReread (p : Fin 32) (c : Fin 17)
  /-- STAMP_REREAD (R241): An engine re-reads an entry whose stamp did not match, after 64 fc. -/
  | stampReread (p : Fin 32) (c : Fin 17)
  /-- CHAIN_ENTRY_COMPLETE (R242): An entry's writes are performed, its completion word, tag and message follow. -/
  | chainEntryComplete (p : Fin 32) (c : Fin 17)
  /-- CHAIN_TRANSLATION_RETRY (R245): A chain paused on translation retries after ERET. -/
  | chainTranslationRetry (p : Fin 32) (c : Fin 17)
  /-- REMOTE_WRITE_TIMEOUT (R379): A peer write with no answer within 2^20 fc halts the chain with detail 0x38. -/
  | remoteWriteTimeout (p : Fin 32) (c : Fin 17)
  /-- REMOTE_WRITE_RECEIVE (R379): A module receives a remote write and translates it through the link window. -/
  | remoteWriteReceive (src : BitVec 20) (part : Fin 32) (va : BitVec 64) (bytes : List (BitVec 8))
  /-- MESSAGE_ARRIVE (R254): A message reaches its destination input, or is discarded if its label is unbound. -/
  | messageArrive (p : Fin 32) (n : Nat)
  /-- STILE_TOKEN_ARRIVE (R323): A token crossing a channel stile reaches the receiving port. -/
  | stileTokenArrive (p : Fin 32) (n : Nat)
  /-- STILE_TMO (R325): A stile wait exceeds STILETMO, or its far end closes. -/
  | stileTmo (p : Fin 32) (t : Fin 144) (o : Fin 4)
  /-- SHAPE_POINT (R293): The shape controller pauses regions, performs a change and resumes them. -/
  | shapePoint (p : Fin 32)
  /-- BASELINE_WINDOW_END (R295): A baseline progress window of 2^W fc ends. -/
  | baselineWindowEnd (p : Fin 32)
  /-- TRIAL_VERDICT (R296): At the end of the last trial window, the trial is confirmed or its closure reverted. -/
  | trialVerdict (p : Fin 32)
  /-- TUNER_PROPOSE (R291): The tuner proposes the next change of the next object. -/
  | tunerPropose (p : Fin 32)
  /-- CLAMP_STEP_DOWN (R10): A paddock drawing 55 W is lowered one frequency state. -/
  | clampStepDown (p : Fin 32)
  /-- CLAMP_STEP_UP (R327): After 1 ms below 50 W the clamp raises the state one step. -/
  | clampStepUp (p : Fin 32)
  /-- PLIM_STEP_DOWN (R388): Every 1 ms over PLIM the highest-drawing paddock is lowered one step. -/
  | plimStepDown
  /-- PLIM_STEP_UP (R388): After 10 ms 100 W below PLIM a lowered paddock is raised one step. -/
  | plimStepUp
  /-- START (R374): A doorbell with START 1, on context page 4m + q of function fn, reads a launch record and starts a halted context. -/
  | start (fn : Fin 33) (m : Fin 32) (q : Fin 4)
  /-- DOORBELL_WAKE (R374): A doorbell with START 0 is only a wake event. -/
  | doorbellWake (fn : Fin 33) (page : Fin 128)
  /-- TOPI (R375): A host write adds to a context's instruction counter. -/
  | topi (fn : Fin 33) (page : Fin 128) (v : BitVec 64)
  /-- TOPT (R375): A host write adds to a context's traffic counter. -/
  | topt (fn : Fin 33) (page : Fin 128) (v : BitVec 64)
  /-- REGISTER_WRITE (R373): A host write to a register with no behaviour of its own, such as SUBADDR, MWBASE or MWSIZE. -/
  | registerWrite (l : HostReg) (v : BitVec 64)
  /-- ATS_INVALIDATION (R372): A host ATS invalidation completes once every covered translation is invalid. -/
  | atsInvalidation (pasid : BitVec 20) (va : BitVec 64) (size : BitVec 64)
  /-- SETROOT (R376): Mailbox command binding an address space id to its root. -/
  | setroot (m : Mbox)
  /-- BINDPART (R376): Mailbox command giving a partition its address space, PASID and link. -/
  | bindpart (m : Mbox)
  /-- INVAL (R158): Mailbox command invalidating translations. -/
  | inval (m : Mbox)
  /-- HOSTWIN (R376): Mailbox command setting a host window. -/
  | hostwin (m : Mbox)
  /-- GROUP (R240): Mailbox command registering a collective group. -/
  | group (m : Mbox)
  /-- LINKWIN (R379): Mailbox command binding an incoming link window. -/
  | linkwin (m : Mbox)
  /-- RESTART (R313): Mailbox command running a halted context from EPC. -/
  | restart (m : Mbox)
  /-- PROPOSE (R393): Mailbox command appending a host journal proposal. -/
  | propose (m : Mbox)
  /-- NOTICE (R376): Mailbox command setting the notice ring. -/
  | notice (m : Mbox)
  /-- ATTEST (R386): Mailbox command writing a signed attestation report. -/
  | attest (m : Mbox)
  /-- FWSTAGE (R385): Mailbox command verifying and writing a firmware image to flash. -/
  | fwstage (m : Mbox)
  /-- REBOOT (R385): Mailbox command starting the module again, optionally clearing FAILS and SAFE. -/
  | reboot (m : Mbox)
  /-- IDENT (R385): Mailbox command writing the identity certificates. -/
  | ident (m : Mbox)
  /-- PLIMIT (R388): Mailbox command setting the module power limit. -/
  | plimit (m : Mbox)
  /-- POWER_ON (R381): Power-on begins a staged start. -/
  | powerOn
  /-- FUNDAMENTAL_RESET (R381): A PCI Express fundamental reset begins a staged start. -/
  | fundamentalReset
  /-- STAGE_LIMIT_EXPIRY (R381): A start stage overruns its limit and the start fails. -/
  | stageLimitExpiry
  /-- STAGE_COMPLETE (R381): A start stage finishes its bring-up (such as GDDR-7 training or paddock reset) within its limit, raising STAGE and letting waiting doorbells and mailbox commands proceed. -/
  | stageComplete (f : StageFaults)
  /-- POWER_OFF (R383): Loss of module power discards all volatile state while FAILS, SAFE and the security version stay in the non-volatile store. -/
  | powerOff
  /-- HOST_LINK_TRAINING (R370): A PCI Express link trains with its partner at the highest common rate and width in FLIT mode, or stays down when the partner lacks FLIT mode. -/
  | hostLinkTraining (link : Fin 2) (flit : Bool) (rate : BitVec 8) (width : BitVec 8)
  /-- IDE_KM (R370): An IDE_KM request arriving over DOE sets the keys of an IDE link or selective stream. -/
  | ideKm (link : Fin 2) (stream : BitVec 8)
  /-- VF_ENABLE (R371): The host enables or disables SR-IOV virtual function VF n, which then serves partition n-1 alone. -/
  | vfEnable (n : Fin 32) (on : Bool)
  /-- TRIAL_WINDOW_END (R296): A trial window of 2^W counted fc ends before the last one, recording its progress and raising JSTAT.TWIN. -/
  | trialWindowEnd (p : Fin 32)
  /-- SEQ_NOP (R78): Sequencer no-operation; charges 1 unit. -/
  | seqNop (f : SeqF)
  /-- SEQ_ADD (R78): sD gets A + B modulo 2^64. -/
  | seqAdd (f : SeqF)
  /-- SEQ_SUB (R78): sD gets A - B modulo 2^64. -/
  | seqSub (f : SeqF)
  /-- SEQ_MUL (R78): sD gets the low 64 bits of A x B; occupies the context for 4 fc. -/
  | seqMul (f : SeqF)
  /-- SEQ_MULH (R78): sD gets the high 64 bits of the signed product. -/
  | seqMulh (f : SeqF)
  /-- SEQ_MULHU (R78): sD gets the high 64 bits of the unsigned product. -/
  | seqMulhu (f : SeqF)
  /-- DIVU (R78): Unsigned divide, 2^64-1 on divide by zero; occupies the context for 66 fc. -/
  | divu (f : SeqF)
  /-- REMU (R78): Unsigned remainder, the dividend on divide by zero. -/
  | remu (f : SeqF)
  /-- SEQ_AND (R78): Bitwise AND of two registers. -/
  | seqAnd (f : SeqF)
  /-- SEQ_OR (R78): Bitwise OR of two registers. -/
  | seqOr (f : SeqF)
  /-- SEQ_XOR (R78): Bitwise XOR of two registers. -/
  | seqXor (f : SeqF)
  /-- SEQ_SHL (R78): Shift left by B[5:0]. -/
  | seqShl (f : SeqF)
  /-- SEQ_SHR (R78): Logical shift right by B[5:0]. -/
  | seqShr (f : SeqF)
  /-- SEQ_SRA (R78): Arithmetic shift right by B[5:0]. -/
  | seqSra (f : SeqF)
  /-- SEQ_MIN (R78): Signed minimum. -/
  | seqMin (f : SeqF)
  /-- SEQ_MAX (R78): Signed maximum. -/
  | seqMax (f : SeqF)
  /-- SEQ_MINU (R78): Unsigned minimum. -/
  | seqMinu (f : SeqF)
  /-- SEQ_MAXU (R78): Unsigned maximum. -/
  | seqMaxu (f : SeqF)
  /-- SEQ_CLZ (R78): Count of leading zero bits of A. -/
  | seqClz (f : SeqF)
  /-- SEQ_POPC (R78): Count of one bits of A. -/
  | seqPopc (f : SeqF)
  /-- ADDI (R79): sD gets A plus the sign-extended immediate. -/
  | addi (f : SeqF)
  /-- ANDI (R79): AND with the sign-extended immediate. -/
  | andi (f : SeqF)
  /-- ORI (R79): OR with the sign-extended immediate. -/
  | ori (f : SeqF)
  /-- XORI (R79): XOR with the sign-extended immediate. -/
  | xori (f : SeqF)
  /-- SHLI (R79): Shift left by an immediate from 0 to 63. -/
  | shli (f : SeqF)
  /-- SHRI (R79): Logical shift right by an immediate. -/
  | shri (f : SeqF)
  /-- SRAI (R79): Arithmetic shift right by an immediate. -/
  | srai (f : SeqF)
  /-- MOVI (R79): sD gets the sign-extended immediate. -/
  | movi (f : SeqF)
  /-- MOVHI (R79): sD gets IMM in the upper half and A[31:0] in the lower half. -/
  | movhi (f : SeqF)
  /-- SEQ_SEL (R80): sD gets A or B according to predicate p[IMM]. -/
  | seqSel (f : SeqF)
  /-- SEQ_CEQ (R81): Predicate gets A = B. -/
  | seqCeq (f : SeqF)
  /-- SEQ_CNE (R81): Predicate gets A != B. -/
  | seqCne (f : SeqF)
  /-- SEQ_CLT (R81): Predicate gets signed A < B. -/
  | seqClt (f : SeqF)
  /-- SEQ_CLTU (R81): Predicate gets unsigned A < B. -/
  | seqCltu (f : SeqF)
  /-- SEQ_CLE (R81): Predicate gets signed A <= B. -/
  | seqCle (f : SeqF)
  /-- SEQ_CLEU (R81): Predicate gets unsigned A <= B. -/
  | seqCleu (f : SeqF)
  /-- CEQI (R81): Predicate gets A equal to the sign-extended immediate. -/
  | ceqi (f : SeqF)
  /-- CLTI (R81): Predicate gets signed A below the immediate. -/
  | clti (f : SeqF)
  /-- PAND (R81): Predicate AND of two predicates. -/
  | pand (f : SeqF)
  /-- POR (R81): Predicate OR of two predicates. -/
  | por (f : SeqF)
  /-- PNOT (R81): Predicate NOT of a predicate. -/
  | pnot (f : SeqF)
  /-- BR (R82): PC-relative branch by a word offset. -/
  | br (f : SeqF)
  /-- JMP (R82): Jump to register plus immediate. -/
  | jmp (f : SeqF)
  /-- CALL (R82): Save the return address in sD and branch. -/
  | call (f : SeqF)
  /-- RET (R82): PC gets the value of sA. -/
  | ret (f : SeqF)
  /-- WANY (R84): Wait until some tag of the mask is set. -/
  | wany (f : SeqF)
  /-- WALL (R84): Wait until every tag of the mask is set. -/
  | wall (f : SeqF)
  /-- FFR (R84): sD gets the index of the lowest set tag in the mask, or 64. -/
  | ffr (f : SeqF)
  /-- TCLR (R84): Clear the masked TAGS bits; a completion in the same fc wins. -/
  | tclr (f : SeqF)
  /-- WFE (R85): Commit to gating the context unless a wake event arrives by the commit cycle. -/
  | wfe (f : SeqF)
  /-- WAKE (R85): Set the event latch of the named contexts of the paddock. -/
  | wake (f : SeqF)
  /-- LD (R87): Load n bits, zero-extended. -/
  | ld (f : SeqF)
  /-- LDS (R87): Load n bits, sign-extended. -/
  | lds (f : SeqF)
  /-- ST (R87): Store n bits of sB. -/
  | st (f : SeqF)
  /-- LDA (R87): Load with acquire ordering. -/
  | lda (f : SeqF)
  /-- STL (R87): Store with release ordering. -/
  | stl (f : SeqF)
  /-- AADD (R88): Atomic add that returns the old value. -/
  | aadd (f : SeqF)
  /-- ASWP (R88): Atomic swap. -/
  | aswp (f : SeqF)
  /-- ACAS (R88): Atomic compare-and-swap against sD. -/
  | acas (f : SeqF)
  /-- AMIN (R88): Atomic signed minimum. -/
  | amin (f : SeqF)
  /-- AMAX (R88): Atomic signed maximum. -/
  | amax (f : SeqF)
  /-- AOR (R88): Atomic OR. -/
  | aor (f : SeqF)
  /-- AAND (R88): Atomic AND. -/
  | aand (f : SeqF)
  /-- SEQ_FENCE (R89): Complete when every earlier access of the context is performed at the named scope. -/
  | seqFence (f : SeqF)
  /-- SEQ_PREF (R90): Ask that a line be brought into L2; never traps. -/
  | seqPref (f : SeqF)
  /-- RGNA (R144): Place a region bid and wait for admission; with TRY, withdraw it at once if it does not fit. -/
  | rgna (f : SeqF)
  /-- RGNF (R146): Free a region after it drains, or discard its tokens. -/
  | rgnf (f : SeqF)
  /-- CFGL (R131): Check a configuration image and load it into a resident slot. -/
  | cfgl (f : SeqF)
  /-- CFGA (R145): Make a resident slot active, after a drain or by force. -/
  | cfga (f : SeqF)
  /-- SPLC (R137): Arm a splice to a successor slot. -/
  | splc (f : SeqF)
  /-- RFOLD (R141): Fold a saved region onto fewer rows. -/
  | rfold (f : SeqF)
  /-- RFOLD_UNFOLD (R142): RFOLD with factor 0 bids for the vacated rows and reloads the full image. -/
  | rfoldUnfold (f : SeqF)
  /-- QWAIT (R146): Wait until the region is drained, quiescent, halted or frozen, and return the status. -/
  | qwait (f : SeqF)
  /-- TOKSV (R139): Freeze a region and save its element state and tokens. -/
  | toksv (f : SeqF)
  /-- TOKRS (R140): Check a save area and restore a frozen region from it. -/
  | tokrs (f : SeqF)
  /-- DECB (R136): Place a decision broadcast on a region. -/
  | decb (f : SeqF)
  /-- RGNS (R146): Return region status, flags, DROP count or held tokens. -/
  | rgns (f : SeqF)
  /-- SEQ_CHAPP (R248): Attach a chain from its control block. -/
  | seqChapp (f : SeqF)
  /-- SEQ_CHTL (R249): Raise a chain's TAIL to announce entries. -/
  | seqChtl (f : SeqF)
  /-- SEQ_CHSQ (R250): Return DONE, TAIL, NEXT or the status of a chain. -/
  | seqChsq (f : SeqF)
  /-- CHWT (R251): Wait until a chain reaches a sequence number, halts or stops. -/
  | chwt (f : SeqF)
  /-- LNCH (R262): Check a task record, carve budgets, place a task bid and return a handle. -/
  | lnch (f : SeqF)
  /-- TSKQ (R278): Return the status, CONTPT, yield code or CFGID of a task. -/
  | tskq (f : SeqF)
  /-- BSPL (R271): Move budget from the context to a task. -/
  | bspl (f : SeqF)
  /-- BTOP (R278): Create budget for a task or context; requires TOPUP. -/
  | btop (f : SeqF)
  /-- BRD (R278): Read a task's budget or debt. -/
  | brd (f : SeqF)
  /-- YLD (R278): Wait until every enforced context counter is positive. -/
  | yld (f : SeqF)
  /-- CONT (R278): Set the continuation save area. -/
  | cont (f : SeqF)
  /-- TRACE_OFF (R278): TRACE mode 0 stops recording or binding. -/
  | traceOff (f : SeqF)
  /-- TRACE_RECORD (R274): TRACE mode 1 records dispatch events into a buffer. -/
  | traceRecord (f : SeqF)
  /-- TRACE_BIND (R275): TRACE mode 2 binds admissions to a recorded trace. -/
  | traceBind (f : SeqF)
  /-- TRACE_READ (R278): TRACE mode 3 only reads the trace status. -/
  | traceRead (f : SeqF)
  /-- JSUB (R308): Start a journal subscription into a ring. -/
  | jsub (f : SeqF)
  /-- JUNS (R308): End a journal subscription. -/
  | juns (f : SeqF)
  /-- JPIN (R301): Pin the journal at the current version over a scope. -/
  | jpin (f : SeqF)
  /-- JUPN (R308): Release the journal pin. -/
  | jupn (f : SeqF)
  /-- JRD (R308): Copy one journal record as a snapshot. -/
  | jrd (f : SeqF)
  /-- JPRP (R289): Append a change proposal from a request block. -/
  | jprp (f : SeqF)
  /-- JREV (R298): Revert the closure of a record, or withdraw a proposal. -/
  | jrev (f : SeqF)
  /-- JRPL (R304): Check and replay records of another journal. -/
  | jrpl (f : SeqF)
  /-- JBASE (R308): Set the journal area. -/
  | jbase (f : SeqF)
  /-- JVER (R308): Return the journal version, optionally waiting for a version. -/
  | jver (f : SeqF)
  /-- TRAP (R329): Take a precise software trap 0x80 + code. -/
  | trap (f : SeqF)
  /-- ERET (R330): Return from a trap and resume trapped regions unless KEEP is set. -/
  | eret (f : SeqF)
  /-- CSRR (R331): Read a CSR. -/
  | csrr (f : SeqF)
  /-- CSRW (R331): Write the RW fields of a CSR. -/
  | csrw (f : SeqF)
  /-- MCPOP_READ (R199): A CSRR of MCPOP removes and returns one carry capture entry. -/
  | mcpopRead (f : SeqF)
  /-- HALT (R332): Halt the context with CODE 0x00. -/
  | halt (f : SeqF)
  /-- BKPT (R329): Take a precise BREAK trap. -/
  | bkpt (f : SeqF)
  /-- PGATE_STATUS (R333): Return a paddock's gate status. -/
  | pgateStatus (f : SeqF)
  /-- PGATE_CLOSE (R320): Close a paddock's gate. -/
  | pgateClose (f : SeqF)
  /-- PGATE_OPEN (R320): Open a member paddock's gate. -/
  | pgateOpen (f : SeqF)
  /-- PGATE_RESET (R326): Reset a single paddock. -/
  | pgateReset (f : SeqF)
  /-- PGATE_FREQ (R327): Set a paddock's frequency ceiling. -/
  | pgateFreq (f : SeqF)
  /-- PGATE_FORM (R321): Form a partition from a mask of paddocks. -/
  | pgateForm (f : SeqF)
  /-- STIL_CLOSE (R334): Close a stile. -/
  | stilClose (f : SeqF)
  /-- STIL_CHANNEL (R323): Open a channel stile between two paddocks. -/
  | stilChannel (f : SeqF)
  /-- STIL_MEMORY (R324): Open a memory stile window. -/
  | stilMemory (f : SeqF)
  /-- CTXS (R335): Stop a context and save it. -/
  | ctxs (f : SeqF)
  /-- CTXR (R335): Restore a saved or halted context, optionally running it. -/
  | ctxr (f : SeqF)
  /-- FAB_NOP (R100): Element no-operation. -/
  | fabNop (f : FabF)
  /-- MOV (R101): Move a value or token, keeping its header. -/
  | mov (f : FabF)
  /-- FAB_ADD (R100): 32-bit add with carry flag. -/
  | fabAdd (f : FabF)
  /-- FAB_SUB (R100): 32-bit subtract with borrow flag. -/
  | fabSub (f : FabF)
  /-- FAB_MUL (R100): Low 32 bits of the product. -/
  | fabMul (f : FabF)
  /-- FAB_MULH (R100): High 32 bits of the signed product. -/
  | fabMulh (f : FabF)
  /-- FAB_MULHU (R100): High 32 bits of the unsigned product. -/
  | fabMulhu (f : FabF)
  /-- ADDSAT (R100): Signed saturating add that sets SAT. -/
  | addsat (f : FabF)
  /-- FAB_AND (R100): Bitwise AND. -/
  | fabAnd (f : FabF)
  /-- FAB_OR (R100): Bitwise OR. -/
  | fabOr (f : FabF)
  /-- FAB_XOR (R100): Bitwise XOR. -/
  | fabXor (f : FabF)
  /-- ANDN (R100): a AND NOT b. -/
  | andn (f : FabF)
  /-- FAB_SHL (R100): Shift left by b[4:0]. -/
  | fabShl (f : FabF)
  /-- FAB_SHR (R100): Logical shift right. -/
  | fabShr (f : FabF)
  /-- FAB_SRA (R100): Arithmetic shift right. -/
  | fabSra (f : FabF)
  /-- ROT (R100): Rotate left. -/
  | rot (f : FabF)
  /-- FAB_MIN (R100): Signed minimum. -/
  | fabMin (f : FabF)
  /-- FAB_MAX (R100): Signed maximum. -/
  | fabMax (f : FabF)
  /-- FAB_MINU (R100): Unsigned minimum. -/
  | fabMinu (f : FabF)
  /-- FAB_MAXU (R100): Unsigned maximum. -/
  | fabMaxu (f : FabF)
  /-- FAB_CEQ (R100): 1 if a = b. -/
  | fabCeq (f : FabF)
  /-- FAB_CNE (R100): 1 if a != b. -/
  | fabCne (f : FabF)
  /-- FAB_CLT (R100): 1 if a < b, signed. -/
  | fabClt (f : FabF)
  /-- FAB_CLTU (R100): 1 if a < b, unsigned. -/
  | fabCltu (f : FabF)
  /-- FAB_CLE (R100): 1 if a <= b, signed. -/
  | fabCle (f : FabF)
  /-- FAB_CLEU (R100): 1 if a <= b, unsigned. -/
  | fabCleu (f : FabF)
  /-- FAB_SEL (R100): Select a or b by predicate p[PD]. -/
  | fabSel (f : FabF)
  /-- FAB_CLZ (R100): Leading zero count of b. -/
  | fabClz (f : FabF)
  /-- FAB_POPC (R100): One-bit count of b. -/
  | fabPopc (f : FabF)
  /-- BFX (R100): Extract a bit field. -/
  | bfx (f : FabF)
  /-- BFI (R100): Insert a bit field into the destination local. -/
  | bfi (f : FabF)
  /-- AGEN (R100): Base plus index scaled by 2^PD. -/
  | agen (f : FabF)
  /-- STEER (R113): Send a token to one of two outputs by a value, optionally with a decision token. -/
  | steer (f : FabF)
  /-- STEERD (R113): Send a token to one of two outputs by bit 0 of a decision. -/
  | steerd (f : FabF)
  /-- MRGO (R113): Ordered merge guided by decision tokens. -/
  | mrgo (f : FabF)
  /-- MRGA (R116): Arrival-order merge. -/
  | mrga (f : FabF)
  /-- GATE (R113): Pass a token only when b != 0. -/
  | gate (f : FabF)
  /-- DROP (R113): Discard the head of a channel. -/
  | drop (f : FabF)
  /-- REPL (R115): Replicate a token a times. -/
  | repl (f : FabF)
  /-- EOSG (R113): Emit an end-of-stream token. -/
  | eosg (f : FabF)
  /-- EOSD (R113): Pass a token with EOS cleared. -/
  | eosd (f : FabF)
  /-- ITER (R115): Generate a + RC values up to b, then an end-of-stream token. -/
  | iter (f : FabF)
  /-- LEXIT (R118): Emit an exit decision naming the exit iteration. -/
  | lexit (f : FabF)
  /-- SQSH (R119): Squash tokens of iterations beyond an armed exit. -/
  | sqsh (f : FabF)
  /-- CNTE (R115): Count tokens until EOS, then emit the count. -/
  | cnte (f : FabF)
  /-- INFL (R121): Track tokens in flight and announce zero with a decision. -/
  | infl (f : FabF)
  /-- DECI (R122): Emit a decision token or offer a region decision broadcast. -/
  | deci (f : FabF)
  /-- PLOG (R113): Emit the predicates masked by b. -/
  | plog (f : FabF)
  /-- SKIPA (R113): Read and consume a head's SKIP count in one firing. -/
  | skipa (f : FabF)
  /-- FMTS (R113): Steer a data token by whether its TAG equals FMTA. -/
  | fmts (f : FabF)
  /-- PROGM (R113): Pass a token marked with PRG. -/
  | progm (f : FabF)
  /-- HALTE (R114): Halt the element until its next activation. -/
  | halte (f : FabF)
  /-- SLD (R169): Load a scratchpad word. -/
  | sld (f : FabF)
  /-- SLDV (R169): Load sixteen scratchpad words as a vector token. -/
  | sldv (f : FabF)
  /-- SST (R169): Store a scratchpad word. -/
  | sst (f : FabF)
  /-- SSTV (R169): Store a vector token into sixteen scratchpad words. -/
  | sstv (f : FabF)
  /-- SLDF (R170): Load a word once it is full, leaving it full. -/
  | sldf (f : FabF)
  /-- SLDE (R170): Load a word once it is full, and empty it. -/
  | slde (f : FabF)
  /-- SSTF (R170): Store a word and set it full. -/
  | sstf (f : FabF)
  /-- SSTW (R170): Store a word once it is empty, and set it full. -/
  | sstw (f : FabF)
  /-- SFE (R170): Set or clear the full/empty bits of a range of words. -/
  | sfe (f : FabF)
  /-- SAADD (R171): Scratchpad atomic add. -/
  | saadd (f : FabF)
  /-- SAMIN (R171): Scratchpad atomic signed minimum. -/
  | samin (f : FabF)
  /-- SAMAX (R171): Scratchpad atomic signed maximum. -/
  | samax (f : FabF)
  /-- SAOR (R171): Scratchpad atomic OR. -/
  | saor (f : FabF)
  /-- SAAND (R171): Scratchpad atomic AND. -/
  | saand (f : FabF)
  /-- SACAS (R171): Scratchpad atomic compare-and-swap. -/
  | sacas (f : FabF)
  /-- STAS (R171): Scratchpad test-and-set: claim a zero word. -/
  | stas (f : FabF)
  /-- GLD (R172): Global 32-bit load. -/
  | gld (f : FabF)
  /-- GLDV (R172): Global 64-byte vector load. -/
  | gldv (f : FabF)
  /-- GST (R172): Global 32-bit store. -/
  | gst (f : FabF)
  /-- GSTV (R172): Global 64-byte vector store. -/
  | gstv (f : FabF)
  /-- GAADD (R172): Global atomic add. -/
  | gaadd (f : FabF)
  /-- GACAS (R172): Global atomic compare-and-swap. -/
  | gacas (f : FabF)
  /-- GATH (R173): Gather one row of tokens through the coalescer and reorder area. -/
  | gath (f : FabF)
  /-- SCAT (R174): Scatter a 64-byte token to an indexed line. -/
  | scat (f : FabF)
  /-- OJOIN (R176): Join ordering tokens into one. -/
  | ojoin (f : FabF)
  /-- FAB_FENCE (R177): Wait until the element's earlier requests are performed at a scope, then emit a token. -/
  | fabFence (f : FabF)
  /-- FAB_PREF (R175): Prefetch a line into L1; never traps. -/
  | fabPref (f : FabF)
  /-- AGS (R175): Set a segment base of the E tile. -/
  | ags (f : FabF)
  /-- MLDB (R190): Decode a token into the cells of one 16-row group. -/
  | mldb (f : FabF)
  /-- MFIRE (R194): Fire a bit-serial matrix pass over row groups. -/
  | mfire (f : FabF)
  /-- MANCH (R204): Set the accumulation anchor. -/
  | manch (f : FabF)
  /-- MZERO (R204): Zero the accumulators and empty the carry capture buffer. -/
  | mzero (f : FabF)
  /-- MDRN (R203): Drain columns through zero point and scale and round them once. -/
  | mdrn (f : FabF)
  /-- MSCL (R205): Set column scale and zero point. -/
  | mscl (f : FabF)
  /-- MCBK (R192): Write a codebook register. -/
  | mcbk (f : FabF)
  /-- MCARRY_CFG (R206): Configure carry capture capacity, policy and tag. -/
  | mcarryCfg (f : FabF)
  /-- MCARRY_EXP (R206): Remove every carry entry for export as spill tokens. -/
  | mcarryExp (f : FabF)
  /-- MCARRY_CNT (R206): Return the number of carry entries in use. -/
  | mcarryCnt (f : FabF)
  /-- MSTAT (R207): Return matrix status, a body or a high word. -/
  | mstat (f : FabF)
  /-- MSWAP (R194): Fire a pass on bank BSEL and toggle BSEL. -/
  | mswap (f : FabF)
  /-- VADD (R218): Lane-wise floating add, rounded once. -/
  | vadd (f : FabF)
  /-- VSUB (R218): Lane-wise floating subtract. -/
  | vsub (f : FabF)
  /-- VMUL (R218): Lane-wise floating multiply. -/
  | vmul (f : FabF)
  /-- VFMA (R218): Lane-wise fused multiply-add into the destination. -/
  | vfma (f : FabF)
  /-- VMIN (R218): Lane-wise minimum. -/
  | vmin (f : FabF)
  /-- VMAX (R218): Lane-wise maximum. -/
  | vmax (f : FabF)
  /-- VABS (R218): Lane-wise absolute value. -/
  | vabs (f : FabF)
  /-- VNEG (R218): Lane-wise negation. -/
  | vneg (f : FabF)
  /-- VEX2 (R218): Lane-wise 2^y. -/
  | vex2 (f : FabF)
  /-- VLG2 (R218): Lane-wise log2. -/
  | vlg2 (f : FabF)
  /-- VRCP (R218): Lane-wise reciprocal. -/
  | vrcp (f : FabF)
  /-- VRSQ (R218): Lane-wise reciprocal square root. -/
  | vrsq (f : FabF)
  /-- VSCL (R218): Scale lanes by 2^n. -/
  | vscl (f : FabF)
  /-- VCMP (R219): Compare lanes into a bit mask. -/
  | vcmp (f : FabF)
  /-- VSEL (R219): Select lanes by a mask local. -/
  | vsel (f : FabF)
  /-- VSHF (R220): Shuffle lanes. -/
  | vshf (f : FabF)
  /-- VBCST (R220): Broadcast a scalar to every lane. -/
  | vbcst (f : FabF)
  /-- VSUMX_INIT (R230): Initialise an XACC with an anchor. -/
  | vsumxInit (f : FabF)
  /-- VSUMX_ACC (R230): Add lanes to an XACC exactly at the anchor. -/
  | vsumxAcc (f : FabF)
  /-- VSUMX_FOLD (R230): Add or subtract one XACC into another. -/
  | vsumxFold (f : FabF)
  /-- VSUMX_OUT (R230): Round an XACC into lane 0. -/
  | vsumxOut (f : FabF)
  /-- VMAXR (R231): Return the largest lane or magnitude as FP32. -/
  | vmaxr (f : FabF)
  /-- VCVT (R222): Convert lanes to another format. -/
  | vcvt (f : FabF)
  /-- VQMX (R227): Quantise a 32-element block to MX format. -/
  | vqmx (f : FabF)
  /-- VQI4 (R227): Quantise a 32-element block to signed INT4. -/
  | vqi4 (f : FabF)
  /-- VLUT (R224): Decode Q4 codes into floating lanes. -/
  | vlut (f : FabF)
  /-- VPS8_MUL (R225): VPS8 with ENC 0 multiplies lanes by PS8 values. -/
  | vps8Mul (f : FabF)
  /-- VPS8_ENC (R225): VPS8 with ENC 1 encodes lanes as PS8 codes. -/
  | vps8Enc (f : FabF)
  /-- VSR (R223): Stochastically round FP32 lanes to a narrower precision. -/
  | vsr (f : FabF)
  /-- VNF (R231): Scan lanes for non-finite, subnormal and zero values. -/
  | vnf (f : FabF)
  /-- VPACK (R220): Pack lanes into the destination. -/
  | vpack (f : FabF)
  /-- VUNPK (R220): Unpack a range of lanes. -/
  | vunpk (f : FabF)
  /-- VLOG (R220): Bitwise logic over 512 bits. -/
  | vlog (f : FabF)
  /-- VIADD (R221): Integer lane add or subtract with wrap or clamp. -/
  | viadd (f : FabF)
  /-- VIMUL (R221): Integer lane multiply. -/
  | vimul (f : FabF)
  /-- VMOV (R226): Move a vector with its side bits. -/
  | vmov (f : FabF)
  /-- FAB_CHAPP (R256): Fabric node attaches a chain. -/
  | fabChapp (f : FabF)
  /-- FAB_CHTL (R256): Fabric node adds b to a chain's TAIL. -/
  | fabChtl (f : FabF)
  /-- FAB_CHSQ (R256): Fabric node reads a chain value. -/
  | fabChsq (f : FabF)
  /-- MSEND (R253): Send a one- or two-word message to a label. -/
  | msend (f : FabF)
  /-- TAGSET (R255): Set a tag in the launching context once earlier requests are performed. -/
  | tagset (f : FabF)
  /-- YIELDE (R273): Mark a continuation point at which the task gives up its region. -/
  | yielde (f : FabF)
  /-- BUDQ (R280): Read the task's budget or debt. -/
  | budq (f : FabF)
  /-- TRAPE (R337): Fire and stop the element with ELEMENT_TRAP. -/
  | trape (f : FabF)
  /-- BRKE (R337): Fire and stop the element with BREAK. -/
  | brke (f : FabF)
deriving DecidableEq, Repr

end Sys2Proof
end

