-- ==== Sys2Proof/Machine/Fields.lean ====
section
/-! DEFINITION. Which fields each opcode uses: the checks R31 makes of a sequencer word at issue and the checks R28
makes of an instruction slot at CFGL that need nothing but the word. The checks that need the tile's header or its
routes are in Machine/Image.lean. -/

namespace Sys2Proof.Machine

/-! ## Sequencer words (R29 to R31) -/

/-- How a register field of a sequencer word is used (R30). -/
inductive RegUse where
  | none | reg | pred
deriving DecidableEq, Repr

/-- The fields one sequencer opcode uses (R31, and the class tables 5-4 to 16-7): register fields, the IMM bits that
may be set and the largest value they may hold, and how W is used (0 not a width, 1 any width, 2 an atomic's). -/
structure SeqUse where
  d : RegUse := .none
  a : RegUse := .none
  b : RegUse := .none
  immMask : BitVec 32 := 0
  immMax : Nat := 0xFFFFFFFF
  width : Nat := 0
deriving DecidableEq, Repr

/-- The field uses of every opcode of Table 3-12; none for a reserved value (R43). -/
def seqUse (opc : BitVec 8) : Option SeqUse :=
  let n := opc.toNat
  let all : BitVec 32 := 0xFFFFFFFF
  if n = 0x00 then some {}
  else if n ≤ 0x11 then some { d := .reg, a := .reg, b := .reg }
  else if n ≤ 0x13 then some { d := .reg, a := .reg }
  else if n ≤ 0x17 then some { d := .reg, a := .reg, immMask := all }
  else if n ≤ 0x1A then some { d := .reg, a := .reg, immMask := 0x3F }
  else if n = 0x1B then some { d := .reg, immMask := all }
  else if n = 0x1C then some { d := .reg, a := .reg, immMask := all }
  else if n = 0x1D then some { d := .reg, a := .reg, b := .reg, immMask := 7 }
  else if n ≤ 0x23 then some { d := .pred, a := .reg, b := .reg }
  else if n ≤ 0x25 then some { d := .pred, a := .reg, immMask := all }
  else if n ≤ 0x27 then some { d := .pred, a := .pred, b := .pred }
  else if n = 0x28 then some { d := .pred, a := .pred }
  else if n ≤ 0x3F then none
  else if n = 0x40 then some { immMask := all }
  else if n = 0x41 then some { a := .reg, immMask := all }
  else if n = 0x42 then some { d := .reg, immMask := all }
  else if n ≤ 0x45 then some { a := .reg }
  else if n = 0x46 then some { d := .reg, a := .reg }
  else if n = 0x47 then some { a := .reg }
  else if n = 0x48 then some { d := .reg }
  else if n = 0x49 then some { a := .reg }
  else if n ≤ 0x4F then none
  else if n ≤ 0x51 then some { d := .reg, a := .reg, immMask := all, width := 1 }
  else if n = 0x52 then some { a := .reg, b := .reg, immMask := all, width := 1 }
  else if n = 0x53 then some { d := .reg, a := .reg, immMask := all, width := 1 }
  else if n = 0x54 then some { a := .reg, b := .reg, immMask := all, width := 1 }
  else if n ≤ 0x5B then some { d := .reg, a := .reg, b := .reg, immMask := all, width := 2 }
  else if n = 0x5C then some { immMask := all, immMax := 5 }
  else if n = 0x5D then some { a := .reg, immMask := all }
  else if n ≤ 0x5F then none
  else if n = 0x60 then some { d := .reg, a := .reg, immMask := 1 }
  else if n = 0x61 then some { a := .reg, immMask := 1 }
  else if n = 0x62 then some { a := .reg, b := .reg, immMask := 3 }
  else if n = 0x63 then some { a := .reg, immMask := 0xF }
  else if n = 0x64 then some { a := .reg, immMask := 0x1FF }
  else if n = 0x65 then some { a := .reg, b := .reg, immMask := 3, immMax := 2 }
  else if n = 0x66 then some { d := .reg, a := .reg }
  else if n = 0x67 then some { d := .reg, a := .reg, b := .reg }
  else if n ≤ 0x69 then some { a := .reg, b := .reg }
  else if n = 0x6A then some { d := .reg, a := .reg, immMask := 3 }
  else if n ≤ 0x6F then none
  else if n ≤ 0x71 then some { a := .reg, b := .reg }
  else if n = 0x72 then some { d := .reg, a := .reg, immMask := 3 }
  else if n = 0x73 then some { d := .reg, a := .reg, b := .reg }
  else if n ≤ 0x7F then none
  else if n = 0x80 then some { d := .reg, a := .reg, immMask := 0x7F3F }
  else if n = 0x81 then some { d := .reg, a := .reg, immMask := 3 }
  else if n = 0x82 then some { a := .reg, b := .reg, immMask := 1 }
  else if n = 0x83 then some { a := .reg, b := .reg, immMask := 3 }
  else if n = 0x84 then some { d := .reg, a := .reg, immMask := 3 }
  else if n = 0x85 then some {}
  else if n = 0x86 then some { a := .reg }
  else if n = 0x87 then some { d := .reg, a := .reg, b := .reg, immMask := 3 }
  else if n ≤ 0x8F then none
  else if n = 0x90 then some { d := .reg, a := .reg, immMask := 0xFFFF003F }
  else if n = 0x91 then some { a := .reg }
  else if n = 0x92 then some { d := .reg, a := .reg }
  else if n = 0x93 then some { d := .reg }
  else if n = 0x94 then some { d := .reg, a := .reg, b := .reg }
  else if n ≤ 0x96 then some { d := .reg, a := .reg, immMask := 1 }
  else if n = 0x97 then some { d := .reg, a := .reg, b := .reg, immMask := 1 }
  else if n = 0x98 then some { d := .reg, a := .reg, b := .reg }
  else if n = 0x99 then some { d := .reg, a := .reg, immMask := 1 }
  else if n ≤ 0x9F then none
  else if n = 0xA0 then some { immMask := 0x7F }
  else if n = 0xA1 then some { immMask := 1 }
  else if n = 0xA2 then some { d := .reg, immMask := 0xFFF }
  else if n = 0xA3 then some { a := .reg, immMask := 0xFFF }
  else if n = 0xA4 then some {}
  else if n = 0xA5 then some { immMask := 0xFFFF }
  else if n = 0xA6 then some { d := .reg, a := .reg, immMask := 7, immMax := 5 }
  else if n = 0xA7 then some { d := .reg, a := .reg, b := .reg, immMask := 3, immMax := 2 }
  else if n = 0xA8 then some { a := .reg, b := .reg }
  else if n = 0xA9 then some { a := .reg, b := .reg, immMask := 1 }
  else none

/-- A register field against its use: unused is zero, a predicate keeps the upper two bits zero (R30, R81). -/
def RegUse.ok : RegUse → BitVec 5 → Bool
  | .none, x => x == 0
  | .reg, _ => true
  | .pred, x => x.toNat < 8

/-- The checks R31 makes of a sequencer word whose KIND is 0b01. -/
def seqWf (opc : BitVec 8) (f : SeqF) : Bool :=
  match seqUse opc with
  | none => false
  | some u =>
    f.cond != 3 && (f.cond != 0 || f.pc == 0) &&
    u.d.ok f.d && u.a.ok f.a && u.b.ok f.b &&
    (f.imm &&& ~~~u.immMask) == 0 && decide (f.imm.toNat ≤ u.immMax) &&
    (match u.width with
     | 0 => f.w == 0
     | 1 => true
     | _ => decide (2 ≤ f.w.toNat))

/-! ## Fabric words (R25 to R28) -/

/-- What a source position accepts: nothing (SA zero), nothing with K zero, a scalar source, an input channel, a
data-plane channel, a data-plane channel that DQ includes, a vector, a scalar, either (Tables 6-6 to 16-11). -/
inductive SrcUse where
  | zero | zeroK | src | chan | vch | dch | vec | sc | any
deriving DecidableEq, Repr

/-- What DST may name. -/
inductive DstUse where
  | no | scal | local_ | movd | vecr | vreg
deriving DecidableEq, Repr

/-- The outputs an opcode may name and the plane they must lie on. -/
inductive OutUse where
  | any | none | some_ | two | twoThree | ctl | ctlSome | data | dataSome
deriving DecidableEq, Repr

/-- How PD is used: the predicate PU updates, an operand no larger than n (PU is then zero), or not at all. -/
inductive PdUse where
  | pu | op (max : Nat) | zero
deriving DecidableEq, Repr

structure FabUse where
  sa : SrcUse := .zero
  sb : SrcUse := .src
  dst : DstUse := .scal
  om : OutUse := .any
  pd : PdUse := .pu
deriving DecidableEq, Repr

/-- The field uses of every opcode of Table 3-10 in the form that PD selects; none for a reserved value. -/
def fabUse (opc : BitVec 8) (pd : BitVec 3) : Option FabUse :=
  let n := opc.toNat
  let d := pd.toNat
  if n = 0x00 then some { sb := .zeroK, dst := .no, om := .none }
  else if n = 0x01 then some { sb := .any, dst := .movd }
  else if n ≤ 0x1A then some { sa := .src }
  else if n ≤ 0x1C then some {}
  else if n = 0x1D then some { sa := .src }
  else if n = 0x1E then some { sa := .src, dst := .local_ }
  else if n = 0x1F then some { sa := .src, pd := .op 7 }
  else if n ≤ 0x3F then none
  else if n = 0x40 then some { sa := .src, dst := .no, om := .twoThree }
  else if n = 0x41 then some { sa := .src, sb := .chan, dst := .no, om := .two }
  else if n ≤ 0x43 then some { sb := .chan, dst := .movd }
  else if n = 0x44 then some { sa := .src, dst := .movd }
  else if n = 0x45 then some { sb := .chan, dst := .no, om := .none }
  else if n = 0x46 then some { sa := .src, dst := .movd }
  else if n = 0x47 then some { sb := .zeroK, dst := .no, om := .some_ }
  else if n = 0x48 then some { sb := .chan, dst := .movd }
  else if n = 0x49 then some { sa := .src }
  else if n = 0x4A then some { sa := .src, dst := .no, om := .ctlSome }
  else if n = 0x4B then some { sb := .chan, dst := .movd }
  else if n = 0x4C then some { sb := .chan }
  else if n = 0x4D then some { sa := .src, dst := .local_, om := .ctl }
  else if n = 0x4E then some { dst := .no, om := .ctl }
  else if n = 0x4F then some {}
  else if n = 0x50 then some { sb := .vch }
  else if n = 0x51 then some { sb := .vch, dst := .no, om := .two }
  else if n = 0x52 then some { dst := .movd, om := .dataSome }
  else if n = 0x53 then some { sb := .zeroK, dst := .no, om := .none }
  else if n ≤ 0x5F then none
  else if n = 0x60 then some {}
  else if n = 0x61 then some { dst := .no, om := .dataSome, pd := .op 1 }
  else if n = 0x62 then some { sa := .src, dst := .no, om := .ctl }
  else if n = 0x63 then some { sa := .vch, dst := .no, om := .ctl, pd := .op 1 }
  else if n ≤ 0x65 then some {}
  else if n ≤ 0x68 then some { sa := .src, dst := .no, om := .ctl }
  else if n ≤ 0x6D then some { sa := .src }
  else if n = 0x6E then some { sa := .src, dst := .local_ }
  else if n = 0x6F then some { sa := .src }
  else if n = 0x70 then some {}
  else if n = 0x71 then some { dst := .no, om := .dataSome, pd := .op 1 }
  else if n = 0x72 then some { sa := .src, dst := .no, om := .ctl }
  else if n = 0x73 then some { sa := .vch, dst := .no, om := .ctl, pd := .op 1 }
  else if n = 0x74 then some { sa := .src }
  else if n = 0x75 then some { sa := .src, dst := .local_ }
  else if n = 0x76 then some { sa := .src, dst := .no, om := .dataSome, pd := .op 3 }
  else if n = 0x77 then some { sa := .vch, dst := .local_, om := .ctl, pd := .zero }
  else if n = 0x78 then some { sb := .zeroK, dst := .no, om := .ctlSome }
  else if n = 0x79 then some { sb := .zeroK, dst := .no, om := .ctl, pd := .op 5 }
  else if n = 0x7A then some { dst := .no, om := .none, pd := .zero }
  else if n = 0x7B then some { sa := .src, dst := .no, om := .ctl, pd := .op 3 }
  else if n ≤ 0x7F then none
  else if n ≤ 0x81 then some { sa := .dch, dst := .no, om := .ctl }
  else if n = 0x82 then some { dst := .no, om := .ctl }
  else if n = 0x83 then some { sb := .zeroK, dst := .no, om := .ctl }
  else if n = 0x84 then some { sa := if d = 1 then .dch else .zero, dst := .vecr, om := .data, pd := .op 1 }
  else if n ≤ 0x86 then some { sa := .src, dst := .no, om := .ctl }
  else if n = 0x87 then
    if d = 0 then some { dst := .no, om := .ctl, pd := .op 2 }
    else if d = 1 then some { sb := .zeroK, dst := .no, om := .dataSome, pd := .op 2 }
    else some { sb := .zeroK, pd := .op 2 }
  else if n = 0x88 then some {}
  else if n = 0x89 then some { sa := .dch, dst := .no, om := .ctl }
  else if n ≤ 0x9F then none
  else if n ≤ 0xA2 then some { sa := .any, sb := .any, dst := .vecr, om := .data }
  else if n = 0xA3 then some { sa := .any, sb := .any, dst := .vreg, om := .data }
  else if n ≤ 0xA5 then some { sa := .any, sb := .any, dst := .vecr, om := .data }
  else if n ≤ 0xAB then some { sb := .any, dst := .vecr, om := .data }
  else if n = 0xAC then some { sa := .vec, sb := .sc, dst := .vecr, om := .data }
  else if n = 0xAD then some { sa := .any, sb := .any, pd := .op 7 }
  else if n = 0xAE then some { sa := .any, sb := .any, dst := .vecr, om := .data, pd := .op 7 }
  else if n = 0xAF then some { sa := .vec, sb := .sc, dst := .vecr, om := .data }
  else if n = 0xB0 then some { sb := .sc, dst := .vecr, om := .data }
  else if n = 0xB1 then
    some { sa := if d = 0 then .zero else .vec, sb := .sc, dst := .vreg, om := .data, pd := .op 3 }
  else if n = 0xB2 then some { sb := .vec, pd := .op 1 }
  else if n = 0xB3 then some { sa := .vec, sb := .sc, dst := .vecr, om := .data }
  else if n ≤ 0xB5 then some { sa := .vec, sb := .vec, dst := .vreg, om := .data, pd := .op 3 }
  else if n = 0xB6 then some { sa := .vec, sb := .sc, dst := .vecr, om := .data, pd := .op 7 }
  else if n = 0xB7 then
    if d < 4 then some { sa := .vec, sb := .vec, dst := .vecr, om := .data, pd := .op 7 }
    else some { sb := .any, dst := .vecr, om := .data, pd := .op 7 }
  else if n = 0xB8 then some { sb := .vec, dst := .vecr, om := .data, pd := .op 5 }
  else if n = 0xB9 then some { sb := .vec }
  else if n = 0xBA then some { sa := .vec, sb := .sc, dst := .vreg, om := .data }
  else if n = 0xBB then some { sa := .vec, sb := .sc, dst := .vecr, om := .data }
  else if n = 0xBC then some { sa := .any, sb := .any, dst := .vecr, om := .data, pd := .op 3 }
  else if n = 0xBD then some { sa := .any, sb := .any, dst := .vecr, om := .data, pd := .op 5 }
  else if n = 0xBE then some { sa := .any, sb := .any, dst := .vecr, om := .data, pd := .op 3 }
  else if n = 0xBF then some { sb := .vec, dst := .vecr, om := .data }
  else if n ≤ 0xDF then none
  else if n ≤ 0xE1 then some { sa := .src, dst := .no, om := .ctl }
  else if n = 0xE2 then some { pd := .op 3 }
  else if n = 0xE3 then some { sa := .src, dst := .no, om := .ctl }
  else if n = 0xE4 then some { dst := .no, om := .ctl }
  else if n ≤ 0xEF then none
  else if n = 0xF0 then some { dst := .no, om := .none }
  else if n = 0xF1 then some { sb := .zeroK, pd := .op 3 }
  else if n ≤ 0xF3 then some { dst := .no, om := .none }
  else none

/-- Whether bit n of a mask is set. -/
def bitAt {w : Nat} (m : BitVec w) (n : Nat) : Bool := m.getLsbD n

/-- A source field against its use, planes aside: the code, K, and that IM includes a channel it names (R28, R97). -/
def SrcUse.ok (u : SrcUse) (im dq : BitVec 4) (code : BitVec 4) (k : Bool) : Bool :=
  let n := code.toNat
  let ch := !k && decide (n < 4)
  let inIm := !ch || bitAt im n
  match u with
  | .zero => n == 0 && !k
  | .zeroK => n == 0 && !k
  | .src => (k || decide (n < 12)) && inIm
  | .chan | .vch => ch && inIm
  | .dch => ch && inIm && bitAt dq n
  | .vec => !k && (decide (n < 4) || decide (12 ≤ n)) && inIm
  | .sc => (k || decide (n < 12)) && inIm
  | .any => inIm

/-- DST against its use (Table 3-5). -/
def DstUse.ok : DstUse → BitVec 4 → Bool
  | .no, x => x == 12
  | .scal, x => decide (x.toNat < 8) || x == 12
  | .local_, x => decide (x.toNat < 8)
  | .movd, x => decide (x.toNat ≤ 12)
  | .vecr, x => decide (8 ≤ x.toNat) && decide (x.toNat ≤ 12)
  | .vreg, x => decide (8 ≤ x.toNat) && decide (x.toNat < 12)

/-- The number of outputs a mask names. -/
def popc4 (m : BitVec 4) : Nat :=
  (bitAt m 0).toNat + (bitAt m 1).toNat + (bitAt m 2).toNat + (bitAt m 3).toNat

/-- OM against its use, planes aside. -/
def OutUse.ok (u : OutUse) (om : BitVec 4) : Bool :=
  match u with
  | .any | .ctl | .data => true
  | .none => om == 0
  | .some_ | .ctlSome | .dataSome => om != 0
  | .two => popc4 om == 2
  | .twoThree => popc4 om == 2 || popc4 om == 3

/-- PU and PD against PD's use (R103, R168, R208, R217, R256, R280). -/
def PdUse.ok (u : PdUse) (pu pd : BitVec 3) : Bool :=
  match u with
  | .pu => true
  | .op m => pu == 0 && decide (pd.toNat ≤ m)
  | .zero => pd == 0

/-- The further checks of single opcodes that need only the word: MRGO, MRGA, DROP, CNTE (R112), OJOIN (R168),
VSR's target (R217). -/
def fabExtra (opc : BitVec 8) (f : FabF) : Bool :=
  let n := opc.toNat
  if n = 0x42 then decide (6 ≤ f.tt.toNat) && (f.tc.toNat != f.sb.toNat) && bitAt f.dq f.tc.toNat && bitAt f.dq f.sb.toNat
  else if n = 0x43 ∨ n = 0x45 ∨ n = 0x4C then bitAt f.dq f.sb.toNat
  else if n = 0x78 then f.im != 0 && f.dq == f.im
  else if n = 0xB8 then decide (2 ≤ f.pd.toNat)
  else if n = 0x01 then f.k || decide (f.sb.toNat < 12) || decide (8 ≤ f.dst.toNat)
  else true

/-- The checks R28 makes of a slot that need only its word. A slot with V = 0 passes them all. -/
def fabWf (opc : BitVec 8) (f : FabF) : Bool :=
  match fabUse opc f.pd with
  | none => false
  | some u =>
    !f.v ||
    (f.pu != 7 && decide (f.dst.toNat ≤ 12) &&
     (f.tt == 0 || bitAt f.im f.tc.toNat) && (f.dq &&& ~~~f.im) == 0 &&
     u.sa.ok f.im f.dq f.sa false && u.sb.ok f.im f.dq f.sb f.k &&
     u.dst.ok f.dst && u.om.ok f.om && u.pd.ok f.pu f.pd && fabExtra opc f)

end Sys2Proof.Machine
end

