-- ==== Sys2Proof/WellFormed.lean ====
section
/-! DEFINITION. Well-formed instructions. A sequencer row is well formed when its fields pass the checks of R31 for its
opcode, a fabric row when they pass the checks of R28 that need only the word; where several rows share an opcode, the
field that tells them apart has the value of the row. An event has only the numbers its types bound. -/

namespace Sys2Proof

open Machine

/-- R31, R28: the fields of an instruction are legal for its opcode. -/
def Instr.wf : Instr → Bool
  | .seqNop f => seqWf 0x00 f
  | .seqAdd f => seqWf 0x01 f
  | .seqSub f => seqWf 0x02 f
  | .seqMul f => seqWf 0x03 f
  | .seqMulh f => seqWf 0x04 f
  | .seqMulhu f => seqWf 0x05 f
  | .divu f => seqWf 0x06 f
  | .remu f => seqWf 0x07 f
  | .seqAnd f => seqWf 0x08 f
  | .seqOr f => seqWf 0x09 f
  | .seqXor f => seqWf 0x0A f
  | .seqShl f => seqWf 0x0B f
  | .seqShr f => seqWf 0x0C f
  | .seqSra f => seqWf 0x0D f
  | .seqMin f => seqWf 0x0E f
  | .seqMax f => seqWf 0x0F f
  | .seqMinu f => seqWf 0x10 f
  | .seqMaxu f => seqWf 0x11 f
  | .seqClz f => seqWf 0x12 f
  | .seqPopc f => seqWf 0x13 f
  | .addi f => seqWf 0x14 f
  | .andi f => seqWf 0x15 f
  | .ori f => seqWf 0x16 f
  | .xori f => seqWf 0x17 f
  | .shli f => seqWf 0x18 f
  | .shri f => seqWf 0x19 f
  | .srai f => seqWf 0x1A f
  | .movi f => seqWf 0x1B f
  | .movhi f => seqWf 0x1C f
  | .seqSel f => seqWf 0x1D f
  | .seqCeq f => seqWf 0x1E f
  | .seqCne f => seqWf 0x1F f
  | .seqClt f => seqWf 0x20 f
  | .seqCltu f => seqWf 0x21 f
  | .seqCle f => seqWf 0x22 f
  | .seqCleu f => seqWf 0x23 f
  | .ceqi f => seqWf 0x24 f
  | .clti f => seqWf 0x25 f
  | .pand f => seqWf 0x26 f
  | .por f => seqWf 0x27 f
  | .pnot f => seqWf 0x28 f
  | .br f => seqWf 0x40 f
  | .jmp f => seqWf 0x41 f
  | .call f => seqWf 0x42 f
  | .ret f => seqWf 0x43 f
  | .wany f => seqWf 0x44 f
  | .wall f => seqWf 0x45 f
  | .ffr f => seqWf 0x46 f
  | .tclr f => seqWf 0x47 f
  | .wfe f => seqWf 0x48 f
  | .wake f => seqWf 0x49 f
  | .ld f => seqWf 0x50 f
  | .lds f => seqWf 0x51 f
  | .st f => seqWf 0x52 f
  | .lda f => seqWf 0x53 f
  | .stl f => seqWf 0x54 f
  | .aadd f => seqWf 0x55 f
  | .aswp f => seqWf 0x56 f
  | .acas f => seqWf 0x57 f
  | .amin f => seqWf 0x58 f
  | .amax f => seqWf 0x59 f
  | .aor f => seqWf 0x5A f
  | .aand f => seqWf 0x5B f
  | .seqFence f => seqWf 0x5C f
  | .seqPref f => seqWf 0x5D f
  | .rgna f => seqWf 0x60 f
  | .rgnf f => seqWf 0x61 f
  | .cfgl f => seqWf 0x62 f
  | .cfga f => seqWf 0x63 f
  | .splc f => seqWf 0x64 f
  | .rfold f => f.imm.toNat != 0 && seqWf 0x65 f
  | .rfoldUnfold f => f.imm.toNat == 0 && seqWf 0x65 f
  | .qwait f => seqWf 0x66 f
  | .toksv f => seqWf 0x67 f
  | .tokrs f => seqWf 0x68 f
  | .decb f => seqWf 0x69 f
  | .rgns f => seqWf 0x6A f
  | .seqChapp f => seqWf 0x70 f
  | .seqChtl f => seqWf 0x71 f
  | .seqChsq f => seqWf 0x72 f
  | .chwt f => seqWf 0x73 f
  | .lnch f => seqWf 0x80 f
  | .tskq f => seqWf 0x81 f
  | .bspl f => seqWf 0x82 f
  | .btop f => seqWf 0x83 f
  | .brd f => seqWf 0x84 f
  | .yld f => seqWf 0x85 f
  | .cont f => seqWf 0x86 f
  | .traceOff f => f.imm.toNat == 0 && seqWf 0x87 f
  | .traceRecord f => f.imm.toNat == 1 && seqWf 0x87 f
  | .traceBind f => f.imm.toNat == 2 && seqWf 0x87 f
  | .traceRead f => f.imm.toNat == 3 && seqWf 0x87 f
  | .jsub f => seqWf 0x90 f
  | .juns f => seqWf 0x91 f
  | .jpin f => seqWf 0x92 f
  | .jupn f => seqWf 0x93 f
  | .jrd f => seqWf 0x94 f
  | .jprp f => seqWf 0x95 f
  | .jrev f => seqWf 0x96 f
  | .jrpl f => seqWf 0x97 f
  | .jbase f => seqWf 0x98 f
  | .jver f => seqWf 0x99 f
  | .trap f => seqWf 0xA0 f
  | .eret f => seqWf 0xA1 f
  | .csrr f => f.imm.toNat != 0x071 && seqWf 0xA2 f
  | .csrw f => seqWf 0xA3 f
  | .mcpopRead f => f.imm.toNat == 0x071 && seqWf 0xA2 f
  | .halt f => seqWf 0xA4 f
  | .bkpt f => seqWf 0xA5 f
  | .pgateStatus f => f.imm.toNat == 0 && seqWf 0xA6 f
  | .pgateClose f => f.imm.toNat == 1 && seqWf 0xA6 f
  | .pgateOpen f => f.imm.toNat == 2 && seqWf 0xA6 f
  | .pgateReset f => f.imm.toNat == 3 && seqWf 0xA6 f
  | .pgateFreq f => f.imm.toNat == 4 && seqWf 0xA6 f
  | .pgateForm f => f.imm.toNat == 5 && seqWf 0xA6 f
  | .stilClose f => f.imm.toNat == 0 && seqWf 0xA7 f
  | .stilChannel f => f.imm.toNat == 1 && seqWf 0xA7 f
  | .stilMemory f => f.imm.toNat == 2 && seqWf 0xA7 f
  | .ctxs f => seqWf 0xA8 f
  | .ctxr f => seqWf 0xA9 f
  | .fabNop f => fabWf 0x00 f
  | .mov f => fabWf 0x01 f
  | .fabAdd f => fabWf 0x02 f
  | .fabSub f => fabWf 0x03 f
  | .fabMul f => fabWf 0x04 f
  | .fabMulh f => fabWf 0x05 f
  | .fabMulhu f => fabWf 0x06 f
  | .addsat f => fabWf 0x07 f
  | .fabAnd f => fabWf 0x08 f
  | .fabOr f => fabWf 0x09 f
  | .fabXor f => fabWf 0x0A f
  | .andn f => fabWf 0x0B f
  | .fabShl f => fabWf 0x0C f
  | .fabShr f => fabWf 0x0D f
  | .fabSra f => fabWf 0x0E f
  | .rot f => fabWf 0x0F f
  | .fabMin f => fabWf 0x10 f
  | .fabMax f => fabWf 0x11 f
  | .fabMinu f => fabWf 0x12 f
  | .fabMaxu f => fabWf 0x13 f
  | .fabCeq f => fabWf 0x14 f
  | .fabCne f => fabWf 0x15 f
  | .fabClt f => fabWf 0x16 f
  | .fabCltu f => fabWf 0x17 f
  | .fabCle f => fabWf 0x18 f
  | .fabCleu f => fabWf 0x19 f
  | .fabSel f => fabWf 0x1A f
  | .fabClz f => fabWf 0x1B f
  | .fabPopc f => fabWf 0x1C f
  | .bfx f => fabWf 0x1D f
  | .bfi f => fabWf 0x1E f
  | .agen f => fabWf 0x1F f
  | .steer f => fabWf 0x40 f
  | .steerd f => fabWf 0x41 f
  | .mrgo f => fabWf 0x42 f
  | .mrga f => fabWf 0x43 f
  | .gate f => fabWf 0x44 f
  | .drop f => fabWf 0x45 f
  | .repl f => fabWf 0x46 f
  | .eosg f => fabWf 0x47 f
  | .eosd f => fabWf 0x48 f
  | .iter f => fabWf 0x49 f
  | .lexit f => fabWf 0x4A f
  | .sqsh f => fabWf 0x4B f
  | .cnte f => fabWf 0x4C f
  | .infl f => fabWf 0x4D f
  | .deci f => fabWf 0x4E f
  | .plog f => fabWf 0x4F f
  | .skipa f => fabWf 0x50 f
  | .fmts f => fabWf 0x51 f
  | .progm f => fabWf 0x52 f
  | .halte f => fabWf 0x53 f
  | .sld f => fabWf 0x60 f
  | .sldv f => fabWf 0x61 f
  | .sst f => fabWf 0x62 f
  | .sstv f => fabWf 0x63 f
  | .sldf f => fabWf 0x64 f
  | .slde f => fabWf 0x65 f
  | .sstf f => fabWf 0x66 f
  | .sstw f => fabWf 0x67 f
  | .sfe f => fabWf 0x68 f
  | .saadd f => fabWf 0x69 f
  | .samin f => fabWf 0x6A f
  | .samax f => fabWf 0x6B f
  | .saor f => fabWf 0x6C f
  | .saand f => fabWf 0x6D f
  | .sacas f => fabWf 0x6E f
  | .stas f => fabWf 0x6F f
  | .gld f => fabWf 0x70 f
  | .gldv f => fabWf 0x71 f
  | .gst f => fabWf 0x72 f
  | .gstv f => fabWf 0x73 f
  | .gaadd f => fabWf 0x74 f
  | .gacas f => fabWf 0x75 f
  | .gath f => fabWf 0x76 f
  | .scat f => fabWf 0x77 f
  | .ojoin f => fabWf 0x78 f
  | .fabFence f => fabWf 0x79 f
  | .fabPref f => fabWf 0x7A f
  | .ags f => fabWf 0x7B f
  | .mldb f => fabWf 0x80 f
  | .mfire f => fabWf 0x81 f
  | .manch f => fabWf 0x82 f
  | .mzero f => fabWf 0x83 f
  | .mdrn f => fabWf 0x84 f
  | .mscl f => fabWf 0x85 f
  | .mcbk f => fabWf 0x86 f
  | .mcarryCfg f => f.pd.toNat == 0 && fabWf 0x87 f
  | .mcarryExp f => f.pd.toNat == 1 && fabWf 0x87 f
  | .mcarryCnt f => f.pd.toNat == 2 && fabWf 0x87 f
  | .mstat f => fabWf 0x88 f
  | .mswap f => fabWf 0x89 f
  | .vadd f => fabWf 0xA0 f
  | .vsub f => fabWf 0xA1 f
  | .vmul f => fabWf 0xA2 f
  | .vfma f => fabWf 0xA3 f
  | .vmin f => fabWf 0xA4 f
  | .vmax f => fabWf 0xA5 f
  | .vabs f => fabWf 0xA6 f
  | .vneg f => fabWf 0xA7 f
  | .vex2 f => fabWf 0xA8 f
  | .vlg2 f => fabWf 0xA9 f
  | .vrcp f => fabWf 0xAA f
  | .vrsq f => fabWf 0xAB f
  | .vscl f => fabWf 0xAC f
  | .vcmp f => fabWf 0xAD f
  | .vsel f => fabWf 0xAE f
  | .vshf f => fabWf 0xAF f
  | .vbcst f => fabWf 0xB0 f
  | .vsumxInit f => f.pd.toNat == 0 && fabWf 0xB1 f
  | .vsumxAcc f => f.pd.toNat == 1 && fabWf 0xB1 f
  | .vsumxFold f => f.pd.toNat == 2 && fabWf 0xB1 f
  | .vsumxOut f => f.pd.toNat == 3 && fabWf 0xB1 f
  | .vmaxr f => fabWf 0xB2 f
  | .vcvt f => fabWf 0xB3 f
  | .vqmx f => fabWf 0xB4 f
  | .vqi4 f => fabWf 0xB5 f
  | .vlut f => fabWf 0xB6 f
  | .vps8Mul f => decide (f.pd.toNat < 4) && fabWf 0xB7 f
  | .vps8Enc f => decide (4 ≤ f.pd.toNat) && fabWf 0xB7 f
  | .vsr f => fabWf 0xB8 f
  | .vnf f => fabWf 0xB9 f
  | .vpack f => fabWf 0xBA f
  | .vunpk f => fabWf 0xBB f
  | .vlog f => fabWf 0xBC f
  | .viadd f => fabWf 0xBD f
  | .vimul f => fabWf 0xBE f
  | .vmov f => fabWf 0xBF f
  | .fabChapp f => fabWf 0xE0 f
  | .fabChtl f => fabWf 0xE1 f
  | .fabChsq f => fabWf 0xE2 f
  | .msend f => fabWf 0xE3 f
  | .tagset f => fabWf 0xE4 f
  | .yielde f => fabWf 0xF0 f
  | .budq f => fabWf 0xF1 f
  | .trape f => fabWf 0xF2 f
  | .brke f => fabWf 0xF3 f
  | _ => true

end Sys2Proof
end

