-- ==== Sys2Proof/Decode.lean ====
section
/-! DEFINITION. Decoding and encoding of the two instruction words (R25, R29): total on every 64-bit word, refusing by
`none` whatever is not a legal instruction. `Instr` has more constructors with fields than Lean's compiled code can tag,
so the functions that build the last of them are marked noncomputable; the kernel evaluates them as any other. -/

namespace Sys2Proof

open Machine

/-! ## Fields of a word -/

/-- Bits [63:62] of a word (R24). -/
def wordKind (w : BitVec 64) : BitVec 2 := w.extractLsb' 62 2

/-- OPC of a sequencer word (R29). -/
def seqOpc (w : BitVec 64) : BitVec 8 := w.extractLsb' 49 8

/-- The other fields of a sequencer word (R29, Table 3-6). -/
def seqFields (w : BitVec 64) : SeqF :=
  { cond := w.extractLsb' 60 2, pc := w.extractLsb' 57 3, d := w.extractLsb' 44 5, a := w.extractLsb' 39 5,
    b := w.extractLsb' 34 5, w := w.extractLsb' 32 2, imm := w.extractLsb' 0 32 }

/-- A sequencer word from its opcode and fields (R29). -/
def seqPack (opc : BitVec 8) (f : SeqF) : BitVec 64 :=
  1#2 ++ f.cond ++ f.pc ++ opc ++ f.d ++ f.a ++ f.b ++ f.w ++ f.imm

/-- OPC of a triggered element word (R25). -/
def fabOpc (w : BitVec 64) : BitVec 8 := w.extractLsb' 52 8

/-- The other fields of a triggered element word (R25, Table 3-2). -/
def fabFields (w : BitVec 64) : FabF :=
  { v := w.getLsbD 61, rr := w.getLsbD 60, pm := w.extractLsb' 44 8, pv := w.extractLsb' 36 8,
    im := w.extractLsb' 32 4, tc := w.extractLsb' 30 2, tt := w.extractLsb' 27 3, dq := w.extractLsb' 23 4,
    om := w.extractLsb' 19 4, pu := w.extractLsb' 16 3, pd := w.extractLsb' 13 3, sa := w.extractLsb' 9 4,
    sb := w.extractLsb' 5 4, dst := w.extractLsb' 1 4, k := w.getLsbD 0 }

/-- A triggered element word from its opcode and fields (R25). -/
def fabPack (opc : BitVec 8) (f : FabF) : BitVec 64 :=
  0#2 ++ BitVec.ofBool f.v ++ BitVec.ofBool f.rr ++ opc ++ f.pm ++ f.pv ++ f.im ++ f.tc ++ f.tt ++ f.dq ++ f.om ++
    f.pu ++ f.pd ++ f.sa ++ f.sb ++ f.dst ++ BitVec.ofBool f.k

/-! ## The opcode maps (R41, R43) -/

/-- The row of a sequencer opcode, with the field that tells rows of one opcode apart (Table 3-12). -/
def seqRow (opc : BitVec 8) (f : SeqF) : Option Instr :=
  match opc.toNat with
  | 0x00 => some (.seqNop f)
  | 0x01 => some (.seqAdd f)
  | 0x02 => some (.seqSub f)
  | 0x03 => some (.seqMul f)
  | 0x04 => some (.seqMulh f)
  | 0x05 => some (.seqMulhu f)
  | 0x06 => some (.divu f)
  | 0x07 => some (.remu f)
  | 0x08 => some (.seqAnd f)
  | 0x09 => some (.seqOr f)
  | 0x0A => some (.seqXor f)
  | 0x0B => some (.seqShl f)
  | 0x0C => some (.seqShr f)
  | 0x0D => some (.seqSra f)
  | 0x0E => some (.seqMin f)
  | 0x0F => some (.seqMax f)
  | 0x10 => some (.seqMinu f)
  | 0x11 => some (.seqMaxu f)
  | 0x12 => some (.seqClz f)
  | 0x13 => some (.seqPopc f)
  | 0x14 => some (.addi f)
  | 0x15 => some (.andi f)
  | 0x16 => some (.ori f)
  | 0x17 => some (.xori f)
  | 0x18 => some (.shli f)
  | 0x19 => some (.shri f)
  | 0x1A => some (.srai f)
  | 0x1B => some (.movi f)
  | 0x1C => some (.movhi f)
  | 0x1D => some (.seqSel f)
  | 0x1E => some (.seqCeq f)
  | 0x1F => some (.seqCne f)
  | 0x20 => some (.seqClt f)
  | 0x21 => some (.seqCltu f)
  | 0x22 => some (.seqCle f)
  | 0x23 => some (.seqCleu f)
  | 0x24 => some (.ceqi f)
  | 0x25 => some (.clti f)
  | 0x26 => some (.pand f)
  | 0x27 => some (.por f)
  | 0x28 => some (.pnot f)
  | 0x40 => some (.br f)
  | 0x41 => some (.jmp f)
  | 0x42 => some (.call f)
  | 0x43 => some (.ret f)
  | 0x44 => some (.wany f)
  | 0x45 => some (.wall f)
  | 0x46 => some (.ffr f)
  | 0x47 => some (.tclr f)
  | 0x48 => some (.wfe f)
  | 0x49 => some (.wake f)
  | 0x50 => some (.ld f)
  | 0x51 => some (.lds f)
  | 0x52 => some (.st f)
  | 0x53 => some (.lda f)
  | 0x54 => some (.stl f)
  | 0x55 => some (.aadd f)
  | 0x56 => some (.aswp f)
  | 0x57 => some (.acas f)
  | 0x58 => some (.amin f)
  | 0x59 => some (.amax f)
  | 0x5A => some (.aor f)
  | 0x5B => some (.aand f)
  | 0x5C => some (.seqFence f)
  | 0x5D => some (.seqPref f)
  | 0x60 => some (.rgna f)
  | 0x61 => some (.rgnf f)
  | 0x62 => some (.cfgl f)
  | 0x63 => some (.cfga f)
  | 0x64 => some (.splc f)
  | 0x65 => if f.imm.toNat != 0 then some (.rfold f) else if f.imm.toNat == 0 then some (.rfoldUnfold f) else none
  | 0x66 => some (.qwait f)
  | 0x67 => some (.toksv f)
  | 0x68 => some (.tokrs f)
  | 0x69 => some (.decb f)
  | 0x6A => some (.rgns f)
  | 0x70 => some (.seqChapp f)
  | 0x71 => some (.seqChtl f)
  | 0x72 => some (.seqChsq f)
  | 0x73 => some (.chwt f)
  | 0x80 => some (.lnch f)
  | 0x81 => some (.tskq f)
  | 0x82 => some (.bspl f)
  | 0x83 => some (.btop f)
  | 0x84 => some (.brd f)
  | 0x85 => some (.yld f)
  | 0x86 => some (.cont f)
  | 0x87 => if f.imm.toNat == 0 then some (.traceOff f) else if f.imm.toNat == 1 then some (.traceRecord f) else if f.imm.toNat == 2 then some (.traceBind f) else if f.imm.toNat == 3 then some (.traceRead f) else none
  | 0x90 => some (.jsub f)
  | 0x91 => some (.juns f)
  | 0x92 => some (.jpin f)
  | 0x93 => some (.jupn f)
  | 0x94 => some (.jrd f)
  | 0x95 => some (.jprp f)
  | 0x96 => some (.jrev f)
  | 0x97 => some (.jrpl f)
  | 0x98 => some (.jbase f)
  | 0x99 => some (.jver f)
  | 0xA0 => some (.trap f)
  | 0xA1 => some (.eret f)
  | 0xA2 => if f.imm.toNat != 0x071 then some (.csrr f) else if f.imm.toNat == 0x071 then some (.mcpopRead f) else none
  | 0xA3 => some (.csrw f)
  | 0xA4 => some (.halt f)
  | 0xA5 => some (.bkpt f)
  | 0xA6 => if f.imm.toNat == 0 then some (.pgateStatus f) else if f.imm.toNat == 1 then some (.pgateClose f) else if f.imm.toNat == 2 then some (.pgateOpen f) else if f.imm.toNat == 3 then some (.pgateReset f) else if f.imm.toNat == 4 then some (.pgateFreq f) else if f.imm.toNat == 5 then some (.pgateForm f) else none
  | 0xA7 => if f.imm.toNat == 0 then some (.stilClose f) else if f.imm.toNat == 1 then some (.stilChannel f) else if f.imm.toNat == 2 then some (.stilMemory f) else none
  | 0xA8 => some (.ctxs f)
  | 0xA9 => some (.ctxr f)
  | _ => none

/-- The row of a fabric opcode, with the PD that tells rows of one opcode apart (Table 3-10). -/
noncomputable def fabRow (opc : BitVec 8) (f : FabF) : Option Instr :=
  match opc.toNat with
  | 0x00 => some (.fabNop f)
  | 0x01 => some (.mov f)
  | 0x02 => some (.fabAdd f)
  | 0x03 => some (.fabSub f)
  | 0x04 => some (.fabMul f)
  | 0x05 => some (.fabMulh f)
  | 0x06 => some (.fabMulhu f)
  | 0x07 => some (.addsat f)
  | 0x08 => some (.fabAnd f)
  | 0x09 => some (.fabOr f)
  | 0x0A => some (.fabXor f)
  | 0x0B => some (.andn f)
  | 0x0C => some (.fabShl f)
  | 0x0D => some (.fabShr f)
  | 0x0E => some (.fabSra f)
  | 0x0F => some (.rot f)
  | 0x10 => some (.fabMin f)
  | 0x11 => some (.fabMax f)
  | 0x12 => some (.fabMinu f)
  | 0x13 => some (.fabMaxu f)
  | 0x14 => some (.fabCeq f)
  | 0x15 => some (.fabCne f)
  | 0x16 => some (.fabClt f)
  | 0x17 => some (.fabCltu f)
  | 0x18 => some (.fabCle f)
  | 0x19 => some (.fabCleu f)
  | 0x1A => some (.fabSel f)
  | 0x1B => some (.fabClz f)
  | 0x1C => some (.fabPopc f)
  | 0x1D => some (.bfx f)
  | 0x1E => some (.bfi f)
  | 0x1F => some (.agen f)
  | 0x40 => some (.steer f)
  | 0x41 => some (.steerd f)
  | 0x42 => some (.mrgo f)
  | 0x43 => some (.mrga f)
  | 0x44 => some (.gate f)
  | 0x45 => some (.drop f)
  | 0x46 => some (.repl f)
  | 0x47 => some (.eosg f)
  | 0x48 => some (.eosd f)
  | 0x49 => some (.iter f)
  | 0x4A => some (.lexit f)
  | 0x4B => some (.sqsh f)
  | 0x4C => some (.cnte f)
  | 0x4D => some (.infl f)
  | 0x4E => some (.deci f)
  | 0x4F => some (.plog f)
  | 0x50 => some (.skipa f)
  | 0x51 => some (.fmts f)
  | 0x52 => some (.progm f)
  | 0x53 => some (.halte f)
  | 0x60 => some (.sld f)
  | 0x61 => some (.sldv f)
  | 0x62 => some (.sst f)
  | 0x63 => some (.sstv f)
  | 0x64 => some (.sldf f)
  | 0x65 => some (.slde f)
  | 0x66 => some (.sstf f)
  | 0x67 => some (.sstw f)
  | 0x68 => some (.sfe f)
  | 0x69 => some (.saadd f)
  | 0x6A => some (.samin f)
  | 0x6B => some (.samax f)
  | 0x6C => some (.saor f)
  | 0x6D => some (.saand f)
  | 0x6E => some (.sacas f)
  | 0x6F => some (.stas f)
  | 0x70 => some (.gld f)
  | 0x71 => some (.gldv f)
  | 0x72 => some (.gst f)
  | 0x73 => some (.gstv f)
  | 0x74 => some (.gaadd f)
  | 0x75 => some (.gacas f)
  | 0x76 => some (.gath f)
  | 0x77 => some (.scat f)
  | 0x78 => some (.ojoin f)
  | 0x79 => some (.fabFence f)
  | 0x7A => some (.fabPref f)
  | 0x7B => some (.ags f)
  | 0x80 => some (.mldb f)
  | 0x81 => some (.mfire f)
  | 0x82 => some (.manch f)
  | 0x83 => some (.mzero f)
  | 0x84 => some (.mdrn f)
  | 0x85 => some (.mscl f)
  | 0x86 => some (.mcbk f)
  | 0x87 => if f.pd.toNat == 0 then some (.mcarryCfg f) else if f.pd.toNat == 1 then some (.mcarryExp f) else if f.pd.toNat == 2 then some (.mcarryCnt f) else none
  | 0x88 => some (.mstat f)
  | 0x89 => some (.mswap f)
  | 0xA0 => some (.vadd f)
  | 0xA1 => some (.vsub f)
  | 0xA2 => some (.vmul f)
  | 0xA3 => some (.vfma f)
  | 0xA4 => some (.vmin f)
  | 0xA5 => some (.vmax f)
  | 0xA6 => some (.vabs f)
  | 0xA7 => some (.vneg f)
  | 0xA8 => some (.vex2 f)
  | 0xA9 => some (.vlg2 f)
  | 0xAA => some (.vrcp f)
  | 0xAB => some (.vrsq f)
  | 0xAC => some (.vscl f)
  | 0xAD => some (.vcmp f)
  | 0xAE => some (.vsel f)
  | 0xAF => some (.vshf f)
  | 0xB0 => some (.vbcst f)
  | 0xB1 => if f.pd.toNat == 0 then some (.vsumxInit f) else if f.pd.toNat == 1 then some (.vsumxAcc f) else if f.pd.toNat == 2 then some (.vsumxFold f) else if f.pd.toNat == 3 then some (.vsumxOut f) else none
  | 0xB2 => some (.vmaxr f)
  | 0xB3 => some (.vcvt f)
  | 0xB4 => some (.vqmx f)
  | 0xB5 => some (.vqi4 f)
  | 0xB6 => some (.vlut f)
  | 0xB7 => if decide (f.pd.toNat < 4) then some (.vps8Mul f) else if decide (4 ≤ f.pd.toNat) then some (.vps8Enc f) else none
  | 0xB8 => some (.vsr f)
  | 0xB9 => some (.vnf f)
  | 0xBA => some (.vpack f)
  | 0xBB => some (.vunpk f)
  | 0xBC => some (.vlog f)
  | 0xBD => some (.viadd f)
  | 0xBE => some (.vimul f)
  | 0xBF => some (.vmov f)
  | 0xE0 => some (.fabChapp f)
  | 0xE1 => some (.fabChtl f)
  | 0xE2 => some (.fabChsq f)
  | 0xE3 => some (.msend f)
  | 0xE4 => some (.tagset f)
  | 0xF0 => some (.yielde f)
  | 0xF1 => some (.budq f)
  | 0xF2 => some (.trape f)
  | 0xF3 => some (.brke f)
  | _ => none

/-- The instruction a sequencer word holds; none where R31 raises ILLEGAL. -/
def decodeSeq (w : BitVec 64) : Option Instr :=
  if wordKind w = 1 then
    match seqRow (seqOpc w) (seqFields w) with
    | some i => if i.wf then some i else none
    | none => none
  else none

/-- The instruction a fabric word holds; none where R28 refuses the word whatever the tile. -/
noncomputable def decodeFab (w : BitVec 64) : Option Instr :=
  if wordKind w = 0 then
    match fabRow (fabOpc w) (fabFields w) with
    | some i => if i.wf then some i else none
    | none => none
  else none

/-- The instruction a word holds, by its KIND (R24): a configuration word and KIND 0b11 hold none. -/
noncomputable def decode (w : BitVec 64) : Option Instr :=
  if wordKind w = 1 then decodeSeq w else if wordKind w = 0 then decodeFab w else none

/-! ## Encoding -/

/-- The word of an instruction; none for an event, which has no word. -/
def encode : Instr → Option (BitVec 64)
  | .seqNop f => some (seqPack 0x00 f)
  | .seqAdd f => some (seqPack 0x01 f)
  | .seqSub f => some (seqPack 0x02 f)
  | .seqMul f => some (seqPack 0x03 f)
  | .seqMulh f => some (seqPack 0x04 f)
  | .seqMulhu f => some (seqPack 0x05 f)
  | .divu f => some (seqPack 0x06 f)
  | .remu f => some (seqPack 0x07 f)
  | .seqAnd f => some (seqPack 0x08 f)
  | .seqOr f => some (seqPack 0x09 f)
  | .seqXor f => some (seqPack 0x0A f)
  | .seqShl f => some (seqPack 0x0B f)
  | .seqShr f => some (seqPack 0x0C f)
  | .seqSra f => some (seqPack 0x0D f)
  | .seqMin f => some (seqPack 0x0E f)
  | .seqMax f => some (seqPack 0x0F f)
  | .seqMinu f => some (seqPack 0x10 f)
  | .seqMaxu f => some (seqPack 0x11 f)
  | .seqClz f => some (seqPack 0x12 f)
  | .seqPopc f => some (seqPack 0x13 f)
  | .addi f => some (seqPack 0x14 f)
  | .andi f => some (seqPack 0x15 f)
  | .ori f => some (seqPack 0x16 f)
  | .xori f => some (seqPack 0x17 f)
  | .shli f => some (seqPack 0x18 f)
  | .shri f => some (seqPack 0x19 f)
  | .srai f => some (seqPack 0x1A f)
  | .movi f => some (seqPack 0x1B f)
  | .movhi f => some (seqPack 0x1C f)
  | .seqSel f => some (seqPack 0x1D f)
  | .seqCeq f => some (seqPack 0x1E f)
  | .seqCne f => some (seqPack 0x1F f)
  | .seqClt f => some (seqPack 0x20 f)
  | .seqCltu f => some (seqPack 0x21 f)
  | .seqCle f => some (seqPack 0x22 f)
  | .seqCleu f => some (seqPack 0x23 f)
  | .ceqi f => some (seqPack 0x24 f)
  | .clti f => some (seqPack 0x25 f)
  | .pand f => some (seqPack 0x26 f)
  | .por f => some (seqPack 0x27 f)
  | .pnot f => some (seqPack 0x28 f)
  | .br f => some (seqPack 0x40 f)
  | .jmp f => some (seqPack 0x41 f)
  | .call f => some (seqPack 0x42 f)
  | .ret f => some (seqPack 0x43 f)
  | .wany f => some (seqPack 0x44 f)
  | .wall f => some (seqPack 0x45 f)
  | .ffr f => some (seqPack 0x46 f)
  | .tclr f => some (seqPack 0x47 f)
  | .wfe f => some (seqPack 0x48 f)
  | .wake f => some (seqPack 0x49 f)
  | .ld f => some (seqPack 0x50 f)
  | .lds f => some (seqPack 0x51 f)
  | .st f => some (seqPack 0x52 f)
  | .lda f => some (seqPack 0x53 f)
  | .stl f => some (seqPack 0x54 f)
  | .aadd f => some (seqPack 0x55 f)
  | .aswp f => some (seqPack 0x56 f)
  | .acas f => some (seqPack 0x57 f)
  | .amin f => some (seqPack 0x58 f)
  | .amax f => some (seqPack 0x59 f)
  | .aor f => some (seqPack 0x5A f)
  | .aand f => some (seqPack 0x5B f)
  | .seqFence f => some (seqPack 0x5C f)
  | .seqPref f => some (seqPack 0x5D f)
  | .rgna f => some (seqPack 0x60 f)
  | .rgnf f => some (seqPack 0x61 f)
  | .cfgl f => some (seqPack 0x62 f)
  | .cfga f => some (seqPack 0x63 f)
  | .splc f => some (seqPack 0x64 f)
  | .rfold f => some (seqPack 0x65 f)
  | .rfoldUnfold f => some (seqPack 0x65 f)
  | .qwait f => some (seqPack 0x66 f)
  | .toksv f => some (seqPack 0x67 f)
  | .tokrs f => some (seqPack 0x68 f)
  | .decb f => some (seqPack 0x69 f)
  | .rgns f => some (seqPack 0x6A f)
  | .seqChapp f => some (seqPack 0x70 f)
  | .seqChtl f => some (seqPack 0x71 f)
  | .seqChsq f => some (seqPack 0x72 f)
  | .chwt f => some (seqPack 0x73 f)
  | .lnch f => some (seqPack 0x80 f)
  | .tskq f => some (seqPack 0x81 f)
  | .bspl f => some (seqPack 0x82 f)
  | .btop f => some (seqPack 0x83 f)
  | .brd f => some (seqPack 0x84 f)
  | .yld f => some (seqPack 0x85 f)
  | .cont f => some (seqPack 0x86 f)
  | .traceOff f => some (seqPack 0x87 f)
  | .traceRecord f => some (seqPack 0x87 f)
  | .traceBind f => some (seqPack 0x87 f)
  | .traceRead f => some (seqPack 0x87 f)
  | .jsub f => some (seqPack 0x90 f)
  | .juns f => some (seqPack 0x91 f)
  | .jpin f => some (seqPack 0x92 f)
  | .jupn f => some (seqPack 0x93 f)
  | .jrd f => some (seqPack 0x94 f)
  | .jprp f => some (seqPack 0x95 f)
  | .jrev f => some (seqPack 0x96 f)
  | .jrpl f => some (seqPack 0x97 f)
  | .jbase f => some (seqPack 0x98 f)
  | .jver f => some (seqPack 0x99 f)
  | .trap f => some (seqPack 0xA0 f)
  | .eret f => some (seqPack 0xA1 f)
  | .csrr f => some (seqPack 0xA2 f)
  | .csrw f => some (seqPack 0xA3 f)
  | .mcpopRead f => some (seqPack 0xA2 f)
  | .halt f => some (seqPack 0xA4 f)
  | .bkpt f => some (seqPack 0xA5 f)
  | .pgateStatus f => some (seqPack 0xA6 f)
  | .pgateClose f => some (seqPack 0xA6 f)
  | .pgateOpen f => some (seqPack 0xA6 f)
  | .pgateReset f => some (seqPack 0xA6 f)
  | .pgateFreq f => some (seqPack 0xA6 f)
  | .pgateForm f => some (seqPack 0xA6 f)
  | .stilClose f => some (seqPack 0xA7 f)
  | .stilChannel f => some (seqPack 0xA7 f)
  | .stilMemory f => some (seqPack 0xA7 f)
  | .ctxs f => some (seqPack 0xA8 f)
  | .ctxr f => some (seqPack 0xA9 f)
  | .fabNop f => some (fabPack 0x00 f)
  | .mov f => some (fabPack 0x01 f)
  | .fabAdd f => some (fabPack 0x02 f)
  | .fabSub f => some (fabPack 0x03 f)
  | .fabMul f => some (fabPack 0x04 f)
  | .fabMulh f => some (fabPack 0x05 f)
  | .fabMulhu f => some (fabPack 0x06 f)
  | .addsat f => some (fabPack 0x07 f)
  | .fabAnd f => some (fabPack 0x08 f)
  | .fabOr f => some (fabPack 0x09 f)
  | .fabXor f => some (fabPack 0x0A f)
  | .andn f => some (fabPack 0x0B f)
  | .fabShl f => some (fabPack 0x0C f)
  | .fabShr f => some (fabPack 0x0D f)
  | .fabSra f => some (fabPack 0x0E f)
  | .rot f => some (fabPack 0x0F f)
  | .fabMin f => some (fabPack 0x10 f)
  | .fabMax f => some (fabPack 0x11 f)
  | .fabMinu f => some (fabPack 0x12 f)
  | .fabMaxu f => some (fabPack 0x13 f)
  | .fabCeq f => some (fabPack 0x14 f)
  | .fabCne f => some (fabPack 0x15 f)
  | .fabClt f => some (fabPack 0x16 f)
  | .fabCltu f => some (fabPack 0x17 f)
  | .fabCle f => some (fabPack 0x18 f)
  | .fabCleu f => some (fabPack 0x19 f)
  | .fabSel f => some (fabPack 0x1A f)
  | .fabClz f => some (fabPack 0x1B f)
  | .fabPopc f => some (fabPack 0x1C f)
  | .bfx f => some (fabPack 0x1D f)
  | .bfi f => some (fabPack 0x1E f)
  | .agen f => some (fabPack 0x1F f)
  | .steer f => some (fabPack 0x40 f)
  | .steerd f => some (fabPack 0x41 f)
  | .mrgo f => some (fabPack 0x42 f)
  | .mrga f => some (fabPack 0x43 f)
  | .gate f => some (fabPack 0x44 f)
  | .drop f => some (fabPack 0x45 f)
  | .repl f => some (fabPack 0x46 f)
  | .eosg f => some (fabPack 0x47 f)
  | .eosd f => some (fabPack 0x48 f)
  | .iter f => some (fabPack 0x49 f)
  | .lexit f => some (fabPack 0x4A f)
  | .sqsh f => some (fabPack 0x4B f)
  | .cnte f => some (fabPack 0x4C f)
  | .infl f => some (fabPack 0x4D f)
  | .deci f => some (fabPack 0x4E f)
  | .plog f => some (fabPack 0x4F f)
  | .skipa f => some (fabPack 0x50 f)
  | .fmts f => some (fabPack 0x51 f)
  | .progm f => some (fabPack 0x52 f)
  | .halte f => some (fabPack 0x53 f)
  | .sld f => some (fabPack 0x60 f)
  | .sldv f => some (fabPack 0x61 f)
  | .sst f => some (fabPack 0x62 f)
  | .sstv f => some (fabPack 0x63 f)
  | .sldf f => some (fabPack 0x64 f)
  | .slde f => some (fabPack 0x65 f)
  | .sstf f => some (fabPack 0x66 f)
  | .sstw f => some (fabPack 0x67 f)
  | .sfe f => some (fabPack 0x68 f)
  | .saadd f => some (fabPack 0x69 f)
  | .samin f => some (fabPack 0x6A f)
  | .samax f => some (fabPack 0x6B f)
  | .saor f => some (fabPack 0x6C f)
  | .saand f => some (fabPack 0x6D f)
  | .sacas f => some (fabPack 0x6E f)
  | .stas f => some (fabPack 0x6F f)
  | .gld f => some (fabPack 0x70 f)
  | .gldv f => some (fabPack 0x71 f)
  | .gst f => some (fabPack 0x72 f)
  | .gstv f => some (fabPack 0x73 f)
  | .gaadd f => some (fabPack 0x74 f)
  | .gacas f => some (fabPack 0x75 f)
  | .gath f => some (fabPack 0x76 f)
  | .scat f => some (fabPack 0x77 f)
  | .ojoin f => some (fabPack 0x78 f)
  | .fabFence f => some (fabPack 0x79 f)
  | .fabPref f => some (fabPack 0x7A f)
  | .ags f => some (fabPack 0x7B f)
  | .mldb f => some (fabPack 0x80 f)
  | .mfire f => some (fabPack 0x81 f)
  | .manch f => some (fabPack 0x82 f)
  | .mzero f => some (fabPack 0x83 f)
  | .mdrn f => some (fabPack 0x84 f)
  | .mscl f => some (fabPack 0x85 f)
  | .mcbk f => some (fabPack 0x86 f)
  | .mcarryCfg f => some (fabPack 0x87 f)
  | .mcarryExp f => some (fabPack 0x87 f)
  | .mcarryCnt f => some (fabPack 0x87 f)
  | .mstat f => some (fabPack 0x88 f)
  | .mswap f => some (fabPack 0x89 f)
  | .vadd f => some (fabPack 0xA0 f)
  | .vsub f => some (fabPack 0xA1 f)
  | .vmul f => some (fabPack 0xA2 f)
  | .vfma f => some (fabPack 0xA3 f)
  | .vmin f => some (fabPack 0xA4 f)
  | .vmax f => some (fabPack 0xA5 f)
  | .vabs f => some (fabPack 0xA6 f)
  | .vneg f => some (fabPack 0xA7 f)
  | .vex2 f => some (fabPack 0xA8 f)
  | .vlg2 f => some (fabPack 0xA9 f)
  | .vrcp f => some (fabPack 0xAA f)
  | .vrsq f => some (fabPack 0xAB f)
  | .vscl f => some (fabPack 0xAC f)
  | .vcmp f => some (fabPack 0xAD f)
  | .vsel f => some (fabPack 0xAE f)
  | .vshf f => some (fabPack 0xAF f)
  | .vbcst f => some (fabPack 0xB0 f)
  | .vsumxInit f => some (fabPack 0xB1 f)
  | .vsumxAcc f => some (fabPack 0xB1 f)
  | .vsumxFold f => some (fabPack 0xB1 f)
  | .vsumxOut f => some (fabPack 0xB1 f)
  | .vmaxr f => some (fabPack 0xB2 f)
  | .vcvt f => some (fabPack 0xB3 f)
  | .vqmx f => some (fabPack 0xB4 f)
  | .vqi4 f => some (fabPack 0xB5 f)
  | .vlut f => some (fabPack 0xB6 f)
  | .vps8Mul f => some (fabPack 0xB7 f)
  | .vps8Enc f => some (fabPack 0xB7 f)
  | .vsr f => some (fabPack 0xB8 f)
  | .vnf f => some (fabPack 0xB9 f)
  | .vpack f => some (fabPack 0xBA f)
  | .vunpk f => some (fabPack 0xBB f)
  | .vlog f => some (fabPack 0xBC f)
  | .viadd f => some (fabPack 0xBD f)
  | .vimul f => some (fabPack 0xBE f)
  | .vmov f => some (fabPack 0xBF f)
  | .fabChapp f => some (fabPack 0xE0 f)
  | .fabChtl f => some (fabPack 0xE1 f)
  | .fabChsq f => some (fabPack 0xE2 f)
  | .msend f => some (fabPack 0xE3 f)
  | .tagset f => some (fabPack 0xE4 f)
  | .yielde f => some (fabPack 0xF0 f)
  | .budq f => some (fabPack 0xF1 f)
  | .trape f => some (fabPack 0xF2 f)
  | .brke f => some (fabPack 0xF3 f)
  | _ => none

/-- A word from its eight bytes, lowest address first (R3). -/
def wordOfBytes : List (BitVec 8) → BitVec 64
  | [] => 0
  | b :: bs => (wordOfBytes bs <<< 8) ||| b.setWidth 64

/-- The eight bytes of a word, lowest address first (R3). -/
def bytesOfWord (w : BitVec 64) : List (BitVec 8) :=
  [w.extractLsb' 0 8, w.extractLsb' 8 8, w.extractLsb' 16 8, w.extractLsb' 24 8, w.extractLsb' 32 8,
   w.extractLsb' 40 8, w.extractLsb' 48 8, w.extractLsb' 56 8]

/-- Decoding from bytes: the instruction of the first eight and the rest; none when fewer than eight are left or the
word holds no instruction. -/
noncomputable def decodeBytes (bs : List (BitVec 8)) : Option (Instr × List (BitVec 8)) :=
  if bs.length < 8 then none
  else (decode (wordOfBytes (bs.take 8))).map fun i => (i, bs.drop 8)

/-- The instruction this decoder reads from an instruction whose bits are `w`: every instruction of the machine is one
64-bit word, and the bits above `nbits` are zero. -/
noncomputable def decodeTableWord (_nbits w : Nat) : Option Instr :=
  (decodeBytes (bytesOfWord (BitVec.ofNat 64 w))).map (·.1)

end Sys2Proof
end

