-- ==== Sys2Proof/Machine/Table.lean ====
section
/-! DEFINITION. Sparse tables: lists of (key, value) pairs with rising keys, read with a default. `put` keeps a table
canonical by dropping an entry equal to the default; `set` keeps every entry (for records that are not compared). -/

namespace Sys2Proof.Machine

/-- A table by number: keys strictly rising. -/
abbrev Tbl (α : Type) := List (Nat × α)

namespace Tbl

variable {α : Type}

/-- The value at a key, or the default. -/
def get (d : α) : Tbl α → Nat → α
  | [], _ => d
  | (j, v) :: t, k => if j = k then v else get d t k

/-- The value at a key, or none. -/
def find? : Tbl α → Nat → Option α
  | [], _ => none
  | (j, v) :: t, k => if j = k then some v else find? t k

/-- The table without a key. -/
def del : Tbl α → Nat → Tbl α
  | [], _ => []
  | (j, v) :: t, k => if j = k then del t k else (j, v) :: del t k

/-- The table with a value at a key, keys kept rising. -/
def set : Tbl α → Nat → α → Tbl α
  | [], k, v => [(k, v)]
  | (j, w) :: t, k, v =>
    if k < j then (k, v) :: (j, w) :: t
    else if k = j then (k, v) :: t
    else (j, w) :: set t k v

/-- The table with a value at a key, an entry equal to the default left out. -/
def put [DecidableEq α] (d : α) (t : Tbl α) (k : Nat) (v : α) : Tbl α :=
  if v = d then del t k else set t k v

/-- Keys strictly rising, from a lower bound. -/
def sortedFrom : Nat → Tbl α → Bool
  | _, [] => true
  | lo, (j, _) :: t => decide (lo ≤ j) && sortedFrom (j + 1) t

/-- The canonical form: keys strictly rising and no entry equal to the default. -/
def wf [DecidableEq α] (d : α) (t : Tbl α) : Bool :=
  sortedFrom 0 t && t.all fun e => decide (e.2 ≠ d)

/-- The keys of a table. -/
def keys (t : Tbl α) : List Nat := t.map (·.1)

end Tbl

end Sys2Proof.Machine
end

