-- ==== Sys2Proof/Machine/State.lean ====
section
/-! DEFINITION. The state of a GZ-960 module: every piece of state the spec names, as plain data, and the fields of the
model's own (clock, agenda, acting unit, free-value counter, inputs), which stand last in `State`.

Numbering: paddock p 0–31; launch queue q 0–3; tile t = 12 × row + column; region r 0–15; task slot k 0–63; chain c
0–16. Tables are sparse: an entry that is not listed has its reset value. -/

namespace Sys2Proof.Machine

/-- Why the machine stops. `poweredOff` is raised by `step` alone, when the module has no power and no input is left
that could restore it (R383): nothing steps. Safe: the hardware does nothing either. -/
inductive Fault where
  | poweredOff
deriving DecidableEq, Repr

/-- Why an instruction has no meaning. `notModelled` would be raised by an arm of `exec` that is not written; no
meaning answers with it. Safe. -/
inductive Refusal where
  | notModelled (mnemonic : String)
deriving DecidableEq, Repr

/-! ## Tokens and buffers -/

/-- A token of either plane (R16, R17). On the control plane the payload stands in the low 32 bits of `val`. `arr` is
the fc in which it was placed in its buffer (R116). -/
structure Tok where
  dat  : Bool := false
  val  : BitVec 512 := 0
  side : BitVec 32 := 0
  tag  : BitVec 3 := 0
  kind : BitVec 2 := 0
  eos  : Bool := false
  gen  : Bool := false
  skip : BitVec 6 := 0
  iter : BitVec 4 := 0
  prg  : Bool := false
  arr  : Nat := 0
deriving DecidableEq, Repr

/-- A buffer of an element input or a link input (R18, R37): tokens oldest first, places reserved by deferred slots
(R94), and the places occupied at the start of the fc together with those taken since. -/
structure Buf where
  toks : List Tok := []
  resv : Nat := 0
  used : Nat := 0
deriving DecidableEq, Repr

/-- A result waiting for its turn on an output (R165): the outputs still to reach, the token once it is known, and the
request that will give it. `held` marks outputs in which a place is reserved. -/
structure Deferred where
  id   : Nat
  om   : BitVec 4
  held : BitVec 4
  tok  : Option Tok
  /-- The token leaves by an event of its tile, one in an fc: a later token of a row (R173), a spill token (R206). -/
  paced : Bool := false
deriving DecidableEq, Repr

/-! ## Matrix state (R188) -/

/-- How a group's B cells are read (Table 11-2): a float of m fraction bits, or an integer of w bits. -/
inductive BFmt where
  | e2m1 | e4m3 | e5m2 | bf16 | int8 | int4
deriving DecidableEq, Repr

/-- The non-finite class of an accumulator (NFC) or of an XACC (STATE). -/
inductive NonFin where
  | finite | pinf | ninf | nan
deriving DecidableEq, Repr

/-- One A element of the row buffer: its code and its block scale. -/
structure RowEl where
  code  : BitVec 16 := 0
  scale : BitVec 8 := 127
deriving DecidableEq, Repr

/-- A pass fired and not complete (R194, R197): the slot and its word, its descriptor, the A format it was fired in and
the positions it has in it, which positions taken so far were implied zeros, the fc it fired and took its last position
in, and where it is held. -/
structure Pass where
  id   : Nat
  word : BitVec 64
  slot : Nat
  bank : Nat
  n    : Nat
  g0   : Nat
  fmt  : BitVec 3
  pos  : Nat
  zeros : List Bool
  fired : Nat
  lastTake : Nat
  g    : Nat
  c    : Nat
  held : Bool
  everHeld : Bool
  nfp  : Bool
  nfsk : Bool
  iter : BitVec 4
deriving DecidableEq, Repr

/-- An MDRN fired and not complete (R202, R203): the accumulators as read at the end of its firing fc and the spill
sums taken since. -/
structure Drain where
  id    : Nat
  word  : BitVec 64
  slot  : Nat
  desc  : BitVec 32
  fired : Nat
  body  : Tbl (BitVec 32)
  nfc   : Tbl NonFin
  carry : Tbl (BitVec 32)
  spill : Tbl Int
  spillDone : Option Nat
  iter  : BitVec 4
  pos   : BitVec 32
deriving DecidableEq, Repr

structure Matrix where
  /-- CELL(bank, row, col) at 32,768 × bank + 128 × row + col. -/
  cell : Tbl (BitVec 16) := []
  /-- BFMT(bank, g, col) at 2,048 × bank + 128 × g + col; BF16 at reset. -/
  bfmt : Tbl BFmt := []
  /-- SX(bank, g, col), as BFMT; 127 at reset. -/
  sx   : Tbl (BitVec 8) := []
  /-- NF(bank, g, col), as BFMT. -/
  nf   : Tbl Bool := []
  /-- The row buffer. -/
  row  : Tbl RowEl := []
  /-- BODY[0–127] and, at 128, BODY[A]. -/
  body : Tbl (BitVec 32) := []
  nfc  : Tbl NonFin := []
  /-- The carry capture buffer: high words by column, the A-sum's at 128. -/
  carry : Tbl (BitVec 32) := []
  anchor : BitVec 10 := 0
  carryCap : Nat := 64
  carryPol : Bool := false
  tagen : Bool := false
  ctag  : BitVec 6 := 0
  ovf   : Bool := false
  bsel  : Bool := false
  /-- SCALE[c], FP32; 1.0 at reset. -/
  scale : Tbl (BitVec 32) := []
  zp    : Tbl (BitVec 8) := []
  cb    : Tbl (BitVec 16) := []
  pass  : Option Pass := none
  drain : Option Drain := none
  /-- The task (slot and serial) whose yield left the pass or the drain standing in the tile (R198). -/
  away  : Option (Nat × BitVec 14) := none
  /-- The fc in which a pass or a drain last completed, at its end (R194, R202). -/
  last  : Option Nat := none
deriving DecidableEq, Repr

/-! ## Memory nodes (R149 to R178) -/

/-- Where a request stands: on its way, performed, parked on a full/empty bit (R170) or on a fault (R159). -/
inductive ReqSt where
  | going | parkedFE | parkedFault (cause : BitVec 8) | performed
deriving DecidableEq, Repr

/-- A request of a deferred slot (R165): a memory node, a fabric CHAPP or CHTL, an MSEND or a TAGSET. -/
structure Req where
  id    : Nat
  slot  : Nat
  word  : BitVec 64
  fired : Nat
  due   : Nat
  iter  : BitVec 4
  a     : BitVec 512 := 0
  aside : BitVec 32 := 0
  b     : BitVec 32 := 0
  c     : BitVec 32 := 0
  va    : BitVec 64 := 0
  st    : ReqSt := .going
  /-- Words of a vector access done so far (R154), or tokens of a gathered row sent. -/
  prog  : Nat := 0
  res   : BitVec 512 := 0
  rside : BitVec 32 := 0
  /-- The whole tokens of a gathered row read so far, and the places of the reorder area that its tokens have (R173). -/
  row   : List (BitVec 512) := []
  places : List Nat := []
  flag  : Bool := false
deriving DecidableEq, Repr

/-- A scratchpad (R153): words and full/empty bits, the two queues of parked requests of each word (R170, ids), the
loser of each bank's last conflict (R154, bit set: the engine lost), words with an uncorrectable error, words with a
correctable one, words still in the old code (R160, R162). -/
structure Spad where
  words  : Tbl (BitVec 32) := []
  full   : Tbl Bool := []
  loadQ  : Tbl (List Nat) := []
  storeQ : Tbl (List Nat) := []
  lost   : BitVec 8 := 0
  /-- Banks taken in fc `usedFc`. -/
  used   : BitVec 8 := 0
  usedFc : Nat := 0
  /-- Banks that an engine left to the element in fc `usedFc` (R154). -/
  kept   : BitVec 8 := 0
  bad    : List Nat := []
  soft   : List Nat := []
deriving DecidableEq, Repr

/-- A cached translation: the address space, the virtual base and size of the page, and its leaf entry. -/
structure TlbEnt where
  asid : BitVec 16
  base : BitVec 64
  size : Nat
  leaf : BitVec 64
deriving DecidableEq, Repr

/-- A value a replay epoch recorded for a load (R318, R319): the slot, the address asked and the value returned. -/
structure ReplayEnt where
  tile : Nat
  slot : Nat
  addr : BitVec 64
  val  : BitVec 512
  side : BitVec 32
deriving DecidableEq, Repr

/-- A line that a coalescer fetches, HOST lines apart (`lineKey`): the requests it fetches it for, and the words it has
of it so far, by number (R173). -/
structure CoalLine where
  key   : Nat
  reqs  : List Nat
  words : Tbl (BitVec 32) := []
deriving DecidableEq, Repr

/-- What an E tile holds beside its element: L1 lines by physical line number (64 bytes each), segment bases, the
micro-TLB, the gather sequence number, the requests issued and completed since activation (Table 16-3), the replay
entries in use, and whether a fault of it is reported (R159). -/
structure ETile where
  lines : Tbl (BitVec 512) := []
  /-- The line used last of each set of the L1 (log 9). -/
  mru   : Tbl Nat := []
  /-- Lines under way in the gather coalescer. -/
  coal  : List CoalLine := []
  seg   : Tbl (BitVec 64) := []
  tlb   : List TlbEnt := []
  gseq  : BitVec 16 := 0
  issued : BitVec 32 := 0
  done  : BitVec 32 := 0
  replay : List ReplayEnt := []
  reported : Bool := false
  /-- The fc in which parked requests retry (R159). -/
  retryAt : Option Nat := none
  /-- Replay entries still to serve after a recovery (R319). -/
  served : List ReplayEnt := []
  /-- The last HOST write not yet acknowledged (R177). -/
  hostWrite : Option (BitVec 64) := none
deriving DecidableEq, Repr

/-! ## Tiles -/

structure Tile where
  preds : BitVec 8 := 0
  loc   : Tbl (BitVec 32) := []
  vec   : Tbl (BitVec 512) := []
  rrPtr : Nat := 0
  flags : BitVec 8 := 0
  pos   : Tbl (BitVec 32) := []
  /-- Pending counts of out0–out3 and the TAG last formed on each (R64). -/
  pend  : Tbl (BitVec 6) := []
  lastTag : Tbl (BitVec 3) := []
  rc    : Tbl (BitVec 32) := []
  arm   : Bool := false
  x     : BitVec 32 := 0
  l     : BitVec 4 := 15
  a     : BitVec 33 := -1
  halt  : Bool := false
  /-- The resident configurations, 33 words each, by slot (R126, R131). -/
  cfgs  : Tbl (List (BitVec 64)) := []
  /-- Whether the tile has swapped in the armed splice, and the inputs and outputs that saw EOS of the old GEN since
  the arming (R137). -/
  swapped : Bool := false
  eosIn  : BitVec 4 := 0
  eosOut : BitVec 4 := 0
  /-- Buffers: 0–3 element inputs, 4–11 link inputs N.a to W.b on the control plane, 12–19 on the data plane. -/
  bufs  : Tbl Buf := []
  outq  : List Deferred := []
  reqs  : List Req := []
  nextReq : Nat := 1
  pendL : BitVec 8 := 0
  pendP : BitVec 8 := 0
  /-- The element took a fabric trap and fires nothing (R314). -/
  stopped : Bool := false
  suspect : Bool := false
  retired : Bool := false
  mx : Matrix := {}
  sp : Spad := {}
  et : ETile := {}
  /-- fc each output has waited for space at a channel stile (R325). -/
  stileWait : Tbl Nat := []
  /-- Macro cells (index of `mx.cell`) with an uncorrectable error (R319). -/
  badCells : List Nat := []
deriving DecidableEq, Repr

/-! ## Regions, tasks, bids -/

/-- An armed splice (R137): successor slot, tag and the context to set it in, the GEN before. -/
structure Splice where
  succ : BitVec 2
  tag  : Option (BitVec 6)
  q    : Nat
  oldGen : Bool
deriving DecidableEq, Repr

/-- A fabric trap detected, or one whose region is trapped and whose report is queued or delivered (R314 to R317). -/
structure TrapInfo where
  cause : BitVec 8
  tile  : Nat
  slot  : Nat
  word  : BitVec 64
  fired : Bool
  nfault : Nat
  detail : BitVec 16
  info0 : BitVec 64
  info1 : BitVec 64
  at_   : Nat
  cycle : Nat
  flags : BitVec 8
  preds : BitVec 8
  /-- The readiness entries of a QNC record (R316). -/
  ready : List (BitVec 64) := []
  /-- The region is trapped and the report queued for its owner. -/
  reported : Bool := false
deriving DecidableEq, Repr

/-- The run state of a region (Table 8-7; a region is waiting to drain when a wait of its owner says so). -/
inductive RunSt where
  | noConfig | running | frozen | trapped
deriving DecidableEq, Repr

/-- One fc's charges, on their way through the budget adder (R267). -/
structure Charge where
  fc : Nat
  ib : Nat
  tb : Nat
deriving DecidableEq, Repr

structure Region where
  alloc : Bool := false
  owner : Nat := 0
  row0  : Nat := 0
  col0  : Nat := 0
  h     : Nat := 0
  w     : Nat := 0
  prio  : Nat := 0
  act   : Option (BitVec 2) := none
  st    : RunSt := .noConfig
  saved : Bool := false
  fold  : BitVec 2 := 0
  fullH : Nat := 0
  drop  : Nat := 0
  dec   : Option (BitVec 2) := none
  spl   : Option Splice := none
  /-- fc for which nothing has happened (R138), and whether something happened in this fc. -/
  quiet : Nat := 0
  busy  : Bool := false
  task  : Option Nat := none
  /-- The image words of each slot, with the changes the shape unit made, and the address they were read from (R40, R319,
  R293). -/
  images : Tbl (BitVec 64 × List (BitVec 64)) := []
  /-- The image words as CFGL read them (R386). -/
  asRead : Tbl (List (BitVec 64)) := []
  trap  : Option TrapInfo := none
  /-- A fault met while the region was trapped, which waits behind its trap (R311). -/
  later : Option TrapInfo := none
  charges : List Charge := []
  /-- The fc from which a budget freeze holds (R267). -/
  freezeAt : Option Nat := none
  /-- The fc from which a YIELDE stops the region (R273). -/
  yieldAt : Option Nat := none
  /-- The save a freeze, yield or journal move owes, not completed (R268). -/
  owesSave : Bool := false
  /-- The fc in which an error was met that the region recovers from (R319). -/
  recover : Option Nat := none
  /-- Paused at a shape point (R293). -/
  paused : Bool := false
  committed : Bool := false
  replayed : Bool := false
  seed  : BitVec 64 := 0
  /-- UFC forced on every tile (R63, Table 14-1). -/
  ufc   : Option Bool := none
  /-- The first fc in which slots may fire again. -/
  runFrom : Nat := 0
  /-- The fc in which the flush tokens of a configuration change leave (R64). -/
  flushFc : Option Nat := none
  /-- Ordinal of the bid that admitted the region (R274). -/
  ord   : Nat := 0
deriving DecidableEq, Repr

/-- Task states (Table 14-5). -/
inductive TaskSt where
  | free | queued | running | frozen | released | faulted
deriving DecidableEq, Repr

structure Task where
  st    : TaskSt := .free
  ser   : BitVec 14 := 0
  parent : Nat := 0
  ttype : BitVec 12 := 0
  row0  : Nat := 0
  col0  : Nat := 0
  place : Nat := 0
  arg   : BitVec 48 := 0
  ibud  : BitVec 64 := 0
  tbud  : BitVec 64 := 0
  contpt : BitVec 64 := 0
  tag   : BitVec 6 := 0
  ytag  : BitVec 6 := 0
  yten  : Bool := false
  ypend : Bool := false
  ycode : BitVec 32 := 0
  contq : Bool := false
  texh  : Bool := false
  iexh  : Bool := false
  rid   : Option Nat := none
  /-- The entry's words MAIN, FOLD2, FOLD4, CONTC. -/
  main  : BitVec 64 := 0
  fold2 : BitVec 64 := 0
  fold4 : BitVec 64 := 0
  contc : BitVec 64 := 0
  h     : Nat := 0
  w     : Nat := 0
  prio  : Nat := 0
  cclass : BitVec 2 := 0
  seed  : BitVec 64 := 0
  ufc   : Option Bool := none
  fuse  : Bool := false
  /-- The configuration that a journal move put in place of CONTC (Table 15-10), and its fold factor. -/
  moveTo : Option (BitVec 64 × BitVec 2) := none
  /-- The fc from which a budget freeze holds that the region's release found pending (R267, R273). -/
  stopAt : Option Nat := none
deriving DecidableEq, Repr

/-- Who bids (R129): a context's RGNA, a task's admission or readmission, the unfold of a region. -/
inductive BidKind where
  | ctx (q : Nat) | task (k : Nat) | unfold (r : Nat)
deriving DecidableEq, Repr

structure Bid where
  kind : BidKind
  row0 : Nat
  col0 : Nat
  h    : Nat
  w    : Nat
  mode : Nat
  prio : Nat
  q    : Nat
  arr  : Nat
  age  : Nat := 0
  /-- Place in the head-of-line order. -/
  hol  : Option Nat := none
  /-- Ordinal of the queue's bids since recording began (R274). -/
  ord  : Nat := 0
deriving DecidableEq, Repr

/-! ## Engines and messages -/

/-- Chain states (Table 13-6). -/
inductive ChainSt where
  | detached | idle | running | stampWait | waitSeq | paused | halted | stopped
deriving DecidableEq, Repr

/-- Who announced entries up to a sequence number, for the traffic charge (R244): a context, a region, or a task (slot and
serial) whose region was released since. -/
inductive Announcer where
  | ctx (q : Nat) | region (r : Nat) | task (k : Nat) (ser : BitVec 14)
deriving DecidableEq, Repr

/-- A 32-bit word, or smaller element, that an engine has read and not written: its number in the entry, the offset of its
element's destination, its value (R185). -/
structure EngWord where
  unit : Nat
  off  : Int
  val  : Nat
deriving DecidableEq, Repr

structure Chain where
  cb    : BitVec 64 := 0
  cur   : BitVec 64 := 0
  next  : BitVec 64 := 0
  tail  : BitVec 64 := 0
  done  : BitVec 64 := 0
  cw    : BitVec 64 := 0
  st    : ChainSt := .detached
  cause : BitVec 8 := 0
  detail : BitVec 8 := 0
  owner : Nat := 0
  /-- The start sequence number S of the attachment (Table 13-2), and the number of the entry whose address CUR holds. -/
  first : BitVec 64 := 0
  curSeq : BitVec 64 := 0
  /-- The entry in progress, its 128 bytes as read from the matching stamp on. -/
  entry : Option (List (BitVec 8)) := none
  /-- The words read so far of the entry that starts, by number, and, at 32 and 33, those of the word that links it
  (R185, R241); the number that the order of reading was drawn with. -/
  got   : Tbl (BitVec 32) := []
  fseed : Nat := 0
  /-- Words of the entry's elements (R185): how many places of the order of reads, and of the order of writes, are behind; the
  words read or written before their place; the words read and not written. `seed` is the number that both orders were
  drawn with (R184, R239). -/
  elem  : Nat := 0
  wrote : Nat := 0
  ahead : List Nat := []
  wahead : List Nat := []
  held  : List EngWord := []
  seed  : Nat := 0
  /-- The fc of the last read, and of the last write, in memory or scratchpad, and its line (R243). -/
  rline : Option (Nat × Int) := none
  wline : Option (Nat × Int) := none
  /-- Stamp reads made. -/
  tries : Nat := 0
  /-- The fc of the next re-read or of the entry's completion. -/
  due   : Nat := 0
  /-- All elements are performed and the completion is due. -/
  moved : Bool := false
  stamp : BitVec 16 := 0
  announced : List (BitVec 64 × Announcer) := []
  /-- A retry is due after ERET (R245). -/
  retry : Bool := false
  /-- The fc in which a remote write was sent that the peer has not answered (R379). -/
  remoteSent : Option Nat := none
deriving DecidableEq, Repr

/-- A message in the network (R253, R254). -/
structure Msg where
  label : BitVec 7
  words : List (BitVec 32)
  eos   : Bool
  src   : Nat
  iter  : BitVec 4
  due   : Nat
  /-- The request of the MSEND that waits for it; 0 for an engine's message. -/
  req   : Nat
  dest  : Nat
  rid   : Option Nat
deriving DecidableEq, Repr

/-! ## Sequencer contexts -/

/-- What an occupied context does when the instruction completes (R75). -/
inductive Pending where
  | nothing
  | write (d : BitVec 5) (v : BitVec 64)
  | access (word : BitVec 64) (va : BitVec 64)
  /-- FFR: TAGS under a mask, read at the end of the fc (R84). -/
  | tagIndex (d : BitVec 5) (mask : BitVec 64)
  | timeout (va : BitVec 64)
  /-- A 64-bit load or store of which one 32-bit half is performed: the physical address, whether it is HOST memory,
  whether the high half was the first, and what a load read there (R185). -/
  | half (word : BitVec 64) (va : BitVec 64) (pa : Nat) (host high : Bool) (got : Nat)
deriving DecidableEq, Repr

/-- The address of a memory access under way. -/
def Pending.accessVa : Pending → Option (BitVec 64)
  | .access _ va | .half _ va _ _ _ _ => some va
  | .nothing | .write _ _ | .tagIndex _ _ | .timeout _ => none

/-- Why a context is not ready (R73). `poll` is an instruction that waits for a condition seen at the end of an fc; its
stage tells what it waits for. -/
inductive Wait where
  | ready
  | busy (due : Nat) (op : Pending)
  | tags (all : Bool) (mask : BitVec 64)
  | wfe (t : Nat) (d : BitVec 5)
  | gated (d : BitVec 5) (wake : Option Nat)
  | poll (word : BitVec 64) (stage : Nat)
deriving DecidableEq, Repr

/-- The source of an asynchronous report (R311). -/
inductive Source where
  | region (r : Nat) | chain (c : Nat) | etile (t : Nat) | task (k : Nat) | journal
deriving DecidableEq, Repr

structure Report where
  cause : BitVec 8
  tval  : BitVec 64
  tval2 : BitVec 64
  src   : Source
  fc    : Nat
  /-- The record of a fabric trap, written at TRBASE before delivery (R315). -/
  rec_  : List (BitVec 8) := []
deriving DecidableEq, Repr

/-- The fields of a launch record that outlive the start (R257, R258). -/
structure Launch where
  nlev  : Nat := 0
  fuse  : Bool := false
  ufcf  : Bool := false
  ufc   : Bool := false
  ttlen : Nat := 0
  seed  : BitVec 64 := 0
  ttbase : BitVec 64 := 0
  levels : List (BitVec 32) := []
deriving DecidableEq, Repr

structure Ctx where
  pc    : BitVec 64 := 0
  regs  : Tbl (BitVec 64) := []
  preds : BitVec 8 := 0
  tags  : BitVec 64 := 0
  latch : Bool := false
  inTrap : Bool := false
  priv  : Bool := false
  tvec  : BitVec 64 := 0
  epc   : BitVec 64 := 0
  tcause : BitVec 64 := 0
  tval  : BitVec 64 := 0
  tval2 : BitVec 64 := 0
  rights : BitVec 4 := 0
  ibud  : BitVec 64 := 0
  tbud  : BitVec 64 := 0
  contpt : BitVec 64 := 0
  tagmask : BitVec 64 := 0
  lrec  : BitVec 64 := 0
  trbase : BitVec 64 := 0
  mcsel : BitVec 8 := 0
  /-- HALTR.HALTED: 0 at reset (Table 16-2); Stage C and the end of a paddock reset halt every context (Tables 24-2 and
  25-1). -/
  halted : Bool := false
  haltCode : BitVec 8 := 0
  saved : Bool := false
  deficit : Int := 0
  wait  : Wait := .ready
  reports : List Report := []
  /-- The source whose report the running handler serves. -/
  serving : Option Source := none
  launch : Launch := {}
  /-- HALTED at the start of this fc, for the doorbells evaluated in it (R374). -/
  wasHalted : Bool := false
  /-- Tags set in this fc, which a clear of the same fc does not clear (R83). -/
  setNow : BitVec 64 := 0
  /-- A host write posted and not yet acknowledged (R89). -/
  hostWrite : Option (BitVec 64) := none
  /-- The fc in which the memory access under way was issued (R325). -/
  since : Nat := 0
  /-- Started from a context page of PF0 or a VF. -/
  subAddr : BitVec 64 := 0
  result : BitVec 8 := 0
deriving DecidableEq, Repr

/-! ## Paddocks -/

/-- Frequency states (Table 1-2). -/
inductive Freq where
  | f0 | f1 | f2 | f3
deriving DecidableEq, Repr

inductive Gate where
  | closed | open_ | resetting
deriving DecidableEq, Repr

/-- What a spare copies of the element it shadows: the active configuration and the element's state (R106). -/
structure ElemSt where
  cfg   : List (BitVec 64) := []
  loc   : Tbl (BitVec 32) := []
  vec   : Tbl (BitVec 512) := []
  preds : BitVec 8 := 0
  rc    : Tbl (BitVec 32) := []
  x     : BitVec 32 := 0
  arm   : Bool := false
  l     : BitVec 4 := 0
  a     : BitVec 33 := 0
  halt  : Bool := false
deriving DecidableEq, Repr

/-- A comparison under way (R106): the element, the slot, the fc in which it is complete, whether DST, tokens and
predicate update agree, and both results. -/
structure SpareCmp where
  tile : Nat
  slot : Nat
  due  : Nat
  same : Bool
  elem : BitVec 64
  spare : BitVec 64
deriving DecidableEq, Repr

/-- The spare element of a row (R106): the column it shadows, the cycle in which it came there, its copy, the element's
own state when the two stood side by side last, and the comparisons under way. -/
structure Spare where
  col  : Nat := 0
  since : Nat := 0
  copy : Option ElemSt := none
  seen : Option ElemSt := none
  cmps : List SpareCmp := []
deriving DecidableEq, Repr

/-- Dispatch trace of a paddock (R274, R275). -/
structure Trace where
  mode  : BitVec 2 := 0
  base  : BitVec 64 := 0
  size  : BitVec 64 := 0
  count : BitVec 32 := 0
  full  : Bool := false
  diverged : Bool := false
  ords  : Tbl Nat := []
  /-- The context that set the mode, and the fc from which arbitration is normal after binding ended. -/
  q     : Nat := 0
  till  : Nat := 0
deriving DecidableEq, Repr

structure Paddock where
  fc    : Nat := 0
  /-- CYCLE (R70). -/
  cycle : BitVec 64 := 0
  /-- Tick of the next edge of the paddock's clock. -/
  next  : Nat := 0
  up    : Bool := false
  down  : Bool := false
  ceil  : BitVec 2 := 0
  clamp : BitVec 2 := 0
  gatedF3 : Bool := false
  /-- The tick at which a doorbell took the paddock out of F3, until it is evaluated (R85). -/
  bell  : Option Nat := none
  gate  : Gate := .closed
  resetDue : Option (Nat × Bool) := none
  part  : Option Nat := none
  dclean : Bool := true
  lastPart : Option Nat := none
  ctxs  : Tbl Ctx := []
  tiles : Tbl Tile := []
  regions : Tbl Region := []
  tasks : Tbl Task := []
  bids  : List Bid := []
  holNext : Nat := 0
  bidNow : Bool := false
  chains : Tbl Chain := []
  /-- The chain each transfer engine served last (R243). -/
  rr    : Tbl Nat := []
  msgs  : List Msg := []
  msgl  : Tbl (BitVec 9) := []
  lqw   : Tbl (BitVec 8) := []
  bypmax : BitVec 8 := 8
  spareq : BitVec 5 := 20
  scrubq : BitVec 5 := 26
  dec   : Bool := false
  cecnt : BitVec 16 := 0
  /-- Lines of the old code not yet re-encoded, by number visited (R162). -/
  reenc : Bool := false
  /-- The fc in which the scrubbers last visited a line (R162). -/
  scrubbed : Tbl Nat := []
  scrubAt : Nat := 0
  /-- The line at which a change of code is complete (R162). -/
  reencAt : Nat := 0
  stiletmo : BitVec 32 := 65536
  spares : Tbl Spare := []
  trace : Trace := {}
  tlb   : List TlbEnt := []
  /-- Charges of regions that are freed, on their way to a task or context (R267). -/
  late  : List (Announcer × Charge) := []
  /-- Reports, with the contexts they are for, that wait behind one of the same source (R311). -/
  behind : List (Nat × Report) := []
  /-- Tasks that hold the L1s of the paddock fused (R152). -/
  fused : List Nat := []
  /-- PRG tokens retired in this fc's window (R295). -/
  prg   : Nat := 0
  /-- A task region of the paddock runs in this fc; one does not, or a task has yielded its region (R20, R295). -/
  ran   : Bool := false
  stalled : Bool := false
  /-- Lines of home memory with an uncorrectable or a correctable error (R160), by line number. -/
  badLines : List Nat := []
  softLines : List Nat := []
deriving DecidableEq, Repr

/-! ## Partitions and the journal -/

structure HostWin where
  base : BitVec 64 := 0
  size : BitVec 64 := 0
  write : Bool := false
deriving DecidableEq, Repr

/-- A shapeable object (R287, R288): the eight words of its descriptor; CUR is kept in `cur`. -/
structure Desc where
  words : List (BitVec 64)
  cur   : BitVec 8
deriving DecidableEq, Repr

structure ObjTable where
  addr  : BitVec 64
  tune  : Bool
  ntrialw : Nat
  w     : Nat
  margin : Nat
  descs : List Desc
  seed  : BitVec 64
deriving DecidableEq, Repr

/-- A journal record as the controller holds it (Table 15-2); CHECK is computed as it is written. -/
structure JRec where
  seq   : BitVec 48
  kind  : BitVec 4
  st    : BitVec 4
  flags : BitVec 8 := 0
  pmask : BitVec 32 := 0
  obj   : BitVec 32 := 0
  deps  : List (BitVec 16) := []
  before : BitVec 64 := 0
  after : BitVec 64 := 0
  base  : BitVec 32 := 0
  meas  : BitVec 32 := 0
  origin : BitVec 2 := 0
  reason : BitVec 8 := 0
  conv  : BitVec 16 := 0
  inex  : BitVec 16 := 0
  time  : BitVec 48 := 0
deriving DecidableEq, Repr

structure Sub where
  active : Bool := false
  paddock : Nat := 0
  q    : Nat := 0
  ring : BitVec 64 := 0
  tag  : BitVec 6 := 0
  kinds : BitVec 16 := 0
  ovf  : Bool := false
deriving DecidableEq, Repr

structure Pin where
  ver   : BitVec 48
  scope : BitVec 32
  paddock : Nat
  q     : Nat
deriving DecidableEq, Repr

/-- The trial that runs (R292, R296): its records and the paddocks they touch, the BASE of its verdict, windows completed
and their sum, and fc and count of the window that runs. -/
structure Trial where
  seqs  : List (BitVec 48)
  mask  : BitVec 32
  base  : Nat
  wins  : Nat := 0
  fcs   : Nat := 0
  /-- PRG tokens retired in each paddock of the partition in the fc counted so far (R296). -/
  prg   : Tbl Nat := []
deriving DecidableEq, Repr

/-- The baseline windows of an object (R295): fc and count of the one that runs, the last four complete, and fc counted
since the last verdict (R297). -/
structure BaseWin where
  fcs   : Nat := 0
  cnt   : Nat := 0
  hist  : List Nat := []
  since : Nat := 0
deriving DecidableEq, Repr

/-- What a shape point serves: a PROPOSED record, the closure of a record, or the records a JRPL has left to apply, with
the new seq of each one applied. `by_` is the context that waits. -/
inductive ShapeReq where
  | apply (seq : BitVec 48)
  | revert (members : List (BitVec 48)) (origin : BitVec 2) (reason : BitVec 8) (by_ : Option (Nat × Nat))
  | replay (recs : List JRec) (map : List (BitVec 48 × BitVec 48)) (by_ : Nat × Nat)
deriving DecidableEq, Repr

/-- The shape point in progress (R293): the outputs (paddock, tile, number) that stand still, whether the regions are
paused, and the fc in which that began. -/
structure ShapePt where
  req   : ShapeReq
  mask  : BitVec 32
  srcs  : List (Nat × Nat × Nat)
  paused : Bool
  since : Nat
  /-- It has not begun: the journal is stopped, or a member is not OPEN (R391, R322). -/
  held  : Bool := false
deriving DecidableEq, Repr

structure Journal where
  area  : Option (BitVec 64) := none
  k     : Nat := 0
  first : BitVec 48 := 1
  next  : BitVec 48 := 1
  ver   : BitVec 48 := 0
  pin   : Option Pin := none
  /-- The version pinned last (the BEFORE of the next PIN record, Table 15-3). -/
  lastPin : BitVec 48 := 0
  subs  : Tbl Sub := []
  recs  : Tbl JRec := []
  obj   : Option ObjTable := none
  baseBy : Option (Nat × Nat) := none
  trial : Option Trial := none
  wins  : Tbl BaseWin := []
  /-- The object of the tuner's last proposal, plus one. -/
  tuner : Nat := 0
  shape : Option ShapePt := none
  stopped : Bool := false
  failed : List (BitVec 48) := []
  /-- The words of the last record write that are not in memory yet, and where they go (R309, R185). -/
  tail  : Option (Nat × Bool × List (BitVec 8)) := none
deriving DecidableEq, Repr

structure Partition where
  exists_ : Bool := false
  mask  : BitVec 32 := 0
  asid  : BitVec 16 := 0
  pasid : BitVec 20 := 0
  link  : Bool := false
  bound : Bool := false
  wins  : Tbl HostWin := []
  jr    : Journal := {}
deriving DecidableEq, Repr

/-! ## The module -/

/-- The host's translation of a page: for a function (0 PF0, n VF n) and, for a VF, a PASID; none where it gives none. -/
structure AtsPage where
  fn : Nat
  pasid : BitVec 20
  page : Nat
  phys : Option Nat
deriving DecidableEq, Repr

/-- A channel stile (R323): its ends, the tokens under way with the fc they arrive, the port buffer. -/
structure ChanStile where
  sp : Nat
  st : Nat
  so : Nat
  rp : Nat
  rt : Nat
  flight : List (Nat × Tok) := []
  port : List Tok := []
  /-- Places reserved by deferred slots of the sender, and the places occupied as in `Buf`. -/
  resv : Nat := 0
  used : Nat := 0
deriving DecidableEq, Repr

structure MemStile where
  owner : Nat
  base  : Nat
  log2  : Nat
  write : Bool
  part  : Nat
deriving DecidableEq, Repr

/-- A word that a member contributes to a round of a collective: rank, number of the word in the tensor, value. -/
structure CollVal where
  rank : Nat
  unit : Nat
  val  : Nat
deriving DecidableEq, Repr

/-- A collective group (R240): size, members by rank (a paddock of the module, or 32 and above for a chain of another
module), rounds completed; whether a round is under way, the ranks that have performed it, and what was contributed. -/
structure Group where
  n : Nat
  members : List Nat
  rounds : BitVec 16 := 0
  begun : Bool := false
  fin  : List Nat := []
  vals : List CollVal := []
deriving DecidableEq, Repr

structure LinkWin where
  part : Nat
  srcMod : BitVec 20
  srcPart : Nat
  asid : BitVec 16
deriving DecidableEq, Repr

structure HostLink where
  up : Bool := false
  rate : BitVec 8 := 0
  width : BitVec 8 := 0
  ide : List (BitVec 8) := []
deriving DecidableEq, Repr

/-- The mailbox (R376): command words 0x00 to 0x38, the status word, the management window (R377), the notice ring, and how
many commands owed were given by the words and a doorbell before: they run without a write of the words. -/
structure Mailbox where
  words : Tbl (BitVec 64) := []
  status : BitVec 64 := 0
  mwbase : BitVec 64 := 0
  mwsize : BitVec 64 := 0
  ring  : Option (BitVec 64 × Nat) := none
  late  : Nat := 0
deriving DecidableEq, Repr

/-- The controller's non-volatile store (R382, R383). -/
structure NvStore where
  secver : Option (BitVec 64) := none
  image : Option (List (BitVec 8)) := none
  fails : BitVec 2 := 0
  safe  : Bool := false
deriving DecidableEq, Repr

/-- BOOT_REASON's fields that no store keeps (R384), the stage that runs, the tick it began, and the image the boot ROM
accepted in this start (R382). -/
structure Boot where
  pdown : BitVec 32 := 0
  stage : BitVec 4 := 0
  code  : BitVec 8 := 0
  running : BitVec 2 := 1
  since : Nat := 0
  power : Bool := true
  fw    : Option (List (BitVec 8)) := none
deriving DecidableEq, Repr

/-- A micro-step the machine owes (log 1): an instruction or event, one issue, one firing, or a phase of a paddock's
fc that looks for the next ones. -/
inductive Act where
  | run (i : Instr)
  | issue (p : Fin 32) (q : Fin 4)
  | fire (p : Fin 32) (t : Fin 144) (s : Fin 16)
  | phase (n : Nat) (p : Fin 32)
deriving DecidableEq, Repr

/-- What the environment does (log 13): a host or power event, or a soft error. -/
inductive Input where
  | event (i : Instr)
  | badLine (p : Fin 32) (line : Nat)
  | softLine (p : Fin 32) (line : Nat)
  | badWord (p : Fin 32) (t : Fin 144) (n : Nat)
  | softWord (p : Fin 32) (t : Fin 144) (n : Nat)
  | badCell (p : Fin 32) (t : Fin 144) (n : Nat)
  | badL1 (p : Fin 32) (t : Fin 144) (line : Nat)
  | spareFault (p : Fin 32) (row : Fin 12) (v : BitVec 64)
  | hostStore (addr : Nat) (bytes : List (BitVec 8))
  | atsPage (x : AtsPage)
deriving DecidableEq, Repr

/-- The unit that acts: a context for a sequencer word, a tile and slot for a fabric word. -/
structure Actor where
  p : Nat := 0
  q : Nat := 0
  t : Nat := 0
  slot : Nat := 0
deriving DecidableEq, Repr

structure State where
  pads  : Tbl Paddock := []
  /-- Local physical memory (R150): bytes as L2 and DRAM hold them together. -/
  mem   : List Host.Cell := []
  /-- What DRAM holds of the bytes L2 has not written back (log 10). -/
  dram  : Tbl (BitVec 8) := []
  host  : List Host.Cell := []
  parts : Tbl Partition := []
  roots : Tbl (BitVec 64) := []
  groups : Tbl Group := []
  linkWins : List LinkWin := []
  chStiles : Tbl ChanStile := []
  mStiles : Tbl MemStile := []
  links : Tbl HostLink := []
  vfs   : BitVec 32 := 0
  /-- What the host translates of its pages (R371, R372; the environment's): the latest entry of a page first; a page
  without one translates to itself (log 13). -/
  ats : List AtsPage := []
  box   : Mailbox := {}
  nv    : NvStore := {}
  boot  : Boot := {}
  plim  : Nat := 2200
  lowered : List Nat := []
  /-- Ticks of 5/12 ns since module start (TIME, R70). -/
  now   : Nat := 0
  /-- Commands and doorbells that wait for Stage C or for their fc (R374, R381). -/
  waiting : List Instr := []
  /-- The model's own: micro-steps owed, the acting unit, the free-value counter, the environment. -/
  agenda : List Act := []
  cur   : Actor := {}
  free  : Nat := 0
  inputs : List (Nat × Input) := []
deriving DecidableEq, Repr

/-- The module right after reset: powered, the start not yet run, every field at its reset value, memory with nothing
listed (R381, R384). -/
def State.reset : State := {}

end Sys2Proof.Machine
end

