-- ==== Sys2Proof/Machine/Bits.lean ====
section
/-! DEFINITION. Bit fields, sign extension and byte order (R3, R77): the helpers every family uses. -/

namespace Sys2Proof.Machine

/-- Bits [lo + n − 1 : lo] of a word as a number. -/
def fld {w : Nat} (x : BitVec w) (lo n : Nat) : Nat := (x.toNat >>> lo) % 2 ^ n

/-- SExt(x, n): the low n bits of x read as a two's-complement value (R77). -/
def sext (x : Nat) (n : Nat) : Int :=
  let y := x % 2 ^ n
  if y < 2 ^ (n - 1) then (y : Int) else (y : Int) - (2 ^ n : Nat)

/-- Wrap64(v): v modulo 2^64 (R77). -/
def wrap64 (v : Int) : BitVec 64 := BitVec.ofInt 64 v

/-- Wrap32(v): v modulo 2^32 (R99). -/
def wrap32 (v : Int) : BitVec 32 := BitVec.ofInt 32 v

/-- The value of an immediate (R29): sign-extended from 32 bits. -/
def immInt (i : BitVec 32) : Int := i.toInt

/-- A number from its bytes, lowest address first (R3). -/
def natOfBytes : List (BitVec 8) → Nat
  | [] => 0
  | b :: bs => b.toNat + 256 * natOfBytes bs

/-- The n bytes of a number, lowest address first (R3). -/
def bytesOfNat : Nat → Nat → List (BitVec 8)
  | 0, _ => []
  | n + 1, v => BitVec.ofNat 8 v :: bytesOfNat n (v / 256)

/-- ⌈a / b⌉. -/
def ceilDiv (a b : Nat) : Nat := (a + b - 1) / b

/-- The index of the lowest set bit below n, or n (R84). -/
def lowBit {w : Nat} (x : BitVec w) (n : Nat) : Nat :=
  ((List.range n).find? fun i => x.getLsbD i).getD n

/-- The number of leading zero bits of a word of w bits. -/
def clz {w : Nat} (x : BitVec w) : Nat :=
  if x.toNat = 0 then w else w - 1 - Nat.log2 x.toNat

/-- The number of one bits. -/
def popc {w : Nat} (x : BitVec w) : Nat :=
  (List.range w).foldl (fun n i => n + (x.getLsbD i).toNat) 0

/-- Bit n of a mask set to b. -/
def setBit {w : Nat} (x : BitVec w) (n : Nat) (b : Bool) : BitVec w :=
  if b then x ||| BitVec.ofNat w (2 ^ n) else x &&& ~~~BitVec.ofNat w (2 ^ n)

/-- The row and column of a tile (R12). -/
def tileRow (t : Nat) : Nat := t / 12
def tileCol (t : Nat) : Nat := t % 12
def tileAt (r c : Nat) : Nat := 12 * r + c

/-- Tile types as the header's TTYPE codes them (Table 3-9). -/
inductive TType where
  | e | m | v | s
deriving DecidableEq, Repr

/-- The tile type of a column (R12, Table 1-4). -/
def tileType (t : Nat) : TType :=
  let c := tileCol t
  if c = 0 then .e else if c = 5 ∨ c = 11 then .v else if c = 6 then .s else .m

/-- TTYPE codes (Table 3-9). -/
def TType.code : TType → Nat
  | .e => 0 | .m => 1 | .v => 2 | .s => 3

end Sys2Proof.Machine
end

