-- ==== Sys2Proof/Machine/Flags.lean ====
section
/-! DEFINITION. The scalar functions of the machine with their flags: the sequencer's 64-bit results (R78, R79), the
sequencer's compares (R81) and the pair F(a, b) of the element arithmetic class (R100, Table 6-4). -/

namespace Sys2Proof.Machine

/-! ## Sequencer results (Tables 5-4 and 5-5) -/

/-- MULH: ⌊SExt(A) × SExt(B) / 2^64⌋. -/
def mulh64 (a b : BitVec 64) : BitVec 64 := BitVec.ofInt 64 (a.toInt * b.toInt / 2 ^ 64)

/-- MULHU: ⌊A × B / 2^64⌋. -/
def mulhu64 (a b : BitVec 64) : BitVec 64 := BitVec.ofNat 64 (a.toNat * b.toNat / 2 ^ 64)

/-- DIVU: 2^64 − 1 when B = 0. -/
def divu64 (a b : BitVec 64) : BitVec 64 := if b = 0 then BitVec.allOnes 64 else a / b

/-- REMU: A when B = 0. -/
def remu64 (a b : BitVec 64) : BitVec 64 := if b = 0 then a else a % b

/-- Shift amounts are B[5:0]. -/
def shl64 (a b : BitVec 64) : BitVec 64 := a <<< (b.toNat % 64)
def shr64 (a b : BitVec 64) : BitVec 64 := a >>> (b.toNat % 64)
def sra64 (a b : BitVec 64) : BitVec 64 := a.sshiftRight (b.toNat % 64)

/-- Signed and unsigned minimum and maximum, of any width. -/
def smin {w : Nat} (a b : BitVec w) : BitVec w := if b.slt a then b else a
def smax {w : Nat} (a b : BitVec w) : BitVec w := if a.slt b then b else a
def umin {w : Nat} (a b : BitVec w) : BitVec w := if b.ult a then b else a
def umax {w : Nat} (a b : BitVec w) : BitVec w := if a.ult b then b else a

/-- The 64-bit pattern of an immediate (R29). -/
def immW (i : BitVec 32) : BitVec 64 := i.signExtend 64

/-- MOVHI: IMM × 2^32 + A[31:0]. -/
def movhi64 (a : BitVec 64) (imm : BitVec 32) : BitVec 64 := imm ++ a.extractLsb' 0 32

/-! ## Element arithmetic (Table 6-4) -/

/-- A result and its flag. -/
abbrev ResFlag := BitVec 32 × Bool

/-- A result whose flag is res ≠ 0. -/
def nz (r : BitVec 32) : ResFlag := (r, r != 0)

/-- A truth value, as result and flag. -/
def truth (b : Bool) : ResFlag := ((BitVec.ofBool b).setWidth 32, b)

def fAdd (a b : BitVec 32) : ResFlag := (a + b, decide (2 ^ 32 ≤ a.toNat + b.toNat))
def fSub (a b : BitVec 32) : ResFlag := (a - b, a.ult b)
def fMul (a b : BitVec 32) : ResFlag :=
  let p := a.toInt * b.toInt
  (a * b, decide (p < -2 ^ 31) || decide (2 ^ 31 - 1 < p))
def fMulh (a b : BitVec 32) : ResFlag := nz (BitVec.ofInt 32 (a.toInt * b.toInt / 2 ^ 32))
def fMulhu (a b : BitVec 32) : ResFlag := nz (BitVec.ofNat 32 (a.toNat * b.toNat / 2 ^ 32))

/-- A value clamped into [lo, hi], and whether it was. -/
def clampInt (lo hi v : Int) : Int × Bool :=
  if v < lo then (lo, true) else if hi < v then (hi, true) else (v, false)

def fAddsat (a b : BitVec 32) : ResFlag :=
  let (v, c) := clampInt (-2 ^ 31) (2 ^ 31 - 1) (a.toInt + b.toInt)
  (BitVec.ofInt 32 v, c)

def fAnd (a b : BitVec 32) : ResFlag := nz (a &&& b)
def fOr (a b : BitVec 32) : ResFlag := nz (a ||| b)
def fXor (a b : BitVec 32) : ResFlag := nz (a ^^^ b)
def fAndn (a b : BitVec 32) : ResFlag := nz (a &&& ~~~b)

/-- s = b[4:0]. -/
def shAmt (b : BitVec 32) : Nat := b.toNat % 32

def fShl (a b : BitVec 32) : ResFlag :=
  let s := shAmt b
  (a <<< s, decide (0 < s) && a.getLsbD (32 - s))
def fShr (a b : BitVec 32) : ResFlag :=
  let s := shAmt b
  (a >>> s, decide (0 < s) && a.getLsbD (s - 1))
def fSra (a b : BitVec 32) : ResFlag :=
  let s := shAmt b
  (a.sshiftRight s, decide (0 < s) && a.getLsbD (s - 1))
def fRot (a b : BitVec 32) : ResFlag :=
  let r := a.rotateLeft (shAmt b)
  (r, r.getLsbD 0)

/-- A minimum or maximum with its flag: b ≠ a and res = b. -/
def pick (m : BitVec 32 → BitVec 32 → BitVec 32) (a b : BitVec 32) : ResFlag :=
  let r := m a b
  (r, b != a && r == b)
def fMin (a b : BitVec 32) : ResFlag := pick smin a b
def fMax (a b : BitVec 32) : ResFlag := pick smax a b
def fMinu (a b : BitVec 32) : ResFlag := pick umin a b
def fMaxu (a b : BitVec 32) : ResFlag := pick umax a b

def fCeq (a b : BitVec 32) : ResFlag := truth (a == b)
def fCne (a b : BitVec 32) : ResFlag := truth (a != b)
def fClt (a b : BitVec 32) : ResFlag := truth (a.slt b)
def fCltu (a b : BitVec 32) : ResFlag := truth (a.ult b)
def fCle (a b : BitVec 32) : ResFlag := truth (a.sle b)
def fCleu (a b : BitVec 32) : ResFlag := truth (a.ule b)

/-- SEL: p is p[PD] before the firing. -/
def fSel (p : Bool) (a b : BitVec 32) : ResFlag := (if p then a else b, p)

def fClz (b : BitVec 32) : ResFlag := (BitVec.ofNat 32 (clz b), b == 0)
def fPopc (b : BitVec 32) : ResFlag :=
  let r := BitVec.ofNat 32 (popc b)
  (r, r.getLsbD 0)

/-- pos = b[4:0] and len = b[9:5] + 1. -/
def bfPos (b : BitVec 32) : Nat := fld b 0 5
def bfLen (b : BitVec 32) : Nat := fld b 5 5 + 1

def fBfx (a b : BitVec 32) : ResFlag := nz (BitVec.ofNat 32 (a.toNat / 2 ^ bfPos b % 2 ^ bfLen b))

/-- BFI: bits pos to min(pos + len − 1, 31) of d replaced by a's low bits. -/
def fBfi (d a b : BitVec 32) : ResFlag :=
  let m : BitVec 32 := BitVec.ofNat 32 ((2 ^ bfLen b - 1) * 2 ^ bfPos b)
  nz ((d &&& ~~~m) ||| ((a <<< bfPos b) &&& m))

/-- AGEN: Wrap32(a + Wrap32(b × 2^PD)), no flag. -/
def fAgen (pd : BitVec 3) (a b : BitVec 32) : ResFlag := (a + (b <<< pd.toNat), false)

/-! ## Numeric flags (Table 4-11) -/

abbrev flNV : BitVec 8 := 0x01
abbrev flOF : BitVec 8 := 0x02
abbrev flUF : BitVec 8 := 0x04
abbrev flNX : BitVec 8 := 0x08
abbrev flQINF : BitVec 8 := 0x10
abbrev flNFSKIP : BitVec 8 := 0x20
abbrev flSAT : BitVec 8 := 0x40

/-- A flag's bit when its event happened. -/
def flagIf (b : Bool) (f : BitVec 8) : BitVec 8 := if b then f else 0

end Sys2Proof.Machine
end

