-- ==== Sys2Proof/Machine/Numfmt.lean ====
section
/-! DEFINITION. Number formats, exact values, Round and the stochastic-rounding generator (R46 to R63). An exact value is
a sign and a ratio of naturals. A function with irrational values (2^y, log2 y, 1/√y) gives a ratio that lies in the
same open interval between neighbouring multiples of 2^−p as the exact value, for a p far beyond every threshold that
Round compares against, so that Round answers as it does on the exact value. -/

namespace Sys2Proof.Machine

/-! ## Exact values -/

/-- An extended real: NaN, an infinity, or ±num/den with den > 0. A zero keeps a sign. -/
inductive Ex where
  | nan
  | inf (neg : Bool)
  | fin (neg : Bool) (num den : Nat)
deriving DecidableEq, Repr

namespace Ex

/-- num × 2^e / 1 as a value. -/
def dy (neg : Bool) (n : Nat) (e : Int) : Ex :=
  if 0 ≤ e then .fin neg (n * 2 ^ e.toNat) 1 else .fin neg n (2 ^ (-e).toNat)

/-- An integer; zero is +0 (R57). -/
def ofInt (v : Int) : Ex := .fin (decide (v < 0)) v.natAbs 1

/-- An integer times 2^e; zero is +0. -/
def ofIntScaled (v : Int) (e : Int) : Ex := dy (decide (v < 0)) v.natAbs e

def isZero : Ex → Bool
  | .fin _ n _ => n == 0
  | _ => false

def isNan : Ex → Bool
  | .nan => true
  | _ => false

def isInf : Ex → Bool
  | .inf _ => true
  | _ => false

def isFin : Ex → Bool
  | .fin .. => true
  | _ => false

/-- The sign bit. -/
def neg? : Ex → Bool
  | .nan => false
  | .inf s => s
  | .fin s _ _ => s

def neg : Ex → Ex
  | .nan => .nan
  | .inf s => .inf (!s)
  | .fin s n d => .fin (!s) n d

def abs : Ex → Ex
  | .nan => .nan
  | .inf _ => .inf false
  | .fin _ n d => .fin false n d

/-- The signed numerator. -/
def sgn (s : Bool) (n : Nat) : Int := if s then -(n : Int) else n

/-- Times 2^e, exactly. -/
def scale (e : Int) : Ex → Ex
  | .fin s n d => if 0 ≤ e then .fin s (n * 2 ^ e.toNat) d else .fin s n (d * 2 ^ (-e).toNat)
  | x => x

/-- A product, and whether it is 0 × Inf. -/
def mul : Ex → Ex → Ex × Bool
  | .nan, _ => (.nan, false)
  | _, .nan => (.nan, false)
  | .inf a, .inf b => (.inf (a != b), false)
  | .inf a, .fin b n _ => if n = 0 then (.nan, true) else (.inf (a != b), false)
  | .fin b n _, .inf a => if n = 0 then (.nan, true) else (.inf (a != b), false)
  | .fin a n d, .fin b m e => (.fin (a != b) (n * m) (d * e), false)

/-- A sum, and whether it is Inf − Inf; a zero sum takes its sign as R218 gives, `rdn` naming the mode RDN. -/
def add (rdn : Bool) : Ex → Ex → Ex × Bool
  | .nan, _ => (.nan, false)
  | _, .nan => (.nan, false)
  | .inf a, .inf b => if a = b then (.inf a, false) else (.nan, true)
  | .inf a, .fin .. => (.inf a, false)
  | .fin .., .inf a => (.inf a, false)
  | .fin a n d, .fin b m e =>
    let v := sgn a (n * e) + sgn b (m * d)
    if v = 0 then (.fin (if n = 0 ∧ m = 0 ∧ a = b then a else rdn) 0 1, false)
    else (.fin (decide (v < 0)) v.natAbs (d * e), false)

/-- a < b for values that are not NaN, −0 equal to +0. -/
def lt : Ex → Ex → Bool
  | .nan, _ => false
  | _, .nan => false
  | .inf a, .inf b => a && !b
  | .inf a, .fin .. => a
  | .fin .., .inf b => !b
  | .fin a n d, .fin b m e => decide (sgn a (n * e) < sgn b (m * d))

/-- a = b for values that are not NaN, −0 equal to +0. -/
def eq : Ex → Ex → Bool
  | .inf a, .inf b => a == b
  | .fin a n d, .fin b m e => decide (sgn a (n * e) = sgn b (m * d))
  | _, _ => false

end Ex

/-- ⌊log2 (n/d)⌋ for n, d > 0. -/
def flog2 (n d : Nat) : Int :=
  let k : Int := (Nat.log2 n : Int) - (Nat.log2 d : Int)
  let ge := if 0 ≤ k then decide (d * 2 ^ k.toNat ≤ n) else decide (d ≤ n * 2 ^ (-k).toNat)
  if ge then k else k - 1

/-! ## Formats (Table 4-2) -/

/-- Data formats by TAG (Table 4-1). -/
inductive Tag where
  | int | fp32 | bf16 | e4m3 | e5m2 | e2m1 | q4 | ps8
deriving DecidableEq, Repr

def Tag.ofBits (t : BitVec 3) : Tag :=
  match t.toNat with
  | 0 => .int | 1 => .fp32 | 2 => .bf16 | 3 => .e4m3 | 4 => .e5m2 | 5 => .e2m1 | 6 => .q4 | _ => .ps8

def Tag.bits : Tag → BitVec 3
  | .int => 0 | .fp32 => 1 | .bf16 => 2 | .e4m3 => 3 | .e5m2 => 4 | .e2m1 => 5 | .q4 => 6 | .ps8 => 7

/-- A floating-point format: widths of exponent and fraction, bias, largest finite magnitude code, the magnitude code
of infinity and of the canonical NaN where it has them. -/
structure Fp where
  e : Nat
  m : Nat
  bias : Int
  big : Nat
  inf : Option Nat
  nan : Option Nat
deriving DecidableEq, Repr

def fpFP32 : Fp := { e := 8, m := 23, bias := 127, big := 0x7F7FFFFF, inf := some 0x7F800000, nan := some 0x7FC00000 }
def fpBF16 : Fp := { e := 8, m := 7, bias := 127, big := 0x7F7F, inf := some 0x7F80, nan := some 0x7FC0 }
def fpE5M2 : Fp := { e := 5, m := 2, bias := 15, big := 0x7B, inf := some 0x7C, nan := some 0x7E }
def fpE4M3 : Fp := { e := 4, m := 3, bias := 7, big := 0x7E, inf := none, nan := some 0x7F }
def fpE2M1 : Fp := { e := 2, m := 1, bias := 1, big := 7, inf := none, nan := none }

/-- The floating-point format of a tag. -/
def Tag.fp : Tag → Option Fp
  | .fp32 => some fpFP32 | .bf16 => some fpBF16 | .e4m3 => some fpE4M3 | .e5m2 => some fpE5M2 | .e2m1 => some fpE2M1
  | _ => none

/-- The bits of a code. -/
def Fp.width (f : Fp) : Nat := 1 + f.e + f.m

/-- INT lane width from LW (Table 3-9). -/
def lwBits (lw : BitVec 2) : Nat := if lw = 0 then 8 else if lw = 1 then 16 else 32

/-- Lane width of a format (Table 4-1). -/
def Tag.lane (lw : BitVec 2) : Tag → Nat
  | .int => lwBits lw
  | .fp32 => 32 | .bf16 => 16 | .e4m3 => 8 | .e5m2 => 8 | .e2m1 => 4 | .q4 => 4 | .ps8 => 8

/-- The value of a code (R49): every code is a value, an infinity or a NaN. -/
def Fp.dec (f : Fp) (code : Nat) : Ex :=
  let mag := code % 2 ^ (f.e + f.m)
  let s := code / 2 ^ (f.e + f.m) % 2 == 1
  if f.inf = some mag then .inf s
  else if f.inf.isSome ∧ f.big < mag then .nan
  else if f.nan = some mag then .nan
  else
    let ex := mag / 2 ^ f.m
    let fr := mag % 2 ^ f.m
    if ex = 0 then Ex.dy s fr (1 - f.bias - f.m)
    else Ex.dy s (2 ^ f.m + fr) ((ex : Int) - f.bias - f.m)

/-- A code with a sign. -/
def Fp.sign (f : Fp) (neg : Bool) (mag : Nat) : Nat := (if neg then 2 ^ (f.e + f.m) else 0) + mag

/-- Whether a code is subnormal. -/
def Fp.isSub (f : Fp) (code : Nat) : Bool :=
  let mag := code % 2 ^ (f.e + f.m)
  mag != 0 && mag / 2 ^ f.m == 0

/-! ## Rounding (R57 to R63) -/

/-- Rounding modes (Table 4-6). -/
inductive Rnd where
  | rne | rtz | rup | rdn | sr
deriving DecidableEq, Repr

def Rnd.ofBits (b : Nat) : Rnd :=
  if b = 0 then .rne else if b = 1 then .rtz else if b = 2 then .rup else if b = 3 then .rdn else .sr

/-- How a result is rounded: the mode, whether STOCH acts, and the random word of R61. -/
structure RndCtx where
  mode : Rnd
  stoch : Bool := false
  r : Nat := 0
deriving DecidableEq, Repr

/-- Whether a magnitude (N + rem/den) rounds away from zero (Table 4-6), rem > 0 included. -/
def roundAway (c : RndCtx) (neg : Bool) (n rem den : Nat) : Bool :=
  match c.mode with
  | .rne => decide (den < 2 * rem) || (decide (2 * rem = den) && n % 2 == 1)
  | .rtz => false
  | .rup => decide (0 < rem) && !neg
  | .rdn => decide (0 < rem) && neg
  | .sr => decide (65536 ≤ rem * 65536 / den + c.r)

/-- Quotient and remainder of (num/den) / 2^k, the remainder over the returned denominator. -/
def scaledDiv (num den : Nat) (k : Int) : Nat × Nat × Nat :=
  let nn := if 0 ≤ k then num else num * 2 ^ (-k).toNat
  let dd := if 0 ≤ k then den * 2 ^ k.toNat else den
  (nn / dd, nn % dd, dd)

/-- Overflow (R59, Table 4-7). -/
def Fp.over (f : Fp) (mode : Rnd) (neg : Bool) : Nat :=
  match f.inf with
  | none => f.sign neg f.big
  | some i =>
    match mode with
    | .rne | .sr => f.sign neg i
    | .rtz => f.sign neg f.big
    | .rup => if neg then f.sign true f.big else i
    | .rdn => if neg then f.sign true i else f.big

/-- Round(x, fmt, mode) (R57), with the underflow class (R63) for formats other than FP32: the code and the flags it
sets. -/
def Fp.round (f : Fp) (c : RndCtx) : Ex → Nat × BitVec 8
  | .nan =>
    match f.nan with
    | some n => (n, 0)
    | none => (0, flNV)
  | .inf s =>
    match f.inf with
    | some i => (f.sign s i, 0)
    | none => (f.sign s f.big, flOF)
  | .fin s num den =>
    if num = 0 then (f.sign s 0, 0)
    else
      let lo := 1 - f.bias
      let e0 := flog2 num den
      if c.stoch ∧ f.e + f.m ≠ 31 ∧ e0 < lo - f.m then
        -- 0 < |x| < μ = 2^(1 − bias − m): R63
        let (_, rem, dd) := scaledDiv num den (lo - f.m)
        let up := decide (65536 ≤ rem * 65536 / dd + c.r)
        (f.sign s up.toNat, flUF ||| flNX)
      else
        let e := max e0 lo
        let (n, rem, dd) := scaledDiv num den (e - f.m)
        let up := roundAway c s n rem dd
        let mag := ((e + f.bias - 1).toNat) * 2 ^ f.m + (n + up.toNat)
        let fl := flagIf (decide (0 < rem)) flNX ||| flagIf (decide (0 < rem) && decide (e0 < lo)) flUF
        if f.big < mag then (f.over c.mode s, fl ||| flOF)
        else (f.sign s mag, fl)

/-- A value rounded to an integer in a mode: the integer and whether it was inexact. -/
def roundInt (c : RndCtx) (s : Bool) (num den : Nat) : Int × Bool :=
  let n := num / den
  let rem := num % den
  let m := n + (roundAway c s n rem den).toNat
  (Ex.sgn s m, decide (0 < rem))

/-! ## The generator (R60, R61) -/

/-- The random word r for a counter C (R61). -/
def srWord (seed : BitVec 64) (c : BitVec 64) : Nat :=
  let z := seed + (c + 1) * 0x9E3779B97F4A7C15
  let z := (z ^^^ (z >>> 30)) * 0xBF58476D1CE4E5B9
  let z := (z ^^^ (z >>> 27)) * 0x94D049BB133111EB
  let z := z ^^^ (z >>> 31)
  z.toNat % 65536

/-- The counter C of Table 4-9. -/
def srCounter (pos : BitVec 32) (slot drow dcol lane : Nat) : BitVec 64 :=
  pos ++ BitVec.ofNat 4 slot ++ BitVec.ofNat 4 drow ++ BitVec.ofNat 4 dcol ++ BitVec.ofNat 7 lane ++ 0#13

/-! ## Lanes (R46, R53 to R56) -/

/-- Lane i of w bits of a vector. -/
def laneOf (v : BitVec 512) (w i : Nat) : Nat := v.toNat / 2 ^ (w * i) % 2 ^ w

/-- A vector from its lane codes, lane 0 first. -/
def ofLanes (w : Nat) : List Nat → BitVec 512
  | l => BitVec.ofNat 512 (l.foldr (fun c acc => acc * 2 ^ w + c % 2 ^ w) 0)

/-- The value of an E8M0 scale: the exponent, or none for NaN (R53). -/
def e8m0 (c : BitVec 8) : Option Int := if c = 0xFF then none else some ((c.toNat : Int) - 127)

/-- The scale code of the block that holds lane i (R54): 127 where the token is not block-scaled. -/
def blockScale (t : Tag) (side : BitVec 32) (i : Nat) : BitVec 8 :=
  match t with
  | .e2m1 => side.extractLsb' (8 * (i / 32)) 8
  | .e4m3 => if side.getLsbD 16 then side.extractLsb' (8 * (i / 32)) 8 else 127
  | _ => 127

/-- A value under a block scale (R53). -/
def underScale (c : BitVec 8) (x : Ex) : Ex :=
  match e8m0 c with
  | none => .nan
  | some e => x.scale e

/-- The value of a PS8 code (R56). -/
def ps8Value (code : Nat) : Ex :=
  let s1 := code / 128 % 2 == 1
  let a := code / 16 % 8
  let s2 := code / 8 % 2 == 1
  let b := code % 8
  let t := fun (s : Bool) (k : Nat) => if k = 7 then (0 : Int) else Ex.sgn s (2 ^ (6 - k))
  Ex.ofIntScaled (t s1 a + t s2 b) (-6)

/-- Signed value of an INT lane. -/
def intLane (w code : Nat) : Ex := Ex.ofInt (sext code w)

/-- The value of lane i of a token: its block scale included, an INT lane signed, a Q4 lane as signed INT4 (other Q4
readings are decoded by the instruction that names them). -/
def laneVal (t : Tag) (lw : BitVec 2) (v : BitVec 512) (side : BitVec 32) (i : Nat) : Ex :=
  let w := t.lane lw
  let code := laneOf v w i
  match t with
  | .int => intLane w code
  | .q4 => Ex.ofInt (sext code 4)
  | .ps8 => ps8Value code
  | .fp32 => fpFP32.dec code
  | .bf16 => fpBF16.dec code
  | .e5m2 => fpE5M2.dec code
  | .e4m3 => underScale (blockScale .e4m3 side i) (fpE4M3.dec code)
  | .e2m1 => underScale (blockScale .e2m1 side i) (fpE2M1.dec code)

/-! ## Functions with irrational values (R218) -/

/-- The bits after the point in the intervals that stand for irrational values. -/
def irrBits : Nat := 320

/-- Integer square root by bits: the largest r with r² ≤ n, from a starting bit downward. -/
def isqrtFrom : Nat → Nat → Nat → Nat
  | 0, r, n => if (r + 1) * (r + 1) ≤ n then r + 1 else r
  | b + 1, r, n =>
    let r' := r + 2 ^ (b + 1)
    isqrtFrom b (if r' * r' ≤ n then r' else r) n

/-- ⌊√n⌋. -/
def isqrt (n : Nat) : Nat := isqrtFrom (Nat.log2 n / 2 + 1) 0 n

/-- 1/√(n/d): ⌊2^p √(d/n)⌋, with half a unit added when it is not exact. -/
def rsqrtEx (n d : Nat) : Ex :=
  let m := d * 2 ^ (2 * irrBits)
  let r := isqrt (m / n)
  if r * r * n = m then .fin false r (2 ^ irrBits) else .fin false (2 * r + 1) (2 ^ (irrBits + 1))

/-- The first bits after the point of log2 of x/2^p, for 2^p ≤ x < 2^(p+1), by repeated squaring: k bits. -/
def log2Bits (p : Nat) : Nat → Nat → Nat → Nat
  | 0, _, acc => acc
  | k + 1, x, acc =>
    let y := x * x / 2 ^ p
    if 2 ^ (p + 1) ≤ y then log2Bits p k (y / 2) (2 * acc + 1) else log2Bits p k y (2 * acc)

/-- log2 (n/d) for n, d > 0: exact when n/d is a power of two; else a ratio between the neighbouring multiples of
2^−160 that hold it. -/
def log2Ex (n d : Nat) : Ex :=
  let k := flog2 n d
  let x := if 0 ≤ k then n * 2 ^ irrBits / (d * 2 ^ k.toNat) else n * 2 ^ (-k).toNat * 2 ^ irrBits / d
  let exact := if 0 ≤ k then n == d * 2 ^ k.toNat else n * 2 ^ (-k).toNat == d
  if exact then Ex.ofInt k
  else
    let v : Int := 2 * (k * 2 ^ 160 + (log2Bits irrBits 160 x 0 : Nat)) + 1
    .fin (decide (v < 0)) v.natAbs (2 ^ 161)

/-- 2^(f/2^q) × 2^p for 0 ≤ f < 2^q: the product over the set bits of f of the square roots 2^(1/2), 2^(1/4), …,
highest bit first; `root` is 2^p times the current root. -/
def exp2Bits (p : Nat) : Nat → Nat → Nat → Nat → Nat
  | 0, _, _, acc => acc
  | k + 1, f, root, acc =>
    let root := isqrt (root * 2 ^ p)
    let acc := if f / 2 ^ k % 2 = 1 then acc * root / 2 ^ p else acc
    exp2Bits p k f root acc

/-- 2^y for y = ±n/d with d a power of two: exact when y is an integer; else a ratio in the interval that holds it.
Beyond ±2^10 the value stands above or below every threshold of every format, and so does its stand-in. -/
def exp2Ex (neg : Bool) (n d : Nat) : Ex :=
  if n % d = 0 then
    let k : Int := Ex.sgn neg (min (n / d) 1024)
    Ex.dy false 1 k
  else
    let whole := n / d
    if 1024 ≤ whole then Ex.dy false 3 (if neg then -1024 else 1024)
    else
      -- y = k + f/2^152 with 0 ≤ f < 2^152
      let q := 152
      let v : Int := Ex.sgn neg (n * 2 ^ q / d)
      let k := v / (2 ^ q : Nat)
      let f := (v % (2 ^ q : Nat)).toNat
      let m := exp2Bits irrBits q f (2 ^ (irrBits + 1)) (2 ^ irrBits)
      let r := m / 2 ^ (irrBits - 200)
      (Ex.fin false (2 * r + 1) (2 ^ 201)).scale k

end Sys2Proof.Machine
end

