-- ==== Sys2Proof/Machine/Image.lean ====
section
/-! DEFINITION. Configuration images: the tile header (R34), route words (R36 to R38), constant words (R39), and the
checks CFGL makes of each word (R28, R34 to R42 and the class chapters' operand tables), in ascending address order with
CFG_BADWORD before CFG_BADOP (R40). -/

namespace Sys2Proof.Machine

/-! ## The header (Table 3-9) -/

def hdrTtype (w : BitVec 64) : Nat := fld w 58 2
def hdrCfgid (w : BitVec 64) : BitVec 16 := w.extractLsb' 42 16
def hdrGen (w : BitVec 64) : Bool := w.getLsbD 41
def hdrFold (w : BitVec 64) : BitVec 2 := w.extractLsb' 39 2
def hdrLw (w : BitVec 64) : BitVec 2 := w.extractLsb' 37 2
def hdrFmta (w : BitVec 64) : Tag := Tag.ofBits (w.extractLsb' 34 3)
def hdrQ4i (w : BitVec 64) : Nat := fld w 32 2
def hdrRnd (w : BitVec 64) : Nat := fld w 29 3
/-- UFC: true STOCH, false SKIP. -/
def hdrUfc (w : BitVec 64) : Bool := w.getLsbD 28
def hdrRepo (w : BitVec 64) (n : Nat) : Bool := w.getLsbD (24 + n)

/-! ## A resident configuration of one tile: 33 words (Table 3-8) -/

/-- The words of a tile's image. -/
abbrev Cfg := List (BitVec 64)

def Cfg.hdr (c : Cfg) : BitVec 64 := c.getD 0 0
def Cfg.slot (c : Cfg) (s : Nat) : BitVec 64 := c.getD (1 + s) 0
def Cfg.k (c : Cfg) (n : Nat) : BitVec 32 := (c.getD (25 + n) 0).setWidth 32

/-- A route entry (R36). -/
structure Route where
  data : Bool
  dest : Nat
  src  : Nat
  depth : Nat
  rep  : Bool
deriving DecidableEq, Repr

/-- Bit 15: a valid entry. -/
def entValid (e : BitVec 16) : Bool := e.getLsbD 15

/-- The entry's fields. -/
def entRoute (e : BitVec 16) : Route :=
  { data := e.getLsbD 14, dest := fld e 10 4, src := fld e 6 4, depth := 2 ^ (1 + fld e 4 2), rep := e.getLsbD 3 }

/-- Entry j of a route word. -/
def routeEnt (w : BitVec 64) (j : Nat) : BitVec 16 := w.extractLsb' (16 * j) 16

/-- The 24 entries of an image with their numbers, in image order. -/
def Cfg.entries (c : Cfg) : List (Nat × BitVec 16) :=
  (List.range 24).map fun n => (n, routeEnt (c.getD (17 + n / 3) 0) (n % 3))

/-- The valid routes, in image order. A check of a slot takes every entry whose V is 1 in words 17 to 24, in a word too that
will fail its own check (log 99; DESIGN CHOICE). -/
def Cfg.routes (c : Cfg) : List Route :=
  c.entries.filterMap fun e => if entValid e.2 then some (entRoute e.2) else none

/-- The plane of the route that feeds element input n; none when no entry feeds it (R38); of
entries that disagree, that of the first (log 99). -/
def Cfg.inPlane (c : Cfg) (n : Nat) : Option Bool := (c.routes.find? fun r => r.dest == 8 + n).map (·.data)

/-- The plane of output n (R37); none when no entry sources it; of entries that disagree, that of
the first (log 99). -/
def Cfg.outPlane (c : Cfg) (n : Nat) : Option Bool := (c.routes.find? fun r => r.src == 8 + n).map (·.data)

/-! ## Slots (R28, R42 and the operand tables) -/

/-- Tile types that execute a fabric opcode (Table 3-11). -/
def typeExec (t : TType) (opc : Nat) : Bool :=
  if opc ≤ 0x1F then true
  else if 0x40 ≤ opc ∧ opc ≤ 0x53 then true
  else if 0x60 ≤ opc ∧ opc ≤ 0x6F then t == .s
  else if 0x70 ≤ opc ∧ opc ≤ 0x77 then t == .e
  else if opc = 0x78 then true
  else if opc = 0x79 then t == .s || t == .e
  else if opc = 0x7A ∨ opc = 0x7B then t == .e
  else if 0x80 ≤ opc ∧ opc ≤ 0x89 then t == .m
  else if 0xA0 ≤ opc ∧ opc ≤ 0xBF then t == .v
  else if 0xE0 ≤ opc ∧ opc ≤ 0xE2 then t == .s || t == .e
  else if opc = 0xE3 ∨ opc = 0xE4 then true
  else decide (0xF0 ≤ opc) && decide (opc ≤ 0xF3)

/-- A source field whose route lies on a plane its use allows; an input that nothing feeds meets every such check
(R38). -/
def srcPlaneOk (c : Cfg) (u : SrcUse) (code : BitVec 4) (k : Bool) : Bool :=
  let n := code.toNat
  if k || decide (4 ≤ n) then true
  else
    match u with
    | .vch | .dch | .vec => c.inPlane n != some false
    | .sc => c.inPlane n != some true
    | _ => true

/-- Every output of OM has a valid route entry and lies on a plane the use allows. -/
def outPlaneOk (c : Cfg) (u : OutUse) (om : BitVec 4) : Bool :=
  (List.range 4).all fun n =>
    !bitAt om n ||
    (match u with
     | .ctl | .ctlSome => c.outPlane n == some false
     | .data | .dataSome => c.outPlane n == some true
     | _ => (c.outPlane n).isSome)

/-- The output of rank k in OM, ascending (R110). -/
def nthOut (om : BitVec 4) (k : Nat) : Nat := ((List.range 4).filter (bitAt om ·)).getD k 4

/-- A vector local named in a field. -/
def namesV (f : FabF) : Bool :=
  decide (12 ≤ f.sa.toNat) || (!f.k && decide (12 ≤ f.sb.toNat)) || (decide (8 ≤ f.dst.toNat) && decide (f.dst.toNat ≤ 11))

/-- FMTA and Q4I against the opcode (R35, Table 12-1) and the PD limits that depend on them (R217, R224, R225). -/
def fmtaOk (opc : Nat) (f : FabF) (h : BitVec 64) : Bool :=
  let t := hdrFmta h
  let fl := t == .fp32 || t == .bf16
  let d := f.pd.toNat
  if opc = 0x80 ∨ opc = 0x81 ∨ opc = 0x89 then
    t == .e2m1 || t == .e4m3 || t == .e5m2 || t == .bf16 || t == .q4 || (t == .int && hdrLw h == 0)
  else if (0xA0 ≤ opc ∧ opc ≤ 0xAD) then fl
  else if opc = 0xB1 then d != 3 || fl
  else if opc = 0xB4 then (t == .e4m3 && decide (d ≤ 1)) || t == .e2m1
  else if opc = 0xB5 then t == .q4 && hdrQ4i h == 0
  else if opc = 0xB6 then fl && (hdrQ4i h != 2 || decide (d < 4))
  else if opc = 0xB7 then
    if d < 4 then fl && decide (d * (512 / t.lane (hdrLw h)) < 64) else t == .ps8
  else if opc = 0xB8 then t == .fp32
  else if opc = 0xBD ∨ opc = 0xBE then t == .int
  else true

/-- Where an image lands: the region's rectangle and the tile. -/
structure Place where
  row0 : Nat
  col0 : Nat
  h : Nat
  w : Nat
  tile : Nat
deriving DecidableEq, Repr

/-- Whether the S tile of the tile's row lies in the region (R168). -/
def Place.hasS (p : Place) : Bool := decide (p.col0 ≤ 6) && decide (6 < p.col0 + p.w)

/-- Slots below s that hold a valid GATH. -/
def gathBefore (c : Cfg) (s : Nat) : Bool :=
  (List.range s).any fun i => let w := c.slot i; w.getLsbD 61 && fabOpc w == 0x76

/-- The checks of a valid slot (R28, R35, R42, R103, R112, R168, R208, R217, R256, R280): CFG_BADOP when one fails. -/
def slotOk (p : Place) (c : Cfg) (s : Nat) : Bool :=
  let w := c.slot s
  let f := fabFields w
  let opc := fabOpc w
  let t := tileType p.tile
  match fabUse opc f.pd with
  | none => !f.v
  | some u =>
    !f.v ||
    (fabWf opc f && typeExec t opc.toNat &&
     (t == .m || t == .v || !namesV f) &&
     srcPlaneOk c u.sa f.sa false && srcPlaneOk c u.sb f.sb f.k && outPlaneOk c u.om f.om &&
     fmtaOk opc.toNat f c.hdr &&
     (opc != 0x01 || f.k || decide (f.sb.toNat < 12) || outPlaneOk c .data f.om) &&
     (opc != 0x40 || popc4 f.om != 3 || c.outPlane (nthOut f.om 2) == some false) &&
     (opc != 0x51 || outPlaneOk c .data f.om) &&
     (opc != 0x76 || (p.hasS && !gathBefore c s)))

/-! ## Words (R32, R34, R38, R39) -/

/-- The facing tile of a link output 0–7, none past the paddock's edge. -/
def linkDest (t d : Nat) : Option Nat :=
  let r := tileRow t
  let c := tileCol t
  if d < 2 then (if r = 0 then none else some (t - 12))
  else if d < 4 then (if c = 11 then none else some (t + 1))
  else if d < 6 then (if r = 11 then none else some (t + 12))
  else (if c = 0 then none else some (t - 1))

/-- The link input at which a token of link output d arrives (R37). -/
def facing (d : Nat) : Nat := (d + 4) % 8

/-- Whether a tile lies in a rectangle. -/
def inRect (row0 col0 h w t : Nat) : Bool :=
  decide (row0 ≤ tileRow t) && decide (tileRow t < row0 + h) && decide (col0 ≤ tileCol t) && decide (tileCol t < col0 + w)

/-- A tile on the paddock's edge. -/
def onEdge (t : Nat) : Bool := tileRow t == 0 || tileRow t == 11 || tileCol t == 0 || tileCol t == 11

/-- A conflict of an entry with an earlier one (R38). -/
def entClash (a b : Route) : Bool :=
  (a.dest == b.dest && (decide (8 ≤ a.dest) || a.data == b.data)) ||
  (a.src == b.src && decide (8 ≤ a.src) && decide (a.src ≤ 11) && a.data != b.data)

/-- A valid entry against R38. -/
def entOk (p : Place) (c : Cfg) (n : Nat) (e : BitVec 16) : Bool :=
  let r := entRoute e
  fld e 0 3 == 0 && decide (r.dest < 12) &&
  !(c.entries.any fun x => decide (x.1 < n) && entValid x.2 && entClash (entRoute x.2) r) &&
  !(r.src == 13 && r.data) &&
  (r.src != 14 || onEdge p.tile) &&
  (decide (8 ≤ r.dest) ||
   (match linkDest p.tile r.dest with
    | none => false
    | some t => inRect p.row0 p.col0 p.h p.w t)) &&
  (!r.rep || (r.data && decide (8 ≤ r.src) && decide (r.src ≤ 11) && hdrRepo c.hdr (r.src - 8)))

/-- The cause a word of an image gives, none when it passes. `hdr0` is the header of tile (0,0) (R131); `fold` the
FOLD that a fold demands (R141). -/
def wordFault (p : Place) (hdr0 : BitVec 64) (fold : Option (BitVec 2)) (c : Cfg) (i : Nat) : Option (BitVec 8) :=
  let w := c.getD i 0
  let badword : BitVec 8 := 0x0E
  let kind := fld w 62 2
  let sub := fld w 60 2
  if i = 0 then
    if kind = 2 ∧ sub = 2 ∧ hdrTtype w = (tileType p.tile).code ∧ hdrFold w ≠ 3 ∧ hdrLw w ≠ 3 ∧ hdrQ4i w ≠ 3 ∧
        hdrRnd w ≤ 4 ∧ fld w 0 24 = 0 ∧ hdrCfgid w = hdrCfgid hdr0 ∧ hdrGen w = hdrGen hdr0 ∧
        (fold = none ∨ fold = some (hdrFold w)) then none
    else some badword
  else if i ≤ 16 then
    if kind ≠ 0 then some badword else if slotOk p c (i - 1) then none else some 0x0D
  else if i ≤ 24 then
    if kind = 2 ∧ sub = 0 ∧ fld w 48 12 = 0 ∧
        ((List.range 3).all fun j =>
          let e := routeEnt w j
          !entValid e || entOk p c (3 * (i - 17) + j) e) then none
    else some badword
  else
    if kind = 2 ∧ sub = 1 ∧ fld w 57 3 = i - 25 ∧ fld w 32 25 = 0 then none else some badword

/-- The tiles of a rectangle in row-major order. -/
def rectTiles (row0 col0 h w : Nat) : List Nat :=
  (List.range (h * w)).map fun n => tileAt (row0 + n / w) (col0 + n % w)

/-- The first failing word of the image of one tile. -/
def tileFault (p : Place) (hdr0 : BitVec 64) (fold : Option (BitVec 2)) (c : Cfg) : Option (Nat × BitVec 8) :=
  (List.range 33).findSome? fun i => (wordFault p hdr0 fold c i).map fun x => (i, x)

/-- The first failing word of a configuration of a rectangle, by word number over the whole image (R40). -/
def imageFault (row0 col0 h w : Nat) (fold : Option (BitVec 2)) (img : List (BitVec 64)) : Option (Nat × BitVec 8) :=
  let hdr0 := img.getD 0 0
  (rectTiles row0 col0 h w).zipIdx.findSome? fun e =>
    let c : Cfg := (img.drop (33 * e.2)).take 33
    (tileFault { row0 := row0, col0 := col0, h := h, w := w, tile := e.1 } hdr0 fold c).map
      fun x => (33 * e.2 + x.1, x.2)

end Sys2Proof.Machine
end

