-- ==== Sys2Proof/Machine/Ops.lean ====
section
/-! DEFINITION. The named operations over the state: paddocks, contexts, tiles, regions; registers; memory and
translation (R150, R157); tags and wake events (R83 to R85); taking an exception and halting (R77, R311, R313); free
values. -/

namespace Sys2Proof.Machine

open Host (Outcome)

/-- The outcome of every meaning. -/
abbrev Out := Outcome State Fault Refusal

/-! ## Access to the parts of the state -/

def State.pad (s : State) (p : Nat) : Paddock := Tbl.get {} s.pads p
def State.setPad (s : State) (p : Nat) (x : Paddock) : State := { s with pads := Tbl.set s.pads p x }
def State.updPad (s : State) (p : Nat) (f : Paddock → Paddock) : State := s.setPad p (f (s.pad p))

def Paddock.ctx (x : Paddock) (q : Nat) : Ctx := Tbl.get {} x.ctxs q
def Paddock.tile (x : Paddock) (t : Nat) : Tile := Tbl.get {} x.tiles t
def Paddock.region (x : Paddock) (r : Nat) : Region := Tbl.get {} x.regions r
def Paddock.task (x : Paddock) (k : Nat) : Task := Tbl.get {} x.tasks k
def Paddock.chain (x : Paddock) (c : Nat) : Chain := Tbl.get {} x.chains c
def Paddock.setCtx (x : Paddock) (q : Nat) (c : Ctx) : Paddock := { x with ctxs := Tbl.set x.ctxs q c }
def Paddock.setTile (x : Paddock) (t : Nat) (v : Tile) : Paddock := { x with tiles := Tbl.set x.tiles t v }
def Paddock.setRegion (x : Paddock) (r : Nat) (v : Region) : Paddock := { x with regions := Tbl.set x.regions r v }
def Paddock.setTask (x : Paddock) (k : Nat) (v : Task) : Paddock := { x with tasks := Tbl.set x.tasks k v }
def Paddock.setChain (x : Paddock) (c : Nat) (v : Chain) : Paddock := { x with chains := Tbl.set x.chains c v }

def State.ctx (s : State) (p q : Nat) : Ctx := (s.pad p).ctx q
def State.setCtx (s : State) (p q : Nat) (c : Ctx) : State := s.setPad p ((s.pad p).setCtx q c)
def State.tile (s : State) (p t : Nat) : Tile := (s.pad p).tile t
def State.setTile (s : State) (p t : Nat) (v : Tile) : State := s.setPad p ((s.pad p).setTile t v)
def State.region (s : State) (p r : Nat) : Region := (s.pad p).region r
def State.setRegion (s : State) (p r : Nat) (v : Region) : State := s.setPad p ((s.pad p).setRegion r v)
def State.task (s : State) (p k : Nat) : Task := (s.pad p).task k
def State.setTask (s : State) (p k : Nat) (v : Task) : State := s.setPad p ((s.pad p).setTask k v)
def State.chain (s : State) (p c : Nat) : Chain := (s.pad p).chain c
def State.setChain (s : State) (p c : Nat) (v : Chain) : State := s.setPad p ((s.pad p).setChain c v)
def State.updCtx (s : State) (p q : Nat) (f : Ctx → Ctx) : State := s.setCtx p q (f (s.ctx p q))
def State.updTile (s : State) (p t : Nat) (f : Tile → Tile) : State := s.setTile p t (f (s.tile p t))
def State.updRegion (s : State) (p r : Nat) (f : Region → Region) : State := s.setRegion p r (f (s.region p r))
def State.updTask (s : State) (p k : Nat) (f : Task → Task) : State := s.setTask p k (f (s.task p k))
def State.updChain (s : State) (p c : Nat) (f : Chain → Chain) : State := s.setChain p c (f (s.chain p c))

/-- The context a sequencer word acts in. -/
def State.curCtx (s : State) : Ctx := s.ctx s.cur.p s.cur.q
def State.setCurCtx (s : State) (c : Ctx) : State := s.setCtx s.cur.p s.cur.q c

/-- fc of a paddock's clock. -/
def State.fc (s : State) (p : Nat) : Nat := (s.pad p).fc

/-- The partition of a paddock (R321). -/
def State.part (s : State) (n : Nat) : Partition := Tbl.get {} s.parts n
def State.updPart (s : State) (n : Nat) (f : Partition → Partition) : State :=
  { s with parts := Tbl.set s.parts n (f (s.part n)) }

/-! ## Free values (logs 7, 8, 15) -/

/-- The next free delay, at least `lo` fc. -/
def freeDelay (s : State) (lo : Nat) : Nat × State :=
  (lo + Config.delay s.free, { s with free := s.free + 1 })

/-- How many of n words are performed now: a free number from 1 to n (R185; log 8). -/
def freePart (s : State) (n : Nat) : Nat × State :=
  if n ≤ 1 then (n, s) else (1 + Config.delay s.free % n, { s with free := s.free + 1 })

/-- The next free choice. -/
def freeChoice (s : State) : Bool × State :=
  (Config.choice s.free, { s with free := s.free + 1 })

/-- The next free 64-bit value. -/
def freeWord (s : State) : BitVec 64 × State :=
  (Config.freeWord s.free, { s with free := s.free + 1 })

/-- TIME in nanoseconds (R70): a tick is 5/12 ns. -/
def State.timeNs (s : State) : Nat := s.now * 5 / 12

/-- Ticks of one fc in a frequency state (Table 1-2); none when the clock is gated. -/
def Freq.ticks : Freq → Option Nat
  | .f0 => some 3 | .f1 => some 4 | .f2 => some 6 | .f3 => none

/-- A paddock runs in the slowest of its ceiling, its clamp state and F3 when gated (R327). -/
def Paddock.freq (x : Paddock) : Freq :=
  if x.gatedF3 then .f3
  else
    let n := max x.ceil.toNat x.clamp.toNat
    if n = 0 then .f0 else if n = 1 then .f1 else if n = 2 then .f2 else .f3

/-- A change that may change a paddock's frequency state: a change of state stops its clock for at most 2 µs, 4,800
ticks (R327). -/
def changeFreq (s : State) (p : Nat) (f : Paddock → Paddock) : State :=
  let x := s.pad p
  let y := f x
  if x.freq = y.freq then s.setPad p y
  else
    let (n, s) := freeDelay s 0
    s.setPad p { y with next := max x.next s.now + n % 4801 }

/-! ## Registers (R69) -/

/-- A sequencer register; s0 reads as zero. -/
def Ctx.rd (c : Ctx) (r : BitVec 5) : BitVec 64 := if r = 0 then 0 else Tbl.get 0 c.regs r.toNat

/-- A sequencer register written; a write to s0 is discarded. -/
def Ctx.wr (c : Ctx) (r : BitVec 5) (v : BitVec 64) : Ctx :=
  if r = 0 then c else { c with regs := Tbl.put 0 c.regs r.toNat v }

/-- A predicate. -/
def Ctx.pr (c : Ctx) (n : Nat) : Bool := c.preds.getLsbD n

def Ctx.setPr (c : Ctx) (n : Nat) (b : Bool) : Ctx := { c with preds := setBit c.preds n b }

/-- The counters as IBUD, TBUD, IDEBT and TDEBT read them (R265). -/
def budRead (v : BitVec 64) : BitVec 64 := if v.toInt < 0 then 0 else v
def debtRead (v : BitVec 64) : BitVec 64 := if v.toInt < 0 then 0 - v else 0

/-- A charge to a context's counters (R76, R265). -/
def Ctx.charge (c : Ctx) (ib tb : Nat) : Ctx :=
  { c with ibud := c.ibud - BitVec.ofNat 64 ib, tbud := c.tbud - BitVec.ofNat 64 tb }

/-- PC moved past the word. -/
def Ctx.adv (c : Ctx) : Ctx := { c with pc := c.pc + 8 }

/-- SSTAT (R71). -/
def Ctx.sstat (c : Ctx) (p q : Nat) : BitVec 64 :=
  BitVec.ofNat 64 (p * 256 + q * 16 + c.priv.toNat * 2 + c.inTrap.toNat)

/-! ## Memory (R3, R150) -/

/-- One byte: an unlisted address reads as zero (R381). -/
def State.rdByte (s : State) (host : Bool) (a : Nat) : BitVec 8 :=
  if host then Tbl.get 0 s.host a else Tbl.get 0 s.mem a

/-- One byte written. The first write of a byte that L2 holds clean notes what DRAM holds (log 10). -/
def State.wrByte (s : State) (host : Bool) (a : Nat) (v : BitVec 8) : State :=
  if host then { s with host := Tbl.put 0 s.host a v }
  else
    { s with
      mem := Tbl.put 0 s.mem a v
      dram := match Tbl.find? s.dram a with
        | some _ => s.dram
        | none => Tbl.set s.dram a (Tbl.get 0 s.mem a) }

/-- n bytes from an address. -/
def State.rdBytes (s : State) (host : Bool) (a : Nat) : Nat → List (BitVec 8)
  | 0 => []
  | n + 1 => s.rdByte host a :: s.rdBytes host (a + 1) n

/-- Bytes written from an address upward. -/
def State.wrBytes (s : State) (host : Bool) (a : Nat) : List (BitVec 8) → State
  | [] => s
  | b :: bs => (s.wrByte host a b).wrBytes host (a + 1) bs

/-- A number of n bytes, little-endian (R3). -/
def State.rdNat (s : State) (host : Bool) (a n : Nat) : Nat := natOfBytes (s.rdBytes host a n)
def State.wrNat (s : State) (host : Bool) (a n v : Nat) : State := s.wrBytes host a (bytesOfNat n v)

/-- The canonical form of a memory: addresses strictly rising, no entry that holds what an unlisted address reads as. -/
def Memory.wf (m : List Host.Cell) : Bool := Tbl.wf 0 m

/-- Both memories are in canonical form. -/
def State.memWf (s : State) : Bool := Memory.wf s.mem && Memory.wf s.host

/-- Whether the 64-byte line of a local address holds an uncorrectable error (R160). -/
def State.badLine (s : State) (host : Bool) (a : Nat) : Bool :=
  !host && (s.pad (a / 2 ^ 33)).badLines.contains (a / 64)

/-- A correctable error of a line met by a read: repaired in place and counted in CECNT (R160). -/
def State.fixLine (s : State) (host : Bool) (a : Nat) : State :=
  let h := a / 2 ^ 33
  if !host && (s.pad h).softLines.contains (a / 64) then
    s.updPad h fun x =>
      { x with softLines := x.softLines.filter (· != a / 64), cecnt := if x.cecnt = 0xFFFF then x.cecnt else x.cecnt + 1 }
  else s

/-! ## Trap causes (Table 16-1) -/

abbrev cILLEGAL : BitVec 8 := 0x01
abbrev cPRIV : BitVec 8 := 0x02
abbrev cMISALIGN : BitVec 8 := 0x03
abbrev cXLATE : BitVec 8 := 0x04
abbrev cACCESS : BitVec 8 := 0x05
abbrev cECC_UE : BitVec 8 := 0x06
abbrev cBUDGET_I : BitVec 8 := 0x07
abbrev cBUDGET_T : BitVec 8 := 0x08
abbrev cCARRY_FULL : BitVec 8 := 0x09
abbrev cCARRY_OVF : BitVec 8 := 0x0A
abbrev cQNC : BitVec 8 := 0x0B
abbrev cCHAIN_STALE : BitVec 8 := 0x0C
abbrev cCFG_BADOP : BitVec 8 := 0x0D
abbrev cCFG_BADWORD : BitVec 8 := 0x0E
abbrev cSTRAY_TOKEN : BitVec 8 := 0x0F
abbrev cSTILE_TMO : BitVec 8 := 0x10
abbrev cSHADOW : BitVec 8 := 0x11
abbrev cELEMENT : BitVec 8 := 0x12
abbrev cBREAK : BitVec 8 := 0x13
abbrev cJOURNAL : BitVec 8 := 0x15

/-! ## Translation (R157 to R159, R86) -/

/-- Access kinds: 0 read, 1 write, 2 atomic, 3 prefetch (R86), 4 fetch of code or of an image (R157). -/
inductive AccKind where
  | read | write | atomic | pref | exec
deriving DecidableEq, Repr

/-- The kind as TVAL2 codes it (R86); a fetch reads. -/
def AccKind.code : AccKind → Nat
  | .read => 0 | .write => 1 | .atomic => 2 | .pref => 3 | .exec => 0

/-- A translation: the physical or host address, or the cause of the fault. -/
inductive Xl where
  | ok (pa : Nat) (host : Bool)
  | fault (cause : BitVec 8)
deriving DecidableEq, Repr

/-- va[63:57] is seven copies of va[56] (R86). -/
def canonical (va : BitVec 64) : Bool :=
  let h := fld va 57 7
  if va.getLsbD 56 then h == 0x7F else h == 0

/-- A leaf found by a walk: its entry and the size of its page, with the page's base in PPN. -/
inductive Walk where
  | leaf (ent : BitVec 64) (base size : Nat)
  | fault (cause : BitVec 8)
deriving DecidableEq, Repr

/-- The sixteen entries of a 64 KiB group agree (R157). -/
def c64ok (s : State) (tab first : Nat) (low : Nat) : Bool :=
  (List.range 16).all fun i =>
    let e := s.rdNat false (tab + 8 * (first + i)) 8
    e % 2 == 1 && (e >>> 6) % 2 == 1 && e % 4096 == low

/-- The walk over the levels whose index bits start at the list's numbers (R157): levels 3 and 2 may hold a leaf, level
1 always does. What a walk makes of an uncorrectable error in a table line the spec does not say: the entry is taken as the
line holds it (log 104; DESIGN CHOICE). -/
def walkFrom (s : State) (va : Nat) : Nat → List Nat → Walk
  | _, [] => .fault cXLATE
  | tab, sh :: rest =>
    if tab ≥ 2 ^ 38 then .fault cACCESS
    else
      let ix := (va >>> sh) % 512
      let e := s.rdNat false (tab + 8 * ix) 8
      if e % 2 = 0 then .fault cXLATE
      else if e >>> 52 ≠ 0 then .fault cACCESS
      else
        let ppn := (e >>> 12) % 2 ^ 40 * 4096
        let leafHere := sh = 12 ∨ ((sh = 30 ∨ sh = 21) ∧ (e >>> 1) % 2 = 1)
        if leafHere then
          if sh = 12 ∧ (e >>> 6) % 2 = 1 ∧ c64ok s tab (ix / 16 * 16) (e % 4096) then
            let e0 := s.rdNat false (tab + 8 * (ix / 16 * 16)) 8
            .leaf (BitVec.ofNat 64 e) ((e0 >>> 12) % 2 ^ 40 * 4096) 65536
          else .leaf (BitVec.ofNat 64 e) ppn (2 ^ sh)
        else walkFrom s va ppn rest

/-- The five levels of R157. -/
def walkLevels : List Nat := [48, 39, 30, 21, 12]

/-- The addresses of the table entries that the walk of `walkFrom` reads, all sixteen of a 64 KiB group among them. -/
def walkReads (s : State) (va : Nat) : Nat → List Nat → List Nat
  | _, [] => []
  | tab, sh :: rest =>
    if tab ≥ 2 ^ 38 then []
    else
      let ix := (va >>> sh) % 512
      let e := s.rdNat false (tab + 8 * ix) 8
      if e % 2 = 0 ∨ e >>> 52 ≠ 0 then [tab + 8 * ix]
      else if sh = 12 ∧ (e >>> 6) % 2 = 1 then (List.range 16).map fun i => tab + 8 * (ix / 16 * 16 + i)
      else if sh = 12 ∨ ((sh = 30 ∨ sh = 21) ∧ (e >>> 1) % 2 = 1) then [tab + 8 * ix]
      else (tab + 8 * ix) :: walkReads s va ((e >>> 12) % 2 ^ 40 * 4096) rest

/-- Correctable errors of the lines at some local addresses met by reads (R160). -/
def State.fixLines (s : State) (l : List Nat) : State := l.foldl (fun s a => s.fixLine false a) s

/-- A walk in an address space repairs and counts the correctable errors of the table lines it reads, as any read does
(R160). -/
def State.fixWalk (s : State) (asid : BitVec 16) (va : BitVec 64) : State :=
  match Tbl.find? s.roots asid.toNat with
  | none => s
  | some root => s.fixLines (walkReads s (va.toNat % 2 ^ 57) root.toNat walkLevels)

/-- The partition whose address space a paddock's accesses use: its own, or, for a paddock in none, that of the paddock's
own number (log 97; DESIGN CHOICE: R376 and R381 leave open how the first context comes to run). -/
def State.spaceOf (s : State) (p : Nat) : Nat := ((s.pad p).part).getD p

/-- The address space of a paddock's partition (R376, BINDPART). -/
def State.asidOf (s : State) (p : Nat) : Option (BitVec 16) :=
  let x := s.part (s.spaceOf p)
  if x.bound then some x.asid else none

/-- A leaf's permission for an access kind (R157): an atomic needs AT, RD and W, and HOST and AT together is ACCESS
(R159). -/
def leafOk (e : BitVec 64) (k : AccKind) : Bool :=
  let b := fun n => e.getLsbD n
  !(b 7 && b 5) &&
  (match k with
   | .read | .pref => b 2
   | .write => b 3
   | .atomic => b 5 && b 2 && b 3
   | .exec => b 4)

/-- A local physical address a paddock may reach (R150, R320, R322, R324). -/
def reachable (s : State) (p pa : Nat) (wr : Bool) : Bool :=
  let h := pa / 2 ^ 33
  let x := s.pad p
  let y := s.pad h
  decide (pa < 2 ^ 38) &&
  (h == p ||
   (x.gate == .open_ && y.gate == .open_ &&
    ((x.part == y.part && x.part.isSome) ||
     s.mStiles.any fun e =>
       let m := e.2
       m.owner == h && some m.part == x.part && decide (m.base ≤ pa) && decide (pa < m.base + 2 ^ m.log2) &&
         (m.write || !wr))))

/-- The host's page behind a page of a function and PASID. -/
def hostPage (s : State) (fn : Nat) (pasid : BitVec 20) (page : Nat) : Option Nat :=
  match s.ats.find? fun e => e.fn == fn && e.pasid == pasid && e.page == page with
  | some e => e.phys
  | none => some page

/-- The host link of a partition is up (LINKSEL, R371). -/
def linkUp (s : State) (x : Partition) : Bool := (Tbl.get ({} : HostLink) s.links x.link.toNat).up

/-- Every byte of an access lies in a host window of a partition (R372). -/
def inWins (x : Partition) (a n : Nat) (wr : Bool) : Bool :=
  (List.range n).all fun i => x.wins.any fun e =>
    decide (e.2.base.toNat ≤ a + i) && decide (a + i < e.2.base.toNat + e.2.size.toNat) && (e.2.write || !wr)

/-- A host address that a paddock accesses with n bytes: ACCESS outside the host windows of its partition; the host
address that ATS gives for the partition's VF and PASID, on the link LINKSEL names, or XLATE (R371, R372). A link that is
down gives no translation (log 13). -/
def hostReach (s : State) (p a n : Nat) (wr : Bool) : Except (BitVec 8) Nat :=
  let m := s.spaceOf p
  let x := s.part m
  if !inWins x a n wr then .error cACCESS
  else if !linkUp s x then .error cXLATE
  else
    match hostPage s (m + 1) x.pasid (a / 4096) with
    | none => .error cXLATE
    | some g => .ok (g * 4096 + a % 4096)

/-- The address behind a leaf for an access of n bytes: permission, then the partition's reach. -/
def leafAddr (s : State) (p : Nat) (e : BitVec 64) (base off : Nat) (k : AccKind) (n : Nat := 1) : Xl :=
  if !leafOk e k then .fault cACCESS
  else
    let a := base + off
    let wr := k == .write || k == .atomic
    if e.getLsbD 7 then
      match hostReach s p a n wr with
      | .ok a => .ok a true
      | .error c => .fault c
    else if reachable s p a wr then .ok a false
    else .fault cACCESS

/-- A translation by a walk of the tables in an address space. -/
def xlWalk (s : State) (p : Nat) (asid : BitVec 16) (va : BitVec 64) (k : AccKind) (n : Nat := 1) : Xl × Option TlbEnt :=
  match Tbl.find? s.roots asid.toNat with
  | none => (.fault cXLATE, none)
  | some root =>
    let v := va.toNat % 2 ^ 57
    match walkFrom s v root.toNat walkLevels with
    | .fault c => (.fault c, none)
    | .leaf e base size =>
      (leafAddr s p e base (v % size) k n,
       some { asid := asid, base := BitVec.ofNat 64 (v - v % size), size := size,
              leaf := (e &&& 0xFF) ||| BitVec.ofNat 64 base })

/-- Whether a cached translation covers an address. -/
def TlbEnt.covers (t : TlbEnt) (asid : BitVec 16) (v : Nat) : Bool :=
  t.asid == asid && decide (t.base.toNat ≤ v) && decide (v < t.base.toNat + t.size)

/-- A translation by a cached leaf. -/
def xlCached (s : State) (p : Nat) (t : TlbEnt) (v : Nat) (k : AccKind) (n : Nat := 1) : Xl :=
  leafAddr s p (t.leaf &&& 0xFF) (t.leaf.toNat / 4096 * 4096) (v - t.base.toNat) k n

/-- A translation through the TLBs (R158). A TLB that holds the page may serve it, at the device's own choice; else the
walker serves it, and the TLBs keep the leaf. `tile` names an E tile, whose micro-TLB of 32 entries is looked up
first; `n` is the number of bytes of the access, which stay in one page. -/
def translate (s : State) (p : Nat) (tile : Option Nat) (va : BitVec 64) (k : AccKind) (n : Nat := 1) : Xl × State :=
  match s.asidOf p with
  | none => (.fault cXLATE, s)
  | some asid =>
    let v := va.toNat % 2 ^ 57
    let micro := match tile with
      | none => []
      | some t => (s.tile p t).et.tlb
    match (micro ++ (s.pad p).tlb).find? (·.covers asid v) with
    | some t =>
      let (c, s) := freeChoice s
      if c then (xlCached s p t v k n, s) else ((xlWalk s p asid va k n).1, s.fixWalk asid va)
    | none =>
      match xlWalk s p asid va k n with
      | (x, none) => (x, s.fixWalk asid va)
      | (x, some e) =>
        let s := (s.fixWalk asid va).updPad p fun y => { y with tlb := (e :: y.tlb).take 4096 }
        let s := match tile with
          | none => s
          | some t => s.updTile p t fun z => { z with et := { z.et with tlb := (e :: z.et.tlb).take 32 } }
        (x, s)

/-- The checks of R86, in its order: canonical form, alignment, translation. -/
def checkAddr (s : State) (p : Nat) (va : BitVec 64) (bytes : Nat) (k : AccKind) : Xl × State :=
  if !canonical va then (.fault cXLATE, s)
  else if va.toNat % bytes ≠ 0 then (.fault cMISALIGN, s)
  else translate s p none va k bytes

/-- Invalidation of cached translations of an address space in a range, in every TLB of the module (R158, R372). -/
def invalidate (s : State) (hit : TlbEnt → Bool) : State :=
  { s with pads := s.pads.map fun e =>
      (e.1, { e.2 with
        tlb := e.2.tlb.filter fun t => !hit t
        tiles := e.2.tiles.map fun f =>
          (f.1, { f.2 with et := { f.2.et with tlb := f.2.et.tlb.filter fun t => !hit t } }) }) }

/-! ## Virtual memory of a context or a unit of a paddock -/

/-- n bytes read at a virtual address, aligned accesses of at most 64 bytes at a time, in an address space of the
paddock: the bytes, or the cause and address of the first fault (R86, R148). -/
def readVA (s : State) (p : Nat) (k : AccKind) : Nat → BitVec 64 → Nat → Except (BitVec 8 × BitVec 64) (List (BitVec 8)) × State
  | 0, _, _ => (.ok [], s)
  | fuel + 1, va, n =>
    if n = 0 then (.ok [], s)
    else
      let m := min n (64 - va.toNat % 64)
      if !canonical va then (.error (cXLATE, va), s)
      else
        match translate s p none va k m with
        | (.fault c, s) => (.error (c, va), s)
        | (.ok pa host, s) =>
          if s.badLine host pa then (.error (cECC_UE, va), s)
          else
            let s := s.fixLine host pa
            match readVA s p k fuel (va + BitVec.ofNat 64 m) (n - m) with
            | (.error e, s) => (.error e, s)
            | (.ok bs, s') => (.ok (s.rdBytes host pa m ++ bs), s')

/-- Bytes written at a virtual address, line by line, stopping at the first fault with what was written standing. -/
def writeVA (s : State) (p : Nat) : Nat → BitVec 64 → List (BitVec 8) → Option (BitVec 8 × BitVec 64) × State
  | 0, _, _ => (none, s)
  | fuel + 1, va, bs =>
    if bs.isEmpty then (none, s)
    else
      let m := min bs.length (64 - va.toNat % 64)
      if !canonical va then (some (cXLATE, va), s)
      else
        match translate s p none va .write m with
        | (.fault c, s) => (some (c, va), s)
        | (.ok pa host, s) => writeVA (s.wrBytes host pa (bs.take m)) p fuel (va + BitVec.ofNat 64 m) (bs.drop m)

/-- Where n bytes from a virtual address lie for a write: pieces of one line each (address, host, length), or the first
fault. Nothing is written. An uncorrectable error is met by reads alone (R160). -/
def placeVA (s : State) (p : Nat) : Nat → BitVec 64 → Nat → Except (BitVec 8 × BitVec 64) (List (Nat × Bool × Nat)) × State
  | 0, _, _ => (.ok [], s)
  | fuel + 1, va, n =>
    if n = 0 then (.ok [], s)
    else
      let m := min n (64 - va.toNat % 64)
      if !canonical va then (.error (cXLATE, va), s)
      else
        match translate s p none va .write m with
        | (.fault c, s) => (.error (c, va), s)
        | (.ok pa host, s) =>
          match placeVA s p fuel (va + BitVec.ofNat 64 m) (n - m) with
          | (.error e, s) => (.error e, s)
          | (.ok ps, s) => (.ok ((pa, host, m) :: ps), s)

/-- Bytes written into the pieces that `placeVA` found. -/
def State.wrPieces (s : State) : List (Nat × Bool × Nat) → List (BitVec 8) → State
  | [], _ => s
  | (pa, host, m) :: ps, bs => (s.wrBytes host pa (bs.take m)).wrPieces ps (bs.drop m)

/-- n bytes at a virtual address of a paddock's address space. -/
def readBytes (s : State) (p : Nat) (k : AccKind) (va : BitVec 64) (n : Nat) :=
  readVA s p k (n / 32 + 2) va n

/-- Bytes written at a virtual address, all of them or none: every piece is translated before the first byte is written,
so that an access that faults changes no memory byte (R77). -/
def writeBytes (s : State) (p : Nat) (va : BitVec 64) (bs : List (BitVec 8)) : Option (BitVec 8 × BitVec 64) × State :=
  match placeVA s p (bs.length / 32 + 2) va bs.length with
  | (.error e, s) => (some e, s)
  | (.ok ps, s) => (none, s.wrPieces ps bs)

/-- Bytes written line by line, those before the first fault standing (the trap record, R315). -/
def writeSome (s : State) (p : Nat) (va : BitVec 64) (bs : List (BitVec 8)) :=
  writeVA s p (bs.length / 32 + 2) va bs

/-! ## Tags, wake events, reports (R83 to R85, R311) -/

/-- Ticks within which a wake shows at the latest: the context runs again within 2 µs, 4,800 ticks (R85), of which the
fc in which a doorbell is evaluated, the rest of the fc of the wake and the whole fc before its next issue take at most 6
each. -/
abbrev wakeTicks : Nat := 4780

/-- The ticks within which a wake of now shows: less what has passed since a doorbell took the paddock out of F3, whose
2 µs it shares (R85). -/
def wakeLimit (s : State) (p : Nat) : Nat :=
  match (s.pad p).bell with
  | some t => max 1 (min wakeTicks (t + wakeTicks - s.now))
  | none => wakeTicks

/-- A wake event of a context (R85): the latch is set, that of a halted context too, which is not woken (R313); a gated
context's wake shows after a free time within the bound, and takes the paddock out of F3. -/
def wakeCtx (s : State) (p q : Nat) : State :=
  let c := s.ctx p q
  match c.wait with
  | .gated d none =>
    let (n, s) := freeDelay s 0
    s.setCtx p q { c with latch := true, wait := .gated d (some (s.now + n % wakeLimit s p)) }
  | _ => s.setCtx p q { c with latch := true }

/-- A completion sets a tag (R83) and wakes the context when TAGMASK asks for it (R85). -/
def setTag (s : State) (p q n : Nat) : State :=
  let c := s.ctx p q
  let b : BitVec 64 := BitVec.ofNat 64 (2 ^ n)
  let s := s.setCtx p q { c with tags := c.tags ||| b, setNow := c.setNow ||| b }
  if c.tagmask.getLsbD n then wakeCtx s p q else s

/-- An asynchronous report in its place among the others, oldest first and by cause within an fc (R311). -/
def insertReport (r : Report) : List Report → List Report
  | [] => [r]
  | x :: xs => if x.fc < r.fc ∨ x.cause ≤ r.cause then x :: insertReport r xs else r :: x :: xs

/-- A source whose report still waits. -/
def Ctx.owes (c : Ctx) (src : Source) : Bool := c.reports.any fun r => r.src == src

/-- A source whose report waits in some context of a paddock. -/
def reportWaits (s : State) (p : Nat) (src : Source) : Bool := (List.range 4).any fun q => (s.ctx p q).owes src

/-- A report pending for a context. A gated context is woken for it, but not while INTRAP = 1, when the report
waits until after ERET (R159, R311). -/
def pendReport (s : State) (p q : Nat) (r : Report) : State :=
  let s := s.updCtx p q fun c => { c with reports := insertReport { r with fc := s.fc p } c.reports }
  match (s.ctx p q).wait with
  | .gated d none =>
    if (s.ctx p q).inTrap then s
    else
      let (n, s) := freeDelay s 0
      s.updCtx p q fun c => { c with wait := .gated d (some (s.now + n % wakeLimit s p)) }
  | _ => s

/-- An asynchronous report for a context. Of one source one report is pending at a time: a later one waits behind it (R311). -/
def reportWith (s : State) (p q : Nat) (cause : BitVec 8) (tval tval2 : BitVec 64) (src : Source)
    (rec_ : List (BitVec 8)) : State :=
  let r : Report := { cause := cause, tval := tval, tval2 := tval2, src := src, fc := s.fc p, rec_ := rec_ }
  if reportWaits s p src then s.updPad p fun x => { x with behind := x.behind ++ [(q, r)] } else pendReport s p q r

/-- The first report that waits behind one of a source, now that that one is delivered, becomes pending. -/
def nextReport (s : State) (p : Nat) (src : Source) : State :=
  match (s.pad p).behind.find? fun e => e.2.src == src with
  | none => s
  | some e => pendReport (s.updPad p fun x => { x with behind := x.behind.erase e }) p e.1 e.2

/-- A report without a record. -/
def report (s : State) (p q : Nat) (cause : BitVec 8) (tval tval2 : BitVec 64) (src : Source) : State :=
  reportWith s p q cause tval tval2 src []

/-! ## Halts and exceptions (R77, R313) -/

/-- A record written into a ring as R303 writes one: slot PROD mod 2^LOG2N, then PROD; a full ring drops it and sets
OVF. Answers whether the copy was made. -/
def ringPush (s : State) (host : Bool) (desc log2n : Nat) (rec : List (BitVec 8)) (size : Nat) : Bool × State :=
  let base := s.rdNat host desc 8
  let prod := s.rdNat host (desc + 0x10) 8
  let cons := s.rdNat host (desc + 0x18) 8
  if (prod + 2 ^ 64 - cons) % 2 ^ 64 = 2 ^ log2n then
    (false, s.wrNat host (desc + 0x20) 8 1)
  else
    let s := s.wrBytes host (base + size * (prod % 2 ^ log2n)) rec
    (true, s.wrNat host (desc + 0x10) 8 ((prod + 1) % 2 ^ 64))

/-- HALTR (Table 16-2). -/
def Ctx.haltr (c : Ctx) : BitVec 64 := BitVec.ofNat 64 (c.halted.toNat * 256 + c.haltCode.toNat)

/-- A range of host memory inside the management window whose DMA the host does not refuse (R377, R387). -/
def inWindow (s : State) (a n : Nat) : Bool :=
  decide (s.box.mwbase.toNat ≤ a) && decide (a + n ≤ s.box.mwbase.toNat + s.box.mwsize.toNat) &&
    !(s.ats.any fun g => g.fn == 0 && (hostPage s 0 0 g.page).isNone && decide (a / 4096 ≤ g.page) &&
        decide (g.page * 4096 < a + n))

/-- The notice ring and the slot its next notice goes to lie in the management window as it now stands (R377, R387). -/
def noticeReach (s : State) (ring log2n : Nat) : Bool :=
  inWindow s ring 64 && inWindow s (s.rdNat true ring 8 + 32 * (s.rdNat true (ring + 0x10) 8 % 2 ^ log2n)) 32

/-- A context halts (R313, R332) and the module controller posts a halt notice of 32 bytes into the notice ring, as far as
the management window reaches it. -/
def haltCtx (s : State) (p q : Nat) (code : BitVec 8) : State :=
  let c := { s.ctx p q with halted := true, haltCode := code, wait := .ready }
  let s := s.setCtx p q c
  match s.box.ring with
  | none => s
  | some (ring, log2n) =>
    let rec_ := bytesOfNat 8 (p + 256 * q) ++ bytesOfNat 8 c.haltr.toNat ++ bytesOfNat 8 c.epc.toNat ++
      bytesOfNat 8 c.tcause.toNat
    if noticeReach s ring.toNat log2n then (ringPush s true ring.toNat log2n rec_ 32).2 else s

/-- Taking an exception in a context (R77, R311): EPC, TCAUSE, TVAL and TVAL2 are saved, INTRAP is set and PC goes to
TVEC; with TVEC 0, or INTRAP already set before, the context then halts with the trap state written. A value no rule
states is a free value (log 15). -/
def takeTrap (s : State) (p q : Nat) (epc : BitVec 64) (cause : BitVec 8) (tval tval2 : Option (BitVec 64)) : State :=
  let (v1, s) := match tval with
    | some v => (v, s)
    | none => freeWord s
  let (v2, s) := match tval2 with
    | some v => (v, s)
    | none => freeWord s
  let c := s.ctx p q
  let s := s.setCtx p q
    { c with epc := epc, tcause := cause.setWidth 64, tval := v1, tval2 := v2, wait := .ready, inTrap := true, pc := c.tvec }
  if c.tvec = 0 ∨ c.inTrap then haltCtx s p q cause else s

/-- A precise trap of the instruction the acting context issues (R77): nothing else of the state changes. -/
def precise (s : State) (cause : BitVec 8) (tval tval2 : Option (BitVec 64)) : State :=
  takeTrap s s.cur.p s.cur.q s.curCtx.pc cause tval tval2

/-- A refusal of a class: ACCESS with the operand and the detail code (R147, R279, R307, R336). -/
def refuse (s : State) (a : BitVec 64) (detail : Nat) : State :=
  precise s cACCESS (some a) (some (BitVec.ofNat 64 detail))

/-- An address fault of the acting context: TVAL the address, TVAL2 the access kind (R86). -/
def addrTrap (s : State) (cause : BitVec 8) (va : BitVec 64) (k : AccKind) : State :=
  precise s cause (some va) (some (BitVec.ofNat 64 k.code))

/-- Return from an exception (R330): PC ← EPC and INTRAP ← 0, with MISALIGN taken at a target that is no multiple of
8. The trapped regions and parked requests it resumes are in Machine/Traps.lean. -/
def returnTrap (s : State) (p q : Nat) : State :=
  let c := s.ctx p q
  let s := s.setCtx p q { c with pc := c.epc, inTrap := false, serving := none }
  if c.epc.toNat % 8 ≠ 0 then takeTrap s p q c.epc cMISALIGN (some c.epc) none else s

/-! ## Guarded issue (R31, R43, R76) -/

/-- COND and PC (Table 3-6). -/
def guardOk (c : Ctx) (f : SeqF) : Bool :=
  if f.cond = 1 then c.pr f.pc.toNat else if f.cond = 2 then !c.pr f.pc.toNat else true

/-- The common part of every sequencer meaning: the permission is checked whether or not the guard passes (R43); a word
whose guard fails only moves the PC and is charged 1 unit (R31). -/
def issueWith (f : SeqF) (perm : Ctx → Bool) (s : State) (body : State → Out) : Out :=
  let c := s.curCtx
  if !perm c then .next (precise s cPRIV none none)
  else if guardOk c f then body s
  else .next (s.setCurCtx ((c.charge 1 0).adv))

/-- Open to every context. -/
def anyone (_ : Ctx) : Bool := true

end Sys2Proof.Machine
end

