-- ==== Sys2Proof/Machine/Operands.lean ====
section
/-! DEFINITION. Operand forms. Sequencer: registers, immediates and predicates (R29, R30). Fabric: heads seen through the
skip view (R65), operand codes (R97), vector sources (R214), the headers of results (Table 6-3) and passed tokens
(R110). -/

namespace Sys2Proof.Machine

/-! ## Sequencer operands -/

/-- Operands A and B of a sequencer word. -/
def Ctx.opA (c : Ctx) (f : SeqF) : BitVec 64 := c.rd f.a
def Ctx.opB (c : Ctx) (f : SeqF) : BitVec 64 := c.rd f.b

/-- Wrap64(A + SExt(IMM, 32)) (R82, R86). -/
def Ctx.addr (c : Ctx) (f : SeqF) : BitVec 64 := c.rd f.a + immW f.imm

/-- Wrap64(PC + 8 × SExt(IMM, 32)) (R82). -/
def Ctx.branch (c : Ctx) (f : SeqF) : BitVec 64 := c.pc + (immW f.imm <<< 3)

/-- The width of an access in bytes (R29). -/
def accBytes (f : SeqF) : Nat := 2 ^ f.w.toNat

/-! ## The element that fires -/

/-- The region that holds a tile. -/
def Paddock.regionAt (x : Paddock) (t : Nat) : Option (Nat × Region) :=
  List.find? (fun e => e.2.alloc && inRect e.2.row0 e.2.col0 e.2.h e.2.w t) x.regions

/-- The slot active on a tile: the successor once the tile has swapped (R137). -/
def Region.actOn (r : Region) (tl : Tile) : Option (BitVec 2) :=
  match r.spl with
  | some sp => if tl.swapped then some sp.succ else r.act
  | none => r.act

/-- The configuration active on a tile. -/
def Paddock.cfgAt (x : Paddock) (t : Nat) : Option Cfg :=
  match x.regionAt t with
  | none => none
  | some (_, r) =>
    match r.actOn (x.tile t) with
    | none => none
    | some a => Tbl.find? (x.tile t).cfgs a.toNat

/-- What a firing needs to know of its surroundings. -/
structure Fir where
  p : Nat
  t : Nat
  slot : Nat
  rid : Nat
  cfg : Cfg
  tl : Tile
  reg : Region

/-- The surroundings of the acting element. -/
def State.fir (s : State) : Fir :=
  let x := s.pad s.cur.p
  let r := (x.regionAt s.cur.t).getD (16, {})
  { p := s.cur.p, t := s.cur.t, slot := s.cur.slot, rid := r.1, cfg := (x.cfgAt s.cur.t).getD [],
    tl := x.tile s.cur.t, reg := r.2 }

/-- GEN of the active header. -/
def Fir.gen (x : Fir) : Bool := hdrGen x.cfg.hdr

/-- The underflow class in force: forced (R63, Table 14-1), else the header's; true is STOCH. -/
def Fir.stoch (x : Fir) : Bool := x.reg.ufc.getD (hdrUfc x.cfg.hdr)

/-! ## Heads (R65) -/

def Tile.buf (tl : Tile) (n : Nat) : Buf := Tbl.get {} tl.bufs n

/-- The token at the head of an input as it stands in its buffer. -/
def Tile.rawHead (tl : Tile) (n : Nat) : Option Tok := (tl.buf n).toks.head?

/-- The data bits of an all-zero token of a TAG: each lane +0, of PS8 by the code 0x77 of Table 4-5, which is the one of its
codes without a term that names both signs plus (log 90; DESIGN CHOICE). -/
def zeroData (tag : BitVec 3) : BitVec 512 :=
  match Tag.ofBits tag with
  | .ps8 => BitVec.ofNat 512 (0x77 * ((2 ^ 512 - 1) / 255))
  | _ => 0

/-- The skip view: a head with SKIP = n stands for n zero tokens before itself. -/
def viewTok (k : Tok) : Tok :=
  if k.dat && k.skip != 0 then
    { dat := true, val := zeroData k.tag, tag := k.tag, iter := k.iter, gen := k.gen, arr := k.arr }
  else k

/-- The head of an input as a slot reads it. -/
def Tile.head (tl : Tile) (n : Nat) : Tok := viewTok ((tl.rawHead n).getD {})

/-! ## Operand codes (R97, R214) -/

def Tile.lc (tl : Tile) (n : Nat) : BitVec 32 := Tbl.get 0 tl.loc n
def Tile.vc (tl : Tile) (n : Nat) : BitVec 512 := Tbl.get 0 tl.vec n

/-- Opnd(c): 32 bits. -/
def Fir.opnd (x : Fir) (c : BitVec 4) : BitVec 32 :=
  let n := c.toNat
  if n < 4 then (x.tl.head n).val.setWidth 32
  else if n < 12 then x.tl.lc (n - 4)
  else (x.tl.vc (n - 12)).setWidth 32

/-- Operand a. -/
def Fir.opA (x : Fir) (f : FabF) : BitVec 32 := x.opnd f.sa

/-- Operand b: the constant k[SB & 7] when K = 1. -/
def Fir.opB (x : Fir) (f : FabF) : BitVec 32 := if f.k then x.cfg.k (f.sb.toNat % 8) else x.opnd f.sb

/-- The token that a source names, when it is a channel. -/
def Fir.chan? (x : Fir) (c : BitVec 4) (k : Bool) : Option Tok :=
  if !k && decide (c.toNat < 4) then some (x.tl.head c.toNat) else none

/-! ## Headers (Table 6-3) -/

/-- The lowest channel whose IM bit is set. -/
def lowIm (im : BitVec 4) : Option Nat := (List.range 4).find? (bitAt im ·)

/-- ITER of a result. -/
def Fir.iter (x : Fir) (f : FabF) : BitVec 4 :=
  match lowIm f.im with
  | none => 0
  | some i => (x.tl.head i).iter

/-- Fresh(v): a value token with payload v (R110). On a data-plane output it becomes an INT token (R37, R98). -/
def Fir.fresh (x : Fir) (f : FabF) (v : BitVec 32) : Tok :=
  { val := v.setWidth 512, gen := x.gen, iter := x.iter f }

/-- A data-plane result (R215, R165): TAG, lanes, side bits. -/
def Fir.vecTok (x : Fir) (f : FabF) (tag : Tag) (v : BitVec 512) (side : BitVec 32 := 0) : Tok :=
  { dat := true, val := v, side := side, tag := tag.bits, gen := x.gen, iter := x.iter f }

/-- Tok(): an ordering token (R165). -/
def Fir.ordTok (x : Fir) (f : FabF) : Tok := { kind := 1, gen := x.gen, iter := x.iter f }

/-- Dec(v, e): a decision token (R111). -/
def Fir.dec (x : Fir) (f : FabF) (v : BitVec 32) (e : Bool) : Tok :=
  { val := v.setWidth 512, kind := 2, eos := e, gen := x.gen, iter := x.iter f }

/-- Pass of a channel's head: the whole header but GEN and SKIP (R101, R110). -/
def Fir.passTok (x : Fir) (k : Tok) : Tok := { k with gen := x.gen, skip := 0 }

/-- Pass(t) of a source (R110): a channel's head, else a fresh token. -/
def Fir.pass (x : Fir) (f : FabF) (c : BitVec 4) (k : Bool) (v : BitVec 32) : Tok :=
  match x.chan? c k with
  | some h => x.passTok h
  | none => x.fresh f v

/-- A scalar in all sixteen 32-bit lanes (R37, REP). -/
def repLanes (v : BitVec 32) : BitVec 512 := ofLanes 32 (List.replicate 16 v.toNat)

/-- A token as it enters a plane: a control-form token on the data plane is an INT token with the value in lane 0, or in
all sixteen lanes on a REP entry; a data token on the control plane is its bits [31:0] with KIND 0b00 (R37, R101). -/
def asPlane (data rep : Bool) (k : Tok) : Tok :=
  if k.dat = data then k
  else if data then
    { dat := true, val := if rep then repLanes (k.val.setWidth 32) else (k.val.setWidth 32).setWidth 512,
      eos := k.eos, gen := k.gen, iter := k.iter, prg := k.prg, arr := k.arr }
  else { val := (k.val.setWidth 32).setWidth 512, eos := k.eos, gen := k.gen, iter := k.iter, arr := k.arr }

/-! ## Random words (R61, R62) -/

/-- The random word of lane i for the firing in progress. -/
def Fir.rnd (x : Fir) (lane : Nat) : Nat :=
  srWord x.reg.seed (srCounter (Tbl.get 0 x.tl.pos x.slot) x.slot (tileRow x.t - x.reg.row0) (tileCol x.t - x.reg.col0) lane)

/-- How a lane of a result is rounded in a mode, under the underflow class in force. -/
def Fir.rctx (x : Fir) (mode : Rnd) (lane : Nat) : RndCtx := { mode := mode, stoch := x.stoch, r := x.rnd lane }

/-- RND of the header. -/
def Fir.rndMode (x : Fir) : Rnd := Rnd.ofBits (hdrRnd x.cfg.hdr)

/-- A mode field of three bits: 5 to 7 take the header's RND (R202, R222, R230). -/
def Fir.modeOf (x : Fir) (m : Nat) : Rnd := if m ≤ 4 then Rnd.ofBits m else x.rndMode

end Sys2Proof.Machine
end

