-- ==== Sys2Proof/Machine/SeqMem.lean ====
section
/-! DEFINITION. The memory instructions of the sequencer (R86 to R91). An access occupies its context from its issue to
its completion (R75). It is charged as it issues (R270) and performed when it completes; one that faults then gets its
charge back, since an instruction that traps charges nothing (R76). -/

namespace Sys2Proof.Machine

open Host (Outcome)

/-- The access kind of a memory opcode (R86, Table 5-10). -/
def memKind (opc : Nat) : AccKind :=
  if opc = 0x52 ∨ opc = 0x54 then .write
  else if 0x55 ≤ opc ∧ opc ≤ 0x5B then .atomic
  else if opc = 0x5D then .pref
  else .read

/-- The physical address a walk gives, whatever its reach. -/
def walkPa (s : State) (p : Nat) (va : BitVec 64) : Option Nat :=
  match s.asidOf p with
  | none => none
  | some asid =>
    match (xlWalk s p asid va .read).2 with
    | none => none
    | some e => if e.leaf.getLsbD 7 then none else some (e.leaf.toNat / 4096 * 4096 + (va.toNat % 2 ^ 57 - e.base.toNat))

/-- The physical place of an address, whatever its reach: the byte behind its leaf, HOST memory apart (R166). -/
def walkPlace (s : State) (p : Nat) (va : BitVec 64) : Option (Nat × Bool) :=
  match s.asidOf p with
  | none => none
  | some asid =>
    match (xlWalk s p asid va .read).2 with
    | none => none
    | some e =>
      let a := e.leaf.toNat / 4096 * 4096 + (va.toNat % 2 ^ 57 - e.base.toNat)
      if e.leaf.getLsbD 7 then
        some ((hostPage s (s.spaceOf p + 1) (s.part (s.spaceOf p)).pasid (a / 4096)).elim a fun g => g * 4096 + a % 4096, true)
      else some (a, false)

/-- A memory stile through which a paddock reaches an address of another partition (R324). -/
def viaStile (s : State) (p : Nat) (va : BitVec 64) : Bool :=
  match walkPa s p va with
  | none => false
  | some pa =>
    let h := pa / 2 ^ 33
    h != p && !((s.pad h).part == (s.pad p).part && (s.pad p).part.isSome) &&
      s.mStiles.any fun e => e.2.owner == h && some e.2.part == (s.pad p).part &&
        decide (e.2.base ≤ pa) && decide (pa < e.2.base + 2 ^ e.2.log2)

/-- A load, store or atomic as issued: its address is formed and checked (R86), then it is under way. One that goes
through a memory stile and would be outstanding for STILETMO fc ends then (R325). -/
def memIssue (opc : BitVec 8) (f : SeqF) (s : State) : Out :=
  issueWith f anyone s fun s =>
    let p := s.cur.p
    let va := s.curCtx.addr f
    let k := memKind opc.toNat
    match checkAddr s p va (accBytes f) k with
    | (.fault c, s) => .next (addrTrap s c va k)
    | (.ok _ _, s) =>
      let (d, s) := freeDelay s 0
      let tmo := (s.pad p).stiletmo.toNat
      let w := if viaStile s p va && decide (tmo ≤ d) then Wait.busy (s.fc p + tmo) (.timeout va)
        else Wait.busy (s.fc p + d) (.access (seqPack opc f) va)
      .next (s.setCurCtx { s.curCtx.charge 1 1 with wait := w, since := s.fc p })

/-- LD: zero-extended load. -/
def execLd (f : SeqF) (s : State) : Out := memIssue 0x50 f s

/-- LDS: sign-extended load. -/
def execLds (f : SeqF) (s : State) : Out := memIssue 0x51 f s

/-- ST: store. -/
def execSt (f : SeqF) (s : State) : Out := memIssue 0x52 f s

/-- LDA: load, acquire. -/
def execLda (f : SeqF) (s : State) : Out := memIssue 0x53 f s

/-- STL: store, release. -/
def execStl (f : SeqF) (s : State) : Out := memIssue 0x54 f s

/-- AADD: atomic add. -/
def execAadd (f : SeqF) (s : State) : Out := memIssue 0x55 f s

/-- ASWP: atomic swap. -/
def execAswp (f : SeqF) (s : State) : Out := memIssue 0x56 f s

/-- ACAS: atomic compare and swap, sD the expected value. -/
def execAcas (f : SeqF) (s : State) : Out := memIssue 0x57 f s

/-- AMIN: atomic signed minimum. -/
def execAmin (f : SeqF) (s : State) : Out := memIssue 0x58 f s

/-- AMAX: atomic signed maximum. -/
def execAmax (f : SeqF) (s : State) : Out := memIssue 0x59 f s

/-- AOR: atomic OR. -/
def execAor (f : SeqF) (s : State) : Out := memIssue 0x5A f s

/-- AAND: atomic AND. -/
def execAand (f : SeqF) (s : State) : Out := memIssue 0x5B f s

/-- An instruction that waits a free time and then completes by `memComplete`. -/
def memWait (opc : BitVec 8) (f : SeqF) (s : State) (va : BitVec 64) : Out :=
  issueWith f anyone s fun s =>
    let (d, s) := freeDelay s 0
    .next (s.setCurCtx { s.curCtx.charge 1 0 with wait := .busy (s.fc s.cur.p + d) (.access (seqPack opc f) va) })

/-- SEQ_FENCE: every earlier access of the context is performed when it completes (R89). -/
def execSeqFence (f : SeqF) (s : State) : Out := memWait 0x5C f s 0

/-- SEQ_PREF: completes when its translation is done (R75, R90). -/
def execSeqPref (f : SeqF) (s : State) : Out := memWait 0x5D f s (s.curCtx.addr f)

/-- The new value of an atomic of n bits (Table 5-11). -/
def atomicNew (opc n : Nat) (old b d : BitVec 64) : BitVec 64 :=
  let m : BitVec 64 := BitVec.ofNat 64 (2 ^ n - 1)
  let sx := fun (x : BitVec 64) => sext x.toNat n
  match opc with
  | 0x55 => (old + b) &&& m
  | 0x56 => b &&& m
  | 0x57 => if old = d &&& m then b &&& m else old
  | 0x58 => if sx b < sx old then b &&& m else old
  | 0x59 => if sx old < sx b then b &&& m else old
  | 0x5A => old ||| (b &&& m)
  | _ => old &&& b

/-- What a completed access leaves: the traffic charge still to be made, PC, the register. -/
def memDone (c : Ctx) (tb : Nat) (upd : Ctx → Ctx) : Ctx := { upd ((c.charge 0 tb).adv) with wait := .ready }

/-- A load, store or atomic that faults as it is performed: its charge is taken back. -/
def uncharge (s : State) (p q : Nat) : State :=
  s.updCtx p q fun c => { c with ibud := c.ibud + 1, tbud := c.tbud + 1 }

/-- The halves of an access performed one by one (R185): a plain 64-bit load or store may be, by a free choice, and which
half comes first is another. -/
def halfFirst (s : State) (opc n : Nat) : Option Bool × State :=
  if n = 8 ∧ opc < 0x55 then
    let (cut, s) := freeChoice s
    if cut then
      let (high, s) := freeChoice s
      (some high, s)
    else (none, s)
  else (none, s)

/-- The byte at which a half of a 64-bit access begins. -/
def halfAt (high : Bool) : Nat := if high then 4 else 0

/-- A half of a 64-bit value. -/
def halfOf (high : Bool) (v : BitVec 64) : Nat := v.toNat / 2 ^ (8 * halfAt high) % 2 ^ 32

/-- The fc of the other half of an access: after a free time. Through a memory stile a load goes on to its time-out at
most, and a store, of which a half is performed, is whole before that (R325; log 14). -/
def halfDue (s : State) (p : Nat) (c : Ctx) (va : BitVec 64) (store : Bool) (d : Nat) : Nat :=
  let fc := s.fc p
  let left := c.since + (s.pad p).stiletmo.toNat - fc
  if !viaStile s p va then fc + d else if store then fc + d % max 1 left else fc + min d left

/-- The context waits for the other half of its access. -/
def awaitHalf (s : State) (p q opc : Nat) (f : SeqF) (va : BitVec 64) (pa : Nat) (host high : Bool) (got : Nat) : State :=
  let (d, s) := freeDelay s 0
  let due := halfDue s p (s.ctx p q) va (memKind opc == .write) d
  s.updCtx p q fun c => { c with wait := .busy due (.half (seqPack (BitVec.ofNat 8 opc) f) va pa host high got) }

/-- An access performed (R86 to R88): it is translated as it performs, so that a gate that closed meanwhile gives ACCESS
(R320, R338); one through a memory stile whose far end closed has timed out by then (`cutWindows`, R325). -/
def memAccess (s : State) (p q : Nat) (opc : Nat) (f : SeqF) (va : BitVec 64) : State :=
  let s := { s with cur := { s.cur with p := p, q := q } }
  let k := memKind opc
  let n := accBytes f
  match translate s p none va k (accBytes f) with
  | (.fault c, s) => addrTrap (uncharge s p q) c va k
  | (.ok pa host, s) =>
    let c := s.ctx p q
    if k == .write then
      match halfFirst s opc n with
      | (some high, s) =>
        awaitHalf (s.wrNat host (pa + halfAt high) 4 (halfOf high (c.opB f))) p q opc f va pa host high 0
      | (none, s) =>
        let s := s.wrNat host pa n (c.opB f).toNat
        s.setCtx p q { memDone c 0 id with hostWrite := if host then some va else c.hostWrite }
    else if s.badLine host pa then precise (uncharge s p q) cECC_UE (some va) none
    else
      let s := s.fixLine host pa
      let old := BitVec.ofNat 64 (s.rdNat host pa n)
      if k == .atomic then
        let s := s.wrNat host pa n (atomicNew opc (8 * n) old (c.opB f) (c.rd f.d)).toNat
        s.setCtx p q (memDone c 0 (·.wr f.d old))
      else
        match halfFirst s opc n with
        | (some high, s) => awaitHalf s p q opc f va pa host high (halfOf high old)
        | (none, s) =>
          let v := if opc = 0x51 then wrap64 (sext old.toNat (8 * n)) else old
          s.setCtx p q (memDone c 0 (·.wr f.d v))

/-- A request through a memory stile was outstanding for STILETMO fc (R325). -/
def memTimeout (s : State) (p q : Nat) (va : BitVec 64) : State :=
  precise (uncharge { s with cur := { s.cur with p := p, q := q } } p q) cSTILE_TMO (some va) none

/-- A load's other half has been outstanding at a memory stile for STILETMO fc since its issue (R325). -/
def halfLate (s : State) (p q : Nat) (va : BitVec 64) : Bool :=
  viaStile s p va && decide ((s.ctx p q).since + (s.pad p).stiletmo.toNat ≤ s.fc p)

/-- The other half of a 64-bit load or store performed. A load's half is translated as it performs, as a whole access is,
and traps as one (R320, R325, R338). A store of which a half is in memory is performed: the rest follows to the same
place, since an instruction that traps changes no memory byte (R77; log 14). -/
def memHalf (s : State) (p q : Nat) (word va : BitVec 64) (pa : Nat) (host high : Bool) (got : Nat) : State :=
  let s := { s with cur := { s.cur with p := p, q := q } }
  let f := seqFields word
  if memKind (seqOpc word).toNat == .write then
    let c := s.ctx p q
    let s := s.wrNat host (pa + halfAt !high) 4 (halfOf (!high) (c.opB f))
    s.setCtx p q { memDone c 0 id with hostWrite := if host then some va else c.hostWrite }
  else if halfLate s p q va then memTimeout s p q va
  else
    match translate s p none va .read 8 with
    | (.fault c, s) => addrTrap (uncharge s p q) c va .read
    | (.ok pa host, s) =>
      if s.badLine host pa then precise (uncharge s p q) cECC_UE (some va) none
      else
        let s := s.fixLine host pa
        let rest := s.rdNat host (pa + halfAt !high) 4
        let v := if high then got * 2 ^ 32 + rest else rest * 2 ^ 32 + got
        s.setCtx p q (memDone (s.ctx p q) 0 (·.wr f.d (BitVec.ofNat 64 v)))

/-- PREF completes: a bad address or an uncorrectable error has no effect; whether a line moves, and is charged, is the
device's choice (R90, R76). -/
def prefDone (s : State) (p q : Nat) (va : BitVec 64) : State :=
  let (ok, s) :=
    if canonical va then
      match translate s p none va .pref with
      | (.ok pa host, s) => (!s.badLine host pa, s)
      | (.fault _, s) => (false, s)
    else (false, s)
  let (mv, s) := freeChoice s
  s.setCtx p q (memDone (s.ctx p q) (ok && mv).toNat id)

/-- A memory instruction completes. At scope 5 a FENCE has seen its HOST writes acknowledged (R89, R177). -/
def memComplete (s : State) (p q : Nat) (word va : BitVec 64) : State :=
  let opc := (seqOpc word).toNat
  let f := seqFields word
  if opc = 0x5C then
    let c := s.ctx p q
    s.setCtx p q { memDone c 0 id with hostWrite := if f.imm.toNat = 5 then none else c.hostWrite }
  else if opc = 0x5D then prefDone s p q va
  else memAccess s p q opc f va

end Sys2Proof.Machine
end

