-- ==== Sys2Proof/Machine/Chains.lean ====
section
/-! DEFINITION. What sequencer and fabric share of chains and messages: attaching a chain (R248), raising its tail (R249),
the values CHSQ reads (R250) and message labels (R252 to R254). -/

namespace Sys2Proof.Machine

open Host (Outcome)

/-! ## Chains -/

/-- A chain id: A[4:0] (R247, R256). -/
def chainId {w : Nat} (a : BitVec w) : Nat := fld a 0 5

/-- The codes of Table 13-6. -/
def ChainSt.code : ChainSt → Nat
  | .detached => 0 | .idle => 1 | .running => 2 | .stampWait => 3 | .waitSeq => 4 | .paused => 5 | .halted => 6
  | .stopped => 7

/-- Why a CHAPP or CHTL on a chain is refused: its detail code. -/
def chainRefusal (s : State) (p q c : Nat) (app : Bool) : Option Nat :=
  let x := s.chain p c
  if 16 < c then some 0x34
  else if x.st ≠ .detached ∧ x.owner ≠ q then some 0x35
  else
    match x.st with
    | .detached => if app then none else some 0x35
    | .idle | .halted | .stopped => none
    | _ => if app then some 0x35 else none

/-- What an attachment does. -/
inductive Attach where
  | done
  | refused (detail : Nat)
  | fault (cause : BitVec 8) (va : BitVec 64) (k : AccKind)

/-- The control block at an address read and its chain attached, or detached when the first-entry address is 0 (R248). -/
def attach (s : State) (p q c : Nat) (va : BitVec 64) : Attach × State :=
  match readBytes s p .read va 64 with
  | (.error (e, a), s) => (.fault e a .read, s)
  | (.ok bs, s) =>
    let w := fun (i : Nat) => BitVec.ofNat 64 (natOfBytes ((bs.drop (8 * i)).take 8))
    if w 0 = 0 then (.done, s.updChain p c fun x => { x with st := .detached, entry := none, announced := [] })
    else if w 2 = 0 ∨ (w 1).toNat % 8 ≠ 0 ∨ (bs.drop 24).any (· != 0) then (.refused 0x30, s)
    else
      match writeBytes s p (w 1) (bytesOfNat 8 (w 2 - 1).toNat) with
      | (some (e, a), s) => (.fault e a .write, s)
      | (none, s) =>
        (.done, s.setChain p c
          { cb := va, cur := w 0, next := w 2, done := w 2 - 1, tail := w 2 - 1, cw := w 1, st := .idle, owner := q,
            first := w 2, curSeq := w 2 })

/-- A tail announced (R249, R256): the detail code of a refusal, or the state. A stopped chain is restarted from NEXT, and
is idle where nothing up to the tail is left to run (R241). -/
def announce (s : State) (p c : Nat) (tail : BitVec 64) (who : Announcer) : Except Nat State :=
  let x := s.chain p c
  if 32768 < tail.toNat - x.done.toNat then .error 0x37
  else
    let ann := if x.tail.toNat < tail.toNat then x.announced ++ [(tail, who)] else x.announced
    let st := match x.st with
      | .idle | .stopped => if x.next.toNat ≤ tail.toNat then .running else .idle
      | st => st
    .ok (s.setChain p c { x with tail := tail, announced := ann, st := st })

/-- The value a selector names (R250, Table 13-6). -/
def chainValue (x : Chain) (sel : Nat) : BitVec 64 :=
  match sel with
  | 0 => x.done
  | 1 => x.tail
  | 2 => x.next
  | _ => BitVec.ofNat 64 (x.owner * 2 ^ 24 + x.detail.toNat * 2 ^ 16 + x.cause.toNat * 2 ^ 8 + x.st.code)

/-! ## Message labels -/

/-- The tile a label is bound to (Table 13-8). -/
def Paddock.labelTile (x : Paddock) (label : Nat) : Option Nat :=
  let w := Tbl.get 0 x.msgl label
  if w.getLsbD 8 ∧ fld w 0 4 < 12 ∧ fld w 4 4 < 12 then some (tileAt (fld w 0 4) (fld w 4 4)) else none

/-- The routes of a tile's message port (R36). -/
def Paddock.portRoutes (x : Paddock) (t : Nat) : List Route :=
  match x.cfgAt t with
  | none => []
  | some c => c.routes.filter (·.src == 13)

/-- The tile a label delivers to: bound, in a running region, with a route from its message port (R253). -/
def deliverTile (s : State) (p label : Nat) : Option Nat :=
  let x := s.pad p
  match x.labelTile label with
  | none => none
  | some t =>
    match x.regionAt t with
    | none => none
    | some (_, r) => if r.st = .running ∧ (x.portRoutes t).isEmpty = false then some t else none

/-- A message put into the network. -/
def postMsg (s : State) (p : Nat) (m : Msg) : State := s.updPad p fun x => { x with msgs := x.msgs ++ [m] }

end Sys2Proof.Machine
end

