-- ==== Sys2Proof/Machine/Fabric.lean ====
section
/-! DEFINITION. The fabric's shared operations: routes and buffers (R37), space (R94), emission with suppression (R64),
deferred results in firing order (R165), the common effect of a firing (R96, R99, R110), fabric traps (R314) and charges
on their way to the budget adder (R267). -/

namespace Sys2Proof.Machine

/-! ## Routes and buffers (R37)

Buffer numbers of a tile: 0–3 element inputs, 4 + d link input d on the control plane, 12 + d on the data plane. -/

/-- The buffer a route feeds: its tile and number. -/
def routeDest (t : Nat) (r : Route) : Option (Nat × Nat) :=
  if 8 ≤ r.dest then some (t, r.dest - 8)
  else (linkDest t r.dest).map fun u => (u, 4 + facing r.dest + (if r.data then 8 else 0))

/-- The routes of one source. -/
def Cfg.from (c : Cfg) (src : Nat) : List Route := c.routes.filter (·.src == src)

/-- The channel stiles open at an output (R323). -/
def State.stilesAt (s : State) (p t n : Nat) : List (Nat × ChanStile) :=
  List.filter (fun e => e.2.sp == p && e.2.st == t && e.2.so == n) s.chStiles

def Tile.setBuf (tl : Tile) (n : Nat) (b : Buf) : Tile := { tl with bufs := Tbl.put {} tl.bufs n b }

def State.updBuf (s : State) (p t n : Nat) (f : Buf → Buf) : State :=
  s.updTile p t fun tl => tl.setBuf n (f (tl.buf n))

/-- A route's buffer has a free place, counted from the start of the fc (R94). -/
def routeSpace (s : State) (p t : Nat) (r : Route) : Bool :=
  match routeDest t r with
  | none => false
  | some (u, b) => decide (((s.tile p u).buf b).used < r.depth)

/-- The places of a stile's port (R323). -/
abbrev stileDepth : Nat := 16

/-- An output has space: every buffer its routes feed, and a stile open there, has a free place (R94, R323). -/
def outSpace (s : State) (p t : Nat) (c : Cfg) (n : Nat) : Bool :=
  ((c.from (8 + n)).all fun r => routeSpace s p t r) &&
  ((s.stilesAt p t n).all fun e =>
    decide (e.2.used < stileDepth) && (s.pad e.2.sp).gate == .open_ && (s.pad e.2.rp).gate == .open_)

/-- A token put at the tail of a buffer, into a reserved place or a free one. -/
def Buf.push (b : Buf) (held : Bool) (k : Tok) : Buf :=
  if held then { b with toks := b.toks ++ [k], resv := b.resv - 1 } else { b with toks := b.toks ++ [k], used := b.used + 1 }

def Buf.reserve (b : Buf) : Buf := { b with resv := b.resv + 1, used := b.used + 1 }
def Buf.release (b : Buf) : Buf := { b with resv := b.resv - 1 }

/-- The fc a token takes over a stile: 24 within a die, 48 across dies (R323). -/
def stileLatency (p q : Nat) : Nat := if p / 8 = q / 8 then 24 else 48

/-- Every destination of an output, changed alike. -/
def onDests (s : State) (p t : Nat) (c : Cfg) (n : Nat) (f : Route → Buf → Buf) (g : ChanStile → ChanStile) : State :=
  let s := (c.from (8 + n)).foldl
    (fun s r => match routeDest t r with
      | none => s
      | some (u, b) => s.updBuf p u b (f r)) s
  (s.stilesAt p t n).foldl (fun s e => { s with chStiles := Tbl.set s.chStiles e.1 (g e.2) }) s

/-- One place reserved in each destination of an output (R165). -/
def reserveOut (s : State) (p t : Nat) (c : Cfg) (n : Nat) : State :=
  onDests s p t c n (fun _ b => b.reserve) (fun z => { z with resv := z.resv + 1, used := z.used + 1 })

/-- A reserved place given up. -/
def releaseOut (s : State) (p t : Nat) (c : Cfg) (n : Nat) : State :=
  onDests s p t c n (fun _ b => b.release) (fun z => { z with resv := z.resv - 1 })

/-- A commitment of the region's replay epoch (R318). -/
def commitEpoch (s : State) (p r : Nat) : State :=
  let x := s.region p r
  if x.alloc then s.setRegion p r { x with committed := true } else s

/-- A token emitted into a channel stile commits the epoch of its region (R318). -/
def commitStile (s : State) (p t n : Nat) : State :=
  match (s.stilesAt p t n).isEmpty, (s.pad p).regionAt t with
  | false, some (id, _) => commitEpoch s p id
  | _, _ => s

/-- A token placed into every destination of an output, with a SKIP count. A loopback into an input of its own tile takes
one fc, as a link and the hop from it do (R23), so its token arrives in the fc after its emission. -/
def placeOut (s : State) (p t : Nat) (c : Cfg) (n : Nat) (held : Bool) (skip : BitVec 6) (k : Tok) : State :=
  let data := c.outPlane n == some true
  let form := fun (rep : Bool) => { asPlane data rep { k with arr := s.fc p } with skip := skip }
  onDests (commitStile s p t n) p t c n
    (fun r b => b.push held (let d := form r.rep; if 8 ≤ r.dest then { d with arr := s.fc p + 1 } else d))
    (fun z =>
      { z with
        flight := z.flight ++ [(s.fc z.rp + stileLatency z.sp z.rp, form false)]
        resv := if held then z.resv - 1 else z.resv
        used := if held then z.used else z.used + 1 })

/-! ## Emission (R64) -/

/-- Whether every lane of a data token is zero, +0 and −0 alike; a lane under a NaN scale is not. A PS8 lane is zero by its
value, an INT or Q4 lane by its code, whatever Q4I makes of it (log 90; DESIGN CHOICE). -/
def zeroLanes (lw : BitVec 2) (k : Tok) : Bool :=
  let t := Tag.ofBits k.tag
  match t with
  | .int | .q4 => k.val == 0
  | .ps8 => (List.range 64).all fun i => (ps8Value (laneOf k.val 8 i)).isZero
  | _ =>
    let w := t.lane lw
    (List.range (512 / w)).all fun i =>
      laneOf k.val w i % 2 ^ (w - 1) == 0 && blockScale t k.side i != 0xFF

/-- Notes on a tile that an output sent EOS of the old GEN since a splice was armed (R137). -/
def noteEosOut (tl : Tile) (r : Region) (n : Nat) (k : Tok) : Tile :=
  match r.spl with
  | none => tl
  | some sp => if !tl.swapped && k.eos && k.gen == sp.oldGen then { tl with eosOut := setBit tl.eosOut n true } else tl

/-- A token emitted on an output: on a data-plane output under SKIP an all-zero token without EOS and PRG is counted in
place of being sent, and a token sent carries the count (R64). -/
def emitOut (s : State) (p t : Nat) (n : Nat) (held : Bool) (k : Tok) : State :=
  let x := s.pad p
  let c := (x.cfgAt t).getD []
  let r := ((x.regionAt t).map (·.2)).getD {}
  let tl := x.tile t
  let stoch := r.ufc.getD (hdrUfc c.hdr)
  if c.outPlane n = some true then
    let d := asPlane true false k
    let cnt := Tbl.get 0 tl.pend n
    let tl := { tl with lastTag := Tbl.put 0 tl.lastTag n d.tag }
    if !stoch && zeroLanes (hdrLw c.hdr) d && !d.eos && !d.prg && decide (cnt.toNat < 63) then
      let s := s.setTile p t { tl with pend := Tbl.put 0 tl.pend n (cnt + 1) }
      if held then releaseOut s p t c n else s
    else
      let s := s.setTile p t (noteEosOut { tl with pend := Tbl.put 0 tl.pend n 0 } r n k)
      placeOut s p t c n held cnt k
  else placeOut (s.setTile p t (noteEosOut tl r n k)) p t c n held 0 k

/-- The outputs of a mask, ascending. -/
def outsOf (om : BitVec 4) : List Nat := (List.range 4).filter (bitAt om ·)

/-- Whether an earlier deferred result waits on an output (R165). -/
def Tile.blocked (tl : Tile) (n : Nat) : Bool := tl.outq.any fun e => bitAt e.om n

/-- An ordinary result of a firing: sent at once, or queued behind the deferred results of earlier firings. -/
def sendOut (s : State) (p t : Nat) (n : Nat) (k : Tok) : State :=
  let tl := s.tile p t
  if tl.blocked n then
    let c := ((s.pad p).cfgAt t).getD []
    let b : BitVec 4 := BitVec.ofNat 4 (2 ^ n)
    let s := reserveOut s p t c n
    s.updTile p t fun tl => { tl with outq := tl.outq ++ [{ id := 0, om := b, held := b, tok := some k }] }
  else emitOut s p t n false k

/-- Deferred results whose tokens are known and whose turn has come, into their reserved places; paced ones wait for
their event. -/
def drainGo (p t : Nat) : List Deferred → BitVec 4 → State → List Deferred × State
  | [], _, s => ([], s)
  | e :: es, blk, s =>
    let can := match e.tok with
      | some _ => if e.paced then 0 else e.om &&& e.held &&& ~~~blk
      | none => 0
    let s := match e.tok with
      | some k => (outsOf can).foldl (fun s n => emitOut s p t n true k) s
      | none => s
    let om := e.om &&& ~~~can
    let (rest, s) := drainGo p t es (blk ||| om) s
    (if om = 0 then rest else { e with om := om, held := e.held &&& ~~~can } :: rest, s)

/-- A gather or an export whose last token is sent gives up its place (R173, R206). -/
def Tile.gathDone (tl : Tile) : Tile :=
  { tl with reqs := tl.reqs.filter fun r =>
      !(r.st == .performed && ((fabOpc r.word).toNat == 0x76 || (fabOpc r.word).toNat == 0x87)) ||
        tl.outq.any fun e => e.id == r.id }

def drainOut (s : State) (p t : Nat) : State :=
  let (q, s) := drainGo p t (s.tile p t).outq 0 s
  s.updTile p t fun tl => ({ tl with outq := q } : Tile).gathDone

/-- The tokens of a deferred result, in order, given to its entries. -/
def giveGo (id : Nat) : List Deferred → List Tok → List Deferred
  | [], _ => []
  | e :: es, [] => e :: es
  | e :: es, k :: ks => if e.id = id then { e with tok := some k } :: giveGo id es ks else e :: giveGo id es (k :: ks)

def giveToks (s : State) (p t id : Nat) (ks : List Tok) : State :=
  drainOut (s.updTile p t fun tl => { tl with outq := giveGo id tl.outq ks }) p t

/-- The first paced entry whose turn has come on all its outputs, each of which holds a place for it or has space (R173,
R206). -/
def pacedReady (s : State) (p t : Nat) (c : Cfg) : List Deferred → BitVec 4 → Option Nat
  | [], _ => none
  | e :: es, blk =>
    if e.paced ∧ e.tok.isSome ∧ e.om &&& blk = 0 ∧ (outsOf (e.om &&& ~~~e.held)).all (outSpace s p t c ·) then some 0
    else (pacedReady s p t c es (blk ||| e.om)).map (· + 1)

/-- That entry, sent. Answers its id. -/
def emitPaced (s : State) (p t : Nat) : Option Nat × State :=
  let c := ((s.pad p).cfgAt t).getD []
  let tl := s.tile p t
  match pacedReady s p t c tl.outq 0 with
  | none => (none, s)
  | some i =>
    match tl.outq[i]? with
    | none => (none, s)
    | some e =>
      let s := s.setTile p t { tl with outq := tl.outq.eraseIdx i }
      let s := match e.tok with
        | some k => (outsOf e.om).foldl (fun s n => emitOut s p t n (bitAt e.held n) k) s
        | none => s
      (some e.id, drainOut s p t)

/-! ## Dequeues -/

/-- The head of an input removed, or its SKIP lowered by one (R65); notes EOS of the old GEN (R137). Answers whether a
token with PRG left. -/
def deqIn (s : State) (p t n : Nat) : Bool × State :=
  let x := s.pad p
  let tl := x.tile t
  let b := tl.buf n
  match b.toks with
  | [] => (false, s)
  | k :: ks =>
    if k.dat && k.skip != 0 then
      (false, s.setTile p t (tl.setBuf n { b with toks := { k with skip := k.skip - 1 } :: ks }))
    else
      let tl := tl.setBuf n { b with toks := ks }
      let tl := match (x.regionAt t).bind (·.2.spl) with
        | some sp => if !tl.swapped && k.eos && k.gen == sp.oldGen then { tl with eosIn := setBit tl.eosIn n true } else tl
        | none => tl
      (k.dat && k.prg, s.setTile p t tl)

/-- Every channel of a mask dequeued: how many tokens with PRG left. -/
def deqMask (s : State) (p t : Nat) (dq : BitVec 4) : Nat × State :=
  (outsOf dq).foldl (fun a n => let (b, s) := deqIn a.2 p t n; (a.1 + b.toNat, s)) (0, s)

/-! ## Charges (R267) -/

/-- Charges of one fc added to a region's adder pipeline. -/
def addCharge (fc ib tb : Nat) : List Charge → List Charge
  | [] => [{ fc := fc, ib := ib, tb := tb }]
  | c :: cs => if c.fc = fc then { c with ib := c.ib + ib, tb := c.tb + tb } :: cs else c :: addCharge fc ib tb cs

/-- A charge of a region: to its task, or to the context that admitted it, through the adder tree. -/
def chargeRegion (s : State) (p r ib tb : Nat) : State :=
  let x := s.region p r
  if x.alloc && (ib != 0 || tb != 0) then s.setRegion p r { x with charges := addCharge (s.fc p) ib tb x.charges } else s

/-- A region did something in this fc (R138). -/
def markBusy (s : State) (p r : Nat) : State :=
  let x := s.region p r
  if x.alloc then s.setRegion p r { x with busy := true } else s

/-! ## Predicate updates (Table 3-4) -/

/-- PU applied to p[PD]. -/
def puApply (pr : BitVec 8) (pu pd : BitVec 3) (nonzero flag : Bool) : BitVec 8 :=
  let n := pd.toNat
  match pu.toNat with
  | 1 => setBit pr n nonzero
  | 2 => setBit pr n (!nonzero)
  | 3 => setBit pr n true
  | 4 => setBit pr n false
  | 5 => setBit pr n flag
  | 6 => setBit pr n (!pr.getLsbD n)
  | _ => pr

/-- The updates that need the result (R165). -/
def puLate (pu : BitVec 3) : Bool := pu == 1 || pu == 2 || pu == 5

/-! ## The effect of a firing -/

/-- What a firing does (R99, R110, R216): the result for DST as 32 or 512 bits, tokens by output, the result's
nonzeroness and flag for PU, whether DQ acts, the charge, whether a result was formed (R62), numeric flags. -/
structure Effect where
  res   : Option (BitVec 32) := none
  vres  : Option (BitVec 512) := none
  sends : List (Nat × Tok) := []
  nonzero : Bool := false
  flag  : Bool := false
  deqok : Bool := true
  ib    : Nat := 1
  tb    : Nat := 0
  formed : Bool := true
  flags : BitVec 8 := 0

/-- DST written: a local, or a vector local with a 32-bit result zero-extended (R101). -/
def writeDst (tl : Tile) (dst : BitVec 4) (r : Option (BitVec 32)) (v : Option (BitVec 512)) : Tile :=
  let n := dst.toNat
  if n < 8 then
    match r with
    | some x => { tl with loc := Tbl.put 0 tl.loc n x }
    | none => tl
  else if n < 12 then
    match v with
    | some x => { tl with vec := Tbl.put 0 tl.vec (n - 8) x }
    | none =>
      match r with
      | some x => { tl with vec := Tbl.put 0 tl.vec (n - 8) (x.setWidth 512) }
      | none => tl
  else tl

/-- A slot's POS count raised (R62). -/
def bumpPos (tl : Tile) (slot : Nat) : Tile := { tl with pos := Tbl.put 0 tl.pos slot (Tbl.get 0 tl.pos slot + 1) }

/-- The members of the round-robin group (R95). -/
def Cfg.rrMembers (c : Cfg) : List Nat :=
  (List.range 16).filter fun i => (c.slot i).getLsbD 61 && (c.slot i).getLsbD 60

/-- The member after the one that fired, in cyclic order (R95). -/
def Cfg.rrNext (c : Cfg) (slot : Nat) : Nat :=
  ((c.rrMembers.find? (fun i => decide (slot < i))).orElse fun _ => c.rrMembers.head?).getD slot

/-- The marks a firing leaves on its tile: the round-robin pointer (R95) and the POS count (R62). -/
def fireMarks (f : FabF) (x : Fir) (formed : Bool) (tl : Tile) : Tile :=
  let tl := if f.rr then { tl with rrPtr := x.cfg.rrNext x.slot } else tl
  if formed then bumpPos tl x.slot else tl

/-- A token that leaves an output with PRG = 1: the control plane carries no PRG (R37, R295). -/
def sendsPrg (c : Cfg) (d : Nat × Tok) : Bool := (asPlane (c.outPlane d.1 == some true) false d.2).prg

/-- A firing's effect: DST, tokens, PU, dequeues, charge (R99, R110), the progress marks it retires (R295) and the
region's activity. -/
def applyEffect (f : FabF) (e : Effect) (s : State) : State :=
  let x := s.fir
  let tl := writeDst x.tl f.dst e.res e.vres
  let tl := { tl with flags := tl.flags ||| e.flags, preds := puApply tl.preds f.pu f.pd e.nonzero e.flag }
  let s := s.setTile x.p x.t (fireMarks f x e.formed tl)
  let s := e.sends.foldl (fun s d => sendOut s x.p x.t d.1 d.2) s
  let (n, s) := if e.deqok then deqMask s x.p x.t f.dq else (0, s)
  let s := if e.sends.any (sendsPrg x.cfg ·) then s else s.updPad x.p fun y => { y with prg := y.prg + n }
  let s := chargeRegion s x.p x.rid e.ib e.tb
  markBusy s x.p x.rid

/-- A token to every output of OM. -/
def toAll (om : BitVec 4) (k : Tok) : List (Nat × Tok) := (outsOf om).map fun n => (n, k)

/-! ## Fabric traps (R314) -/

/-- A fabric trap of an element: it stops, and the region is trapped from the second fc after. Of several elements that
fault in one fc the record names the first in row-major order and counts the others; the first fault of an element is
its fault. A fault met in a region that is trapped already waits behind that trap (R311). -/
def fabricTrap (s : State) (p t slot : Nat) (word : BitVec 64) (fired : Bool) (cause : BitVec 8) (detail : BitVec 16)
    (info0 info1 : BitVec 64) : State :=
  let x := s.pad p
  match x.regionAt t with
  | none => s
  | some (id, r) =>
    let tl := x.tile t
    let info : TrapInfo :=
      { cause := cause, tile := t, slot := slot, word := word, fired := fired, nfault := 0, detail := detail,
        info0 := info0, info1 := info1, at_ := x.fc, cycle := x.cycle.toNat, flags := tl.flags, preds := tl.preds }
    let join := fun (o : Option TrapInfo) => match o with
      | none => info
      | some y =>
        if y.at_ = x.fc ∧ y.tile ≠ t then
          if t < y.tile then { info with nfault := y.nfault + 1 } else { y with nfault := y.nfault + (!tl.stopped).toNat }
        else y
    let r := if r.trap.any (·.reported) then { r with later := some (join r.later) } else { r with trap := some (join r.trap) }
    (s.setTile p t { tl with stopped := true }).setRegion p id r

/-- A fault of a region that no slot of the tile has: the record names slot 0 and its word (log 106; DESIGN CHOICE). -/
def regionTrap (s : State) (p t : Nat) (cause : BitVec 8) (info0 : BitVec 64) : State :=
  fabricTrap s p t 0 (Cfg.slot (((s.pad p).cfgAt t).getD []) 0) false cause 0 info0 0

/-- A fault of the acting slot before it fires. -/
def trapBefore (s : State) (opc : BitVec 8) (f : FabF) (cause : BitVec 8) (detail : BitVec 16) (info0 : BitVec 64) : State :=
  fabricTrap s s.cur.p s.cur.t s.cur.slot (fabPack opc f) false cause detail info0 0

/-- ELEMENT_TRAP before firing. -/
def elementTrap (s : State) (opc : BitVec 8) (f : FabF) : State := trapBefore s opc f cELEMENT 0 0

/-! ## The acting element's owner -/

/-- The context that owns a region: the launching context of a task region, the admitting context of another (R83,
R125). -/
def Region.ownerQ (r : Region) : Nat := r.owner

/-- A tag set in the context that launched the task of a region (R83). -/
def setRegionTag (s : State) (p rid n : Nat) : State := setTag s p (s.region p rid).ownerQ n

end Sys2Proof.Machine
end

