-- ==== Sys2Proof/Machine/Element.lean ====
section
/-! DEFINITION. The element arithmetic class (R97 to R105): 0x00 to 0x1F. Each meaning is the common effect of R99 over
a function pair of Table 6-4. -/

namespace Sys2Proof.Machine

open Host (Outcome)

/-- The effect of a result and its flag: DST, a token to every output, PU (R98, R99). -/
def resEffect (f : FabF) (x : Fir) (r : BitVec 32) (fl : Bool) : Effect :=
  { res := some r, sends := toAll f.om (x.fresh f r), nonzero := r != 0, flag := fl }

/-- The common effect of R99. -/
def arith (f : FabF) (s : State) (fn : Fir → BitVec 32 → BitVec 32 → ResFlag) : Out :=
  let x := s.fir
  let (r, fl) := fn x (x.opA f) (x.opB f)
  .next (applyEffect f (resEffect f x r fl) s)

/-- FAB_NOP: no result is formed, written or sent; PU, DQ and the charge act. -/
def execFabNop (f : FabF) (s : State) : Out :=
  .next (applyEffect f { formed := false } s)

/-- What MOV reads (Table 6-5): the 32 low bits, all the bits of a data-plane head or a vector local, and its token. -/
def movSource (x : Fir) (f : FabF) : BitVec 32 × Option (BitVec 512) × Tok :=
  let b := x.opB f
  if !f.k && decide (12 ≤ f.sb.toNat) then
    let v := x.tl.vc (f.sb.toNat - 12)
    (b, some v, x.vecTok f (hdrFmta x.cfg.hdr) v)
  else
    match x.chan? f.sb f.k with
    | some h => (b, if h.dat then some h.val else none, x.passTok h)
    | none => (b, none, x.fresh f b)

/-- MOV (R101): PU's zero test is of all the bits read, its flag of the low 32. -/
def execMov (f : FabF) (s : State) : Out :=
  let x := s.fir
  let (b, v, k) := movSource x f
  let e : Effect :=
    { res := some b, vres := v, sends := toAll f.om k, nonzero := (v.map (· != 0)).getD (b != 0), flag := b != 0 }
  .next (applyEffect f e s)

/-- ADDSAT: a clamped sum sets SAT (R66). -/
def execAddsat (f : FabF) (s : State) : Out :=
  let x := s.fir
  let (r, fl) := fAddsat (x.opA f) (x.opB f)
  let e := { resEffect f x r fl with flags := flagIf fl flSAT }
  .next (applyEffect f e s)

/-- ADD (Table 6-4). -/
def execFabAdd (f : FabF) (s : State) : Out := arith f s fun _ a b => fAdd a b

/-- SUB (Table 6-4). -/
def execFabSub (f : FabF) (s : State) : Out := arith f s fun _ a b => fSub a b

/-- MUL (Table 6-4). -/
def execFabMul (f : FabF) (s : State) : Out := arith f s fun _ a b => fMul a b

/-- MULH (Table 6-4). -/
def execFabMulh (f : FabF) (s : State) : Out := arith f s fun _ a b => fMulh a b

/-- MULHU (Table 6-4). -/
def execFabMulhu (f : FabF) (s : State) : Out := arith f s fun _ a b => fMulhu a b

/-- AND (Table 6-4). -/
def execFabAnd (f : FabF) (s : State) : Out := arith f s fun _ a b => fAnd a b

/-- OR (Table 6-4). -/
def execFabOr (f : FabF) (s : State) : Out := arith f s fun _ a b => fOr a b

/-- XOR (Table 6-4). -/
def execFabXor (f : FabF) (s : State) : Out := arith f s fun _ a b => fXor a b

/-- ANDN (Table 6-4). -/
def execAndn (f : FabF) (s : State) : Out := arith f s fun _ a b => fAndn a b

/-- SHL (Table 6-4). -/
def execFabShl (f : FabF) (s : State) : Out := arith f s fun _ a b => fShl a b

/-- SHR (Table 6-4). -/
def execFabShr (f : FabF) (s : State) : Out := arith f s fun _ a b => fShr a b

/-- SRA (Table 6-4). -/
def execFabSra (f : FabF) (s : State) : Out := arith f s fun _ a b => fSra a b

/-- ROT (Table 6-4). -/
def execRot (f : FabF) (s : State) : Out := arith f s fun _ a b => fRot a b

/-- MIN (Table 6-4). -/
def execFabMin (f : FabF) (s : State) : Out := arith f s fun _ a b => fMin a b

/-- MAX (Table 6-4). -/
def execFabMax (f : FabF) (s : State) : Out := arith f s fun _ a b => fMax a b

/-- MINU (Table 6-4). -/
def execFabMinu (f : FabF) (s : State) : Out := arith f s fun _ a b => fMinu a b

/-- MAXU (Table 6-4). -/
def execFabMaxu (f : FabF) (s : State) : Out := arith f s fun _ a b => fMaxu a b

/-- CEQ (Table 6-4). -/
def execFabCeq (f : FabF) (s : State) : Out := arith f s fun _ a b => fCeq a b

/-- CNE (Table 6-4). -/
def execFabCne (f : FabF) (s : State) : Out := arith f s fun _ a b => fCne a b

/-- CLT (Table 6-4). -/
def execFabClt (f : FabF) (s : State) : Out := arith f s fun _ a b => fClt a b

/-- CLTU (Table 6-4). -/
def execFabCltu (f : FabF) (s : State) : Out := arith f s fun _ a b => fCltu a b

/-- CLE (Table 6-4). -/
def execFabCle (f : FabF) (s : State) : Out := arith f s fun _ a b => fCle a b

/-- CLEU (Table 6-4). -/
def execFabCleu (f : FabF) (s : State) : Out := arith f s fun _ a b => fCleu a b

/-- BFX (Table 6-4). -/
def execBfx (f : FabF) (s : State) : Out := arith f s fun _ a b => fBfx a b

/-- SEL: p[PD] as it stood before the firing chooses (R102). -/
def execFabSel (f : FabF) (s : State) : Out := arith f s fun x a b => fSel (x.tl.preds.getLsbD f.pd.toNat) a b

/-- CLZ, one operand. -/
def execFabClz (f : FabF) (s : State) : Out := arith f s fun _ _ b => fClz b

/-- POPC, one operand. -/
def execFabPopc (f : FabF) (s : State) : Out := arith f s fun _ _ b => fPopc b

/-- BFI: l[DST] is a third operand. -/
def execBfi (f : FabF) (s : State) : Out := arith f s fun x a b => fBfi (x.tl.lc (f.dst.toNat % 8)) a b

/-- AGEN: PD is the scale; no flag. -/
def execAgen (f : FabF) (s : State) : Out := arith f s fun _ a b => fAgen f.pd a b

end Sys2Proof.Machine
end

