-- ==== Sys2Proof/Machine/Ready.lean ====
section
/-! DEFINITION. Readiness of a slot (R26, R93, R94, R116, R122, R163, R189, R253) and the choice of the slot that fires
(R95). -/

namespace Sys2Proof.Machine

/-! ## Heads and GEN (R135) -/

/-- A head that waits for its tile to swap to the armed successor: no slot sees it. -/
def waitsSwap (x : Fir) (k : Tok) : Bool :=
  match x.reg.spl with
  | none => false
  | some sp =>
    !x.tl.swapped && k.gen != x.gen &&
      (match Tbl.find? x.tl.cfgs sp.succ.toNat with
       | some c => hdrGen (Cfg.hdr c) == k.gen
       | none => false)

/-- A channel holds a head token that slots see. -/
def hasHead (x : Fir) (n : Nat) : Bool :=
  match x.tl.rawHead n with
  | none => false
  | some k => !waitsSwap x k

/-- A channel's head has a foreign GEN and waits for no swap. -/
def strayHead (x : Fir) (n : Nat) : Bool :=
  match x.tl.rawHead n with
  | none => false
  | some k => k.gen != x.gen && !waitsSwap x k

/-- The head that a pass or a drain in progress takes from its channel in this fc: there, arrived (R23), and not held
back for a swap (R135). -/
def unitHead (s : State) (x : Fir) (n : Nat) : Option Tok :=
  match x.tl.rawHead n with
  | none => none
  | some k => if waitsSwap x k || decide (s.fc x.p < k.arr) then none else some k

/-- That channel has no head, or one that waits for its tile to swap. -/
def unitAbsent (x : Fir) (n : Nat) : Bool := (x.tl.rawHead n).all (waitsSwap x ·)

/-! ## Tag tests (Table 3-3) -/

def tagTest (x : Fir) (f : FabF) : Bool :=
  let n := f.tc.toNat
  let raw := (x.tl.rawHead n).getD {}
  let k := viewTok raw
  match f.tt.toNat with
  | 0 => true
  | 1 => if k.dat then !k.eos else k.kind == 0 && !k.eos
  | 2 => k.eos
  | 3 => raw.dat && raw.skip != 0
  | 4 => k.dat && Tag.ofBits k.tag == hdrFmta x.cfg.hdr
  | 5 => k.dat && Tag.ofBits k.tag != hdrFmta x.cfg.hdr
  | 6 => !k.dat && k.kind == 2 && k.val.getLsbD 0
  | _ => !k.dat && k.kind == 2 && !k.val.getLsbD 0

/-! ## Class conditions (R93, item 5) -/

/-- A memory node's opcode. -/
def isMemOpc (n : Nat) : Bool := decide (0x60 ≤ n) && decide (n ≤ 0x7B)

/-- Requests of memory nodes in progress in a tile. -/
def memReqs (tl : Tile) : List Req := tl.reqs.filter fun r => isMemOpc (fabOpc r.word).toNat

/-- A request that a TAGSET or a FENCE fired after it waits for: a memory node's, or that of a fabric CHAPP, which parks
as one (R255, R256). -/
def orderedReqs (tl : Tile) : List Req :=
  tl.reqs.filter fun r => isMemOpc (fabOpc r.word).toNat || fabOpc r.word == 0xE0

/-- The locals a slot names as sources or destination, as a mask. -/
def localsOf (f : FabF) : BitVec 8 :=
  let one := fun (c : BitVec 4) => if 4 ≤ c.toNat ∧ c.toNat < 12 then BitVec.ofNat 8 (2 ^ (c.toNat - 4)) else 0
  let d := if f.dst.toNat < 8 then BitVec.ofNat 8 (2 ^ f.dst.toNat) else 0
  one f.sa ||| (if f.k then 0 else one f.sb) ||| d

/-- Tokens of gathers in progress that the reorder area holds (R173). -/
def gathHeld (tl : Tile) : Nat :=
  (tl.outq.filter fun e => tl.reqs.any fun r => r.id == e.id && (fabOpc r.word).toNat == 0x76).length

/-- Beyond R93, the conditions of a memory slot (R163). -/
def memReady (x : Fir) (opc : Nat) (f : FabF) : Bool :=
  let tl := x.tl
  let rs := memReqs tl
  let room := match tileType x.t with
    | .s => decide (rs.length < 16)
    | .e => decide (rs.length < 32)
    | _ => true
  let pd : BitVec 8 := if puLate f.pu then BitVec.ofNat 8 (2 ^ f.pd.toNat) else 0
  room && (tl.pendL &&& localsOf f) == 0 && (tl.pendP &&& (f.pm ||| pd)) == 0 &&
    !(rs.any fun r => (fabOpc r.word).toNat == 0x79) &&
    (opc != 0x76 || decide (gathHeld tl + 2 ^ f.pd.toNat ≤ 512))

/-- The bank an MLDB loads (R191). -/
def mldbBank (mx : Matrix) (b : BitVec 32) : Nat := if b.getLsbD 13 then 1 - mx.bsel.toNat else (b.getLsbD 12).toNat

/-- The conditions of a matrix slot (R189). -/
def mxReady (x : Fir) (opc : Nat) (f : FabF) : Bool :=
  let mx := x.tl.mx
  let idle := mx.pass.isNone && mx.drain.isNone
  match opc with
  | 0x80 =>
    match mx.pass with
    | none => true
    | some ps => ps.bank != mldbBank mx (x.opB f)
  | 0x81 | 0x82 | 0x83 | 0x84 | 0x89 => idle
  | 0x85 => mx.drain.isNone
  | 0x87 => f.pd != 1 || !(x.tl.reqs.any fun r => (fabOpc r.word).toNat == 0x87)
  | _ => true

/-- The class conditions other than MRGA's. TRAPE and BRKE do not fire in the second fc of another element's trap, in
which R314 lets the elements of the region fire: their own trap follows when the region runs again (log 43). -/
def classReady (s : State) (x : Fir) (opc : Nat) (f : FabF) : Bool :=
  if isMemOpc opc then memReady x opc f
  else if 0x80 ≤ opc ∧ opc ≤ 0x89 then mxReady x opc f
  else if opc = 0x4E then f.om != 0 || x.reg.dec.isNone
  else if opc = 0xE3 then decide (((s.pad x.p).msgs.filter fun m => m.src == x.t).length < 4)
  else if opc = 0xF2 ∨ opc = 0xF3 then x.reg.trap.all fun t => decide (s.fc x.p ≤ t.at_)
  else true

/-! ## Readiness (R93) -/

/-- The region of an element is running (R93, item 6). -/
def regionRuns (s : State) (p : Nat) (r : Region) : Bool :=
  let fc := s.fc p
  r.alloc && r.st == .running && !r.paused && decide (r.runFrom ≤ fc) &&
    r.freezeAt.all (fun t => decide (fc < t)) && r.recover.all (fun t => decide (fc < t + 2)) && r.yieldAt.all (fun t => decide (fc < t)) &&
    (match r.trap with
     | none => true
     | some t => !t.reported && decide (fc < t.at_ + 2))

/-- The first condition of items 1 to 4 that a valid slot fails, by its code of Table 16-4; none when it passes. -/
def fail4 (s : State) (x : Fir) (f : FabF) : Option Nat :=
  if (x.tl.preds &&& f.pm) != (f.pv &&& f.pm) then some 1
  else if (outsOf f.im).any fun n => !hasHead x n then some 2
  else if !tagTest x f then some 3
  else if (outsOf f.om).any fun n => !outSpace s x.p x.t x.cfg n then some 4
  else none

/-- MRGA's condition (R116): no other MRGA slot that passes items 1 to 4 reads an older head; of heads of one fc the
lower channel is older. -/
def mrgaReady (s : State) (x : Fir) (slot : Nat) (f : FabF) : Bool :=
  let me := f.sb.toNat
  let arr := ((x.tl.rawHead me).getD {}).arr
  !((List.range 16).any fun i =>
    let w := x.cfg.slot i
    let g := fabFields w
    let ch := g.sb.toNat
    let a := ((x.tl.rawHead ch).getD {}).arr
    i != slot && g.v && fabOpc w == 0x43 && (fail4 s x g).isNone && ch != me &&
      (decide (a < arr) || (a == arr && decide (ch < me))))

/-- The code of the first condition of items 1 to 5 that a slot fails: 0 for a slot with V = 0; none when ready. -/
def slotFail (s : State) (x : Fir) (slot : Nat) : Option Nat :=
  let w := x.cfg.slot slot
  let f := fabFields w
  let opc := (fabOpc w).toNat
  if !f.v then some 0
  else
    match fail4 s x f with
    | some n => some n
    | none =>
      if classReady s x opc f && (opc != 0x43 || mrgaReady s x slot f) then none else some 5

/-- The surroundings of an element of a paddock. -/
def firOf (s : State) (p t : Nat) : Fir := ({ s with cur := { p := p, t := t } } : State).fir

/-- A shape point holds an output of a channel's source tile still (R293, step 1). -/
def shapeHolds (s : State) (p t o : Nat) : Bool :=
  match (s.pad p).part with
  | none => false
  | some n => (s.part n).jr.shape.any fun z => z.srcs.contains (p, t, o)

/-- The slots of an element that are ready, item 6 aside. -/
def readySlots (s : State) (x : Fir) : List Nat :=
  if x.tl.halt || x.tl.stopped then []
  else
    (List.range 16).filter fun i =>
      (slotFail s x i).isNone && !((outsOf (fabFields (x.cfg.slot i)).om).any (shapeHolds s x.p x.t ·))

/-- The slot that fires (R95): the lowest candidate, the round-robin group standing at its lowest member. -/
def chooseSlot (x : Fir) (ready : List Nat) : Option Nat :=
  let isRr := fun i => (x.cfg.slot i).getLsbD 60
  let members := x.cfg.rrMembers
  let plain := ready.find? (!isRr ·)
  let group := ready.filter isRr
  let pick := ((group.find? (fun i => decide (x.tl.rrPtr ≤ i))).orElse fun _ => group.head?)
  match plain, pick with
  | none, r => r
  | some n, none => some n
  | some n, some r => if n < members.headD 16 then some n else some r

/-- What the element of a tile fires in this fc. -/
def choice (s : State) (p t : Nat) : Option Nat :=
  let x := firOf s p t
  if x.cfg.isEmpty || !regionRuns s p x.reg then none else chooseSlot x (readySlots s x)

/-- A slot about to fire reads a channel whose head has a foreign GEN: STRAY_TOKEN (R135). -/
def strayFire (s : State) : Bool :=
  let x := s.fir
  (outsOf (fabFields (x.cfg.slot x.slot)).im).any (strayHead x ·)

/-- The element takes STRAY_TOKEN in place of firing. -/
def strayTrap (s : State) : State :=
  let x := s.fir
  fabricTrap s x.p x.t x.slot (x.cfg.slot x.slot) false cSTRAY_TOKEN 0 0 0

/-! ## The region as a whole -/

/-- The tiles of a region, row-major. -/
def Region.tileList (r : Region) : List Nat := rectTiles r.row0 r.col0 r.h r.w

/-- Some slot of the region is ready (R133). -/
def anyReady (s : State) (p : Nat) (r : Region) : Bool :=
  r.tileList.any fun t =>
    let x := firOf s p t
    !x.cfg.isEmpty && !(readySlots s x).isEmpty

/-- An element that has halted, or whose active configuration has no valid slot (R133). -/
def haltedTile (s : State) (p t : Nat) : Bool :=
  let x := firOf s p t
  x.tl.halt || !((List.range 16).any fun i => (x.cfg.slot i).getLsbD 61)

end Sys2Proof.Machine
end

