-- ==== Sys2Proof/Machine/RegionOps.lean ====
section
/-! DEFINITION. Shared operations on regions: draining (R132), settling for a freeze (R139), activation (R134), loading
an image (R131), freeing (R126), the save area (R139, Table 8-5) and its restore (R140). -/

namespace Sys2Proof.Machine

/-! ## Draining -/

/-- Tokens held in the buffers of a tile. -/
def Tile.tokens (tl : Tile) : Nat := tl.bufs.foldl (fun n e => n + e.2.toks.length) 0

/-- Tokens held in the buffers of a region (R146). -/
def tokensHeld (s : State) (p : Nat) (r : Region) : Nat :=
  r.tileList.foldl (fun n t => n + (s.tile p t).tokens) 0

/-- A matrix operation of the tile is in progress in an fc; one that completes at the fc's end is (R194, R202). What a
yield left standing is none of the region that holds the tile now. -/
def Matrix.works (m : Matrix) (fc : Nat) : Bool :=
  (m.away.isNone && (m.pass.isSome || m.drain.isSome)) || m.last == some fc

/-- An operation of the tile's element is in progress: a request, a matrix operation, a result not yet sent. -/
def Tile.working (tl : Tile) (fc : Nat) : Bool := !tl.reqs.isEmpty || tl.mx.works fc || !tl.outq.isEmpty

/-- Engine entries that the region announced are not complete, nor those that a region of its task announced before a
yield (R132, R244). -/
def engineWorks (s : State) (p rid : Nat) : Bool :=
  let mine := fun (a : Announcer) => a == .region rid || (s.region p rid).task.any fun k => a == .task k (s.task p k).ser
  (s.pad p).chains.any fun e =>
    (match e.2.st with
     | .detached | .halted | .stopped => false
     | _ => true) &&
    e.2.announced.any fun a => mine a.2 && decide (e.2.done.toNat < a.1.toNat)

/-- Tokens of the region's outputs on their way over a stile (R138). -/
def crossing (s : State) (p : Nat) (r : Region) : Bool :=
  s.chStiles.any fun e =>
    e.2.sp == p && inRect r.row0 r.col0 r.h r.w e.2.st && !e.2.flight.isEmpty

/-- An operation that R132 lists is in progress. -/
def opsInProgress (s : State) (p rid : Nat) (r : Region) : Bool :=
  (r.tileList.any fun t => (s.tile p t).working (s.fc p)) || engineWorks s p rid || crossing s p r

/-- The region has a message in the network (R132). -/
def messaging (s : State) (p rid : Nat) : Bool := (s.pad p).msgs.any fun m => m.rid == some rid

/-- A message waits in the network: it is due, and its buffer has had no room for it (R254). -/
def msgWaits (s : State) (p : Nat) (m : Msg) : Bool := decide (m.due ≤ s.fc p)

/-- An MSEND of the tile whose message waits in the network. -/
def sendWaits (s : State) (p t : Nat) (q : Req) : Bool :=
  fabOpc q.word == 0xE3 && (s.pad p).msgs.any fun m => m.src == t && m.req == q.id && msgWaits s p m

/-- An SSTW that is parked on a full word and is no operation in progress: with no load to empty the word it stands still
for good, and R349 has its region found quiescent, where R138 counts a wait on a full/empty bit as one. Which of the two
holds is left free (log 94). -/
def storeWaits (tl : Tile) (q : Req) : Bool :=
  !Config.storeWaitBusy && fabOpc q.word == 0x67 && q.st == .parkedFE && Tbl.get false tl.sp.full q.b.toNat

/-- An operation in progress as the quiescence detector counts it (R138): an MSEND whose message waits in the network is
none (R254), nor, where R349 holds, is a store that waits for a full word to empty (log 94), nor a result that waits behind one of them. -/
def quietOps (s : State) (p rid : Nat) (r : Region) : Bool :=
  (r.tileList.any fun t =>
    let tl := s.tile p t
    let still := fun (q : Req) => sendWaits s p t q || storeWaits tl q
    (tl.reqs.any fun q => !still q) || tl.mx.works (s.fc p) || (!tl.outq.isEmpty && !tl.reqs.any still)) ||
  engineWorks s p rid || crossing s p r

/-- The tokens that stand in a region as the quiescence detector counts them: those of its buffers, and its messages
that wait in the network (R254). -/
def quietTokens (s : State) (p rid : Nat) (r : Region) : Nat :=
  tokensHeld s p r + ((s.pad p).msgs.filter fun m => m.rid == some rid && msgWaits s p m).length

/-- Every SKIP pending count is zero. -/
def Tile.pendZero (tl : Tile) : Bool := tl.pend.all fun e => e.2 == 0

/-- Drained but for pending counts. -/
def drainedBut (s : State) (p rid : Nat) (r : Region) : Bool :=
  tokensHeld s p r == 0 && !opsInProgress s p rid r && !messaging s p rid

/-- Drained (R132). -/
def drained (s : State) (p rid : Nat) (r : Region) : Bool :=
  r.recover.isNone && drainedBut s p rid r && r.tileList.all fun t => (s.tile p t).pendZero

/-- The retirement condition of a region (R133). -/
def retires (s : State) (p rid : Nat) (r : Region) : Bool :=
  (drained s p rid r && !anyReady s p r) ||
  (r.recover.isNone && (r.tileList.all (haltedTile s p ·)) && !opsInProgress s p rid r && !messaging s p rid)

/-! ## Settling (R139, R170, R198) -/

/-- A request that will not go on while its region stands still: parked, behind a parked one, or in the network at a
full buffer. -/
def reqSettled (s : State) (p : Nat) (tl : Tile) (r : Req) : Bool :=
  match r.st with
  | .parkedFE | .parkedFault _ => true
  | _ =>
    let opc := (fabOpc r.word).toNat
    if 0x80 ≤ opc ∧ opc ≤ 0x89 then true
    else if opc = 0x79 ∨ opc = 0xE4 then
      tl.reqs.any fun e => decide (e.id < r.id) && (match e.st with
        | .parkedFE | .parkedFault _ => true
        | _ => false)
    else if opc = 0xE3 then (s.pad p).msgs.any fun m => m.req == r.id && msgWaits s p m
    else false

/-- A held pass, and a pass that waits for an absent position (R194, R198); one that has taken them all completes. -/
def passWaits (x : Fir) : Bool :=
  x.tl.mx.away.isSome ||
  match x.tl.mx.pass with
  | none => true
  | some ps => ps.held || (decide (ps.zeros.length < ps.pos) && unitAbsent x (fabFields ps.word).sa.toNat)

/-- A drain that waits for a spill token (R203). -/
def drainWaits (x : Fir) : Bool :=
  x.tl.mx.away.isSome ||
  match x.tl.mx.drain with
  | none => true
  | some d => (fabFields d.word).pd == 1 && d.spillDone.isNone && unitAbsent x (fabFields d.word).sa.toNat

/-- Work begun in a region has completed as far as it can while it stands still. -/
def workSettled (s : State) (p : Nat) (r : Region) : Bool :=
  r.tileList.all fun t =>
    let tl := s.tile p t
    (tl.reqs.all (reqSettled s p tl ·)) && passWaits (firOf s p t) && drainWaits (firOf s p t) &&
      (pacedReady s p t (((s.pad p).cfgAt t).getD []) tl.outq 0).isNone

/-- Work begun before a freeze has completed as far as it can (R139), and no fabric trap or recovery is on its way
(R314, R319). -/
def settled (s : State) (p : Nat) (r : Region) : Bool :=
  (match r.trap with
   | some t => t.reported
   | none => true) &&
  r.recover.isNone && workSettled s p r

/-! ## Discards -/

/-- A request that is parked, on a full/empty bit (R170) or on a fault (R159). -/
def Req.parked (r : Req) : Bool :=
  match r.st with
  | .parkedFE | .parkedFault _ => true
  | .going | .performed => false

/-- The memory nodes that write DST at completion (Tables 9-7 to 9-11). -/
def writesDst (opc : Nat) : Bool :=
  opc == 0x60 || opc == 0x64 || opc == 0x65 || (decide (0x69 ≤ opc) && decide (opc ≤ 0x6F)) || opc == 0x70 || opc == 0x74 ||
    opc == 0x75

/-- The local and the predicate that wait for a request (R165), as masks. -/
def Req.pendsL (r : Req) : BitVec 8 :=
  let d := (fabFields r.word).dst.toNat
  if writesDst (fabOpc r.word).toNat && decide (d < 8) then BitVec.ofNat 8 (2 ^ d) else 0
def Req.pendsP (r : Req) : BitVec 8 :=
  let f := fabFields r.word
  if puLate f.pu then BitVec.ofNat 8 (2 ^ f.pd.toNat) else 0

/-- Deferred results of a tile given up, with the places that are reserved for them. -/
def dropOut (s : State) (p t : Nat) (which : Deferred → Bool) : State :=
  let tl := s.tile p t
  let c := ((s.pad p).cfgAt t).getD []
  let s := (tl.outq.filter which).foldl
    (fun s e => (outsOf e.held).foldl (fun s o => releaseOut s p t c o) s) s
  s.updTile p t fun tl => { tl with outq := tl.outq.filter fun e => !which e }

/-- The parked requests of a tile cancelled (R170): no fault of the tile is reported any more. -/
def cancelParked (tl : Tile) : Nat × Tile :=
  let isP := Req.parked
  let gone := tl.reqs.filter isP
  let ids := gone.map (·.id)
  let clean := fun (q : Tbl (List Nat)) => q.filterMap fun e =>
    let l := e.2.filter fun i => !ids.contains i
    if l.isEmpty then none else some (e.1, l)
  (gone.length,
   { tl with
     reqs := tl.reqs.filter fun r => !isP r
     outq := tl.outq.filter fun e => !ids.contains e.id
     sp := { tl.sp with loadQ := clean tl.sp.loadQ, storeQ := clean tl.sp.storeQ }
     pendL := gone.foldl (fun m r => m &&& ~~~r.pendsL) tl.pendL
     pendP := gone.foldl (fun m r => m &&& ~~~r.pendsP) tl.pendP
     et := { tl.et with reported := false, retryAt := none } })

/-- The same with the places reserved for their tokens. -/
def cancelTile (s : State) (p t : Nat) : Nat × State :=
  let ids := ((s.tile p t).reqs.filter Req.parked).map (·.id)
  let s := dropOut s p t fun e => ids.contains e.id
  let (n, tl) := cancelParked (s.tile p t)
  (n, s.setTile p t tl)

/-- The buffers of a tile without their tokens; places reserved stay so. -/
def Tile.noToks (tl : Tile) : Tile :=
  { tl with bufs := tl.bufs.filterMap fun e =>
      if e.2.resv = 0 then none else some (e.1, { e.2 with toks := [], used := e.2.resv }) }

/-- Every token of a tile discarded: how many, and the tile. -/
def Tile.emptied (tl : Tile) : Nat × Tile := (tl.tokens, tl.noToks)

/-- Tokens, parked requests and, when asked, pending counts of a region discarded into its DROP count. -/
def discardAll (s : State) (p rid : Nat) (pends : Bool) : State :=
  let r := s.region p rid
  let (m, s) := r.tileList.foldl (fun a t => let (m, s) := cancelTile a.2 p t; (a.1 + m, s)) (0, s)
  let (n, s) := r.tileList.foldl
    (fun a t =>
      let (k, tl) := (a.2.tile p t).emptied
      let c := if pends then tl.pend.foldl (fun x e => x + e.2.toNat) 0 else 0
      let tl := if pends then { tl with pend := [] } else tl
      (a.1 + k + c, a.2.setTile p t tl)) (m, s)
  s.updRegion p rid fun r => { r with drop := r.drop + n }

/-! ## Activation (R134) -/

/-- Stream and element state at an activation (R62, R92, R109); `full` is LNCH or CFGA, which also zeroes locals and
sets scales to 1.0 and zero points to 0 (R22). -/
def activateTile (tl : Tile) (c : Cfg) (full : Bool) : Tile :=
  let tl := { tl with
    preds := 0, rrPtr := c.rrMembers.headD 0, pos := [], pend := [], rc := [], arm := false, x := 0, l := 15,
    a := -1, halt := false, swapped := false, eosIn := 0, eosOut := 0, stopped := false, stileWait := [],
    et := { tl.et with issued := 0, done := 0 } }
  if full then { tl with loc := [], vec := [], mx := { tl.mx with scale := [], zp := [] } } else tl

/-- The E tiles of a region's rows, inside it or not: they keep the replay entries of its loads (R318). -/
def Region.replayTiles (r : Region) : List Nat := (List.range r.h).map fun i => tileAt (r.row0 + i) 0

/-- The replay entries of a region's loads in an E tile. -/
def Region.entries (r : Region) (l : List ReplayEnt) : List ReplayEnt := l.filter fun k => r.tileList.contains k.tile

/-- A new replay epoch of a region has no entries. -/
def dropReplay (s : State) (p : Nat) (r : Region) : State :=
  let rest := fun (l : List ReplayEnt) => l.filter fun k => !r.tileList.contains k.tile
  r.replayTiles.foldl
    (fun s t => s.updTile p t fun tl => { tl with et := { tl.et with replay := rest tl.et.replay, served := rest tl.et.served } }) s

/-- Slot `slot` made active on every tile of a region, which runs from the next fc; a replay epoch begins (R318). -/
def activateRegion (s : State) (p rid : Nat) (slot : BitVec 2) (full : Bool) : State :=
  let r := s.region p rid
  let s := r.tileList.foldl
    (fun s t =>
      let tl := s.tile p t
      let c : Cfg := (Tbl.find? tl.cfgs slot.toNat).getD []
      s.setTile p t (activateTile tl c full)) (dropReplay s p r)
  s.updRegion p rid fun r =>
    { r with
      act := some slot, st := .running, saved := false, dec := none, spl := none, trap := none, later := none, recover := none, quiet := 0,
      freezeAt := none, owesSave := false, committed := false, replayed := false, runFrom := s.fc p + 1 }

/-- The flush token of an output, sent when every destination has space (R64): one all-zero token of the last TAG with
SKIP one less than the count. Its ITER, which no rule states, is 0 (log 90; DESIGN CHOICE). -/
def flushOut (s : State) (p t o : Nat) : State :=
  let c := ((s.pad p).cfgAt t).getD []
  let tl := s.tile p t
  let cnt := Tbl.get 0 tl.pend o
  if cnt ≠ 0 ∧ outSpace s p t c o then
    let tag := Tbl.get 0 tl.lastTag o
    let k : Tok := { dat := true, val := zeroData tag, tag := tag, gen := hdrGen c.hdr }
    placeOut (s.setTile p t { tl with pend := Tbl.put 0 tl.pend o 0 }) p t c o false (cnt - 1) k
  else s

/-- The flush tokens of a region that have space, into buffers just emptied (R64). -/
def flushAll (s : State) (p rid : Nat) : State :=
  (s.region p rid).tileList.foldl
    (fun s t => (List.range 4).foldl (fun s o => flushOut s p t o) s) s

/-! ## Images -/

/-- A configuration written into a resident slot of every tile of a rectangle. -/
def storeImage (s : State) (p row0 col0 h w slot : Nat) (img : List (BitVec 64)) : State :=
  (rectTiles row0 col0 h w).zipIdx.foldl
    (fun s e => s.updTile p e.1 fun tl => { tl with cfgs := Tbl.set tl.cfgs slot ((img.drop (33 * e.2)).take 33) }) s

/-- A list of bytes as 64-bit words. -/
def wordsOf : Nat → List (BitVec 8) → List (BitVec 64)
  | 0, _ => []
  | n + 1, bs => BitVec.ofNat 64 (natOfBytes (bs.take 8)) :: wordsOf n (bs.drop 8)

/-- Why an image was not loaded. -/
inductive ImgFault where
  | addr (cause : BitVec 8) (va : BitVec 64)
  | word (cause : BitVec 8) (va : BitVec 64) (w : BitVec 64)

/-- An image read once at an address and checked (R33, R40). The address is checked for its canonical form before its
alignment (R86). The whole image is read before its words are checked, so that an address fault on any word of it comes
before the fault of a word, where the spec orders the two nowhere (log 89; DESIGN CHOICE). -/
def readImage (s : State) (p row0 col0 h w : Nat) (fold : Option (BitVec 2)) (va : BitVec 64) :
    Except ImgFault (List (BitVec 64)) × State :=
  if !canonical va then (.error (.addr cXLATE va), s)
  else if va.toNat % 8 ≠ 0 then (.error (.addr cMISALIGN va), s)
  else
    match readBytes s p .exec va (264 * h * w) with
    | (.error (c, a), s) => (.error (.addr c a), s)
    | (.ok bs, s) =>
      let ws := wordsOf (33 * h * w) bs
      match imageFault row0 col0 h w fold ws with
      | some (i, c) => (.error (.word c (va + BitVec.ofNat 64 (8 * i)) (ws.getD i 0)), s)
      | none => (.ok ws, s)

/-! ## Freeing (R126) -/

/-- A yield leaves the pass or drain of its task standing in the tile (R198; log 81); any other freeing ends it. What an earlier
yield left stays. -/
def Matrix.left (m : Matrix) (by_ : Option (Nat × BitVec 14)) : Matrix :=
  if m.away.isSome then m
  else
    match by_ with
    | none => { m with pass := none, drain := none }
    | some a => if m.pass.isSome || m.drain.isSome then { m with away := some a } else m

/-- A tile as a region leaves it: configurations, buffers and element state gone; scratchpad, L1, cells, codebooks,
scales, zero points and the rest of the matrix state kept (R126, R188). -/
def freedTile (tl : Tile) (by_ : Option (Nat × BitVec 14)) : Tile :=
  let tl := (cancelParked tl).2
  { tl with
    cfgs := [], bufs := [], outq := [], reqs := [], pend := [], halt := false, stopped := false, swapped := false,
    eosIn := 0, eosOut := 0, pendL := 0, pendP := 0, stileWait := []
    mx := tl.mx.left by_
    et := { tl.et with coal := [] } }

/-- The request of a pass or drain that a yield left, as it stands again in the resumed region. -/
def leftReq (id slot : Nat) (word : BitVec 64) (fired : Nat) (iter : BitVec 4) : Req :=
  { id := id, slot := slot, word := word, fired := fired, due := fired, iter := iter }

/-- A tile that the continuation of a task holds again: what its yield left there goes on (R198). The token of such an
operation leaves when its outputs have space, since the places reserved for it are gone. -/
def backTile (tl : Tile) (by_ : Nat × BitVec 14) : Tile :=
  if tl.mx.away ≠ some by_ then tl
  else
    let rs := (tl.mx.pass.map fun ps => leftReq ps.id ps.slot ps.word ps.fired ps.iter).toList ++
      (tl.mx.drain.map fun d => leftReq d.id d.slot d.word d.fired d.iter).toList
    let ents : List Deferred := rs.filterMap fun r =>
      let om := (fabFields r.word).om
      if om = 0 then none else some { id := r.id, om := om, held := 0, tok := none, paced := true }
    { tl with
      mx := { tl.mx with away := none }, reqs := tl.reqs ++ rs, outq := tl.outq ++ ents
      pendP := rs.foldl (fun m r => m ||| r.pendsP) tl.pendP }

/-- Who a region's charges and entries fall to once it is freed: its task, or the context that admitted it (log 26). -/
def Region.heir (r : Region) (s : State) (p : Nat) : Announcer :=
  match r.task with
  | some k => .task k (s.task p k).ser
  | none => .ctx r.owner

/-- Charges still on their way through the adder of a region that is freed go on, to reach their counters at the end of their
fc + 3 (R267). -/
def lateCharges (s : State) (p rid : Nat) : State :=
  let r := s.region p rid
  let l := r.charges.map fun c => (r.heir s p, c)
  s.updPad p fun x => { x.setRegion rid { r with charges := [] } with late := x.late ++ l }

/-- Messages on their way are discarded into the DROP count of the region of their tile, and their senders complete (R254). -/
def dropMessages (s : State) (p : Nat) (lost : Msg → Bool) : State :=
  let x := s.pad p
  let gone := x.msgs.filter lost
  let s := s.setPad p { x with msgs := x.msgs.filter fun m => !lost m }
  gone.foldl
    (fun s m =>
      let s := match (s.pad p).regionAt m.dest with
        | some (id, _) => s.updRegion p id fun r => { r with drop := r.drop + 1 }
        | none => s
      s.updTile p m.src fun tl =>
        { tl with reqs := tl.reqs.map fun r => if r.id = m.req then { r with st := .performed } else r }) s

/-- Tiles that leave a region: the places that their results hold elsewhere are given up. -/
def freeTiles (s : State) (p : Nat) (ts : List Nat) (by_ : Option (Nat × BitVec 14)) : State :=
  ts.foldl (fun s t => (dropOut s p t fun _ => true).updTile p t (freedTile · by_)) s

/-- What a region began outlives it: its messages in the network are no region's, and the entries it announced are
charged to its task, or to the context that admitted it (R244; log 26). -/
def orphan (s : State) (p rid : Nat) (r : Region) : State :=
  let who := r.heir s p
  s.updPad p fun x =>
    { x with
      msgs := x.msgs.map fun m => if m.rid = some rid then { m with rid := none } else m
      chains := x.chains.map fun e =>
        (e.1, { e.2 with announced := e.2.announced.map fun a => if a.2 = .region rid then (a.1, who) else a }) }

/-- A region freed: its tiles return to the free area, which the arbiter looks at in this fc (R129). `by_` is the task
whose yield frees it. -/
def freeRegion (s : State) (p rid : Nat) (by_ : Option (Nat × BitVec 14)) : State :=
  let r := s.region p rid
  let s := lateCharges s p rid
  let s := freeTiles s p r.tileList by_
  let s := dropMessages s p fun m => inRect r.row0 r.col0 r.h r.w m.dest
  let s := orphan s p rid r
  s.updPad p fun x => { x.setRegion rid {} with bidNow := true }

/-! ## The save area (Table 8-5) -/

/-- The 8-bit header of a control token (Table 1-8). -/
def ctlHeader (k : Tok) : Nat := k.kind.toNat * 64 + k.eos.toNat * 32 + k.gen.toNat * 16 + k.iter.toNat

/-- The 16-bit header of a data token (Table 1-9). -/
def datHeader (k : Tok) : Nat :=
  k.tag.toNat * 8192 + k.eos.toNat * 4096 + k.gen.toNat * 2048 + k.skip.toNat * 32 + k.iter.toNat * 2 + k.prg.toNat

/-- A token as a save record holds it. -/
def tokBytes (k : Tok) : List (BitVec 8) :=
  if k.dat then bytesOfNat 64 k.val.toNat ++ bytesOfNat 4 k.side.toNat ++ bytesOfNat 2 (datHeader k) ++ [0, 0]
  else bytesOfNat 8 (k.val.toNat % 2 ^ 32 + ctlHeader k * 2 ^ 32)

/-- A token read from a save record. -/
def tokOf (dat : Bool) (bs : List (BitVec 8)) : Tok :=
  if dat then
    let h := natOfBytes ((bs.drop 68).take 2)
    { dat := true, val := BitVec.ofNat 512 (natOfBytes (bs.take 64)), side := BitVec.ofNat 32 (natOfBytes ((bs.drop 64).take 4)),
      tag := BitVec.ofNat 3 (h / 8192), eos := h / 4096 % 2 == 1, gen := h / 2048 % 2 == 1,
      skip := BitVec.ofNat 6 (h / 32), iter := BitVec.ofNat 4 (h / 2), prg := h % 2 == 1 }
  else
    let v := natOfBytes bs
    let h := v / 2 ^ 32 % 256
    { val := BitVec.ofNat 512 (v % 2 ^ 32), kind := BitVec.ofNat 2 (h / 64), eos := h / 32 % 2 == 1,
      gen := h / 16 % 2 == 1, iter := BitVec.ofNat 4 h }

/-- Kind, index and plane of a buffer number as a record names them. -/
def bufKind (b : Nat) : Nat × Nat × Nat := if b < 4 then (0, b, 0) else if b < 12 then (1, b - 4, 0) else (1, b - 12, 1)

/-- The first word of a record (Table 8-5); the plane of an element input is that of its tokens. -/
def recordWord (r : Region) (t b : Nat) (toks : List Tok) : Nat :=
  let (k, i, pl) := bufKind b
  let pl := if b < 4 then (toks.any (·.dat)).toNat else pl
  (tileRow t - r.row0) + (tileCol t - r.col0) * 16 + k * 256 + i * 1024 + pl * 32768 + toks.length * 65536

/-- The order of the records of one tile: element inputs, then link inputs by index, control before data. -/
def bufOrder : List Nat := [0, 1, 2, 3] ++ (List.range 8).flatMap fun d => [4 + d, 12 + d]

/-- The nonempty buffers of a region, in record order. -/
def fullBufs (s : State) (p : Nat) (r : Region) : List (Nat × Nat × List Tok) :=
  r.tileList.flatMap fun t =>
    bufOrder.filterMap fun b =>
      let l := ((s.tile p t).buf b).toks
      if l.isEmpty then none else some (t, b, l)

/-- The 512-byte block of a tile. -/
def blockBytes (tl : Tile) (t : Nat) : List (BitVec 8) :=
  let w0 := tl.preds.toNat + (tl.rrPtr % 16) * 2 ^ 8 + tl.halt.toNat * 2 ^ 12 + tl.arm.toNat * 2 ^ 13 + tl.l.toNat * 2 ^ 16 +
    tl.flags.toNat * 2 ^ 24 +
    (List.range 4).foldl (fun n o => n + (Tbl.get 0 tl.pend o).toNat * 2 ^ (32 + 8 * o)) 0
  let vs := match tileType t with
    | .m | .v => (List.range 4).flatMap fun i => bytesOfNat 64 (tl.vc i).toNat
    | _ => List.replicate 256 0
  bytesOfNat 8 w0 ++ bytesOfNat 8 (tl.x.signExtend 64).toNat ++ bytesOfNat 8 (tl.a.signExtend 64).toNat ++
    bytesOfNat 8 tl.swapped.toNat ++
    ((List.range 8).flatMap fun i => bytesOfNat 4 (tl.lc i).toNat) ++
    ((List.range 16).flatMap fun i => bytesOfNat 4 (Tbl.get 0 tl.rc i).toNat) ++
    ((List.range 16).flatMap fun i => bytesOfNat 4 (Tbl.get 0 tl.pos i).toNat) ++
    List.replicate 64 0 ++ vs

/-- The header of the region's active configuration. -/
def Region.activeHdr (s : State) (p : Nat) (r : Region) : BitVec 64 :=
  match r.act with
  | none => 0
  | some a => Cfg.hdr ((Tbl.find? (s.tile p (tileAt r.row0 r.col0)).cfgs a.toNat).getD [])

/-- The bytes TOKSV writes. -/
def saveBytes (s : State) (p : Nat) (r : Region) : List (BitVec 8) :=
  let bufs := fullBufs s p r
  let recs := bufs.flatMap fun e => bytesOfNat 8 (recordWord r e.1 e.2.1 e.2.2) ++ e.2.2.flatMap tokBytes
  let blocks := r.tileList.flatMap fun t => blockBytes (s.tile p t) t
  let total := 64 + blocks.length + recs.length
  let h := r.activeHdr s p
  let w0 := r.h % 16 + r.w % 16 * 16 + r.fold.toNat * 256 + ((r.act.map (·.toNat)).getD 0) * 1024 + (hdrCfgid h).toNat * 65536 +
    (hdrGen h).toNat * 2 ^ 32
  bytesOfNat 8 w0 ++ bytesOfNat 8 bufs.length ++ bytesOfNat 8 total ++ List.replicate 40 0 ++ blocks ++ recs

/-- The region as TOKSV leaves it: buffers empty, frozen, SAVED = 1; a trapped region's trap is over (R317). -/
def markSaved (s : State) (p rid : Nat) : State :=
  let r := s.region p rid
  let s := r.tileList.foldl
    (fun s t => s.updTile p t fun tl => { tl.noToks with stopped := false }) s
  s.updRegion p rid fun r =>
    { r with st := .frozen, saved := true, trap := none, later := none, freezeAt := none, owesSave := false, quiet := 0 }

/-! ## Restoring (R140) -/

/-- The depth of a buffer for tokens of a plane, from the route entry that sizes it (R37); none when no valid route of
that plane provides it. -/
def bufDepth (s : State) (p : Nat) (r : Region) (t b : Nat) (dat : Bool) : Option Nat :=
  let x := s.pad p
  if b < 4 then
    match x.cfgAt t with
    | none => none
    | some c => (c.routes.find? fun e => e.dest == 8 + b && e.data == dat).map (·.depth)
  else
    let d := (b - 4) % 8
    match linkDest t d with
    | none => none
    | some u =>
      if inRect r.row0 r.col0 r.h r.w u then
        match x.cfgAt u with
        | none => none
        | some c =>
          (c.routes.find? fun e => e.dest == facing d && e.data == decide (12 ≤ b) && e.data == dat).map (·.depth)
      else none

/-- A record of a save area: tile, buffer (or output for kind 2), its tokens. -/
structure SaveRec where
  tile : Nat
  kind : Nat
  idx  : Nat
  plane : Nat
  toks : List Tok

/-- Why a restore failed: an address fault, or a save area that does not match. -/
inductive RestFault where
  | addr (cause : BitVec 8) (va : BitVec 64)
  | mismatch

/-- The records from an address on: the fuel is the number of records a region can hold. -/
def readRecs (s : State) (p : Nat) (r : Region) : Nat → Nat → BitVec 64 → List SaveRec →
    Except RestFault (List SaveRec × BitVec 64) × State
  | _, 0, va, acc => (.ok (acc.reverse, va), s)
  | 0, _ + 1, _, _ => (.error .mismatch, s)
  | fuel + 1, n + 1, va, acc =>
    match readBytes s p .read va 8 with
    | (.error (c, a), s) => (.error (.addr c a), s)
    | (.ok bs, s) =>
      let w := natOfBytes bs
      let cnt := w / 65536 % 32
      let dat := w / 32768 % 2 == 1
      let size := if dat then 72 else 8
      match readBytes s p .read (va + 8) (cnt * size) with
      | (.error (c, a), s) => (.error (.addr c a), s)
      | (.ok tb, s) =>
        let toks := (List.range cnt).map fun i => tokOf dat ((tb.drop (size * i)).take size)
        let rec_ : SaveRec :=
          { tile := tileAt (r.row0 + w % 16) (r.col0 + w / 16 % 16), kind := w / 256 % 4, idx := w / 1024 % 32,
            plane := dat.toNat, toks := toks }
        let okPlace := decide (w % 16 < r.h) && decide (w / 16 % 16 < r.w) && decide (1 ≤ cnt) && decide (cnt ≤ 16)
        if okPlace then readRecs s p r fuel n (va + BitVec.ofNat 64 (8 + cnt * size)) (rec_ :: acc)
        else (.error .mismatch, s)

/-- Tokens placed so far, per tile and buffer. -/
abbrev Placed := List (Nat × Nat × Nat)

def Placed.count (pl : Placed) (t b : Nat) : Nat := pl.foldl (fun n e => if e.1 = t ∧ e.2.1 = b then n + e.2.2 else n) 0

/-- The buffers a record's tokens go to: its own, or those that its output's routes feed. -/
def recDests (s : State) (p : Nat) (e : SaveRec) : Option (List (Nat × Nat)) :=
  if e.kind = 0 then (if e.idx < 4 then some [(e.tile, e.idx)] else none)
  else if e.kind = 1 then (if e.idx < 8 then some [(e.tile, 4 + e.idx + 8 * e.plane)] else none)
  else if e.kind = 2 then
    let c := ((s.pad p).cfgAt e.tile).getD []
    let ds := (c.from (8 + e.idx)).filterMap (routeDest e.tile)
    if e.idx < 4 ∧ !ds.isEmpty then some ds else none
  else none

/-- Every record names buffers that routes provide and that have room for all tokens placed in them (R140). -/
def recsFit (s : State) (p : Nat) (r : Region) (recs : List SaveRec) : Bool :=
  let step := fun (a : Option Placed) (e : SaveRec) =>
    match a, recDests s p e with
    | some pl, some ds =>
      ds.foldl
        (fun a d => match a with
          | none => none
          | some pl =>
            match bufDepth s p r d.1 d.2 (e.plane == 1) with
            | none => none
            | some depth =>
              if pl.count d.1 d.2 + e.toks.length ≤ depth then some ((d.1, d.2, e.toks.length) :: pl) else none)
        (some pl)
    | _, _ => none
  -- the tokens of kind 2 go in after those of the records that name the buffers themselves
  ((recs.filter (·.kind != 2) ++ recs.filter (·.kind == 2)).foldl step (some [])).isSome

/-- An element block read back into its tile. Bit [7] of the numeric flags is reserved and reads zero (Table 4-11). -/
def blockTile (tl : Tile) (bs : List (BitVec 8)) : Tile :=
  let n := fun (off len : Nat) => natOfBytes ((bs.drop off).take len)
  let w0 := n 0 8
  let col := fun (w : Nat) (base cnt size : Nat) =>
    (List.range cnt).foldl (fun (t : Tbl (BitVec w)) i => Tbl.put 0 t i (BitVec.ofNat w (n (base + size * i) size))) []
  { tl with
    preds := BitVec.ofNat 8 w0, rrPtr := w0 / 2 ^ 8 % 16, halt := w0 / 2 ^ 12 % 2 == 1, arm := w0 / 2 ^ 13 % 2 == 1,
    l := BitVec.ofNat 4 (w0 / 2 ^ 16), flags := BitVec.ofNat 8 (w0 / 2 ^ 24 % 128),
    pend := (List.range 4).foldl (fun t o => Tbl.put 0 t o (BitVec.ofNat 6 (w0 / 2 ^ (32 + 8 * o)))) [],
    x := BitVec.ofNat 32 (n 8 8), a := BitVec.ofNat 33 (n 16 8), swapped := n 24 8 % 2 == 1,
    loc := col 32 0x20 8 4, rc := col 32 0x40 16 4, pos := col 32 0x80 16 4, vec := col 512 0x100 4 64 }

/-- A save area restored into a frozen region: the bytes read, or why not. Nothing changes when it fails. -/
def restoreRegion (s : State) (p rid : Nat) (va : BitVec 64) : Except RestFault Nat × State :=
  let r := s.region p rid
  match readBytes s p .read va (64 + 512 * r.h * r.w) with
  | (.error (c, a), s) => (.error (.addr c a), s)
  | (.ok bs, s) =>
    let w0 := natOfBytes (bs.take 8)
    let cnt := natOfBytes ((bs.drop 8).take 4)
    let ok := w0 % 16 == r.h % 16 && w0 / 16 % 16 == r.w % 16 && w0 / 256 % 4 == r.fold.toNat &&
      w0 / 65536 % 65536 == (hdrCfgid (r.activeHdr s p)).toNat
    let max := 24 * r.h * r.w
    if !ok || decide (max < cnt) then (.error .mismatch, s)
    else
      match readRecs s p r max cnt (va + BitVec.ofNat 64 (64 + 512 * r.h * r.w)) [] with
      | (.error e, s) => (.error e, s)
      | (.ok (recs, fin), s) =>
        if !recsFit s p r recs then (.error .mismatch, s)
        else
          let s := r.tileList.zipIdx.foldl
            (fun s e => s.updTile p e.1 fun tl => blockTile tl ((bs.drop (64 + 512 * e.2)).take 512)) s
          let put := fun (s : State) (e : SaveRec) =>
            ((recDests s p e).getD []).foldl
              (fun s d => e.toks.foldl (fun s k => s.updBuf p d.1 d.2 fun b => b.push false { k with arr := s.fc p }) s) s
          let s := (recs.filter (·.kind != 2) ++ recs.filter (·.kind == 2)).foldl put s
          let s := s.updRegion p rid fun r =>
            { r with saved := false, st := .running, runFrom := s.fc p + 1, committed := false, replayed := false, quiet := 0 }
          (.ok (fin - va).toNat, dropReplay s p r)

end Sys2Proof.Machine
end

