-- ==== Sys2Proof/Machine/Admission.lean ====
section
/-! DEFINITION. The admission arbiter (R128, R129), dispatch traces (R274, R275), the admission of a region (R126), L1
fusion (R152) and what a task gives back (R263, R264). -/

namespace Sys2Proof.Machine

/-! ## Placement (R128) -/

/-- A tile that belongs to no region. -/
def Paddock.tileFree (x : Paddock) (t : Nat) : Bool :=
  !(x.regions.any fun e => e.2.alloc && inRect e.2.row0 e.2.col0 e.2.h e.2.w t)

/-- Tiles that belong to no region (Table 8-1). -/
def Paddock.freeTiles (x : Paddock) : Nat := ((List.range 144).filter x.tileFree).length

/-- A rectangle inside the fabric. -/
def inFabric (row0 col0 h w : Nat) : Bool := decide (row0 + h ≤ 12) && decide (col0 + w ≤ 12)

/-- The columns a bid allows, ascending: those 6 apart only where the tile types agree. -/
def bidCols (b : Bid) : List Nat :=
  if b.mode = 2 then
    [b.col0 - 6, b.col0, b.col0 + 6].dedup.filter fun c =>
      (c == b.col0 || c + 6 == b.col0 || c == b.col0 + 6) &&
        (List.range b.w).all fun i => tileType (c + i) == tileType (b.col0 + i)
  else [b.col0]

/-- The origins a bid allows, lowest row first, then lowest column. -/
def bidOrigins (b : Bid) : List (Nat × Nat) :=
  let rows := if b.mode = 0 then [b.row0] else List.range 12
  (rows.flatMap fun r => (bidCols b).map fun c => (r, c)).filter fun o => inFabric o.1 o.2 b.h b.w

/-- A rectangle whose tiles are all free. -/
def rectFree (x : Paddock) (row0 col0 h w : Nat) : Bool := (rectTiles row0 col0 h w).all x.tileFree

/-- The region id that an admission gives: the lowest not allocated (log 105; DESIGN CHOICE). -/
def Paddock.freeId (x : Paddock) : Option Nat := (List.range 16).find? fun i => !(x.region i).alloc

/-- A bid needs a region id of its own, unless it unfolds a region. -/
def idOk (x : Paddock) (b : Bid) : Bool :=
  match b.kind with
  | .unfold _ => true
  | _ => x.freeId.isSome

/-- Where a bid is placed, when it fits (R128, R144). -/
def placeBid (x : Paddock) (b : Bid) : Option (Nat × Nat) :=
  if idOk x b then (bidOrigins b).find? fun o => rectFree x o.1 o.2 b.h b.w else none

/-! ## Ranking (R129) -/

/-- Keys 2 to 4: priority, arrival, launch queue. -/
def outranks (a b : Bid) : Bool :=
  decide (b.prio < a.prio) ||
  (a.prio == b.prio && (decide (a.arr < b.arr) || (a.arr == b.arr && decide (a.q < b.q))))

/-- Insertion by rank, equal ranks in order of placing. -/
def rankIn (b : Nat × Bid) : List (Nat × Bid) → List (Nat × Bid)
  | [] => [b]
  | c :: cs => if outranks b.2 c.2 then b :: c :: cs else c :: rankIn b cs

/-- Bids with their numbers, highest rank first. -/
def ranked (bs : List (Nat × Bid)) : List (Nat × Bid) := bs.foldl (fun l b => rankIn b l) []

def numbered (bs : List Bid) : List (Nat × Bid) := bs.zipIdx.map fun e => (e.2, e.1)

/-- The head-of-line bid. -/
def holBid (bs : List Bid) : Option (Nat × Bid) :=
  (numbered bs).foldl
    (fun m e => match e.2.hol, m with
      | none, _ => m
      | some _, none => some e
      | some k, some f => if k < f.2.hol.getD 0 then some e else m) none

/-- What the arbiter does. -/
inductive Pick where
  | none
  | grant (n row0 col0 : Nat)
  | diverge (n : Nat)
deriving DecidableEq, Repr

/-- The choice of R129: the head-of-line bid alone, else the highest-ranked bid that fits. -/
def pickRanked (x : Paddock) : Pick :=
  let cand := match holBid x.bids with
    | some b => [b]
    | none => ranked (numbered x.bids)
  match cand.findSome? fun e => (placeBid x e.2).map fun o => (e.1, o) with
  | some (n, r, c) => .grant n r c
  | none => .none

/-! ## Dispatch traces (R274, R275) -/

/-- The first word of a trace entry. -/
def traceWord (kind q rid ttype row0 col0 ord : Nat) : Nat :=
  kind + q * 2 ^ 4 + rid * 2 ^ 6 + ttype * 2 ^ 10 + row0 * 2 ^ 22 + col0 * 2 ^ 26 + ord % 2 ^ 32 * 2 ^ 32

/-- The next entry of a bound trace. -/
def traceNext (s : State) (p : Nat) : Option Nat × State :=
  let tr := (s.pad p).trace
  match readBytes s p .read (tr.base + BitVec.ofNat 64 (16 * tr.count.toNat)) 16 with
  | (.ok bs, s) => (some (natOfBytes (bs.take 8)), s)
  | (.error _, s) => (none, s)

def State.updTrace (s : State) (p : Nat) (f : Trace → Trace) : State := s.updPad p fun x => { x with trace := f x.trace }

/-- Binding ends; arbitration is normal from the next fc. -/
def endBinding (s : State) (p : Nat) (div : Bool) : State :=
  (s.updTrace p fun t => { t with mode := 0, diverged := t.diverged || div, till := s.fc p + 1 }).updPad p fun x =>
    { x with bidNow := true }

/-- A dispatch event recorded, or compared with the next entry of a bound trace. An entry that cannot be written ends
recording as a full buffer does (log 31). -/
def dispatchEvent (s : State) (p kind q rid ttype row0 col0 ord : Nat) : State :=
  let x := s.pad p
  let tr := x.trace
  if tr.mode = 1 then
    if tr.full then s
    else
      let bs := bytesOfNat 8 (traceWord kind q rid ttype row0 col0 ord) ++ bytesOfNat 8 x.cycle.toNat
      match writeBytes s p (tr.base + BitVec.ofNat 64 (16 * tr.count.toNat)) bs with
      | (none, s) =>
        s.updTrace p fun t => { t with count := t.count + 1, full := decide (t.size.toNat ≤ t.count.toNat + 1) }
      | (some _, s) => s.updTrace p fun t => { t with full := true }
  else if tr.mode = 2 then
    match traceNext s p with
    | (none, s) => endBinding s p true
    | (some w, s) =>
      if w / 2 ^ 4 % 4 = q ∧ w / 2 ^ 32 = ord then
        let same := w % 16 == kind && w / 2 ^ 10 % 4096 == ttype && w / 2 ^ 22 % 16 == row0 && w / 2 ^ 26 % 16 == col0
        if same then
          -- the next entry may match a bid that waits (R275)
          let s := (s.updTrace p fun t => { t with count := t.count + 1 }).updPad p fun x => { x with bidNow := true }
          if tr.size.toNat ≤ tr.count.toNat + 1 then endBinding s p false else s
        else endBinding s p true
      else s
  else s

/-- TTYPE of a bid or of a region as a trace entry gives it. -/
def ttypeOf (x : Paddock) (k : Option Nat) : Nat :=
  match k with
  | some k => (x.task k).ttype.toNat
  | none => 0xFFF

def bidTtype (x : Paddock) (b : Bid) : Nat :=
  match b.kind with
  | .ctx _ => 0xFFF
  | .task k => ttypeOf x (some k)
  | .unfold r => ttypeOf x (x.region r).task

def bidEvent (b : Bid) : Nat :=
  match b.kind with
  | .unfold _ => 2
  | _ => 0

/-- The choice under a bound trace: the waiting bid that matches the next entry, at the entry's origin. -/
def pickBound (s : State) (p : Nat) : Pick × State :=
  let x := s.pad p
  match traceNext s p with
  | (none, s) => (.none, s)
  | (some w, s) =>
    let r0 := w / 2 ^ 22 % 16
    let c0 := w / 2 ^ 26 % 16
    match (numbered x.bids).find? fun e => e.2.q == w / 2 ^ 4 % 4 && e.2.ord == w / 2 ^ 32 with
    | none => (.none, s)
    | some (n, b) =>
      if w % 16 ≠ bidEvent b ∨ w / 2 ^ 10 % 4096 ≠ bidTtype x b ∨ !(bidOrigins b).contains (r0, c0) then (.diverge n, s)
      else if idOk x b && rectFree x r0 c0 b.h b.w then (.grant n r0 c0, s)
      else (.none, s)

/-- The arbiter's choice. -/
def pickBid (s : State) (p : Nat) : Pick × State :=
  let x := s.pad p
  if s.fc p < x.trace.till then (.none, s)
  else if x.trace.mode = 2 then pickBound s p
  else (pickRanked x, s)

/-! ## Bids placed, withdrawn and admitted -/

/-- The next ordinal of a queue's bids (R274). -/
def Paddock.nextOrd (x : Paddock) (q : Nat) : Nat := Tbl.get 0 x.trace.ords q

/-- A bid placed, with AGE 0. -/
def addBid (s : State) (p : Nat) (b : Bid) : State :=
  s.updPad p fun x =>
    { x with
      bids := x.bids ++ [{ b with arr := x.fc, ord := x.nextOrd b.q }]
      bidNow := true
      trace := { x.trace with ords := Tbl.set x.trace.ords b.q (x.nextOrd b.q + 1) } }

/-- Bids of a kind withdrawn. -/
def dropBids (s : State) (p : Nat) (kind : BidKind) : State :=
  s.updPad p fun x => { x with bids := x.bids.filter fun b => b.kind != kind }

/-- The bids that stand for a context's waiting instruction withdrawn (R143). -/
def withdrawBids (s : State) (p q : Nat) : State :=
  s.updPad p fun x =>
    { x with bids := x.bids.filter fun b => match b.kind with
        | .ctx n => n != q
        | .unfold r => (x.region r).owner != q
        | .task _ => true }

/-- An admission takes a bid out and ages the others; those that reach BYPMAX join the head-of-line order by rank. -/
def takeBid (s : State) (p n : Nat) : State :=
  s.updPad p fun x =>
    let rest := (x.bids.eraseIdx n).map fun b => { b with age := b.age + 1 }
    let joins := ranked ((numbered rest).filter fun e => e.2.hol.isNone && decide (x.bypmax.toNat ≤ e.2.age))
    let (bids, next) := joins.foldl
      (fun a e => (a.1.modify e.1 fun b => { b with hol := some a.2 }, a.2 + 1)) (rest, x.holNext)
    { x with bids := bids, holNext := next }

/-- A region admitted at an origin (R126): its tiles have empty slots and buffers and no active configuration; numeric
flags are cleared but at a continuation (R66). -/
def newRegion (s : State) (p id : Nat) (b : Bid) (row0 col0 : Nat) (task : Option Nat) (seed : BitVec 64)
    (clear : Bool) : State :=
  let s := (rectTiles row0 col0 b.h b.w).foldl
    (fun s t => s.updTile p t fun tl =>
      let tl := freedTile tl none
      if clear then { tl with flags := 0 } else tl) s
  s.setRegion p id
    { alloc := true, owner := b.q, row0 := row0, col0 := col0, h := b.h, w := b.w, prio := b.prio, task := task,
      seed := seed, fullH := b.h, ord := b.ord }

/-! ## L1 fusion (R152) -/

/-- Every L1 line of a paddock invalidated. -/
def clearL1 (s : State) (p : Nat) : State :=
  s.updPad p fun x =>
    { x with tiles := x.tiles.map fun e => (e.1, { e.2 with et := { e.2.et with lines := [] } }) }

/-- A task that asks for fused L1s starts or ends. -/
def fuse (s : State) (p k : Nat) (on : Bool) : State :=
  let l := (s.pad p).fused
  let l' := if on then (if l.contains k then l else l ++ [k]) else l.filter (· != k)
  let s := s.updPad p fun x => { x with fused := l' }
  if l.isEmpty != l'.isEmpty then clearL1 s p else s

/-! ## Tasks -/

/-- A task's handle (R261). -/
def taskHandle (k : Nat) (t : Task) : BitVec 64 := BitVec.ofNat 64 (k + t.ser.toNat * 256)

/-- The counters that freeze a task (R259). -/
def Task.enforceI (t : Task) : Bool := t.cclass != 2
def Task.enforceT (t : Task) : Bool := t.cclass != 1

/-- An enforced counter is exhausted, or negative. -/
def Task.exhausted (t : Task) : Bool :=
  (t.enforceI && decide (t.ibud.toInt ≤ 0)) || (t.enforceT && decide (t.tbud.toInt ≤ 0))
def Task.inDebt (t : Task) : Bool :=
  (t.enforceI && decide (t.ibud.toInt < 0)) || (t.enforceT && decide (t.tbud.toInt < 0))

/-- Which of its counters a freeze of the task is for (Table 14-10). -/
def Task.frozenBy (t : Task) : Task :=
  { t with iexh := t.enforceI && decide (t.ibud.toInt ≤ 0), texh := t.enforceT && decide (t.tbud.toInt ≤ 0) }

/-- A charge reaches the counters of whom it falls to; a task that is gone has none. A task whose region is released and
whose counters that exhausts is frozen from the fc in which it would have been with its region (R267). -/
def payLate (s : State) (p : Nat) (e : Announcer × Charge) : State :=
  match e.1 with
  | .ctx q => s.updCtx p q fun c => c.charge e.2.ib e.2.tb
  | .task k ser =>
    let fc := s.fc p
    if (s.task p k).ser = ser ∧ (s.task p k).st ≠ .free then
      s.updTask p k fun t =>
        let t := { t with ibud := t.ibud - BitVec.ofNat 64 e.2.ib, tbud := t.tbud - BitVec.ofNat 64 e.2.tb }
        if t.st = .released ∧ t.stopAt = none ∧ t.exhausted then { t.frozenBy with stopAt := some (fc + 5) } else t
    else s
  | .region _ => s

/-- Late charges that `now` picks reach their counters. -/
def payLates (s : State) (p : Nat) (now : Announcer × Charge → Bool) : State :=
  let l := (s.pad p).late
  (l.filter now).foldl (fun s e => payLate s p e) (s.updPad p fun x => { x with late := l.filter fun e => !now e })

/-- A late charge of a task. -/
def lateOf (s : State) (p k : Nat) (e : Announcer × Charge) : Bool := e.1 == .task k (s.task p k).ser

/-- Both counters of a task added to its parent's (R264). -/
def returnBudget (s : State) (p k : Nat) : State :=
  let t := s.task p k
  let s := s.updCtx p t.parent fun c => { c with ibud := c.ibud + t.ibud, tbud := c.tbud + t.tbud }
  s.setTask p k { t with ibud := 0, tbud := 0 }

/-- A task that could not be admitted: its region is freed, both budgets return with every charge made, STATE is 5 and the
parent takes an asynchronous trap (R263, R273). -/
def taskAdmitFault (s : State) (p k id : Nat) (cause : BitVec 8) (tval tval2 : BitVec 64) : State :=
  let s := freeRegion s p id none
  let s := returnBudget (payLates s p (lateOf s p k)) p k
  let s := s.updTask p k fun t => { t with st := .faulted, rid := none }
  let s := fuse s p k false
  report s p (s.task p k).parent cause tval tval2 (.task k)

/-- The bid of a task for its region (R128, R262, R273). -/
def taskBid (s : State) (p k : Nat) : State :=
  let t := s.task p k
  let h := ceilDiv t.h (2 ^ (t.moveTo.map (·.2.toNat)).getD 0)
  addBid s p { kind := .task k, row0 := t.row0, col0 := t.col0, h := h, w := t.w, mode := t.place, prio := t.prio,
               q := t.parent, arr := 0 }

end Sys2Proof.Machine
end

