-- ==== Sys2Proof/Machine/Region.lean ====
section
/-! DEFINITION. The region and configuration class (R125 to R148): its eleven sequencer instructions, the admission of
bids, decision broadcasts, splices, flush tokens, the quiescence detector and token hops. An instruction that waits is
judged at the end of each fc by its `try` function; its charge is made, and its PC moved, when it completes. -/

namespace Sys2Proof.Machine

open Host (Outcome)

/-! ## Shared parts -/

/-- The region id an instruction names: A[3:0] (R143). -/
def regionId (s : State) (p q : Nat) (f : SeqF) : Nat := fld ((s.ctx p q).opA f) 0 4

/-- An instruction completes: charges, PC, what it writes (R143). -/
def finish (s : State) (p q ib tb : Nat) (upd : Ctx → Ctx) : State :=
  s.setCtx p q { upd (((s.ctx p q).charge ib tb).adv) with wait := .ready }

/-- The acting context completes its instruction. -/
def finishCur (s : State) (ib tb : Nat) (upd : Ctx → Ctx) : State := finish s s.cur.p s.cur.q ib tb upd

/-- Units of 64 bytes, rounded up. -/
def lines64 (n : Nat) : Nat := ceilDiv n 64

/-- What a waiting instruction of a context was charged as it issued (R270): LNCH is charged when it has found its slot
(R262), TOKSV's traffic when its size is known (R143, log 32). -/
def pollCost (s : State) (p q : Nat) (word : BitVec 64) : Nat × Nat :=
  let f := seqFields word
  match (seqOpc word).toNat with
  | 0x80 => (0, 0)
  | 0x65 =>
    let r := s.region p (regionId s p q f)
    (16, lines64 (264 * r.fullH * r.w))
  | 0x97 => (1, ((s.ctx p q).opB f).toNat)
  | 0xA8 => (1, 8)
  | _ => (1, 0)

/-- The charge of a context's waiting instruction taken back, as it is judged again: it then completes and is charged,
or traps and is charged nothing (R76). -/
def State.unissue (s : State) (p q : Nat) : State :=
  match (s.ctx p q).wait with
  | .poll w _ =>
    let n := pollCost s p q w
    s.updCtx p q fun c => { c with ibud := c.ibud + BitVec.ofNat 64 n.1, tbud := c.tbud + BitVec.ofNat 64 n.2 }
  | _ => s

/-- A context that waits after all has been charged. -/
def State.reissue (s : State) (p q : Nat) : State :=
  match (s.ctx p q).wait with
  | .poll w _ =>
    let n := pollCost s p q w
    s.updCtx p q fun c => c.charge n.1 n.2
  | _ => s

/-- A waiting instruction judged again; one whose condition does not hold waits on. -/
def retry (s : State) (p q : Nat) (r : State → Option State) : State :=
  match r (s.unissue p q) with
  | some t => t.reissue p q
  | none => s

/-- The acting context waits for a condition of the end of an fc; its instruction is charged now (R270). -/
def pollFor (s : State) (opc : BitVec 8) (f : SeqF) (stage : Nat) : State :=
  (s.setCurCtx { s.curCtx with wait := .poll (seqPack opc f) stage }).reissue s.cur.p s.cur.q

/-- An instruction that completes or traps as it issues, or else waits. -/
def tryOrPoll (s : State) (r : Option State) (opc : BitVec 8) (f : SeqF) (stage : Nat) : State :=
  match r with
  | some t => t.reissue s.cur.p s.cur.q
  | none => pollFor s opc f stage

/-- An instruction that names a region: the id is allocated and the issuing context's own (R125). -/
def regionIns (f : SeqF) (s : State) (body : Nat → Region → State → State) : Out :=
  issueWith f anyone s fun s =>
    let a := s.curCtx.opA f
    let id := fld a 0 4
    let r := s.region s.cur.p id
    .next (if !r.alloc || r.owner != s.cur.q then refuse s a 0x10 else body id r s)

/-- The same region refusal with the operand of the acting context. -/
def refuseA (s : State) (f : SeqF) (detail : Nat) : State := refuse s (s.curCtx.opA f) detail

/-- A region's configuration in a slot of its first tile. -/
def Region.cfgIn (r : Region) (s : State) (p n : Nat) : Option Cfg :=
  Tbl.find? (s.tile p (tileAt r.row0 r.col0)).cfgs n

/-- A resident slot that holds a configuration. -/
def slotLoaded (s : State) (p : Nat) (r : Region) (n : Nat) : Bool := (r.cfgIn s p n).isSome

/-- The instruction of an opcode that a context waits in. -/
def pollOf (s : State) (p q opc : Nat) : Option (SeqF × Nat) :=
  match (s.ctx p q).wait with
  | .poll w st => if (seqOpc w).toNat = opc then some (seqFields w, st) else none
  | _ => none

/-- The owner of a region waits on it in an instruction. -/
def ownerWaits (s : State) (p rid opc : Nat) : Option (SeqF × Nat) :=
  let q := (s.region p rid).owner
  match pollOf s p q opc with
  | some (f, st) => if regionId s p q f = rid then some (f, st) else none
  | none => none

/-- A CFGA without FORCE of the owner waits for the region to drain. -/
def cfgaDrains (s : State) (p rid : Nat) : Bool :=
  match ownerWaits s p rid 0x63 with
  | some (f, st) => st == 0 && !f.imm.getLsbD 2
  | none => false

/-! ## RGNA (R144) -/

/-- The bid a descriptor asks for, when it is well formed. -/
def descBid (q : Nat) (a : BitVec 64) : Option Bid :=
  let b : Bid :=
    { kind := .ctx q, row0 := fld a 0 4, col0 := fld a 4 4, h := fld a 8 4 + 1, w := fld a 12 4 + 1, mode := fld a 16 2,
      prio := fld a 18 3, q := q, arr := 0 }
  if inFabric b.row0 b.col0 b.h b.w ∧ b.mode ≤ 2 then some b else none

/-- RGNA: a bid is placed and waits; BID_ADMIT completes it. -/
def execRgna (f : SeqF) (s : State) : Out :=
  issueWith f anyone s fun s =>
    match descBid s.cur.q (s.curCtx.opA f) with
    | none => .next (refuseA s f 0x1B)
    | some b => .next (addBid (pollFor s 0x60 f 0) s.cur.p b)

/-- With TRY, a bid not admitted in the fc of issue is withdrawn and sD ← 2^64 − 1. -/
def tryRgna (s : State) (p q : Nat) (f : SeqF) : Option State :=
  if f.imm.getLsbD 0 then some (finish (withdrawBids s p q) p q 1 0 fun c => c.wr f.d (-1)) else none

/-! ## CFGL (R131, R40) -/

/-- The trap of an image that was not loaded (R40, R86). -/
def imgTrap (s : State) (e : ImgFault) : State :=
  match e with
  | .addr c va => addrTrap s c va .read
  | .word c va w => precise s c (some va) (some w)

/-- An image made resident in a slot; the region keeps what it was loaded from (R319). -/
def makeResident (s : State) (p rid slot : Nat) (va : BitVec 64) (img : List (BitVec 64)) : State :=
  let r := s.region p rid
  let s := storeImage s p r.row0 r.col0 r.h r.w slot img
  s.updRegion p rid fun r => { r with images := Tbl.set r.images slot (va, img), asRead := Tbl.set r.asRead slot img }

/-- CFGL. -/
def execCfgl (f : SeqF) (s : State) : Out :=
  regionIns f s fun id r s =>
    let p := s.cur.p
    let n := fld f.imm 0 2
    let b := s.curCtx.opB f
    let taken := r.act.any (·.toNat == n) || r.spl.any (·.succ.toNat == n) || r.dec.any (·.toNat == n)
    if r.task.isSome then refuseA s f 0x12
    else if taken then refuseA s f 0x11
    else
      match readImage s p r.row0 r.col0 r.h r.w none b with
      | (.error e, s) => imgTrap s e
      | (.ok img, s) => finishCur (makeResident s p id n b img) 16 (lines64 (264 * r.h * r.w)) id'
where
  id' := fun (c : Ctx) => c

/-! ## CFGA (R145) -/

/-- CFGA: stage 0 waits to drain, or to settle under FORCE; stage 1 waits for an armed splice. -/
def execCfga (f : SeqF) (s : State) : Out :=
  regionIns f s fun id r s =>
    let n := fld f.imm 0 2
    if r.task.isSome then refuseA s f 0x12
    else
      match r.spl with
      | some sp => if sp.succ.toNat ≠ n then refuseA s f 0x15 else pollFor s 0x63 f 1
      | none =>
        if r.dec.any (·.toNat != n) then refuseA s f 0x15
        else if !slotLoaded s s.cur.p r n then refuseA s f 0x13
        else if !f.imm.getLsbD 2 then
          if r.st = .trapped then refuseA s f 0x19 else pollFor s 0x63 f 0
        else if !r.saved && !f.imm.getLsbD 3 then refuseA s f 0x16
        else pollFor (s.updRegion s.cur.p id fun r => { r with st := .frozen }) 0x63 f 0

/-- The parked requests of a region cancelled into its DROP count (R170). -/
def cancelRegion (s : State) (p rid : Nat) : State :=
  let r := s.region p rid
  let (n, s) := r.tileList.foldl (fun a t => let (m, s) := cancelTile a.2 p t; (a.1 + m, s)) (0, s)
  s.updRegion p rid fun r => { r with drop := r.drop + n }

/-- Every pending count of a region is zero. -/
def pendsZero (s : State) (p : Nat) (r : Region) : Bool := r.tileList.all fun t => (s.tile p t).pendZero

/-- A waiting CFGA whose condition holds. Under FORCE without DISCARD the activation waits until every flush token has
found space (R64). -/
def tryCfga (s : State) (p q : Nat) (f : SeqF) (stage : Nat) : Option State :=
  let id := regionId s p q f
  let r := s.region p id
  let n := fld f.imm 0 2
  let go := fun (s : State) => finish (activateRegion s p id (BitVec.ofNat 2 n) true) p q 1 0 fun c => c
  if stage = 1 then
    if r.spl.isNone then some (finish s p q 1 0 fun c => c) else none
  else if !f.imm.getLsbD 2 then
    if drained s p id r then some (go s) else none
  else if settled s p r then
    if f.imm.getLsbD 3 then some (go (discardAll s p id true))
    else
      let s := flushAll (cancelRegion s p id) p id
      some (if pendsZero s p r then go s else s)
  else none

/-- CFGA_ACTIVATE. -/
def execCfgaActivate (p : Fin 32) (q : Fin 4) (s : State) : Out :=
  match pollOf s p q 0x63 with
  | some (f, st) => .next (retry s p q fun s => tryCfga s p q f st)
  | none => .next s

/-! ## RGNF (R146) -/

/-- RGNF. -/
def execRgnf (f : SeqF) (s : State) : Out :=
  regionIns f s fun id r s =>
    let disc := f.imm.getLsbD 0
    if r.task.isSome then refuseA s f 0x12
    else if !disc && r.st == .trapped then refuseA s f 0x19
    else
      let s := if disc then s.updRegion s.cur.p id fun r => { r with st := .frozen } else s
      pollFor s 0x61 f 0

/-- A waiting RGNF whose region has drained, or settled under DISCARD. -/
def tryRgnf (s : State) (p q : Nat) (f : SeqF) : Option State :=
  let id := regionId s p q f
  let r := s.region p id
  if f.imm.getLsbD 0 then
    if settled s p r then some (finish (freeRegion (discardAll s p id false) p id none) p q 1 0 fun c => c) else none
  else if drained s p id r then some (finish (freeRegion s p id none) p q 1 0 fun c => c)
  else none

/-- RGNF_FREE. -/
def execRgnfFree (p : Fin 32) (q : Fin 4) (s : State) : Out :=
  match pollOf s p q 0x61 with
  | some (f, _) => .next (retry s p q fun s => tryRgnf s p q f)
  | none => .next s

/-! ## SPLC (R137, R146) -/

/-- A splice armed on a region. -/
def armSplice (s : State) (p rid : Nat) (sp : Splice) : State :=
  let s := (s.region p rid).tileList.foldl
    (fun s t => s.updTile p t fun tl => { tl with swapped := false, eosIn := 0, eosOut := 0 }) s
  s.updRegion p rid fun r => { r with spl := some sp }

/-- SPLC. -/
def execSplc (f : SeqF) (s : State) : Out :=
  regionIns f s fun id r s =>
    let p := s.cur.p
    let n := fld f.imm 0 2
    if r.task.isSome then refuseA s f 0x12
    else
      match r.act with
      | none => refuseA s f 0x1C
      | some a =>
        if r.spl.isSome || r.dec.isSome then refuseA s f 0x15
        else
          match r.cfgIn s p n, r.cfgIn s p a.toNat with
          | some c, some d =>
            if n = a.toNat ∨ hdrGen c.hdr = hdrGen d.hdr then refuseA s f 0x17
            else
              let tag := if f.imm.getLsbD 2 then some (f.imm.extractLsb' 3 6) else none
              finishCur (armSplice s p id { succ := BitVec.ofNat 2 n, tag := tag, q := s.cur.q, oldGen := hdrGen d.hdr })
                1 0 fun c => c
          | _, _ => refuseA s f 0x13

/-- A memory or matrix operation of the tile's element is in progress (R137). -/
def Tile.accessing (tl : Tile) (fc : Nat) : Bool :=
  (tl.reqs.any fun r => decide ((fabOpc r.word).toNat ≤ 0x89)) || tl.mx.works fc

/-- A tile's conditions 1 to 3 of R137. -/
def swapReady (s : State) (p t : Nat) (r : Region) (sp : Splice) : Bool :=
  let tl := s.tile p t
  let c := ((s.pad p).cfgAt t).getD []
  !tl.swapped && !tl.accessing (s.fc p) &&
  ((List.range 4).all fun n =>
    !(c.inPlane n).isSome || (bitAt tl.eosIn n && !((tl.buf n).toks.any fun k => k.gen == sp.oldGen))) &&
  ((List.range 4).all fun n => !(c.outPlane n).isSome || tl.halt || bitAt tl.eosOut n) &&
  r.st == .running

/-- A tile swaps to the successor (R137, R134). Its swapped flag stays 1 until the next arming or activation (log 105; DESIGN
CHOICE). -/
def swapTile (s : State) (p rid t : Nat) (sp : Splice) : State :=
  let c : Cfg := (Tbl.find? (s.tile p t).cfgs sp.succ.toNat).getD []
  let s := s.updTile p t fun tl => { activateTile tl c false with swapped := true }
  let s := dropReplay s p (s.region p rid)
  let s := s.updRegion p rid fun r => { r with busy := true, committed := false, replayed := false }
  let r := s.region p rid
  if r.tileList.all fun u => (s.tile p u).swapped then
    let s := r.tileList.foldl
      (fun s u => s.updTile p u fun tl => { tl with eosIn := 0, eosOut := 0 }) s
    let s := s.updRegion p rid fun r => { r with act := some sp.succ, spl := none }
    match sp.tag with
    | some n => setTag s p sp.q n.toNat
    | none => s
  else s

/-- SPLICE_SWAP: all four conditions of R137 hold on the tile. -/
def execSpliceSwap (p : Fin 32) (t : Fin 144) (s : State) : Out :=
  match (s.pad p).regionAt t with
  | none => .next s
  | some (id, r) =>
    match r.spl with
    | none => .next s
    | some sp =>
      .next (if swapReady s p t r sp && (s.tile p t).pendZero then swapTile s p id t sp else s)

/-! ## Decision broadcasts (R136) -/

/-- DECB places its broadcast when none is pending. -/
def tryDecb (s : State) (p q : Nat) (f : SeqF) : Option State :=
  let id := regionId s p q f
  let r := s.region p id
  let n := fld ((s.ctx p q).opB f) 0 2
  if r.dec.isSome then none
  else
    let s := s.updRegion p id fun r => { r with dec := some (BitVec.ofNat 2 n), committed := true }
    some (finish s p q 1 0 fun c => c)

/-- DECB. -/
def execDecb (f : SeqF) (s : State) : Out :=
  regionIns f s fun _ r s =>
    let n := fld (s.curCtx.opB f) 0 2
    if !slotLoaded s s.cur.p r n then refuseA s f 0x13
    else tryOrPoll s (tryDecb s s.cur.p s.cur.q f) 0x69 f 0

/-- The switch of a pending decision is due: the region is drained, no CFGA of the owner supersedes it and no splice is
armed (log 22). -/
def switchDue (s : State) (p rid : Nat) : Option (BitVec 2) :=
  let r := s.region p rid
  match r.dec with
  | none => none
  | some n =>
    if r.alloc ∧ (r.st = .running ∨ r.st = .noConfig) ∧ r.spl = none ∧ r.trap = none ∧ !r.paused ∧
        !cfgaDrains s p rid ∧ drained s p rid r then some n
    else none

/-- DECISION_SWITCH: every tile switches together, clears p0–p7 and keeps its locals. -/
def execDecisionSwitch (p : Fin 32) (r : Fin 16) (s : State) : Out :=
  match switchDue s p r with
  | some n => .next (markBusy (activateRegion s p r n false) p r)
  | none => .next s

/-! ## Flush tokens (R64) -/

/-- A configuration change waits for the pending counts of a tile's outputs. All the flush tokens of a drained region that
have space leave in one fc (R132). -/
def flushWaits (s : State) (p t : Nat) : Bool :=
  match (s.pad p).regionAt t with
  | none => false
  | some (id, r) =>
    match r.spl with
    | some sp => swapReady s p t r sp
    | none =>
      (cfgaDrains s p id || (r.dec.isSome && r.st == .running)) && (drainedBut s p id r || r.flushFc == some (s.fc p))

/-- A flush token of an output is due and every destination has space. -/
def flushDue (s : State) (p t o : Nat) : Bool :=
  Tbl.get 0 (s.tile p t).pend o != 0 && flushWaits s p t && outSpace s p t (((s.pad p).cfgAt t).getD []) o

/-- SKIP_FLUSH_EMIT. -/
def execSkipFlushEmit (p : Fin 32) (t : Fin 144) (o : Fin 4) (s : State) : Out :=
  if flushDue s p t o then
    match (s.pad p).regionAt t with
    | some (id, r) =>
      let fc := s.fc p
      let s := if r.spl.isNone then s.updRegion p id fun r => { r with flushFc := some fc } else s
      .next (markBusy (flushOut s p t o) p id)
    | none => .next s
  else .next s

/-! ## RFOLD (R141, R142) -/

/-- Column accumulators, A-sum and carry capture buffer of an M tile hold nothing. -/
def Matrix.drainedState (m : Matrix) : Bool := m.body.isEmpty && m.nfc.isEmpty && m.carry.isEmpty

/-- The fold image: sB, or the alternate of the task's type when sB is 0. -/
def foldImage (s : State) (p : Nat) (r : Region) (b : BitVec 64) (fac : Nat) : BitVec 64 :=
  match r.task with
  | some k => if b = 0 then (if fac = 1 then (s.task p k).fold2 else (s.task p k).fold4) else b
  | none => b

/-- A region cut to its first hk rows under a fold image. -/
def foldRegion (s : State) (p rid hk fac : Nat) (va : BitVec 64) (img : List (BitVec 64)) : State :=
  let r := s.region p rid
  let gone := rectTiles (r.row0 + hk) r.col0 (r.h - hk) r.w
  let (n, s) := gone.foldl (fun a t => let (m, s) := cancelTile a.2 p t; (a.1 + m, s)) (0, s)
  let s := freeTiles s p gone none
  let s := s.updRegion p rid fun r =>
    { r with h := hk, fullH := r.h, fold := BitVec.ofNat 2 fac, drop := r.drop + n }
  let s := makeResident s p rid ((r.act.getD 0).toNat) va img
  let s := s.updPad p fun x => { x with bidNow := true }
  dispatchEvent s p 1 r.owner rid (ttypeOf (s.pad p) r.task) r.row0 r.col0 r.ord

/-- The conditions on RFOLD, folding or not. -/
def foldRefusal (s : State) (p : Nat) (r : Region) (fac : Nat) : Option Nat :=
  let hk := ceilDiv r.h (2 ^ fac)
  if !r.saved then some 0x16
  else if fac = 0 then
    if r.fold = 0 then some 0x14 else if r.spl.isSome || r.dec.isSome then some 0x15 else none
  else if r.h < 2 ∨ r.fold ≠ 0 then some 0x14
  else if r.spl.isSome || r.dec.isSome then some 0x15
  else if (rectTiles (r.row0 + hk) r.col0 (r.h - hk) r.w).any fun t =>
      tileType t == .m && !(s.tile p t).mx.drainedState then some 0x18
  else none

/-- RFOLD with factor 1 or 2. With sB = 0, a task region whose type has no alternate (Table 14-3) is refused with detail 0x14
(log 105; DESIGN CHOICE). -/
def execRfold (f : SeqF) (s : State) : Out :=
  regionIns f s fun id r s =>
    let p := s.cur.p
    let fac := fld f.imm 0 2
    match foldRefusal s p r fac with
    | some d => refuseA s f d
    | none =>
      let hk := ceilDiv r.h (2 ^ fac)
      let va := foldImage s p r (s.curCtx.opB f) fac
      if r.task.isSome && va == 0 then refuseA s f 0x14
      else
        match readImage s p r.row0 r.col0 hk r.w (some (BitVec.ofNat 2 fac)) va with
        | (.error e, s) => imgTrap s e
        | (.ok img, s) => finishCur (foldRegion s p id hk fac va img) 16 (lines64 (264 * hk * r.w)) fun c => c

/-- RFOLD with factor 0: a bid for the vacated rows; BID_ADMIT completes it. -/
def execRfoldUnfold (f : SeqF) (s : State) : Out :=
  regionIns f s fun id r s =>
    match foldRefusal s s.cur.p r 0 with
    | some d => refuseA s f d
    | none =>
      addBid (pollFor s 0x65 f 0) s.cur.p
        { kind := .unfold id, row0 := r.row0 + r.h, col0 := r.col0, h := r.fullH - r.h, w := r.w, mode := 0, prio := r.prio,
          q := r.owner, arr := 0 }

/-- The full image loaded once the vacated rows are granted (R142). -/
def unfoldRegion (s : State) (p rid : Nat) : State :=
  let r := s.region p rid
  let q := r.owner
  let s := { s with cur := { s.cur with p := p, q := q } }
  match pollOf s p q 0x65 with
  | none => s
  | some (f, _) =>
    let s := s.unissue p q
    let va := (s.ctx p q).opB f
    match readImage s p r.row0 r.col0 r.fullH r.w (some 0) va with
    | (.error e, s) => imgTrap s e
    | (.ok img, s) =>
      let s := (rectTiles (r.row0 + r.h) r.col0 (r.fullH - r.h) r.w).foldl
        (fun s t => s.updTile p t fun tl => { freedTile tl none with flags := 0 }) s
      let s := s.updRegion p rid fun r => { r with h := r.fullH, fold := 0 }
      let s := makeResident s p rid ((r.act.getD 0).toNat) va img
      finish s p q 16 (lines64 (264 * r.fullH * r.w)) fun c => c

/-! ## QWAIT (R146) -/

/-- QWAIT. -/
def execQwait (f : SeqF) (s : State) : Out :=
  regionIns f s fun _ _ s => pollFor s 0x66 f 0

/-- The status QWAIT returns at the end of an fc; status 1 comes from the quiescence detector. -/
def qwaitStatus (s : State) (p rid : Nat) : Option Nat :=
  let r := s.region p rid
  if r.st = .frozen ∨ r.st = .trapped ∨ r.saved then some 3
  else if r.act.isSome && r.tileList.all (haltedTile s p ·) then some 2
  else if drained s p rid r && !anyReady s p r then some 0
  else none

/-- A waiting QWAIT whose region has a status. -/
def tryQwait (s : State) (p q : Nat) (f : SeqF) : Option State :=
  (qwaitStatus s p (regionId s p q f)).map fun v => finish s p q 1 0 fun c => c.wr f.d (BitVec.ofNat 64 v)

/-- QWAIT_RETURN. -/
def execQwaitReturn (p : Fin 32) (q : Fin 4) (s : State) : Out :=
  match pollOf s p q 0x66 with
  | some (f, _) => .next (retry s p q fun s => tryQwait s p q f)
  | none => .next s

/-! ## TOKSV and TOKRS (R139, R140) -/

/-- A run state as a poll's stage keeps it. -/
def RunSt.code : RunSt → Nat
  | .noConfig => 0 | .running => 1 | .frozen => 2 | .trapped => 3

def RunSt.ofCode (n : Nat) : RunSt := if n = 0 then .noConfig else if n = 1 then .running else if n = 2 then .frozen else .trapped

/-- TOKSV: no slot fires from the next fc, and the save follows when work begun has completed. -/
def execToksv (f : SeqF) (s : State) : Out :=
  regionIns f s fun id r s =>
    let b := s.curCtx.opB f
    if !canonical b then addrTrap s cXLATE b .write
    else if b.toNat % 64 ≠ 0 then addrTrap s cMISALIGN b .write
    else pollFor (s.updRegion s.cur.p id fun r => { r with st := .frozen }) 0x67 f r.st.code

/-- A waiting TOKSV whose region has settled. A write that faults leaves the region as it was. -/
def tryToksv (s : State) (p q : Nat) (f : SeqF) (stage : Nat) : Option State :=
  let id := regionId s p q f
  let r := s.region p id
  if settled s p r then
    let s := { s with cur := { s.cur with p := p, q := q } }
    let bs := saveBytes s p r
    match writeBytes s p ((s.ctx p q).opB f) bs with
    | (some (c, va), s) =>
      let s := s.updRegion p id fun r => { r with st := RunSt.ofCode stage }
      some (addrTrap s c va .write)
    | (none, s) =>
      some (finish (markSaved s p id) p q 1 (lines64 bs.length) fun c => c.wr f.d (BitVec.ofNat 64 bs.length))
  else none

/-- The task of a region that TOKRS restores, after a trap or a freeze, runs again with it. -/
def taskRuns (s : State) (p : Nat) (r : Region) : State :=
  match r.task with
  | some k =>
    let st := (s.task p k).st
    if st = .faulted ∨ st = .frozen then s.updTask p k fun t => { t with st := .running } else s
  | none => s

/-- TOKRS. -/
def execTokrs (f : SeqF) (s : State) : Out :=
  regionIns f s fun id r s =>
    let p := s.cur.p
    if !r.saved then refuseA s f 0x16
    else
      match restoreRegion s p id (s.curCtx.opB f) with
      | (.error (.addr c va), s) => addrTrap s c va .read
      | (.error .mismatch, s) => refuseA s f 0x1A
      | (.ok n, s) => finishCur (taskRuns s p r) 1 (lines64 n) fun c => c

/-! ## RGNS (R146, Table 8-7) -/

/-- STATE of Table 8-7. -/
def regionState (s : State) (p rid : Nat) : Nat :=
  let r := s.region p rid
  if r.act = none then 1
  else if r.st = .trapped then 5
  else if r.st = .frozen ∨ r.saved then 4
  else if r.tileList.all (haltedTile s p ·) then 6
  else if r.dec.isSome || cfgaDrains s p rid || (ownerWaits s p rid 0x61).isSome then 3
  else 2

/-- The status value. -/
def regionStatus (s : State) (p rid : Nat) : Nat :=
  let r := s.region p rid
  let loaded := (List.range 4).foldl (fun n i => n + (slotLoaded s p r i).toNat * 2 ^ i) 0
  regionState s p rid + ((r.act.getD 0).toNat) * 2 ^ 4 + loaded * 2 ^ 6 + r.saved.toNat * 2 ^ 10 +
    r.spl.isSome.toNat * 2 ^ 11 + ((r.spl.map (·.succ.toNat)).getD 0) * 2 ^ 12 + r.dec.isSome.toNat * 2 ^ 14 +
    ((r.dec.getD 0).toNat) * 2 ^ 15 + r.fold.toNat * 2 ^ 17 + r.task.isSome.toNat * 2 ^ 19 + r.row0 * 2 ^ 20 +
    r.col0 * 2 ^ 24 + (r.h - 1) * 2 ^ 28 + (r.w - 1) * 2 ^ 32 + r.owner * 2 ^ 36

/-- The value a selector names. -/
def rgnsValue (s : State) (p rid sel : Nat) : BitVec 64 :=
  let r := s.region p rid
  match sel with
  | 0 => BitVec.ofNat 64 (regionStatus s p rid)
  | 1 => (r.tileList.foldl (fun (v : BitVec 8) t => v ||| (s.tile p t).flags) 0).setWidth 64
  | 2 => BitVec.ofNat 64 r.drop
  | _ => BitVec.ofNat 64 (tokensHeld s p r)

/-- RGNS. -/
def execRgns (f : SeqF) (s : State) : Out :=
  regionIns f s fun id _ s =>
    finishCur s 1 0 fun c => c.wr f.d (rgnsValue s s.cur.p id (fld f.imm 0 2))

/-! ## The quiescence detector (R138) -/

/-- A region the detector finds quiescent. -/
def quiescent (s : State) (p rid : Nat) : Bool :=
  let r := s.region p rid
  r.alloc && r.st == .running && !r.saved && r.trap.isNone && r.recover.isNone && !r.paused && decide (4096 ≤ r.quiet) &&
    !(r.tileList.all (haltedTile s p ·))

/-- The first element in row-major order with HALT = 0 and a valid slot (R316). -/
def qncTile (s : State) (p : Nat) (r : Region) : Nat := (r.tileList.find? fun t => !haltedTile s p t).getD 0

/-- The readiness entries of a region (Table 16-4): for each element whose HALT bit is 0, the first condition that each
valid slot fails. -/
def readiness (s : State) (p : Nat) (r : Region) : List (BitVec 64) :=
  (r.tileList.filter fun t => !(s.tile p t).halt).map fun t =>
    let x := firOf s p t
    BitVec.ofNat 64 ((List.range 16).foldl (fun v i => v + (slotFail s x i).getD 0 * 2 ^ (8 + 3 * i))
      (tileRow t - r.row0 + (tileCol t - r.col0) * 16))

/-- QNC: the owner's QWAIT returns status 1, its CFGA traps, or the region does. -/
def execQnc (p : Fin 32) (r : Fin 16) (s : State) : Out :=
  if quiescent s p r then
    let reg := s.region p r
    let q := reg.owner
    let s := s.updRegion p r fun x => { x with quiet := 0 }
    match ownerWaits s p r 0x66 with
    | some (f, _) => .next (finish (s.unissue p q) p q 1 0 fun c => c.wr f.d 1)
    | none =>
      if cfgaDrains s p r then
        let s := s.unissue p q
        .next (precise { s with cur := { s.cur with p := p, q := q } } cQNC none none)
      else
        let ready := readiness s p reg
        let s := fabricTrap s p (qncTile s p reg) 0 0 false cQNC 0 0 0
        .next (s.updRegion p r fun x => { x with trap := x.trap.map fun t => { t with ready := ready } })
  else .next s

/-! ## Bids admitted (R129) -/

/-- The region of a context's bid: RGNA completes with id + 256 × row0 + 4,096 × col0. -/
def admitCtx (s : State) (p q : Nat) (b : Bid) (row0 col0 : Nat) : State :=
  match (s.pad p).freeId, pollOf s p q 0x60 with
  | some id, some (f, _) =>
    let s := newRegion s p id b row0 col0 none (s.ctx p q).launch.seed true
    let s := dispatchEvent s p 0 b.q id 0xFFF row0 col0 b.ord
    finish (s.unissue p q) p q 1 0 fun c => c.wr f.d (BitVec.ofNat 64 (id + 256 * row0 + 4096 * col0))
  | _, _ => s

/-- SEG0 ← the argument pointer and SEG1 to SEG3 ← 0 on each E tile of a task's region (R156). -/
def setSegs (s : State) (p : Nat) (r : Region) (arg : BitVec 48) : State :=
  (r.tileList.filter fun t => tileType t == .e).foldl
    (fun s t => s.updTile p t fun tl => { tl with et := { tl.et with seg := Tbl.put 0 [] 0 (arg.setWidth 64) } }) s

/-- The image a task's admission loads: MAIN, or CONTC (MAIN when 0) for a continuation, or what a journal move puts
in its place (R263, R273, Table 15-10). -/
def admitImage (t : Task) : BitVec 64 :=
  match t.moveTo with
  | some m => m.1
  | none => if t.st = .released then (if t.contc = 0 then t.main else t.contc) else t.main

/-- A task's region admitted: its image loaded into slot 0 and activated; a continuation is restored (R263, R273). The
activation of a continuation is none by LNCH, so its tiles keep the scales and zero points they held (R188, R273). -/
def admitTask (s : State) (p k : Nat) (b : Bid) (row0 col0 : Nat) : State :=
  match (s.pad p).freeId with
  | none => s
  | some id =>
    let t := s.task p k
    let cont := t.st == .released
    let s := newRegion s p id b row0 col0 (some k) t.seed (!cont)
    let s := s.updRegion p id fun r => { r with ufc := t.ufc, fold := (t.moveTo.map (·.2)).getD 0, fullH := t.h }
    let s := dispatchEvent s p 0 b.q id t.ttype.toNat row0 col0 b.ord
    match readImage s p row0 col0 b.h b.w none (admitImage t) with
    | (.error (.addr c va), s) => taskAdmitFault s p k id c va (taskHandle k t)
    | (.error (.word c va _), s) => taskAdmitFault s p k id c va (taskHandle k t)
    | (.ok img, s) =>
      let s := makeResident s p id 0 (admitImage t) img
      let s := activateRegion s p id 0 (!cont)
      let s := setSegs s p (s.region p id) t.arg
      let s := s.setTask p k { t with st := .running, rid := some id, row0 := row0, col0 := col0, stopAt := none }
      let s := s.updRegion p id fun r => { r with freezeAt := t.stopAt }
      let s := if t.fuse then fuse s p k true else s
      if cont then
        match restoreRegion s p id t.contpt with
        | (.ok _, s) =>
          let s := (s.region p id).tileList.foldl (fun s u => s.updTile p u (backTile · (k, t.ser))) s
          s.updTask p k fun t => { t with ypend := false, contq := true }
        | (.error _, s) => taskAdmitFault s p k id cACCESS (taskHandle k t) 0x1A
      else s

/-- BID_ADMIT: the arbiter admits bid n when that is its choice. -/
def execBidAdmit (p : Fin 32) (n : Nat) (s : State) : Out :=
  match pickBid s p with
  | (.none, _) => .next s
  | (.diverge m, s) => .next (if m = n then endBinding s p true else s)
  | (.grant m row0 col0, s) =>
    if m ≠ n then .next s
    else
      match (s.pad p).bids[n]? with
      | none => .next s
      | some b =>
        let s := takeBid s p n
        match b.kind with
        | .ctx q => .next (admitCtx s p q b row0 col0)
        | .task k => .next (admitTask s p k b row0 col0)
        | .unfold r =>
          let reg := s.region p r
          let s := dispatchEvent s p 2 b.q r (ttypeOf (s.pad p) reg.task) row0 col0 b.ord
          .next (unfoldRegion s p r)

/-! ## Token hops (R23, R37)

Sources of a hop: 0 the zero source, 1 the stile port, 4 to 19 the link inputs by buffer number. A message port's entry
takes its tokens as a message arrives (R254). -/

/-- The routes of a hop's source. An entry whose SOURCE is 12, sequencer injection (R36), never has a token to offer: no
chapter gives an instruction or event that injects one (log 89; DESIGN CHOICE). -/
def hopRoutes (c : Cfg) (src : Nat) : List Route :=
  if src = 0 then c.from 15
  else if src = 1 then c.from 14
  else if 4 ≤ src ∧ src < 20 then c.routes.filter fun r => r.src == (src - 4) % 8 && r.data == decide (12 ≤ src)
  else []

/-- A stile whose port stands at a tile and holds a token (R323). -/
def State.portAt (s : State) (p t : Nat) : Option (Nat × ChanStile) :=
  List.find? (fun e => e.2.rp == p && e.2.rt == t && !e.2.port.isEmpty) s.chStiles

/-- The token a source offers in this fc; one that arrived in this fc waits. -/
def hopToken (s : State) (p t : Nat) (c : Cfg) (src : Nat) : Option Tok :=
  if src = 0 then some { gen := hdrGen c.hdr }
  else if src = 1 then
    match s.portAt p t with
    | none => none
    | some (_, z) => z.port.head?.map fun k => { k with gen := hdrGen c.hdr }
  else
    match (s.tile p t).rawHead src with
    | none => none
    | some k => if k.arr < s.fc p then some k else none

/-- The region runs, the source offers a token and every destination has space. -/
def hopDue (s : State) (p t src : Nat) : Bool :=
  let x := s.pad p
  match x.regionAt t with
  | none => false
  | some (_, r) =>
    regionRuns s p r &&
    (let c := (x.cfgAt t).getD []
     let rs := hopRoutes c src
     !rs.isEmpty && (hopToken s p t c src).isSome && rs.all (routeSpace s p t ·))

/-- The offered token taken from its source. -/
def takeHop (s : State) (p t src : Nat) : State :=
  if src = 0 then s
  else if src = 1 then
    match s.portAt p t with
    | none => s
    | some (i, z) => { s with chStiles := Tbl.set s.chStiles i { z with port := z.port.drop 1 } }
  else s.updBuf p t src fun b => { b with toks := b.toks.drop 1 }

/-- TOKEN_HOP: the token leaves for every destination of its fan-out. -/
def execTokenHop (p : Fin 32) (t : Fin 144) (src : Fin 20) (s : State) : Out :=
  let x := s.pad p
  match x.regionAt t with
  | none => .next s
  | some (id, _) =>
    let c := (x.cfgAt t).getD []
    match hopToken s p t c src with
    | none => .next s
    | some k =>
      if hopDue s p t src then
        let s := takeHop s p t src
        let s := (hopRoutes c src).foldl
          (fun s r => match routeDest t r with
            | none => s
            | some (u, b) => s.updBuf p u b fun d => d.push false { asPlane r.data false k with arr := s.fc p }) s
        let s := if src.val = 1 then commitEpoch s p id else s
        .next (markBusy s p id)
      else .next s

end Sys2Proof.Machine
end

