-- ==== Sys2Proof/Machine/Stream.lean ====
section
/-! DEFINITION. The stream and steering class (R109 to R124): 0x40 to 0x53. Where the spec leaves res undefined, PU's zero
test takes a free choice (log 16). -/

namespace Sys2Proof.Machine

open Host (Outcome)

/-! ## Shared parts -/

/-- The zero test of an undefined result: a free choice when PU asks for it. -/
def freeNz (f : FabF) (s : State) : Bool × State := if f.pu = 1 ∨ f.pu = 2 then freeChoice s else (false, s)

/-- A source as DST takes it: its 32 low bits, and the 512 bits of a data-plane head (R101). -/
def srcVals (x : Fir) (c : BitVec 4) (k : Bool) (v : BitVec 32) : BitVec 32 × Option (BitVec 512) :=
  match x.chan? c k with
  | some h => (v, if h.dat then some h.val else none)
  | none => (v, none)

/-- EOS of a source; 0 when it is no channel. -/
def srcEos (x : Fir) (c : BitVec 4) (k : Bool) : Bool := ((x.chan? c k).map (·.eos)).getD false

/-- An effect applied. -/
def streamDone (f : FabF) (e : Effect) (s : State) : Out := .next (applyEffect f e s)

/-- The effect of a source as result, with tokens and a flag. PU nz and z test the low 32 bits, of a data-plane head too, all
of whose bits are the result for a v DST (log 60; DESIGN CHOICE). -/
def srcEffect (x : Fir) (c : BitVec 4) (k : Bool) (v : BitVec 32) (sends : List (Nat × Tok)) (fl : Bool) : Effect :=
  let (r, w) := srcVals x c k v
  { res := some r, vres := w, sends := sends, nonzero := r != 0, flag := fl }

/-- The effect of a firing with no result. -/
def noRes (f : FabF) (s : State) (sends : List (Nat × Tok)) (fl deq : Bool) : Out :=
  let (n, s) := freeNz f s
  streamDone f { sends := sends, nonzero := n, flag := fl, deqok := deq, formed := !sends.isEmpty } s

/-- The k-th output of OM (R110). -/
def outAt (f : FabF) (k : Nat) (t : Tok) : List (Nat × Tok) := [(nthOut f.om k, t)]

/-- The state of the acting tile changed. -/
def updActing (x : Fir) (s : State) (g : Tile → Tile) : State := s.updTile x.p x.t g

/-! ## Passing, steering and marking (Table 7-3) -/

/-- STEER. -/
def execSteer (f : FabF) (s : State) : Out :=
  let x := s.fir
  let (a, b) := (x.opA f, x.opB f)
  let c := b != 0
  let k := x.pass f f.sa false a
  let d := if popc4 f.om = 3 then outAt f 2 (x.dec f ((BitVec.ofBool c).setWidth 32) (srcEos x f.sa false)) else []
  streamDone f (srcEffect x f.sa false a (outAt f (if c then 0 else 1) k ++ d) c) s

/-- STEERD. -/
def execSteerd (f : FabF) (s : State) : Out :=
  let x := s.fir
  let (a, b) := (x.opA f, x.opB f)
  let c := b.getLsbD 0
  streamDone f (srcEffect x f.sa false a (outAt f (if c then 0 else 1) (x.pass f f.sa false a)) c) s

/-- The effect of passing b to all outputs. -/
def passAll (f : FabF) (x : Fir) (fl : Bool) (upd : Tok → Tok) : Effect :=
  let b := x.opB f
  srcEffect x f.sb f.k b (toAll f.om (upd (x.pass f f.sb f.k b))) fl

/-- MRGO. -/
def execMrgo (f : FabF) (s : State) : Out :=
  let x := s.fir
  streamDone f (passAll f x ((x.tl.head f.tc.toNat).val.getLsbD 0) fun k => k) s

/-- MRGA. -/
def execMrga (f : FabF) (s : State) : Out :=
  let x := s.fir
  streamDone f (passAll f x false fun k => k) s

/-- GATE. -/
def execGate (f : FabF) (s : State) : Out :=
  let x := s.fir
  let (a, b) := (x.opA f, x.opB f)
  if b ≠ 0 then streamDone f (srcEffect x f.sa false a (toAll f.om (x.pass f f.sa false a)) true) s
  else noRes f s [] false true

/-- DROP. -/
def execDrop (f : FabF) (s : State) : Out :=
  let x := s.fir
  noRes f s [] (srcEos x f.sb f.k) true

/-- EOSG: an end-of-stream token with zero payload, of TAG FMTA on the data plane. -/
def execEosg (f : FabF) (s : State) : Out :=
  let x := s.fir
  let tok := fun n =>
    if x.cfg.outPlane n = some true then { x.vecTok f (hdrFmta x.cfg.hdr) 0 with eos := true }
    else { x.fresh f 0 with eos := true }
  noRes f s ((outsOf f.om).map fun n => (n, tok n)) true true

/-- EOSD. -/
def execEosd (f : FabF) (s : State) : Out :=
  let x := s.fir
  streamDone f (passAll f x (srcEos x f.sb f.k) fun k => { k with eos := false }) s

/-- FMTS. -/
def execFmts (f : FabF) (s : State) : Out :=
  let x := s.fir
  let h := x.tl.head f.sb.toNat
  let m := h.dat && Tag.ofBits h.tag == hdrFmta x.cfg.hdr
  streamDone f (srcEffect x f.sb f.k (x.opB f) (outAt f (if m then 0 else 1) (x.passTok h)) m) s

/-- PROGM: b with PRG set, as a data-plane token. -/
def execProgm (f : FabF) (s : State) : Out :=
  let x := s.fir
  streamDone f (passAll f x false fun k => { k with prg := true }) s

/-- PLOG: p7..p0 AND b[7:0]. -/
def execPlog (f : FabF) (s : State) : Out :=
  let x := s.fir
  let r := (x.tl.preds &&& (x.opB f).setWidth 8).setWidth 32
  streamDone f (resEffect f x r (r != 0)) s

/-- SKIPA: the raw head's count, which becomes 0 (R65, R113). -/
def execSkipa (f : FabF) (s : State) : Out :=
  let x := s.fir
  let n := f.sb.toNat
  let r := ((x.tl.rawHead n).map fun k => k.skip.setWidth 32).getD 0
  let s := updActing x s fun tl =>
    let b := tl.buf n
    match b.toks with
    | [] => tl
    | k :: ks => tl.setBuf n { b with toks := { k with skip := 0 } :: ks }
  streamDone f (resEffect f x r (r != 0)) s

/-- HALTE. -/
def execHalte (f : FabF) (s : State) : Out :=
  let x := s.fir
  noRes f (updActing x s fun tl => { tl with halt := true }) [] false true

/-! ## Counting and generating (R115) -/

def Fir.rc (x : Fir) : BitVec 32 := Tbl.get 0 x.tl.rc x.slot

/-- RC of the acting slot set. -/
def setRc (x : Fir) (s : State) (v : BitVec 32) : State :=
  updActing x s fun tl => { tl with rc := Tbl.put 0 tl.rc x.slot v }

/-- ITER. -/
def execIter (f : FabF) (s : State) : Out :=
  let x := s.fir
  let (a, b) := (x.opA f, x.opB f)
  if x.rc.ult b then
    let r := a + x.rc
    let k := { x.fresh f r with iter := x.rc.setWidth 4 }
    streamDone f { res := some r, sends := toAll f.om k, nonzero := r != 0, flag := false, deqok := false }
      (setRc x s (x.rc + 1))
  else
    let k := { x.fresh f b with eos := true, iter := b.setWidth 4 }
    streamDone f { res := some b, sends := toAll f.om k, nonzero := b != 0, flag := true } (setRc x s 0)

/-- REPL. -/
def execRepl (f : FabF) (s : State) : Out :=
  let x := s.fir
  let a := x.opA f
  if a = 0 then noRes f s [] true true
  else
    let last := x.rc + 1 == a
    let e := { passAll f x last (fun k => k) with deqok := last }
    streamDone f e (setRc x s (if last then 0 else x.rc + 1))

/-- CNTE. -/
def execCnte (f : FabF) (s : State) : Out :=
  let x := s.fir
  if srcEos x f.sb f.k then
    let k := { x.fresh f x.rc with eos := true }
    streamDone f { res := some x.rc, sends := toAll f.om k, nonzero := x.rc != 0, flag := true } (setRc x s 0)
  else noRes f (setRc x s (x.rc + 1)) [] false true

/-! ## Loop exit and squash (R118, R119) -/

/-- LEXIT. -/
def execLexit (f : FabF) (s : State) : Out :=
  let x := s.fir
  let (a, b) := (x.opA f, x.opB f)
  noRes f s (if b ≠ 0 then toAll f.om (x.dec f a false) else []) (b != 0) true

/-- SQSH. -/
def execSqsh (f : FabF) (s : State) : Out :=
  let x := s.fir
  let t := x.tl.head f.sb.toNat
  if !t.dat && t.kind == 2 then
    noRes f (updActing x s fun tl => { tl with x := t.val.setWidth 32, arm := true }) [] true true
  else if t.eos then
    streamDone f (passAll f x false fun k => k)
      (updActing x s fun tl => { tl with arm := false, l := 15, a := -1 })
  else
    let a := x.tl.a + (t.iter - x.tl.l).setWidth 33
    let s := updActing x s fun tl => { tl with a := a, l := t.iter }
    if x.tl.arm && decide (x.tl.x.toInt < a.toInt) then noRes f s [] true true
    else streamDone f (passAll f x false fun k => k) s

/-! ## In-flight counting and decisions (R121, R122) -/

/-- INFL. -/
def execInfl (f : FabF) (s : State) : Out :=
  let x := s.fir
  let r := x.tl.lc (f.dst.toNat % 8) + x.opA f - x.opB f
  let z := r == 0
  streamDone f { res := some r, sends := if z then toAll f.om (x.dec f 1 false) else [], nonzero := !z, flag := z } s

/-- DECI: a decision to its outputs, or the region's decision broadcast. Of two broadcasts that elements of one region
offer in one fc the later firing's, in row-major order, becomes the one pending (log 92; DESIGN CHOICE). -/
def execDeci (f : FabF) (s : State) : Out :=
  let x := s.fir
  let b := x.opB f
  if f.om ≠ 0 then noRes f s (toAll f.om (x.dec f b false)) (b.getLsbD 0) true
  else if !slotLoaded s x.p x.reg (fld b 0 2) then .next (elementTrap s 0x4E f)
  else
    noRes f (s.updRegion x.p x.rid fun r => { r with dec := some (b.setWidth 2), committed := true }) []
      (b.getLsbD 0) true

end Sys2Proof.Machine
end

