-- ==== Sys2Proof/Machine/MemNode.lean ====
section
/-! DEFINITION. The memory node class (R149 to R178): 0x60 to 0x7B, the performance and completion of requests, parked
requests and the rows of gathers. A request is performed and completed in one step, once its time has come (log 8). -/

namespace Sys2Proof.Machine

open Host (Outcome)

/-! ## Firing (R165) -/

/-- The request of a slot that fires. -/
def newReq (opc : BitVec 8) (f : FabF) (x : Fir) (fc due : Nat) (va : BitVec 64) : Req :=
  let h := x.tl.head f.sa.toNat
  let vec := opc = 0x63 ∨ opc = 0x73 ∨ opc = 0x77
  { id := x.tl.nextReq, slot := x.slot, word := fabPack opc f, fired := fc, due := due, iter := x.iter f,
    a := if vec then h.val else (x.opA f).setWidth 512, aside := if vec then h.side else 0,
    b := x.opB f, c := x.tl.lc (f.dst.toNat % 8), va := va }

/-- Marks of a deferred slot: PU applied at once or its predicate pending, DST pending (R165). -/
def deferMarks (f : FabF) (writes : Bool) (tl : Tile) : Tile :=
  let late := puLate f.pu
  { tl with
    preds := if late then tl.preds else puApply tl.preds f.pu f.pd false false
    pendP := if late then setBit tl.pendP f.pd.toNat true else tl.pendP
    pendL := if writes && decide (f.dst.toNat < 8) then setBit tl.pendL f.dst.toNat true else tl.pendL }

/-- A slot that issues a request: places reserved for its first token, entries for n tokens, dequeues, the charge. -/
def deferFire (f : FabF) (writes : Bool) (n ib tb : Nat) (r : Req) (s : State) : State :=
  let x := s.fir
  let tl := fireMarks f x true (deferMarks f writes x.tl)
  let ents := if f.om = 0 then [] else
    { id := r.id, om := f.om, held := f.om, tok := none } ::
      List.replicate (n - 1) { id := r.id, om := f.om, held := (0 : BitVec 4), tok := (none : Option Tok), paced := true }
  let tl := { tl with
    reqs := tl.reqs ++ [r], nextReq := tl.nextReq + 1, outq := tl.outq ++ ents
    et := if tileType x.t == .e then { tl.et with issued := tl.et.issued + 1 } else tl.et }
  let s := s.setTile x.p x.t tl
  let s := (outsOf f.om).foldl (fun s o => reserveOut s x.p x.t x.cfg o) s
  let (k, s) := deqMask s x.p x.t f.dq
  let s := s.updPad x.p fun y => { y with prg := y.prg + k }
  markBusy (chargeRegion s x.p x.rid ib tb) x.p x.rid

/-! ## Scratchpad nodes -/

/-- A valid GATH stands in the active configuration of the row's E tile, and reserves the reorder area (R173). -/
def reorderReserved (s : State) (p row : Nat) : Bool :=
  match (s.pad p).cfgAt (tileAt row 0) with
  | none => false
  | some c => gathBefore c 16

/-- The checks of R164 on words i to i + n − 1. -/
def spadBad (s : State) (x : Fir) (i : BitVec 32) (n : Nat) : Bool :=
  decide (65535 < i.toNat + n - 1) || (reorderReserved s x.p (tileRow x.t) && decide (57344 ≤ i.toNat + n - 1))

/-- A scratchpad node fires: its request asks for its bank after a free delay, in the next fc at the earliest (R149, R187;
log 8). -/
def spadFire (opc : BitVec 8) (f : FabF) (writes : Bool) (n : Nat) (s : State) : Out :=
  let x := s.fir
  let i := x.opB f
  if spadBad s x i n then .next (trapBefore s opc f cACCESS 0 (i.setWidth 64))
  else
    let (d, s) := freeDelay s 1
    .next (deferFire f writes 1 1 0 (newReq opc f x (s.fc x.p) (s.fc x.p + d) 0) s)

/-- The bits SFE sets: those of words i to min(i + a[7:0], 65,535) (Table 9-8). -/
def sfeWords (i a : Nat) : Nat := min (i + a % 256) 65535 + 1 - i

/-- The number of words of a vector access: 17 with SIDE. -/
def vecWords (f : FabF) : Nat := if f.pd.getLsbD 0 then 17 else 16

/-- SLD. -/
def execSld (f : FabF) (s : State) : Out := spadFire 0x60 f true 1 s
/-- SLDV. -/
def execSldv (f : FabF) (s : State) : Out := spadFire 0x61 f false (vecWords f) s
/-- SST. -/
def execSst (f : FabF) (s : State) : Out := spadFire 0x62 f false 1 s
/-- SSTV. -/
def execSstv (f : FabF) (s : State) : Out := spadFire 0x63 f false (vecWords f) s
/-- SLDF. -/
def execSldf (f : FabF) (s : State) : Out := spadFire 0x64 f true 1 s
/-- SLDE. -/
def execSlde (f : FabF) (s : State) : Out := spadFire 0x65 f true 1 s
/-- SSTF. -/
def execSstf (f : FabF) (s : State) : Out := spadFire 0x66 f false 1 s
/-- SSTW. -/
def execSstw (f : FabF) (s : State) : Out := spadFire 0x67 f false 1 s
/-- SFE. -/
def execSfe (f : FabF) (s : State) : Out :=
  spadFire 0x68 f false (max 1 (sfeWords (s.fir.opB f).toNat (s.fir.opA f).toNat)) s
/-- SAADD. -/
def execSaadd (f : FabF) (s : State) : Out := spadFire 0x69 f true 1 s
/-- SAMIN. -/
def execSamin (f : FabF) (s : State) : Out := spadFire 0x6A f true 1 s
/-- SAMAX. -/
def execSamax (f : FabF) (s : State) : Out := spadFire 0x6B f true 1 s
/-- SAOR. -/
def execSaor (f : FabF) (s : State) : Out := spadFire 0x6C f true 1 s
/-- SAAND. -/
def execSaand (f : FabF) (s : State) : Out := spadFire 0x6D f true 1 s
/-- SACAS. -/
def execSacas (f : FabF) (s : State) : Out := spadFire 0x6E f true 1 s
/-- STAS. -/
def execStas (f : FabF) (s : State) : Out := spadFire 0x6F f true 1 s

/-! ## Global nodes -/

/-- SegAddr(x) (R156). -/
def segAddr (tl : Tile) (v : BitVec 32) : BitVec 64 :=
  Tbl.get 0 tl.et.seg (fld v 30 2) + BitVec.ofNat 64 (fld v 0 30)

/-- The checks of R164 on a global address: canonical form of SegAddr and of the address, then alignment. -/
def globBad (base va : BitVec 64) (align : Nat) : Option (BitVec 8) :=
  if !canonical base || !canonical va then some cXLATE else if va.toNat % align ≠ 0 then some cMISALIGN else none

/-- A global node fires; when its request is performed is a free delay. -/
def globFire (opc : BitVec 8) (f : FabF) (writes : Bool) (n : Nat) (base va : BitVec 64) (align : Nat) (s : State) : Out :=
  let x := s.fir
  match globBad base va align with
  | some c => .next (trapBefore s opc f c 0 va)
  | none =>
    let (d, s) := freeDelay s 1
    .next (deferFire f writes n 2 0 (newReq opc f x (s.fc x.p) (s.fc x.p + d) va) s)

/-- A global node at SegAddr(b). -/
def segFire (opc : BitVec 8) (f : FabF) (writes : Bool) (s : State) : Out :=
  let x := s.fir
  let va := segAddr x.tl (x.opB f)
  globFire opc f writes 1 va va 4 s

/-- GLD. -/
def execGld (f : FabF) (s : State) : Out := segFire 0x70 f true s
/-- GLDV. -/
def execGldv (f : FabF) (s : State) : Out := segFire 0x71 f false s
/-- GST. -/
def execGst (f : FabF) (s : State) : Out := segFire 0x72 f false s
/-- GSTV. -/
def execGstv (f : FabF) (s : State) : Out := segFire 0x73 f false s
/-- GAADD. -/
def execGaadd (f : FabF) (s : State) : Out := segFire 0x74 f true s
/-- GACAS. -/
def execGacas (f : FabF) (s : State) : Out := segFire 0x75 f true s

/-- GATH: one row of 2^PD tokens at SegAddr(b) + a × 64 × 2^PD. -/
def execGath (f : FabF) (s : State) : Out :=
  let x := s.fir
  let base := segAddr x.tl (x.opB f)
  let n := 2 ^ f.pd.toNat
  let va := base + BitVec.ofNat 64 ((x.opA f).toNat * 64 * n)
  let fires := (globBad base va 64).isNone
  globFire 0x76 f false n base va 64
    (if fires then updActing x s fun tl => { tl with et := { tl.et with gseq := tl.et.gseq + 1 } } else s)

/-- SCAT: 64 bytes to SegAddr(c) + b × 64. -/
def execScat (f : FabF) (s : State) : Out :=
  let x := s.fir
  let base := segAddr x.tl (x.tl.lc (f.dst.toNat % 8))
  let va := base + BitVec.ofNat 64 ((x.opB f).toNat * 64)
  globFire 0x77 f false 1 base va 64 s

/-- PREF: no check; it completes after a free delay (R175). -/
def execFabPref (f : FabF) (s : State) : Out :=
  let x := s.fir
  let (d, s) := freeDelay s 1
  .next (deferFire f false 1 2 0 (newReq 0x7A f x (s.fc x.p) (s.fc x.p + d) (segAddr x.tl (x.opB f))) s)

/-- OJOIN: the ordering tokens joined leave in the firing fc (R176). A predicate update by the flag takes it as 0, since no
rule gives OJOIN a flag (log 103; DESIGN CHOICE). -/
def execOjoin (f : FabF) (s : State) : Out :=
  let x := s.fir
  let (n, s) := freeNz f s
  .next (applyEffect f { sends := toAll f.om (x.ordTok f), nonzero := n } s)

/-- FENCE: waits for the element's earlier requests (R177). -/
def execFabFence (f : FabF) (s : State) : Out :=
  let x := s.fir
  let (d, s) := freeDelay s 1
  let lo := if f.pd = 5 ∧ x.tl.et.hostWrite.isSome then d else 1
  .next (deferFire f false 1 1 0 (newReq 0x79 f x (s.fc x.p) (s.fc x.p + lo) 0) s)

/-- AGS: SEG[PD] ← Wrap64(a + 2^32 × b), in force at once (R175). -/
def execAgs (f : FabF) (s : State) : Out :=
  let x := s.fir
  let v := BitVec.ofNat 64 ((x.opA f).toNat + 2 ^ 32 * (x.opB f).toNat)
  let s := updActing x s fun tl => { tl with et := { tl.et with seg := Tbl.put 0 tl.et.seg f.pd.toNat v } }
  .next (applyEffect f { sends := toAll f.om (x.ordTok f) } s)

/-! ## Completion (R165) -/

/-- A request leaves its tile. -/
def dropReq (tl : Tile) (r : Req) (keep : Bool) : Tile :=
  { tl with
    reqs := if keep then tl.reqs.map fun q => if q.id = r.id then { q with st := .performed } else q
      else tl.reqs.filter (·.id != r.id) }

/-- A request completes: DST, the tokens, late updates of the predicate, the charge of the lines moved. -/
def memFinish (s : State) (p t : Nat) (r : Req) (writes : Bool) (res : Option (BitVec 32)) (flag : Bool) (tb : Nat)
    (toks : List Tok) : State :=
  let f := fabFields r.word
  let x := firOf s p t
  let late := puLate f.pu
  let (nzr, s) := match res with
    | some v => (v != 0, s)
    | none => freeNz f s
  let tl := s.tile p t
  let tl := dropReq tl r (decide (1 < toks.length) || fabOpc r.word == 0x76)
  let d := f.dst.toNat
  let tl := { tl with
    loc := match res with
      | some v => if writes && decide (d < 8) then Tbl.put 0 tl.loc d v else tl.loc
      | none => tl.loc
    pendL := if writes && decide (d < 8) then setBit tl.pendL d false else tl.pendL
    preds := if late then puApply tl.preds f.pu f.pd nzr flag else tl.preds
    pendP := if late then setBit tl.pendP f.pd.toNat false else tl.pendP
    et := if tileType t == .e then { tl.et with done := tl.et.done + 1 } else tl.et }
  let s := s.setTile p t tl
  let s := giveToks s p t r.id (toks.map fun k => { k with gen := x.gen, iter := r.iter })
  markBusy (chargeRegion s p x.rid 0 tb) p x.rid

/-- Tok(). -/
def tokOrd : Tok := { kind := 1 }

/-- A value result: DST and one token. -/
def finishVal (s : State) (p t : Nat) (r : Req) (v : BitVec 32) (flag : Bool) (tb : Nat) : State :=
  memFinish s p t r true (some v) flag tb [{ val := v.setWidth 512 }]

/-- A store or fence: an ordering token. -/
def finishTok (s : State) (p t : Nat) (r : Req) (flag : Bool) (tb : Nat) : State :=
  memFinish s p t r false none flag tb [tokOrd]

/-- Vector results: tokens of TAG FMTA. -/
def vecToks (s : State) (p t : Nat) (vs : List (BitVec 512 × BitVec 32)) : List Tok :=
  let tag := (hdrFmta (firOf s p t).cfg.hdr).bits
  vs.map fun v => { dat := true, val := v.1, side := v.2, tag := tag }

def State.updReq (s : State) (p t id : Nat) (g : Req → Req) : State :=
  s.updTile p t fun tl => { tl with reqs := tl.reqs.map fun r => if r.id = id then g r else r }

/-- The region of a tile takes an uncorrectable error in data a request reads; the request stands until it runs again
(R319). -/
def reqEcc (s : State) (p t : Nat) (r : Req) (info : BitVec 64) : State :=
  let s := s.updReq p t r.id fun r => { r with st := .parkedFault cECC_UE }
  fabricTrap s p t r.slot r.word false cECC_UE 0 info 0

/-- A commitment of the epoch of a tile's region (R318). -/
def commitTile (s : State) (p t : Nat) : State := commitEpoch s p (firOf s p t).rid

/-! ## Replay entries (R318, R319) -/

/-- What the replay entries answer for a load. -/
inductive Replay where
  | none
  | hit (v : BitVec 512) (side : BitVec 32)
  | differs
deriving DecidableEq, Repr

/-- The E tile of a tile's row keeps the entries. -/
def replayTile (t : Nat) : Nat := tileAt (tileRow t) 0

/-- A load of a slot served again from its next entry, in order. -/
def replayTake (s : State) (p t : Nat) (r : Req) (addr : BitVec 64) : Replay × State :=
  let e := replayTile t
  let l := (s.tile p e).et.served
  match l.findIdx? fun k => k.tile == t && k.slot == r.slot with
  | Option.none => (.none, s)
  | some i =>
    match l[i]? with
    | Option.none => (.none, s)
    | some k =>
      if k.addr = addr then
        (.hit k.val k.side, s.updTile p e fun tl => { tl with et := { tl.et with served := l.eraseIdx i } })
      else (.differs, s)

/-- A value returned to a load takes an entry; the 512th commits the epoch. -/
def replayNote (s : State) (p t : Nat) (r : Req) (addr : BitVec 64) (v : BitVec 512) (side : BitVec 32) : State :=
  let e := replayTile t
  let l := (s.tile p e).et.replay
  let x := firOf s p t
  if x.reg.committed then s
  else
    let s := s.updTile p e fun tl =>
      { tl with et := { tl.et with replay := l ++ [{ tile := t, slot := r.slot, addr := addr, val := v, side := side }] } }
    if 512 ≤ l.length + 1 then commitTile s p t else s

/-! ## Scratchpad words -/

def State.spad (s : State) (p t : Nat) : Spad := (s.tile p t).sp
def State.updSpad (s : State) (p t : Nat) (g : Spad → Spad) : State := s.updTile p t fun tl => { tl with sp := g tl.sp }

def Spad.word (sp : Spad) (n : Nat) : BitVec 32 := Tbl.get 0 sp.words n
def Spad.isFull (sp : Spad) (n : Nat) : Bool := Tbl.get false sp.full n
def Spad.setWord (sp : Spad) (n : Nat) (v : BitVec 32) : Spad :=
  { sp with words := Tbl.put 0 sp.words n v, bad := sp.bad.filter (· != n), soft := sp.soft.filter (· != n) }
def Spad.setFull (sp : Spad) (n : Nat) (b : Bool) : Spad := { sp with full := Tbl.put false sp.full n b }

/-- A correctable error of a word met by a read: repaired and counted (R160). -/
def fixWord (s : State) (p t n : Nat) : State :=
  if (s.spad p t).soft.contains n then
    (s.updSpad p t fun sp => { sp with soft := sp.soft.filter (· != n) }).updPad p fun x =>
      { x with cecnt := if x.cecnt = 0xFFFF then x.cecnt else x.cecnt + 1 }
  else s

/-- Banks that are taken in fc `fc`. -/
def Spad.usedIn (sp : Spad) (fc : Nat) : BitVec 8 := if sp.usedFc = fc then sp.used else 0

/-- Banks that an engine left to the element in fc `fc`. -/
def Spad.keptIn (sp : Spad) (fc : Nat) : BitVec 8 := if sp.usedFc = fc then sp.kept else 0

/-- The bank of word n performs its access of fc `fc`. -/
def Spad.take (sp : Spad) (fc n : Nat) : Spad :=
  { sp with used := setBit (sp.usedIn fc) (n % 8) true, kept := sp.keptIn fc, usedFc := fc }

/-- The element's access to the bank of word n in this fc: one access per bank (R154). Engines come first in an fc and
leave the bank to the element where it wins the conflict (`engTake`). -/
def bankTake (s : State) (p t n : Nat) : Bool × State :=
  let fc := s.fc p
  if bitAt ((s.spad p t).usedIn fc) (n % 8) then (false, s) else (true, s.updSpad p t (·.take fc n))

/-! ## The order of requests to one word (`nod`, R166) -/

/-- The words of the scratchpad a request accesses: the first, and their number. -/
def spadWords (r : Req) : Nat × Nat :=
  let opc := (fabOpc r.word).toNat
  let f := fabFields r.word
  (r.b.toNat,
    if opc = 0x61 ∨ opc = 0x63 then vecWords f
    else if opc = 0x68 then sfeWords r.b.toNat r.a.toNat else 1)

/-- Two ranges overlap. -/
def overlap (a n b m : Nat) : Bool := decide (a < b + m) && decide (b < a + n)

/-- An opcode of the scratchpad nodes. -/
def isSpadOpc (opc : Nat) : Bool := decide (0x60 ≤ opc) && decide (opc ≤ 0x6F)

/-- The earlier requests of the element to a word of this one that have not reached their bank; a parked one has (R170). -/
def spadBefore (tl : Tile) (r : Req) : List Req :=
  let w := spadWords r
  tl.reqs.filter fun q =>
    decide (q.id < r.id) && isSpadOpc (fabOpc q.word).toNat && q.st != .performed && q.st != .parkedFE &&
      overlap (spadWords q).1 (spadWords q).2 w.1 w.2

def spadBlocked (tl : Tile) (r : Req) : Bool := !(spadBefore tl r).isEmpty

/-- The element asks for a bank in fc `fc`: a request whose time has come and that nothing blocks has a word there among
the next eight it accesses. -/
def wantsBank (tl : Tile) (fc b : Nat) : Bool :=
  tl.reqs.any fun r =>
    isSpadOpc (fabOpc r.word).toNat && r.st == .going && decide (r.due ≤ fc) && !spadBlocked tl r &&
      (List.range (min 8 ((spadWords r).2 - r.prog))).any fun i => (r.b.toNat + r.prog + i) % 8 == b

/-- An engine's access to the bank of word n in this fc. Where the element asks for the bank too, the one that lost the
last such conflict wins (R154). -/
def engTake (s : State) (p t n : Nat) : Bool × State :=
  let b := n % 8
  let fc := s.fc p
  let sp := s.spad p t
  if bitAt (sp.usedIn fc) b || bitAt (sp.keptIn fc) b then (false, s)
  else if !wantsBank (s.tile p t) fc b then (true, s.updSpad p t (·.take fc n))
  else if bitAt sp.lost b then (true, s.updSpad p t fun sp => { sp.take fc n with lost := setBit sp.lost b false })
  else
    (false, s.updSpad p t fun sp =>
      { sp with used := sp.usedIn fc, kept := setBit (sp.keptIn fc) b true, usedFc := fc, lost := setBit sp.lost b true })

/-! ## Full/empty service (R170) -/

/-- The request of an id. -/
def Tile.req (tl : Tile) (id : Nat) : Option Req := tl.reqs.find? (·.id == id)

/-- The region of a tile is frozen, trapped or paused: its parked requests stay until it runs again (R170, R314). -/
def parkHeld (s : State) (p t : Nat) : Bool :=
  match (s.pad p).regionAt t with
  | none => false
  | some (_, r) => r.st == .frozen || r.st == .trapped || r.paused || r.freezeAt.any fun n => decide (n ≤ s.fc p)

/-- The queue of a word whose condition the bit meets (R170). -/
def Spad.metQ (sp : Spad) (w : Nat) : List Nat := if sp.isFull w then Tbl.get [] sp.loadQ w else Tbl.get [] sp.storeQ w

/-- A word read at its bank: an uncorrectable error is the region's, a correctable one is repaired, and the value takes a
replay entry (R160, R318, R319). -/
def bankRead (s : State) (p t : Nat) (r : Req) (w : Nat) (k : State → BitVec 32 → State) : State :=
  let addr := BitVec.ofNat 64 w
  if (s.spad p t).bad.contains w then reqEcc s p t r addr
  else
    let s := fixWord s p t w
    let v := (s.spad p t).word w
    k (replayNote s p t r addr (v.setWidth 512) 0) v

/-- SLDF or SLDE reads a full word; SLDE empties it, which commits the epoch (Table 9-8, R318). -/
def fullRead (s : State) (p t : Nat) (r : Req) (w : Nat) : State :=
  bankRead s p t r w fun s v =>
    finishVal (if fabOpc r.word = 0x65 then commitTile (s.updSpad p t (·.setFull w false)) p t else s) p t r v true 0

/-- One parked request of a word that the bit lets go: performed, completed and taken from its queue. -/
def serveOne (s : State) (p t w : Nat) : Option State :=
  let tl := s.tile p t
  let sp := tl.sp
  if parkHeld s p t then none
  else if sp.isFull w then
    match Tbl.get [] sp.loadQ w with
    | [] => none
    | id :: rest =>
      let s := s.updSpad p t fun sp => { sp with loadQ := Tbl.put [] sp.loadQ w rest }
      match tl.req id with
      | none => some s
      | some r => some (fullRead s p t r w)
  else
    match Tbl.get [] sp.storeQ w with
    | [] => none
    | id :: rest =>
      let s := s.updSpad p t fun sp => { sp with storeQ := Tbl.put [] sp.storeQ w rest }
      match tl.req id with
      | none => some s
      | some r =>
        let s := s.updSpad p t fun sp => (sp.setWord w (r.a.setWidth 32)).setFull w true
        some (finishTok (commitTile s p t) p t r true 0)

/-- Service of a word's queues until neither head's condition holds; the fuel bounds the requests parked. -/
def serveWord (s : State) (p t w : Nat) : Nat → State
  | 0 => s
  | n + 1 =>
    match serveOne s p t w with
    | none => s
    | some s => serveWord s p t w n

/-- A tile holds at most this many requests. -/
def serve (s : State) (p t w : Nat) : State := serveWord s p t w 64

/-- A request parks at the tail of a queue. -/
def parkReq (s : State) (p t w : Nat) (r : Req) (load : Bool) : State :=
  let s := s.updReq p t r.id fun r => { r with st := .parkedFE }
  s.updSpad p t fun sp =>
    if load then { sp with loadQ := Tbl.put [] sp.loadQ w (Tbl.get [] sp.loadQ w ++ [r.id]) }
    else { sp with storeQ := Tbl.put [] sp.storeQ w (Tbl.get [] sp.storeQ w ++ [r.id]) }

/-! ## Scratchpad requests performed (R169 to R171) -/

/-- A scratchpad atomic: the new value and its flag (Table 9-10). -/
def spadAtomic (opc : Nat) (old a c : BitVec 32) : BitVec 32 × Bool :=
  let f := fun (v : BitVec 32) => (v, v != old)
  match opc with
  | 0x69 => (old + a, decide (2 ^ 32 ≤ old.toNat + a.toNat))
  | 0x6A => f (smin old a)
  | 0x6B => f (smax old a)
  | 0x6C => f (old ||| a)
  | 0x6D => f (old &&& a)
  | 0x6E => (if old = c then a else old, old == c)
  | _ => (if old = 0 then a else old, old == 0)

/-- A load served again from the entries of R319, or read. -/
def replayOr (s : State) (p t : Nat) (r : Req) (addr : BitVec 64) (hit : State → BitVec 512 → BitVec 32 → State)
    (read : State → State) : State :=
  match replayTake s p t r addr with
  | (.hit v sd, s) => hit s v sd
  | (.differs, s) => reqEcc s p t r addr
  | (.none, s) => read s

/-- A word read into a vector access: the next lane of its token, or the side bits; a row of a gather starts its next
token after sixteen words. -/
def Req.addWord (r : Req) (v : BitVec 32) : Req :=
  let gath := (fabOpc r.word).toNat == 0x76
  if !gath && decide (16 ≤ r.prog) then { r with rside := v, prog := r.prog + 1 }
  else
    let res := r.res ||| (v.setWidth 512 <<< (32 * (r.prog % 16)))
    if gath && r.prog % 16 == 15 then { r with row := r.row ++ [res], res := 0, prog := r.prog + 1 }
    else { r with res := res, prog := r.prog + 1 }

/-- Word i of what a vector store writes: a lane of the head, or its side bits. -/
def Req.word_ (r : Req) (i : Nat) : BitVec 32 := if i < 16 then BitVec.ofNat 32 (laneOf r.a 32 i) else r.aside

/-- The words of a vector access that the banks of this fc allow, in ascending order (R154); fuel is the words that are
performed at most. -/
def spadVec (s : State) (p t : Nat) (r : Req) (store : Bool) : Nat → Req × State
  | 0 => (r, s)
  | n + 1 =>
    let w := r.b.toNat + r.prog
    match bankTake s p t w with
    | (false, s) => (r, s)
    | (true, s) =>
      if store then
        let s := s.updSpad p t (·.setWord w (r.word_ r.prog))
        spadVec s p t { r with prog := r.prog + 1 } store n
      else
        let s := fixWord s p t w
        spadVec s p t (r.addWord ((s.spad p t).word w)) store n

/-- SSTV goes on: a free number of its words, as far as the banks allow (R185). -/
def spadStoreGo (s : State) (p t : Nat) (r : Req) : State :=
  let n := vecWords (fabFields r.word)
  let (m, s) := freePart s (n - r.prog)
  let (r', s) := spadVec s p t r true m
  let s := if r'.prog = r.prog then s else commitTile s p t
  if r'.prog = n then finishTok s p t r' false 0 else s.updReq p t r.id fun _ => r'

/-- SLDV goes on, words that are in error first. -/
def spadLoadGo (s : State) (p t : Nat) (r : Req) : State :=
  let n := vecWords (fabFields r.word)
  match (List.range n).find? fun i => decide (r.prog ≤ i) && (s.spad p t).bad.contains (r.b.toNat + i) with
  | some i => reqEcc s p t r (BitVec.ofNat 64 (r.b.toNat + i))
  | none =>
    let (m, s) := freePart s (n - r.prog)
    let (r', s) := spadVec s p t r false m
    if r'.prog = n then
      let s := replayNote s p t r (r.b.setWidth 64) r'.res r'.rside
      memFinish s p t r' false none false 0 (vecToks s p t [(r'.res, r'.rside)])
    else s.updReq p t r.id fun _ => r'

/-- A vector access goes on. -/
def spadVecGo (s : State) (p t : Nat) (r : Req) (store : Bool) : State :=
  if store then spadStoreGo s p t r
  else if r.prog = 0 then
    replayOr s p t r (r.b.setWidth 64)
      (fun s v sd => memFinish s p t r false none false 0 (vecToks s p t [(v, sd)])) (fun s => spadLoadGo s p t r)
  else spadLoadGo s p t r

/-- SFE on the bits of words i to min(i + a[7:0], 65,535), each served. -/
def spadSfe (s : State) (p t : Nat) (r : Req) : State :=
  let lo := r.b.toNat
  let b := r.a.getLsbD 8
  let s := commitTile s p t
  let s := (List.range (sfeWords lo r.a.toNat)).foldl
    (fun s i => serve (s.updSpad p t (·.setFull (lo + i) b)) p t (lo + i)) s
  finishTok s p t r b 0

/-- A request behind earlier ones of the element to a word of it (`nod`, R166): it waits, and where one of them is parked
on a fault it parks behind that one, unreported, and tries again with it (R159). -/
def waitBehind (s : State) (p t : Nat) (r : Req) (l : List Req) : State :=
  match l.find? fun q => match q.st with
    | .parkedFault _ => true
    | _ => false with
  | some q => s.updReq p t r.id fun r => { r with st := q.st }
  | none => s

/-- A scratchpad request at its bank, when the earlier ones of the element to its words have been there (R166). -/
def spadGo (s : State) (p t : Nat) (r : Req) : State :=
  let opc := (fabOpc r.word).toNat
  let w := r.b.toNat
  if spadBlocked (s.tile p t) r then waitBehind s p t r (spadBefore (s.tile p t) r)
  else if opc = 0x61 then spadVecGo s p t r false
  else if opc = 0x63 then spadVecGo s p t r true
  else
    match bankTake s p t w with
    | (false, s) => s
    | (true, s) =>
      let sp := s.spad p t
      let a : BitVec 32 := r.a.setWidth 32
      match opc with
      | 0x60 =>
        replayOr s p t r (BitVec.ofNat 64 w) (fun s v _ => finishVal s p t r (v.setWidth 32) (sp.isFull w) 0)
          fun s => bankRead s p t r w fun s v => finishVal s p t r v (sp.isFull w) 0
      | 0x62 => finishTok (commitTile (s.updSpad p t (·.setWord w a)) p t) p t r false 0
      | 0x64 | 0x65 =>
        replayOr s p t r (BitVec.ofNat 64 w) (fun s v _ => finishVal s p t r (v.setWidth 32) true 0) fun s =>
          if !(Tbl.get [] sp.loadQ w).isEmpty || !sp.isFull w then parkReq s p t w r true
          else serve (fullRead s p t r w) p t w
      | 0x66 =>
        let s := commitTile (s.updSpad p t fun sp => (sp.setWord w a).setFull w true) p t
        serve (finishTok s p t r true 0) p t w
      | 0x67 =>
        if !(Tbl.get [] sp.storeQ w).isEmpty || sp.isFull w then parkReq s p t w r false
        else
          let s := commitTile (s.updSpad p t fun sp => (sp.setWord w a).setFull w true) p t
          serve (finishTok s p t r true 0) p t w
      | 0x68 => spadSfe s p t r
      | _ =>
        if sp.bad.contains w then reqEcc s p t r (r.b.setWidth 64)
        else
          let s := fixWord s p t w
          let old := (s.spad p t).word w
          let (v, fl) := spadAtomic opc old a r.c
          finishVal (commitTile (s.updSpad p t (·.setWord w v)) p t) p t r old fl 0

/-! ## L1 (R151, R152, R186) -/

/-- The line of an address, host lines apart. -/
def lineKey (pa : Nat) (host : Bool) : Nat := pa / 64 + (if host then 2 ^ 60 else 0)

/-- The tile whose L1 holds a line. In a fused L1 a line of home memory lies in row (PA / 64) mod 12 (R152); which row a HOST
line takes no rule says: here that of its `lineKey` (log 102; DESIGN CHOICE). -/
def l1Home (s : State) (p t : Nat) (key : Nat) : Nat := if (s.pad p).fused.isEmpty then t else tileAt (key % 12) 0

def State.updL1 (s : State) (p t : Nat) (key : Nat) (g : Tbl (BitVec 512) → Tbl (BitVec 512)) : State :=
  s.updTile p (l1Home s p t key) fun tl => { tl with et := { tl.et with lines := g tl.et.lines } }

/-- A line of an L1 is used: it is the last one of its set. -/
def l1Use (s : State) (p t key : Nat) : State :=
  s.updTile p (l1Home s p t key) fun tl => { tl with et := { tl.et with mru := Tbl.set tl.et.mru (Config.l1Set key % 256) key } }

/-- A line put into an L1 of 256 sets of 8 lines (Table 9-1). A full set loses one of its lines, a free one but not the
one used last: R344 has two lines that take turns filled once each, whatever else the L1 holds. Which set a line lies in
is the implementation's (log 9). -/
def l1Put (s : State) (p t key : Nat) (v : BitVec 512) : State :=
  let l1 := (s.tile p (l1Home s p t key)).et
  let set := Config.l1Set key % 256
  let mates := if l1.lines.length < 8 then [] else l1.lines.filter fun e => e.1 != key && Config.l1Set e.1 % 256 == set
  let s :=
    if mates.length < 8 then s.updL1 p t key fun l => Tbl.set l key v
    else
      let old := mates.filter fun e => Tbl.find? l1.mru set != some e.1
      let (d, s) := freeDelay s 0
      s.updL1 p t key fun l => Tbl.set (match old[d % old.length]? with | some e => Tbl.del l e.1 | none => l) key v
  l1Use s p t key

/-- A store updates the L1's copy of its line. -/
def l1Store (s : State) (p t pa : Nat) (host : Bool) (bs : List (BitVec 8)) : State :=
  let key := lineKey pa host
  match Tbl.find? (s.tile p (l1Home s p t key)).et.lines key with
  | none => s
  | some v =>
    let o := pa % 64
    let old := bytesOfNat 64 v.toNat
    let new := old.take o ++ bs ++ old.drop (o + bs.length)
    s.updL1 p t key fun l => Tbl.set l key (BitVec.ofNat 512 (natOfBytes (new.take 64)))

/-- A word read through L1. An absent line is filled, which R167 charges. A present line serves the load, or, at the tile's
own choice (R186), the word is read at its home slice and the copy follows, with no line filled (log 9). Answers the word
and whether a line was filled. -/
def l1Read (s : State) (p t pa : Nat) (host : Bool) : BitVec 32 × Bool × State :=
  let key := lineKey pa host
  let lane := fun (v : BitVec 512) => BitVec.ofNat 32 (laneOf v 32 (pa % 64 / 4))
  match Tbl.find? (s.tile p (l1Home s p t key)).et.lines key with
  | none =>
    let s := s.fixLine host pa
    let v := BitVec.ofNat 512 (s.rdNat host (pa / 64 * 64) 64)
    (lane v, true, l1Put s p t key v)
  | some v =>
    let (c, s) := freeChoice (l1Use s p t key)
    if c then (lane v, false, s)
    else
      let s := s.fixLine host pa
      let w := s.rdNat host (pa / 4 * 4) 4
      (BitVec.ofNat 32 w, false, l1Store s p t (pa / 4 * 4) host (bytesOfNat 4 w))

def l1Drop (s : State) (p t pa : Nat) (host : Bool) : State :=
  let key := lineKey pa host
  s.updL1 p t key fun l => Tbl.del l key

/-! ## Global requests performed (R172 to R175) -/

/-- The parts of an access by line: address and length. -/
def segments : Nat → BitVec 64 → Nat → List (BitVec 64 × Nat)
  | 0, _, _ => []
  | k + 1, va, n =>
    if n = 0 then []
    else
      let m := min n (64 - va.toNat % 64)
      (va, m) :: segments k (va + BitVec.ofNat 64 m) (n - m)

/-- The parts translated, or the first fault. -/
def xlSegs (s : State) (p t : Nat) (k : AccKind) :
    List (BitVec 64 × Nat) → Except (BitVec 8 × BitVec 64) (List (Nat × Bool × Nat)) × State
  | [] => (.ok [], s)
  | (va, n) :: rest =>
    if !canonical va then (.error (cXLATE, va), s)
    else
      match translate s p (some t) va k n with
      | (.fault c, s) => (.error (c, va), s)
      | (.ok pa host, s) =>
        match xlSegs s p t k rest with
        | (.error e, s) => (.error e, s)
        | (.ok l, s) => (.ok ((pa, host, n) :: l), s)

/-- The 32-bit words of translated parts, the single-copy atomic groups of a global node (R185). -/
def segWords (segs : List (Nat × Bool × Nat)) : List (Nat × Bool) :=
  segs.flatMap fun e => (List.range (e.2.2 / 4)).map fun i => (e.1 + 4 * i, e.2.1)

/-- Words read through L1, with the number of lines filled. -/
def readWords (s : State) (p t : Nat) : List (Nat × Bool) → List (BitVec 32) × Nat × State
  | [] => ([], 0, s)
  | (pa, host) :: rest =>
    let (v, filled, s) := l1Read s p t pa host
    let (more, k, s) := readWords s p t rest
    (v :: more, k + filled.toNat, s)

/-- Words written through; an L1 copy follows. -/
def writeWords (s : State) (p t : Nat) (ws : List ((Nat × Bool) × BitVec 32)) : State :=
  ws.foldl
    (fun s e =>
      let bs := bytesOfNat 4 e.2.toNat
      l1Store (s.wrBytes e.1.2 e.1.1 bs) p t e.1.1 e.1.2 bs) s

/-- The lines that words lo to hi − 1 of an access are the first to touch (R167). -/
def newLines (ws : List (Nat × Bool)) (lo hi : Nat) : Nat :=
  ((List.range hi).filter fun i =>
    decide (lo ≤ i) && (i == 0 || (ws[i]?).map (fun e => lineKey e.1 e.2) != (ws[i - 1]?).map (fun e => lineKey e.1 e.2))).length

/-- A line of the parts with an uncorrectable error that the access reads. -/
def badSeg (s : State) (segs : List (Nat × Bool × Nat)) : Option Nat := (segs.find? fun e => s.badLine e.2.1 e.1).map (·.1)

/-- The kind of a global node's access. -/
def nodeKind (opc : Nat) : AccKind :=
  if opc = 0x72 ∨ opc = 0x73 ∨ opc = 0x77 then .write else if opc = 0x74 ∨ opc = 0x75 then .atomic else .read

/-- A request that faults parks; the first of its E tile is reported to the owner (R159). -/
def reqFault (s : State) (p t : Nat) (r : Req) (cause : BitVec 8) (va : BitVec 64) (k : AccKind) : State :=
  let s := s.updReq p t r.id fun r => { r with st := .parkedFault cause }
  let x := firOf s p t
  if x.tl.et.reported then s
  else
    let s := s.updTile p t fun tl => { tl with et := { tl.et with reported := true } }
    if reportWaits s p (.etile t) then s
    else
    let v2 := k.code + tileRow t * 2 ^ 4 + x.rid * 2 ^ 8 + 2 ^ 63
    report s p x.reg.ownerQ cause va (BitVec.ofNat 64 v2) (.etile t)

/-- A request through a memory stile was outstanding for STILETMO fc, or its stile went away (R325). -/
def reqStileTmo (s : State) (p t : Nat) (r : Req) : State :=
  let s := s.updReq p t r.id fun r => { r with st := .parkedFault cSTILE_TMO }
  fabricTrap s p t r.slot r.word false cSTILE_TMO 0 0 0

/-- The later tokens of a row served again, an entry each; none when an entry differs. -/
def rowReplay (s : State) (p t : Nat) (r : Req) : Nat → Option (List (BitVec 512 × BitVec 32)) × State
  | 0 => (some [], s)
  | k + 1 =>
    let n := 2 ^ (fabFields r.word).pd.toNat
    match replayTake s p t r (r.va + BitVec.ofNat 64 (64 * (n - 1 - k))) with
    | (.hit v sd, s) =>
      match rowReplay s p t r k with
      | (some l, s) => (some ((v, sd) :: l), s)
      | (none, s) => (none, s)
    | (_, s) => (none, s)

/-- The bytes of an access from its address. -/
def reqLen (r : Req) : Nat :=
  let opc := (fabOpc r.word).toNat
  let f := fabFields r.word
  if opc = 0x71 ∨ opc = 0x73 then (if f.pd.getLsbD 0 then 68 else 64)
  else if opc = 0x76 then 64 * 2 ^ f.pd.toNat
  else if opc = 0x77 then 64 else 4

/-- Where a global request's parts lie, HOST memory apart; a part without a mapping has no place. -/
def reqPlaces (s : State) (p : Nat) (r : Req) : List (Nat × Bool × Nat) :=
  (segments 10 r.va (reqLen r)).filterMap fun e => (walkPlace s p e.1).map fun a => (a.1, a.2, e.2)

/-- Two global requests access one word: by their addresses, or, through aliases, by the places of any of their parts. -/
def sameWord (s : State) (p : Nat) (q r : Req) : Bool :=
  overlap q.va.toNat (reqLen q) r.va.toNat (reqLen r) ||
    (reqPlaces s p q).any fun a => (reqPlaces s p r).any fun b => a.2.1 == b.2.1 && overlap a.1 a.2.2 b.1 b.2.2

/-- A gather. -/
def Req.gath (r : Req) : Bool := fabOpc r.word == 0x76

/-- The earlier global requests of the element to a word of this one that are not performed (`nod`, R166). Two gathers that
share a line take it from one fetch (R173), so that neither waits for the other. -/
def nodBefore (s : State) (p t : Nat) (r : Req) : List Req :=
  (s.tile p t).reqs.filter fun q =>
    let o := (fabOpc q.word).toNat
    decide (q.id < r.id) && decide (0x70 ≤ o) && decide (o ≤ 0x77) && q.st != .performed && !(q.gath && r.gath) && sameWord s p q r

/-! ## The gather coalescer (R173) -/

/-- The tile's gathers that a line is fetched for when one of them first reads it: those in the window that cover it and
that no earlier request to a word of theirs holds up. A tile holds fewer than 64 requests (R163). -/
def coalReqs (s : State) (p t key : Nat) : List Nat :=
  ((s.tile p t).reqs.filter fun q =>
    q.gath && q.st == .going && (reqPlaces s p q).any (fun a => lineKey a.1 a.2.1 == key) && (nodBefore s p t q).isEmpty).map (·.id)

/-- A word of a line that gathers share: it is read at L2 once for all of them. Answers the word and whether the fetch of
the line begins with it, which is what R167 charges. -/
def coalWord (s : State) (p t id pa : Nat) (host : Bool) : BitVec 32 × Bool × State :=
  let key := lineKey pa host
  let i := pa % 64 / 4
  let set := fun (s : State) (g : List CoalLine → List CoalLine) => s.updTile p t fun tl => { tl with et := { tl.et with coal := g tl.et.coal } }
  let read := fun (s : State) => let s := s.fixLine host pa; ((BitVec.ofNat 32 (s.rdNat host pa 4) : BitVec 32), s)
  let mine := fun (e : CoalLine) => e.key == key && e.reqs.contains id
  match (s.tile p t).et.coal.find? mine with
  | none =>
    let l := coalReqs s p t key
    let (v, s) := read s
    (v, true, set s fun c => { key := key, reqs := if l.contains id then l else id :: l, words := [(i, v)] } :: c)
  | some e =>
    match Tbl.find? e.words i with
    | some v => (v, false, s)
    | none =>
      let (v, s) := read s
      (v, false, set s fun c => c.map fun e => if mine e then { e with words := Tbl.set e.words i v } else e)

/-- Words of a row, and the lines whose fetch began with them. -/
def fetchWords (s : State) (p t id : Nat) : List (Nat × Bool) → List (BitVec 32) × Nat × State
  | [] => ([], 0, s)
  | (pa, host) :: rest =>
    let (v, first, s) := coalWord s p t id pa host
    let (more, k, s) := fetchWords s p t id rest
    (v :: more, k + first.toNat, s)

/-- A row is read: the lines fetched for it, and for no other row that still reads, leave the coalescer. -/
def coalDone (s : State) (p t id : Nat) : State :=
  s.updTile p t fun tl =>
    let going := fun (i : Nat) => i != id && tl.reqs.any fun q => q.id == i && q.st == .going
    { tl with et := { tl.et with coal := tl.et.coal.filter fun e => e.reqs.any going } }

/-- The places of the reorder area that tokens of the tile's gathers hold: of each, as many as have not left yet, its last
ones. -/
def heldPlaces (tl : Tile) : List Nat :=
  tl.reqs.flatMap fun r => if r.st = .performed then r.places.drop (r.places.length - (tl.outq.filter (·.id == r.id)).length) else r.places

/-- n free places from a free start on; which ones the coalescer takes is not stated (log 9). -/
def takePlaces (d : Nat) (used : List Nat) (n : Nat) : List Nat :=
  (((List.range 512).map fun i => (d + i) % 512).filter fun i => !used.contains i).take n

/-- The words of a row that is read staged in the reorder area of the row's S tile, as many as the banks of this fc allow,
in order (R154). Answers the number staged so far. -/
def stageWords (s : State) (p t : Nat) (r : Req) : Nat → Nat → Nat × State
  | i, 0 => (i, s)
  | i, n + 1 =>
    let sp := tileAt (tileRow t) 6
    let w := 57344 + 16 * (r.places.getD (i / 16) 0) + i % 16
    match bankTake s p sp w with
    | (false, s) => (i, s)
    | (true, s) =>
      stageWords (s.updSpad p sp (·.setWord w (BitVec.ofNat 32 (laneOf (r.row.getD (i / 16) 0) 32 (i % 16))))) p t r (i + 1) n

/-- The words of a global access translated, unless one faults or, for a read, lies in a line with an uncorrectable error;
then a free number of those not yet performed go on (R185). -/
def partGo (s : State) (p t : Nat) (r : Req) (k : AccKind) (go : State → List (Nat × Bool) → Nat → State) : State :=
  match xlSegs s p t k (segments 10 r.va (reqLen r)) with
  | (.error (c, va), s) => reqFault s p t r c va k
  | (.ok segs, s) =>
    match if k = .read then badSeg s segs else none with
    | some a => reqEcc s p t r (BitVec.ofNat 64 a)
    | none =>
      let ws := segWords segs
      let (m, s) := freePart s (ws.length - r.prog)
      go s ws m

/-- A part of an access is performed: the lines it moved are charged as they move (R167), and the rest follows. -/
def partDone (s : State) (p t : Nat) (r : Req) (tb : Nat) : State :=
  let x := firOf s p t
  markBusy (chargeRegion (s.updReq p t r.id fun _ => r) p x.rid 0 tb) p x.rid

/-- A row that is read goes to the reorder area, where its tokens get their places; once it stands there its tokens are
given. -/
def gathStage (s : State) (p t : Nat) (r : Req) : State :=
  let n := 2 ^ (fabFields r.word).pd.toNat
  let (r, s) :=
    if r.places.isEmpty then
      let (d, s) := freeDelay s 0
      ({ r with places := takePlaces d (heldPlaces (s.tile p t)) n }, s)
    else (r, s)
  let (i, s) := stageWords s p t r (r.prog - 16 * n) (32 * n - r.prog)
  let r := { r with prog := 16 * n + i }
  let s := s.updReq p t r.id fun _ => r
  if r.prog < 32 * n then s else memFinish s p t r false none false 0 (vecToks s p t (r.row.map fun v => (v, 0)))

/-- A row read from L2, or served again, and then staged; the lines it moves are charged as they move (R167). -/
def gathGo (s : State) (p t : Nat) (r : Req) : State :=
  let n := 2 ^ (fabFields r.word).pd.toNat
  let read := fun (s : State) => partGo s p t r .read fun s ws m =>
    let (vs, tb, s) := fetchWords s p t r.id ((ws.drop r.prog).take m)
    let r' := vs.foldl Req.addWord r
    let s := partDone s p t r' tb
    if r'.prog < 16 * n then s
    else
      let s := r'.row.zipIdx.foldl (fun s e => replayNote s p t r (r.va + BitVec.ofNat 64 (64 * e.2)) e.1 0) s
      gathStage (coalDone s p t r.id) p t r'
  if r.prog = 0 then
    replayOr s p t r r.va
      (fun s v _ => match rowReplay s p t r (n - 1) with
        | (some l, s) => gathStage s p t { r with row := v :: l.map (·.1), prog := 16 * n }
        | (none, s) => reqEcc s p t r r.va) read
  else if r.prog < 16 * n then read s
  else gathStage s p t r

/-- A load of one word, or of a vector with or without its side word. -/
def loadGo (s : State) (p t : Nat) (r : Req) (vec : Bool) : State :=
  let give := fun (s : State) (r : Req) (v : BitVec 512) (sd : BitVec 32) (tb : Nat) =>
    if vec then memFinish s p t r false none false tb (vecToks s p t [(v, sd)]) else finishVal s p t r (v.setWidth 32) false tb
  let read := fun (s : State) => partGo s p t r .read fun s ws m =>
    let (vs, tb, s) := readWords s p t ((ws.drop r.prog).take m)
    let r' := vs.foldl Req.addWord r
    if r'.prog < ws.length then partDone s p t r' tb
    else give (replayNote s p t r r.va r'.res r'.rside) r' r'.res r'.rside tb
  if r.prog = 0 then replayOr s p t r r.va (fun s v sd => give s r v sd 0) read else read s

/-- A store of one word, or of a vector with or without its side word; one charge for each line touched. -/
def storeGo (s : State) (p t : Nat) (r : Req) : State :=
  partGo s p t r .write fun s ws m =>
    let part := (ws.zipIdx.drop r.prog).take m
    let s := writeWords s p t (part.map fun e => (e.1, r.word_ e.2))
    let s := if part.any (·.1.2) then s.updTile p t fun tl => { tl with et := { tl.et with hostWrite := some r.va } } else s
    let s := commitTile s p t
    let tb := newLines ws r.prog (r.prog + m)
    if r.prog + m < ws.length then partDone s p t { r with prog := r.prog + m } tb else finishTok s p t r false tb

/-- An atomic at the home slice. -/
def atomGo (s : State) (p t : Nat) (r : Req) : State :=
  match translate s p (some t) r.va .atomic 4 with
  | (.fault c, s) => reqFault s p t r c r.va .atomic
  | (.ok pa host, s) =>
    if s.badLine host pa then reqEcc s p t r (BitVec.ofNat 64 pa)
    else
      let s := s.fixLine host pa
      let old := BitVec.ofNat 32 (s.rdNat host pa 4)
      let a : BitVec 32 := r.a.setWidth 32
      let (v, fl) := spadAtomic (if (fabOpc r.word).toNat = 0x74 then 0x69 else 0x6E) old a r.c
      let s := l1Drop (s.wrNat host pa 4 v.toNat) p t pa host
      finishVal (commitTile s p t) p t r old fl 1

/-- PREF: the line may be brought into L1 where it is absent (R175). -/
def prefGo (s : State) (p t : Nat) (r : Req) : State :=
  let ok := canonical r.va && r.va.toNat % 4 == 0
  if !ok then finishTok s p t r false 0
  else
    match translate s p (some t) r.va .pref with
    | (.fault _, s) => finishTok s p t r false 0
    | (.ok pa host, s) =>
      let key := lineKey pa host
      let have_ := (Tbl.find? (s.tile p (l1Home s p t key)).et.lines key).isSome
      let (c, s) := freeChoice s
      if have_ || !c || s.badLine host pa then finishTok s p t r false 0
      else
        let (_, _, s) := l1Read s p t pa host
        finishTok s p t r false 1

/-- FENCE: every earlier request of the element performed; L1 lines invalidated by scope (R177). -/
def fenceGo (s : State) (p t : Nat) (r : Req) : State :=
  let tl := s.tile p t
  if (memReqs tl).any fun q => decide (q.id < r.id) && q.st != .performed then s
  else
    let sc := (fabFields r.word).pd.toNat
    let fused := !(s.pad p).fused.isEmpty
    let s :=
      if tileType t != .e then s
      else if fused then (if 3 ≤ sc then clearL1 s p else s)
      else if 2 ≤ sc then s.updTile p t fun tl => { tl with et := { tl.et with lines := [] } }
      else s
    let s := if sc = 5 then s.updTile p t fun tl => { tl with et := { tl.et with hostWrite := none } } else s
    finishTok s p t r false 0

/-- A global request performed. -/
def globGo (s : State) (p t : Nat) (r : Req) : State :=
  let opc := (fabOpc r.word).toNat
  let tmo := (s.pad p).stiletmo.toNat
  if viaStile s p r.va && decide (r.fired + tmo ≤ s.fc p) then reqStileTmo s p t r
  else if !(nodBefore s p t r).isEmpty then waitBehind s p t r (nodBefore s p t r)
  else
    match opc with
    | 0x70 => loadGo s p t r false
    | 0x71 => loadGo s p t r true
    | 0x76 => gathGo s p t r
    | 0x72 | 0x73 | 0x77 => storeGo s p t r
    | _ => atomGo s p t r

/-- An attachment that is refused as its CHAPP goes on. -/
def chappRefused (s : State) (p t : Nat) (r : Req) (d : Nat) : State :=
  let s := s.updReq p t r.id fun r => { r with st := .parkedFault cELEMENT }
  fabricTrap s p t r.slot r.word false cELEMENT (BitVec.ofNat 16 d) 0 0

/-- What an attachment of a fabric CHAPP leads to: a translation or permission fault parks the request (R256); an
uncorrectable error in the block is the region's (R160, R319). -/
def chappGo (p t : Nat) (r : Req) (a : Attach × State) : State :=
  match a with
  | (.done, s) => finishTok s p t r false 1
  | (.refused d, s) => chappRefused s p t r d
  | (.fault c va k, s) => if c = cECC_UE then reqEcc s p t r va else reqFault s p t r c va k

/-- A deferred slot of the engine class goes on: an attachment made, or tried again (R256); a TAGSET whose element's
earlier requests are performed (R255); an MSEND whose message has left the network (R253). -/
def engReqGo (s : State) (p t : Nat) (r : Req) : State :=
  let opc := (fabOpc r.word).toNat
  let q := (firOf s p t).reg.ownerQ
  if opc = 0xE0 then
    if r.flag then finishTok s p t r false 1
    else
      match chainRefusal s p q (chainId r.a) true with
      | some d => chappRefused s p t r d
      | none => chappGo p t r (attach s p q (chainId r.a) r.va)
  else if opc = 0xE4 then
    if (orderedReqs (s.tile p t)).any fun e => decide (e.id < r.id) && e.st != .performed then s
    else finishTok (setTag s p q (fld r.b 0 6)) p t r false 0
  else if r.flag then finishTok s p t r (r.b.getLsbD 11) 0
  else
    -- the message was lost: its places are given up and no token is sent
    let tl := s.tile p t
    let c := ((s.pad p).cfgAt t).getD []
    let mine := tl.outq.filter (·.id == r.id)
    let s := mine.foldl (fun s e => (outsOf e.held).foldl (fun s o => releaseOut s p t c o) s) s
    let s := s.updTile p t fun tl => { tl with outq := tl.outq.filter (·.id != r.id) }
    memFinish s p t r false none (r.b.getLsbD 11) 0 []

/-- A deferred slot of the engine class that may go on. -/
def engReqDue (s : State) (p : Nat) (r : Req) : Bool :=
  let opc := (fabOpc r.word).toNat
  if opc = 0xE3 then r.st == .performed
  else (opc == 0xE0 || opc == 0xE4) && r.st == .going && decide (r.due ≤ s.fc p)

/-- A parked request whose turn has come while it could not be served: its region was frozen or paused (R170). -/
def parkedDue (s : State) (p t : Nat) (r : Req) : Bool :=
  r.st == .parkedFE && !parkHeld s p t && ((s.spad p t).metQ r.b.toNat).head? == some r.id

/-- A request of a memory node goes on when its time has come. -/
def reqGo (s : State) (p t : Nat) (r : Req) : State :=
  let opc := (fabOpc r.word).toNat
  if opc ≤ 0x6F then spadGo s p t r
  else if opc = 0x79 then fenceGo s p t r
  else if opc = 0x7A then prefGo s p t r
  else globGo s p t r

/-- The fc in which a request goes on: its own, or that of its timeout at a memory stile. -/
def reqDue (s : State) (p : Nat) (r : Req) : Nat :=
  let opc := (fabOpc r.word).toNat
  if 0x70 ≤ opc ∧ opc ≤ 0x77 ∧ viaStile s p r.va then min r.due (r.fired + (s.pad p).stiletmo.toNat) else r.due

/-- MEM_NODE_COMPLETE: the deferred slot of request n of a tile goes on (R165). -/
def execMemNodeComplete (p : Fin 32) (t : Fin 144) (n : Nat) (s : State) : Out :=
  match (s.tile p t).req n with
  | none => .next s
  | some r =>
    if isMemOpc (fabOpc r.word).toNat ∧ r.st = .going ∧ reqDue s p r ≤ s.fc p then .next (reqGo s p t r)
    else if engReqDue s p r then .next (engReqGo s p t r)
    else if parkedDue s p t r then .next (serve s p t r.b.toNat)
    else .next s

/-- PARKED_REQUEST_RETRY: the requests a tile parked on faults walk again (R159, R317). -/
def execParkedRequestRetry (p : Fin 32) (t : Fin 144) (s : State) : Out :=
  let fc := s.fc p
  .next (s.updTile p t fun tl =>
    { tl with
      reqs := tl.reqs.map fun r => match r.st with
        | .parkedFault _ => { r with st := .going, due := fc, fired := fc }
        | _ => r
      et := { tl.et with reported := false, retryAt := none } })

/-- GATH_ROW_TOKEN_EMIT: a later token of a row leaves when every output has a free place (R173). -/
def execGathRowTokenEmit (p : Fin 32) (t : Fin 144) (s : State) : Out :=
  let (id, s) := emitPaced s p t
  match id with
  | none => .next s
  | some _ => .next (markBusy (s.updTile p t Tile.gathDone) p (firOf s p t).rid)

end Sys2Proof.Machine
end

