-- ==== Sys2Proof/Machine/FabEngine.lean ====
section
/-! DEFINITION. The fabric instructions of the engine and message class (R252 to R256): 0xE0 to 0xE4. -/

namespace Sys2Proof.Machine

open Host (Outcome)

/-- An instruction of the class that commits its region's epoch as it fires (R318). -/
def commitActing (s : State) : State := commitEpoch s s.cur.p s.fir.rid

/-- ELEMENT_TRAP before firing whose record names a detail code. -/
def elementDetail (s : State) (opc : BitVec 8) (f : FabF) (d : Nat) : State :=
  trapBefore s opc f cELEMENT (BitVec.ofNat 16 d) 0

/-- FAB_CHAPP: the address is checked as a global operand's, the block is read and the chain attached; Tok() follows
when the completion word is performed. A translation or permission fault parks the request (R256, R159). -/
def execFabChapp (f : FabF) (s : State) : Out :=
  let x := s.fir
  let c := chainId (x.opA f)
  let q := x.reg.ownerQ
  let va := segAddr x.tl (x.opB f)
  match chainRefusal s x.p q c true with
  | some d => .next (elementDetail s 0xE0 f d)
  | none =>
    match globBad va va 64 with
    | some e => .next (trapBefore s 0xE0 f e 0 va)
    | none =>
      match attach s x.p q c va with
      | (.refused d, s) => .next (elementDetail s 0xE0 f d)
      | (.done, s) =>
        let (n, s) := freeDelay s 1
        let r := { newReq 0xE0 f x (s.fc x.p) (s.fc x.p + n) va with flag := true }
        .next (commitActing (deferFire f false 1 4 0 r s))
      | (.fault e a k, s) =>
        let r := newReq 0xE0 f x (s.fc x.p) (s.fc x.p) va
        .next (chappGo x.p x.t r (.fault e a k, commitActing (deferFire f false 1 4 0 r s)))

/-- FAB_CHTL: TAIL ← TAIL + b; the region is charged for the entries (R244). -/
def execFabChtl (f : FabF) (s : State) : Out :=
  let x := s.fir
  let c := chainId (x.opA f)
  match chainRefusal s x.p x.reg.ownerQ c false with
  | some d => .next (elementDetail s 0xE1 f d)
  | none =>
    match announce s x.p c ((s.chain x.p c).tail + (x.opB f).setWidth 64) (.region x.rid) with
    | .error d => .next (elementDetail s 0xE1 f d)
    | .ok s =>
      let (n, s) := freeNz f s
      .next (applyEffect f { sends := toAll f.om (x.ordTok f), nonzero := n, ib := 4 } (commitActing s))

/-- FAB_CHSQ: the low 32 bits of the value. -/
def execFabChsq (f : FabF) (s : State) : Out :=
  let x := s.fir
  let c := chainId (x.opB f)
  if 16 < c then .next (elementDetail s 0xE2 f 0x34)
  else
    let r := (chainValue (s.chain x.p c) (f.pd.toNat % 4)).setWidth 32
    .next (applyEffect f (resEffect f x r (r != 0)) s)

/-- The Manhattan distance of two tiles. -/
def tileDist (t u : Nat) : Nat :=
  let d := fun (a b : Nat) => max a b - min a b
  d (tileRow t) (tileRow u) + d (tileCol t) (tileCol u)

/-- MSEND: the message leaves for the tile its label is bound to and is due 2 + d fc after (R254). -/
def execMsend (f : FabF) (s : State) : Out :=
  let x := s.fir
  let (a, b) := (x.opA f, x.opB f)
  let label := fld b 0 7
  match deliverTile s x.p label with
  | none => .next (elementTrap s 0xE3 f)
  | some u =>
    let fc := s.fc x.p
    let due := fc + 2 + tileDist x.t u
    let r := newReq 0xE3 f x fc due 0
    let m : Msg :=
      { label := b.extractLsb' 0 7, words := a :: (if b.getLsbD 11 then [x.tl.lc (fld b 8 3)] else []), eos := b.getLsbD 12,
        src := x.t, iter := x.iter f, due := due, req := r.id, dest := u, rid := some x.rid }
    .next (postMsg (commitActing (deferFire f false 1 1 0 r s)) x.p m)

/-- TAGSET: waits for the element's earlier requests. -/
def execTagset (f : FabF) (s : State) : Out :=
  let x := s.fir
  .next (commitActing (deferFire f false 1 1 0 (newReq 0xE4 f x (s.fc x.p) (s.fc x.p + 1) 0) s))

/-! ## Messages arriving (R254) -/

/-- A message that an earlier one of the same tile to the same label precedes waits. -/
def msgBlocked (ms : List Msg) (n : Nat) (m : Msg) : Bool :=
  (ms.take n).any fun e => e.src == m.src && e.label == m.label

/-- A message's sender completes: its words are enqueued, or the message is lost. -/
def msgSender (s : State) (p : Nat) (m : Msg) (there : Bool) : State :=
  if m.req = 0 then s else s.updReq p m.src m.req fun r => { r with st := .performed, flag := there }

/-- A message leaves the network. -/
def takeMsg (s : State) (p n : Nat) : State := s.updPad p fun x => { x with msgs := x.msgs.eraseIdx n }

/-- The places every route of a port must have for a message's words. -/
def msgRoom (s : State) (p t : Nat) (m : Msg) : Bool :=
  ((s.pad p).portRoutes t).all fun r =>
    match routeDest t r with
    | none => false
    | some (u, b) => decide (((s.tile p u).buf b).used + m.words.length ≤ r.depth)

/-- A message at its destination, the tile its label was bound to when it was sent: discarded when the label is unbound
or the tile is in no region (R252, R254; log 63); else it waits for a port and room. -/
def msgDue (s : State) (p n : Nat) : Option (Msg × Bool) :=
  let x := s.pad p
  match x.msgs[n]? with
  | none => none
  | some m =>
    if s.fc p < m.due ∨ msgBlocked x.msgs n m then none
    else if !(Tbl.get 0 x.msgl m.label.toNat).getLsbD 8 || (x.regionAt m.dest).isNone then some (m, false)
    else if !(x.portRoutes m.dest).isEmpty && msgRoom s p m.dest m then some (m, true)
    else none

/-- The words of a message as control value tokens. -/
def msgToks (s : State) (p : Nat) (m : Msg) : List Tok :=
  let gen := (firOf s p m.dest).gen
  let last := m.words.length - 1
  m.words.zipIdx.map fun e =>
    { val := e.1.setWidth 512, eos := m.eos && decide (e.2 = last), gen := gen, iter := m.iter, arr := s.fc p }

/-- MESSAGE_ARRIVE: message n of the network. -/
def execMessageArrive (p : Fin 32) (n : Nat) (s : State) : Out :=
  match msgDue s p n with
  | none => .next s
  | some (m, true) =>
    let rs := (s.pad p).portRoutes m.dest
    let ks := msgToks s p m
    let s := takeMsg s p n
    let s := rs.foldl
      (fun s r => match routeDest m.dest r with
        | none => s
        | some (u, b) => ks.foldl (fun s k => s.updBuf p u b fun d => d.push false (asPlane r.data r.rep k)) s) s
    let rid := (firOf s p m.dest).rid
    .next (msgSender (markBusy (commitEpoch s p rid) p rid) p m true)
  | some (m, false) =>
    let s := takeMsg s p n
    let s := match (s.pad p).regionAt m.dest with
      | some (id, _) => s.updRegion p id fun r => { r with drop := r.drop + 1 }
      | none => s
    .next (msgSender s p m false)

end Sys2Proof.Machine
end

