-- ==== Sys2Proof/Machine/Matrix.lean ====
section
/-! DEFINITION. The matrix class (R188 to R212): loading B, passes with the group adder, anchored accumulation and the
carry capture buffer, drains and the other instructions 0x80 to 0x89. -/

namespace Sys2Proof.Machine

open Host (Outcome)

/-! ## Accumulators and cells -/

def Matrix.cellIx (bank row col : Nat) : Nat := 32768 * bank + 128 * row + col
def Matrix.grpIx (bank g col : Nat) : Nat := 2048 * bank + 128 * g + col

def Matrix.bodyOf (m : Matrix) (c : Nat) : BitVec 32 := Tbl.get 0 m.body c
def Matrix.nfcOf (m : Matrix) (c : Nat) : NonFin := Tbl.get .finite m.nfc c
/-- The high word of an accumulator's entry, 0 without one. -/
def Matrix.high (m : Matrix) (c : Nat) : BitVec 32 := Tbl.get 0 m.carry c
def Matrix.scaleOf (m : Matrix) (c : Nat) : BitVec 32 := Tbl.get 0x3F800000 m.scale c

/-- The number of the A-sum among the accumulators. -/
abbrev accA : Nat := 128

/-- A matrix unit's state changed. -/
def updMx (s : State) (p t : Nat) (g : Matrix → Matrix) : State := s.updTile p t fun tl => { tl with mx := g tl.mx }

/-! ## Tokens and simple instructions (R209) -/

/-- The matrix-control token's payload (Table 11-8). -/
def mxPayload (opc ng : Nat) (nfp skall nfsk held : Bool) : BitVec 32 :=
  BitVec.ofNat 32 (opc + held.toNat * 2 ^ 8 + nfsk.toNat * 2 ^ 9 + skall.toNat * 2 ^ 10 + nfp.toNat * 2 ^ 11 + ng * 2 ^ 16)

/-- A matrix-control token. -/
def mxTok (v : BitVec 32) : Tok := { val := v.setWidth 512, kind := 3 }

/-- A matrix instruction that acts in its firing fc and sends a matrix-control token. -/
def mxSimple (opc : Nat) (f : FabF) (ib : Nat) (flag commit : Bool) (s : State) (g : Matrix → Matrix) : Out :=
  let x := s.fir
  let s := updMx s x.p x.t g
  let s := if commit then commitEpoch s x.p x.rid else s
  let (n, s) := freeNz f s
  let k := { mxTok (mxPayload opc 0 false false false false) with gen := x.gen, iter := x.iter f }
  .next (applyEffect f { sends := toAll f.om k, nonzero := n, flag := flag, ib := ib } s)

/-! ## Loading B (R190 to R192) -/

/-- An exact value as a BF16 code; NaN as 0x7FC0. -/
def toBf16 (v : Ex) : BitVec 16 := BitVec.ofNat 16 ((fpBF16.round { mode := .rne } v).1)

/-- The BF16 cell of an unscaled element (Table 11-2). -/
def mldbCell (t : Tag) (q4i : Nat) (cb : Tbl (BitVec 16)) (code : Nat) : BitVec 16 :=
  match t with
  | .q4 =>
    if q4i = 2 then Tbl.get 0 cb code
    else if q4i = 1 then toBf16 (Ex.ofInt code)
    else toBf16 (Ex.ofInt (sext code 4))
  | .int => toBf16 (Ex.ofInt (sext code 8))
  | .ps8 => toBf16 (ps8Value code)
  | .bf16 => if code % 32768 > 0x7F80 then 0x7FC0 else BitVec.ofNat 16 code
  | _ =>
    match t.fp with
    | some fp => toBf16 (fp.dec code)
    | none => 0

/-- The B format a token's cells are read in. -/
def mldbFmt (t : Tag) (q4i : Nat) : BFmt :=
  match t with
  | .e2m1 => .e2m1
  | .e4m3 => .e4m3
  | .e5m2 => .e5m2
  | .int => .int8
  | .q4 => if q4i = 2 then .bf16 else .int4
  | _ => .bf16

/-- A BF16 code that is an infinity or a NaN. -/
def bfNonFin (c : BitVec 16) : Bool := c.extractLsb' 7 8 == 0xFF

/-- One column of a group loaded. -/
def loadColumn (m : Matrix) (bank g col : Nat) (fmt : BFmt) (sx : BitVec 8) (cells : List (BitVec 16)) : Matrix :=
  let cells := if sx = 0xFF then cells.map fun _ => (0x7FC0 : BitVec 16) else cells
  let ix := Matrix.grpIx bank g col
  { m with
    cell := cells.zipIdx.foldl (fun t e => Tbl.put 0 t (Matrix.cellIx bank (16 * g + e.2) col) e.1) m.cell
    bfmt := Tbl.put .bf16 m.bfmt ix fmt
    sx := Tbl.put 127 m.sx ix sx
    nf := Tbl.put false m.nf ix (cells.any bfNonFin) }

/-- The columns a token loads. -/
def loadB (x : Fir) (b : BitVec 32) (k : Tok) (m : Matrix) : Matrix :=
  let t := Tag.ofBits k.tag
  let w := t.lane (hdrLw x.cfg.hdr)
  let q4i := hdrQ4i x.cfg.hdr
  let bank := mldbBank m b
  let g := fld b 8 4
  (List.range (512 / w / 16)).foldl
    (fun m j =>
      let cells := (List.range 16).map fun i => mldbCell t q4i m.cb (laneOf k.val w (16 * j + i))
      loadColumn m bank g (fld b 0 7 + j) (mldbFmt t q4i) (blockScale t k.side (16 * j)) cells) m

/-- MLDB: ELEMENT_TRAP for FP32, for INT with LW other than 8 and past column 127. -/
def execMldb (f : FabF) (s : State) : Out :=
  let x := s.fir
  let k := x.tl.head f.sa.toNat
  let b := x.opB f
  let t := Tag.ofBits k.tag
  let lw := hdrLw x.cfg.hdr
  let cols := 512 / t.lane lw / 16
  if t = .fp32 ∨ (t = .int ∧ lw ≠ 0) ∨ 128 < fld b 0 7 + cols then .next (elementTrap s 0x80 f)
  else
    let m := loadB x b k x.tl.mx
    let bank := mldbBank x.tl.mx b
    let g := fld b 8 4
    let nf := (List.range cols).any fun j => Tbl.get false m.nf (Matrix.grpIx bank g (fld b 0 7 + j))
    let mine := fun (n : Nat) =>
      n / 32768 == bank && n / 128 % 256 / 16 == g && decide (fld b 0 7 ≤ n % 128) && decide (n % 128 < fld b 0 7 + cols)
    let s := updActing x s fun tl => { tl with badCells := tl.badCells.filter fun n => !mine n }
    mxSimple 0x80 f 2 nf true s fun _ => m

/-- MCBK. -/
def execMcbk (f : FabF) (s : State) : Out :=
  let x := s.fir
  mxSimple 0x86 f 1 false true s fun m =>
    { m with cb := Tbl.put 0 m.cb (fld (x.opB f) 0 4) ((x.opA f).setWidth 16) }

/-! ## Operands of the group adder (R195) -/

/-- An operand: its value, its exponent E and whether it is an integer. -/
structure MOp where
  int : Bool
  e : Int
  v : Ex
deriving DecidableEq, Repr

/-- E of a finite float value: the exponent of its normal form, or 1 − bias for a subnormal or zero of its format. -/
def floatE (bias : Int) (v : Ex) : Int :=
  match v with
  | .fin _ n d => if n = 0 then 1 - bias else max (flog2 n d) (1 - bias)
  | _ => 0

/-- An A element (Table 11-3). -/
def aOp (t : Tag) (r : RowEl) : MOp :=
  match t with
  | .q4 => { int := true, e := 3, v := Ex.ofInt (sext r.code.toNat 4) }
  | .int => { int := true, e := 7, v := Ex.ofInt (sext r.code.toNat 8) }
  | _ =>
    match t.fp, e8m0 r.scale with
    | some fp, some k =>
      let v := fp.dec r.code.toNat
      { int := false, e := floatE fp.bias v + k, v := v.scale k }
    | _, _ => { int := false, e := 0, v := .nan }

/-- A B cell (Table 11-2). -/
def bOp (fmt : BFmt) (cell : BitVec 16) (sx : BitVec 8) : MOp :=
  let v := fpBF16.dec cell.toNat
  let fl := fun (bias : Int) =>
    match e8m0 sx with
    | some k => ({ int := false, e := floatE bias v + k, v := v.scale k } : MOp)
    | none => { int := false, e := 0, v := .nan }
  match fmt with
  | .int8 => { int := true, e := 7, v := v }
  | .int4 => { int := true, e := 3, v := v }
  | .e2m1 => fl 1
  | .e4m3 => fl 7
  | .e5m2 => fl 15
  | .bf16 => fl 127

/-- B of the A-sum. -/
def oneOp : MOp := { int := false, e := 0, v := Ex.ofInt 1 }

/-- A product's finite part: its value and exponent; or what it merges into NFC and whether that sets NV. -/
inductive Prod where
  | fin (v : Ex) (e : Int)
  | non (n : NonFin) (nv : Bool)
deriving DecidableEq, Repr

def prodOf (a b : MOp) : Prod :=
  match Ex.mul a.v b.v with
  | (.nan, nv) => .non .nan nv
  | (.inf s, _) => .non (if s then .ninf else .pinf) false
  | (v, _) => .fin v (a.e + b.e)

/-- NFC merged with a non-finite product: the class and whether NV is set. -/
def nfMerge (a b : NonFin) : NonFin × Bool :=
  match a, b with
  | .finite, y => (y, false)
  | x, .finite => (x, false)
  | .nan, _ => (.nan, false)
  | _, .nan => (.nan, false)
  | x, y => if x = y then (x, false) else (.nan, true)

/-- ±⌊|v| / 2^e⌋. -/
def truncAt (v : Ex) (e : Int) : Int :=
  match v with
  | .fin s n d => Ex.sgn s (scaledDiv n d e).1
  | _ => 0

/-- The group partial (S, e), with the non-finite products. -/
structure Partial where
  sum : Int
  e : Int
  non : List (NonFin × Bool)
deriving DecidableEq, Repr

def groupPartial (int : Bool) (ps : List Prod) : Partial :=
  let fins := ps.filterMap fun q => match q with
    | .fin v e => if v.isZero then none else some (v, e)
    | .non _ _ => none
  let non := ps.filterMap fun q => match q with
    | .fin _ _ => none
    | .non n nv => some (n, nv)
  match fins with
  | [] => { sum := 0, e := 0, non := non }
  | (_, e0) :: _ =>
    let e := if int then 0 else fins.foldl (fun m q => max m q.2) e0 - 18
    { sum := fins.foldl (fun a q => a + truncAt q.1 e) 0, e := e, non := non }

/-- GroupAdd's partial for accumulator c of group g, whose A elements are given. -/
def partialOf (m : Matrix) (bank g c : Nat) (as : List MOp) : Partial :=
  if c = accA then
    groupPartial (as.any (·.int)) (as.map fun a => prodOf a { oneOp with int := a.int })
  else
    let ix := Matrix.grpIx bank g c
    let fmt := Tbl.get .bf16 m.bfmt ix
    let sx := Tbl.get 127 m.sx ix
    let bs := (List.range 16).map fun i => bOp fmt (Tbl.get 0 m.cell (Matrix.cellIx bank (16 * g + i) c)) sx
    groupPartial ((as.any (·.int)) && bs.any (·.int)) (List.zipWith prodOf as bs)

/-! ## Anchored accumulation (R196, R197) -/

/-- What an addition does: it is made, finds the buffer full, or its high word leaves 32 bits. -/
inductive AddRes where
  | made (m : Matrix)
  | full
  | overflow
deriving DecidableEq, Repr

/-- A partial added to an accumulator. -/
def addTo (m : Matrix) (c : Nat) (sum e : Int) : AddRes :=
  let v := truncAt (Ex.ofIntScaled sum (e - m.anchor.toInt)) 0
  let t := (m.bodyOf c).toInt + v
  let h := (t + 2 ^ 31) / 2 ^ 32
  let nb : BitVec 32 := BitVec.ofInt 32 t
  let m' := { m with body := Tbl.put 0 m.body c nb }
  if h = 0 then .made m'
  else
    let has := (Tbl.find? m.carry c).isSome
    if !has && decide (m.carryCap ≤ m.carry.length) then .full
    else
      let n := (m.high c).toInt + h
      if n < -2 ^ 31 ∨ 2 ^ 31 ≤ n then .overflow
      else .made { m' with carry := if n = 0 then Tbl.del m.carry c else Tbl.set m.carry c (BitVec.ofInt 32 n) }

/-- Where a pass stands after its additions: complete, or held at (g, c). -/
structure AddSt where
  m : Matrix
  flags : BitVec 8
  nfp : Bool
  nfsk : Bool
  held : Option (Nat × Nat × Bool)
deriving DecidableEq, Repr

/-- The non-finite products of a partial merged into an accumulator's class as the partial forms (R195). To merge the same
ones again changes nothing, so a partial that a hold interrupts is merged once. -/
def mergeNon (non : List (NonFin × Bool)) (n : NonFin) : NonFin × Bool :=
  non.foldl
    (fun (x : NonFin × Bool) y =>
      let (k, v) := nfMerge x.1 y.1
      (k, x.2 || v || y.2)) (n, false)

/-- The steps of a pass, group by group: those of a broadcast group are (g, c) for its 129 accumulators, that of a skipped
one is (g, 129). -/
abbrev skipStep : Nat := 129

/-- The steps from some (g, c) on, in order, until an addition holds. -/
def addAll (bank : Nat) (rows : Nat → List MOp) : List (Nat × Nat) → AddSt → AddSt
  | [], a => a
  | (g, c) :: rest, a =>
    if c = skipStep then
      let nf := (List.range 128).any fun c => Tbl.get false a.m.nf (Matrix.grpIx bank g c)
      addAll bank rows rest { a with nfsk := a.nfsk || nf }
    else
      let q := partialOf a.m bank g c (rows g)
      let (n, nv) := mergeNon q.non (a.m.nfcOf c)
      let a := { a with
        m := { a.m with nfc := Tbl.put .finite a.m.nfc c n }
        flags := a.flags ||| flagIf nv flNV
        nfp := a.nfp || !q.non.isEmpty }
      match addTo a.m c q.sum q.e with
      | .full => { a with held := some (g, c, false) }
      | .overflow => { a with m := { a.m with ovf := true }, held := some (g, c, true) }
      | .made m => addAll bank rows rest { a with m := m }

/-! ## Passes (R193, R194) -/

/-- Bit-serial cycles C (Table 11-3). -/
def passCycles (t : Tag) : Nat := if t = .e2m1 then 2 else if t = .bf16 ∨ t = .int then 8 else 4

/-- Lanes per A token L. -/
def passLanes (t : Tag) : Nat := 512 / t.lane 0

/-- Token positions T. -/
def passPos (t : Tag) (n : Nat) : Nat := ceilDiv (16 * n) (passLanes t)

/-- A position's lanes put into the row buffer from row 16·G0 + L·k up to the last row of the pass. -/
def fillRows (t : Tag) (g0 n k : Nat) (v : BitVec 512) (side : BitVec 32) (row : Tbl RowEl) : Tbl RowEl :=
  let l := passLanes t
  (List.range l).foldl
    (fun r i =>
      let at_ := 16 * g0 + l * k + i
      if at_ < 16 * (g0 + n) then
        Tbl.put {} r at_ { code := BitVec.ofNat 16 (laneOf v (t.lane 0) i), scale := blockScale t side i }
      else r) row

/-- A position taken from a raw head (R65): the pass and the row buffer. -/
def takePos (t : Tag) (fc : Nat) (k : Tok) (ps : Pass) (row : Tbl RowEl) : Pass × Tbl RowEl :=
  let z := k.skip != 0
  let n := ps.zeros.length
  ({ ps with zeros := ps.zeros ++ [z], lastTake := fc },
   if z then fillRows t ps.g0 ps.n n 0 0 row else fillRows t ps.g0 ps.n n k.val k.side row)

/-- MFIRE and MSWAP fire. -/
def passFire (opc : BitVec 8) (f : FabF) (s : State) : Out :=
  let x := s.fir
  let fmt := hdrFmta x.cfg.hdr
  let b := x.opB f
  let (n, g0) := (fld b 0 5, fld b 8 4)
  let raw := (x.tl.rawHead f.sa.toNat).getD {}
  if n = 0 ∨ 16 < n ∨ 16 < g0 + n ∨ Tag.ofBits raw.tag ≠ fmt then .next (elementTrap s opc f)
  else
    let fc := s.fc x.p
    let mx := x.tl.mx
    let bank := if opc = 0x89 then mx.bsel.toNat else (b.getLsbD 12).toNat
    let r := newReq opc f x fc fc 0
    let ps : Pass :=
      { id := r.id, word := r.word, slot := x.slot, bank := bank, n := n, g0 := g0, fmt := fmt.bits, pos := passPos fmt n,
        zeros := [], fired := fc, lastTake := fc, g := g0, c := 0, held := false, everHeld := false, nfp := false, nfsk := false, iter := x.iter f }
    let cnt := passPos fmt n
    let all := decide (cnt ≤ raw.skip.toNat)
    let (ps, row) := takePos fmt fc raw ps mx.row
    let ps := if all then { ps with zeros := List.replicate cnt true } else ps
    let s := deferFire f false 1 (passCycles fmt) 0 r s
    let s := if all then
        s.updBuf x.p x.t f.sa.toNat fun d =>
          match d.toks with
          | [] => d
          | k :: ks => { d with toks := { k with skip := k.skip - BitVec.ofNat 6 (cnt - 1) } :: ks }
      else s
    let s := updMx s x.p x.t fun m => { m with pass := some ps, row := row }
    .next (commitEpoch s x.p x.rid)

/-- MFIRE. -/
def execMfire (f : FabF) (s : State) : Out := passFire 0x81 f s

/-- MSWAP: a pass over bank BSEL, which flips when it completes. -/
def execMswap (f : FabF) (s : State) : Out := passFire 0x89 f s

/-- The A format of a pass: FMTA as it stood when the pass fired (R193, R194). -/
def Pass.tagA (ps : Pass) : Tag := Tag.ofBits ps.fmt

/-- The pass of a tile, unless a yield left it there for its task (R198). -/
def Matrix.livePass (m : Matrix) : Option Pass := if m.away.isSome then none else m.pass

/-- The drain of a tile, likewise. -/
def Matrix.liveDrain (m : Matrix) : Option Drain := if m.away.isSome then none else m.drain

/-- The next position of a pass is due in this fc: position k no earlier than fc t + k, one per fc. -/
def posDue (s : State) (p t : Nat) : Option Pass :=
  match (s.tile p t).mx.livePass with
  | none => none
  | some ps =>
    let fc := s.fc p
    let n := ps.zeros.length
    if n < ps.pos ∧ ps.lastTake < fc ∧ ps.fired + n ≤ fc then some ps else none

/-- A position taken; STRAY_TOKEN at a head of a foreign GEN that waits for no swap (R135, log 95), or ELEMENT_TRAP at a
TAG that differs from FMTA. -/
def passTake (s : State) (p t : Nat) : State :=
  match posDue s p t with
  | none => s
  | some ps =>
    let x := firOf s p t
    let fmt := ps.tagA
    let n := (fabFields ps.word).sa.toNat
    match unitHead s x n with
    | none => s
    | some k =>
      if k.gen ≠ x.gen then
        if x.tl.stopped then s else fabricTrap s p t ps.slot ps.word false cSTRAY_TOKEN 0 0 0
      else if Tag.ofBits k.tag ≠ fmt then
        if x.tl.stopped then s else fabricTrap s p t ps.slot ps.word false cELEMENT 0 0 0
      else
        let (ps, row) := takePos fmt (s.fc p) k ps x.tl.mx.row
        let (prg, s) := deqIn s p t n
        let s := updMx s p t fun m => { m with pass := some ps, row := row }
        markBusy (s.updPad p fun y => { y with prg := y.prg + prg.toNat }) p x.rid

/-- MFIRE_POSITION_TAKE. -/
def execMfirePositionTake (p : Fin 32) (t : Fin 144) (s : State) : Out := .next (passTake s p t)

/-- Groups of a pass that came from an implied zero. -/
def groupSkipped (fmt : Tag) (ps : Pass) (g : Nat) : Bool := ps.zeros.getD (16 * (g - ps.g0) / passLanes fmt) false

/-- The groups a pass broadcasts, ascending. -/
def castGroups (fmt : Tag) (ps : Pass) : List Nat :=
  ((List.range ps.n).map (ps.g0 + ·)).filter fun g => !groupSkipped fmt ps g

/-- A pass completes: BSEL of MSWAP, the matrix-control token, the flag. -/
def passDone (s : State) (p t : Nat) (ps : Pass) : State :=
  let opc := (fabOpc ps.word).toNat
  let ng := (castGroups ps.tagA ps).length
  let v := mxPayload opc ng ps.nfp (ng == 0) ps.nfsk ps.everHeld
  let fc := s.fc p
  let s := updMx s p t fun m => { m with pass := none, last := some fc, bsel := if opc = 0x89 then !m.bsel else m.bsel }
  match (s.tile p t).req ps.id with
  | none => s
  | some r => memFinish s p t r false none (ps.nfp || ps.nfsk) 0 [mxTok v]

/-- An uncorrectable error in a cell the pass reads (R319). -/
def badCellOf (tl : Tile) (ps : Pass) (gs : List Nat) : Option Nat :=
  tl.badCells.find? fun n => n / 32768 == ps.bank && gs.contains (n / 128 % 256 / 16)

/-- The additions of a pass from where it stands; one that cannot be made holds it (R197). -/
def passAdd (s : State) (p t : Nat) (ps : Pass) : State :=
  let x := firOf s p t
  let fmt := ps.tagA
  let gs := castGroups fmt ps
  match badCellOf x.tl ps gs with
  | some n =>
    let s := updMx s p t fun m => { m with pass := some { ps with held := true } }
    if x.tl.stopped then s
    else fabricTrap s p t ps.slot ps.word false cECC_UE 0 (BitVec.ofNat 64 n) 0
  | none =>
    let todo := (((List.range ps.n).map (ps.g0 + ·)).filter fun g => decide (ps.g ≤ g)).flatMap fun g =>
      if groupSkipped fmt ps g then [(g, skipStep)]
      else ((List.range 129).filter fun c => decide (ps.g < g) || decide (ps.c ≤ c)).map fun c => (g, c)
    let rows := fun g => (List.range 16).map fun i => aOp fmt (Tbl.get {} x.tl.mx.row (16 * g + i))
    let r := addAll ps.bank rows todo { m := x.tl.mx, flags := 0, nfp := ps.nfp, nfsk := ps.nfsk, held := none }
    let ps := { ps with nfp := r.nfp, nfsk := r.nfsk }
    let s := s.updTile p t fun tl => { tl with flags := tl.flags ||| r.flags ||| flagIf r.nfsk flNFSKIP, mx := r.m }
    let s := markBusy s p x.rid
    match r.held with
    | none => passDone s p t ps
    | some (g, c, high) =>
      let first := !ps.held || ps.g != g || ps.c != c
      let s := updMx s p t fun m => { m with pass := some { ps with g := g, c := c, held := true, everHeld := true } }
      let info := BitVec.ofNat 64 (g + c * 16)
      if high then
        if x.tl.stopped then s else fabricTrap s p t ps.slot ps.word false cCARRY_OVF 0 info 0
      else if !r.m.carryPol && r.m.tagen then
        if first then setRegionTag s p x.rid r.m.ctag.toNat else s
      else if x.tl.stopped then s
      else fabricTrap s p t ps.slot ps.word false cCARRY_FULL 0 info 0

/-- The additions of a pass are due: at the end of the later of fc t + C − 1 and the fc of its last position; a pass of
implied zeros alone, at the end of its firing fc. -/
def passDue (s : State) (p t : Nat) : Option Pass :=
  match (s.tile p t).mx.livePass with
  | none => none
  | some ps =>
    let full := ps.zeros.length == ps.pos
    let all := full && ps.lastTake == ps.fired && ps.zeros.all id
    let due := if all then ps.fired else max (ps.fired + passCycles ps.tagA - 1) ps.lastTake
    if full ∧ !ps.held ∧ due ≤ s.fc p then some ps else none

/-- MATRIX_PASS_COMPLETE. -/
def execMatrixPassComplete (p : Fin 32) (t : Fin 144) (s : State) : Out :=
  match passDue s p t with
  | some ps => .next (passAdd s p t ps)
  | none => .next s

/-- The work of a pass that is due in this fc, before an instruction that reads what it leaves (R189). -/
def passFirst (s : State) (p t : Nat) : State :=
  let s := passTake s p t
  match passDue s p t with
  | some ps => passAdd s p t ps
  | none => s

/-- A held pass tries its addition again while its region runs (R197). -/
def holdDue (s : State) (p t : Nat) : Option Pass :=
  let x := firOf s p t
  match x.tl.mx.livePass with
  | none => none
  | some ps => if ps.held ∧ !x.tl.stopped ∧ regionRuns s p x.reg then some ps else none

/-- CARRY_HOLD_RESUME. -/
def execCarryHoldResume (p : Fin 32) (t : Fin 144) (s : State) : Out :=
  match holdDue s p t with
  | some ps => .next (passAdd s p t ps)
  | none => .next s

/-! ## Draining (R202, R203) -/

/-- The columns and lane format of OF. -/
def drainFmt (d : BitVec 32) : Tag :=
  match fld d 8 2 with
  | 0 => .fp32
  | 1 => .bf16
  | 2 => .e4m3
  | _ => .e5m2

/-- The pairs of a spill token added to X. -/
def spillAdd (x : Tbl Int) (v : BitVec 512) : Tbl Int :=
  (List.range 8).foldl
    (fun x j =>
      let id := laneOf v 32 (2 * j)
      if id ≤ 128 then Tbl.set x id (Tbl.get 0 x id + sext (laneOf v 32 (2 * j + 1)) 32) else x) x

/-- MDRN: the drained columns are read, and freed under Z and ZA, in the firing fc. -/
def execMdrn (f : FabF) (s : State) : Out :=
  let x := s.fir
  let b := x.opB f
  let fc := s.fc x.p
  let mx := x.tl.mx
  let r := newReq 0x84 f x fc (fc + 7) 0
  let h := x.tl.head f.sa.toNat
  let spill := f.pd.getLsbD 0
  let d : Drain :=
    { id := r.id, word := r.word, slot := x.slot, desc := b, fired := fc, body := mx.body, nfc := mx.nfc, carry := mx.carry,
      spill := if spill then spillAdd [] h.val else [],
      spillDone := if !spill || h.eos then some fc else none, iter := x.iter f, pos := Tbl.get 0 x.tl.pos x.slot }
  let n := 512 / (drainFmt b).lane 0
  let cols := (if b.getLsbD 15 then (List.range n).map (fld b 0 7 + ·) |>.filter (· < 128) else []) ++
    (if b.getLsbD 16 then [accA] else [])
  let s := deferFire f false 1 8 0 r s
  let s := updMx s x.p x.t fun m =>
    { m with
      drain := some d
      body := cols.foldl (fun t c => Tbl.put 0 t c 0) m.body
      nfc := cols.foldl (fun t c => Tbl.put .finite t c .finite) m.nfc
      carry := cols.foldl (fun t c => Tbl.del t c) m.carry }
  .next (if cols.isEmpty then s else commitEpoch s x.p x.rid)

/-- A drain that takes a spill token in this fc. -/
def spillDue (s : State) (p t : Nat) : Option (Drain × Tok) :=
  let x := firOf s p t
  match x.tl.mx.liveDrain with
  | none => none
  | some d =>
    if d.spillDone.isSome ∨ s.fc p ≤ d.fired then none
    else (unitHead s x (fabFields d.word).sa.toNat).map fun k => (d, viewTok k)

/-- MDRN_SPILL_TOKEN: a spill token is taken; STRAY_TOKEN at a head of a foreign GEN that waits for no swap (R135, log
95). -/
def execMdrnSpillToken (p : Fin 32) (t : Fin 144) (s : State) : Out :=
  match spillDue s p t with
  | none => .next s
  | some (d, k) =>
    let x := firOf s p t
    if k.gen ≠ x.gen then
      .next (if x.tl.stopped then s else fabricTrap s p t d.slot d.word false cSTRAY_TOKEN 0 0 0)
    else
    let (prg, s) := deqIn s p t (fabFields d.word).sa.toNat
    let d := { d with spill := spillAdd d.spill k.val, spillDone := if k.eos then some (s.fc p) else none }
    let s := updMx s p t fun m => { m with drain := some d }
    .next (markBusy (s.updPad p fun y => { y with prg := y.prg + prg.toNat }) p (firOf s p t).rid)

/-- The value of an accumulator with its spill: NFC when it is not finite. -/
def accVal (d : Drain) (anchor : Int) (c : Nat) : Ex :=
  match Tbl.get .finite d.nfc c with
  | .nan => .nan
  | .pinf => .inf false
  | .ninf => .inf true
  | .finite =>
    let h := (Tbl.get 0 d.carry c).toInt + Tbl.get 0 d.spill c
    Ex.ofIntScaled (h * 2 ^ 32 + (Tbl.get 0 d.body c).toInt) anchor

/-- Lane j of a drain: its code and flags. -/
def drainLane (x : Fir) (d : Drain) (j : Nat) : Nat × BitVec 8 :=
  let mx := x.tl.mx
  let c := fld d.desc 0 7 + j
  if 127 < c then (0, 0)
  else
    let a := mx.anchor.toInt
    let v := accVal d a c
    let zp := (Tbl.get 0 mx.zp c).toNat
    let (v, nv1) :=
      if zp = 0 then (v, false)
      else
        let w := match accVal d a accA with
          | .nan => Ex.nan
          | .inf s => .inf s
          | .fin s n e => .fin s (n * zp) e
        Ex.add false v w.neg
    let (y, nv2) := Ex.mul v (fpFP32.dec (mx.scaleOf c).toNat)
    let r := srWord x.reg.seed (srCounter d.pos d.slot (tileRow x.t - x.reg.row0) (tileCol x.t - x.reg.col0) j)
    let ctx : RndCtx := { mode := x.modeOf (fld d.desc 12 3), stoch := x.stoch, r := r }
    match (drainFmt d.desc).fp with
    | some fp =>
      let (code, fl) := fp.round ctx y
      (code, fl ||| flagIf (nv1 || nv2) flNV)
    | none => (0, 0)

/-- A drain is due: at the end of fc t + 7, or of the fc of its last spill token. -/
def drainDue (s : State) (p t : Nat) : Option Drain :=
  match (s.tile p t).mx.liveDrain with
  | none => none
  | some d =>
    match d.spillDone with
    | some u => if max (d.fired + 7) u ≤ s.fc p then some d else none
    | none => none

/-- MDRN_COMPLETE. -/
def execMdrnComplete (p : Fin 32) (t : Fin 144) (s : State) : Out :=
  match drainDue s p t with
  | none => .next s
  | some d =>
    let x := firOf s p t
    let f := fabFields d.word
    let fc := s.fc p
    let tag := drainFmt d.desc
    let w := tag.lane 0
    let ls := (List.range (512 / w)).map (drainLane x d ·)
    let v := ofLanes w (ls.map (·.1))
    let fl := ls.foldl (fun a l => a ||| l.2) 0
    let nonfin := match tag.fp with
      | some fp => ls.any fun l => !(fp.dec l.1).isFin
      | none => false
    let s := s.updTile p t fun tl =>
      { writeDst tl f.dst none (some v) with flags := tl.flags ||| fl, mx := { tl.mx with drain := none, last := some fc } }
    match (s.tile p t).req d.id with
    | none => .next s
    | some r => .next (memFinish s p t r false (some (v.setWidth 32)) nonfin 0 [{ dat := true, val := v, tag := tag.bits }])

/-! ## The other instructions (R204 to R207) -/

/-- MANCH. -/
def execManch (f : FabF) (s : State) : Out :=
  let x := s.fir
  mxSimple 0x82 f 1 false true s fun m => { m with anchor := (x.opB f).setWidth 10 }

/-- MZERO. -/
def execMzero (f : FabF) (s : State) : Out :=
  mxSimple 0x83 f 1 false true s fun m => { m with body := [], nfc := [], carry := [], ovf := false, bsel := false }

/-- MSCL. -/
def execMscl (f : FabF) (s : State) : Out :=
  let x := s.fir
  let (a, b) := (x.opA f, x.opB f)
  let cols := if b.getLsbD 16 then List.range 128 else [fld b 0 7]
  mxSimple 0x85 f 1 false true s fun m =>
    { m with
      scale := cols.foldl (fun t c => Tbl.put 0x3F800000 t c a) m.scale
      zp := cols.foldl (fun t c => Tbl.put 0 t c (b.extractLsb' 8 8)) m.zp }

/-- MCARRY cfg. -/
def execMcarryCfg (f : FabF) (s : State) : Out :=
  let x := s.fir
  let b := x.opB f
  mxSimple 0x87 f 1 false true (passFirst s x.p x.t) fun m =>
    { m with
      carryCap := if fld b 0 6 = 0 then 64 else fld b 0 6
      carryPol := b.getLsbD 8, tagen := b.getLsbD 9, ctag := b.extractLsb' 10 6 }

/-- MCARRY cnt. -/
def execMcarryCnt (f : FabF) (s : State) : Out :=
  let x := s.fir
  let s := passFirst s x.p x.t
  let r : BitVec 32 := BitVec.ofNat 32 (s.tile x.p x.t).mx.carry.length
  .next (applyEffect f (resEffect f x r (r != 0)) s)

/-- The spill tokens of a list of entries: 8 pairs each, (0xFFFFFFFF, 0) past the last; the last carries EOS. -/
def spillToks : Nat → List (Nat × BitVec 32) → List Tok
  | 0, _ => []
  | n + 1, l =>
    let pairs := (l.take 8).flatMap fun e => [e.1, e.2.toNat]
    let pad := (List.replicate (8 - (l.take 8).length) [0xFFFFFFFF, 0]).flatten
    let k : Tok := { dat := true, val := ofLanes 32 (pairs ++ pad), eos := (l.drop 8).isEmpty }
    if (l.drop 8).isEmpty then [k] else k :: spillToks n (l.drop 8)

/-- MCARRY exp: every entry leaves the buffer; the spill tokens then leave one per fc, the first of them into the place
reserved for it and no earlier than this fc; each is charged as it leaves (R210). -/
def execMcarryExp (f : FabF) (s : State) : Out :=
  let x := s.fir
  let s := passFirst s x.p x.t
  let mx := (s.tile x.p x.t).mx
  let toks := (spillToks 17 mx.carry).map fun k => { k with gen := x.gen, iter := x.iter f }
  let r := { newReq 0x87 f x (s.fc x.p) (s.fc x.p) 0 with st := .performed }
  let s := deferFire f false toks.length 0 0 r s
  let s := s.updTile x.p x.t fun tl =>
    { tl with mx := { tl.mx with carry := [] }, outq := tl.outq.map fun e => if e.id = r.id then { e with paced := true } else e }
  .next (commitEpoch (giveToks s x.p x.t r.id toks) x.p x.rid)

/-- MCARRY_EXP_TOKEN: a spill token leaves as the outputs allow, charged 1. -/
def execMcarryExpToken (p : Fin 32) (t : Fin 144) (s : State) : Out :=
  let tl := s.tile p t
  let (id, s) := emitPaced s p t
  match id with
  | none => .next s
  | some id =>
    let x := firOf s p t
    let ib := ((tl.req id).any fun r => fabOpc r.word == 0x87).toNat
    .next (markBusy (chargeRegion (s.updTile p t Tile.gathDone) p x.rid ib 0) p x.rid)

/-- The status word (Table 11-6). -/
def mxStatus (m : Matrix) : BitVec 32 :=
  let held := (m.pass.map (·.held)).getD false
  BitVec.ofNat 32
    (m.carry.length + (m.pass.isSome || m.drain.isSome).toNat * 2 ^ 11 + held.toNat * 2 ^ 12 + (!m.nfc.isEmpty).toNat * 2 ^ 13 +
      m.bsel.toNat * 2 ^ 14 + m.ovf.toNat * 2 ^ 15 + ((m.anchor.signExtend 16).toNat) * 2 ^ 16)

/-- MSTAT. -/
def execMstat (f : FabF) (s : State) : Out :=
  let x := s.fir
  let s := passFirst s x.p x.t
  let m := (s.tile x.p x.t).mx
  let b := x.opB f
  let c := fld b 0 8
  let r := if !b.getLsbD 8 then mxStatus m else if 128 < c then 0 else if b.getLsbD 9 then m.high c else m.bodyOf c
  .next (applyEffect f (resEffect f x r ((m.pass.map (·.held)).getD false)) s)

/-- MCPOP (R199): the entry with the lowest number leaves the buffer. -/
def mcpop (m : Matrix) : BitVec 64 × Matrix :=
  match m.carry with
  | [] => (0xFFFFFFFF, m)
  | (c, h) :: rest => (h ++ BitVec.ofNat 32 c, { m with carry := rest })

end Sys2Proof.Machine
end

