-- ==== Sys2Proof/Machine/Vector.lean ====
section
/-! DEFINITION. The vector and format class (R213 to R233, R389): 0xA0 to 0xBF. -/

namespace Sys2Proof.Machine

open Host (Outcome)

/-! ## Lanes and operands (R213, R214) -/

/-- The lane format. -/
def Fir.lf (x : Fir) : Tag := hdrFmta x.cfg.hdr
def Fir.lw (x : Fir) : BitVec 2 := hdrLw x.cfg.hdr
/-- Lane width W and lane count L. -/
def Fir.lnW (x : Fir) : Nat := x.lf.lane x.lw
def Fir.lnL (x : Fir) : Nat := 512 / x.lnW

/-- A vector as an instruction reads it: 512 bits, the side bits and TAG of a head, and whether it is one. -/
structure VSrc where
  v : BitVec 512
  side : BitVec 32
  tag : Tag
  head : Bool

/-- One code in every lane of w bits. -/
def bcast (w c : Nat) : BitVec 512 := ofLanes w (List.replicate (512 / w) c)

/-- A vector source, or a scalar broadcast to every lane. -/
def Fir.vsrc (x : Fir) (c : BitVec 4) (k : Bool) : VSrc :=
  let plain := fun v => ({ v := v, side := 0, tag := x.lf, head := false } : VSrc)
  if k then plain (bcast x.lnW (x.cfg.k (c.toNat % 8)).toNat)
  else if 12 ≤ c.toNat then plain (x.tl.vc (c.toNat - 12))
  else if c.toNat < 4 ∧ (x.tl.head c.toNat).dat then
    let h := x.tl.head c.toNat
    { v := h.val, side := h.side, tag := Tag.ofBits h.tag, head := true }
  else plain (bcast x.lnW (x.opnd c).toNat)

def Fir.vA (x : Fir) (f : FabF) : VSrc := x.vsrc f.sa false
def Fir.vB (x : Fir) (f : FabF) : VSrc := x.vsrc f.sb f.k

/-- A head that must carry a TAG carries another. -/
def VSrc.wrong (a : VSrc) (t : Tag) : Bool := a.head && a.tag != t

/-- The lane codes of a vector. -/
def codesOf (w : Nat) (v : BitVec 512) : List Nat := (List.range (512 / w)).map (laneOf v w)

/-- v[DST]. -/
def Fir.vD (x : Fir) (f : FabF) : BitVec 512 := x.tl.vc (f.dst.toNat - 8)

/-- The value of a lane: a head's block scale is included, a v register carries none (R54, R213). -/
def VSrc.val (a : VSrc) (lw : BitVec 2) (i : Nat) : Ex :=
  if a.head then laneVal a.tag lw a.v a.side i
  else
    match a.tag.fp with
    | some fp => fp.dec (laneOf a.v (a.tag.lane lw) i)
    | none => laneVal a.tag lw a.v 0 i

/-- The values of all lanes. A Q4 lane under a Q4I that needs a zero point, a scale or a codebook that the instruction
does not name is a free value (log 17). -/
def VSrc.vals (a : VSrc) (x : Fir) (s : State) : List Ex × State :=
  let n := 512 / a.tag.lane x.lw
  if a.tag = .q4 ∧ hdrQ4i x.cfg.hdr ≠ 0 then
    ((List.range n).map fun i => fpFP32.dec ((Config.freeWord (s.free + i)).toNat % 2 ^ 32),
     { s with free := s.free + n })
  else ((List.range n).map (a.val x.lw), s)

/-! ## Results (R215, R216) -/

/-- A vector result. -/
def vecEffect (f : FabF) (x : Fir) (v : BitVec 512) (tag : Tag) (side : BitVec 32) (flag : Bool) (flags : BitVec 8) :
    Effect :=
  { vres := some v, sends := toAll f.om (x.vecTok f tag v side), nonzero := v != 0, flag := flag, ib := 2, flags := flags }

def vecDone (f : FabF) (x : Fir) (s : State) (v : BitVec 512) (flag : Bool) (flags : BitVec 8 := 0) : Out :=
  .next (applyEffect f (vecEffect f x v x.lf 0 flag flags) s)

/-- A scalar result (R98). -/
def scaDone (f : FabF) (x : Fir) (s : State) (r : BitVec 32) (flag : Bool) (flags : BitVec 8) : Out :=
  .next (applyEffect f { resEffect f x r flag with ib := 2, flags := flags } s)

/-- Values rounded to a format, lane i with the random word of lane `lane0 + i`: codes and flags. -/
def roundLanes (x : Fir) (fp : Fp) (mode : Rnd) (lane0 : Nat) (l : List Ex) : List Nat × BitVec 8 :=
  let r := l.zipIdx.map fun e => fp.round (x.rctx mode (lane0 + e.2)) e.1
  (r.map (·.1), r.foldl (fun a c => a ||| c.2) 0)

/-- Some code is an infinity or a NaN. -/
def anyNonFin (fp : Fp) (l : List Nat) : Bool := l.any fun c => !(fp.dec c).isFin

/-- The lane format as a floating-point format (FP32 or BF16 where Table 12-1 asks for it). -/
def Fir.lfp (x : Fir) : Fp := x.lf.fp.getD fpFP32

/-! ## Floating-point lanes (R218) -/

/-- A floating-point lane result: rounding in the header's mode, NV where the entry names it. -/
def fpDone (f : FabF) (x : Fir) (s : State) (l : List (Ex × Bool)) : Out :=
  let (cs, fl) := roundLanes x x.lfp x.rndMode 0 (l.map (·.1))
  vecDone f x s (ofLanes x.lnW cs) (anyNonFin x.lfp cs) (fl ||| flagIf (l.any (·.2)) flNV)

/-- A two-source lane instruction. -/
def vfp2 (opc : BitVec 8) (f : FabF) (s : State) (g : Fir → Nat → Ex → Ex → Ex × Bool) : Out :=
  let x := s.fir
  let (a, b) := (x.vA f, x.vB f)
  if a.wrong x.lf ∨ b.wrong x.lf then .next (elementTrap s opc f)
  else fpDone f x s ((List.range x.lnL).map fun i => g x i (a.val x.lw i) (b.val x.lw i))

/-- A one-source lane instruction. -/
def vfp1 (opc : BitVec 8) (f : FabF) (s : State) (g : Ex → Ex × Bool) : Out :=
  let x := s.fir
  let b := x.vB f
  if b.wrong x.lf then .next (elementTrap s opc f)
  else fpDone f x s ((List.range x.lnL).map fun i => g (b.val x.lw i))

def Fir.rdn (x : Fir) : Bool := x.rndMode == .rdn

/-- VADD. -/
def execVadd (f : FabF) (s : State) : Out := vfp2 0xA0 f s fun x _ a b => Ex.add x.rdn a b

/-- VSUB adds −y. -/
def execVsub (f : FabF) (s : State) : Out := vfp2 0xA1 f s fun x _ a b => Ex.add x.rdn a b.neg

/-- VMUL. -/
def execVmul (f : FabF) (s : State) : Out := vfp2 0xA2 f s fun _ _ a b => Ex.mul a b

/-- VFMA, with one rounding. -/
def execVfma (f : FabF) (s : State) : Out :=
  vfp2 0xA3 f s fun x i a b =>
    let (q, n1) := Ex.mul a b
    let (z, n2) := Ex.add x.rdn q (x.lfp.dec (laneOf (x.vD f) x.lnW i))
    (z, n1 || n2)

/-- The smaller of two values: either NaN gives NaN, −0 < +0. -/
def exMin (a b : Ex) : Ex :=
  if a.isNan ∨ b.isNan then .nan
  else if Ex.lt a b then a
  else if Ex.lt b a then b
  else if a.neg? then a else b

/-- The larger, alike. -/
def exMax (a b : Ex) : Ex :=
  if a.isNan ∨ b.isNan then .nan
  else if Ex.lt a b then b
  else if Ex.lt b a then a
  else if a.neg? then b else a

/-- VMIN. -/
def execVmin (f : FabF) (s : State) : Out := vfp2 0xA4 f s fun _ _ a b => (exMin a b, false)

/-- VMAX. -/
def execVmax (f : FabF) (s : State) : Out := vfp2 0xA5 f s fun _ _ a b => (exMax a b, false)

/-- VABS. -/
def execVabs (f : FabF) (s : State) : Out := vfp1 0xA6 f s fun y => (y.abs, false)

/-- VNEG. -/
def execVneg (f : FabF) (s : State) : Out := vfp1 0xA7 f s fun y => (y.neg, false)

/-- VEX2: 2^y. -/
def execVex2 (f : FabF) (s : State) : Out :=
  vfp1 0xA8 f s fun y => match y with
    | .nan => (.nan, false)
    | .inf true => (.fin false 0 1, false)
    | .inf false => (.inf false, false)
    | .fin g n d => (exp2Ex g n d, false)

/-- VLG2: log2 y. -/
def execVlg2 (f : FabF) (s : State) : Out :=
  vfp1 0xA9 f s fun y => match y with
    | .nan => (.nan, false)
    | .inf g => if g then (.nan, true) else (.inf false, false)
    | .fin g n d => if n = 0 then (.inf true, false) else if g then (.nan, true) else (log2Ex n d, false)

/-- VRCP: 1/y. -/
def execVrcp (f : FabF) (s : State) : Out :=
  vfp1 0xAA f s fun y => match y with
    | .nan => (.nan, false)
    | .inf g => (.fin g 0 1, false)
    | .fin g n d => if n = 0 then (.inf g, false) else (.fin g d n, false)

/-- VRSQ: 1/√y. -/
def execVrsq (f : FabF) (s : State) : Out :=
  vfp1 0xAB f s fun y => match y with
    | .nan => (.nan, false)
    | .inf g => if g then (.nan, true) else (.fin false 0 1, false)
    | .fin g n d => if n = 0 then (.inf g, false) else if g then (.nan, true) else (rsqrtEx n d, false)

/-- VSCL: x × 2^n. Beyond ±1,000 every result is that of ±1,000: it lies outside every range alike. -/
def execVscl (f : FabF) (s : State) : Out :=
  let x := s.fir
  let a := x.vA f
  if a.wrong x.lf then .next (elementTrap s 0xAC f)
  else
    let n := (clampInt (-1000) 1000 (x.opB f).toInt).1
    fpDone f x s ((List.range x.lnL).map fun i => ((a.val x.lw i).scale n, false))

/-! ## Compares and lane moves (R219, R220) -/

/-- The condition of VCMP. -/
def vcond (c : Nat) (a b : Ex) : Bool :=
  let un := a.isNan || b.isNan
  match c with
  | 0 => !un && Ex.eq a b
  | 1 => un || !Ex.eq a b
  | 2 => !un && Ex.lt a b
  | 3 => !un && !Ex.lt b a
  | 4 => !un && Ex.lt b a
  | 5 => !un && !Ex.lt a b
  | 6 => un
  | _ => !un

/-- A word from its bits, bit 0 first. -/
def ofBits (l : List Bool) : BitVec 32 := BitVec.ofNat 32 (l.foldr (fun b n => b.toNat + 2 * n) 0)

/-- VCMP. -/
def execVcmp (f : FabF) (s : State) : Out :=
  let x := s.fir
  let (a, b) := (x.vA f, x.vB f)
  if a.wrong x.lf ∨ b.wrong x.lf then .next (elementTrap s 0xAD f)
  else
    let r := ofBits ((List.range x.lnL).map fun i => vcond f.pd.toNat (a.val x.lw i) (b.val x.lw i))
    scaDone f x s r (r != 0) 0

/-- VSEL. -/
def execVsel (f : FabF) (s : State) : Out :=
  let x := s.fir
  let (a, b) := (x.vA f, x.vB f)
  if a.wrong x.lf ∨ b.wrong x.lf then .next (elementTrap s 0xAE f)
  else
    let m := x.tl.lc f.pd.toNat
    let l := (List.range x.lnL).map fun i =>
      laneOf (if m.getLsbD (i * 32 / x.lnL) then a.v else b.v) x.lnW i
    vecDone f x s (ofLanes x.lnW l) false

/-- A result of codes moved, whose flag is res ≠ 0. -/
def moveDone (f : FabF) (x : Fir) (s : State) (v : BitVec 512) : Out := vecDone f x s v (v != 0)

/-- VSHF. -/
def execVshf (f : FabF) (s : State) : Out :=
  let x := s.fir
  let a := x.vA f
  let b := x.opB f
  let n := fld b 8 7
  let m := fld b 0 2
  if a.wrong x.lf ∨ (m = 2 ∧ x.lnL ≤ n) ∨ (m = 3 ∧ x.lnL ≤ 2 ^ n) then .next (elementTrap s 0xAF f)
  else
    let from_ := fun i =>
      if m = 0 then (i + n) % x.lnL
      else if m = 1 then x.lnL - 1 - i
      else if m = 2 then n
      else i ^^^ 2 ^ n
    moveDone f x s (ofLanes x.lnW ((List.range x.lnL).map fun i => laneOf a.v x.lnW (from_ i)))

/-- VBCST. -/
def execVbcst (f : FabF) (s : State) : Out :=
  let x := s.fir
  moveDone f x s (bcast x.lnW (x.opB f).toNat)

/-- The descriptor of VPACK and VUNPK: off and n, or none when the lanes leave the token. -/
def packFields (x : Fir) (b : BitVec 32) : Option (Nat × Nat) :=
  let (off, n) := (fld b 0 7, fld b 8 7)
  if x.lnL < off + n + 1 then none else some (off, n)

/-- VPACK. -/
def execVpack (f : FabF) (s : State) : Out :=
  let x := s.fir
  let a := x.vA f
  match packFields x (x.opB f), a.wrong x.lf with
  | some (off, n), false =>
    moveDone f x s (ofLanes x.lnW ((List.range x.lnL).map fun i =>
      if off ≤ i ∧ i ≤ off + n then laneOf a.v x.lnW (i - off) else laneOf (x.vD f) x.lnW i))
  | _, _ => .next (elementTrap s 0xBA f)

/-- VUNPK. -/
def execVunpk (f : FabF) (s : State) : Out :=
  let x := s.fir
  let a := x.vA f
  match packFields x (x.opB f), a.wrong x.lf with
  | some (off, n), false =>
    moveDone f x s (ofLanes x.lnW ((List.range x.lnL).map fun i =>
      if i ≤ n then laneOf a.v x.lnW (off + i) else 0))
  | _, _ => .next (elementTrap s 0xBB f)

/-- VLOG reads the 512 data bits whatever the TAG. -/
def execVlog (f : FabF) (s : State) : Out :=
  let x := s.fir
  let (a, b) := ((x.vA f).v, (x.vB f).v)
  moveDone f x s (match f.pd.toNat with
    | 0 => a &&& b
    | 1 => a ||| b
    | 2 => a ^^^ b
    | _ => a &&& ~~~b)

/-! ## Integer lanes (R221) -/

/-- An integer lane instruction: its lanes' exact values, clamped into a range when there is one. -/
def vint (opc : BitVec 8) (f : FabF) (s : State) (g : Nat → Nat → Nat → Int) (rng : Nat → Option (Int × Int)) : Out :=
  let x := s.fir
  let (a, b) := (x.vA f, x.vB f)
  if a.wrong x.lf ∨ b.wrong x.lf then .next (elementTrap s opc f)
  else
    let w := x.lnW
    let l : List (Int × Bool) := (List.range x.lnL).map fun i =>
      let v := g w (laneOf a.v w i) (laneOf b.v w i)
      match rng w with
      | none => (v, false)
      | some (lo, hi) => clampInt lo hi v
    let c := l.any (·.2)
    vecDone f x s (ofLanes w (l.map fun e => (Int.emod e.1 (2 ^ w : Nat)).toNat)) c (flagIf c flSAT)

/-- The signed range of w bits. -/
def signedRange (w : Nat) : Int × Int := (-(2 ^ (w - 1) : Nat), (2 ^ (w - 1) : Nat) - 1)

/-- VIADD. -/
def execViadd (f : FabF) (s : State) : Out :=
  let m := f.pd.toNat / 2
  vint 0xBD f s
    (fun w a b =>
      let (y, z) := if m = 1 then (sext a w, sext b w) else ((a : Int), (b : Int))
      if f.pd.getLsbD 0 then y - z else y + z)
    (fun w => if m = 1 then some (signedRange w) else if m = 2 then some (0, (2 ^ w : Nat) - 1) else none)

/-- VIMUL. -/
def execVimul (f : FabF) (s : State) : Out :=
  vint 0xBE f s
    (fun w a b => match f.pd.toNat with
      | 0 => (a * b : Nat)
      | 1 => sext a w * sext b w / (2 ^ w : Nat)
      | 2 => (a * b / 2 ^ w : Nat)
      | _ => sext a w * sext b w)
    (fun w => if f.pd = 3 then some (signedRange w) else none)

/-! ## Conversion (R222 to R225) -/

/-- A value rounded to an integer of w bits and clamped to the signed range; a NaN gives 0 with NV (R222, R227). -/
def toIntLane (c : RndCtx) (w : Nat) (v : Ex) : Nat × BitVec 8 :=
  let (lo, hi) := signedRange w
  let enc := fun (n : Int) => (n % (2 ^ w : Nat)).toNat
  match v with
  | .nan => (0, flNV)
  | .inf s => (enc (if s then lo else hi), flSAT)
  | .fin s n d =>
    let (r, nx) := roundInt c s n d
    let (r, sat) := clampInt lo hi r
    (enc r, flagIf nx flNX ||| flagIf sat flSAT)

/-- VCVT. -/
def execVcvt (f : FabF) (s : State) : Out :=
  let x := s.fir
  let a := x.vA f
  let b := x.opB f
  let t := Tag.ofBits (b.extractLsb' 0 3)
  let mode := x.modeOf (fld b 4 3)
  let w := t.lane x.lw
  let lout := 512 / w
  let lin := 512 / a.tag.lane x.lw
  let p := fld b 8 4
  let no := fun (t : Tag) => t == .q4 || t == .ps8
  if no t ∨ no a.tag ∨ lin ≤ p * lout then .next (elementTrap s 0xB3 f)
  else
    let l := (List.range lout).map fun i =>
      if lin ≤ p * lout + i then (0, 0)
      else
        let v := a.val x.lw (p * lout + i)
        match t.fp with
        | some fp => fp.round (x.rctx mode i) v
        | none => toIntLane (x.rctx mode i) w v
    let fl := l.foldl (fun m c => m ||| c.2) 0
    let flag := match t.fp with
      | some fp => anyNonFin fp (l.map (·.1))
      | none => fl &&& (flSAT ||| flNV) != 0
    .next (applyEffect f
      (vecEffect f x (ofLanes w (l.map (·.1))) t (if t = .e2m1 then 0x7F7F7F7F else 0) flag fl) s)

/-- VSR. -/
def execVsr (f : FabF) (s : State) : Out :=
  let x := s.fir
  let b := x.vB f
  match (Tag.ofBits f.pd).fp, b.wrong .fp32 with
  | some fp, false =>
    let (cs, fl) := roundLanes x fp .sr 0 ((List.range 16).map fun i => fpFP32.dec (laneOf b.v 32 i))
    let out := cs.map fun c => (fpFP32.round { mode := .rne } (fp.dec c)).1
    vecDone f x s (ofLanes 32 out) (anyNonFin fpFP32 out) fl
  | _, _ => .next (elementTrap s 0xB8 f)

/-- VLUT. -/
def execVlut (f : FabF) (s : State) : Out :=
  let x := s.fir
  let a := x.vA f
  let b := x.opB f
  let p := fld b 0 3
  if a.wrong .q4 ∨ 128 ≤ p * x.lnL then .next (elementTrap s 0xB6 f)
  else
    let q4i := hdrQ4i x.cfg.hdr
    let val := fun (q : Nat) =>
      if q4i = 2 then fpBF16.dec (laneOf (x.tl.vc (f.pd.toNat % 4)) 16 q)
      else if q4i = 1 then (Ex.mul (Ex.ofInt ((q : Int) - (fld b 8 8 : Nat))) (fpFP32.dec (x.tl.lc f.pd.toNat).toNat)).1
      else Ex.ofInt (sext q 4)
    fpDone f x s ((List.range x.lnL).map fun i => (val (laneOf a.v 4 (p * x.lnL + i)), false))

/-- VPS8 with ENC = 0. Its multiplier carries TAG PS8, which no v register does (R213, R225; log 98). -/
def execVps8Mul (f : FabF) (s : State) : Out :=
  let x := s.fir
  let (a, b) := (x.vA f, x.vB f)
  if a.wrong x.lf ∨ !b.head ∨ b.wrong .ps8 then .next (elementTrap s 0xB7 f)
  else
    fpDone f x s ((List.range x.lnL).map fun i =>
      ((Ex.mul (a.val x.lw i) (ps8Value (laneOf b.v 8 (f.pd.toNat % 4 * x.lnL + i)))).1, false))

/-- The positive PS8 magnitudes in units of 2^−6, rising, with the code for s1 = 0 and whether it is a sum or a
difference: 0, one term, a sum where there is one, else a difference; 2 is the sum 0x00. -/
def ps8Table : List (Nat × Nat × Bool) :=
  let one := (List.range 7).map fun a => (2 ^ (6 - a), 16 * a + 7, false)
  let pairs := (List.range 7).flatMap fun a => ((List.range 7).filter (a < ·)).map fun b => (a, b)
  let sums := pairs.map fun e => (2 ^ (6 - e.1) + 2 ^ (6 - e.2), 16 * e.1 + e.2, true)
  let diffs := pairs.map fun e => (2 ^ (6 - e.1) - 2 ^ (6 - e.2), 16 * e.1 + 8 + e.2, true)
  let all := [(0, 0x77, false)] ++ one ++ [(128, 0x00, true)] ++ sums ++ diffs
  (List.range 129).filterMap fun m => all.find? (·.1 == m)

/-- The entry nearest n/d (in units of 2^−6), ties to the smaller. -/
def ps8Near (n d : Nat) : Nat × Nat × Bool :=
  let dist := fun (m : Nat) => ((n : Int) - (m * d : Nat)).natAbs
  ps8Table.foldl (fun best e => if dist e.1 < dist best.1 then e else best) (0, 0x77, false)

/-- The PS8 code of a value and its flags. -/
def ps8Encode (v : Ex) : Nat × BitVec 8 :=
  match v with
  | .nan => (0x77, flNV)
  | .inf s => (if s then 0x80 else 0x00, flOF)
  | .fin s n d =>
    let n := 64 * n
    let (m, c, two) := ps8Near n d
    let over' := decide (128 * d < n)
    let fl := flagIf (m * d != n) flNX ||| flagIf over' flOF
    if m = 0 then (0x77, fl)
    else if s then (if two then (c ^^^ 0x88, fl) else (c ^^^ 0x80, fl))
    else (c, fl)

/-- VPS8 with ENC = 1. -/
def execVps8Enc (f : FabF) (s : State) : Out :=
  let x := s.fir
  let b := x.vB f
  let n := 512 / b.tag.lane x.lw
  let p := f.pd.toNat % 4
  if n ≤ 64 * p then .next (elementTrap s 0xB7 f)
  else
    let (vs, s) := b.vals x s
    let l := ((vs.drop (64 * p)).take 64).map ps8Encode
    let fl := l.foldl (fun m c => m ||| c.2) 0
    let codes := l.map (·.1) ++ List.replicate (64 - l.length) 0x77
    .next (applyEffect f (vecEffect f x (ofLanes 8 codes) .ps8 0 (fl &&& (flOF ||| flNV) != 0) fl) s)

/-! ## Side locals and quantisation (R226 to R228) -/

/-- The side local of v[DST]. -/
def sideOf (f : FabF) : Nat := f.dst.toNat - 8 + 4

/-- VMOV. -/
def execVmov (f : FabF) (s : State) : Out :=
  let x := s.fir
  let (v, side, k) :=
    if 12 ≤ f.sb.toNat then
      let m := f.sb.toNat - 12
      (x.tl.vc m, x.tl.lc (m + 4), x.vecTok f x.lf (x.tl.vc m) (x.tl.lc (m + 4)))
    else
      let h := x.tl.head f.sb.toNat
      (h.val, h.side, x.passTok h)
  let s := if f.dst = 12 then s else updActing x s fun tl => { tl with loc := Tbl.put 0 tl.loc (sideOf f) side }
  .next (applyEffect f
    { vres := some v, sends := toAll f.om k, nonzero := v != 0, flag := v != 0, ib := 2 } s)

/-- The elements of a block: the FP32 lanes of a, then of b. -/
def blockEls (a b : VSrc) : List Ex :=
  ((List.range 16).map fun i => fpFP32.dec (laneOf a.v 32 i)) ++ (List.range 16).map fun i => fpFP32.dec (laneOf b.v 32 i)

/-- amax, as a ratio; 0 without a finite element. -/
def amaxOf (l : List Ex) : Nat × Nat :=
  l.foldl (fun m e => match e with
    | .fin _ n d => if m.1 * d < n * m.2 then (n, d) else m
    | _ => m) (0, 1)

/-- ⌈log2 (n/d)⌉ for n, d > 0. -/
def clog2 (n d : Nat) : Int :=
  let k := flog2 n d
  let exact := if 0 ≤ k then n == d * 2 ^ k.toNat else n * 2 ^ (-k).toNat == d
  if exact then k else k + 1

/-- A block quantised (R227, R228): the scale code, the element codes and the flags. `rnd` rounds an element's quotient;
`top` is the code of the largest magnitude of a sign. -/
def quantise (l : List Ex) (x0 : Nat → Nat → Int) (rnd : Nat → Ex → Nat × BitVec 8) (top : Bool → Nat) :
    Nat × List Nat × BitVec 8 :=
  if l.any (·.isNan) then (0xFF, l.map fun _ => 0, 0)
  else if l.all (·.isInf) then (0xFE, l.map fun e => top e.neg?, flQINF)
  else
    let (n, d) := amaxOf l
    let xe := if n = 0 then 0 else (clampInt (-127) 127 (x0 n d)).1
    let r := l.zipIdx.map fun e =>
      match e.1 with
      | .inf g => (top g, flQINF)
      | v => rnd e.2 (v.scale (-xe))
    ((xe + 127).toNat, r.map (·.1), r.foldl (fun m c => m ||| c.2) 0)

/-- Codes put into lanes 32J to 32J + 31 of v[DST], and the scale into byte J of the side local. -/
def quantDone (f : FabF) (x : Fir) (s : State) (w : Nat) (q : Nat × List Nat × BitVec 8) (nonfin mx : Bool) (tag : Tag) :
    Out :=
  let j := f.pd.toNat
  let v := ofLanes w ((List.range (512 / w)).map fun i =>
    if 32 * j ≤ i ∧ i < 32 * j + 32 then q.2.1.getD (i - 32 * j) 0 else laneOf (x.vD f) w i)
  let byte : BitVec 32 := BitVec.ofNat 32 (q.1 * 2 ^ (8 * j))
  let mask : BitVec 32 := BitVec.ofNat 32 (0xFF * 2 ^ (8 * j))
  let sl := (x.tl.lc (sideOf f) &&& ~~~mask) ||| byte
  let sl := if mx then (sl &&& 0xFFFF) ||| 0x10000 else sl
  let s := updActing x s fun tl => { tl with loc := Tbl.put 0 tl.loc (sideOf f) sl }
  .next (applyEffect f (vecEffect f x v tag (if tag = .q4 then 0 else sl) nonfin q.2.2) s)

/-- VQMX. -/
def execVqmx (f : FabF) (s : State) : Out :=
  let x := s.fir
  let (a, b) := (x.vA f, x.vB f)
  if a.wrong .fp32 ∨ b.wrong .fp32 then .next (elementTrap s 0xB4 f)
  else
    let l := blockEls a b
    let e4 := x.lf == .e4m3
    let fp := x.lfp
    let q := quantise l (fun n d => flog2 n d - (if e4 then 8 else 2))
      (fun i v => fp.round (x.rctx x.rndMode (32 * f.pd.toNat + i)) v) (fun g => fp.sign g fp.big)
    quantDone f x s (x.lf.lane 0) q (l.any fun e => !e.isFin) e4 x.lf

/-- VQI4. -/
def execVqi4 (f : FabF) (s : State) : Out :=
  let x := s.fir
  let (a, b) := (x.vA f, x.vB f)
  if a.wrong .fp32 ∨ b.wrong .fp32 then .next (elementTrap s 0xB5 f)
  else
    let l := blockEls a b
    let q := quantise l (fun n d => clog2 n (7 * d))
      (fun i v => toIntLane (x.rctx x.rndMode (32 * f.pd.toNat + i)) 4 v) (fun g => if g then 8 else 7)
    quantDone f x s 4 q (l.any fun e => !e.isFin) false .q4

/-! ## Exact reduction (R229 to R231) -/

/-- An XACC: N, ANCHOR and STATE (Table 12-5). -/
structure Xacc where
  n : Int
  anchor : BitVec 10
  st : NonFin
deriving DecidableEq, Repr

def NonFin.code : NonFin → Nat
  | .finite => 0 | .pinf => 1 | .ninf => 2 | .nan => 3

def NonFin.ofCode (n : Nat) : NonFin :=
  if n = 0 then .finite else if n = 1 then .pinf else if n = 2 then .ninf else .nan

def NonFin.neg : NonFin → NonFin
  | .pinf => .ninf | .ninf => .pinf | x => x

def Xacc.read (v : BitVec 512) : Xacc :=
  { n := sext v.toNat 128, anchor := v.extractLsb' 128 10, st := NonFin.ofCode (fld v 160 2) }

def Xacc.pack (a : Xacc) : BitVec 512 :=
  BitVec.ofNat 512 ((a.n % (2 ^ 128 : Nat)).toNat + (a.anchor.signExtend 32).toNat * 2 ^ 128 + a.st.code * 2 ^ 160)

/-- The value of an XACC. -/
def Xacc.val (a : Xacc) : Ex :=
  match a.st with
  | .finite => Ex.ofIntScaled a.n a.anchor.toInt
  | .pinf => .inf false
  | .ninf => .inf true
  | .nan => .nan

/-- A value added at the anchor, or merged into STATE. -/
def Xacc.addVal (a : Xacc × Bool) (v : Ex) : Xacc × Bool :=
  let merge := fun (k : NonFin) =>
    let (st, nv) := nfMerge a.1.st k
    ({ a.1 with st := st }, a.2 || nv)
  match v with
  | .fin _ _ _ => ({ a.1 with n := a.1.n + truncAt v a.1.anchor.toInt }, a.2)
  | .inf s => merge (if s then .ninf else .pinf)
  | .nan => merge .nan

/-- N checked against its 128 bits: beyond them STATE is NaN, NV is set and N is a free value (log 18). -/
def Xacc.norm (a : Xacc × Bool) (s : State) : Xacc × Bool × State :=
  if -(2 ^ 127 : Nat) ≤ a.1.n ∧ a.1.n < (2 ^ 127 : Nat) then (a.1, a.2, s)
  else
    let (lo, s) := freeWord s
    let (hi, s) := freeWord s
    ({ a.1 with n := sext (lo.toNat + hi.toNat * 2 ^ 64) 128, st := .nan }, true, s)

/-- A VSUMX result: charge 4. -/
def sumxDone (f : FabF) (x : Fir) (s : State) (v : BitVec 512) (flag : Bool) (fl : BitVec 8) : Out :=
  .next (applyEffect f { vecEffect f x v x.lf 0 flag fl with ib := 4 } s)

/-- VSUMX init. -/
def execVsumxInit (f : FabF) (s : State) : Out :=
  let x := s.fir
  sumxDone f x s (Xacc.pack { n := 0, anchor := (x.opB f).setWidth 10, st := .finite }) false 0

/-- VSUMX acc. -/
def execVsumxAcc (f : FabF) (s : State) : Out :=
  let x := s.fir
  let a := x.vA f
  if a.head ∧ (a.tag = .q4 ∨ a.tag = .ps8) then .next (elementTrap s 0xB1 f)
  else
    let (vs, s) := a.vals x s
    let n := fld (x.opB f) 0 8
    let (y, nv, s) := Xacc.norm (((if n = 0 then vs else vs.take n)).foldl Xacc.addVal (Xacc.read (x.vD f), false)) s
    sumxDone f x s y.pack (y.st != .finite) (flagIf nv flNV)

/-- VSUMX fold. -/
def execVsumxFold (f : FabF) (s : State) : Out :=
  let x := s.fir
  let a := Xacc.read (x.vA f).v
  let d := Xacc.read (x.vD f)
  let sub := (x.opB f).getLsbD 0
  if a.anchor ≠ d.anchor then .next (elementTrap s 0xB1 f)
  else
    let (st, nv) := nfMerge d.st (if sub then a.st.neg else a.st)
    let (y, nv, s) := Xacc.norm ({ d with n := if sub then d.n - a.n else d.n + a.n, st := st }, nv) s
    sumxDone f x s y.pack (y.st != .finite) (flagIf nv flNV)

/-- VSUMX out. -/
def execVsumxOut (f : FabF) (s : State) : Out :=
  let x := s.fir
  let a := Xacc.read (x.vA f).v
  let (c, fl) := x.lfp.round (x.rctx (x.modeOf (fld (x.opB f) 0 3)) 0) a.val
  sumxDone f x s (BitVec.ofNat 512 c) (a.st != .finite) fl

/-- VMAXR. -/
def execVmaxr (f : FabF) (s : State) : Out :=
  let x := s.fir
  let (vs, s) := (x.vB f).vals x s
  let vs := if f.pd.getLsbD 0 then vs.map (·.abs) else vs
  let m := match vs with
    | [] => Ex.nan
    | v :: r => r.foldl exMax v
  let (c, fl) := fpFP32.round (x.rctx .rne 0) m
  let r : BitVec 32 := BitVec.ofNat 32 c
  scaDone f x s r (r != 0) fl

/-- VNF. -/
def execVnf (f : FabF) (s : State) : Out :=
  let x := s.fir
  let b := x.vB f
  let (vs, s) := b.vals x s
  let non := fun (v : Ex) => !v.isFin
  let sub := vs.zipIdx.any fun e => match b.tag.fp with
    | some fp => e.1.isFin && fp.isSub (laneOf b.v (b.tag.lane x.lw) e.2)
    | none => false
  let first := (vs.zipIdx.find? fun e => non e.1).map (·.2)
  let n := (vs.any (·.isNan)).toNat + (vs.any (· == .inf false)).toNat * 2 + (vs.any (· == .inf true)).toNat * 4 +
    sub.toNat * 8 + (vs.any (·.isZero)).toNat * 16 + first.getD 0xFF * 2 ^ 8 + (vs.filter non).length * 2 ^ 16
  scaDone f x s (BitVec.ofNat 32 n) (n % 8 != 0) 0

end Sys2Proof.Machine
end

