-- ==== Sys2Proof/Machine/Engine.lean ====
section
/-! DEFINITION. Bulk transfer and collective engines (R234 to R251, R390) with the sequencer instructions 0x70 to 0x73, and
remote writes (R379). Each step of an engine performs one access, an aligned 32-bit word (R185); in one fc it moves at most
one line per side (R243). A collective round begins when every member's entry stands at its operation (R240). -/

namespace Sys2Proof.Machine

open Host (Outcome)

/-! ## Sequencer instructions (R247 to R251) -/

/-- SEQ_CHAPP. -/
def execSeqChapp (f : SeqF) (s : State) : Out :=
  issueWith f anyone s fun s =>
    let (p, q) := (s.cur.p, s.cur.q)
    let a := s.curCtx.opA f
    let b := s.curCtx.opB f
    match chainRefusal s p q (chainId a) true with
    | some d => .next (refuse s a d)
    | none =>
      if !canonical b then .next (addrTrap s cXLATE b .read)
      else if b.toNat % 64 ≠ 0 then .next (addrTrap s cMISALIGN b .read)
      else
        match attach s p q (chainId a) b with
        | (.refused d, s) => .next (refuse s a d)
        | (.fault c va k, s) => .next (addrTrap s c va k)
        | (.done, s) =>
          let (n, s) := freeDelay s 0
          .next (s.setCurCtx { ((s.curCtx.charge 4 1).adv) with wait := .busy (s.fc p + n) .nothing })

/-- SEQ_CHTL. -/
def execSeqChtl (f : SeqF) (s : State) : Out :=
  issueWith f anyone s fun s =>
    let (p, q) := (s.cur.p, s.cur.q)
    let a := s.curCtx.opA f
    let c := chainId a
    match chainRefusal s p q c false with
    | some d => .next (refuse s a d)
    | none =>
      match announce s p c (umax (s.chain p c).tail (s.curCtx.opB f)) (.ctx q) with
      | .error d => .next (refuse s a d)
      | .ok s => .next (finishCur s 4 0 fun c => c)

/-- SEQ_CHSQ. -/
def execSeqChsq (f : SeqF) (s : State) : Out :=
  issueWith f anyone s fun s =>
    let a := s.curCtx.opA f
    if 16 < chainId a then .next (refuse s a 0x34)
    else .next (finishCur s 1 0 fun c => c.wr f.d (chainValue (s.chain s.cur.p (chainId a)) (fld f.imm 0 2)))

/-- CHWT waits at the instruction. -/
def execChwt (f : SeqF) (s : State) : Out :=
  issueWith f anyone s fun s =>
    let a := s.curCtx.opA f
    .next (if 16 < chainId a then refuse s a 0x34 else pollFor s 0x73 f 0)

/-- The status of a waiting CHWT. -/
def chwtStatus (x : Chain) (b : BitVec 64) : Option Nat :=
  if b.toNat ≤ x.done.toNat then some 0
  else
    match x.st with
    | .halted => some 1
    | .detached | .stopped => some 2
    | _ => none

/-- A waiting CHWT completes. -/
def tryChwt (s : State) (p q : Nat) (f : SeqF) : Option State :=
  let c := s.ctx p q
  (chwtStatus (s.chain p (chainId (c.opA f))) (c.opB f)).map fun v => finish s p q 1 0 fun c => c.wr f.d (BitVec.ofNat 64 v)

/-! ## Entries (Table 13-3) -/

/-- A dimension: extent, source and destination stride. -/
structure Dim where
  ext : Nat
  ss : Int
  ds : Int
deriving DecidableEq, Repr

structure Ent where
  stamp : Nat
  op : Nat
  flags : BitVec 8
  nd : Nat
  fmt : Nat
  ctag : Nat
  src : BitVec 64
  dst : BitVec 64
  recs : List Dim
  anchor : BitVec 10
  otag : Nat
  omode : Nat
  modid : BitVec 20
  /-- Reserved bits are zero. -/
  clean : Bool

def Ent.parse (bs : List (BitVec 8)) : Ent :=
  let n := fun (off len : Nat) => natOfBytes ((bs.drop off).take len)
  let w := n 0 8
  let ot := n 0x74 1
  { stamp := w % 2 ^ 16, op := w / 2 ^ 16 % 256, flags := BitVec.ofNat 8 (w / 2 ^ 24), nd := w / 2 ^ 32 % 16,
    fmt := w / 2 ^ 36 % 16, ctag := w / 2 ^ 40 % 64, src := BitVec.ofNat 64 (n 8 8), dst := BitVec.ofNat 64 (n 16 8),
    recs := (List.range 9).map fun k =>
      { ext := n (0x18 + 10 * k) 2, ss := sext (n (0x1A + 10 * k) 4) 32, ds := sext (n (0x1E + 10 * k) 4) 32 },
    anchor := BitVec.ofNat 10 (n 0x72 2), otag := ot % 8, omode := ot / 16 % 8, modid := BitVec.ofNat 20 (n 0x75 3),
    clean := w / 2 ^ 46 == 0 && w / 2 ^ 31 % 2 == 0 && n 0x72 2 / 1024 == 0 && ot / 8 % 2 == 0 && ot / 128 == 0 &&
      n 0x75 3 / 2 ^ 20 == 0 }

def Ent.dim (e : Ent) (k : Nat) : Dim := e.recs.getD k { ext := 0, ss := 0, ds := 0 }
def Ent.tagen (e : Ent) : Bool := e.flags.getLsbD 0
def Ent.full (e : Ent) : Bool := e.flags.getLsbD 1
def Ent.stop (e : Ent) : Bool := e.flags.getLsbD 2
def Ent.remote (e : Ent) : Bool := e.flags.getLsbD 5
def Ent.token (e : Ent) : Bool := e.flags.getLsbD 6

/-- The operation reads memory at SRC, writes memory at DSTB. -/
def Ent.reads (e : Ent) : Bool := e.op != 2 && e.op != 9
def Ent.writes (e : Ent) : Bool := e.op != 10
def Ent.spSrc (e : Ent) : Bool := e.flags.getLsbD 3 && e.reads
def Ent.spDst (e : Ent) : Bool := e.flags.getLsbD 4 && e.writes && !e.remote

/-- Element sizes (Table 13-4). -/
def sizeForm (f : Nat) : Nat := if f = 4 then 64 else 2 ^ f
def tagForm (f : Nat) : Nat := if f = 0 ∨ f = 1 then 4 else if f = 2 then 2 else 1

def Ent.isSum (e : Ent) : Bool := e.op == 6 || e.op == 7
def Ent.sSize (e : Ent) : Nat := if e.op = 10 then 8 else if e.op = 3 ∨ e.isSum then tagForm e.fmt else sizeForm e.fmt
def Ent.dSize (e : Ent) : Nat := if e.op = 9 then 8 else if e.op = 3 ∨ e.isSum then tagForm e.otag else sizeForm e.fmt

/-- Dimensions of the index space. -/
def Ent.dims (e : Ent) : List Dim := e.recs.take e.nd

/-- The number of elements. -/
def Ent.count (e : Ent) : Nat :=
  if e.op = 9 then 1
  else if e.op = 10 then 0
  else if e.op = 4 ∨ e.op = 5 then (e.dim 0).ext * (e.dim 1).ext
  else e.dims.foldl (fun n d => n * d.ext) 1

/-- The offsets of element n, i0 innermost. -/
def dimOffsets : List Dim → Nat → Int × Int
  | [], _ => (0, 0)
  | d :: ds, n =>
    let i : Int := (n % d.ext : Nat)
    let (a, b) := dimOffsets ds (n / d.ext)
    (i * d.ss + a, i * d.ds + b)

/-- The lowest and highest offset over the index space, source and destination. -/
def dimReach (l : List Dim) : (Int × Int) × (Int × Int) :=
  l.foldl
    (fun a d =>
      let k := fun (st : Int) => st * ((d.ext : Int) - 1)
      ((a.1.1 + min 0 (k d.ss), a.1.2 + max 0 (k d.ss)), (a.2.1 + min 0 (k d.ds), a.2.2 + max 0 (k d.ds))))
    ((0, 0), (0, 0))

/-- A scratchpad base that R238 allows. -/
def spBaseOk (b : BitVec 64) : Bool := fld b 22 42 == 0 && fld b 0 2 == 0 && decide (fld b 18 4 < 12)

/-- The bytes from a scratchpad base over a range of offsets lie in the scratchpad. -/
def spReachOk (b : BitVec 64) (r : Int × Int) (size : Nat) : Bool :=
  decide (0 ≤ (fld b 0 18 : Int) + r.1) && decide ((fld b 0 18 : Int) + r.2 + size ≤ 2 ^ 18)

/-- The detail code of a malformed entry of a chain, but for the reach of index lists. -/
def entDetail (c : Nat) (e : Ent) : Option Nat :=
  let coll := decide (6 ≤ e.op) && decide (e.op ≤ 8)
  if !e.clean || e.nd = 0 || 9 < e.nd then some 0x30
  else if e.op = 0 ∨ 10 < e.op ∨ (coll ∧ c ≠ 16) then some 0x31
  else if 4 < e.fmt ∨ ((e.op = 3 ∨ e.isSum) ∧ 4 < e.otag) then some 0x30
  else if (e.op = 4 ∨ e.op = 5) ∧ e.nd ≠ 2 then some 0x30
  else if e.op = 8 ∧ 7 < e.nd then some 0x30
  else if e.remote ∧ e.op ≠ 1 ∧ e.op ≠ 9 then some 0x33
  else if e.full && !e.flags.getLsbD 4 then some 0x32
  else if (e.spSrc && !spBaseOk e.src) || (e.spDst && !spBaseOk e.dst) then some 0x32
  else if e.op = 4 ∨ e.op = 5 ∨ e.count = 0 then none
  else
    let (rs, rd) := if e.op = 9 ∨ e.op = 10 then ((0, 0), (0, 0)) else dimReach e.dims
    let top := if e.op = 8 then (e.dim e.nd).ds * 31 else 0
    let rd := (rd.1 + min 0 top, rd.2 + max 0 top)
    if (e.spSrc && !spReachOk e.src rs e.sSize) || (e.spDst && e.op != 8 && !spReachOk e.dst rd e.dSize) then some 0x32
    else none

/-! ## Faults of a chain (R245) -/

/-- What stops an engine at an element: a cause, a detail code and an address. -/
structure EngFault where
  cause : BitVec 8
  detail : Nat
  va : BitVec 64

/-- A chain with nothing of an entry performed. -/
def Chain.clear (x : Chain) : Chain :=
  { x with elem := 0, wrote := 0, ahead := [], wahead := [], held := [], got := [], rline := none, wline := none }

/-- The chain halts: no completion word; the owner takes an asynchronous trap. -/
def haltChain (s : State) (p c : Nat) (cause : BitVec 8) (detail : Nat) (extra : Nat) : State :=
  let x := s.chain p c
  let s := s.setChain p c
    { x.clear with
      st := .halted, cause := cause, detail := BitVec.ofNat 8 detail, entry := none, moved := false, remoteSent := none
      retry := false }
  report s p x.owner cause x.cur (BitVec.ofNat 64 (c + detail * 2 ^ 8 + extra * 2 ^ 16 + 2 ^ 63)) (.chain c)

/-- A fault: a translation pauses the chain at the element, anything else halts it. -/
def chainFault (s : State) (p c : Nat) (e : EngFault) : State :=
  if e.cause = cXLATE then
    let s := s.updChain p c fun x => { x with st := .paused, got := [], retry := false }
    report s p (s.chain p c).owner cXLATE e.va (BitVec.ofNat 64 (c + 2 ^ 63)) (.chain c)
  else haltChain s p c e.cause e.detail 0

/-! ## Element places (R238) -/

/-- Where an element lies. -/
inductive ElPlace where
  | spad (t off : Nat)
  | mem (pa : Nat) (host : Bool)
  | peer

/-- Whether the reorder area of a scratchpad holds a byte of a range (R173). -/
def inReorder (s : State) (p t off n : Nat) : Bool :=
  reorderReserved s p (tileRow t) && decide (57344 * 4 < off + n)

/-- An element of n bytes at an address: canonical form, alignment, translation (R86, R239). -/
def memPlace (s : State) (p : Nat) (va : BitVec 64) (n : Nat) (k : AccKind) : Except EngFault ElPlace × State :=
  match checkAddr s p va n k with
  | (.fault c, s) => (.error { cause := c, detail := 0, va := va }, s)
  | (.ok pa host, s) => (.ok (.mem pa host), s)

/-- An element of one side of an entry at an offset. -/
def place (s : State) (p : Nat) (sp : Bool) (base : BitVec 64) (off : Int) (n : Nat) (k : AccKind) :
    Except EngFault ElPlace × State :=
  if sp then
    let t := tileAt (fld base 18 4) 6
    let o := (fld base 0 18 : Int) + off
    if o < 0 ∨ (2 ^ 18 : Int) < o + n ∨ inReorder s p t o.toNat n then (.error { cause := cACCESS, detail := 0x32, va := 0 }, s)
    else if o.toNat % n ≠ 0 then (.error { cause := cMISALIGN, detail := 0, va := 0 }, s)
    else (.ok (.spad t o.toNat), s)
  else memPlace s p (base + wrap64 off) n k

/-- The words a range of scratchpad bytes touches. -/
def spWords (off n : Nat) : List Nat := (List.range (ceilDiv (off % 4 + n) 4)).map (off / 4 + ·)

/-- The bytes of an element. -/
def readPlace (s : State) (p : Nat) (a : ElPlace) (n : Nat) : Except EngFault Nat × State :=
  match a with
  | .peer => (.ok 0, s)
  | .mem pa host =>
    if s.badLine host pa then (.error { cause := cECC_UE, detail := 0, va := 0 }, s)
    else
      let s := s.fixLine host pa
      (.ok (s.rdNat host pa n), s)
  | .spad t off =>
    let ws := spWords off n
    if ws.any fun w => (s.spad p t).bad.contains w then (.error { cause := cECC_UE, detail := 0, va := 0 }, s)
    else
      let s := ws.foldl (fun s w => fixWord s p t w) s
      let bs := ws.flatMap fun w => bytesOfNat 4 ((s.spad p t).word w).toNat
      (.ok (natOfBytes ((bs.drop (off % 4)).take n)), s)

/-- An element written; FULL sets its words full in the same access, which serves parked requests (R242, R170). -/
def writePlace (s : State) (p : Nat) (a : ElPlace) (n v : Nat) (full : Bool) : State :=
  match a with
  | .peer => s
  | .mem pa host => s.wrNat host pa n v
  | .spad t off =>
    let ws := spWords off n
    let old := ws.flatMap fun w => bytesOfNat 4 ((s.spad p t).word w).toNat
    let new := old.take (off % 4) ++ bytesOfNat n v ++ old.drop (off % 4 + n)
    ws.zipIdx.foldl
      (fun s e =>
        let w : BitVec 32 := BitVec.ofNat 32 (natOfBytes ((new.drop (4 * e.2)).take 4))
        let s := s.updSpad p t fun sp =>
          let sp := sp.setWord e.1 w
          if full then sp.setFull e.1 true else sp
        if full then serve s p t e.1 else s) s

/-! ## Element values (R237, R239, R390) -/

/-- The value of an element in TAG form. -/
def engVal (fmt v : Nat) : Ex :=
  match (Tag.ofBits (BitVec.ofNat 3 fmt)).fp with
  | some fp => fp.dec v
  | none => Ex.ofInt (sext v 32)

/-- Round(x, OTAG, OMODE); an INT target is rounded to an integer and clamped, a NaN gives 0. -/
def engRound (otag omode r : Nat) (v : Ex) : Nat :=
  let c : RndCtx := { mode := if omode ≤ 4 then Rnd.ofBits omode else .rne, r := r }
  match (Tag.ofBits (BitVec.ofNat 3 otag)).fp with
  | some fp => (fp.round c v).1
  | none => (toIntLane c 32 v).1

/-- The random word of an engine: POS, stamp or round, and the chain number of the counter. -/
def engRnd (seed : BitVec 64) (pos mid chain : Nat) : Nat :=
  srWord seed (BitVec.ofNat 64 (pos % 2 ^ 32 * 2 ^ 32 + mid % 2 ^ 16 * 2 ^ 16 + 2 ^ 12 + chain * 2 ^ 7))

/-- The value FILL and SIGNAL store. -/
def fillValue (e : Ent) : Nat :=
  if e.op = 9 then e.src.toNat
  else if e.dSize = 64 then (List.range 8).foldl (fun n i => n + e.src.toNat * 2 ^ (64 * i)) 0
  else e.src.toNat % 2 ^ (8 * e.dSize)

/-- Element n as stored. -/
def elemValue (s : State) (p c : Nat) (e : Ent) (n v : Nat) : Nat :=
  if e.op = 3 then
    engRound e.otag e.omode (engRnd (s.ctx p (s.chain p c).owner).launch.seed n e.stamp c) (engVal e.fmt v)
  else v

/-! ## Moving elements (R239, R243) -/

/-- Index j of a gather's or scatter's list. -/
def listIndex (s : State) (p : Nat) (e : Ent) (j : Nat) : Except EngFault Nat × State :=
  let r := e.dim 8
  let va := BitVec.ofInt 32 r.ds ++ BitVec.ofInt 32 r.ss + BitVec.ofNat 64 (4 * j)
  match memPlace s p va 4 .read with
  | (.error f, s) => (.error f, s)
  | (.ok a, s) => readPlace s p a 4

/-- The offsets of element n of an entry. -/
def elemOffsets (s : State) (p : Nat) (e : Ent) (n : Nat) : Except EngFault (Int × Int) × State :=
  if e.op = 4 ∨ e.op = 5 then
    let i : Int := (n % (e.dim 0).ext : Nat)
    let j := n / (e.dim 0).ext
    match listIndex s p e j with
    | (.error f, s) => (.error f, s)
    | (.ok x, s) =>
      let (js, jd) := if e.op = 4 then ((x : Int), (j : Int)) else ((j : Int), (x : Int))
      (.ok (js * (e.dim 1).ss + i * (e.dim 0).ss, jd * (e.dim 1).ds + i * (e.dim 0).ds), s)
  else if e.op = 9 then (.ok (0, 0), s)
  else (.ok (dimOffsets e.dims n), s)

/-- The indices of a list keep the entry inside its scratchpad (R238). -/
def listReach (s : State) (p : Nat) (e : Ent) : Nat → Option EngFault × State
  | 0 => (none, s)
  | j + 1 =>
    match listReach s p e j with
    | (some f, s) => (some f, s)
    | (none, s) =>
      match elemOffsets s p e (j * (e.dim 0).ext) with
      | (.error f, s) => (some f, s)
      | (.ok (a, b), s) =>
        let row := dimReach [e.dim 0]
        let bad := (e.spSrc && !spReachOk e.src (a + row.1.1, a + row.1.2) e.sSize) ||
          (e.spDst && !spReachOk e.dst (b + row.2.1, b + row.2.2) e.dSize)
        (if bad then some { cause := cACCESS, detail := 0x32, va := 0 } else none, s)

/-- The destination of an entry at an offset: an element of a peer is checked for its alignment alone (R238, R245). -/
def destPlace (s : State) (p : Nat) (e : Ent) (d : Int) : Except EngFault ElPlace × State :=
  if !e.remote then place s p e.spDst e.dst d e.dSize .write
  else if (e.dst + wrap64 d).toNat % e.dSize ≠ 0 then
    (.error { cause := cMISALIGN, detail := 0, va := e.dst + wrap64 d }, s)
  else (.ok .peer, s)

/-- The 32-bit words of an element, which are performed apart (R185). -/
def Ent.words (e : Ent) : Nat := max 1 (e.dSize / 4)

/-- The words of an entry's elements: a word is one 32-bit word of an element, or a smaller element whole. -/
def Ent.units (e : Ent) : Nat := e.count * e.words

/-- Bytes of one word on each side. -/
def Ent.sUnit (e : Ent) : Nat := min 4 e.sSize
def Ent.dUnit (e : Ent) : Nat := min 4 e.dSize

/-- The word that is performed n-th of a total: the order is free (R184, R239). -/
def orderAt (seed total n : Nat) : Nat := if h : n < total then (Config.order seed total ⟨n, h⟩).val else n

/-- The place of a word in that order. -/
def orderPos (seed total u : Nat) : Nat := if h : u < total then ((Config.order seed total).symm ⟨u, h⟩).val else u

/-- A word is performed: its place is behind, or it was performed before its place. -/
def unitDone (seed total pos : Nat) (early : List Nat) (u : Nat) : Bool :=
  decide (orderPos seed total u < pos) || early.contains u

/-- An element with those of a list that are to be accessed with it: others of the entry's, each once and still to be done. -/
def Ent.together (e : Ent) (n : Nat) (todo : Nat → Bool) (l : List (Nat × Int × Int)) : List (Nat × Int × Int) :=
  (n, 0, 0) :: l.filter fun m => m.1 != n && decide (m.1 < e.units) && todo m.1

/-- The place some bytes on. -/
def ElPlace.shift (a : ElPlace) (d : Int) : ElPlace :=
  match a with
  | .spad t off => .spad t (off + d).toNat
  | .mem pa host => .mem (pa + d).toNat host
  | .peer => .peer

/-- Word w of an element. -/
def ElPlace.word (a : ElPlace) (w : Nat) : ElPlace := a.shift (4 * w : Nat)

/-- The engine's bank access for a place of at most 4 bytes; memory has no bank. -/
def placeTake (s : State) (p : Nat) (a : ElPlace) : Bool × State :=
  match a with
  | .spad t off => engTake s p t (off / 4)
  | _ => (true, s)

/-- The elements of a list with those next to them, dimension by dimension, whose offsets `same` accepts: each with its
offsets from the first one, source and destination. -/
def nearBy (same : Int → Int → Bool) : List Dim → Nat → List (Nat × Int × Int) → List (Nat × Int × Int)
  | [], _, l => l
  | d :: ds, step, l =>
    let more := l.flatMap fun x => ([-3, -2, -1, 1, 2, 3] : List Int).filterMap fun (k : Int) =>
      let j : Int := (x.1 / step % d.ext : Nat) + k
      let (a, b) := (x.2.1 + k * d.ss, x.2.2 + k * d.ds)
      if 0 ≤ j ∧ j < d.ext ∧ same a b then some (((x.1 : Int) + k * step).toNat, a, b) else none
    nearBy same ds (step * d.ext) (l ++ more)

/-- Two offsets of elements of a size smaller than a word lie in one aligned 32-bit word, in different bytes. -/
def sameWordAt (size : Nat) (base off d : Int) : Bool :=
  d != 0 && d % size == 0 && (base + off) / 4 == (base + off + d) / 4

/-- The dimensions along which neighbours are sought: of a gather or scatter, those of its rows. -/
def Ent.nearDims (e : Ent) : List Dim := if e.op = 4 ∨ e.op = 5 then e.recs.take 1 else if e.op = 9 then [] else e.dims

/-- The elements that one access of the source may read with element n, at source offset so: those of its aligned 32-bit
word (R185). -/
def Ent.readsWith (e : Ent) (n : Nat) (so : Int) : List (Nat × Int × Int) :=
  if 4 ≤ e.sSize then []
  else nearBy (fun a _ => sameWordAt e.sSize e.src.toNat so a) e.nearDims 1 [(n, 0, 0)]

/-- The elements that one access of the destination may write with element n, at destination offset d. -/
def Ent.writesWith (e : Ent) (n : Nat) (d : Int) : List (Nat × Int × Int) :=
  if 4 ≤ e.dSize then []
  else nearBy (fun _ b => sameWordAt e.dSize e.dst.toNat d b) e.nearDims 1 [(n, 0, 0)]

/-- The line that word w of an element lies in, by its address. -/
def lineAt (base : BitVec 64) (off : Int) (w : Nat) : Int := ((base.toNat : Int) + off + 4 * w) / 64

/-- An access in a line is none of this fc, in which the engine has been at another line of the side (R243). -/
def otherLine (s : State) (p : Nat) (last : Option (Nat × Int)) (line : Int) : Bool :=
  last.any fun l => l.1 == s.fc p && l.2 != line

/-- The next access of the source: one aligned word, of which every element not read yet is read. It answers the words it
gave, or none where the banks or the line of this fc do not allow it, or all is read; a word that was read before its place
gives an empty list. -/
def readUnits (s : State) (p c : Nat) (e : Ent) : Except EngFault (Option (List EngWord)) × State :=
  let x := s.chain p c
  let total := e.units
  if !e.reads || total ≤ x.elem then (.ok none, s)
  else
    let u := orderAt x.seed total x.elem
    if x.ahead.contains u then
      (.ok (some []), s.updChain p c fun x => { x with elem := x.elem + 1, ahead := x.ahead.erase u })
    else
      let (n, w) := (u / e.words, u % e.words)
      match elemOffsets s p e n with
      | (.error f, s) => (.error f, s)
      | (.ok (so, d), s) =>
        let line := lineAt e.src so w
        if otherLine s p x.rline line then (.ok none, s)
        else
          match place s p e.spSrc e.src so e.sSize .read with
          | (.error f, s) => (.error f, s)
          | (.ok a, s) =>
            let a := a.word w
            match placeTake s p a with
            | (false, s) => (.ok none, s)
            | (true, s) =>
              let l := e.together n (fun m => !unitDone x.seed total x.elem x.ahead m) (e.readsWith n so)
              let (r, s) := l.foldl
                (fun (m : Except EngFault (List EngWord) × State) y =>
                  match m with
                  | (.error f, s) => (.error f, s)
                  | (.ok vs, s) =>
                    match readPlace s p (a.shift y.2.1) e.sUnit with
                    | (.error f, s) => (.error f, s)
                    | (.ok v, s) => (.ok (vs ++ [{ unit := if y.1 = n then u else y.1, off := d + y.2.2, val := v }]), s))
                (.ok [], s)
              match r with
              | .error f => (.error f, s)
              | .ok vs =>
                let now := s.fc p
                (.ok (some vs), s.updChain p c fun x =>
                  { x with
                    elem := x.elem + 1, ahead := x.ahead ++ (vs.map (·.unit)).filter (· != u), rline := some (now, line) })

/-- One access of the destination: the elements of one aligned word, with their offsets from the first one's place and
their values, which are written and set full together. It answers whether the banks and the line of this fc allow it. -/
def writeUnits (s : State) (p c : Nat) (e : Ent) (off : Int) (w : Nat) (l : List (Int × Nat)) : Except EngFault Bool × State :=
  let line := lineAt e.dst off w
  if otherLine s p (s.chain p c).wline line then (.ok false, s)
  else
    match destPlace s p e off with
    | (.error f, s) => (.error f, s)
    | (.ok b, s) =>
      let b := b.word w
      match placeTake s p b with
      | (false, s) => (.ok false, s)
      | (true, s) =>
        let s := l.zipIdx.foldl (fun s y => writePlace s p (b.shift y.1.1) e.dUnit y.1.2 (e.full && y.2 + 1 == l.length)) s
        let now := s.fc p
        (.ok true, s.updChain p c fun x => { x with wline := some (now, line) })

/-- What is to be stored at a word: its offset and its value, once it is read where the operation reads it. -/
def unitValue (s : State) (p c : Nat) (e : Ent) (u : Nat) : Option (Int × Nat) :=
  let (n, w) := (u / e.words, u % e.words)
  if e.reads then ((s.chain p c).held.find? (·.unit == u)).map fun h => (h.off, elemValue s p c e n h.val)
  else some (if e.op = 9 then 0 else (dimOffsets e.dims n).2, fillValue e / 2 ^ (32 * w) % 2 ^ (8 * e.dUnit))

/-- The next access of the destination, once every word of it that is not written is read. -/
def storeNext (s : State) (p c : Nat) (e : Ent) : Except EngFault Bool × State :=
  let x := s.chain p c
  let total := e.units
  if total ≤ x.wrote then (.ok false, s)
  else
    let u := orderAt (x.seed + 1) total x.wrote
    if x.wahead.contains u then
      (.ok true, s.updChain p c fun x => { x with wrote := x.wrote + 1, wahead := x.wahead.erase u })
    else
      match unitValue s p c e u with
      | none => (.ok false, s)
      | some (off, _) =>
        let n := u / e.words
        let l := (e.together n (fun m => !unitDone (x.seed + 1) total x.wrote x.wahead m) (e.writesWith n off)).map
          fun m => (if m.1 = n then u else m.1, m.2.2)
        let vals := l.filterMap fun m => (unitValue s p c e m.1).map fun v => (m.2, v.2)
        if vals.length ≠ l.length then (.ok false, s)
        else
          match writeUnits s p c e off (u % e.words) vals with
          | (.ok true, s) =>
            let us := l.map fun m => m.1
            (.ok true, s.updChain p c fun x =>
              { x with
                wrote := x.wrote + 1, wahead := x.wahead ++ us.filter (· != u)
                held := x.held.filter fun h => !us.contains h.unit })
          | r => r

/-- The next access of the source, its words held until they are written. -/
def loadNext (s : State) (p c : Nat) (e : Ent) : Except EngFault Bool × State :=
  match readUnits s p c e with
  | (.error f, s) => (.error f, s)
  | (.ok none, s) => (.ok false, s)
  | (.ok (some vs), s) => (.ok true, s.updChain p c fun x => { x with held := x.held ++ vs })

/-- One access of an entry, of the source or of the destination as a free choice has it and as either can go on. A fault
stops the engine with what was moved standing. -/
def oneAccess (load store : State → Except EngFault Bool × State) (p c : Nat) (s : State) : State :=
  let (first, s) := freeChoice s
  let (a, b) := if first then (load, store) else (store, load)
  match a s with
  | (.error f, s) => chainFault s p c f
  | (.ok true, s) => s
  | (.ok false, s) =>
    match b s with
    | (.error f, s) => chainFault s p c f
    | (.ok _, s) => s

/-- The entry a running chain performs. -/
def chainEnt (x : Chain) : Option Ent :=
  if x.st = .running ∧ !x.moved then x.entry.map Ent.parse else none

/-- Every element is moved: the completion follows after a free delay; a remote one when the peer answers. -/
def elemsDone (s : State) (p c : Nat) (e : Ent) : State :=
  let x := s.chain p c
  if x.st = .running ∧ (!e.reads ∨ e.units ≤ x.elem) ∧ e.units ≤ x.wrote then
    let (d, s) := freeDelay s 0
    s.setChain p c { x with moved := true, due := s.fc p + d, remoteSent := if e.remote then some (s.fc p) else none }
  else s

/-- One access of an entry whose OP is the given one. -/
def engineTurn (s : State) (p c op : Nat) : Out :=
  match chainEnt (s.chain p c) with
  | none => .next s
  | some e =>
    if e.op = op then .next (elemsDone (oneAccess (loadNext · p c e) (storeNext · p c e) p c s) p c e) else .next s

/-- COPY. -/
def execCopy (p : Fin 32) (c : Fin 17) (s : State) : Out := engineTurn s p c 1
/-- FILL. -/
def execFill (p : Fin 32) (c : Fin 17) (s : State) : Out := engineTurn s p c 2
/-- CONV. -/
def execConv (p : Fin 32) (c : Fin 17) (s : State) : Out := engineTurn s p c 3
/-- ENG_GATH. -/
def execEngGath (p : Fin 32) (c : Fin 17) (s : State) : Out := engineTurn s p c 4
/-- ENG_SCAT. -/
def execEngScat (p : Fin 32) (c : Fin 17) (s : State) : Out := engineTurn s p c 5
/-- SIGNAL. -/
def execSignal (p : Fin 32) (c : Fin 17) (s : State) : Out := engineTurn s p c 9

/-! ## WAITSEQ -/

/-- A read of the word awaited, a 32-bit half at a time, in either order, when its bank allows it; with both read the entry
is done, or the chain waits 64 fc. -/
def waitseqTry (s : State) (p c : Nat) (e : Ent) : State :=
  match place s p e.spSrc e.src 0 8 .read with
  | (.error f, s) => chainFault s p c f
  | (.ok a, s) =>
    let (high, s) := freeChoice s
    let x := s.chain p c
    let h := match x.held with
      | [] => if high then 1 else 0
      | v :: _ => 1 - v.unit
    match placeTake s p (a.word h) with
    | (false, s) => s
    | (true, s) =>
      match readPlace s p (a.word h) 4 with
      | (.error f, s) => chainFault s p c f
      | (.ok v, s) =>
        let fc := s.fc p
        s.updChain p c fun x =>
          match x.held with
          | [] => { x with held := [{ unit := h, off := 0, val := v }] }
          | o :: _ =>
            let whole := if h = 0 then v + 2 ^ 32 * o.val else o.val + 2 ^ 32 * v
            if e.dst.toNat ≤ whole then { x with st := .running, moved := true, due := fc, held := [] }
            else { x with st := .waitSeq, due := fc + 64, held := [] }

/-- WAITSEQ. -/
def execWaitseq (p : Fin 32) (c : Fin 17) (s : State) : Out :=
  match chainEnt (s.chain p c) with
  | none => .next s
  | some e => .next (if e.op = 10 then waitseqTry s p c e else s)

/-- WAITSEQ_REREAD. -/
def execWaitseqReread (p : Fin 32) (c : Fin 17) (s : State) : Out :=
  let x := s.chain p c
  match x.st, x.entry with
  | .waitSeq, some bs => .next (if x.due ≤ s.fc p then waitseqTry s p c (Ent.parse bs) else s)
  | _, _ => .next s

/-! ## Collectives (R240) -/

/-- A group's handle in an entry. -/
def Ent.handle (e : Ent) : Nat := (BitVec.ofInt 32 (e.dim 8).ss).toNat

/-- The entry of the collective chain of a paddock that stands at a collective operation of a group. -/
def collEnt (s : State) (p h : Nat) : Option Ent :=
  match chainEnt (s.chain p 16) with
  | none => none
  | some e => if 6 ≤ e.op ∧ e.op ≤ 8 ∧ e.handle = h then some e else none

/-- The ranks of a group that are chains of this module, with their paddocks. -/
def Group.locals (g : Group) : List (Nat × Nat) :=
  (g.members.zipIdx.filter fun e => decide (e.1 < 32)).map fun e => (e.2, e.1)

/-- A member of the module has its part of the round that is under way to perform, or the round has not begun. -/
def Group.owes (g : Group) (r : Nat) : Bool := !(g.begun && g.fin.contains r)

/-- Every member of the module stands at an operation of the group. -/
def collReady (s : State) (h : Nat) : Bool :=
  match Tbl.find? s.groups h with
  | none => true
  | some g => g.locals.all fun e => (collEnt s e.2 h).isSome

/-- Collective traffic crosses no gate that is not OPEN (R320, R322). -/
def collOpen (s : State) (g : Group) : Bool := g.n == 1 || g.locals.all fun m => (s.pad m.2).gate == .open_

/-- Two members agree. -/
def collAgree (a b : Ent) : Bool :=
  a.op == b.op && a.nd == b.nd && a.dims.map (·.ext) == b.dims.map (·.ext) && a.fmt == b.fmt && a.anchor == b.anchor &&
    a.otag == b.otag && a.omode == b.omode

/-- A member's entry stands at its rank. -/
def rankOk (e : Ent) (r : Nat) : Bool := (e.dim 8).ds == (r : Int)

/-- The outermost extent of an RSCAT is a multiple of n. -/
def sliceOk (g : Group) (e : Ent) : Bool := e.op != 7 || (e.dim (e.nd - 1)).ext % g.n == 0

/-- The elements of one slice of an RSCAT. -/
def sliceSize (g : Group) (e : Ent) : Nat :=
  (e.recs.take (e.nd - 1)).foldl (fun m d => m * d.ext) 1 * ((e.dim (e.nd - 1)).ext / g.n)

/-- The words that a member writes: those of its slice under RSCAT, those of every member under AGATH. -/
def collTotal (g : Group) (e : Ent) : Nat :=
  if e.op = 7 then sliceSize g e else if e.op = 8 then e.units * g.n else e.units

/-- The y-th word that the member of rank r writes: its number in the tensor and, of an AGATH, whose tensor. -/
def collUnit (g : Group) (e : Ent) (r y : Nat) : Nat × Nat :=
  if e.op = 7 then (sliceSize g e * r + y, 0) else if e.op = 8 then (y / g.n, y % g.n) else (y, 0)

/-- The number among the words written of a word of a tensor. -/
def collPlace (g : Group) (e : Ent) (r u k : Nat) : Nat :=
  if e.op = 7 then u - sliceSize g e * r else if e.op = 8 then u * g.n + k else u

/-- A word of the tensor is one that the member of a rank writes. -/
def collMine (g : Group) (e : Ent) (r u : Nat) : Bool :=
  e.op != 7 || (decide (sliceSize g e * r ≤ u) && decide (u < sliceSize g e * (r + 1)))

/-- The offset of member k's tensor in an AGATH. -/
def agathOff (e : Ent) (k : Nat) : Int := if e.op = 8 then (k : Int) * (e.dim e.nd).ds else 0

/-- What a rank has contributed as a word of its tensor. -/
def Group.contrib (g : Group) (r u : Nat) : Option Nat := (g.vals.find? fun v => v.rank == r && v.unit == u).map (·.val)

/-- A group with a contribution; the first value of a word stands. -/
def Group.contribute (g : Group) (r u v : Nat) : Group :=
  if (g.contrib r u).isSome then g else { g with vals := g.vals ++ [{ rank := r, unit := u, val := v }] }

/-- The contributions to a word of members in other modules, which are free values (log 19). -/
def drawRemote (s : State) (h : Nat) (e : Ent) (u : Nat) : State :=
  match Tbl.find? s.groups h with
  | none => s
  | some g =>
    (g.members.zipIdx.filter fun m => decide (32 ≤ m.1) && (g.contrib m.2 u).isNone).foldl
      (fun s m =>
        let (v, s) := freeWord s
        match Tbl.find? s.groups h with
        | some g => { s with groups := Tbl.set s.groups h (g.contribute m.2 u (v.toNat % 2 ^ (8 * e.sUnit))) }
        | none => s) s

/-- The exact sum of the values of an element at the anchor, rounded. Nothing in it depends on who came first. -/
def sumElem (e : Ent) (rounds : BitVec 16) (n : Nat) (vals : List Nat) : Nat :=
  let x := vals.foldl (fun (m : Xacc) v => (Xacc.addVal (m, false) (engVal e.fmt (v % 2 ^ (8 * e.sSize)))).1)
    ({ n := 0, anchor := e.anchor, st := .finite } : Xacc)
  engRound e.otag e.omode (engRnd 0 n rounds.toNat 0x1F)
    (if -(2 ^ 127 : Nat) ≤ x.n ∧ x.n < (2 ^ 127 : Nat) then x.val else .nan)

/-- What a round stores as word u, of member k's tensor in an AGATH, once everything it needs is contributed. -/
def collValue (g : Group) (e : Ent) (u k : Nat) : Option Nat :=
  if e.op = 8 then g.contrib k u
  else
    let vals := (List.range g.n).filterMap fun r => g.contrib r u
    if vals.length = g.n then some (sumElem e g.rounds u vals) else none

/-- The next access of a member's source: its words are contributed to the round. -/
def collLoad (s : State) (p h r : Nat) (e : Ent) : Except EngFault Bool × State :=
  match readUnits s p 16 e with
  | (.error f, s) => (.error f, s)
  | (.ok none, s) => (.ok false, s)
  | (.ok (some vs), s) =>
    (.ok true, match Tbl.find? s.groups h with
      | some g => { s with groups := Tbl.set s.groups h (vs.foldl (fun g v => g.contribute r v.unit v.val) g) }
      | none => s)

/-- The next access of a member's destination, once every value of it is known. -/
def collStore (s : State) (p h r : Nat) (e : Ent) : Except EngFault Bool × State :=
  match Tbl.find? s.groups h with
  | none => (.ok false, s)
  | some g =>
    let x := s.chain p 16
    let total := collTotal g e
    if total ≤ x.wrote then (.ok false, s)
    else
      let y := orderAt (x.seed + 1) total x.wrote
      if x.wahead.contains y then
        (.ok true, s.updChain p 16 fun x => { x with wrote := x.wrote + 1, wahead := x.wahead.erase y })
      else
        let (u, k) := collUnit g e r y
        let n := u / e.words
        let off := (dimOffsets e.dims n).2 + agathOff e k
        let todo := fun (m : Nat) => collMine g e r m && !unitDone (x.seed + 1) total x.wrote x.wahead (collPlace g e r m k)
        let l := (e.together n todo (e.writesWith n off)).map fun m => (if m.1 = n then u else m.1, m.2.2)
        let s := l.foldl (fun s m => drawRemote s h e m.1) s
        let g := Tbl.get g s.groups h
        let vals := l.filterMap fun m => (collValue g e m.1 k).map fun v => (m.2, v)
        if vals.length ≠ l.length then (.ok false, s)
        else
          match writeUnits s p 16 e off (u % e.words) vals with
          | (.ok true, s) =>
            let ys := l.map fun m => collPlace g e r m.1 k
            (.ok true, s.updChain p 16 fun x =>
              { x with wrote := x.wrote + 1, wahead := x.wahead ++ ys.filter (· != y) })
          | r => r

/-- A group that no round of is under way. -/
def Group.rest (g : Group) : Group := { g with begun := false, fin := [], vals := [] }

/-- A member that has read and written everything has performed its part; the last one ends the round. -/
def collDone (s : State) (p h r : Nat) (e : Ent) : State :=
  match Tbl.find? s.groups h with
  | none => s
  | some g =>
    let x := s.chain p 16
    if x.st = .running ∧ e.units ≤ x.elem ∧ collTotal g e ≤ x.wrote then
      let (d, s) := freeDelay s 0
      let s := s.setChain p 16 { x with moved := true, due := s.fc p + d }
      let g := { g with fin := g.fin ++ [r] }
      let g := if g.locals.all (fun m => g.fin.contains m.1) then { g.rest with rounds := g.rounds + 1 } else g
      { s with groups := Tbl.set s.groups h g }
    else s

/-- Members that disagree all halt. -/
def collMismatch (s : State) (h : Nat) (g : Group) : State :=
  g.locals.foldl (fun s m => if (collEnt s m.2 h).isSome then haltChain s m.2 16 cACCESS 0x36 0 else s)
    { s with groups := Tbl.set s.groups h g.rest }

/-- The members of the module that stand at the operation agree, each at its rank. -/
def collAgrees (s : State) (h : Nat) (g : Group) (e : Ent) : Bool :=
  g.locals.all fun m =>
    !g.owes m.1 ||
    match collEnt s m.2 h with
    | some k => collAgree e k && rankOk k m.1 && sliceOk g k
    | none => true

/-- One access of a collective operation. A round begins when every member has come, those in other modules when a free
choice has them; another has them agree (log 19). From then on each member reads, contributes and writes as its engine
goes on; a member that faults stops alone. Members that disagree all halt. -/
def collTurn (s : State) (p op : Nat) : Out :=
  match chainEnt (s.chain p 16) with
  | none => .next s
  | some e =>
    if e.op ≠ op then .next s
    else
      let h := e.handle
      match Tbl.find? s.groups h with
      | none => .next (haltChain s p 16 cACCESS 0x36 0)
      | some g =>
        match g.locals.find? (·.2 == p) with
        | none => .next (haltChain s p 16 cACCESS 0x36 0)
        | some (r, _) =>
          if !(g.begun || collReady s h) || !collOpen s g || !g.owes r then .next s
          else if !collAgrees s h g e then .next (collMismatch s h g)
          else
            let far := g.members.any (32 ≤ ·) && !g.begun
            let (come, s) := if far then freeChoice s else (true, s)
            let (agree, s) := if far then freeChoice s else (true, s)
            if !come then .next s
            else if !agree then .next (collMismatch s h g)
            else
              let s := if g.begun then s else { s with groups := Tbl.set s.groups h { g.rest with begun := true } }
              .next (collDone (oneAccess (collLoad · p h r e) (collStore · p h r e) p 16 s) p h r e)

/-- AREDUCE. -/
def execAreduce (p : Fin 32) (c : Fin 17) (s : State) : Out := if c = 16 then collTurn s p 6 else .next s
/-- RSCAT. -/
def execRscat (p : Fin 32) (c : Fin 17) (s : State) : Out := if c = 16 then collTurn s p 7 else .next s
/-- AGATH. -/
def execAgath (p : Fin 32) (c : Fin 17) (s : State) : Out := if c = 16 then collTurn s p 8 else .next s

/-! ## Running a chain (R241) -/

/-- A chain with an entry read whole: the checks of R245, then it is performed. -/
def entryRead (s : State) (p c : Nat) (bs : List (BitVec 8)) : State :=
  let e := Ent.parse bs
  match entDetail c e with
  | some d => haltChain s p c cACCESS d 0
  | none =>
    let (f, s) := if (e.op = 4 ∨ e.op = 5) ∧ (e.spSrc ∨ e.spDst) ∧ e.count ≠ 0 then listReach s p e (e.dim 1).ext
      else (none, s)
    match f with
    | some f => chainFault s p c f
    | none =>
      let fc := s.fc p
      let seed := s.free
      { s with free := seed + 2 }.updChain p c fun x =>
        let y := { x.clear with st := .running, entry := some bs, seed := seed, tries := 0, moved := false }
        if e.count = 0 ∧ e.op ≠ 10 ∧ (e.op < 6 ∨ 8 < e.op) then { y with moved := true, due := fc } else y

/-- A 32-bit word of a chain's entries. -/
def fetchWordAt (s : State) (p : Nat) (va : BitVec 64) : Except EngFault Nat × State :=
  match memPlace s p va 4 .read with
  | (.error f, s) => (.error f, s)
  | (.ok a, s) => readPlace s p a 4

/-- The entry that starts has its address: the one CHAPP read, or the link, whose halves are read in either order. -/
def fetchLink (s : State) (p c : Nat) : State :=
  let x := s.chain p c
  let (high, s) := freeChoice s
  let h := if (Tbl.find? x.got 32).isSome then 1 else if (Tbl.find? x.got 33).isSome then 0 else if high then 1 else 0
  match fetchWordAt s p (x.cur + 0x78 + BitVec.ofNat 64 (4 * h)) with
  | (.error f, s) => chainFault s p c f
  | (.ok v, s) =>
    let got := Tbl.set x.got (32 + h) (BitVec.ofNat 32 v)
    match Tbl.find? got 32, Tbl.find? got 33 with
    | some lo, some hi =>
      let cur := hi ++ lo
      let s := s.updChain p c fun x => { x with cur := cur, curSeq := x.next, got := [] }
      if cur.toNat % 128 ≠ 0 then chainFault s p c { cause := cMISALIGN, detail := 0, va := cur } else s
    | _, _ => s.updChain p c fun x => { x with got := got }

/-- The word that holds the stamp, which is read first (R182): a stamp that is not the entry's has it read again after 64 fc,
64 times at most. -/
def fetchStamp (s : State) (p c : Nat) : State :=
  let x := s.chain p c
  match fetchWordAt s p x.cur with
  | (.error f, s) => chainFault s p c f
  | (.ok v, s) =>
    if v % 2 ^ 16 = x.next.toNat % 2 ^ 16 then
      let seed := s.free
      { s with free := seed + 1 }.updChain p c fun x => { x with got := [(0, BitVec.ofNat 32 v)], fseed := seed }
    else if 64 ≤ x.tries then haltChain s p c cCHAIN_STALE 0 (v % 2 ^ 16)
    else
      let fc := s.fc p
      s.updChain p c fun x =>
        { x with st := .stampWait, tries := x.tries + 1, due := fc + 64, stamp := BitVec.ofNat 16 (v % 2 ^ 16), got := [] }

/-- The n-th of the entry's other words, in a free order (R184). -/
def fetchRest (s : State) (p c n : Nat) : State :=
  let x := s.chain p c
  let u := orderAt x.fseed 31 n + 1
  match fetchWordAt s p (x.cur + BitVec.ofNat 64 (4 * u)) with
  | (.error f, s) => chainFault s p c f
  | (.ok v, s) =>
    let got := Tbl.set x.got u (BitVec.ofNat 32 v)
    let s := s.updChain p c fun x => { x with got := got }
    if n < 30 then s else entryRead s p c ((List.range 32).flatMap fun i => bytesOfNat 4 (Tbl.get 0 got i).toNat)

/-- One read of the entry that starts: CUR moves on for every entry after the first, then the 128 bytes are read, a word at
a time (R241, R185). -/
def fetchStep (s : State) (p c : Nat) : State :=
  let x := s.chain p c
  if x.curSeq ≠ x.next then fetchLink s p c
  else if x.cur.toNat % 128 ≠ 0 then chainFault s p c { cause := cMISALIGN, detail := 0, va := x.cur }
  else if x.got.isEmpty then fetchStamp s p c
  else fetchRest s p c (x.got.length - 1)

/-- An entry is to be read: the chain runs and holds none. -/
def fetchDue (s : State) (p c : Nat) : Bool :=
  let x := s.chain p c
  x.st == .running && x.entry.isNone && decide (x.next.toNat ≤ x.tail.toNat)

/-- The reads of one fc, at most the given number. -/
def fetchGo (p c : Nat) : Nat → State → State
  | 0, s => s
  | k + 1, s => if fetchDue s p c then fetchGo p c k (fetchStep s p c) else s

/-- An entry starts: in one fc a free number of its words are read. -/
def fetchEntry (s : State) (p c : Nat) : State :=
  let (n, s) := freePart s 34
  fetchGo p c n s

/-- STAMP_REREAD. -/
def execStampReread (p : Fin 32) (c : Fin 17) (s : State) : Out :=
  let x := s.chain p c
  if x.st = .stampWait ∧ x.due ≤ s.fc p then .next (fetchEntry (s.updChain p c fun x => { x with st := .running }) p c)
  else .next s

/-! ## Completion (R242, R244) -/

/-- The traffic units of an entry; a WAITSEQ reads the 8 bytes of its word. -/
def entryUnits (s : State) (e : Ent) : Nat :=
  let n := if e.op = 10 then 1 else e.count
  let members := match Tbl.find? s.groups e.handle with
    | some g => g.n
    | none => 1
  let wr := if e.op = 7 then n / max 1 members else if e.op = 8 then n * members else n
  (if e.reads && !e.spSrc then ceilDiv (n * e.sSize) 64 else 0) + (if e.writes && !e.spDst then ceilDiv (wr * e.dSize) 64 else 0)

/-- The charge of an entry goes to whoever announced it. -/
def chargeEntry (s : State) (p c tb : Nat) : State :=
  let x := s.chain p c
  match x.announced.find? fun a => decide (x.done.toNat ≤ a.1.toNat) with
  | some (_, .ctx q) => s.updCtx p q fun c => c.charge 0 tb
  | some (_, .region r) => chargeRegion s p r 0 tb
  | some (_, .task k n) =>
    let now := s.fc p
    s.updPad p fun x => { x with late := x.late ++ [(.task k n, { fc := now, ib := 0, tb := tb })] }
  | none => s

/-- Step 4: the message of a completed entry; a label that is not deliverable halts the chain with detail 0x39. -/
def entryToken (s : State) (p c : Nat) (e : Ent) : State :=
  match deliverTile s p e.ctag with
  | none => haltChain s p c cACCESS 0x39 0
  | some u =>
    let (d, s) := freeDelay s 0
    let bound := if c = 16 then 128 else 64
    postMsg s p
      { label := BitVec.ofNat 7 e.ctag, words := [((s.chain p c).done).setWidth 32], eos := false, src := 144 + c, iter := 0,
        due := s.fc p + 1 + d % bound, req := 0, dest := u, rid := none }

/-- The steps of R242 for an entry whose writes are performed. -/
def completeEntry (s : State) (p c : Nat) (e : Ent) : State :=
  let x := s.chain p c
  match memPlace s p x.cw 8 .write with
  | (.error f, s) => chainFault s p c f
  | (.ok a, s) =>
    let s := writePlace s p a 8 x.next.toNat false
    let s := s.updChain p c fun x => { x with done := x.next }
    let s := chargeEntry s p c (entryUnits s e)
    let s := if e.tagen then setTag s p x.owner e.ctag else s
    let s := s.updChain p c fun x =>
      { x with
        next := x.next + 1, entry := none, moved := false, remoteSent := none
        announced := x.announced.filter fun a => decide (x.done.toNat < a.1.toNat)
        st := if e.stop then .stopped else if x.next.toNat + 1 ≤ x.tail.toNat then .running else .idle }
    if e.token then entryToken s p c e else s

/-- A completion is due. -/
def completeDue (s : State) (p c : Nat) : Option Ent :=
  let x := s.chain p c
  if x.st = .running ∧ x.moved ∧ x.due ≤ s.fc p ∧ x.remoteSent.all (fun t => decide (x.due < t + 2 ^ 20)) then
    x.entry.map Ent.parse
  else none

/-- CHAIN_ENTRY_COMPLETE. A peer answers a remote write by performing or refusing it, which is a free choice here; an
entry of no elements writes nothing there. -/
def execChainEntryComplete (p : Fin 32) (c : Fin 17) (s : State) : Out :=
  match completeDue s p c with
  | none => .next s
  | some e =>
    if e.remote ∧ e.count ≠ 0 then
      let (ok, s) := freeChoice s
      .next (if ok then completeEntry s p c e else haltChain s p c cACCESS 0x38 0)
    else .next (completeEntry s p c e)

/-- CHAIN_TRANSLATION_RETRY: after ERET the chain goes on where it paused (R245). A fault in reading an entry is met again
as the entry is read, the others as the engine takes its turn. -/
def execChainTranslationRetry (p : Fin 32) (c : Fin 17) (s : State) : Out :=
  let x := s.chain p c
  .next (if x.st = .paused ∧ x.retry then s.setChain p c { x with st := .running, retry := false } else s)

/-! ## Remote writes (R379) -/

/-- A remote write has had no answer for 2^20 fc. -/
def remoteLate (s : State) (p c : Nat) : Bool :=
  let x := s.chain p c
  match x.remoteSent with
  | none => false
  | some t => x.st == .running && x.moved && decide (t + 2 ^ 20 ≤ x.due) && decide (t + 2 ^ 20 ≤ s.fc p)

/-- REMOTE_WRITE_TIMEOUT. -/
def execRemoteWriteTimeout (p : Fin 32) (c : Fin 17) (s : State) : Out :=
  .next (if remoteLate s p c then haltChain s p c cACCESS 0x38 0 else s)

/-- The bytes of a remote write put down, line by line, as far as the translation allows. -/
def remoteGo (s : State) (p : Nat) (asid : BitVec 16) : Nat → BitVec 64 → List (BitVec 8) → State
  | 0, _, _ => s
  | k + 1, va, bs =>
    if bs.isEmpty then s
    else
      let m := min bs.length (64 - va.toNat % 64)
      if !canonical va then s
      else
        match (xlWalk s p asid va .write m).1 with
        | .fault _ => s
        | .ok pa host => remoteGo (s.wrBytes host pa (bs.take m)) p asid k (va + BitVec.ofNat 64 m) (bs.drop m)

/-- REMOTE_WRITE_RECEIVE: the window bound to the sending module and partition gives the address space; W is asked for.
A write without a window, or that faults, is refused. -/
def execRemoteWriteReceive (src : BitVec 20) (part : Fin 32) (va : BitVec 64) (bytes : List (BitVec 8)) (s : State) : Out :=
  match s.linkWins.find? fun w => w.srcMod == src && w.srcPart == part.val with
  | none => .next s
  | some w => .next (remoteGo s w.part w.asid (bytes.length / 32 + 2) va bytes)

end Sys2Proof.Machine
end

