-- ==== Sys2Proof/Machine/Sha.lean ====
section
/-! DEFINITION. SHA-384 as FIPS 180-4 defines it (R382, R386): padding, message schedule, compression and the digest as 48
bytes. -/

namespace Sys2Proof.Machine

abbrev ShaWord := BitVec 64

/-- The eight working variables, or the hash value (FIPS 180-4, 6.4). -/
structure ShaState where
  a : ShaWord
  b : ShaWord
  c : ShaWord
  d : ShaWord
  e : ShaWord
  f : ShaWord
  g : ShaWord
  h : ShaWord
deriving DecidableEq, Repr

/-- The constants K of FIPS 180-4, 4.2.3. -/
def shaK0 : List ShaWord :=
  [0x428A2F98D728AE22, 0x7137449123EF65CD, 0xB5C0FBCFEC4D3B2F, 0xE9B5DBA58189DBBC,
   0x3956C25BF348B538, 0x59F111F1B605D019, 0x923F82A4AF194F9B, 0xAB1C5ED5DA6D8118,
   0xD807AA98A3030242, 0x12835B0145706FBE, 0x243185BE4EE4B28C, 0x550C7DC3D5FFB4E2,
   0x72BE5D74F27B896F, 0x80DEB1FE3B1696B1, 0x9BDC06A725C71235, 0xC19BF174CF692694]

def shaK1 : List ShaWord :=
  [0xE49B69C19EF14AD2, 0xEFBE4786384F25E3, 0x0FC19DC68B8CD5B5, 0x240CA1CC77AC9C65,
   0x2DE92C6F592B0275, 0x4A7484AA6EA6E483, 0x5CB0A9DCBD41FBD4, 0x76F988DA831153B5,
   0x983E5152EE66DFAB, 0xA831C66D2DB43210, 0xB00327C898FB213F, 0xBF597FC7BEEF0EE4,
   0xC6E00BF33DA88FC2, 0xD5A79147930AA725, 0x06CA6351E003826F, 0x142929670A0E6E70]

def shaK2 : List ShaWord :=
  [0x27B70A8546D22FFC, 0x2E1B21385C26C926, 0x4D2C6DFC5AC42AED, 0x53380D139D95B3DF,
   0x650A73548BAF63DE, 0x766A0ABB3C77B2A8, 0x81C2C92E47EDAEE6, 0x92722C851482353B,
   0xA2BFE8A14CF10364, 0xA81A664BBC423001, 0xC24B8B70D0F89791, 0xC76C51A30654BE30,
   0xD192E819D6EF5218, 0xD69906245565A910, 0xF40E35855771202A, 0x106AA07032BBD1B8]

def shaK3 : List ShaWord :=
  [0x19A4C116B8D2D0C8, 0x1E376C085141AB53, 0x2748774CDF8EEB99, 0x34B0BCB5E19B48A8,
   0x391C0CB3C5C95A63, 0x4ED8AA4AE3418ACB, 0x5B9CCA4F7763E373, 0x682E6FF3D6B2B8A3,
   0x748F82EE5DEFB2FC, 0x78A5636F43172F60, 0x84C87814A1F0AB72, 0x8CC702081A6439EC,
   0x90BEFFFA23631E28, 0xA4506CEBDE82BDE9, 0xBEF9A3F7B2C67915, 0xC67178F2E372532B]

def shaK4 : List ShaWord :=
  [0xCA273ECEEA26619C, 0xD186B8C721C0C207, 0xEADA7DD6CDE0EB1E, 0xF57D4F7FEE6ED178,
   0x06F067AA72176FBA, 0x0A637DC5A2C898A6, 0x113F9804BEF90DAE, 0x1B710B35131C471B,
   0x28DB77F523047D84, 0x32CAAB7B40C72493, 0x3C9EBE0A15C9BEBC, 0x431D67C49C100D4C,
   0x4CC5D4BECB3E42B6, 0x597F299CFC657E2A, 0x5FCB6FAB3AD6FAEC, 0x6C44198C4A475817]

def shaK : List ShaWord := shaK0 ++ shaK1 ++ shaK2 ++ shaK3 ++ shaK4

/-- The initial hash value of SHA-384 (FIPS 180-4, 5.3.4). -/
def shaInit : ShaState :=
  { a := 0xCBBB9D5DC1059ED8, b := 0x629A292A367CD507, c := 0x9159015A3070DD17, d := 0x152FECD8F70E5939,
    e := 0x67332667FFC00B31, f := 0x8EB44A8768581511, g := 0xDB0C2E0D64F98FA7, h := 0x47B5481DBEFA4FA4 }

/-! ## Functions of FIPS 180-4, 4.1.3 -/

def shaCh (x y z : ShaWord) : ShaWord := (x &&& y) ^^^ (~~~x &&& z)
def shaMaj (x y z : ShaWord) : ShaWord := (x &&& y) ^^^ (x &&& z) ^^^ (y &&& z)
def shaSum0 (x : ShaWord) : ShaWord := x.rotateRight 28 ^^^ x.rotateRight 34 ^^^ x.rotateRight 39
def shaSum1 (x : ShaWord) : ShaWord := x.rotateRight 14 ^^^ x.rotateRight 18 ^^^ x.rotateRight 41
def shaSig0 (x : ShaWord) : ShaWord := x.rotateRight 1 ^^^ x.rotateRight 8 ^^^ x >>> 7
def shaSig1 (x : ShaWord) : ShaWord := x.rotateRight 19 ^^^ x.rotateRight 61 ^^^ x >>> 6

/-! ## Blocks -/

/-- The bytes of a number of n bytes, most significant first. -/
def bytesBe (n v : Nat) : List (BitVec 8) := (bytesOfNat n v).reverse

/-- The message padded to a whole number of 128-byte blocks (5.1.2). -/
def shaPad (bs : List (BitVec 8)) : List (BitVec 8) :=
  let n := bs.length
  bs ++ [0x80] ++ List.replicate ((239 - n % 128) % 128) 0 ++ bytesBe 16 (8 * n)

/-- Word i of a block, most significant byte first. -/
def shaWord (block : List (BitVec 8)) (i : Nat) : ShaWord :=
  BitVec.ofNat 64 (natOfBytes ((block.drop (8 * i)).take 8).reverse)

/-- The message schedule, newest word first, after k words beyond the sixteen of the block (6.4.2, step 1). -/
def shaSchedule (block : List (BitVec 8)) : Nat → List ShaWord
  | 0 => ((List.range 16).map (shaWord block)).reverse
  | k + 1 =>
    let l := shaSchedule block k
    (shaSig1 (l.getD 1 0) + l.getD 6 0 + shaSig0 (l.getD 14 0) + l.getD 15 0) :: l

/-- One round (step 3). -/
def shaRound (v : ShaState) (kw : ShaWord × ShaWord) : ShaState :=
  let t1 := v.h + shaSum1 v.e + shaCh v.e v.f v.g + kw.1 + kw.2
  let t2 := shaSum0 v.a + shaMaj v.a v.b v.c
  { a := t1 + t2, b := v.a, c := v.b, d := v.c, e := v.d + t1, f := v.e, g := v.f, h := v.g }

/-- The hash value after a block (steps 2 to 4). -/
def shaBlock (s : ShaState) (block : List (BitVec 8)) : ShaState :=
  let v := (shaK.zip (shaSchedule block 64).reverse).foldl shaRound s
  { a := s.a + v.a, b := s.b + v.b, c := s.c + v.c, d := s.d + v.d, e := s.e + v.e, f := s.f + v.f, g := s.g + v.g,
    h := s.h + v.h }

/-- The hash value after n blocks of a padded message. -/
def shaBlocks : Nat → ShaState → List (BitVec 8) → ShaState
  | 0, s, _ => s
  | n + 1, s, bs => shaBlocks n (shaBlock s (bs.take 128)) (bs.drop 128)

/-- SHA-384: the first 384 bits of the hash value, most significant byte first. -/
def sha384 (bs : List (BitVec 8)) : List (BitVec 8) :=
  let m := shaPad bs
  let s := shaBlocks (m.length / 128) shaInit m
  [s.a, s.b, s.c, s.d, s.e, s.f].flatMap fun w => bytesBe 8 w.toNat

end Sys2Proof.Machine
end

