-- ==== Sys2Proof/Machine/Tasks.lean ====
section
/-! DEFINITION. The task and budget class (R257 to R280): the sequencer instructions 0x80 to 0x87, YIELDE and BUDQ, and the
life of a task: slots, retirement, the budget adder, freezes, resumption and yields. -/

namespace Sys2Proof.Machine

open Host (Outcome)

/-! ## Task records and task types (R259, R260) -/

/-- The fields of a task record; none when it is bad (detail 0x41). Its reserved bits are ignored (R5). -/
structure TaskRec where
  ttype : BitVec 12
  row0 : Nat
  col0 : Nat
  place : Nat
  arg : BitVec 48

def TaskRec.parse (ttlen : Nat) (bs : List (BitVec 8)) : Option TaskRec :=
  let (w0, w1) := (natOfBytes (bs.take 8), natOfBytes ((bs.drop 8).take 8))
  if w0 / 2 ^ 20 % 4 = 3 ∨ ttlen ≤ w0 % 4096 then none
  else
    some { ttype := BitVec.ofNat 12 w0, row0 := w0 / 2 ^ 12 % 16, col0 := w0 / 2 ^ 16 % 16, place := w0 / 2 ^ 20 % 4,
           arg := BitVec.ofNat 48 w1 }

/-- A budget of 1 to 2^62 − 1. -/
def budgetOk (v : Nat) : Bool := decide (1 ≤ v) && decide (v < 2 ^ 62)

/-- The fields of a task-type entry; none when it is bad. Its reserved bits, and bits [11] and [15:14] of the word at 0x20,
which Table 14-3 does not list, are ignored (R5, log 96). -/
structure TypeEnt where
  main : BitVec 64
  fold2 : BitVec 64
  fold4 : BitVec 64
  contc : BitVec 64
  h : Nat
  w : Nat
  prio : Nat
  cclass : BitVec 2
  ibud : BitVec 64
  tbud : BitVec 64

def TypeEnt.parse (bs : List (BitVec 8)) : Option TypeEnt :=
  let n := fun (i : Nat) => natOfBytes ((bs.drop (8 * i)).take 8)
  let v := n 4
  let bad := n 0 == 0 || v / 2 ^ 12 % 4 == 3 || decide (8 < v / 2 ^ 32 % 16) || decide (4 < v / 2 ^ 36 % 8) ||
    !budgetOk (n 5) || !budgetOk (n 6)
  if bad then none
  else
    some { main := BitVec.ofNat 64 (n 0), fold2 := BitVec.ofNat 64 (n 1), fold4 := BitVec.ofNat 64 (n 2),
           contc := BitVec.ofNat 64 (n 3), h := v % 16 + 1, w := v / 16 % 16 + 1, prio := v / 2 ^ 8 % 8,
           cclass := BitVec.ofNat 2 (v / 2 ^ 12), ibud := BitVec.ofNat 64 (n 5), tbud := BitVec.ofNat 64 (n 6) }

/-! ## LNCH (R262) -/

/-- A slot that a launch may take: free, or faulted with no region left (R261). -/
def Task.open_ (t : Task) : Bool := t.st == .free || (t.st == .faulted && t.rid.isNone)

/-- The lowest such slot. -/
def Paddock.taskSlot (x : Paddock) : Option Nat := (List.range 64).find? fun k => (x.task k).open_

/-- The task a launch makes. -/
def launchedTask (old : Task) (c : Ctx) (q : Nat) (f : SeqF) (r : TaskRec) (e : TypeEnt) : Task :=
  { st := .queued, ser := old.ser + 1, parent := q, ttype := r.ttype, row0 := r.row0, col0 := r.col0, place := r.place,
    arg := r.arg, ibud := e.ibud, tbud := e.tbud, contpt := c.contpt, tag := f.imm.extractLsb' 0 6,
    ytag := f.imm.extractLsb' 8 6, yten := f.imm.getLsbD 14, main := e.main, fold2 := e.fold2, fold4 := e.fold4,
    contc := e.contc, h := e.h, w := e.w, prio := e.prio, cclass := e.cclass,
    seed := c.launch.seed ^^^ (r.arg.setWidth 64 <<< 16),
    ufc := if c.launch.ufcf then some c.launch.ufc else none, fuse := c.launch.fuse }

/-- A launch in a free slot: the budgets are compared after its own charges; a trap charges nothing. -/
def launchIn (s : State) (p q : Nat) (f : SeqF) (k : Nat) (r : TaskRec) (e : TypeEnt) : State :=
  let s := { s with cur := { s.cur with p := p, q := q } }
  let c := (s.ctx p q).charge 32 (lines64 (80 + 264 * e.h * e.w))
  if c.ibud.toInt < e.ibud.toInt then precise s cBUDGET_I (some e.ibud) none
  else if c.tbud.toInt < e.tbud.toInt then precise s cBUDGET_T (some e.tbud) none
  else
    let t := launchedTask (s.task p k) c q f r e
    let s := s.setTask p k t
    let s := s.setCtx p q
      { (({ c with ibud := c.ibud - e.ibud, tbud := c.tbud - e.tbud } : Ctx).adv).wr f.d (taskHandle k t) with wait := .ready }
    taskBid s p k

/-- LNCH. With no slot free it waits, the record and entry as read kept in its stage. -/
def execLnch (f : SeqF) (s : State) : Out :=
  issueWith f anyone s fun s =>
    let (p, q) := (s.cur.p, s.cur.q)
    let a := s.curCtx.opA f
    let l := s.curCtx.launch
    if !canonical a then .next (addrTrap s cXLATE a .read)
    else if a.toNat % 16 ≠ 0 then .next (addrTrap s cMISALIGN a .read)
    else
      match readBytes s p .read a 16 with
      | (.error (c, va), s) => .next (addrTrap s c va .read)
      | (.ok rb, s) =>
        match TaskRec.parse l.ttlen rb with
        | none => .next (refuse s a 0x41)
        | some r =>
          match readBytes s p .read (l.ttbase + BitVec.ofNat 64 (64 * r.ttype.toNat)) 64 with
          | (.error (c, va), s) => .next (addrTrap s c va .read)
          | (.ok eb, s) =>
            match TypeEnt.parse eb with
            | none => .next (refuse s a 0x42)
            | some e =>
              if !inFabric r.row0 r.col0 e.h e.w then .next (refuse s a 0x42)
              else
                match (s.pad p).taskSlot with
                | some k => .next (launchIn s p q f k r e)
                | none => .next (pollFor s 0x80 f (natOfBytes (rb ++ eb)))

/-- LNCH_SLOT_ACQUIRE: a waiting LNCH takes a slot that has become free. -/
def execLnchSlotAcquire (p : Fin 32) (q : Fin 4) (s : State) : Out :=
  match pollOf s p q 0x80, (s.pad p).taskSlot with
  | some (f, st), some k =>
    let bs := bytesOfNat 80 st
    match TaskRec.parse 4096 (bs.take 16), TypeEnt.parse (bs.drop 16) with
    | some r, some e => .next (launchIn s p q f k r e)
    | _, _ => .next s
  | _, _ => .next s

/-! ## Handles (R261, R277) -/

/-- A handle: bits outside SLOT and SER are zero. -/
def handleOk (a : BitVec 64) : Bool := a &&& ~~~0x3FFF3F == 0

/-- What a handle names. -/
inductive Named where
  | task (k : Nat)
  | stale
  | bad
deriving DecidableEq, Repr

def nameTask (s : State) (p q : Nat) (a : BitVec 64) : Named :=
  let k := fld a 0 6
  let t := s.task p k
  if !handleOk a then .bad
  else if t.st = .free ∨ t.ser.toNat ≠ fld a 8 14 then .stale
  else if t.parent ≠ q then .bad
  else .task k

/-- An instruction of the context on the task its operand names. -/
def taskIns (f : SeqF) (s : State) (perm : Ctx → Bool) (body : Nat → State → State) : Out :=
  issueWith f perm s fun s =>
    match nameTask s s.cur.p s.cur.q (s.curCtx.opA f) with
    | .task k => .next (body k s)
    | _ => .next (refuseA s f 0x40)

/-! ## TSKQ and BRD (R278) -/

def TaskSt.code : TaskSt → Nat
  | .free => 0 | .queued => 1 | .running => 2 | .frozen => 3 | .released => 4 | .faulted => 5

/-- Table 14-10. -/
def taskStatus (t : Task) : BitVec 64 :=
  let rid := if t.st = .running ∨ t.st = .frozen then t.rid.getD 0 else 0
  BitVec.ofNat 64 (t.st.code + t.iexh.toNat * 2 ^ 4 + t.texh.toNat * 2 ^ 5 + t.ypend.toNat * 2 ^ 6 + t.contq.toNat * 2 ^ 7 +
    rid * 2 ^ 8 + t.row0 * 2 ^ 12 + t.col0 * 2 ^ 16 + t.ttype.toNat * 2 ^ 20)

/-- The active CFGID of a task; with no region of its own it is a free value (log 20). -/
def taskCfgid (s : State) (p : Nat) (t : Task) : BitVec 64 × State :=
  match t.rid with
  | some r => ((hdrCfgid ((s.region p r).activeHdr s p)).setWidth 64, s)
  | none =>
    let (w, s) := freeWord s
    ((w.setWidth 16).setWidth 64, s)

/-- TSKQ; a stale handle answers 0 (R272). -/
def execTskq (f : SeqF) (s : State) : Out :=
  issueWith f anyone s fun s =>
    let p := s.cur.p
    match nameTask s p s.cur.q (s.curCtx.opA f) with
    | .bad => .next (refuseA s f 0x40)
    | .stale => .next (finishCur s 1 0 fun c => c.wr f.d 0)
    | .task k =>
      let t := s.task p k
      let (v, s) := match fld f.imm 0 2 with
        | 0 => (taskStatus t, s)
        | 1 => (t.contpt, s)
        | 2 => (t.ycode.setWidth 64, s)
        | _ => taskCfgid s p t
      .next (finishCur s 1 0 fun c => c.wr f.d v)

/-- IBUD, TBUD, IDEBT or TDEBT by selector (R265). -/
def budgetSel (ib tb : BitVec 64) (sel : Nat) : BitVec 64 :=
  match sel with
  | 0 => budRead ib
  | 1 => budRead tb
  | 2 => debtRead ib
  | _ => debtRead tb

/-- BRD. -/
def execBrd (f : SeqF) (s : State) : Out :=
  taskIns f s anyone fun k s =>
    let t := s.task s.cur.p k
    finishCur s 1 0 fun c => c.wr f.d (budgetSel t.ibud t.tbud (fld f.imm 0 2))

/-! ## BSPL, BTOP, YLD, CONT (R271, R278) -/

/-- An amount added to a task's counter (R265). -/
def addTask (s : State) (p k : Nat) (tb : Bool) (v : BitVec 64) : State :=
  s.updTask p k fun t => if tb then { t with tbud := t.tbud + v } else { t with ibud := t.ibud + v }

def Ctx.add (c : Ctx) (tb : Bool) (v : BitVec 64) : Ctx :=
  if tb then { c with tbud := c.tbud + v } else { c with ibud := c.ibud + v }

/-- BSPL. -/
def execBspl (f : SeqF) (s : State) : Out :=
  taskIns f s anyone fun k s =>
    let v := s.curCtx.opB f
    let tb := f.imm.getLsbD 0
    let c := s.curCtx.charge 1 0
    if 2 ^ 62 ≤ v.toNat then refuseA s f 0x43
    else if (if tb then c.tbud else c.ibud).toInt < v.toInt then precise s (if tb then cBUDGET_T else cBUDGET_I) (some v) none
    else addTask (finishCur s 1 0 fun c => c.add tb (0 - v)) s.cur.p k tb v

def mayTopup (c : Ctx) : Bool := c.rights.getLsbD 0
def mayTrace (c : Ctx) : Bool := c.rights.getLsbD 2

/-- BTOP: to a task, or with CTX to a context of the paddock. -/
def execBtop (f : SeqF) (s : State) : Out :=
  if f.imm.getLsbD 1 then
    issueWith f mayTopup s fun s =>
      let a := s.curCtx.opA f
      let v := s.curCtx.opB f
      if 4 ≤ a.toNat then .next (refuse s a 0x44)
      else .next ((finishCur s 1 0 fun c => c).updCtx s.cur.p a.toNat fun c => c.add (f.imm.getLsbD 0) v)
  else
    taskIns f s mayTopup fun k s =>
      addTask (finishCur s 1 0 fun c => c) s.cur.p k (f.imm.getLsbD 0) (s.curCtx.opB f)

/-- YLD waits. -/
def execYld (f : SeqF) (s : State) : Out :=
  issueWith f anyone s fun s => .next (pollFor s 0x85 f 0)

/-- A waiting YLD whose context's counters are positive, its own charge made. -/
def tryYld (s : State) (p q : Nat) : Option State :=
  let c := (s.ctx p q).charge 1 0
  if 0 < c.ibud.toInt ∧ 0 < c.tbud.toInt then some (finish s p q 1 0 fun c => c) else none

/-- CONT. -/
def execCont (f : SeqF) (s : State) : Out :=
  issueWith f anyone s fun s =>
    let a := s.curCtx.opA f
    if a.toNat % 64 ≠ 0 then .next (precise s cMISALIGN (some a) none)
    else .next (finishCur s 1 0 fun c => { c with contpt := a })

/-! ## TRACE (R274, R275, R278) -/

/-- The status TRACE reads. -/
def traceStatus (t : Trace) : BitVec 64 :=
  BitVec.ofNat 64 (t.count.toNat + t.full.toNat * 2 ^ 32 + t.diverged.toNat * 2 ^ 33 + t.mode.toNat * 2 ^ 34)

/-- Waiting bids numbered anew by queue, in order of placing. -/
def renumber : List Bid → Tbl Nat → List Bid × Tbl Nat
  | [], o => ([], o)
  | b :: bs, o =>
    let n := Tbl.get 0 o b.q
    let (l, o) := renumber bs (Tbl.set o b.q (n + 1))
    ({ b with ord := n } :: l, o)

/-- A mode set, the status cleared. -/
def traceOn (s : State) (mode : Nat) (base size : BitVec 64) : State :=
  s.updPad s.cur.p fun x =>
    let (bids, ords) := renumber x.bids []
    { x with bids := bids, bidNow := true, trace := { mode := BitVec.ofNat 2 mode, base := base, size := size, ords := ords, q := s.cur.q } }

/-- TRACE: sD receives the status before the change. -/
def traceIns (f : SeqF) (s : State) (on : Option Nat) (upd : State → State) : Out :=
  issueWith f mayTrace s fun s =>
    let a := s.curCtx.opA f
    let b := s.curCtx.opB f
    let st := traceStatus (s.pad s.cur.p).trace
    if on.isSome && (a.toNat % 64 != 0 || b == 0) then .next (refuse s a 0x45)
    else
      let s' := match on with
        | some m => traceOn s m a b
        | none => upd s
      .next (finishCur s' 1 0 fun c => c.wr f.d st)

/-- TRACE with mode 0. -/
def execTraceOff (f : SeqF) (s : State) : Out := traceIns f s none fun s => s.updTrace s.cur.p fun t => { t with mode := 0 }

/-- TRACE with mode 1. -/
def execTraceRecord (f : SeqF) (s : State) : Out := traceIns f s (some 1) id

/-- TRACE with mode 2. -/
def execTraceBind (f : SeqF) (s : State) : Out := traceIns f s (some 2) id

/-- TRACE with mode 3 only reads. -/
def execTraceRead (f : SeqF) (s : State) : Out := traceIns f s none id

/-! ## YIELDE and BUDQ (R273, R280) -/

/-- YIELDE. -/
def execYielde (f : FabF) (s : State) : Out :=
  let x := s.fir
  match x.reg.task with
  | none => .next (elementTrap s 0xF0 f)
  | some k =>
    let t := s.task x.p k
    if t.contpt = 0 then .next (elementTrap s 0xF0 f)
    else
      let s := if t.ypend then s else
        (s.setTask x.p k { t with ypend := true, ycode := x.opB f }).updRegion x.p x.rid fun r =>
          { r with yieldAt := some (s.fc x.p + 1) }
      let (n, s) := freeNz f s
      .next (applyEffect f { nonzero := n, formed := false } (commitActing s))

/-- The counters a region's firings are charged to: its task's, or its owner's (R351). -/
def regionBudget (s : State) (p : Nat) (r : Region) : BitVec 64 × BitVec 64 :=
  match r.task with
  | some k => ((s.task p k).ibud, (s.task p k).tbud)
  | none => ((s.ctx p r.owner).ibud, (s.ctx p r.owner).tbud)

/-- BUDQ. -/
def execBudq (f : FabF) (s : State) : Out :=
  let x := s.fir
  let (ib, tb) := regionBudget s x.p x.reg
  let r : BitVec 32 := BitVec.ofNat 32 (min (budgetSel ib tb (f.pd.toNat % 4)).toNat (2 ^ 32 - 1))
  .next (applyEffect f (resEffect f x r (r != 0)) s)

/-! ## The budget adder and freezes (R267, R268) -/

/-- Charges of fc t reach the counters at the end of fc t + 3. -/
def adderDue (s : State) (p : Nat) (r : Region) : List Charge := r.charges.filter fun c => decide (c.fc + 3 ≤ s.fc p)

/-- The task of a region with no freeze coming and an enforced counter exhausted. A trap that stands does not keep the
freeze from being armed; it takes effect when the region next runs (R267, R272). -/
def freezeTrigger (s : State) (p : Nat) (r : Region) : Option Nat :=
  match r.task with
  | none => none
  | some k =>
    let t := s.task p k
    if r.alloc ∧ (t.st = .running ∨ t.st = .faulted) ∧ r.freezeAt = none ∧ t.exhausted then some k else none

/-- BUDGET_ADDER_UPDATE: the charges are applied; an enforced counter at or below 0 then freezes the region from fc
t + 8, which is 5 fc on. -/
def execBudgetAdderUpdate (p : Fin 32) (r : Fin 16) (s : State) : Out :=
  let x := s.region p r
  let due := adderDue s p x
  let ib := due.foldl (fun n c => n + c.ib) 0
  let tb := due.foldl (fun n c => n + c.tb) 0
  let s := s.setRegion p r { x with charges := x.charges.filter fun c => !decide (c.fc + 3 ≤ s.fc p) }
  let s := match x.task with
    | some k => s.updTask p k fun t => { t with ibud := t.ibud - BitVec.ofNat 64 ib, tbud := t.tbud - BitVec.ofNat 64 tb }
    | none => if x.alloc then s.updCtx p x.owner fun c => c.charge ib tb else s
  match freezeTrigger s p (s.region p r) with
  | none => .next s
  | some k =>
    let fc := s.fc p
    let s := s.updTask p k Task.frozenBy
    .next (s.updRegion p r fun x => { x with freezeAt := some (fc + 5) })

/-- A save to CONTPT (R268). A fault stops it, and bytes already written stay written: the region takes a fabric trap with
the faulting address, the task takes STATE 5, and the save is owed. -/
def saveTask (s : State) (p k rid : Nat) : Bool × State :=
  let r := s.region p rid
  match writeSome s p (s.task p k).contpt (saveBytes s p r) with
  | (none, s) => (true, s)
  | (some (c, va), s) =>
    let s := regionTrap s p (tileAt r.row0 r.col0) c va
    let s := s.updRegion p rid fun r => { r with owesSave := true }
    (false, s.updTask p k fun t => { t with st := .faulted })

/-- The yield tag (R268). -/
def yieldTag (s : State) (p k : Nat) : State :=
  let t := s.task p k
  if t.yten then setTag s p t.parent t.ytag.toNat else s

/-- An engine entry that the region announced has begun and runs (R267). -/
def entryRuns (s : State) (p rid : Nat) : Bool :=
  (s.pad p).chains.any fun e =>
    e.2.st == .running && e.2.entry.isSome && e.2.announced.any fun a => a.2 == .region rid && decide (e.2.done.toNat < a.1.toNat)

/-- A freeze or a yield of a region is due: its fc has come, work begun, engine entries among it, has completed and no
trap stands. -/
def stopDue (s : State) (p rid : Nat) (at_ : Option Nat) : Bool :=
  let r := s.region p rid
  r.alloc && !entryRuns s p rid && r.trap.isNone && !r.saved && !r.paused && at_.any (fun t => decide (t ≤ s.fc p)) && settled s p r

/-! ## Retirement (R264) -/

/-- A task retires: its region meets R133, every charge has reached the counters, and no enforced counter is negative;
a pending yield comes first. -/
def retireDue (s : State) (p k : Nat) : Bool :=
  let t := s.task p k
  match t.rid with
  | none => false
  | some rid =>
    let r := s.region p rid
    t.st == .running && !t.ypend && r.alloc && r.st == .running && !r.saved && r.trap.isNone && !r.paused &&
      r.charges.isEmpty && !(s.pad p).late.any (lateOf s p k) && !t.inDebt && retires s p rid r

/-- BUDGET_FREEZE. A task that retires in this fc does not freeze (R272). -/
def execBudgetFreeze (p : Fin 32) (r : Fin 16) (s : State) : Out :=
  let x := s.region p r
  match x.task with
  | none => .next s
  | some k =>
    if !stopDue s p r x.freezeAt || retireDue s p k then .next s
    else
      let t := s.task p k
      if t.contpt = 0 then
        let s := regionTrap s p (tileAt x.row0 x.col0) (if t.iexh then cBUDGET_I else cBUDGET_T) 0
        .next (s.updTask p k fun t => { t with st := .faulted })
      else
        match saveTask s p k r with
        | (false, s) => .next s
        | (true, s) =>
          let s := markSaved s p r
          .next (yieldTag (s.updTask p k fun t => { t with st := .frozen }) p k)

/-! ## Resumption (R269) -/

/-- A frozen task whose enforced counters are all positive. -/
def resumeDue (s : State) (p k : Nat) : Bool :=
  let t := s.task p k
  t.st == .frozen && t.rid.isSome && !t.exhausted && !(s.region p (t.rid.getD 16)).paused

/-- TASK_RESUME. -/
def execTaskResume (p : Fin 32) (k : Fin 64) (s : State) : Out :=
  let t := s.task p k
  match t.rid with
  | none => .next s
  | some rid =>
    if !resumeDue s p k then .next s
    else
      match restoreRegion s p rid t.contpt with
      | (.ok _, s) =>
        let r := s.region p rid
        let s := s.updTask p k fun t => { t with st := .running, contq := true }
        .next (dispatchEvent s p 3 r.owner rid t.ttype.toNat r.row0 r.col0 r.ord)
      | (.error _, s) =>
        let s := s.updTask p k fun t => { t with st := .faulted }
        .next (report s p t.parent cACCESS (taskHandle k t) 0x1A (.task k))

/-! ## Yields (R273) -/

/-- YIELD_RELEASE: saved, freed, and a new bid placed; a freeze that stands comes first, and one that is to come stays with the
task (R272, R267). -/
def execYieldRelease (p : Fin 32) (k : Fin 64) (s : State) : Out :=
  let t := s.task p k
  match t.rid with
  | none => .next s
  | some rid =>
    let r := s.region p rid
    if t.st ≠ .running ∨ !t.ypend ∨ !stopDue s p rid r.yieldAt ∨ r.freezeAt.any (fun n => decide (n ≤ s.fc p)) then .next s
    else
      match saveTask s p k rid with
      | (false, s) => .next s
      | (true, s) =>
        let s := dispatchEvent s p 4 r.owner rid t.ttype.toNat r.row0 r.col0 r.ord
        let s := freeRegion s p rid (some (k, t.ser))
        let s := s.updTask p k fun t => { t with st := .released, rid := none, contq := true, stopAt := r.freezeAt }
        .next (taskBid (yieldTag s p k) p k)

/-- TASK_RETIRE. -/
def execTaskRetire (p : Fin 32) (k : Fin 64) (s : State) : Out :=
  let t := s.task p k
  match t.rid with
  | none => .next s
  | some rid =>
    if !retireDue s p k then .next s
    else
      let s := returnBudget s p k
      let s := freeRegion s p rid none
      let s := fuse s p k false
      let s := s.setTask p k { ser := t.ser }
      .next (setTag s p t.parent t.tag.toNat)

end Sys2Proof.Machine
end

