-- ==== Sys2Proof/Machine/Shape.lean ====
section
/-! DEFINITION. The Shape Journal's records and objects (R281 to R300, R392): records written into the area and copied to
subscribers, the object table, proposals, the actions of a shape point, trials and the revert closure. -/

namespace Sys2Proof.Machine

/-! ## Partitions -/

/-- The paddocks a mask names, lowest first. -/
def maskList (m : BitVec 32) : List Nat := (List.range 32).filter fun p => m.getLsbD p

/-- The partition of a paddock; 32 when it has none. -/
def State.partOf (s : State) (p : Nat) : Nat := (s.pad p).part.getD 32

def State.jr (s : State) (n : Nat) : Journal := (s.part n).jr
def State.updJr (s : State) (n : Nat) (f : Journal → Journal) : State := s.updPart n fun x => { x with jr := f x.jr }

/-- The partition's lowest-numbered paddock, whose shape unit is the shape controller (R281). -/
def State.lead (s : State) (n : Nat) : Nat := (maskList (s.part n).mask).headD n

/-! ## Records (R284) -/

abbrev kFORMAT : BitVec 4 := 3
abbrev kUNDO : BitVec 4 := 8
abbrev kREFUSED : BitVec 4 := 9
abbrev kPIN : BitVec 4 := 10
abbrev kUNPIN : BitVec 4 := 11
abbrev kREPLAY : BitVec 4 := 12

abbrev rPROPOSED : BitVec 4 := 0
abbrev rTRIAL : BitVec 4 := 1
abbrev rCONFIRMED : BitVec 4 := 2
abbrev rUNDONE : BitVec 4 := 3
abbrev rREJECTED : BitVec 4 := 4

abbrev fNOTRIAL : BitVec 8 := 1
abbrev fAUTO : BitVec 8 := 2
abbrev fLAST : BitVec 8 := 4
abbrev fDEVICE : BitVec 8 := 8
abbrev fINACC : BitVec 8 := 16

/-- A change record: kinds 1 to 4. -/
def JRec.isChange (r : JRec) : Bool := decide (1 ≤ r.kind.toNat) && decide (r.kind.toNat ≤ 4)

/-- A change record applied and not UNDONE. -/
def JRec.stands (r : JRec) : Bool := r.isChange && (r.st == rTRIAL || r.st == rCONFIRMED)

def JRec.device (r : JRec) : Bool := r.flags &&& fDEVICE != 0

/-- Applied (R282). -/
def JRec.applied (r : JRec) : Bool := decide (8 ≤ r.kind.toNat) || r.st == rTRIAL || r.st == rCONFIRMED || r.st == rUNDONE

/-- DEP0 to DEP3, deltas. -/
def JRec.dep (r : JRec) (i : Nat) : Nat := (r.deps.getD i 0).toNat

/-- The seqs a record declares. -/
def JRec.declares (r : JRec) : List Nat :=
  (List.range 4).filterMap fun i => if r.dep i = 0 then none else some (r.seq.toNat - r.dep i)

/-- The eight words of Table 15-2, CHECK left zero. -/
def JRec.body (r : JRec) : List Nat :=
  [r.seq.toNat + r.kind.toNat * 2 ^ 48 + r.st.toNat * 2 ^ 52 + r.flags.toNat * 2 ^ 56,
   r.pmask.toNat + r.obj.toNat * 2 ^ 32,
   r.dep 0 + r.dep 1 * 2 ^ 16 + r.dep 2 * 2 ^ 32 + r.dep 3 * 2 ^ 48,
   r.before.toNat, r.after.toNat,
   r.base.toNat + r.meas.toNat * 2 ^ 32,
   r.origin.toNat + r.reason.toNat * 2 ^ 8 + r.conv.toNat * 2 ^ 32 + r.inex.toNat * 2 ^ 48,
   r.time.toNat]

/-- CHECK: the XOR of the 31 halfwords before it. -/
def checkOf (ws : List Nat) : BitVec 16 :=
  ((ws.flatMap fun w => (List.range 4).map fun i => w / 2 ^ (16 * i) % 2 ^ 16).take 31).foldl
    (fun (c : BitVec 16) h => c ^^^ BitVec.ofNat 16 h) 0

def JRec.bytes (r : JRec) : List (BitVec 8) :=
  (r.body.take 7).flatMap (bytesOfNat 8 ·) ++ bytesOfNat 8 (r.time.toNat + (checkOf r.body).toNat * 2 ^ 48)

/-- A record read from its 64 bytes; none when CHECK does not match. -/
def JRec.parse (bs : List (BitVec 8)) : Option JRec :=
  let w := fun (i : Nat) => natOfBytes ((bs.drop (8 * i)).take 8)
  if checkOf ((List.range 8).map w) ≠ BitVec.ofNat 16 (w 7 / 2 ^ 48) then none
  else
    some { seq := BitVec.ofNat 48 (w 0), kind := BitVec.ofNat 4 (w 0 / 2 ^ 48), st := BitVec.ofNat 4 (w 0 / 2 ^ 52),
           flags := BitVec.ofNat 8 (w 0 / 2 ^ 56), pmask := BitVec.ofNat 32 (w 1), obj := BitVec.ofNat 32 (w 1 / 2 ^ 32),
           deps := (List.range 4).map fun i => BitVec.ofNat 16 (w 2 / 2 ^ (16 * i)),
           before := BitVec.ofNat 64 (w 3), after := BitVec.ofNat 64 (w 4) }

/-- EARLY (R282). -/
def Journal.early (j : Journal) : Nat := max j.first.toNat (j.next.toNat - 2 ^ j.k)

def Journal.find (j : Journal) (seq : Nat) : Option JRec := Tbl.find? j.recs seq

/-- The records in a state, in ascending seq. -/
def Journal.inState (j : Journal) (st : BitVec 4) : List JRec :=
  (j.recs.map (·.2)).filter fun r => r.isChange && r.st == st

/-- Seqs from EARLY to NEXT − 1. -/
def Journal.holds (j : Journal) (seq : Nat) : Bool := decide (j.early ≤ seq) && decide (seq < j.next.toNat)

/-- The address of a record in the area. -/
def Journal.addr (j : Journal) (a : BitVec 64) (seq : Nat) : BitVec 64 := a + BitVec.ofNat 64 (64 * (seq % 2 ^ j.k))

/-! ## Writing a record (R303, R391) -/

/-- The rest of a record's write performed. -/
def flushArea (s : State) (n : Nat) : State :=
  match (s.jr n).tail with
  | none => s
  | some (pa, host, bs) => (s.wrBytes host pa bs).updJr n fun j => { j with tail := none }

/-- The record written into the area: a free number of its 32-bit words at once, the rest before the next fc of a paddock
of the partition, the next write and every observation of R309, so that a plain load may see words of two writes. A write
that faults is not made, is reported to the context of the last JBASE and stops the journal. -/
def areaPut (s : State) (n : Nat) (r : JRec) : State :=
  let s := flushArea s n
  let j := s.jr n
  match j.area with
  | none => s
  | some a =>
    let va := j.addr a r.seq.toNat
    match placeVA s (s.lead n) 2 va 64 with
    | (.ok ((pa, host, _) :: _), s) =>
      let (w, s) := freePart s 16
      let s := s.wrBytes host pa (r.bytes.take (4 * w))
      if w < 16 then s.updJr n fun j => { j with tail := some (pa + 4 * w, host, r.bytes.drop (4 * w)) } else s
    | (.ok [], s) => s
    | (.error (c, _), s) =>
      let s := s.updJr n fun j => { j with stopped := true, failed := j.failed ++ [r.seq] }
      match j.baseBy with
      | none => s
      | some (p, q) => report s p q c va (r.seq.setWidth 64) .journal

/-- The record written, unless another has taken its place in the area. -/
def areaWrite (s : State) (n : Nat) (r : JRec) : State :=
  if r.seq.toNat + 2 ^ (s.jr n).k < (s.jr n).next.toNat then s else areaPut s n r

/-- One subscription's copy of a record (R303): a full ring drops it; so does a ring that cannot be reached. -/
def subCopy (s : State) (n : Nat) (bytes : List (BitVec 8)) (kind : BitVec 4) (i : Nat) : State :=
  let u : Sub := Tbl.get {} (s.jr n).subs i
  let lost := fun (s : State) => s.updJr n fun j => { j with subs := Tbl.set j.subs i { u with ovf := true } }
  if !u.active || !(u.kinds == 0 || u.kinds.getLsbD kind.toNat) then s
  else
    match readBytes s u.paddock .read u.ring 64 with
    | (.error _, s) => lost s
    | (.ok d, s) =>
      let w := fun (k : Nat) => natOfBytes ((d.drop (8 * k)).take 8)
      let len := 2 ^ (w 1 % 32)
      if (w 2 + 2 ^ 64 - w 3) % 2 ^ 64 = len then
        lost (writeBytes s u.paddock (u.ring + 0x20) (bytesOfNat 8 1)).2
      else
        match writeBytes s u.paddock (BitVec.ofNat 64 (w 0 + 64 * (w 2 % len))) bytes with
        | (some _, s) => lost s
        | (none, s) =>
          match writeBytes (flushArea s n) u.paddock (u.ring + 0x10) (bytesOfNat 8 (w 2 + 1)) with
          | (some _, s) => lost s
          | (none, s) => setTag s u.paddock u.q u.tag.toNat

/-- A record appended or changed: time, version, area, copies. -/
def putRec (s : State) (n : Nat) (r : JRec) : State :=
  let r := { r with time := BitVec.ofNat 48 s.timeNs }
  let s := s.updJr n fun j =>
    { j with recs := Tbl.set j.recs r.seq.toNat r, ver := if r.applied && decide (j.ver.toNat < r.seq.toNat) then r.seq else j.ver }
  let s := areaWrite s n r
  (List.range 4).foldl (fun s i => subCopy s n r.bytes r.kind i) s

/-- A record appended: it receives NEXT. -/
def appendRec (s : State) (n : Nat) (r : JRec) : State :=
  let q := (s.jr n).next
  putRec (s.updJr n fun j => { j with next := q + 1 }) n { r with seq := q }

/-- A record's state moved (R285). -/
def moveRec (s : State) (n : Nat) (seq : Nat) (st : BitVec 4) (reason : BitVec 8) (upd : JRec → JRec) : State :=
  match (s.jr n).find seq with
  | none => s
  | some r => putRec s n (upd { r with st := st, reason := reason })

/-- The seq of the record appended last. -/
def Journal.last (j : Journal) : BitVec 48 := j.next - 1

/-- PROPOSED records whose declared dependency is UNDONE or REJECTED become REJECTED with REASON 6 (R292). -/
def rejectDeps (s : State) (n : Nat) : State :=
  ((s.jr n).inState rPROPOSED).foldl
    (fun s r =>
      let gone := fun (y : JRec) => y.st == rUNDONE || y.st == rREJECTED
      if (r.declares.any fun d => ((s.jr n).find d).any gone) && !((s.jr n).find r.seq.toNat).any gone then
        moveRec s n r.seq.toNat rREJECTED 6 id
      else s) s

/-- A PROPOSED record rejected, and its dependents after it. -/
def rejectRec (s : State) (n : Nat) (seq : Nat) (reason : BitVec 8) : State :=
  rejectDeps (moveRec s n seq rREJECTED reason id) n

/-! ## Objects (R286 to R289) -/

def Desc.word (d : Desc) (i : Nat) : BitVec 64 := d.words.getD i 0
def Desc.typ (d : Desc) : Nat := fld (d.word 0) 0 3
def Desc.pmask (d : Desc) : BitVec 32 := (d.word 1).setWidth 32
/-- The kind of an object's changes (R287). -/
def Desc.kind (d : Desc) : BitVec 4 := if d.typ = 1 then 3 else if d.typ = 2 then 2 else if d.typ = 3 then 1 else 4
def Desc.allowed (d : Desc) : Nat := fld (d.word 3) 32 8
def Desc.nalt (d : Desc) : Nat := if d.typ = 2 then fld (d.word 2) 0 4 else fld (d.word 2) 12 4
def Desc.alt (d : Desc) (i : Nat) : BitVec 64 := d.word (3 + i)
def Desc.pmin (d : Desc) : Nat := fld (d.word 3) 0 8
def Desc.pmax (d : Desc) : Nat := fld (d.word 3) 8 8
def Desc.pstep (d : Desc) : Nat := fld (d.word 3) 16 8

/-- The formats a buffer may name: FP32, BF16, E4M3, E5M2. -/
def bufTags : List Nat := [1, 2, 3, 4]

/-- Bytes of an element of a buffer in a format. -/
def tagBytes (t : Nat) : Nat := if t = 1 then 4 else if t = 2 then 2 else 1

/-- The largest element size among ALLOWED. -/
def Desc.maxBytes (d : Desc) : Nat := (bufTags.filter (bitAt' d.allowed ·)).foldl (fun m t => max m (tagBytes t)) 0
where
  bitAt' (m n : Nat) : Bool := m.testBit n

/-- The range of a policy code (Table 15-9); none for a code it does not list. -/
def policyRange (c : Nat) : Option (Nat × Nat) :=
  if c ≤ 1 then some (1, 255) else if c = 2 then some (16, 30) else if c = 3 then some (0, 2)
  else if c = 4 then some (1, 64) else none

/-- The type-specific rules of R288. -/
def Desc.typeOk (d : Desc) : Bool :=
  let w := fun i => (d.word i).toNat
  let cur := d.cur.toNat
  let zero := fun (l : List Nat) => l.all fun i => w i == 0
  if d.typ = 1 then
    w 2 % 64 == 0 && w 3 / 2 ^ 41 == 0 && d.allowed &&& 0x1E == d.allowed && decide (cur < 8) && d.allowed.testBit cur &&
      w 4 / 2 ^ 32 == 0 && zero [5, 6]
  else if d.typ = 2 then
    decide (2 ≤ d.nalt) && decide (d.nalt ≤ 4) && decide (cur < d.nalt) && w 2 / 2 ^ 14 == 0 &&
      decide (fld (d.word 2) 4 4 < 12) && decide (fld (d.word 2) 8 4 < 12) && (maskList d.pmask).length == 1
  else if d.typ = 3 then
    decide (1 ≤ d.nalt) && decide (d.nalt ≤ 4) && decide (cur < d.nalt) && w 2 / 2 ^ 16 == 0 &&
      ((List.range d.nalt).all fun i => w (3 + i) / 2 ^ 10 == 0 && w (3 + i) / 2 ^ 8 != 3)
  else
    match policyRange (fld (d.word 2) 0 4) with
    | none => false
    | some (lo, hi) =>
      w 2 / 2 ^ 6 == 0 && w 3 / 2 ^ 44 == 0 && w 3 / 2 ^ 24 % 2 ^ 8 == 0 && zero [4, 5, 6] && decide (lo ≤ d.pmin) &&
        decide (d.pmin ≤ cur) && decide (cur ≤ d.pmax) && decide (d.pmax ≤ hi) && decide (1 ≤ d.pstep)

/-- The rules of R287 and R288 on a descriptor of a partition. -/
def Desc.ok (mask : BitVec 32) (d : Desc) : Bool :=
  decide (1 ≤ d.typ) && decide (d.typ ≤ 4) && d.word 0 &&& 0xF8 == 0 && (d.word 0).toNat / 2 ^ 16 == 0 &&
    (d.word 1).toNat / 2 ^ 32 == 0 && d.pmask &&& ~~~mask == 0 && d.word 7 == 0 && d.typeOk

/-- A descriptor from its 64 bytes. -/
def Desc.parse (bs : List (BitVec 8)) : Desc :=
  let ws := wordsOf 8 bs
  { words := ws, cur := (ws.getD 0 0).extractLsb' 8 8 }

/-- The object table read at an address (R286): none where it cannot be read or breaks a rule. -/
def readTable (s : State) (p : Nat) (mask : BitVec 32) (addr seed : BitVec 64) : Option ObjTable × State :=
  if addr.toNat % 64 ≠ 0 then (none, s)
  else
    match readBytes s p .read addr 64 with
    | (.error _, s) => (none, s)
    | (.ok hb, s) =>
      let ws := wordsOf 8 hb
      let h := ws.getD 0 0
      let nobj := fld h 0 7
      let bad := h &&& ~~~0xFF001F0FFF != 0 || (ws.drop 1).any (· != 0) || nobj == 0 || decide (64 < nobj) ||
        fld h 8 4 == 0 || decide (fld h 16 5 < 12) || decide (20 < fld h 16 5)
      if bad then (none, s)
      else
        match readBytes s p .read (addr + 64) (64 * nobj) with
        | (.error _, s) => (none, s)
        | (.ok bs, s) =>
          let ds := (List.range nobj).map fun i => Desc.parse ((bs.drop (64 * i)).take 64)
          if ds.all (Desc.ok mask ·) then
            (some { addr := addr, tune := h.getLsbD 7, ntrialw := fld h 8 4, w := fld h 16 5, margin := fld h 32 8,
                    descs := ds, seed := seed }, s)
          else (none, s)

/-- An object by index. -/
def Journal.desc (j : Journal) (i : Nat) : Option Desc :=
  match j.obj with
  | none => none
  | some t => t.descs[i]?

/-- An AFTER that R289 allows. -/
def Desc.allows (d : Desc) (v : Nat) : Bool :=
  v != d.cur.toNat &&
  (if d.typ = 1 then decide (v < 8) && d.allowed.testBit v
   else if d.typ = 4 then decide (d.pmin ≤ v) && decide (v ≤ d.pmax)
   else decide (v < d.nalt))

/-- A paddock mask meets the scope of the pin that is held (R301). -/
def Journal.pinned (j : Journal) (m : BitVec 32) : Bool := j.pin.any fun z => z.scope &&& m != 0

/-! ## Proposals (R289, R290) -/

/-- What became of a proposal: malformed, with its detail code; a status code; or the record's seq. -/
inductive PropRes where
  | bad (detail : Nat)
  | status (code : Nat)
  | done (seq : BitVec 48)
deriving DecidableEq, Repr

/-- A dependency that R289 allows. -/
def Journal.depOk (j : Journal) (d : Nat) : Bool :=
  (j.find d).any (fun y => y.isChange && decide (y.st.toNat ≤ 2)) && decide (1 ≤ j.next.toNat - d) &&
    decide (j.next.toNat - d ≤ 65535)

/-- A proposal of AFTER for an object. -/
def propose (s : State) (n idx : Nat) (after : BitVec 64) (deps : List Nat) (origin : BitVec 2) : PropRes × State :=
  let j := s.jr n
  match j.desc idx with
  | none => (.bad 0x50, s)
  | some d =>
    if !d.allows after.toNat then (.bad 0x51, s)
    else if deps.any fun x => x != 0 && !j.depOk x then (.bad 0x52, s)
    else if j.stopped then (.status 2, s)
    else if j.pinned d.pmask then (.status 1, s)
    else if 16 ≤ (j.inState rPROPOSED).length then (.status 2, s)
    else
      let s := appendRec s n
        { seq := 0, kind := d.kind, st := rPROPOSED, pmask := d.pmask, obj := BitVec.ofNat 32 idx,
          deps := deps.map fun x => if x = 0 then 0 else BitVec.ofNat 16 (j.next.toNat - x),
          before := d.cur.setWidth 64, after := after, origin := origin }
      (.done j.next, s)

/-- A request block (R308): object index, AFTER and dependencies; none where a reserved bit is set. -/
def parseRequest (bs : List (BitVec 8)) : Option (Nat × BitVec 64 × List Nat) :=
  let ws := wordsOf 8 bs
  let w := fun i => ws.getD i 0
  if (w 0).toNat / 64 ≠ 0 ∨ w 6 ≠ 0 ∨ w 7 ≠ 0 then none
  else some ((w 0).toNat, w 1, (List.range 4).map fun i => (w (2 + i)).toNat % 2 ^ 48)

/-! ## Actions: FORMAT (R294, R299) -/

/-- Every page of a range translates, for a kind of access. -/
def pagesOk (s : State) (p : Nat) (k : AccKind) (va : BitVec 64) (bytes : Nat) : Bool × State :=
  let first := va.toNat / 4096
  (List.range ((va.toNat + bytes + 4095) / 4096 - first)).foldl
    (fun a i =>
      let pg := BitVec.ofNat 64 (4096 * (first + i))
      let (x, s) := translate a.2 p none pg k
      let good := match x with
        | .ok _ _ => true
        | .fault _ => false
      (a.1 && canonical pg && good, s)) (true, s)

/-- Every page of a range translates with RD and W. -/
def rangeOk (s : State) (p : Nat) (va : BitVec 64) (bytes : Nat) : Bool × State :=
  let (r, s) := pagesOk s p .read va bytes
  let (w, s) := pagesOk s p .write va bytes
  (r && w, s)

/-- A save to an area can be written: every page translates with W and no line of it holds an uncorrectable error
(R268). -/
def saveOk (s : State) (p : Nat) (va : BitVec 64) (bytes : Nat) : Bool × State :=
  let (g, s) := pagesOk s p .write va bytes
  if !g then (false, s)
  else
    match placeVA s p (bytes / 32 + 2) va bytes with
    | (.ok _, s) => (true, s)
    | (.error _, s) => (false, s)

/-- Counts of a conversion. -/
structure ConvRes where
  conv : Nat := 0
  inex : Nat := 0

/-- Element k converted in place: the canonical NaN when it holds an uncorrectable error, reported to the context of
the last JBASE (R392). -/
def convElem (n : Nat) (d : Desc) (fromT toT : Nat) (seed : BitVec 64) (k : Nat) (a : ConvRes × State) : ConvRes × State :=
  let (c, s) := a
  let p := s.lead n
  match (Tag.ofBits (BitVec.ofNat 3 fromT)).fp, (Tag.ofBits (BitVec.ofNat 3 toT)).fp with
  | some f, some g =>
    let ra := d.word 2 + BitVec.ofNat 64 (k * tagBytes fromT)
    let wa := d.word 2 + BitVec.ofNat 64 (k * tagBytes toT)
    match translate s p none ra .read (tagBytes fromT) with
    | (.fault _, s) => (c, s)
    | (.ok pa host, s) =>
      let bad := s.badLine host pa
      let s := if bad then s else s.fixLine host pa
      let stoch := (d.word 3).getLsbD 40
      let rc : RndCtx :=
        { mode := if stoch then .sr else .rne, stoch := stoch, r := srWord seed (srCounter (BitVec.ofNat 32 k) 15 0 0 0) }
      let (code, fl) := if bad then (g.nan.getD 0, flNX) else g.round rc (f.dec (s.rdNat host pa (tagBytes fromT)))
      let s := match bad, (s.jr n).baseBy with
        | true, some (bp, bq) =>
          let (w, s) := freeWord s
          report s bp bq cECC_UE ra w .journal
        | _, _ => s
      match translate s p none wa .write (tagBytes toT) with
      | (.fault _, s) => (c, s)
      | (.ok wp host, s) =>
        ({ conv := c.conv + 1, inex := c.inex + (fl &&& (flNX ||| flOF) != 0).toNat }, s.wrNat host wp (tagBytes toT) code)
  | _, _ => (c, s)

/-- LIVE, clamped to COUNT; a LIVE that cannot be read is a free value (log 15). -/
def liveOf (s : State) (n idx : Nat) (d : Desc) : Nat × State :=
  let a := ((s.jr n).obj.map (·.addr)).getD 0 + BitVec.ofNat 64 (64 + 64 * idx + 0x20)
  let count := fld (d.word 3) 0 32
  match readBytes s (s.lead n) .read a 4 with
  | (.ok bs, s) => (min (natOfBytes bs) count, s)
  | (.error _, s) =>
    let (w, s) := freeWord s
    (min w.toNat count, s)

/-- A conversion to a format for the record of a seq: widening in descending order, else ascending. -/
def convert (s : State) (n idx : Nat) (d : Desc) (toT seq : Nat) : ConvRes × State :=
  let fromT := d.cur.toNat
  let (live, s) := liveOf s n idx d
  let seed := ((s.jr n).obj.map (·.seed)).getD 0 ^^^ BitVec.ofNat 64 seq
  let order := if tagBytes fromT < tagBytes toT then (List.range live).reverse else List.range live
  order.foldl (fun a k => convElem n d fromT toT seed k a) ({}, s)

/-! ## Actions: ROUTE (Table 15-10, R288) -/

/-- The entries of a patch list; none when it cannot be read or its count is out of range. -/
def patchList (s : State) (p : Nat) (va : BitVec 64) : Option (List (BitVec 64 × BitVec 64)) × State :=
  match readBytes s p .read va 8 with
  | (.error _, s) => (none, s)
  | (.ok bs, s) =>
    let c := natOfBytes bs
    if c = 0 ∨ 64 < c then (none, s)
    else
      match readBytes s p .read (va + 8) (16 * c) with
      | (.error _, s) => (none, s)
      | (.ok es, s) =>
        let ws := wordsOf (2 * c) es
        (some ((List.range c).map fun i => (ws.getD (2 * i) 0, ws.getD (2 * i + 1) 0)), s)

/-- A word of a tile's resident configuration replaced, in the tile and in what its region keeps of the image. -/
def patchWord (s : State) (p t slot i : Nat) (w : BitVec 64) : State :=
  let s := s.updTile p t fun tl => { tl with cfgs := Tbl.set tl.cfgs slot (((Tbl.find? tl.cfgs slot).getD []).set i w) }
  match (s.pad p).regionAt t with
  | none => s
  | some (id, r) =>
    match Tbl.find? r.images slot with
    | none => s
    | some (va, img) =>
      let k := 33 * ((tileRow t - r.row0) * r.w + (tileCol t - r.col0)) + i
      s.updRegion p id fun r => { r with images := Tbl.set r.images slot (va, img.set k w) }

/-- The route words of a tile's slot pass R38. -/
def routesOk (s : State) (p t slot : Nat) : Bool :=
  match (s.pad p).regionAt t, Tbl.find? (s.tile p t).cfgs slot with
  | some (_, r), some c =>
    (List.range 8).all fun i =>
      (wordFault { row0 := r.row0, col0 := r.col0, h := r.h, w := r.w, tile := t } (Cfg.hdr c) none c (17 + i)).isNone
  | _, _ => false

/-- Every word of a list written; none when a place does not exist or a word fails R38. -/
def applyPatch (s : State) (p : Nat) (es : List (BitVec 64 × BitVec 64)) : Option State :=
  let place := fun (e : BitVec 64) => (tileAt (fld e 0 4) (fld e 4 4), fld e 12 2, fld e 8 3)
  let exists_ := es.all fun e =>
    decide (fld e.1 0 4 < 12) && decide (fld e.1 4 4 < 12) &&
      (let (t, sl, _) := place e.1; ((s.pad p).regionAt t).isSome && (Tbl.find? (s.tile p t).cfgs sl).isSome)
  if !exists_ then none
  else
    let s' := es.foldl (fun s e => let (t, sl, w) := place e.1; patchWord s p t sl (17 + w) e.2) s
    if es.all fun e => let (t, sl, _) := place e.1; routesOk s' p t sl then some s' else none

/-- A channel's patch list of an alternative applied. -/
def routeTo (s : State) (d : Desc) (v : Nat) : Option State × State :=
  let p := (maskList d.pmask).headD 0
  match patchList s p (d.alt v) with
  | (none, s) => (none, s)
  | (some es, s) => (applyPatch s p es, s)

/-! ## Actions: PART (Table 15-10) -/

/-- The tasks of a type in a set of paddocks (R288): what a slot that a launch may take still names is none (R261). -/
def tasksOf (s : State) (m : BitVec 32) (ttype : BitVec 12) : List (Nat × Nat) :=
  (maskList m).flatMap fun p =>
    ((List.range 64).filter fun k => !(s.task p k).open_ && (s.task p k).ttype == ttype).map fun k => (p, k)

/-- The records of a save area with each row offset taken modulo hk. -/
def foldRecs (hk : Nat) : Nat → List (BitVec 8) → List (BitVec 8)
  | 0, _ => []
  | n + 1, bs =>
    let w := natOfBytes (bs.take 8)
    let len := w / 65536 % 32 * (if w / 32768 % 2 = 1 then 72 else 8)
    bytesOfNat 8 (w - w % 16 + w % 16 % hk) ++ ((bs.drop 8).take len) ++ foldRecs hk n (bs.drop (8 + len))

/-- A save area made to fit a region of hk rows under a fold factor. -/
def refold (hk w fac : Nat) (bs : List (BitVec 8)) : List (BitVec 8) :=
  let w0 := natOfBytes (bs.take 8)
  let h := if w0 % 16 = 0 then 16 else w0 % 16
  let cnt := natOfBytes ((bs.drop 8).take 4)
  let blocks := (bs.drop 64).take (512 * h * w)
  let fresh := blockBytes (activateTile {} [] true) 1
  let blocks := blocks.take (512 * hk * w) ++ (List.range ((hk - h) * w)).flatMap fun _ => fresh
  let recs := foldRecs hk cnt (bs.drop (64 + 512 * h * w))
  let head := w0 - w0 % 16 - w0 / 256 % 4 * 256 + hk % 16 + fac * 256
  bytesOfNat 8 head ++ bytesOfNat 8 cnt ++ bytesOfNat 8 (64 + blocks.length + recs.length) ++ List.replicate 40 0 ++
    blocks ++ recs

/-- What a task's save area holds: the region as it stands, running or trapped, or what was written when it froze or
yielded. -/
def areaOf (s : State) (p k : Nat) : Option (List (BitVec 8)) × State :=
  let t := s.task p k
  if t.rid.any fun r => !(s.region p r).saved then (some (saveBytes s p (s.region p (t.rid.getD 16))), s)
  else
    match readBytes s p .read t.contpt 24 with
    | (.error _, s) => (none, s)
    | (.ok hb, s) =>
      match readBytes s p .read t.contpt (natOfBytes (hb.drop 16)) with
      | (.error _, s) => (none, s)
      | (.ok bs, s) => (some bs, s)

/-- A task's save area, made to fit the fold factor, stands at its CONTPT. A queued task has nothing to save. -/
def partSave (s : State) (p k fac : Nat) : Bool × State :=
  let t := s.task p k
  if t.st = .queued then (true, s)
  else
    match areaOf s p k with
    | (none, s) => (false, s)
    | (some bs, s) =>
      match writeBytes s p t.contpt (refold (ceilDiv t.h (2 ^ fac)) t.w fac bs) with
      | (some _, s) => (false, s)
      | (none, s) => (true, s)

/-- A task leaves its region for the readmission, and its yield tag is set where a yield was pending. -/
def partRelease (s : State) (p k : Nat) : State :=
  let t := s.task p k
  match t.rid with
  | none => s
  | some rid =>
    let r := s.region p rid
    let s := dispatchEvent s p 4 r.owner rid t.ttype.toNat r.row0 r.col0 r.ord
    let s := freeRegion s p rid (some (k, t.ser))
    let s := s.updTask p k fun t => { t with st := .released, rid := none, contq := true }
    if t.ypend then yieldTag s p k else s

/-- A task is moved, in whatever state it is, but with CONTPT 0 (Table 15-10). -/
def partMoves (s : State) (p k : Nat) : Bool := (s.task p k).contpt != 0

/-- A task saved to its CONTPT and bid for at an alternative's origin with MODE 0 (Table 15-10, R273); false when it is
left in place. -/
def moveTask (s : State) (p k : Nat) (alt : BitVec 64) : Bool × State :=
  if !partMoves s p k then (false, s)
  else
    let fac := fld alt 8 2
    match partSave s p k fac with
    | (false, s) => (false, s)
    | (true, s) =>
      let s := dropBids (partRelease s p k) p (.task k)
      let s := s.updTask p k fun t =>
        { t with row0 := fld alt 0 4, col0 := fld alt 4 4, place := 0,
                 moveTo := if fac = 0 then none else some (if fac = 1 then t.fold2 else t.fold4, BitVec.ofNat 2 fac) }
      (true, taskBid s p k)

/-! ## Actions: POLICY (Table 15-9) -/

def setPolicy (s : State) (d : Desc) (v : Nat) : State :=
  let code := fld (d.word 2) 0 4
  let ttype := BitVec.ofNat 12 (fld (d.word 3) 32 12)
  (maskList d.pmask).foldl
    (fun s p =>
      if code = 0 then s.updPad p fun x => { x with lqw := Tbl.set x.lqw (fld (d.word 2) 4 2) (BitVec.ofNat 8 v) }
      else if code = 1 then s.updPad p fun x => { x with bypmax := BitVec.ofNat 8 v }
      else if code = 2 then s.updPad p fun x => { x with scrubq := BitVec.ofNat 5 v }
      else if code = 3 then changeFreq s p fun x => { x with ceil := BitVec.ofNat 2 v }
      else
        (List.range 16).foldl
          (fun s rid =>
            let r := s.region p rid
            if r.alloc && r.task.any (fun k => (s.task p k).ttype == ttype) then
              (r.tileList.filter fun t => tileType t == .m).foldl
                (fun s t => s.updTile p t fun tl => { tl with mx := { tl.mx with carryCap := v } }) s
            else s) s) s

/-! ## Checking and performing an action (R392, R293) -/

/-- Whether the action that gives an object a value can be performed. -/
def canAct (s : State) (n idx v : Nat) : Bool × State :=
  match (s.jr n).desc idx with
  | none => (false, s)
  | some d =>
    if d.typ = 1 then rangeOk s (s.lead n) (d.word 2) (fld (d.word 3) 0 32 * d.maxBytes)
    else if d.typ = 2 then
      match routeTo s d v with
      | (some _, s) => (true, s)
      | (none, s) => (false, s)
    else if d.typ = 3 then
      (tasksOf s d.pmask (BitVec.ofNat 12 (fld (d.word 2) 0 12))).foldl
        (fun a e =>
          let t := a.2.task e.1 e.2
          if !partMoves a.2 e.1 e.2 then a
          else
            let (g, s) := saveOk a.2 e.1 t.contpt (64 + 15840 * t.h * t.w)
            (a.1 && g, s)) (true, s)
    else (true, s)

/-- CUR given a value, in the controller and in the descriptor (R287). -/
def setCur (s : State) (n idx v : Nat) : State :=
  let cur := BitVec.ofNat 8 v
  let s := s.updJr n fun j =>
    { j with obj := j.obj.map fun t => { t with descs := t.descs.modify idx fun d => { d with cur := cur } } }
  (writeBytes s (s.lead n) (((s.jr n).obj.map (·.addr)).getD 0 + BitVec.ofNat 64 (64 + 64 * idx + 1)) [cur]).2

/-- The action of Table 15-10 for the record of a seq. -/
def perform (s : State) (n idx v seq : Nat) : ConvRes × State :=
  match (s.jr n).desc idx with
  | none => ({}, s)
  | some d =>
    let (c, s) : ConvRes × State :=
      if d.typ = 1 then convert s n idx d v seq
      else if d.typ = 2 then
        match routeTo s d v with
        | (some s, _) => ({}, s)
        | (none, s) => ({}, s)
      else if d.typ = 3 then
        (tasksOf s d.pmask (BitVec.ofNat 12 (fld (d.word 2) 0 12))).foldl
          (fun a e =>
            let (g, s) := moveTask a.2 e.1 e.2 (d.alt v)
            ({ a.1 with inex := a.1.inex + (!g).toNat }, s)) ({}, s)
      else ({}, setPolicy s d v)
    (c, setCur s n idx v)

/-- The action, after its check: none when the check fails. -/
def act (s : State) (n idx v seq : Nat) : Option ConvRes × State :=
  match canAct s n idx v with
  | (true, s) =>
    let (c, s) := perform s n idx v seq
    (some c, s)
  | (false, s) => (none, s)

/-- The counts as a record holds them. -/
def JRec.counted (r : JRec) (c : ConvRes) : JRec :=
  { r with conv := BitVec.ofNat 16 (min c.conv 65535), inex := BitVec.ofNat 16 (min c.inex 65535) }

/-! ## Shape points (R293) -/

/-- The buffers of a route from its outputs on. -/
def routeWalk (x : Paddock) : Nat → List (Nat × Nat) → List (Nat × Nat) → List (Nat × Nat)
  | 0, _, seen => seen
  | _, [], seen => seen
  | fuel + 1, (t, b) :: rest, seen =>
    if seen.contains (t, b) then routeWalk x fuel rest seen
    else
      let next := if b < 4 then [] else (hopRoutes ((x.cfgAt t).getD []) b).filterMap (routeDest t)
      routeWalk x fuel (next ++ rest) ((t, b) :: seen)

/-- No token stands on a source's route, and no result waits for its output. -/
def routeEmpty (s : State) (z : Nat × Nat × Nat) : Bool :=
  let (p, t, o) := z
  let x := s.pad p
  let start := (Cfg.from ((x.cfgAt t).getD []) (8 + o)).filterMap (routeDest t)
  !(s.tile p t).blocked o && (routeWalk x 16384 start []).all fun e => ((s.tile p e.1).buf e.2).toks.isEmpty

/-- The source output of a channel (paddock, tile, output); none for other objects. -/
def Desc.source (d : Desc) : List (Nat × Nat × Nat) :=
  if d.typ = 2 then
    [((maskList d.pmask).headD 0, tileAt (fld (d.word 2) 4 4) (fld (d.word 2) 8 4), fld (d.word 2) 12 2)]
  else []

/-- Running task regions of a mask's paddocks, paused. -/
def pauseMask (s : State) (m : BitVec 32) : State :=
  (maskList m).foldl
    (fun s p => s.updPad p fun x =>
      { x with regions := x.regions.map fun e =>
          (e.1, if e.2.alloc && e.2.task.isSome && e.2.st == .running && !e.2.saved then { e.2 with paused := true } else e.2) }) s

/-- Paused regions run again in the following fc. -/
def resumeMask (s : State) (m : BitVec 32) : State :=
  (maskList m).foldl
    (fun s p => s.updPad p fun x =>
      { x with regions := x.regions.map fun e =>
          (e.1, if e.2.paused then { e.2 with paused := false, runFrom := max e.2.runFrom (x.fc + 1) } else e.2) }) s

/-- Work begun in the paused regions, and in the trapped ones of tasks, has completed. -/
def pausedSettled (s : State) (m : BitVec 32) : Bool :=
  (maskList m).all fun p =>
    (s.pad p).regions.all fun e => !(e.2.paused || (e.2.task.isSome && e.2.st == .trapped)) || settled s p e.2

/-- Every member is OPEN (R322). -/
def membersOpen (s : State) (n : Nat) : Bool := (maskList (s.part n).mask).all fun p => (s.pad p).gate == .open_

/-- A shape point begins: outputs of changed channels stand still first, else the regions pause. While the journal is
stopped or a member is not OPEN none begins, and this one is held (R391, R322). -/
def shapeStart (s : State) (n : Nat) (req : ShapeReq) (m : BitVec 32) (srcs : List (Nat × Nat × Nat)) : State :=
  let fc := s.fc (s.lead n)
  let held := (s.jr n).stopped || !membersOpen s n
  let s := s.updJr n fun j =>
    { j with shape := some { req := req, mask := m, srcs := srcs, paused := srcs.isEmpty && !held, since := fc, held := held } }
  if srcs.isEmpty && !held then pauseMask s m else s

/-! ## Progress (R295, R297) -/

/-- An fc counts for a window of these paddocks: a task region runs and none stands still (R20, R295). -/
def scopeCounts (s : State) (m : BitVec 32) : Bool :=
  ((maskList m).any fun p => (s.pad p).ran) && !(maskList m).any fun p => (s.pad p).stalled

/-- PRG tokens retired in a mask's paddocks in this fc. -/
def scopePrg (s : State) (m : BitVec 32) : Nat := (maskList m).foldl (fun c p => c + (s.pad p).prg) 0

/-- fc of a window. -/
def Journal.winLen (j : Journal) : Nat := match j.obj with
  | none => 0
  | some t => 2 ^ t.w

/-- A trial window counts this fc: it is not complete, its scope counts, no shape point pauses a region (R293), and the
journal is neither stopped nor closed in (R391, R322). -/
def trialCounts (s : State) (n : Nat) (t : Trial) : Bool :=
  let j := s.jr n
  decide (t.fcs < j.winLen) && scopeCounts s t.mask && !j.stopped && membersOpen s n && !(j.shape.any (·.paused))

/-- An fc added to a trial, with what each paddock of the partition retired in it. -/
def Trial.count (s : State) (n : Nat) (t : Trial) : Trial :=
  { t with
    fcs := t.fcs + 1
    prg := (maskList (s.part n).mask).foldl (fun l p => Tbl.put 0 l p (Tbl.get 0 l p + (s.pad p).prg)) t.prg }

/-- PRG tokens of a trial's fc in the union of its records' PMASKs (R296). -/
def Trial.total (t : Trial) : Nat := (maskList t.mask).foldl (fun c p => c + Tbl.get 0 t.prg p) 0

/-- This fc counted into every window; at the end of an fc of the partition's lowest paddock. -/
def countWindows (s : State) (n : Nat) : State :=
  let j := s.jr n
  let wins := match j.obj with
    | none => j.wins
    | some t => t.descs.zipIdx.foldl
      (fun (ws : Tbl BaseWin) e =>
        if scopeCounts s e.1.pmask then
          let b : BaseWin := Tbl.get {} ws e.2
          Tbl.set ws e.2 { b with fcs := b.fcs + 1, cnt := b.cnt + scopePrg s e.1.pmask, since := b.since + 1 }
        else ws) j.wins
  let trial := j.trial.map fun t => if trialCounts s n t then t.count s n else t
  let s := s.updJr n fun j => { j with wins := wins, trial := trial }
  (maskList (s.part n).mask).foldl (fun s p => s.updPad p fun x => { x with prg := 0 }) s

/-- Four windows have passed since the last verdict, or since the table was read (R297). -/
def Journal.waited (j : Journal) (idx : Nat) : Bool := decide (4 * j.winLen ≤ (Tbl.get {} j.wins idx).since)

/-- BASE of an object: the mean of its last four windows; a free value where there are not four. -/
def baseOf (s : State) (n idx : Nat) : Nat × State :=
  let h := (Tbl.get {} (s.jr n).wins idx).hist
  if h.length = 4 then (min (h.foldl (· + ·) 0 / 4) (2 ^ 32 - 1), s)
  else
    let (w, s) := freeWord s
    (w.toNat % 2 ^ 32, s)

/-- The trial ends; the wait begins. -/
def endTrial (s : State) (n : Nat) : State :=
  s.updJr n fun j => { j with trial := none, wins := j.wins.map fun e => (e.1, { e.2 with since := 0 }) }

/-! ## Applying a proposal (R292) -/

/-- What the head of the PROPOSED records does now: waits, is rejected, or starts. -/
inductive HeadDo where
  | wait | reject | start
deriving DecidableEq, Repr

def Journal.headDo (j : Journal) (r : JRec) : HeadDo :=
  let st := r.declares.filterMap fun d => (j.find d).map (·.st)
  if st.any fun x => x == rUNDONE || x == rREJECTED then .reject
  else if st.contains rTRIAL then
    match j.trial with
    | some t => if t.seqs.length < 4 then .start else .reject
    | none => .reject
  else if j.trial.isNone && j.waited r.obj.toNat then .start
  else .wait

/-- The shape controller begins no shape point while another stands, the journal is stopped, or a member is not OPEN
(R292, R391, R322). -/
def shapeIdle (s : State) (n : Nat) : Bool :=
  (s.jr n).shape.isNone && !(s.jr n).stopped && (s.jr n).area.isSome && membersOpen s n

/-- The head record and what it does. -/
def headDue (s : State) (n : Nat) : Option (JRec × HeadDo) :=
  if !shapeIdle s n then none
  else
    match (s.jr n).inState rPROPOSED with
    | [] => none
    | r :: _ => match (s.jr n).headDo r with
      | .wait => none
      | d => some (r, d)

/-- The action of a proposal's shape point, and the record it leaves. -/
def applyNow (s : State) (n seq : Nat) : State :=
  match (s.jr n).find seq with
  | none => s
  | some r =>
    let idx := r.obj.toNat
    match act s n idx r.after.toNat seq with
    | (none, s) => rejectRec s n seq 9
    | (some c, s) =>
      let (b, s) := baseOf s n idx
      let s := moveRec s n seq rTRIAL 0 fun r => ({ r with base := BitVec.ofNat 32 b }).counted c
      s.updJr n fun j =>
        { j with trial := some (match j.trial with
            | some t => { t with seqs := t.seqs ++ [r.seq], mask := t.mask ||| r.pmask }
            | none => { seqs := [r.seq], mask := r.pmask, base := b }) }

/-! ## The revert closure (R298) -/

/-- The closure of a record, in ascending seq. -/
def closure (j : Journal) (t : JRec) : List JRec :=
  (j.recs.map (·.2)).foldl
    (fun (ms : List JRec) x =>
      if decide (t.seq.toNat < x.seq.toNat) && x.stands && !x.device &&
          (ms.any fun m => m.obj == x.obj || x.declares.contains m.seq.toNat) then ms ++ [x]
      else ms) [t]

/-- A member that lies below EARLY or that the pin covers (R298). -/
def Journal.barred (j : Journal) (m : JRec) : Bool :=
  decide (m.seq.toNat < j.early) || j.pin.any (fun z => decide (m.seq.toNat ≤ z.ver.toNat) && z.scope &&& m.pmask != 0)

/-- The first member that refuses the revert, and whether its action is what cannot be performed. -/
def refusal (s : State) (n : Nat) : List JRec → Option (BitVec 48 × Bool) × State
  | [] => (none, s)
  | m :: ms =>
    if (s.jr n).barred m then (some (m.seq, false), s)
    else
      match canAct s n m.obj.toNat m.before.toNat with
      | (false, s) => (some (m.seq, true), s)
      | (true, s) => refusal s n ms

/-- A revert of record t refused at member m: one REFUSED record, whose seq is answered. Its PMASK is a free value (log
15). -/
def refuseRevert (s : State) (n : Nat) (t m : BitVec 48) (inacc : Bool) (origin : BitVec 2) (reason : BitVec 8) :
    BitVec 48 × State :=
  let (w, s) := freeWord s
  let seq := (s.jr n).next
  (seq, appendRec s n
    { seq := 0, kind := kREFUSED, st := rCONFIRMED, flags := if inacc then fINACC else 0, pmask := w.setWidth 32,
      before := t.setWidth 64, after := m.setWidth 64, origin := origin, reason := reason })

/-- A revert of a record: a REFUSED record's seq and whether INACC is set; or its shape point, begun. -/
def revert (s : State) (n : Nat) (t : JRec) (origin : BitVec 2) (reason : BitVec 8) (by_ : Option (Nat × Nat)) :
    Option (BitVec 48 × Bool) × State :=
  let ms := closure (s.jr n) t
  match refusal s n ms with
  | (some (m, inacc), s) =>
    let (seq, s) := refuseRevert s n t.seq m inacc origin reason
    (some (seq, inacc), s)
  | (none, s) =>
    let srcs := ms.flatMap fun m => (((s.jr n).desc m.obj.toNat).map Desc.source).getD []
    let mask := ms.foldl (fun a m => a ||| m.pmask) 0
    (none, shapeStart s n (.revert (ms.map (·.seq)) origin reason by_) mask srcs)

/-- A trial that a member of a reverted closure belongs to ends: its records outside the closure become CONFIRMED
(R305). -/
def leaveTrial (s : State) (n : Nat) (seqs : List (BitVec 48)) (reason : BitVec 8) : State :=
  match (s.jr n).trial with
  | none => s
  | some tr =>
    if tr.seqs.any seqs.contains then
      endTrial ((tr.seqs.filter fun q => !seqs.contains q).foldl
        (fun s q => moveRec s n q.toNat rCONFIRMED reason id) s) n
    else s

/-- One member undone: its action with BEFORE and AFTER exchanged, its UNDO record, its state. -/
def undoOne (s : State) (n : Nat) (seq : BitVec 48) (origin : BitVec 2) (reason : BitVec 8) (last : Bool) : State :=
  match (s.jr n).find seq.toNat with
  | none => s
  | some m =>
    let u := (s.jr n).next
    let (c, s) := perform s n m.obj.toNat m.before.toNat u.toNat
    let s := appendRec s n
      (({ seq := 0, kind := kUNDO, st := rCONFIRMED, flags := if last then fLAST else 0, pmask := m.pmask, obj := m.obj,
          deps := [BitVec.ofNat 16 (u.toNat - seq.toNat)], before := m.after, after := m.before, origin := origin,
          reason := reason } : JRec).counted c)
    moveRec s n seq.toNat rUNDONE reason fun r => if reason = 1 then { r with flags := r.flags ||| fAUTO } else r

/-- Every member undone in descending seq, and the PROPOSED records that depend on one rejected. -/
def revertNow (s : State) (n : Nat) (seqs : List (BitVec 48)) (origin : BitVec 2) (reason : BitVec 8) : State :=
  let objs := seqs.filterMap fun q => ((s.jr n).find q.toNat).map (·.obj)
  let s := leaveTrial s n seqs reason
  let s := seqs.reverse.foldl (fun s q => undoOne s n q origin reason (some q == seqs.head?)) s
  let s := ((s.jr n).inState rPROPOSED).foldl
    (fun s r => if objs.contains r.obj then moveRec s n r.seq.toNat rREJECTED 6 id else s) s
  rejectDeps s n

/-- A verdict whose revert is refused: the trial's records become CONFIRMED and the context of the last JBASE takes
JOURNAL_REFUSED (R302). -/
def verdictRefused (s : State) (n : Nat) (seqs : List (BitVec 48)) (refused : BitVec 48) (inacc : Bool) : State :=
  let s := seqs.foldl (fun s q => moveRec s n q.toNat rCONFIRMED (if inacc then 9 else 4) id) s
  match (s.jr n).baseBy with
  | none => s
  | some (p, q) => report s p q cJOURNAL (refused.setWidth 64) ((seqs.headD 0).setWidth 64) .journal

/-! ## Device objects (R300) -/

/-- A spare element retired is recorded when the journal has an area. BEFORE, AFTER and ORIGIN, which no rule states,
are free values. -/
def recordRetired (s : State) (p row col : Nat) : State :=
  let n := s.partOf p
  if (s.jr n).area.isNone then s
  else
    let (w, s) := freeWord s
    let (v, s) := freeWord s
    let (o, s) := freeWord s
    appendRec s n
      { seq := 0, kind := 1, st := rCONFIRMED, flags := fDEVICE ||| fNOTRIAL, pmask := BitVec.ofNat 32 (2 ^ p),
        obj := BitVec.ofNat 32 (0x80000000 + 256 * p + 16 * row + col), before := w, after := v, origin := o.setWidth 2,
        reason := 5 }

end Sys2Proof.Machine
end

