-- ==== Sys2Proof/Machine/Journal.lean ====
section
/-! DEFINITION. The journal class (R281 to R309): its ten sequencer instructions, the shape points, windows and verdicts
of the shape controller, the tuner, and the journal CSRs. -/

namespace Sys2Proof.Machine

open Host (Outcome)

/-! ## Status values (R307) -/

def jStatus (code : Nat) (seq : BitVec 48) : BitVec 64 := BitVec.ofNat 64 (code * 2 ^ 56 + seq.toNat)

def mayJournal (c : Ctx) : Bool := c.rights.getLsbD 1

/-- A journal instruction completes with a status. With STRICT a code of 1 or 3 raises JOURNAL_REFUSED. -/
def jDone (s : State) (p q : Nat) (f : SeqF) (tb : Nat) (strict : Bool) (code : Nat) (seq refused : BitVec 48) : State :=
  let v := jStatus code seq
  let s := finish s p q 1 tb fun c => c.wr f.d v
  if strict && (code == 1 || code == 3) then report s p q cJOURNAL v (refused.setWidth 64) .journal else s

/-- The seq an operand names: A[47:0] (R306). -/
def seqOf (a : BitVec 64) : Nat := fld a 0 48

/-- An instruction that answers status 5 while the partition has no area (R281). -/
def areaIns (f : SeqF) (s : State) (perm : Ctx → Bool) (tb : Ctx → Nat) (body : Nat → State → State) : Out :=
  issueWith f perm s fun s =>
    let n := s.partOf s.cur.p
    let j := s.jr n
    .next (if j.area.isNone then jDone s s.cur.p s.cur.q f (tb s.curCtx) false 5 j.last 0 else body n s)

/-- A waiting instruction judged as if its context issued it. -/
def asCtx (s : State) (p q : Nat) : State := { s with cur := { s.cur with p := p, q := q } }

/-! ## JSUB and JUNS (R303, R308) -/

/-- JSUB. -/
def execJsub (f : SeqF) (s : State) : Out :=
  issueWith f anyone s fun s =>
    let (p, q) := (s.cur.p, s.cur.q)
    let n := s.partOf p
    let a := s.curCtx.opA f
    if !canonical a then .next (addrTrap s cXLATE a .read)
    else if a.toNat % 64 ≠ 0 then .next (refuse s a 0x54)
    else
      match readBytes s p .read a 64 with
      | (.error (c, va), s) => .next (addrTrap s c va .read)
      | (.ok bs, s) =>
        let w := fun i => natOfBytes ((bs.drop (8 * i)).take 8)
        let len := w 1 % 32
        if w 1 / 32 ≠ 0 ∨ w 4 / 2 ≠ 0 ∨ w 5 ≠ 0 ∨ w 6 ≠ 0 ∨ w 7 ≠ 0 then .next (refuse s a 0x57)
        else if w 0 % 64 ≠ 0 ∨ len < 4 ∨ 16 < len then .next (refuse s a 0x54)
        else
          match (List.range 4).find? fun i => !(Tbl.get ({} : Sub) (s.jr n).subs i).active with
          | none => .next (refuse s a 0x55)
          | some i =>
            let u : Sub :=
              { active := true, paddock := p, q := q, ring := a, tag := f.imm.extractLsb' 0 6, kinds := f.imm.extractLsb' 16 16 }
            let s := s.updJr n fun j => { j with subs := Tbl.set j.subs i u }
            .next (finishCur s 1 1 fun c => c.wr f.d (BitVec.ofNat 64 i))

/-- JUNS. -/
def execJuns (f : SeqF) (s : State) : Out :=
  issueWith f anyone s fun s =>
    let n := s.partOf s.cur.p
    let i := fld (s.curCtx.opA f) 0 2
    let u : Sub := Tbl.get {} (s.jr n).subs i
    if !u.active || u.paddock != s.cur.p || u.q != s.cur.q then .next (refuseA s f 0x55)
    else
      let s := s.updJr n fun j => { j with subs := Tbl.set j.subs i { u with active := false } }
      .next (finishCur s 1 0 fun c => c)

/-! ## JPIN and JUPN (R301) -/

/-- JPIN, when no shape point is in progress. -/
def tryJpin (s : State) (p q : Nat) (f : SeqF) : Option State :=
  let n := s.partOf p
  let j := s.jr n
  if j.shape.isSome then none
  else if j.pin.isSome then some (jDone s p q f 0 false 2 j.ver 0)
  else
    let a := (s.ctx p q).opA f
    let m := BitVec.ofNat 32 (fld a 0 32)
    let scope := if m = 0 then (s.part n).mask else m
    let s := (j.inState rPROPOSED).foldl
      (fun s r => if r.pmask &&& scope != 0 then moveRec s n r.seq.toNat rREJECTED 8 id else s) s
    let s := rejectDeps s n
    let v := (s.jr n).ver
    let s := appendRec s n
      { seq := 0, kind := kPIN, st := rCONFIRMED, pmask := scope, before := j.lastPin.setWidth 64, after := v.setWidth 64,
        origin := 1 }
    let s := s.updJr n fun j => { j with pin := some { ver := v, scope := scope, paddock := p, q := q }, lastPin := v }
    some (jDone s p q f 0 false 0 v 0)

/-- JPIN. -/
def execJpin (f : SeqF) (s : State) : Out :=
  areaIns f s mayJournal (fun _ => 0) fun _ s => tryOrPoll s (tryJpin s s.cur.p s.cur.q f) 0x92 f 0

/-- JUPN. -/
def execJupn (f : SeqF) (s : State) : Out :=
  areaIns f s mayJournal (fun _ => 0) fun n s =>
    let j := s.jr n
    match j.pin with
    | none => jDone s s.cur.p s.cur.q f 0 false 4 j.last 0
    | some z =>
      if z.paddock ≠ s.cur.p ∨ z.q ≠ s.cur.q then refuseA s f 0x56
      else
        let seq := j.next
        let s := appendRec s n
          { seq := 0, kind := kUNPIN, st := rCONFIRMED, pmask := z.scope, before := z.ver.setWidth 64, origin := 1 }
        let s := s.updJr n fun j => { j with pin := none }
        jDone s s.cur.p s.cur.q f 0 false 0 seq 0

/-! ## JRD and JPRP (R308) -/

/-- JRD: what the area holds of a record, between two writes of it. -/
def execJrd (f : SeqF) (s : State) : Out :=
  areaIns f s anyone (fun _ => 1) fun n s =>
    let s := flushArea s n
    let j := s.jr n
    let seq := seqOf (s.curCtx.opA f)
    let b := s.curCtx.opB f
    if !j.holds seq then refuseA s f 0x53
    else if !canonical b then addrTrap s cXLATE b .write
    else if b.toNat % 64 ≠ 0 then refuseA s f 0x54
    else
      match readBytes s (s.lead n) .read (j.addr (j.area.getD 0) seq) 64 with
      | (.error (c, va), s) => addrTrap s c va .read
      | (.ok bs, s) =>
        match writeBytes s s.cur.p b bs with
        | (some (c, va), s) => addrTrap s c va .write
        | (none, s) => jDone s s.cur.p s.cur.q f 1 false 0 j.last 0

/-- JPRP. -/
def execJprp (f : SeqF) (s : State) : Out :=
  areaIns f s mayJournal (fun _ => 1) fun n s =>
    let a := s.curCtx.opA f
    let strict := f.imm.getLsbD 0
    if !canonical a then addrTrap s cXLATE a .read
    else if a.toNat % 64 ≠ 0 then refuse s a 0x54
    else
      match readBytes s s.cur.p .read a 64 with
      | (.error (c, va), s) => addrTrap s c va .read
      | (.ok bs, s) =>
        match parseRequest bs with
        | none => refuse s a 0x57
        | some (idx, after, deps) =>
          match propose s n idx after deps 1 with
          | (.bad d, s) => refuse s a d
          | (.status c, s) => jDone s s.cur.p s.cur.q f 1 strict c (s.jr n).last 0
          | (.done seq, s) => jDone s s.cur.p s.cur.q f 1 strict 0 seq 0

/-! ## JREV (R298, R305) -/

/-- The status code of a JREV that R392 refuses: a free value among the codes of R307, which names none for it (log
85). -/
def refusedCode (s : State) : Nat × State :=
  let (w, s) := freeWord s
  (w.toNat % 6, s)

/-- A refused JREV completes with the REFUSED record's seq: code 1 under a pin. -/
def revDone (s : State) (p q : Nat) (f : SeqF) (refused : BitVec 48) (inacc : Bool) : State :=
  let (c, s) := if inacc then refusedCode s else (1, s)
  jDone s p q f 0 (f.imm.getLsbD 0) c refused refused

/-- JREV: stage 0 waits for its turn, stage 1 for the UNDO records. -/
def tryJrev (s : State) (p q : Nat) (f : SeqF) (stage : Nat) : Option State :=
  if stage ≠ 0 then none
  else
    let s := asCtx s p q
    let n := s.partOf p
    let j := s.jr n
    let seq := seqOf ((s.ctx p q).opA f)
    if j.shape.isSome then none
    else
      match (if j.holds seq then j.find seq else none) with
      | none => some (refuseA s f 0x53)
      | some r =>
        if !r.isChange || r.device then some (refuseA s f 0x53)
        else if r.st = rUNDONE ∨ r.st = rREJECTED then some (jDone s p q f 0 false 4 j.last 0)
        else if r.st = rPROPOSED then
          let s := rejectRec s n seq 2
          some (jDone s p q f 0 false 0 (s.jr n).last 0)
        else if !shapeIdle s n then none
        else
          match revert s n r 1 2 (some (p, q)) with
          | (some (m, inacc), s) => some (revDone s p q f m inacc)
          | (none, s) => some (s.updCtx p q fun c => { c with wait := .poll (seqPack 0x96 f) 1 })

/-- JREV. -/
def execJrev (f : SeqF) (s : State) : Out :=
  areaIns f s mayJournal (fun _ => 0) fun _ s => tryOrPoll s (tryJrev s s.cur.p s.cur.q f 0) 0x96 f 0

/-! ## JRPL (R304) -/

/-- The records that a replay keeps, in order: change records, CONFIRMED, not DEVICE. A record whose CHECK does not
match is kept only if its words ask for it, and fails the check. -/
def replayKept (bs : List (BitVec 8)) : Bool :=
  let w := natOfBytes (bs.take 8)
  let kind := w / 2 ^ 48 % 16
  decide (1 ≤ kind) && decide (kind ≤ 4) && w / 2 ^ 52 % 16 == 2 && w / 2 ^ 56 / 8 % 2 == 0

/-- Paddock k-th of the source masks to the k-th paddock of the partition; none when it has no such paddock. -/
def mapMask (src dst : List Nat) (m : BitVec 32) : Option (BitVec 32) :=
  (maskList m).foldl
    (fun a p => match a with
      | none => none
      | some v => (dst[src.idxOf p]?).map fun d => v ||| BitVec.ofNat 32 (2 ^ d)) (some 0)

/-- The records checked in order against the object states that those before leave: the plan, masks mapped. -/
def replayPlan (t : ObjTable) (src dst : List Nat) : List (List (BitVec 8)) → List Desc → Option (List JRec)
  | [], _ => some []
  | b :: bs, ds =>
    match JRec.parse b with
    | none => none
    | some r =>
      match mapMask src dst r.pmask, ds[r.obj.toNat]? with
      | some m, some d =>
        if m &&& ~~~d.pmask != 0 || d.kind != r.kind || r.before != d.cur.setWidth 64 || !d.allows r.after.toNat then none
        else
          let ds := ds.modify r.obj.toNat fun d => { d with cur := r.after.setWidth 8 }
          (replayPlan t src dst bs ds).map fun l => { r with pmask := m } :: l
      | _, _ => none

/-- A replay's REPLAY record, and its context's completion. -/
def replayEnd (s : State) (n : Nat) (map : List (BitVec 48 × BitVec 48)) (by_ : Nat × Nat) : State :=
  let (p, q) := by_
  let firstOf : BitVec 48 := match map with
    | [] => 0
    | (_, x) :: _ => x
  let (w, s) := freeWord s
  let seq := (s.jr n).next
  let s := appendRec s n
    { seq := 0, kind := kREPLAY, st := rCONFIRMED, pmask := w.setWidth 32,
      before := firstOf.setWidth 64, after := BitVec.ofNat 64 map.length, origin := 2, reason := 7 }
  match pollOf s p q 0x97 with
  | some (f, _) => jDone (s.unissue p q) p q f ((s.ctx p q).opB f).toNat false 0 seq 0
  | none => s

/-- The shape point of the first record a replay has left, or its end. -/
def replayNext (s : State) (n : Nat) (recs : List JRec) (map : List (BitVec 48 × BitVec 48)) (by_ : Nat × Nat) : State :=
  match recs with
  | [] => replayEnd (s.updJr n fun j => { j with shape := none }) n map by_
  | r :: _ =>
    shapeStart s n (.replay recs map by_) r.pmask ((((s.jr n).desc r.obj.toNat).map Desc.source).getD [])

/-- JRPL: stage 0 waits for its turn, stage 1 for the REPLAY record. -/
def tryJrpl (s : State) (p q : Nat) (f : SeqF) (stage : Nat) : Option State :=
  let n := s.partOf p
  let j := s.jr n
  if stage ≠ 0 || j.shape.any fun z => !(j.stopped && z.held) then none
  else
    let s := asCtx s p q
    let a := (s.ctx p q).opA f
    let b := ((s.ctx p q).opB f).toNat
    let strict := f.imm.getLsbD 0
    if !canonical a then some (addrTrap s cXLATE a .read)
    else if a.toNat % 64 ≠ 0 ∨ b = 0 ∨ 65536 < b then some (refuse s a 0x54)
    else if j.stopped || !(j.inState rPROPOSED).isEmpty || !(j.inState rTRIAL).isEmpty then
      some (jDone s p q f b strict 2 j.last 0)
    else
      match readBytes s p .read a (64 * b) with
      | (.error (c, va), s) => some (addrTrap s c va .read)
      | (.ok bs, s) =>
        let kept := ((List.range b).map fun i => (bs.drop (64 * i)).take 64).filter replayKept
        let srcMask := kept.foldl (fun (m : BitVec 32) x => m ||| BitVec.ofNat 32 (natOfBytes ((x.drop 8).take 4))) 0
        let plan := match j.obj with
          | none => if kept.isEmpty then some [] else none
          | some t => replayPlan t (maskList srcMask) (maskList (s.part n).mask) kept t.descs
        match plan with
        | none => some (jDone s p q f b strict 3 j.last 0)
        | some l =>
          if l.any fun r => j.pinned r.pmask then some (jDone s p q f b strict 1 j.last 0)
          else if !membersOpen s n then none
          else
            let s := s.updCtx p q fun c => { c with wait := .poll (seqPack 0x97 f) 1 }
            some ((replayNext (s.reissue p q) n l [] (p, q)).unissue p q)

/-- JRPL. -/
def execJrpl (f : SeqF) (s : State) : Out :=
  areaIns f s mayJournal (fun c => (c.opB f).toNat) fun _ s => tryOrPoll s (tryJrpl s s.cur.p s.cur.q f 0) 0x97 f 0

/-! ## JBASE and JVER (R308, R391) -/

/-- JBASE, when no shape point is in progress. It ends a stop: the records PROPOSED or TRIAL and those whose writes
failed are written into the new area. -/
def tryJbase (s : State) (p q : Nat) (f : SeqF) : Option State :=
  let n := s.partOf p
  let j := s.jr n
  let s := asCtx s p q
  let a := (s.ctx p q).opA f
  let k := fld ((s.ctx p q).opB f) 0 5
  if j.shape.any (!·.held) then none
  else
    let busy := !j.stopped && !((j.inState rPROPOSED).isEmpty && (j.inState rTRIAL).isEmpty)
    if a.toNat % 64 ≠ 0 ∨ k < 6 ∨ 24 < k then some (refuse s a 0x54)
    else
      match checkAddr s p a 64 .write with
      | (.fault c, s) => some (addrTrap s c a .write)
      | (.ok _ _, s) =>
        if busy then some (jDone s p q f 0 false 2 j.last 0)
        else
          let s := s.updJr n fun j =>
            { j with area := some a, k := k, first := j.next, baseBy := some (p, q), stopped := false, failed := [] }
          let s := if !j.stopped then s else
            ((j.recs.map (·.2)).filter fun r =>
              (r.isChange && (r.st == rPROPOSED || r.st == rTRIAL)) || j.failed.contains r.seq).foldl
              (fun s r => areaPut s n r) s
          some (jDone s p q f 0 false 0 j.last 0)

/-- JBASE. -/
def execJbase (f : SeqF) (s : State) : Out :=
  issueWith f mayJournal s fun s => .next (tryOrPoll s (tryJbase s s.cur.p s.cur.q f) 0x98 f 0)

/-- JVER; with WAIT it waits for the version. -/
def tryJver (s : State) (p q : Nat) (f : SeqF) : Option State :=
  let v := (s.jr (s.partOf p)).ver
  if f.imm.getLsbD 0 && decide (v.toNat < seqOf ((s.ctx p q).opA f)) then none
  else some (finish (flushArea s (s.partOf p)) p q 1 0 fun c => c.wr f.d (v.setWidth 64))

/-- JVER. -/
def execJver (f : SeqF) (s : State) : Out :=
  issueWith f anyone s fun s => .next (tryOrPoll s (tryJver s s.cur.p s.cur.q f) 0x99 f 0)

/-! ## Events of the shape controller -/

/-- The action of the shape point in progress, and the resumption of the regions. -/
def shapeAct (s : State) (n : Nat) (z : ShapePt) : State :=
  match z.req with
  | .apply seq =>
    let s := applyNow s n seq.toNat
    resumeMask (s.updJr n fun j => { j with shape := none }) z.mask
  | .revert seqs origin reason by_ =>
    let wait := by_.bind fun (p, q) => (pollOf s p q 0x96).map fun w => (p, q, w.1)
    let done := fun (s : State) => resumeMask (s.updJr n fun j => { j with shape := none }) z.mask
    match refusal s n (seqs.filterMap fun q => (s.jr n).find q.toNat) with
    | (some (m, inacc), s) =>
      -- what the revert's check found possible is so no longer (R392)
      let (seq, s) := refuseRevert s n (seqs.headD 0) m inacc origin reason
      match wait with
      | some (p, q, f) => revDone ((done s).unissue p q) p q f seq inacc
      | none => if by_.isNone then
          verdictRefused (done s) n (((s.jr n).inState rTRIAL).map (·.seq)) seq inacc else done s
    | (none, s) =>
      let s := done (revertNow s n seqs origin reason)
      match wait with
      | some (p, q, f) => jDone (s.unissue p q) p q f 0 false 0 (s.jr n).last 0
      | none => s
  | .replay recs map by_ =>
    match recs with
    | [] => replayNext (resumeMask s z.mask) n [] map by_
    | r :: rest =>
      let u := (s.jr n).next
      let deps := r.deps.map fun d =>
        match map.find? fun e => e.1 == r.seq - d.setWidth 48 with
        | some e => if d = 0 then 0 else BitVec.ofNat 16 (u.toNat - e.2.toNat)
        | none => 0
      let s := appendRec s n
        { seq := 0, kind := r.kind, st := rPROPOSED, flags := fNOTRIAL, pmask := r.pmask, obj := r.obj, deps := deps,
          before := r.before, after := r.after, origin := 2 }
      let (map, s) := match act s n r.obj.toNat r.after.toNat u.toNat with
        | (some c, s) => (map ++ [(r.seq, u)], moveRec s n u.toNat rCONFIRMED 7 fun r => r.counted c)
        | (none, s) => (map, rejectRec s n u.toNat 9)
      replayNext (resumeMask s z.mask) n rest map by_

/-- The next part of a shape point is due: the head record is served, the old routes are empty, or work in the paused
regions has completed. -/
def shapeDue (s : State) (n : Nat) : Bool :=
  match (s.jr n).shape with
  | none => (headDue s n).isSome
  | some z =>
    if z.held then !(s.jr n).stopped && membersOpen s n
    else if !z.paused then z.srcs.all (routeEmpty s ·)
    else decide (z.since < s.fc (s.lead n)) && pausedSettled s z.mask

/-- SHAPE_POINT of the partition whose lowest paddock is p: the next part of the shape point in progress, or the head
record's own begins. -/
def execShapePoint (p : Fin 32) (s : State) : Out :=
  let n := s.partOf p
  if s.lead n ≠ p ∨ !shapeDue s n then .next s
  else
    match (s.jr n).shape with
    | none =>
      match headDue s n with
      | some (r, .start) =>
        .next (shapeStart s n (.apply r.seq) r.pmask ((((s.jr n).desc r.obj.toNat).map Desc.source).getD []))
      | some (r, .reject) => .next (rejectRec s n r.seq.toNat 6)
      | _ => .next s
    | some z =>
      if z.held then .next (shapeStart s n z.req z.mask z.srcs)
      else if !z.paused then
        let s := s.updJr n fun j => { j with shape := some { z with paused := true, since := s.fc (s.lead n) } }
        .next (pauseMask s z.mask)
      else .next (shapeAct s n z)

/-- Objects whose baseline window is complete. -/
def baseEnds (s : State) (n : Nat) : List Nat :=
  ((s.jr n).wins.filter fun e => (s.jr n).winLen != 0 && decide ((s.jr n).winLen ≤ e.2.fcs)).map (·.1)

/-- BASELINE_WINDOW_END. -/
def execBaselineWindowEnd (p : Fin 32) (s : State) : Out :=
  let n := s.partOf p
  if s.lead n ≠ p then .next s
  else
    .next ((baseEnds s n).foldl
      (fun s i => s.updJr n fun j =>
        let b : BaseWin := Tbl.get {} j.wins i
        let h := b.hist ++ [b.cnt]
        { j with wins := Tbl.set j.wins i { b with fcs := 0, cnt := 0, hist := h.drop (h.length - 4) } }) s)

/-- The trial whose window is complete, and whether it is the last one; the verdict, whose revert is a shape point, waits
for the one in progress and while none may begin (R391, R322). -/
def trialEnds (s : State) (n : Nat) : Option (Trial × Bool) :=
  let j := s.jr n
  match j.trial, j.obj with
  | some t, some o =>
    let last := decide (o.ntrialw ≤ t.wins + 1)
    if j.winLen ≤ t.fcs ∧ (!last || shapeIdle s n) then some (t, last) else none
  | _, _ => none

/-- TRIAL_WINDOW_END: a window before the last one. -/
def execTrialWindowEnd (p : Fin 32) (s : State) : Out :=
  let n := s.partOf p
  match s.lead n == p, trialEnds s n with
  | true, some (t, false) =>
    .next (s.updJr n fun j =>
      { j with trial := some { t with wins := t.wins + 1, fcs := 0 } })
  | _, _ => .next s

/-- TRIAL_VERDICT (R296, R302). -/
def execTrialVerdict (p : Fin 32) (s : State) : Out :=
  let n := s.partOf p
  match s.lead n == p, trialEnds s n, (s.jr n).obj with
  | true, some (t, true), some o =>
    let meas := min (t.total / o.ntrialw) (2 ^ 32 - 1)
    let s := endTrial s n
    let setMeas := fun (rs : Tbl JRec) (q : BitVec 48) =>
      match Tbl.find? rs q.toNat with
      | some r => Tbl.set rs q.toNat { r with meas := BitVec.ofNat 32 meas }
      | none => rs
    let s := s.updJr n fun j => { j with recs := t.seqs.foldl setMeas j.recs }
    if t.base * (256 - o.margin) ≤ meas * 256 then
      .next (t.seqs.foldl (fun s q => moveRec s n q.toNat rCONFIRMED 0 id) s)
    else
      match (s.jr n).find (t.seqs.headD 0).toNat with
      | none => .next s
      | some r =>
        match revert s n r 0 1 none with
        | (none, s) => .next s
        | (some (m, inacc), s) => .next (verdictRefused s n t.seqs m inacc)
  | _, _, _ => .next s

/-! ## The tuner (R291) -/

/-- What the tuner proposes for an object. -/
def tunerValue (d : Desc) : Nat :=
  let cur := d.cur.toNat
  if d.typ = 1 then
    let l := bufTags.filter fun t => d.allowed.testBit t
    (l.find? fun t => decide (cur < t)).getD (l.headD cur)
  else if d.typ = 4 then (if cur + d.pstep ≤ d.pmax then cur + d.pstep else d.pmin)
  else (cur + 1) % d.nalt

/-- The object the tuner takes next. -/
def tunerDue (s : State) (n : Nat) : Option Nat :=
  let j := s.jr n
  match j.obj with
  | none => none
  | some t =>
    if t.tune && j.area.isSome && !j.stopped && j.pin.isNone && (j.inState rPROPOSED).isEmpty &&
        (j.inState rTRIAL).isEmpty then
      ((List.range t.descs.length).map fun i => (j.tuner + i) % t.descs.length).find? fun i =>
        match t.descs[i]? with
        | none => false
        | some d => ((maskList d.pmask).any fun p => (s.pad p).ran) && j.waited i && d.allows (tunerValue d)
    else none

/-- TUNER_PROPOSE. -/
def execTunerPropose (p : Fin 32) (s : State) : Out :=
  let n := s.partOf p
  match s.lead n == p, tunerDue s n with
  | true, some i =>
    match (s.jr n).desc i with
    | none => .next s
    | some d =>
      let (_, s) := propose s n i (BitVec.ofNat 64 (tunerValue d)) [] 0
      .next (s.updJr n fun j => { j with tuner := i + 1 })
  | _, _ => .next s

/-! ## CSRs (R283) -/

def jverCsr (j : Journal) : BitVec 64 := j.ver.setWidth 64

def jpinvCsr (j : Journal) : BitVec 64 :=
  match j.pin with
  | none => 0
  | some z => BitVec.ofNat 64 (2 ^ 63 + z.ver.toNat)

def jsubrCsr (j : Journal) : BitVec 64 :=
  BitVec.ofNat 64 ((List.range 4).foldl
    (fun v i =>
      let u : Sub := Tbl.get {} j.subs i
      v + u.active.toNat * 2 ^ i + u.ovf.toNat * 2 ^ (4 + i) + (if u.active then u.q else 0) * 2 ^ (8 + 2 * i)) 0)

def jstatCsr (j : Journal) : BitVec 64 :=
  let rep := j.shape.any fun z => match z.req with
    | .replay _ _ _ => true
    | _ => false
  let nt := (j.trial.map (·.seqs.length)).getD 0
  let tw := (j.trial.map (·.wins)).getD 0
  BitVec.ofNat 64 ((if j.area.isSome then j.k else 0) * 2 ^ 19 + nt * 2 ^ 16 + tw % 16 * 2 ^ 12 + rep.toNat * 2 ^ 11 +
    j.trial.isSome.toNat * 2 ^ 10 + (j.inState rPROPOSED).length * 2 ^ 5 + j.area.isSome.toNat)

end Sys2Proof.Machine
end

