-- ==== Sys2Proof/Machine/SeqControl.lean ====
section
/-! DEFINITION. The control instructions of the sequencer (R82 to R85), the traps taken in place of an instruction
(R31, R77, R270) and the end of tag waits and of WFE. -/

namespace Sys2Proof.Machine

open Host (Outcome)

/-! ## Branches (R82) -/

/-- A branch to a target: MISALIGN when it is no multiple of 8, D then unwritten. -/
def branchTo (s : State) (target : BitVec 64) (upd : Ctx → Ctx) : Out :=
  if target.toNat % 8 ≠ 0 then .next (precise s cMISALIGN (some target) none)
  else .next (s.setCurCtx { upd (s.curCtx.charge 1 0) with pc := target })

/-- BR. -/
def execBr (f : SeqF) (s : State) : Out :=
  issueWith f anyone s fun s => branchTo s (s.curCtx.branch f) id

/-- JMP. -/
def execJmp (f : SeqF) (s : State) : Out :=
  issueWith f anyone s fun s => branchTo s (s.curCtx.addr f) id

/-- CALL: sD ← PC + 8. -/
def execCall (f : SeqF) (s : State) : Out :=
  issueWith f anyone s fun s => branchTo s (s.curCtx.branch f) fun c => c.wr f.d (s.curCtx.pc + 8)

/-- RET. -/
def execRet (f : SeqF) (s : State) : Out :=
  issueWith f anyone s fun s => branchTo s (s.curCtx.opA f) id

/-! ## Tags (R83, R84) -/

/-- The condition of WANY or WALL. -/
def tagsMet (c : Ctx) (all : Bool) (m : BitVec 64) : Bool :=
  if all then c.tags &&& m == m else m == 0 || c.tags &&& m != 0

/-- WANY and WALL: the context waits at the instruction; TAGS is read at the end of each fc. -/
def tagWait (f : SeqF) (s : State) (all : Bool) : Out :=
  issueWith f anyone s fun s =>
    let c := s.curCtx
    .next (s.setCurCtx { c.charge 1 0 with wait := .tags all (c.opA f) })

/-- WANY. -/
def execWany (f : SeqF) (s : State) : Out := tagWait f s false

/-- WALL. -/
def execWall (f : SeqF) (s : State) : Out := tagWait f s true

/-- The index FFR writes: the lowest set bit of TAGS under a mask, 64 if none. -/
def tagIndex (c : Ctx) (m : BitVec 64) : BitVec 64 := BitVec.ofNat 64 (lowBit (c.tags &&& m) 64)

/-- FFR: TAGS is read at the end of the fc of issue, after every completion of that fc; the context issues in the next
fc (R84). -/
def execFfr (f : SeqF) (s : State) : Out :=
  issueWith f anyone s fun s =>
    let c := s.curCtx
    .next (s.setCurCtx { (c.charge 1 0).adv with wait := .busy (s.fc s.cur.p) (.tagIndex f.d (c.opA f)) })

/-- TAGS as a write leaves them: a bit that a completion set in this fc stays set (R83). -/
def Ctx.putTags (c : Ctx) (v : BitVec 64) : Ctx := { c with tags := v ||| (c.tags &&& c.setNow) }

/-- TCLR. -/
def execTclr (f : SeqF) (s : State) : Out :=
  issueWith f anyone s fun s =>
    let c := s.curCtx
    .next (s.setCurCtx (((c.charge 1 0).adv).putTags (c.tags &&& ~~~c.opA f)))

/-- TAG_WAIT_COMPLETE: a tag wait whose condition holds ends; the context issues in the next fc. -/
def execTagWaitComplete (p : Fin 32) (q : Fin 4) (s : State) : Out :=
  let c := s.ctx p q
  match c.wait with
  | .tags all m => if tagsMet c all m then .next (s.setCtx p q { c.adv with wait := .ready }) else .next s
  | _ => .next s

/-! ## WFE and WAKE (R85) -/

/-- WFE: gating commits over fc t to t + 3; the context stands at the instruction. -/
def execWfe (f : SeqF) (s : State) : Out :=
  issueWith f anyone s fun s =>
    let c := s.curCtx
    .next (s.setCurCtx { c.charge 1 0 with wait := .wfe (s.fc s.cur.p) f.d })

/-- WAKE: a wake event for each context n of the paddock with A[n] = 1. -/
def execWake (f : SeqF) (s : State) : Out :=
  issueWith f anyone s fun s =>
    let c := s.curCtx
    let m := c.opA f
    let s := s.setCurCtx ((c.charge 1 0).adv)
    .next ((List.range 4).foldl (fun s n => if m.getLsbD n then wakeCtx s s.cur.p n else s) s)

/-- The commit cycle of WFE, at the end of fc t + 3: a latch that is clear gates the context. -/
def commitWfe (s : State) (p q : Nat) : State :=
  let c := s.ctx p q
  match c.wait with
  | .wfe t d => if t + 3 ≤ s.fc p ∧ !c.latch then s.setCtx p q { c with wait := .gated d none } else s
  | _ => s

/-- Whether a WFE ends: the latch was set by the commit cycle (WOKE), or a gated context's wake time has come. -/
def wfeEnds (s : State) (p q : Nat) : Bool :=
  let c := s.ctx p q
  match c.wait with
  | .wfe t _ => decide (t + 3 ≤ s.fc p) && c.latch
  | .gated _ (some w) => decide (w ≤ s.now) && c.latch
  | _ => false

/-- WFE_WAKE: WFE completes, clearing the latch; sD tells whether gating was aborted (Table 5-9). -/
def execWfeWake (p : Fin 32) (q : Fin 4) (s : State) : Out :=
  let c := s.ctx p q
  if wfeEnds s p q then
    let done := fun (d : BitVec 5) (v : BitVec 64) => { (c.adv).wr d v with wait := .ready, latch := false }
    match c.wait with
    | .wfe _ d => .next (s.setCtx p q (done d 1))
    | .gated d _ => .next ((s.setCtx p q (done d 0)).updPad p fun x => { x with gatedF3 := false })
    | _ => .next s
  else .next s

/-- A context that is gated or halted (R85). -/
def Ctx.asleep (c : Ctx) : Bool :=
  c.halted || (match c.wait with
    | .gated _ none => true
    | _ => false)

/-- No engine of a paddock is busy; one whose chain is paused on a translation (STATE 5) is not (log 100; DESIGN CHOICE). -/
def Paddock.enginesIdle (x : Paddock) : Bool :=
  x.chains.all fun e => match e.2.st with
    | .running | .stampWait | .waitSeq => false
    | _ => true

/-- Whether a paddock may be placed in F3 (R85). -/
def Paddock.idle (x : Paddock) : Bool :=
  (List.range 4).all (fun q => (x.ctx q).asleep) && x.regions.all (fun e => !e.2.alloc) && x.enginesIdle

/-- PADDOCK_GATE_F3. -/
def execPaddockGateF3 (p : Fin 32) (s : State) : Out :=
  let x := s.pad p
  .next (if x.idle then s.setPad p { x with gatedF3 := true } else s)

/-! ## Traps in place of an instruction -/

/-- ILLEGAL_WORD: TVAL holds the word (R31). -/
def execIllegalWord (w : BitVec 64) (s : State) : Out := .next (precise s cILLEGAL (some w) none)

/-- FETCH_FAULT: EPC and TVAL hold the word's address (R77). -/
def execFetchFault (cause : BitVec 8) (s : State) : Out := .next (precise s cause (some s.curCtx.pc) none)

/-- A counter of a context that would trap is exhausted (R270). -/
def budgetOut (c : Ctx) : Bool := !c.inTrap && (decide (c.ibud.toInt ≤ 0) || decide (c.tbud.toInt ≤ 0))

/-- CONTEXT_BUDGET_TRAP: BUDGET_I, or BUDGET_T when only the traffic counter is exhausted (R270). -/
def execContextBudgetTrap (s : State) : Out :=
  let c := s.curCtx
  if budgetOut c then
    .next (precise s (if c.ibud.toInt ≤ 0 then cBUDGET_I else cBUDGET_T) none none)
  else .next s

end Sys2Proof.Machine
end

