-- ==== Sys2Proof/Machine/Traps.lean ====
section
/-! DEFINITION. Traps of the system class (R310 to R319, R329, R330, R337): delivery of asynchronous traps, fabric traps and
their records, return from a trap, recovery from uncorrectable errors, the spare element and the scrubbers (R106 to
R108, R162). -/

namespace Sys2Proof.Machine

open Host (Outcome)

/-! ## Records of fabric traps (R315, R316) -/

/-- A buffer entry: the record's first word, the head token's header and its low 32 bits (Table 16-4). -/
def bufEntry (r : Region) (e : Nat × Nat × List Tok) : List (BitVec 8) :=
  let k := (e.2.2.head?).getD {}
  let h := if k.dat then datHeader k else ctlHeader k
  bytesOfNat 8 (recordWord r e.1 e.2.1 e.2.2) ++ bytesOfNat 8 (h + k.val.toNat % 2 ^ 32 * 2 ^ 32)

/-- The trap record (Tables 16-3 and 16-4). -/
def trapRecord (s : State) (p rid : Nat) (r : Region) (t : TrapInfo) : List (BitVec 8) :=
  let tl := s.tile p t.tile
  let bufs := if t.cause = cQNC then fullBufs s p r
    else (List.range 4).filterMap fun n =>
      let l := (tl.buf n).toks
      if l.isEmpty then none else some (t.tile, n, l)
  let h := r.activeHdr s p
  let e := tileType t.tile == .e
  let parked := (tl.reqs.filter fun q => match q.st with
    | .parkedFault _ | .parkedFE => true
    | .going | .performed => false).length
  let len := 128 + 16 * bufs.length + 8 * t.ready.length
  let w : List Nat :=
    [t.cause.toNat + rid * 2 ^ 8 + t.slot * 2 ^ 12 + tileRow t.tile * 2 ^ 16 + tileCol t.tile * 2 ^ 20 + r.owner * 2 ^ 24 +
       r.task.isSome.toNat * 2 ^ 26 + t.fired.toNat * 2 ^ 27 + t.nfault * 2 ^ 32 + t.detail.toNat * 2 ^ 48,
     t.word.toNat,
     (hdrCfgid h).toNat + (hdrGen h).toNat * 2 ^ 16 + ((r.act.map (·.toNat)).getD 0) * 2 ^ 17,
     t.cycle,
     t.flags.toNat + t.preds.toNat * 2 ^ 8,
     t.info0.toNat, t.info1.toNat,
     bufs.length + t.ready.length * 2 ^ 16 + len * 2 ^ 32,
     if e then tl.et.issued.toNat + tl.et.done.toNat * 2 ^ 32 else 0,
     if e then parked + tl.et.replay.length * 2 ^ 16 else 0]
  w.flatMap (bytesOfNat 8 ·) ++ List.replicate 48 0 ++ bufs.flatMap (bufEntry r ·) ++
    t.ready.flatMap fun x => bytesOfNat 8 x.toNat

/-- A fabric trap reaches its region two fc after its detection (R314). -/
def trapDue (s : State) (p : Nat) (r : Region) : Bool :=
  r.alloc && r.trap.any fun t => !t.reported && decide (t.at_ + 2 ≤ s.fc p)

/-- From that fc on the region is trapped, and its report is queued for the owner with the record as it then is (log 43).
The record is written, and the task is set to STATE 5, as the report is delivered. -/
def trapRegion (s : State) (p rid : Nat) : State :=
  let r := s.region p rid
  match r.trap with
  | none => s
  | some t =>
    let bs := trapRecord s p rid r t
    let s := s.updRegion p rid fun r => { r with st := .trapped, trap := some { t with reported := true } }
    let tval2 := BitVec.ofNat 64 (rid * 2 ^ 8 + tileRow t.tile * 2 ^ 4 + tileCol t.tile * 2 ^ 12 + t.slot * 2 ^ 16 + 2 ^ 63)
    reportWith s p r.owner t.cause 0 tval2 (.region rid) bs

/-- A report as it is delivered: that of a fabric trap first has its record written at TRBASE, whose bytes before a fault
stand, and carries TRBASE in TVAL and a record not written in TVAL2[62] (R315); its task is then in STATE 5 (R314), where the
report is that of the trap that stands. -/
def readyReport (s : State) (p q : Nat) (r : Report) : Report × State :=
  match r.src with
  | .region rid =>
    let base := (s.ctx p q).trbase
    let (missed, s) :=
      if base = 0 then (false, s)
      else
        match writeSome s p base r.rec_ with
        | (none, s) => (false, s)
        | (some _, s) => (true, s)
    let x := s.region p rid
    let s := match x.task with
      | some k =>
        if x.st = .trapped ∧ !(s.pad p).behind.any (·.2.src == .region rid) then s.updTask p k fun t => { t with st := .faulted }
        else s
      | none => s
    ({ r with tval := base, tval2 := r.tval2 ||| BitVec.ofNat 64 (missed.toNat * 2 ^ 62) }, s)
  | _ => (r, s)

/-! ## TRAPE and BRKE (R337) -/

/-- The slot fires, then the element stops. -/
def fireTrap (opc : BitVec 8) (f : FabF) (s : State) (cause : BitVec 8) : Out :=
  let x := s.fir
  let b := x.opB f
  let (n, s) := freeNz f s
  let s := applyEffect f { nonzero := n, formed := false } s
  .next (fabricTrap s x.p x.t x.slot (fabPack opc f) true cause (b.setWidth 16) 0 0)

/-- TRAPE. -/
def execTrape (f : FabF) (s : State) : Out := fireTrap 0xF2 f s cELEMENT

/-- BRKE. -/
def execBrke (f : FabF) (s : State) : Out := fireTrap 0xF3 f s cBREAK

/-! ## Delivery to a context (R311) -/

/-- The context stands at an instruction boundary, a wait included; JREV and JRPL hold it (R308). -/
def Ctx.atBoundary (c : Ctx) (now : Nat) : Bool :=
  match c.wait with
  | .ready | .tags _ _ | .wfe _ _ => true
  | .gated _ w => w.any fun t => decide (t ≤ now)
  | .busy _ _ => false
  | .poll w _ => seqOpc w != 0x96 && seqOpc w != 0x97

/-- A CTXS of another context of the paddock waits for this one, which stops at its next instruction boundary (R335). -/
def Paddock.heldCtx (x : Paddock) (q : Nat) : Bool :=
  (List.range 4).any fun k => k != q && (match (x.ctx k).wait with
    | .poll w _ => seqOpc w == 0xA8 && fld ((x.ctx k).opA (seqFields w)) 0 2 == q
    | _ => false)

/-- A report is delivered now; one of a context that a CTXS stops stays pending (Table 16-12). -/
def asyncDue (s : State) (p q : Nat) : Bool :=
  let c := s.ctx p q
  !c.halted && !c.saved && !c.inTrap && !c.reports.isEmpty && c.atBoundary s.now && !(s.pad p).heldCtx q

/-- The context leaves the wait it stands in; the wait starts again when it resumes (R84). -/
def leaveWait (s : State) (p q : Nat) : State :=
  let s := withdrawBids s p q
  let s := match (s.ctx p q).wait with
    | .gated _ _ => s.updPad p fun x => { x with gatedF3 := false }
    | _ => s
  s.updCtx p q fun c => { c with wait := .ready }

/-- ASYNC_TRAP_DELIVERY: the oldest report is taken, EPC at the next instruction or the wait. One that waited behind it is
pending from then on. -/
def execAsyncTrapDelivery (p : Fin 32) (q : Fin 4) (s : State) : Out :=
  if !asyncDue s p q then .next s
  else
    let s := leaveWait s p q
    let c := s.ctx p q
    match c.reports with
    | [] => .next s
    | r :: rest =>
      let s := s.setCtx p q { c with reports := rest, serving := some r.src }
      let (r, s) := readyReport s p q r
      .next (takeTrap (nextReport s p r.src) p q c.pc r.cause (some r.tval) (some r.tval2))

/-! ## TRAP, BKPT, HALT, ERET (R329, R330, R332) -/

/-- TRAP. -/
def execTrap (f : SeqF) (s : State) : Out :=
  issueWith f anyone s fun s => .next (precise s (BitVec.ofNat 8 (0x80 + fld f.imm 0 7)) (some 0) none)

/-- BKPT. -/
def execBkpt (f : SeqF) (s : State) : Out :=
  issueWith f anyone s fun s => .next (precise s cBREAK (some (BitVec.ofNat 64 (fld f.imm 0 16))) none)

/-- HALT. -/
def execHalt (f : SeqF) (s : State) : Out :=
  issueWith f anyone s fun s =>
    .next (haltCtx (s.setCurCtx ((s.curCtx.charge 1 0).adv)) s.cur.p s.cur.q 0)

/-- A trapped region runs again from the next fc (R317). A freeze whose fc has come while its task still has budget is
dropped; one that owes a save, or whose fc is still to come, is kept (R267, R268, R272). A fault that waited behind the trap is taken then (R311). The parked
requests of a tile whose own report still waits are not tried again with it. -/
def resumeRegion (s : State) (p rid : Nat) : State :=
  let r := s.region p rid
  let c := s.ctx p r.owner
  let s := r.tileList.foldl (fun s t => s.updTile p t fun tl =>
    { tl with
      stopped := r.later.any (·.tile == t)
      et := if !c.owes (.etile t) && tl.reqs.any (fun q => match q.st with
        | .parkedFault _ => true
        | .parkedFE | .going | .performed => false) then { tl.et with retryAt := some (s.fc p + 1) } else tl.et }) s
  let spent := match r.task with
    | some k => (s.task p k).exhausted
    | none => false
  let s := s.updRegion p rid fun r =>
    { r with st := .running, trap := r.later.map (fun t => { t with at_ := s.fc p }), later := none, runFrom := s.fc p + 1, quiet := 0,
             freezeAt := r.freezeAt.filter fun n => spent || r.owesSave || decide (s.fc p < n) }
  match r.task with
  | some k => s.updTask p k fun t => if t.st = .faulted then { t with st := .running } else t
  | none => s

/-- The trapped regions of a context whose reports it has taken run again. -/
def resumeTrapped (s : State) (p q : Nat) : State :=
  (List.range 16).foldl
    (fun s rid =>
      let r := s.region p rid
      if r.alloc && r.owner == q && r.st == .trapped && r.trap.any (·.reported) && !(s.ctx p q).owes (.region rid) then
        resumeRegion s p rid
      else s) s

/-- Requests and chains that a context's reports covered retry in the fc after its ERET (R159, R245); those of an E tile
whose report the ending handler served too, whoever holds the tile by now. -/
def retryParked (s : State) (p q : Nat) : State :=
  let c := s.ctx p q
  let fc := s.fc p
  s.updPad p fun x =>
    { x with
      tiles := x.tiles.map fun e =>
        (e.1,
         if e.2.et.reported && !c.owes (.etile e.1) &&
             ((x.regionAt e.1).any (fun r => r.2.owner == q) || c.serving == some (.etile e.1)) then
           { e.2 with et := { e.2.et with retryAt := some (fc + 1) } }
         else e.2)
      chains := x.chains.map fun e =>
        (e.1, if e.2.st == .paused && e.2.owner == q && !c.owes (.chain e.1) then { e.2 with retry := true } else e.2) }

/-- ERET. -/
def execEret (f : SeqF) (s : State) : Out :=
  issueWith f (·.inTrap) s fun s =>
    let (p, q) := (s.cur.p, s.cur.q)
    let s := s.setCurCtx (s.curCtx.charge 1 0)
    let s := if f.imm.getLsbD 0 then s else resumeTrapped s p q
    .next (returnTrap (retryParked s p q) p q)

/-! ## Uncorrectable errors (R318, R319) -/

/-- An error in what a region holds, or a second way to say it (a spare mismatch): an epoch that is uncommitted and not
yet replayed is recovered, else the fabric trap `t` is taken. The element of the tile stops in either case. Errors met while
a recovery is pending change nothing more, and one met after it is the second error of R319, whichever firing it is of (log
91; DESIGN CHOICE). -/
def regionError (s : State) (p rid t : Nat) (trap : State → State) : State :=
  let r := s.region p rid
  if r.recover.isSome then s
  else if r.committed || r.replayed then trap s
  else (s.updTile p t fun tl => { tl with stopped := true }).updRegion p rid fun r => { r with recover := some (s.fc p) }

/-- ECC_UE of a region, as that of slot 0 (log 106); the address of an error that has none is a free value (log 15). -/
def regionEcc (s : State) (p t : Nat) : State :=
  let (w, s) := freeWord s
  regionTrap s p t cECC_UE w

/-- The recovery of a region that has stopped is due. -/
def recoverDue (s : State) (p : Nat) (r : Region) : Bool :=
  r.alloc && r.trap.isNone && r.recover.any (fun t => decide (t + 2 ≤ s.fc p)) && workSettled s p r

/-- Tokens flushed, the active configuration reloaded and activated, loads served again from the replay entries. -/
def recoverRegion (s : State) (p rid : Nat) : State :=
  let r := s.region p rid
  match r.act with
  | none => s.updRegion p rid fun r => { r with recover := none }
  | some slot =>
    let kept := r.replayTiles.map fun t => (t, r.entries (s.tile p t).et.replay)
    let s := r.tileList.foldl
      (fun s t =>
        let s := dropOut s p t fun _ => true
        let tl := (cancelParked (s.tile p t)).2
        s.setTile p t { tl with bufs := [], reqs := [], pendL := 0, pendP := 0, mx := tl.mx.left none, et := { tl.et with coal := [] } }) s
    let s := match Tbl.find? r.images slot.toNat with
      | some (_, img) => storeImage s p r.row0 r.col0 r.h r.w slot.toNat img
      | none => s
    let s := activateRegion s p rid slot true
    let s := kept.foldl
      (fun s e => s.updTile p e.1 fun tl => { tl with et := { tl.et with served := tl.et.served ++ e.2 } }) s
    s.updRegion p rid fun r => { r with replayed := true }

/-- REGION_ECC_RECOVERY: an uncorrectable error in a token, buffer, local, predicate or configuration word of a tile; the
recovery itself, once the region has stopped; or ECC_UE. -/
def execRegionEccRecovery (p : Fin 32) (r : Fin 16) (t : Fin 144) (s : State) : Out :=
  let x := s.region p r
  if !x.alloc then .next s
  else if x.recover.isSome then
    if !recoverDue s p x then .next s
    else if x.committed then .next (regionEcc (s.updRegion p r fun x => { x with recover := none }) p t)
    else .next (recoverRegion s p r)
  else if inRect x.row0 x.col0 x.h x.w t then .next (regionError s p r t fun s => regionEcc s p t)
  else .next s

/-! ## The spare element (R106 to R108) -/

/-- What a spare copies of the element that fires. -/
def Fir.elemSt (x : Fir) : ElemSt :=
  { cfg := x.cfg, loc := x.tl.loc, vec := x.tl.vec, preds := x.tl.preds, rc := x.tl.rc, x := x.tl.x, arm := x.tl.arm,
    l := x.tl.l, a := x.tl.a, halt := x.tl.halt }

/-- The tile with a copy in place of its own configuration and state; its tokens stay. -/
def ElemSt.into (e : ElemSt) (r : Region) (tl : Tile) : Tile :=
  let tl := { tl with loc := e.loc, vec := e.vec, preds := e.preds, rc := e.rc, x := e.x, arm := e.arm, l := e.l, a := e.a,
                      halt := e.halt }
  match r.actOn tl with
  | some n => { tl with cfgs := Tbl.set tl.cfgs n.toNat e.cfg }
  | none => tl

/-- The opcodes whose firings a spare repeats (R106). -/
def spareRepeats (opc : Nat) : Bool := decide (opc < 0x20) || (decide (0x40 ≤ opc) && decide (opc < 0x54))

/-- What a firing emitted, as its outputs and their destinations hold it. -/
def emitted (s : State) (x : Fir) (om : BitVec 4) : List (List Tok) × List (Tbl (BitVec 6)) × List Deferred :=
  let tl := s.tile x.p x.t
  ((outsOf om).flatMap fun n =>
      ((Cfg.from x.cfg (8 + n)).filterMap fun r => (routeDest x.t r).map fun d => ((s.tile x.p d.1).buf d.2).toks) ++
        (s.stilesAt x.p x.t n).map fun e => e.2.flight.map (·.2),
    [tl.pend], tl.outq)

/-- A firing's value of DST; with no DST, the value of the token it sent last. -/
def firedVal (s : State) (x : Fir) (f : FabF) : BitVec 512 :=
  let tl := s.tile x.p x.t
  let n := f.dst.toNat
  if n < 8 then (tl.lc n).setWidth 512
  else if n < 12 then tl.vc (n - 8)
  else (((emitted s x f.om).1.filterMap (·.getLast?)).head?.map (·.val)).getD 0

/-- The predicate that PU updates. -/
def firedPred (s : State) (x : Fir) (f : FabF) : Bool :=
  f.pu != 0 && (s.tile x.p x.t).preds.getLsbD f.pd.toNat

/-- DST, every emitted token and the predicate update (R106). -/
def sameFiring (s t : State) (x : Fir) (f : FabF) : Bool :=
  firedVal s x f == firedVal t x f && firedPred s x f == firedPred t x f && emitted s x f.om == emitted t x f.om

/-- The spare that shadows an element, and the state it fires from: its copy, or what the element holds where the copy
begins, or where the element's state has changed otherwise than by firings that the spare repeats. -/
def spareCopy (sp : Spare) (x : Fir) : ElemSt := if sp.seen = some x.elemSt then sp.copy.getD x.elemSt else x.elemSt

/-- An element fires; the spare of its row, where it shadows the element, fires the same slot from its own copy and
notes the comparison (R106). -/
def shadowed (word : BitVec 64) (run : State → Out) (s : State) : Out :=
  let x := s.fir
  let row := tileRow x.t
  let sp : Spare := Tbl.get {} (s.pad x.p).spares row
  if !spareRepeats (fabOpc word).toNat || sp.col != tileCol x.t || x.tl.retired then run s
  else
    match run s with
    | .next s1 =>
      match run (s.updTile x.p x.t fun tl => (spareCopy sp x).into x.reg tl) with
      | .next s2 =>
        if (s1.tile x.p x.t).stopped then .next s1
        else
          let f := fabFields word
          let cmp : SpareCmp :=
            { tile := x.t, slot := x.slot, due := s.fc x.p + 4, same := sameFiring s1 s2 x f,
              elem := (firedVal s1 x f).setWidth 64, spare := (firedVal s2 x f).setWidth 64 }
          let sp : Spare :=
            { sp with copy := some (firOf s2 x.p x.t).elemSt, seen := some (firOf s1 x.p x.t).elemSt, cmps := sp.cmps ++ [cmp] }
          .next (s1.updPad x.p fun y => { y with spares := Tbl.set y.spares row sp })
      | _ => .next s1
    | o => o

/-- The next column of a row whose element is not retired; where every one is, the column stays (log 91). -/
def nextShadow (x : Paddock) (row col : Nat) : Nat :=
  (((List.range 12).map fun i => (col + 1 + i) % 12).find? fun c => !(x.tile (tileAt row c)).retired).getD col

/-- A spare has shadowed a column for 2^Q fc, Q as it stands now (log 91). -/
def shadowDue (x : Paddock) (row : Nat) : Bool :=
  let sp : Spare := Tbl.get {} x.spares row
  decide (sp.since + 2 ^ x.spareq.toNat ≤ x.cycle.toNat)

/-- SPARE_ADVANCE. -/
def execSpareAdvance (p : Fin 32) (row : Fin 12) (s : State) : Out :=
  let x := s.pad p
  if !shadowDue x row then .next s
  else
    let sp : Spare := Tbl.get {} x.spares row
    .next (s.setPad p
      { x with spares := Tbl.set x.spares row { col := nextShadow x row sp.col, since := x.cycle.toNat, cmps := sp.cmps } })

/-- Comparisons of a row that are complete. -/
def compareDue (x : Paddock) (row : Nat) : Bool :=
  (Tbl.get ({} : Spare) x.spares row).cmps.any fun c => decide (c.due ≤ x.fc)

/-- SPARE_COMPARE: a mismatch marks the element suspect and retires it (R300), and its region recovers or traps. A pin or
a stopped journal holds the retiring up no more than a missing area does, and a mismatch of an element already retired, of a
firing made before, appends its record too (log 91; DESIGN CHOICE). -/
def execSpareCompare (p : Fin 32) (row : Fin 12) (s : State) : Out :=
  let x := s.pad p
  let sp : Spare := Tbl.get {} x.spares row
  match sp.cmps.find? fun c => decide (c.due ≤ x.fc) with
  | none => .next s
  | some c =>
    let s := s.setPad p { x with spares := Tbl.set x.spares row { sp with cmps := sp.cmps.erase c } }
    if c.same then .next s
    else
      let s := s.updTile p c.tile fun tl => { tl with suspect := true, retired := true }
      let s := match x.regionAt c.tile with
        | none => s
        | some (rid, r) =>
          let word := Cfg.slot ((x.cfgAt c.tile).getD []) c.slot
          regionError s p rid c.tile fun s =>
            if r.committed then fabricTrap s p c.tile c.slot word false cSHADOW 0 c.elem c.spare
            else regionEcc s p c.tile
      .next (recordRetired s p row (tileCol c.tile))

/-! ## The scrubbers (R160 to R162) -/

/-- Lines of home memory, and after them the scratchpad words of the twelve S tiles. -/
abbrev memLines : Nat := 2 ^ 27
abbrev scrubLines : Nat := memLines + 12 * 65536

/-- ECCMODE.CLR. -/
def execEccmodeClr (p : Fin 32) (s : State) : Out := .next (s.updPad p fun x => { x with cecnt := 0 })

/-- A write to ECCMODE.DEC: lines of the other code remain until the scrubbers have visited every line. -/
def setDec (s : State) (p : Nat) (dec : Bool) : State :=
  s.updPad p fun x => if x.dec = dec then x else { x with dec := dec, reenc := true, reencAt := x.scrubAt }

def execEccmodeDecWrite (p : Fin 32) (dec : Bool) (s : State) : Out := .next (setDec s p dec)

/-- SCRUB_VISIT: a line is read, corrected and rewritten in the code in force, in a cycle of its bank. -/
def execScrubVisit (p : Fin 32) (line : Nat) (s : State) : Out :=
  let s :=
    if line < memLines then s.fixLine false (64 * (line + p.val * memLines))
    else
      let n := line - memLines
      let t := tileAt (n / 65536) 6
      fixWord (s.updSpad p t (·.take (s.fc p) n)) p t (n % 65536)
  .next (s.updPad p fun x =>
    let x := { x with scrubbed := Tbl.put 0 x.scrubbed line x.fc }
    let next := if line + 1 < scrubLines then line + 1 else 0
    if line = x.scrubAt then { x with scrubAt := next, reenc := x.reenc && next != x.reencAt } else x)

end Sys2Proof.Machine
end

