-- ==== Sys2Proof/Machine/System.lean ====
section
/-! DEFINITION. The system class (R320 to R336): CSRs, gates, partitions and paddock reset, stiles, the save and restore of
a context, and the power clamp (R10, R327, R388). -/

namespace Sys2Proof.Machine

open Host (Outcome)

/-! ## CSRs (R331) -/

/-- RGNMAP (Table 8-1). -/
def rgnmap (x : Paddock) : BitVec 64 :=
  let used := (List.range 16).foldl (fun n r => n + (x.region r).alloc.toNat * 2 ^ r) 0
  BitVec.ofNat 64 (used + x.freeTiles * 2 ^ 16 + x.bids.length * 2 ^ 24)

/-- ECCMODE (Table 9-4). -/
def eccmode (x : Paddock) : BitVec 64 :=
  BitVec.ofNat 64 (x.dec.toNat + x.reenc.toNat * 2 + x.scrubq.toNat * 2 ^ 8 + x.cecnt.toNat * 2 ^ 32)

/-- The value of a CSR; none for a number no chapter defines. MCPOP, whose read has an effect, is MCPOP_READ. -/
def csrRead (s : State) (p q n : Nat) : Option (BitVec 64) :=
  let x := s.pad p
  let c := s.ctx p q
  let j := s.jr (s.partOf p)
  match n with
  | 0x000 => some (c.sstat p q)
  | 0x001 => some c.tvec
  | 0x002 => some c.epc
  | 0x003 => some c.tcause
  | 0x004 => some c.tval
  | 0x005 => some c.tval2
  | 0x008 => some (c.rights.setWidth 64)
  | 0x010 => some (budRead c.ibud)
  | 0x011 => some (budRead c.tbud)
  | 0x012 => some (debtRead c.ibud)
  | 0x013 => some (debtRead c.tbud)
  | 0x014 => some c.contpt
  | 0x015 => some c.lrec
  | 0x016 => some c.trbase
  | 0x017 => some c.haltr
  | 0x020 => some c.tags
  | 0x021 => some c.tagmask
  | 0x034 => some (x.bypmax.setWidth 64)
  | 0x035 => some (x.spareq.setWidth 64)
  | 0x036 => some (eccmode x)
  | 0x037 => some (x.stiletmo.setWidth 64)
  | 0x040 => some (jverCsr j)
  | 0x041 => some (jpinvCsr j)
  | 0x042 => some (jsubrCsr j)
  | 0x043 => some (jstatCsr j)
  | 0x050 => some x.cycle
  | 0x051 => some (BitVec.ofNat 64 s.timeNs)
  | 0x052 => some (Config.modid.setWidth 64)
  | 0x060 => some (rgnmap x)
  | 0x070 => some (c.mcsel.setWidth 64)
  | _ =>
    if 0x030 ≤ n ∧ n ≤ 0x033 then some ((Tbl.get 1 x.lqw (n - 0x030)).setWidth 64)
    else if 0x080 ≤ n ∧ n ≤ 0x0FF then some ((Tbl.get 0 x.msgl (n - 0x080)).setWidth 64)
    else none

/-- A value kept between two bounds. -/
def clampNat (lo hi v : Nat) : Nat := min hi (max lo v)

/-- A CSR written; none for an undefined number or a CSR with no RW or WO field. -/
def csrWrite (s : State) (p q n : Nat) (v : BitVec 64) : Option State :=
  let ctx := fun (f : Ctx → Ctx) => some (s.updCtx p q f)
  let pad := fun (f : Paddock → Paddock) => some (s.updPad p f)
  match n with
  | 0x000 => ctx fun c => { c with inTrap := v.getLsbD 0 }
  | 0x001 => ctx fun c => { c with tvec := v }
  | 0x002 => ctx fun c => { c with epc := v }
  | 0x003 => ctx fun c => { c with tcause := v &&& 0xFF }
  | 0x004 => ctx fun c => { c with tval := v }
  | 0x005 => ctx fun c => { c with tval2 := v }
  | 0x014 => ctx fun c => { c with contpt := v }
  | 0x016 => ctx fun c => { c with trbase := v &&& 0x01FFFFFFFFFF0000 }
  | 0x020 => ctx fun c => c.putTags v
  | 0x021 => ctx fun c => { c with tagmask := v }
  | 0x034 => pad fun x => { x with bypmax := BitVec.ofNat 8 (max 1 (fld v 0 8)) }
  | 0x035 => pad fun x => { x with spareq := BitVec.ofNat 5 (clampNat 12 24 (fld v 0 5)) }
  | 0x036 =>
    let s := s.updPad p fun x => { x with scrubq := BitVec.ofNat 5 (clampNat 16 30 (fld v 8 5)) }
    let s := if v.getLsbD 2 then s.updPad p fun x => { x with cecnt := 0 } else s
    some (setDec s p (v.getLsbD 0))
  | 0x037 => pad fun x => { x with stiletmo := BitVec.ofNat 32 (max 256 (fld v 0 32)) }
  | 0x070 => ctx fun c => { c with mcsel := v.setWidth 8 }
  | _ =>
    if 0x030 ≤ n ∧ n ≤ 0x033 then
      pad fun x => { x with lqw := Tbl.set x.lqw (n - 0x030) (BitVec.ofNat 8 (max 1 (fld v 0 8))) }
    else if 0x080 ≤ n ∧ n ≤ 0x0FF then
      -- a label that is unbound loses the messages on their way to it (R254)
      let s := if v.getLsbD 8 then s else dropMessages s p fun m => m.label.toNat == n - 0x080
      some (s.updPad p fun x => { x with msgl := Tbl.put 0 x.msgl (n - 0x080) (v.setWidth 9) })
    else none

/-- CSRR. -/
def execCsrr (f : SeqF) (s : State) : Out :=
  issueWith f anyone s fun s =>
    match csrRead s s.cur.p s.cur.q (fld f.imm 0 12) with
    | some v => .next (finishCur s 1 0 fun c => c.wr f.d v)
    | none => .next (precise s cILLEGAL none none)

/-- BYPMAX, SPAREQ, ECCMODE and STILETMO are written by privileged contexts only. -/
def mayWriteCsr (f : SeqF) (c : Ctx) : Bool :=
  let n := fld f.imm 0 12
  c.priv || !(decide (0x034 ≤ n) && decide (n ≤ 0x037))

/-- CSRW. -/
def execCsrw (f : SeqF) (s : State) : Out :=
  issueWith f (mayWriteCsr f) s fun s =>
    match csrWrite s s.cur.p s.cur.q (fld f.imm 0 12) (s.curCtx.opA f) with
    | some s => .next (finishCur s 1 0 fun c => c)
    | none => .next (precise s cILLEGAL none none)

/-- CSRR of MCPOP (R199). -/
def execMcpopRead (f : SeqF) (s : State) : Out :=
  issueWith f anyone s fun s =>
    let p := s.cur.p
    let sel := s.curCtx.mcsel
    let (row, col) := (fld sel 0 4, fld sel 4 4)
    let t := tileAt row col
    let own := decide (row < 12) && decide (col < 12) && tileType t == .m &&
      ((s.pad p).regionAt t).any fun r => r.2.owner == s.cur.q
    if !own then .next (precise s cACCESS (some (sel.setWidth 64)) (some 0x20))
    else
      let (v, mx) := mcpop (s.tile p t).mx
      .next (finishCur (s.updTile p t fun tl => { tl with mx := mx }) 1 0 fun c => c.wr f.d v)

/-! ## Stiles (R323 to R325) -/

/-- The slot that waits for space at output o: the lowest whose firing only the output holds up; 0 where a result waits
there (log 106). -/
def waitingSlot (s : State) (p t o : Nat) : Nat :=
  let x := firOf s p t
  (((List.range 16).find? fun i =>
    let f := fabFields (x.cfg.slot i)
    f.v && bitAt f.om o && fail4 s x f == some 4)).getD 0

/-- A sender that waits at a stile takes STILE_TMO before its next firing (R325). -/
def stileTrap (s : State) (p t o : Nat) : State :=
  let n := waitingSlot s p t o
  let s := s.updTile p t fun tl => { tl with stileWait := Tbl.set tl.stileWait o 0 }
  fabricTrap s p t n ((firOf s p t).cfg.slot n) false cSTILE_TMO 0 0 0

/-- The tokens a channel stile holds are discarded into the receiving region's DROP, and, where it is the far end that
goes away, a sender that waits takes STILE_TMO (R325). -/
def dropStile (s : State) (i : Nat) (z : ChanStile) (far : Bool) : State :=
  let n := z.flight.length + z.port.length
  let s := { s with chStiles := Tbl.set s.chStiles i { z with flight := [], port := [], used := z.resv } }
  let s := match (s.pad z.rp).regionAt z.rt with
    | some (id, _) => s.updRegion z.rp id fun r => { r with drop := r.drop + n }
    | none => s
  if !far || Tbl.get 0 (s.tile z.sp z.st).stileWait z.so = 0 then s else stileTrap s z.sp z.st z.so

/-- An address that a paddock reaches through the memory stile `m`, and through none that is left: one that is still
open serves the request as well. -/
def throughStile (s : State) (p : Nat) (va : BitVec 64) (m : MemStile) (left : List MemStile) : Bool :=
  let covers := fun (m : MemStile) (pa : Nat) => some m.part == (s.pad p).part && decide (m.base ≤ pa) && decide (pa < m.base + 2 ^ m.log2)
  viaStile s p va && (walkPa s p va).any fun pa => covers m pa && !left.any (covers · pa)

/-- An access under way that can still end with a trap: not a store of which a half is performed (R77; log 14). -/
def Pending.cuttable : Pending → Option (BitVec 64)
  | .half word va _ _ _ _ => if memKind (seqOpc word).toNat == .write then none else some va
  | op => op.accessVa

/-- Outstanding requests of other partitions through memory stiles that go away end with STILE_TMO (R325): `cut` tells
which addresses of a paddock they were. -/
def cutWindows (s : State) (cut : Nat → BitVec 64 → Bool) : State :=
  (List.range 32).foldl
    (fun s p =>
      let s := (List.range 4).foldl
        (fun s q =>
          match (s.ctx p q).wait with
          | .busy _ op =>
            match op.cuttable with
            | some va =>
              if cut p va then s.updCtx p q fun c => { c with wait := .busy (s.fc p) (.timeout va) } else s
            | none => s
          | _ => s) s
      (s.pad p).tiles.foldl
        (fun s e => e.2.reqs.foldl
          (fun s r =>
            let opc := (fabOpc r.word).toNat
            if r.st == .going && decide (0x70 ≤ opc) && decide (opc ≤ 0x77) && cut p r.va then
              reqStileTmo s p e.1 r
            else s) s) s) s

/-- STILE_TOKEN_ARRIVE: the oldest token of stile n reaches the port. -/
def stileArrives (s : State) (z : ChanStile) : Bool :=
  match z.flight with
  | [] => false
  | (due, _) :: _ => decide (due ≤ s.fc z.rp) && decide (z.port.length < stileDepth)

def execStileTokenArrive (p : Fin 32) (n : Nat) (s : State) : Out :=
  match Tbl.find? s.chStiles n with
  | none => .next s
  | some z =>
    if z.rp ≠ p ∨ !stileArrives s z then .next s
    else
      match z.flight with
      | [] => .next s
      | (_, k) :: rest =>
        .next { s with chStiles := Tbl.set s.chStiles n { z with flight := rest, port := z.port ++ [{ k with arr := s.fc p }] } }

/-- An output has waited STILETMO fc for space at a stile. -/
def stileLate (s : State) (p t o : Nat) : Bool :=
  let w := Tbl.get 0 (s.tile p t).stileWait o
  w != 0 && decide ((s.pad p).stiletmo.toNat ≤ w)

/-- STILE_TMO of an output. -/
def execStileTmo (p : Fin 32) (t : Fin 144) (o : Fin 4) (s : State) : Out :=
  .next (if stileLate s p t o then stileTrap s p t o else s)

/-- Whether a slot or a result of a tile waits for space at a stile of an output in this fc. -/
def waitsAtStile (s : State) (p t o : Nat) : Bool :=
  let full := (s.stilesAt p t o).any fun e =>
    decide (stileDepth ≤ e.2.used) || (s.pad e.2.sp).gate != .open_ || (s.pad e.2.rp).gate != .open_
  let x := firOf s p t
  full && ((s.tile p t).blocked o ||
    (List.range 16).any fun i =>
      let f := fabFields (x.cfg.slot i)
      f.v && bitAt f.om o && fail4 s x f == some 4)

/-- The element of a tile may fire: its region runs and it has not stopped. Only then does a sender wait (R325). -/
def senderRuns (s : State) (p t : Nat) : Bool :=
  !(s.tile p t).stopped && ((s.pad p).regionAt t).any fun e => regionRuns s p e.2

/-- The waits of a paddock's outputs counted, once per fc. -/
def countStiles (s : State) (p : Nat) : State :=
  (List.filter (fun e => e.2.sp == p) s.chStiles).foldl
    (fun s e =>
      let z : ChanStile := e.2
      let w := if senderRuns s p z.st && waitsAtStile s p z.st z.so then Tbl.get 0 (s.tile p z.st).stileWait z.so + 1 else 0
      s.updTile p z.st fun tl => { tl with stileWait := Tbl.set tl.stileWait z.so w }) s

/-! ## Gates (R320, R326) -/

/-- The gate of a paddock leaves OPEN: traffic over its stiles ends. STILE_TMO is for those at the other end (R325); the
paddock's own requests through stiles find its gate closed as they perform and take ACCESS (R320). -/
def closeGate (s : State) (p : Nat) (g : Gate) : State :=
  let s := s.updPad p fun x => { x with gate := g }
  let s := (List.filter (fun e => e.2.sp == p || e.2.rp == p) s.chStiles).foldl (fun s e => dropStile s e.1 e.2 (e.2.rp == p)) s
  cutWindows s fun h va => h != p && viaStile s h va && (walkPa s h va).any fun pa => pa / 2 ^ 33 == p

/-- An access in progress crosses the boundary of a paddock. -/
def crosses (s : State) (p h : Nat) (va : BitVec 64) : Bool :=
  (walkPa s p va).any fun pa => let o := pa / 2 ^ 33; o != p && (o == h || p == h)

/-- Crossings of a paddock's boundary that have not had their response. -/
def crossing? (s : State) (h : Nat) : Bool :=
  (List.range 32).any fun p =>
    ((List.range 4).any fun q => match (s.ctx p q).wait with
      | .busy _ op => op.accessVa.any (crosses s p h ·)
      | _ => false) ||
    (s.pad p).tiles.any fun e => e.2.reqs.any fun r =>
      let opc := (fabOpc r.word).toNat
      r.st == .going && decide (0x70 ≤ opc) && decide (opc ≤ 0x78) && crosses s p h r.va

/-- Home memory as a reset leaves it: with ZD all zero; else what L2 had not written back is lost, line by line at the
device's own moment (log 10). -/
def resetMemory (s : State) (p : Nat) (zd : Bool) : State :=
  let home := fun (a : Nat) => a / 2 ^ 33 == p
  if zd then
    { s with mem := s.mem.filter fun e => !home e.1, dram := List.filter (fun e => !home e.1) s.dram }
  else
    let s := (List.filter (fun e => home e.1) s.dram).foldl
      (fun s e =>
        let (lost, s) := freeChoice s
        if lost then { s with mem := Tbl.put 0 s.mem e.1 e.2 } else s) s
    { s with dram := List.filter (fun e => !home e.1) s.dram }

/-- The four contexts of a paddock as Stage C and a paddock reset leave them: at their reset values and halted (Tables
25-1 and 24-2). -/
def haltedCtxs : Tbl Ctx := (List.range 4).map fun q => (q, { halted := true })

/-- A paddock as a reset leaves it: membership, frequency ceiling and clamp stay. -/
def freshPaddock (x : Paddock) : Paddock :=
  { ctxs := haltedCtxs, fc := x.fc, next := x.next, up := x.up, down := x.down, ceil := x.ceil, clamp := x.clamp, part := x.part,
    dclean := x.dclean, lastPart := x.lastPart }

/-- PGATE RESET begun (R326). It completes within 1 ms, or 40 ms with ZD. -/
def resetPaddock (s : State) (p : Nat) (zd : Bool) : State :=
  let s := closeGate s p .resetting
  let s := resetMemory s p zd
  let n := s.partOf p
  let s := s.updJr n fun j => { j with subs := j.subs.map fun e => (e.1, if e.2.paddock = p then {} else e.2) }
  let (d, s) := freeDelay s 0
  let limit := if zd then 96000000 else 2400000
  s.updPad p fun x =>
    { freshPaddock x with gate := .resetting, resetDue := some (s.now + d % limit, zd), dclean := x.dclean || zd }

/-- PADDOCK_RESET_DONE. -/
def execPaddockResetDone (p : Fin 32) (s : State) : Out :=
  let x := s.pad p
  match x.resetDue with
  | none => .next s
  | some (due, _) =>
    .next (if due ≤ s.now then s.setPad p { x with gate := .closed, resetDue := none, next := s.now + 3 } else s)

/-! ## PGATE (R333) -/

def isPriv (c : Ctx) : Bool := c.priv

/-- FSTATE. -/
def Freq.code : Freq → Nat
  | .f0 => 0 | .f1 => 1 | .f2 => 2 | .f3 => 3

def Gate.code : Gate → Nat
  | .closed => 0 | .open_ => 1 | .resetting => 2

/-- Table 16-9. -/
def gateStatus (x : Paddock) : BitVec 64 :=
  BitVec.ofNat 64 (x.gate.code + x.freq.code * 2 ^ 2 + x.ceil.toNat * 2 ^ 7 + (x.part.getD 0) * 2 ^ 9 +
    x.part.isSome.toNat * 2 ^ 14 + x.dclean.toNat * 2 ^ 15)

/-- The paddock PGATE names. -/
def gatePad (s : State) (f : SeqF) (p q : Nat) : Nat := fld ((s.ctx p q).opA f) 0 5

/-- PGATE completes with the status of a paddock. -/
def gateDone (s : State) (p q : Nat) (f : SeqF) (h : Nat) : State :=
  finish s p q 1 0 fun c => c.wr f.d (gateStatus (s.pad h))

/-- PGATE STATUS. -/
def execPgateStatus (f : SeqF) (s : State) : Out :=
  issueWith f isPriv s fun s => .next (gateDone s s.cur.p s.cur.q f (gatePad s f s.cur.p s.cur.q))

/-- A waiting PGATE: CLOSE for its crossings, RESET for its end, FREQ for the clock; the stage of FREQ is the tick at which
the new state is in force. -/
def tryPgate (s : State) (p q : Nat) (f : SeqF) (stage : Nat) : Option State :=
  let h := gatePad s f p q
  let ready : Bool := match fld f.imm 0 3 with
    | 1 => !crossing? s h
    | 3 => (s.pad h).gate != .resetting && !crossing? s h
    | _ => decide (stage ≤ s.now)
  if ready then some (gateDone s p q f h) else none

/-- PGATE CLOSE. -/
def execPgateClose (f : SeqF) (s : State) : Out :=
  issueWith f isPriv s fun s =>
    let h := gatePad s f s.cur.p s.cur.q
    if h = s.cur.p then .next (refuseA s f 0x61)
    else
      let s := if (s.pad h).gate == .open_ then closeGate s h .closed else s
      .next (tryOrPoll s (tryPgate s s.cur.p s.cur.q f 0) 0xA6 f 0)

/-- PGATE OPEN. A paddock in reset stays RESETTING. -/
def execPgateOpen (f : SeqF) (s : State) : Out :=
  issueWith f isPriv s fun s =>
    let h := gatePad s f s.cur.p s.cur.q
    let x := s.pad h
    if x.part.isNone then .next (refuseA s f 0x67)
    else
      let s := s.setPad h { x with gate := if x.gate = .resetting then .resetting else .open_ }
      .next (gateDone s s.cur.p s.cur.q f h)

/-- PGATE RESET. A paddock that is down stays so. -/
def execPgateReset (f : SeqF) (s : State) : Out :=
  issueWith f isPriv s fun s =>
    let h := gatePad s f s.cur.p s.cur.q
    if h = s.cur.p then .next (refuseA s f 0x61)
    else if (s.pad h).down then .next (refuseA s f 0x60)
    else .next (pollFor (resetPaddock s h ((s.curCtx.opA f).getLsbD 16)) 0xA6 f 0)

/-- PGATE FREQ. -/
def execPgateFreq (f : SeqF) (s : State) : Out :=
  issueWith f isPriv s fun s =>
    let h := gatePad s f s.cur.p s.cur.q
    let v := fld (s.curCtx.opA f) 8 2
    if v = 3 then .next (refuseA s f 0x60)
    else
      let old := (s.pad h).freq
      let s := changeFreq s h fun x => { x with ceil := BitVec.ofNat 2 v }
      let at_ := if (s.pad h).freq = old then s.now else (s.pad h).next
      .next (tryOrPoll s (tryPgate s s.cur.p s.cur.q f at_) 0xA6 f at_)

/-- The placements of Table 16-5, as masks. -/
def placements : List Nat :=
  (List.range 32).map (fun n => 2 ^ n) ++
    ((List.range 4).flatMap fun d =>
      ((List.range 4).map fun k => 2 ^ (8 * d) * (3 * 2 ^ (2 * k))) ++
      [2 ^ (8 * d) * 0x33, 2 ^ (8 * d) * 0xCC, 2 ^ (8 * d) * 0x0F, 2 ^ (8 * d) * 0xF0, 2 ^ (8 * d) * 0xFF]) ++
    [0xFFFF, 0xFFFF0000, 0xFFFFFFFF]

/-- A paddock with no context running and no region. -/
def Paddock.quietPad (x : Paddock) : Bool :=
  ((List.range 4).all fun q => (x.ctx q).halted) && x.regions.all fun e => !e.2.alloc

/-- A member that FORM accepts for partition n (R326, R333). -/
def formOk (n : Nat) (x : Paddock) : Bool :=
  x.gate == .closed && x.quietPad && !x.down && x.up && x.part.all (· == n) && (x.dclean || x.lastPart.all (· == n))

/-- A paddock leaves its partition: its DRAM is no longer clean. -/
def leavePart (x : Paddock) : Paddock := { x with part := none, lastPart := x.part, dclean := false }

/-- The mask becomes one partition: paddocks that the partition of the same id held before and the mask leaves out leave
it. -/
def formPart (s : State) (mask : BitVec 32) (n : Nat) : State :=
  let s := (List.range 32).foldl
    (fun s p =>
      if mask.getLsbD p then s.updPad p fun x => { x with part := some n }
      else if (s.pad p).part = some n then s.updPad p leavePart else s) s
  s.updPart n fun x => { x with exists_ := true, mask := mask }

/-- PGATE FORM. -/
def execPgateForm (f : SeqF) (s : State) : Out :=
  issueWith f isPriv s fun s =>
    let mask := BitVec.ofNat 32 (fld (s.curCtx.opA f) 0 32)
    let n := lowBit mask 32
    let leaves := (List.range 32).filter fun p => !mask.getLsbD p && (s.pad p).part == some n
    if !placements.contains mask.toNat then .next (refuseA s f 0x60)
    else if !((maskList mask).all fun p => formOk n (s.pad p)) ||
        leaves.any (fun p => (s.pad p).gate != .closed || !(s.pad p).quietPad) then .next (refuseA s f 0x62)
    else .next (gateDone (formPart s mask n) s.cur.p s.cur.q f n)

/-! ## STIL (R334) -/

/-- A handle: stile index and owner. -/
def stileHandle (owner ix : Nat) : BitVec 64 := BitVec.ofNat 64 (ix + owner * 256)

/-- The key of a stile in the module's tables. -/
def stileKey (owner ix : Nat) : Nat := 64 * owner + ix

/-- An index that the owner has free, chosen by the device. -/
def freeStile (s : State) (owner : Nat) : Option Nat × State :=
  let (w, s) := freeWord s
  let used := fun (i : Nat) =>
    (Tbl.find? s.chStiles (stileKey owner i)).isSome || (Tbl.find? s.mStiles (stileKey owner i)).isSome
  (((List.range 64).map fun i => (w.toNat + i) % 64).find? fun i => !used i, s)

/-- STIL CLOSE. -/
def execStilClose (f : SeqF) (s : State) : Out :=
  issueWith f isPriv s fun s =>
    let a := s.curCtx.opA f
    let k := stileKey (fld a 8 5) (fld a 0 6)
    let known := a == stileHandle (fld a 8 5) (fld a 0 6)
    match known, Tbl.find? s.chStiles k, Tbl.find? s.mStiles k with
    | true, some z, _ =>
      let s := dropStile s k z true
      .next (finishCur { s with chStiles := Tbl.del s.chStiles k } 1 0 fun c => c.wr f.d 0)
    | true, none, some m =>
      let left := (List.filter (fun e => e.1 != k) s.mStiles).map fun e => e.2
      let s := cutWindows s fun p va => throughStile s p va m left
      .next (finishCur { s with mStiles := Tbl.del s.mStiles k } 1 0 fun c => c.wr f.d 0)
    | _, _, _ => .next (refuseA s f 0x66)

/-- The edge whose limit a receiving tile counts against: a corner counts north or south (R323). -/
def edgeOf (t : Nat) : Nat := if tileRow t = 0 then 0 else if tileRow t = 11 then 2 else if tileCol t = 11 then 1 else 3

/-- STIL CHANNEL. -/
def execStilChannel (f : SeqF) (s : State) : Out :=
  issueWith f isPriv s fun s =>
    let a := s.curCtx.opA f
    let b := s.curCtx.opB f
    let sp := fld a 0 5
    let rp := fld b 0 5
    let st := tileAt (fld a 8 4) (fld a 12 4)
    let rt := tileAt (fld b 8 4) (fld b 12 4)
    let inside := [fld a 8 4, fld a 12 4, fld b 8 4, fld b 12 4].all fun v => decide (v < 12)
    let onSame := List.filter (fun e => e.2.rp == rp && edgeOf e.2.rt == edgeOf rt) s.chStiles
    if !inside || sp == rp || !onEdge rt || decide (8 ≤ onSame.length) then .next (refuseA s f 0x66)
    else
      match freeStile s rp with
      | (none, s) => .next (refuseA s f 0x66)
      | (some ix, s) =>
        let z : ChanStile := { sp := sp, st := st, so := fld a 16 2, rp := rp, rt := rt }
        .next (finishCur { s with chStiles := Tbl.set s.chStiles (stileKey rp ix) z } 1 0 fun c => c.wr f.d (stileHandle rp ix))

/-- STIL MEMORY. -/
def execStilMemory (f : SeqF) (s : State) : Out :=
  issueWith f isPriv s fun s =>
    let a := (s.curCtx.opA f).toNat
    let b := s.curCtx.opB f
    let log2 := fld b 0 6
    let owner := a / 2 ^ 33
    let held := List.filter (fun e => e.2.owner == owner) s.mStiles
    if log2 < 16 ∨ 33 < log2 ∨ 32 ≤ owner ∨ a % 2 ^ log2 ≠ 0 ∨ 8 ≤ held.length then .next (refuseA s f 0x66)
    else
      match freeStile s owner with
      | (none, s) => .next (refuseA s f 0x66)
      | (some ix, s) =>
        let m : MemStile := { owner := owner, base := a, log2 := log2, write := b.getLsbD 8, part := fld b 16 5 }
        .next (finishCur { s with mStiles := Tbl.set s.mStiles (stileKey owner ix) m } 1 0 fun c =>
          c.wr f.d (stileHandle owner ix))

/-! ## CTXS and CTXR (R335) -/

def mayDebug (c : Ctx) : Bool := c.priv || c.rights.getLsbD 3

/-- The save area of a context (Table 16-10). R62 and R109 name CTXS among what saves and restores the state of elements, for
which R335 and Table 16-10 have no place: the table is followed and CTXS leaves the elements alone (log 101; DESIGN
CHOICE). -/
def ctxBytes (c : Ctx) (p q : Nat) : List (BitVec 8) :=
  let w : List (BitVec 64) :=
    [c.pc] ++ ((List.range 31).map fun i => c.rd (BitVec.ofNat 5 (i + 1))) ++
    [BitVec.ofNat 64 (c.preds.toNat + c.latch.toNat * 2 ^ 8 + c.halted.toNat * 2 ^ 9 + q * 2 ^ 10 + p * 2 ^ 12),
     c.tags, c.sstat p q, c.tvec, c.epc, c.tcause, c.tval, c.tval2, c.rights.setWidth 64, c.ibud, c.tbud, c.contpt,
     c.tagmask, c.lrec, c.trbase, c.haltr]
  w.flatMap (fun x => bytesOfNat 8 x.toNat) ++ List.replicate 128 0

/-- CTXS, when its context stands at a boundary: its wait ends and it is SAVED once its state is written. -/
def tryCtxs (s : State) (p q : Nat) (f : SeqF) : Option State :=
  let k := fld ((s.ctx p q).opA f) 0 2
  let c := s.ctx p k
  let gatedNow := match c.wait with
    | .gated _ _ => true
    | _ => false
  if !(c.halted || c.atBoundary s.now || gatedNow) then none
  else
    let s := asCtx s p q
    match writeBytes s p ((s.ctx p q).opB f) (ctxBytes c p k) with
    | (some (e, va), s) => some (addrTrap s e va .write)
    | (none, s) =>
      let s := (leaveWait s p k).updCtx p k fun c => { c with saved := true }
      some (finish s p q 1 8 fun c => c)

/-- CTXS. -/
def execCtxs (f : SeqF) (s : State) : Out :=
  issueWith f mayDebug s fun s =>
    let k := fld (s.curCtx.opA f) 0 2
    let b := s.curCtx.opB f
    if k = s.cur.q ∨ (s.ctx s.cur.p k).saved then .next (refuseA s f 0x63)
    else if !canonical b then .next (addrTrap s cXLATE b .write)
    else if b.toNat % 64 ≠ 0 then .next (addrTrap s cMISALIGN b .write)
    else .next (tryOrPoll s (tryCtxs s s.cur.p s.cur.q f) 0xA8 f 0)

/-- A context as CTXR restores it: TAGS, RIGHTS, both counters and LREC stay. -/
def restoreCtx (c : Ctx) (bs : List (BitVec 8)) (run : Bool) : Ctx :=
  let w := fun (off : Nat) => BitVec.ofNat 64 (natOfBytes ((bs.drop off).take 8))
  let regs := (List.range 31).foldl (fun (t : Tbl (BitVec 64)) i => Tbl.put 0 t (i + 1) (w (8 * (i + 1)))) []
  { c with
    pc := w 0, regs := regs, preds := (w 0x100).setWidth 8, latch := (w 0x100).getLsbD 8,
    inTrap := (w 0x110).getLsbD 0, tvec := w 0x118, epc := w 0x120, tcause := w 0x128 &&& 0xFF, tval := w 0x130, tval2 := w 0x138,
    contpt := w 0x158, tagmask := w 0x160, trbase := w 0x170 &&& 0x01FFFFFFFFFF0000, halted := !run, haltCode := 0,
    saved := false, wait := .ready }

/-- CTXR. -/
def execCtxr (f : SeqF) (s : State) : Out :=
  issueWith f mayDebug s fun s =>
    let p := s.cur.p
    let k := fld (s.curCtx.opA f) 0 2
    let b := s.curCtx.opB f
    let c := s.ctx p k
    if !c.saved && !c.halted then .next (refuseA s f 0x64)
    else if !canonical b then .next (addrTrap s cXLATE b .read)
    else if b.toNat % 64 ≠ 0 then .next (addrTrap s cMISALIGN b .read)
    else
      match readBytes s p .read b 512 with
      | (.error (e, va), s) => .next (addrTrap s e va .read)
      | (.ok bs, s) =>
        let pc := natOfBytes (bs.take 8)
        let id := natOfBytes ((bs.drop 0x100).take 8)
        if pc % 8 ≠ 0 ∨ id / 2 ^ 10 % 4 ≠ k ∨ id / 2 ^ 12 % 32 ≠ p then .next (refuseA s f 0x65)
        else
          .next (finishCur (s.updCtx p k fun c => restoreCtx c bs (f.imm.getLsbD 0)) 1 8 fun c => c)

/-! ## The power clamp (R10, R327, R388) -/

/-- The clamp lowers a paddock one step below the state it is in, by Table 1-2 as far as F3 (R10). -/
def clampDown (s : State) (p : Nat) : State :=
  changeFreq s p fun x => { x with clamp := BitVec.ofNat 2 (min 3 (max x.ceil.toNat x.clamp.toNat + 1)) }

/-- The clamp state of a paddock lowered one step (R388). -/
def limitDown (s : State) (p : Nat) : State :=
  changeFreq s p fun x => { x with clamp := BitVec.ofNat 2 (min 3 (x.clamp.toNat + 1)) }

/-- The clamp state of a paddock raised one step. -/
def clampUp (s : State) (p : Nat) : State :=
  changeFreq s p fun x => { x with clamp := x.clamp - (if x.clamp = 0 then 0 else 1) }

/-- CLAMP_STEP_DOWN. -/
def execClampStepDown (p : Fin 32) (s : State) : Out := .next (if (s.pad p).up then clampDown s p else s)

/-- CLAMP_STEP_UP. -/
def execClampStepUp (p : Fin 32) (s : State) : Out := .next (if (s.pad p).up then clampUp s p else s)

/-- A paddock whose clock runs: up, not gated in F3 and not held in reset. -/
def Paddock.clocked (x : Paddock) : Bool := x.up && x.freq != .f3 && x.gate != .resetting

/-- PLIM_STEP_DOWN: the clamp state of the running paddock that draws most is lowered; the draw is the environment's
(log 13). -/
def execPlimStepDown (s : State) : Out :=
  let l := (List.range 32).filter fun p => (s.pad p).clocked
  if l.isEmpty then .next s
  else
    let (w, s) := freeWord s
    let p := l.getD (w.toNat % l.length) 0
    .next { limitDown s p with lowered := p :: s.lowered }

/-- PLIM_STEP_UP: the paddock lowered last is raised. -/
def execPlimStepUp (s : State) : Out :=
  match s.lowered with
  | [] => .next s
  | p :: rest => .next { clampUp s p with lowered := rest }

end Sys2Proof.Machine
end

