-- ==== Sys2Proof/Machine/Start.lean ====
section
/-! DEFINITION. The staged start, trust and module power events (R370, R371, R381 to R384): power, reset, stages, the
firmware image and its verification, host links and virtual functions. -/

namespace Sys2Proof.Machine

/-! ## The firmware image (R382, log 11) -/

/-- The image in flash. -/
def State.flash (s : State) : List (BitVec 8) := s.nv.image.getD Config.flashImage

/-- The security version in the non-volatile store. -/
def State.secver (s : State) : BitVec 64 := s.nv.secver.getD Config.flashSecVer

/-- The signatures of an image verify under the root keys of the boot ROM, and its digest matches (R382). -/
def ed25519Ok (bs : List (BitVec 8)) : Bool := Config.ed25519Verify Config.edRoot (Config.imageRest bs) (Config.imageEdSig bs)
def mldsaOk (bs : List (BitVec 8)) : Bool := Config.mldsaVerify Config.mlRoot (Config.imageRest bs) (Config.imageMlSig bs)
def digestOk (bs : List (BitVec 8)) : Bool := sha384 (Config.imageRest bs) == Config.imageDigest bs

/-- The reasons for which the boot ROM refuses an image, as Table 25-2 codes them. -/
def imageFaults (s : State) (bs : List (BitVec 8)) : List (BitVec 8) :=
  if !Config.imageOk bs then [0x05]
  else
    (if ed25519Ok bs then [] else [0x01]) ++ (if mldsaOk bs then [] else [0x02]) ++
    (if digestOk bs then [] else [0x03]) ++
    (if s.secver.toNat ≤ (Config.imageSecVer bs).toNat then [] else [0x04])

/-! ## A start (R381, R383) -/

/-- A start begins: everything volatile is at its reset value and Stage A runs; the non-volatile store, host memory and
the environment stay. CODE still names the last failure. -/
def startModule (s : State) : State :=
  { pads := [], host := s.host, ats := s.ats, nv := s.nv, boot := { code := s.boot.code, running := 1 },
    free := s.free, inputs := s.inputs.map fun e => (e.1 - s.now, e.2) }

/-- A failed start: FAILS rises and the next start begins at once; when FAILS reaches 3, SAFE is set, the boot ROM
completes Stage A and the module stays there (R383). -/
def failStart (s : State) (code : BitVec 8) : State :=
  let n := min 3 (s.nv.fails.toNat + 1)
  let s := startModule { s with nv := { s.nv with fails := BitVec.ofNat 2 n }, boot := { s.boot with code := code } }
  if n = 3 then
    { s with nv := { s.nv with safe := true }, boot := { s.boot with stage := 1, running := 0 } }
  else s

/-- The limit of a stage (Table 25-1) in ticks of 5/12 ns: 2 s, 20 s, 5 s. -/
def stageLimit (stage : BitVec 2) : Nat :=
  if stage = 1 then 4800000000 else if stage = 2 then 48000000000 else 12000000000

/-- A stage runs and its limit has passed. -/
def overdue (s : State) : Bool :=
  s.boot.power && s.boot.running != 0 && decide (s.boot.since + stageLimit s.boot.running < s.now)

/-- POWER_ON (R381). -/
def execPowerOn (s : State) : Out :=
  .next (if s.boot.power then s else startModule { s with boot := { s.boot with code := 0 } })

/-- FUNDAMENTAL_RESET (R381). -/
def execFundamentalReset (s : State) : Out := .next (if s.boot.power then startModule s else s)

/-- POWER_OFF (R383): everything volatile is lost. -/
def execPowerOff (s : State) : Out :=
  .next { startModule s with boot := { running := 0, power := false } }

/-- STAGE_LIMIT_EXPIRY (R381, R383): CODE 0x20, 0x21 or 0x22. -/
def execStageLimitExpiry (s : State) : Out :=
  .next (if overdue s then failStart s (0x1F + s.boot.running.setWidth 8) else s)

/-- The next stage begins. -/
def nextStage (s : State) (done run : Nat) : State :=
  { s with boot := { s.boot with stage := BitVec.ofNat 4 done, running := BitVec.ofNat 2 run, since := s.now } }

/-- Stage A ends: the boot ROM has verified the image; while SAFE is set it stays there and runs no image (R383). Of
several reasons to refuse an image, CODE gives one the spec does not choose. -/
def stageA (s : State) : State :=
  if s.nv.safe then nextStage s 1 0
  else
    let bs := s.flash
    match imageFaults s bs with
    | [] =>
      let v := Config.imageSecVer bs
      nextStage { s with nv := { s.nv with secver := some v }, boot := { s.boot with fw := some bs } } 1 2
    | c :: cs =>
      let (w, s) := freeWord s
      failStart s ((c :: cs).getD (w.toNat % (cs.length + 1)) c)

/-- The paddocks homed on a failed die spine or on a channel that did not train (R381, R11). -/
def homedDown (f : StageFaults) : BitVec 32 :=
  (List.range 32).foldl (fun m p => setBit m p (f.spines.getLsbD (p / 8) || f.channels.extractLsb' (8 * p) 8 != 0)) 0

/-- Stage B ends: paddocks homed on a failed die spine or an untrained channel are down. Where no channel of any paddock
trained, or no die spine is left, the start has failed, with the code of Table 25-2; with both, one of the codes. -/
def stageB (s : State) (f : StageFaults) : State :=
  let s := { s with boot := { s.boot with pdown := s.boot.pdown ||| homedDown f } }
  let noSpine := f.spines == BitVec.allOnes 4
  if f.channels = BitVec.allOnes 256 then
    if noSpine then
      let (c, s) := freeChoice s
      failStart s (if c then 0x10 else 0x11)
    else failStart s 0x11
  else if noSpine then failStart s 0x10
  else nextStage s 2 3

/-- A paddock after Stage C: running at F0 with its gate CLOSED and its contexts halted, or down and held in reset. -/
def startPaddock (s : State) (p : Nat) : State :=
  s.setPad p (if s.boot.pdown.getLsbD p then { down := true, gate := .resetting }
    else { up := true, next := s.now + 3, ctxs := haltedCtxs })

/-- Stage C ends: the paddocks run, the start has succeeded, and the commands that waited run in their order. -/
def stageC (s : State) (down : BitVec 32) : State :=
  let s := { s with boot := { s.boot with pdown := s.boot.pdown ||| down } }
  if s.boot.pdown = BitVec.allOnes 32 then failStart s 0x23
  else
    let s := nextStage s 3 0
    let s := { s with
      boot := { s.boot with code := 0 }
      nv := { s.nv with fails := 0 }
      agenda := s.waiting.map (.run ·) ++ s.agenda
      box := { s.box with late := s.box.late + s.waiting.length }
      waiting := [] }
    (List.range 32).foldl startPaddock s

/-- STAGE_COMPLETE (R381): the stage that runs ends within its limit; `f` says what it found failing. -/
def execStageComplete (f : StageFaults) (s : State) : Out :=
  .next (
    if !s.boot.power || overdue s then s
    else if s.boot.running = 1 then stageA s
    else if s.boot.running = 2 then stageB s f
    else if s.boot.running = 3 then stageC s f.pads
    else s)

/-! ## Host links and functions (R370, R371) -/

/-- A rate and width a link may train to (Table 24-1): PCI Express generations 1 to 7, of which 7 is 128 GT/s, and 1 to 16
lanes (log 13). -/
def linkOk (rate width : BitVec 8) : Bool :=
  decide (1 ≤ rate.toNat) && decide (rate.toNat ≤ 7) && [1, 2, 4, 8, 16].contains width.toNat

/-- HOST_LINK_TRAINING (R370): FLIT mode only, at a rate and width of Table 24-1; else the link is down. -/
def execHostLinkTraining (link : Fin 2) (flit : Bool) (rate width : BitVec 8) (s : State) : Out :=
  let l : HostLink := if flit && linkOk rate width then { up := true, rate := rate, width := width } else {}
  .next (if s.boot.power then { s with links := Tbl.set s.links link.val l } else s)

/-- IDE_KM (R370): the keys of a link or selective stream are set; `stream` names it. -/
def execIdeKm (link : Fin 2) (stream : BitVec 8) (s : State) : Out :=
  let l := Tbl.get {} s.links link.val
  .next (
    if l.up && !l.ide.contains stream then
      { s with links := Tbl.set s.links link.val { l with ide := l.ide ++ [stream] } }
    else s)

/-- VF_ENABLE (R371): VF n + 1 serves partition n, and is enabled only while that partition exists. -/
def execVfEnable (n : Fin 32) (on : Bool) (s : State) : Out :=
  .next (if !on || (s.part n.val).exists_ then { s with vfs := setBit s.vfs n.val on } else s)

end Sys2Proof.Machine
end

