-- ==== Sys2Proof/Machine/Host.lean ====
section
/-! DEFINITION. The host's side (R371 to R377, R385, R386, R393): context pages and doorbells, the management mailbox and
its commands, ATS invalidation and the attestation report. -/

namespace Sys2Proof.Machine

/-! ## Context pages and doorbells (R373 to R375) -/

/-- Page 4m + LQ of a function (R373). -/
def pageOf (fn : Fin 33) (m : Fin 32) (q : Fin 4) : CtxPage := ⟨fn, ⟨4 * m.val + q.val, by omega⟩⟩

/-- The context that a page serves (R373): page 4 × paddock + LQ of PF0; page 4m + LQ of VF n, while the host has it
enabled, for the m-th paddock of partition n − 1 in ascending id. -/
def pageCtx (s : State) (g : CtxPage) : Option (Nat × Nat) :=
  let (m, q) := (g.page.val / 4, g.page.val % 4)
  if !s.boot.power then none
  else if g.fn.val = 0 then some (m, q)
  else
    let n := g.fn.val - 1
    if s.vfs.getLsbD n && (s.part n).exists_ then ((maskList (s.part n).mask)[m]?).map fun p => (p, q) else none

/-- SUBADDR as an address: its bits 56:0 with bit 56 repeated above them (R86). -/
def subVa (c : Ctx) : BitVec 64 := (c.subAddr.setWidth 57).signExtend 64

/-- The launch record's fields (Table 14-1); none where R258 refuses it. -/
structure LaunchRec where
  kept  : Launch
  entry : BitVec 64
  ibud  : BitVec 64
  tbud  : BitVec 64
  jobj  : BitVec 64
  rights : BitVec 4

/-- Two used levels in a row as R258 asks: the domain does not rise and the scope does not fall. -/
def levelsOk : List (BitVec 32) → Bool
  | a :: b :: rest => decide (fld b 0 3 ≤ fld a 0 3) && decide (fld a 3 3 ≤ fld b 3 3) && levelsOk (b :: rest)
  | _ => true

/-- The checks of R258 over the 128 bytes of a launch record. -/
def LaunchRec.parse (bs : List (BitVec 8)) : Option LaunchRec :=
  let ws := wordsOf 16 bs
  let w := fun i => ws.getD i 0
  let nlev := fld (w 0) 0 4
  let used : List (BitVec 32) := (List.range (min nlev 8)).map fun k => BitVec.ofNat 32 (fld (w (8 + k / 2)) (32 * (k % 2)) 32)
  let bad := w 0 &&& 0xFFFFFFFF0000FF80 != 0 || fld (w 7) 4 60 != 0 || (ws.drop 12).any (· != 0) ||
    nlev == 0 || decide (8 < nlev) || used.any (fun l => fld l 6 2 != 0 || decide (5 < fld l 3 3)) || !levelsOk used ||
    fld (w 0) 16 16 == 0 || (w 2).toNat % 64 != 0 || !budgetOk (w 4).toNat || !budgetOk (w 5).toNat
  if bad then none
  else
    some {
      kept := { nlev := nlev, fuse := (w 0).getLsbD 4, ufcf := (w 0).getLsbD 5, ufc := (w 0).getLsbD 6,
                ttlen := fld (w 0) 16 16, seed := w 1, ttbase := w 2, levels := used },
      entry := w 3, ibud := w 4, tbud := w 5, jobj := w 6, rights := (w 7).setWidth 4 }

/-- The object table of a partition (R286): the first JOBJ that is not 0 is read; a later one must name the same. -/
def takeTable (s : State) (p : Nat) (r : LaunchRec) : Bool × State :=
  let n := s.partOf p
  match (s.jr n).obj with
  | some t => (r.jobj == 0 || r.jobj == t.addr, s)
  | none =>
    if r.jobj = 0 then (true, s)
    else
      match readTable s p (s.part n).mask r.jobj r.kept.seed with
      | (none, s) => (false, s)
      | (some t, s) => (true, s.updJr n fun j => { j with obj := some t })

/-- A context as R374 starts it. -/
def startCtx (c : Ctx) (vf : Bool) (r : LaunchRec) : Ctx :=
  { c with
    regs := [], preds := 0, tags := 0, latch := false, tvec := 0, epc := 0, tcause := 0, tval := 0, tval2 := 0,
    contpt := 0, tagmask := 0, trbase := 0, ibud := r.ibud, tbud := r.tbud, rights := r.rights, lrec := c.subAddr,
    halted := false, haltCode := 0, saved := false, inTrap := false, serving := none, priv := !vf, pc := r.entry,
    wait := .ready, setNow := 0, launch := r.kept, result := 1 }

/-- The regions that a context's RGNA holds draw with the SEED of the launch record it runs under (R60). -/
def seedRegions (s : State) (p q : Nat) : State :=
  s.updPad p fun x =>
    { x with regions := x.regions.map fun e =>
        (e.1, if e.2.owner = q ∧ e.2.task = none then { e.2 with seed := (x.ctx q).launch.seed } else e.2) }

/-- START, evaluated (R374): a wake event for the context, then RESULT 3, 4 or 2, or the context runs; whether it is
halted is judged on its state at the start of the fc. Until its paddock has completed Stage C a doorbell gives RESULT 3
(R381). -/
def startAt (p q : Nat) (vf : Bool) (s : State) : State :=
  let done := fun (s : State) (v : BitVec 8) => s.updCtx p q fun c => { c with result := v }
    if !(s.pad p).up || (s.pad p).gate == .resetting then done s 3
    else
      let s := (wakeCtx s p q).updPad p fun x => { x with gatedF3 := false }
      let c := s.ctx p q
      if !c.halted && !c.wasHalted then done s 3
      else if (subVa c).toNat % 64 ≠ 0 then done s 4
      else
        match readBytes s p .read (subVa c) 128 with
        | (.error _, s) => done s 4
        | (.ok bs, s) =>
          match LaunchRec.parse bs with
          | none => done s 2
          | some r =>
            match takeTable s p r with
            | (false, s) => done s 2
            | (true, s) => seedRegions (s.updCtx p q fun c => startCtx c vf r) p q

/-- START. -/
def execStart (fn : Fin 33) (m : Fin 32) (q : Fin 4) (s : State) : Out :=
  .next (match pageCtx s (pageOf fn m q) with
    | none => s
    | some (p, q) => startAt p q (fn.val != 0) s)

/-- DOORBELL_WAKE (R374): a wake event and no more. -/
def execDoorbellWake (fn : Fin 33) (page : Fin 128) (s : State) : Out :=
  .next (match pageCtx s ⟨fn, page⟩ with
    | none => s
    | some (p, q) =>
      if !(s.pad p).up || (s.pad p).gate == .resetting then s.updCtx p q fun c => { c with result := 3 }
      else wakeCtx s p q)

/-- A write to TOPI or TOPT (R375): a v of 2^62 or more is refused, else it is added and pays debt first. A VF's page
ignores it (R373). -/
def topUp (s : State) (g : CtxPage) (tb : Bool) (v : BitVec 64) : State :=
  match if g.fn.val = 0 then pageCtx s g else none with
  | none => s
  | some (p, q) =>
    if 2 ^ 62 ≤ v.toNat then s.updCtx p q fun c => { c with result := 5 } else s.updCtx p q fun c => c.add tb v

/-- TOPI. -/
def execTopi (fn : Fin 33) (page : Fin 128) (v : BitVec 64) (s : State) : Out := .next (topUp s ⟨fn, page⟩ false v)

/-- TOPT. -/
def execTopt (fn : Fin 33) (page : Fin 128) (v : BitVec 64) (s : State) : Out := .next (topUp s ⟨fn, page⟩ true v)

/-- The status word (R376). -/
def boxStatus (s : State) (code status detail : Nat) : State :=
  { s with box := { s.box with status := BitVec.ofNat 64 (status + code * 256 + detail * 65536) } }

/-- The command words as operands. -/
def boxMbox (b : Mailbox) : Mbox :=
  let w := fun i => Tbl.get 0 b.words i
  { w1 := w 1, w2 := w 2, w3 := w 3, w4 := w 4, w5 := w 5, w6 := w 6, w7 := w 7 }

/-- The command that a code selects (Tables 24-4 and 25-3). -/
def boxInstr (code : Nat) (m : Mbox) : Option Instr :=
  match code with
  | 1 => some (.setroot m) | 2 => some (.bindpart m) | 3 => some (.inval m) | 4 => some (.hostwin m)
  | 5 => some (.group m) | 6 => some (.linkwin m) | 7 => some (.restart m) | 8 => some (.propose m)
  | 9 => some (.notice m) | 10 => some (.attest m) | 11 => some (.fwstage m) | 12 => some (.reboot m)
  | 13 => some (.ident m) | 14 => some (.plimit m)
  | _ => none

/-- The mailbox's doorbell (R376): the command that word 0x00 names runs with the words as they stand; a code that names
none is refused (log 56). -/
def ringBox (s : State) : State :=
  let code := (Tbl.get 0 s.box.words 0).toNat % 256
  match boxInstr code (boxMbox s.box) with
  | some i => { s with agenda := .run i :: s.agenda, box := { s.box with late := s.box.late + 1 } }
  | none => boxStatus s code 1 0

/-- REGISTER_WRITE (R373, R376, R377, R384): SUBADDR keeps bits 56:0, the window is a whole number of 4 KiB pages, and
BOOT_REASON ignores a write. -/
def execRegisterWrite (l : HostReg) (v : BitVec 64) (s : State) : Out :=
  .next (
    if !s.boot.power then s
    else
      match l with
      | .subaddr g =>
        match pageCtx s g with
        | none => s
        | some (p, q) => s.updCtx p q fun c => { c with subAddr := (v.setWidth 57).setWidth 64 }
      | .mailbox w => { s with box := { s.box with words := Tbl.set s.box.words w.val v } }
      | .doorbell => ringBox s
      | .mwbase => { s with box := { s.box with mwbase := v &&& ~~~0xFFF } }
      | .mwsize => { s with box := { s.box with mwsize := v &&& ~~~0xFFF } }
      | .bootReason => s)

/-- ATS_INVALIDATION (R372): the cached translations of HOST pages, in the address spaces bound to the PASID, that lie in
the range by their device or by their host address. -/
def execAtsInvalidation (pasid : BitVec 20) (va size : BitVec 64) (s : State) : Out :=
  let asids := s.parts.filter (fun e => e.2.bound && e.2.pasid == pasid) |>.map fun e => e.2.asid
  let meets := fun (a n : Nat) => decide (a < va.toNat + size.toNat) && decide (va.toNat < a + n)
  .next (invalidate s fun t =>
    t.leaf.getLsbD 7 && asids.contains t.asid &&
      (meets t.base.toNat t.size || meets (t.leaf.toNat / 4096 * 4096) t.size))

/-! ## The mailbox (R376, R377, R385) -/

/-- Whether a command is one of Table 25-3. -/
def trustCode (code : Nat) : Bool := decide (9 ≤ code) && decide (code ≤ 14)

/-- The command words as the host writes them; a command that the mailbox's doorbell gave before has them written. -/
def boxWords (s : State) (code : Nat) (m : Mbox) : State :=
  let ws := [BitVec.ofNat 64 code, m.w1, m.w2, m.w3, m.w4, m.w5, m.w6, m.w7]
  { s with box := if s.box.late = 0 then { s.box with words := ws.zipIdx.map fun e => (e.2, e.1) }
                  else { s.box with late := s.box.late - 1 } }

/-- A command runs. While SAFE is 1 only the commands of Table 25-3 are accepted (R385); the others wait until Stage C ends
(R381). The mailbox and its window serve in Stage A too (R377). -/
def command (s : State) (code : Nat) (m : Mbox) (i : Instr) (body : State → Nat × Nat × State) : Out :=
  .next (
    if !s.boot.power then s
    else
      let s := boxWords s code m
      if !trustCode code && s.nv.safe then boxStatus s code 1 0
      else if !trustCode code && s.boot.stage.toNat < 3 then { s with waiting := s.waiting ++ [i] }
      else
        let r := body s
        boxStatus r.2.2 code r.1 r.2.1)

/-- Refused, with no effect. -/
def no (s : State) : Nat × Nat × State := (1, 0, s)

/-- Done. -/
def yes (s : State) : Nat × Nat × State := (0, 0, s)

/-- SETROOT (Table 24-4): ASID, root table address. -/
def execSetroot (m : Mbox) (s : State) : Out :=
  command s 1 m (.setroot m) fun s => yes { s with roots := Tbl.set s.roots (fld m.w1 0 16) m.w2 }

/-- BINDPART: partition, ASID, PASID, LINKSEL. -/
def execBindpart (m : Mbox) (s : State) : Out :=
  command s 2 m (.bindpart m) fun s =>
    let n := m.w1.toNat
    if 32 ≤ n then no s
    else
      yes (s.updPart n fun x =>
        { x with asid := m.w2.setWidth 16, pasid := m.w3.setWidth 20, link := m.w4.getLsbD 0, bound := true })

/-- INVAL: ASID, VA, size (R158). -/
def execInval (m : Mbox) (s : State) : Out :=
  command s 3 m (.inval m) fun s =>
    let v := m.w2.toNat % 2 ^ 57
    yes (invalidate s fun t =>
      t.asid == m.w1.setWidth 16 && decide (t.base.toNat < v + m.w3.toNat) && decide (v < t.base.toNat + t.size))

/-- HOSTWIN: partition, index, base, size, write. -/
def execHostwin (m : Mbox) (s : State) : Out :=
  command s 4 m (.hostwin m) fun s =>
    let n := m.w1.toNat
    let i := m.w2.toNat
    if 32 ≤ n ∨ 15 < i then no s
    else
      let win : HostWin := { base := m.w3, size := m.w4, write := m.w5.getLsbD 0 }
      yes (s.updPart n fun x => { x with wins := if m.w4 = 0 then Tbl.del x.wins i else Tbl.set x.wins i win })

/-- GROUP: handle, n, member list address; the list holds one word a member in rank order, a paddock id, or more than
31 for a chain of another module (R240). -/
def execGroup (m : Mbox) (s : State) : Out :=
  command s 5 m (.group m) fun s =>
    let n := m.w2.toNat
    if !inWindow s m.w3.toNat (8 * n) then no s
    else
      let ms := (List.range n).map fun i => s.rdNat true (m.w3.toNat + 8 * i) 8
      yes { s with groups := Tbl.set s.groups (fld m.w1 0 32) { n := n, members := ms } }

/-- LINKWIN: partition, source module, source partition, ASID (R379). -/
def execLinkwin (m : Mbox) (s : State) : Out :=
  command s 6 m (.linkwin m) fun s =>
    if 32 ≤ m.w1.toNat then no s
    else
      let w : LinkWin := { part := m.w1.toNat, srcMod := m.w2.setWidth 20, srcPart := fld m.w3 0 5, asid := m.w4.setWidth 16 }
      let rest := s.linkWins.filter fun y => !(y.srcMod == w.srcMod && y.srcPart == w.srcPart)
      yes { s with linkWins := rest ++ [w] }

/-- RESTART: HALTR is cleared and the halted context runs from EPC (R313). -/
def execRestart (m : Mbox) (s : State) : Out :=
  command s 7 m (.restart m) fun s =>
    let p := m.w1.toNat
    let q := m.w2.toNat
    if 32 ≤ p ∨ 4 ≤ q ∨ !(s.pad p).up ∨ (s.pad p).gate == .resetting ∨ !(s.ctx p q).halted then no s
    else
      yes ((s.updCtx p q fun c => { c with halted := false, haltCode := 0, saved := false, wait := .ready, pc := c.epc }).updPad p
        fun x => { x with gatedF3 := false })

/-- Command word 0x38. -/
def boxWord7 (s : State) (v : BitVec 64) : State := { s with box := { s.box with words := Tbl.set s.box.words 7 v } }

/-- PROPOSE (R393): the block is checked as JPRP checks it, ORIGIN is 3, and word 0x38 receives the status of R307. -/
def execPropose (m : Mbox) (s : State) : Out :=
  command s 8 m (.propose m) fun s =>
    let n := m.w1.toNat
    let a := m.w2.toNat
    let j := s.jr n
    let bad := fun (s : State) (d : Nat) => ((1, d, boxWord7 s 0) : Nat × Nat × State)
    if !inWindow s a 64 then no s
    else if j.area.isNone then (1, 0, boxWord7 s (jStatus 5 j.last))
    else if a % 64 ≠ 0 then bad s 0x54
    else
      match parseRequest (s.rdBytes true a 64) with
      | none => bad s 0x57
      | some (idx, after, deps) =>
        match propose s n idx after deps 3 with
        | (.bad d, s) => bad s d
        | (.status c, s) => (if c = 2 then 2 else 1, 0, boxWord7 s (jStatus c (s.jr n).last))
        | (.done seq, s) => (0, 0, boxWord7 s (jStatus 0 seq))

/-- NOTICE: ring address, LOG2N 4–12. The descriptor and the ring it names lie in the window. -/
def execNotice (m : Mbox) (s : State) : Out :=
  command s 9 m (.notice m) fun s =>
    let a := m.w1.toNat
    let n := m.w2.toNat
    if n < 4 ∨ 12 < n ∨ !inWindow s a 64 then no s
    else if !inWindow s (s.rdNat true a 8) (32 * 2 ^ n) then no s
    else yes { s with box := { s.box with ring := some (m.w1, n) } }

/-! ## Attestation (R386) -/

/-- BOOT_REASON (Table 25-2). -/
def bootReason (s : State) : BitVec 64 :=
  BitVec.ofNat 64 (s.boot.code.toNat + s.boot.stage.toNat * 2 ^ 8 + s.nv.safe.toNat * 2 ^ 17 + s.nv.fails.toNat * 2 ^ 18 +
    s.boot.pdown.toNat * 2 ^ 32)

/-- The image a report describes: the one this start accepted. -/
def State.firmware (s : State) : List (BitVec 8) := s.boot.fw.getD s.flash

/-- The partitions of a report, 16 bytes each. -/
def reportParts (s : State) : List (List (BitVec 8)) :=
  (List.range 32).filter (fun n => (s.part n).exists_) |>.map fun n =>
    let j := s.jr n
    bytesOfNat 8 (n + (s.part n).mask.toNat * 2 ^ 32) ++ bytesOfNat 8 (if j.area.isNone then 0 else j.ver.toNat)

/-- The active configuration of a region, 64 bytes: what stands where, and the digest of the image as CFGL read it. -/
def reportCfg (s : State) (p r : Nat) : Option (List (BitVec 8)) :=
  let x := s.region p r
  match x.act with
  | none => none
  | some a =>
    let h := x.activeHdr s p
    let img := ((Tbl.find? x.asRead a.toNat).map fun e => e.flatMap fun w => bytesOfNat 8 w.toNat).getD []
    some (bytesOfNat 8 (p + r * 2 ^ 8 + a.toNat * 2 ^ 12 + (hdrCfgid h).toNat * 2 ^ 16 + (hdrGen h).toNat * 2 ^ 32) ++
      bytesOfNat 8 0 ++ sha384 img)

/-- Every active configuration, by paddock and region. -/
def reportCfgs (s : State) : List (List (BitVec 8)) :=
  (List.range 32).flatMap fun p => (List.range 16).filterMap fun r => if (s.region p r).alloc then reportCfg s p r else none

/-- The attestation report over a nonce (Table 25-5). -/
def attestReport (s : State) (nonce : List (BitVec 8)) : List (BitVec 8) :=
  let ps := reportParts s
  let cs := reportCfgs s
  let fw := s.firmware
  let body := bytesOfNat 8 (1 + s.boot.stage.toNat * 2 ^ 8 + ps.length * 2 ^ 16 + cs.length * 2 ^ 32) ++
    bytesOfNat 8 Config.modid.toNat ++ bytesOfNat 8 (Config.imageVersion fw).toNat ++
    bytesOfNat 8 (Config.imageSecVer fw).toNat ++ bytesOfNat 8 (bootReason s).toNat ++ bytesOfNat 8 s.timeNs ++ nonce ++
    sha384 fw ++ ps.flatten ++ cs.flatten
  body ++ bytesOfNat 64 (Config.ed25519Sign body).toNat ++ bytesOfNat 3309 (Config.mldsaSign body).toNat

/-- ATTEST: nonce address, report address, report size. -/
def execAttest (m : Mbox) (s : State) : Out :=
  command s 10 m (.attest m) fun s =>
    if !inWindow s m.w1.toNat 32 || !inWindow s m.w2.toNat m.w3.toNat then no s
    else
      let r := attestReport s (s.rdBytes true m.w1.toNat 32)
      if m.w3.toNat < r.length then no s else yes (s.wrBytes true m.w2.toNat r)

/-- FWSTAGE: image address, length. Only an image that verifies is written to flash. -/
def execFwstage (m : Mbox) (s : State) : Out :=
  command s 11 m (.fwstage m) fun s =>
    if !inWindow s m.w1.toNat m.w2.toNat then no s
    else
      let bs := s.rdBytes true m.w1.toNat m.w2.toNat
      if (imageFaults s bs).isEmpty then yes { s with nv := { s.nv with image := some bs } } else no s

/-- REBOOT: the module starts again; with RETRY, FAILS and SAFE are cleared first (R383). -/
def execReboot (m : Mbox) (s : State) : Out :=
  command s 12 m (.reboot m) fun s =>
    yes (startModule (if m.w1.getLsbD 0 then { s with nv := { s.nv with fails := 0, safe := false } } else s))

/-- IDENT: buffer address, size. -/
def execIdent (m : Mbox) (s : State) : Out :=
  command s 13 m (.ident m) fun s =>
    if !inWindow s m.w1.toNat m.w2.toNat || decide (m.w2.toNat < Config.identCerts.length) then no s
    else yes (s.wrBytes true m.w1.toNat Config.identCerts)

/-- PLIMIT: watts (R388). -/
def execPlimit (m : Mbox) (s : State) : Out :=
  command s 14 m (.plimit m) fun s =>
    let w := m.w1.toNat
    if w < 1200 ∨ 2200 < w then no s else yes { s with plim := w }

end Sys2Proof.Machine
end

