-- ==== Sys2Proof/Machine/Complete.lean ====
section
/-! DEFINITION. SEQ_OP_COMPLETE (R75, R143): a sequencer instruction that occupies its context completes. -/

namespace Sys2Proof.Machine

/-- A waiting instruction whose condition holds at the end of this fc, by its opcode; the instructions whose waits end by
an event of their own (CFGA, RGNF, QWAIT, LNCH, an admitted bid) are not among them. -/
def tryPoll (s : State) (p q : Nat) (word : BitVec 64) (stage : Nat) : Option State :=
  let f := seqFields word
  match (seqOpc word).toNat with
  | 0x60 => tryRgna s p q f
  | 0x67 => tryToksv s p q f stage
  | 0x69 => tryDecb s p q f
  | 0x73 => tryChwt s p q f
  | 0x85 => tryYld s p q
  | 0x92 => tryJpin s p q f
  | 0x96 => tryJrev s p q f stage
  | 0x97 => tryJrpl s p q f stage
  | 0x98 => tryJbase s p q f
  | 0x99 => tryJver s p q f
  | 0xA6 => tryPgate s p q f stage
  | 0xA8 => tryCtxs s p q f
  | _ => none

/-- SEQ_OP_COMPLETE: the result is written and the context is free. -/
def execSeqOpComplete (p : Fin 32) (q : Fin 4) (s : State) : Out :=
  let c := s.ctx p q
  match c.wait with
  | .busy due op =>
    if s.fc p < due then .next s
    else
      match op with
      | .nothing => .next (s.setCtx p q { c with wait := .ready })
      | .write d v => .next (s.setCtx p q { c.wr d v with wait := .ready })
      | .tagIndex d m => .next (s.setCtx p q { c.wr d (tagIndex c m) with wait := .ready })
      | .access w va => .next (memComplete s p q w va)
      | .timeout va => .next (memTimeout s p q va)
      | .half w va pa host high got => .next (memHalf s p q w va pa host high got)
  | .poll w stage => .next (retry s p q fun s => tryPoll s p q w stage)
  | _ => .next s

end Sys2Proof.Machine
end

