-- ==== Sys2Proof/Machine/SeqScalar.lean ====
section
/-! DEFINITION. The scalar instructions of the sequencer (R78 to R81). -/

namespace Sys2Proof.Machine

open Host (Outcome)

/-- A scalar instruction that writes sD in its fc: 1 unit charged, PC moved on (R75, R76, R78). -/
def seqWrite (f : SeqF) (s : State) (val : Ctx → BitVec 64) : Out :=
  issueWith f anyone s fun s =>
    let c := s.curCtx
    .next (s.setCurCtx (((c.charge 1 0).adv).wr f.d (val c)))

/-- A scalar instruction that occupies its context for n fc and writes sD when it completes (R75). -/
def seqSlow (f : SeqF) (s : State) (n : Nat) (val : Ctx → BitVec 64) : Out :=
  issueWith f anyone s fun s =>
    let c := s.curCtx
    .next (s.setCurCtx { (c.charge 1 0).adv with wait := .busy (s.fc s.cur.p + n - 1) (.write f.d (val c)) })

/-- A compare or predicate instruction: p[D] written (R81). -/
def seqPred (f : SeqF) (s : State) (val : Ctx → Bool) : Out :=
  issueWith f anyone s fun s =>
    let c := s.curCtx
    .next (s.setCurCtx (((c.charge 1 0).adv).setPr f.d.toNat (val c)))

/-- SEQ_NOP: no effect but the charge (R78). -/
def execSeqNop (f : SeqF) (s : State) : Out :=
  issueWith f anyone s fun s => .next (s.setCurCtx (s.curCtx.charge 1 0).adv)

/-- SEQ_ADD: A + B. -/
def execSeqAdd (f : SeqF) (s : State) : Out := seqWrite f s fun c => c.opA f + c.opB f

/-- SEQ_SUB: A − B. -/
def execSeqSub (f : SeqF) (s : State) : Out := seqWrite f s fun c => c.opA f - c.opB f

/-- SEQ_AND. -/
def execSeqAnd (f : SeqF) (s : State) : Out := seqWrite f s fun c => c.opA f &&& c.opB f

/-- SEQ_OR. -/
def execSeqOr (f : SeqF) (s : State) : Out := seqWrite f s fun c => c.opA f ||| c.opB f

/-- SEQ_XOR. -/
def execSeqXor (f : SeqF) (s : State) : Out := seqWrite f s fun c => c.opA f ^^^ c.opB f

/-- SEQ_SHL: A × 2^B[5:0]. -/
def execSeqShl (f : SeqF) (s : State) : Out := seqWrite f s fun c => shl64 (c.opA f) (c.opB f)

/-- SEQ_SHR. -/
def execSeqShr (f : SeqF) (s : State) : Out := seqWrite f s fun c => shr64 (c.opA f) (c.opB f)

/-- SEQ_SRA. -/
def execSeqSra (f : SeqF) (s : State) : Out := seqWrite f s fun c => sra64 (c.opA f) (c.opB f)

/-- SEQ_MIN, signed. -/
def execSeqMin (f : SeqF) (s : State) : Out := seqWrite f s fun c => smin (c.opA f) (c.opB f)

/-- SEQ_MAX, signed. -/
def execSeqMax (f : SeqF) (s : State) : Out := seqWrite f s fun c => smax (c.opA f) (c.opB f)

/-- SEQ_MINU. -/
def execSeqMinu (f : SeqF) (s : State) : Out := seqWrite f s fun c => umin (c.opA f) (c.opB f)

/-- SEQ_MAXU. -/
def execSeqMaxu (f : SeqF) (s : State) : Out := seqWrite f s fun c => umax (c.opA f) (c.opB f)

/-- SEQ_CLZ: leading zeros of A, 64 when A = 0. -/
def execSeqClz (f : SeqF) (s : State) : Out := seqWrite f s fun c => BitVec.ofNat 64 (clz (c.opA f))

/-- SEQ_POPC: one bits of A. -/
def execSeqPopc (f : SeqF) (s : State) : Out := seqWrite f s fun c => BitVec.ofNat 64 (popc (c.opA f))

/-- ADDI: A + i (R79). -/
def execAddi (f : SeqF) (s : State) : Out := seqWrite f s fun c => c.opA f + immW f.imm

/-- ANDI (R79). -/
def execAndi (f : SeqF) (s : State) : Out := seqWrite f s fun c => c.opA f &&& immW f.imm

/-- ORI (R79). -/
def execOri (f : SeqF) (s : State) : Out := seqWrite f s fun c => c.opA f ||| immW f.imm

/-- XORI (R79). -/
def execXori (f : SeqF) (s : State) : Out := seqWrite f s fun c => c.opA f ^^^ immW f.imm

/-- SHLI (R79). -/
def execShli (f : SeqF) (s : State) : Out := seqWrite f s fun c => shl64 (c.opA f) (immW f.imm)

/-- SHRI (R79). -/
def execShri (f : SeqF) (s : State) : Out := seqWrite f s fun c => shr64 (c.opA f) (immW f.imm)

/-- SRAI (R79). -/
def execSrai (f : SeqF) (s : State) : Out := seqWrite f s fun c => sra64 (c.opA f) (immW f.imm)

/-- MOVI: i (R79). -/
def execMovi (f : SeqF) (s : State) : Out := seqWrite f s fun _ => immW f.imm

/-- MOVHI: IMM × 2^32 + A[31:0] (R79). -/
def execMovhi (f : SeqF) (s : State) : Out := seqWrite f s fun c => movhi64 (c.opA f) f.imm

/-- SEQ_SEL: A when p[IMM], else B (R80). -/
def execSeqSel (f : SeqF) (s : State) : Out := seqWrite f s fun c => if c.pr f.imm.toNat then c.opA f else c.opB f

/-- SEQ_MUL, 4 fc. -/
def execSeqMul (f : SeqF) (s : State) : Out := seqSlow f s 4 fun c => c.opA f * c.opB f

/-- SEQ_MULH, 4 fc. -/
def execSeqMulh (f : SeqF) (s : State) : Out := seqSlow f s 4 fun c => mulh64 (c.opA f) (c.opB f)

/-- SEQ_MULHU, 4 fc. -/
def execSeqMulhu (f : SeqF) (s : State) : Out := seqSlow f s 4 fun c => mulhu64 (c.opA f) (c.opB f)

/-- DIVU, 66 fc; 2^64 − 1 when B = 0. -/
def execDivu (f : SeqF) (s : State) : Out := seqSlow f s 66 fun c => divu64 (c.opA f) (c.opB f)

/-- REMU, 66 fc; A when B = 0. -/
def execRemu (f : SeqF) (s : State) : Out := seqSlow f s 66 fun c => remu64 (c.opA f) (c.opB f)

/-- SEQ_CEQ. -/
def execSeqCeq (f : SeqF) (s : State) : Out := seqPred f s fun c => c.opA f == c.opB f

/-- SEQ_CNE. -/
def execSeqCne (f : SeqF) (s : State) : Out := seqPred f s fun c => c.opA f != c.opB f

/-- SEQ_CLT, signed. -/
def execSeqClt (f : SeqF) (s : State) : Out := seqPred f s fun c => (c.opA f).slt (c.opB f)

/-- SEQ_CLTU. -/
def execSeqCltu (f : SeqF) (s : State) : Out := seqPred f s fun c => (c.opA f).ult (c.opB f)

/-- SEQ_CLE, signed. -/
def execSeqCle (f : SeqF) (s : State) : Out := seqPred f s fun c => (c.opA f).sle (c.opB f)

/-- SEQ_CLEU. -/
def execSeqCleu (f : SeqF) (s : State) : Out := seqPred f s fun c => (c.opA f).ule (c.opB f)

/-- CEQI. -/
def execCeqi (f : SeqF) (s : State) : Out := seqPred f s fun c => c.opA f == immW f.imm

/-- CLTI, signed. -/
def execClti (f : SeqF) (s : State) : Out := seqPred f s fun c => (c.opA f).slt (immW f.imm)

/-- PAND. -/
def execPand (f : SeqF) (s : State) : Out := seqPred f s fun c => c.pr f.a.toNat && c.pr f.b.toNat

/-- POR. -/
def execPor (f : SeqF) (s : State) : Out := seqPred f s fun c => c.pr f.a.toNat || c.pr f.b.toNat

/-- PNOT. -/
def execPnot (f : SeqF) (s : State) : Out := seqPred f s fun c => !c.pr f.a.toNat

end Sys2Proof.Machine
end

