-- ==== Sys2Proof/Machine/Dispatch.lean ====
section
/-! DEFINITION. The meaning of every instruction and event: one arm per constructor, each one call. -/

namespace Sys2Proof.Machine

open Host (Outcome)

def exec (i : Instr) (s : State) : Host.Outcome State Fault Refusal :=
  match i with
  | .seqOpComplete p q => Sys2Proof.Machine.execSeqOpComplete p q s
  | .tagWaitComplete p q => Sys2Proof.Machine.execTagWaitComplete p q s
  | .wfeWake p q => Sys2Proof.Machine.execWfeWake p q s
  | .paddockGateF3 p => Sys2Proof.Machine.execPaddockGateF3 p s
  | .illegalWord w => Sys2Proof.Machine.execIllegalWord w s
  | .fetchFault cause => Sys2Proof.Machine.execFetchFault cause s
  | .contextBudgetTrap => Sys2Proof.Machine.execContextBudgetTrap s
  | .lnchSlotAcquire p q => Sys2Proof.Machine.execLnchSlotAcquire p q s
  | .eccmodeClr p => Sys2Proof.Machine.execEccmodeClr p s
  | .eccmodeDecWrite p dec => Sys2Proof.Machine.execEccmodeDecWrite p dec s
  | .paddockResetDone p => Sys2Proof.Machine.execPaddockResetDone p s
  | .gathRowTokenEmit p t => Sys2Proof.Machine.execGathRowTokenEmit p t s
  | .memNodeComplete p t n => Sys2Proof.Machine.execMemNodeComplete p t n s
  | .parkedRequestRetry p t => Sys2Proof.Machine.execParkedRequestRetry p t s
  | .mfirePositionTake p t => Sys2Proof.Machine.execMfirePositionTake p t s
  | .matrixPassComplete p t => Sys2Proof.Machine.execMatrixPassComplete p t s
  | .carryHoldResume p t => Sys2Proof.Machine.execCarryHoldResume p t s
  | .mdrnSpillToken p t => Sys2Proof.Machine.execMdrnSpillToken p t s
  | .mdrnComplete p t => Sys2Proof.Machine.execMdrnComplete p t s
  | .mcarryExpToken p t => Sys2Proof.Machine.execMcarryExpToken p t s
  | .tokenHop p t src => Sys2Proof.Machine.execTokenHop p t src s
  | .skipFlushEmit p t o => Sys2Proof.Machine.execSkipFlushEmit p t o s
  | .bidAdmit p n => Sys2Proof.Machine.execBidAdmit p n s
  | .cfgaActivate p q => Sys2Proof.Machine.execCfgaActivate p q s
  | .rgnfFree p q => Sys2Proof.Machine.execRgnfFree p q s
  | .qwaitReturn p q => Sys2Proof.Machine.execQwaitReturn p q s
  | .decisionSwitch p r => Sys2Proof.Machine.execDecisionSwitch p r s
  | .spliceSwap p t => Sys2Proof.Machine.execSpliceSwap p t s
  | .qnc p r => Sys2Proof.Machine.execQnc p r s
  | .taskRetire p k => Sys2Proof.Machine.execTaskRetire p k s
  | .budgetAdderUpdate p r => Sys2Proof.Machine.execBudgetAdderUpdate p r s
  | .budgetFreeze p r => Sys2Proof.Machine.execBudgetFreeze p r s
  | .taskResume p k => Sys2Proof.Machine.execTaskResume p k s
  | .yieldRelease p k => Sys2Proof.Machine.execYieldRelease p k s
  | .asyncTrapDelivery p q => Sys2Proof.Machine.execAsyncTrapDelivery p q s
  | .regionEccRecovery p r t => Sys2Proof.Machine.execRegionEccRecovery p r t s
  | .scrubVisit p line => Sys2Proof.Machine.execScrubVisit p line s
  | .spareAdvance p row => Sys2Proof.Machine.execSpareAdvance p row s
  | .spareCompare p row => Sys2Proof.Machine.execSpareCompare p row s
  | .copy p c => Sys2Proof.Machine.execCopy p c s
  | .fill p c => Sys2Proof.Machine.execFill p c s
  | .conv p c => Sys2Proof.Machine.execConv p c s
  | .engGath p c => Sys2Proof.Machine.execEngGath p c s
  | .engScat p c => Sys2Proof.Machine.execEngScat p c s
  | .areduce p c => Sys2Proof.Machine.execAreduce p c s
  | .rscat p c => Sys2Proof.Machine.execRscat p c s
  | .agath p c => Sys2Proof.Machine.execAgath p c s
  | .signal p c => Sys2Proof.Machine.execSignal p c s
  | .waitseq p c => Sys2Proof.Machine.execWaitseq p c s
  | .waitseqReread p c => Sys2Proof.Machine.execWaitseqReread p c s
  | .stampReread p c => Sys2Proof.Machine.execStampReread p c s
  | .chainEntryComplete p c => Sys2Proof.Machine.execChainEntryComplete p c s
  | .chainTranslationRetry p c => Sys2Proof.Machine.execChainTranslationRetry p c s
  | .remoteWriteTimeout p c => Sys2Proof.Machine.execRemoteWriteTimeout p c s
  | .remoteWriteReceive src part va bytes => Sys2Proof.Machine.execRemoteWriteReceive src part va bytes s
  | .messageArrive p n => Sys2Proof.Machine.execMessageArrive p n s
  | .stileTokenArrive p n => Sys2Proof.Machine.execStileTokenArrive p n s
  | .stileTmo p t o => Sys2Proof.Machine.execStileTmo p t o s
  | .shapePoint p => Sys2Proof.Machine.execShapePoint p s
  | .baselineWindowEnd p => Sys2Proof.Machine.execBaselineWindowEnd p s
  | .trialVerdict p => Sys2Proof.Machine.execTrialVerdict p s
  | .tunerPropose p => Sys2Proof.Machine.execTunerPropose p s
  | .clampStepDown p => Sys2Proof.Machine.execClampStepDown p s
  | .clampStepUp p => Sys2Proof.Machine.execClampStepUp p s
  | .plimStepDown => Sys2Proof.Machine.execPlimStepDown s
  | .plimStepUp => Sys2Proof.Machine.execPlimStepUp s
  | .start fn m q => Sys2Proof.Machine.execStart fn m q s
  | .doorbellWake fn page => Sys2Proof.Machine.execDoorbellWake fn page s
  | .topi fn page v => Sys2Proof.Machine.execTopi fn page v s
  | .topt fn page v => Sys2Proof.Machine.execTopt fn page v s
  | .registerWrite l v => Sys2Proof.Machine.execRegisterWrite l v s
  | .atsInvalidation pasid va size => Sys2Proof.Machine.execAtsInvalidation pasid va size s
  | .setroot m => Sys2Proof.Machine.execSetroot m s
  | .bindpart m => Sys2Proof.Machine.execBindpart m s
  | .inval m => Sys2Proof.Machine.execInval m s
  | .hostwin m => Sys2Proof.Machine.execHostwin m s
  | .group m => Sys2Proof.Machine.execGroup m s
  | .linkwin m => Sys2Proof.Machine.execLinkwin m s
  | .restart m => Sys2Proof.Machine.execRestart m s
  | .propose m => Sys2Proof.Machine.execPropose m s
  | .notice m => Sys2Proof.Machine.execNotice m s
  | .attest m => Sys2Proof.Machine.execAttest m s
  | .fwstage m => Sys2Proof.Machine.execFwstage m s
  | .reboot m => Sys2Proof.Machine.execReboot m s
  | .ident m => Sys2Proof.Machine.execIdent m s
  | .plimit m => Sys2Proof.Machine.execPlimit m s
  | .powerOn => Sys2Proof.Machine.execPowerOn s
  | .fundamentalReset => Sys2Proof.Machine.execFundamentalReset s
  | .stageLimitExpiry => Sys2Proof.Machine.execStageLimitExpiry s
  | .stageComplete f => Sys2Proof.Machine.execStageComplete f s
  | .powerOff => Sys2Proof.Machine.execPowerOff s
  | .hostLinkTraining link flit rate width => Sys2Proof.Machine.execHostLinkTraining link flit rate width s
  | .ideKm link stream => Sys2Proof.Machine.execIdeKm link stream s
  | .vfEnable n on => Sys2Proof.Machine.execVfEnable n on s
  | .trialWindowEnd p => Sys2Proof.Machine.execTrialWindowEnd p s
  | .seqNop f => Sys2Proof.Machine.execSeqNop f s
  | .seqAdd f => Sys2Proof.Machine.execSeqAdd f s
  | .seqSub f => Sys2Proof.Machine.execSeqSub f s
  | .seqMul f => Sys2Proof.Machine.execSeqMul f s
  | .seqMulh f => Sys2Proof.Machine.execSeqMulh f s
  | .seqMulhu f => Sys2Proof.Machine.execSeqMulhu f s
  | .divu f => Sys2Proof.Machine.execDivu f s
  | .remu f => Sys2Proof.Machine.execRemu f s
  | .seqAnd f => Sys2Proof.Machine.execSeqAnd f s
  | .seqOr f => Sys2Proof.Machine.execSeqOr f s
  | .seqXor f => Sys2Proof.Machine.execSeqXor f s
  | .seqShl f => Sys2Proof.Machine.execSeqShl f s
  | .seqShr f => Sys2Proof.Machine.execSeqShr f s
  | .seqSra f => Sys2Proof.Machine.execSeqSra f s
  | .seqMin f => Sys2Proof.Machine.execSeqMin f s
  | .seqMax f => Sys2Proof.Machine.execSeqMax f s
  | .seqMinu f => Sys2Proof.Machine.execSeqMinu f s
  | .seqMaxu f => Sys2Proof.Machine.execSeqMaxu f s
  | .seqClz f => Sys2Proof.Machine.execSeqClz f s
  | .seqPopc f => Sys2Proof.Machine.execSeqPopc f s
  | .addi f => Sys2Proof.Machine.execAddi f s
  | .andi f => Sys2Proof.Machine.execAndi f s
  | .ori f => Sys2Proof.Machine.execOri f s
  | .xori f => Sys2Proof.Machine.execXori f s
  | .shli f => Sys2Proof.Machine.execShli f s
  | .shri f => Sys2Proof.Machine.execShri f s
  | .srai f => Sys2Proof.Machine.execSrai f s
  | .movi f => Sys2Proof.Machine.execMovi f s
  | .movhi f => Sys2Proof.Machine.execMovhi f s
  | .seqSel f => Sys2Proof.Machine.execSeqSel f s
  | .seqCeq f => Sys2Proof.Machine.execSeqCeq f s
  | .seqCne f => Sys2Proof.Machine.execSeqCne f s
  | .seqClt f => Sys2Proof.Machine.execSeqClt f s
  | .seqCltu f => Sys2Proof.Machine.execSeqCltu f s
  | .seqCle f => Sys2Proof.Machine.execSeqCle f s
  | .seqCleu f => Sys2Proof.Machine.execSeqCleu f s
  | .ceqi f => Sys2Proof.Machine.execCeqi f s
  | .clti f => Sys2Proof.Machine.execClti f s
  | .pand f => Sys2Proof.Machine.execPand f s
  | .por f => Sys2Proof.Machine.execPor f s
  | .pnot f => Sys2Proof.Machine.execPnot f s
  | .br f => Sys2Proof.Machine.execBr f s
  | .jmp f => Sys2Proof.Machine.execJmp f s
  | .call f => Sys2Proof.Machine.execCall f s
  | .ret f => Sys2Proof.Machine.execRet f s
  | .wany f => Sys2Proof.Machine.execWany f s
  | .wall f => Sys2Proof.Machine.execWall f s
  | .ffr f => Sys2Proof.Machine.execFfr f s
  | .tclr f => Sys2Proof.Machine.execTclr f s
  | .wfe f => Sys2Proof.Machine.execWfe f s
  | .wake f => Sys2Proof.Machine.execWake f s
  | .ld f => Sys2Proof.Machine.execLd f s
  | .lds f => Sys2Proof.Machine.execLds f s
  | .st f => Sys2Proof.Machine.execSt f s
  | .lda f => Sys2Proof.Machine.execLda f s
  | .stl f => Sys2Proof.Machine.execStl f s
  | .aadd f => Sys2Proof.Machine.execAadd f s
  | .aswp f => Sys2Proof.Machine.execAswp f s
  | .acas f => Sys2Proof.Machine.execAcas f s
  | .amin f => Sys2Proof.Machine.execAmin f s
  | .amax f => Sys2Proof.Machine.execAmax f s
  | .aor f => Sys2Proof.Machine.execAor f s
  | .aand f => Sys2Proof.Machine.execAand f s
  | .seqFence f => Sys2Proof.Machine.execSeqFence f s
  | .seqPref f => Sys2Proof.Machine.execSeqPref f s
  | .rgna f => Sys2Proof.Machine.execRgna f s
  | .rgnf f => Sys2Proof.Machine.execRgnf f s
  | .cfgl f => Sys2Proof.Machine.execCfgl f s
  | .cfga f => Sys2Proof.Machine.execCfga f s
  | .splc f => Sys2Proof.Machine.execSplc f s
  | .rfold f => Sys2Proof.Machine.execRfold f s
  | .rfoldUnfold f => Sys2Proof.Machine.execRfoldUnfold f s
  | .qwait f => Sys2Proof.Machine.execQwait f s
  | .toksv f => Sys2Proof.Machine.execToksv f s
  | .tokrs f => Sys2Proof.Machine.execTokrs f s
  | .decb f => Sys2Proof.Machine.execDecb f s
  | .rgns f => Sys2Proof.Machine.execRgns f s
  | .seqChapp f => Sys2Proof.Machine.execSeqChapp f s
  | .seqChtl f => Sys2Proof.Machine.execSeqChtl f s
  | .seqChsq f => Sys2Proof.Machine.execSeqChsq f s
  | .chwt f => Sys2Proof.Machine.execChwt f s
  | .lnch f => Sys2Proof.Machine.execLnch f s
  | .tskq f => Sys2Proof.Machine.execTskq f s
  | .bspl f => Sys2Proof.Machine.execBspl f s
  | .btop f => Sys2Proof.Machine.execBtop f s
  | .brd f => Sys2Proof.Machine.execBrd f s
  | .yld f => Sys2Proof.Machine.execYld f s
  | .cont f => Sys2Proof.Machine.execCont f s
  | .traceOff f => Sys2Proof.Machine.execTraceOff f s
  | .traceRecord f => Sys2Proof.Machine.execTraceRecord f s
  | .traceBind f => Sys2Proof.Machine.execTraceBind f s
  | .traceRead f => Sys2Proof.Machine.execTraceRead f s
  | .jsub f => Sys2Proof.Machine.execJsub f s
  | .juns f => Sys2Proof.Machine.execJuns f s
  | .jpin f => Sys2Proof.Machine.execJpin f s
  | .jupn f => Sys2Proof.Machine.execJupn f s
  | .jrd f => Sys2Proof.Machine.execJrd f s
  | .jprp f => Sys2Proof.Machine.execJprp f s
  | .jrev f => Sys2Proof.Machine.execJrev f s
  | .jrpl f => Sys2Proof.Machine.execJrpl f s
  | .jbase f => Sys2Proof.Machine.execJbase f s
  | .jver f => Sys2Proof.Machine.execJver f s
  | .trap f => Sys2Proof.Machine.execTrap f s
  | .eret f => Sys2Proof.Machine.execEret f s
  | .csrr f => Sys2Proof.Machine.execCsrr f s
  | .csrw f => Sys2Proof.Machine.execCsrw f s
  | .mcpopRead f => Sys2Proof.Machine.execMcpopRead f s
  | .halt f => Sys2Proof.Machine.execHalt f s
  | .bkpt f => Sys2Proof.Machine.execBkpt f s
  | .pgateStatus f => Sys2Proof.Machine.execPgateStatus f s
  | .pgateClose f => Sys2Proof.Machine.execPgateClose f s
  | .pgateOpen f => Sys2Proof.Machine.execPgateOpen f s
  | .pgateReset f => Sys2Proof.Machine.execPgateReset f s
  | .pgateFreq f => Sys2Proof.Machine.execPgateFreq f s
  | .pgateForm f => Sys2Proof.Machine.execPgateForm f s
  | .stilClose f => Sys2Proof.Machine.execStilClose f s
  | .stilChannel f => Sys2Proof.Machine.execStilChannel f s
  | .stilMemory f => Sys2Proof.Machine.execStilMemory f s
  | .ctxs f => Sys2Proof.Machine.execCtxs f s
  | .ctxr f => Sys2Proof.Machine.execCtxr f s
  | .fabNop f => Sys2Proof.Machine.execFabNop f s
  | .mov f => Sys2Proof.Machine.execMov f s
  | .fabAdd f => Sys2Proof.Machine.execFabAdd f s
  | .fabSub f => Sys2Proof.Machine.execFabSub f s
  | .fabMul f => Sys2Proof.Machine.execFabMul f s
  | .fabMulh f => Sys2Proof.Machine.execFabMulh f s
  | .fabMulhu f => Sys2Proof.Machine.execFabMulhu f s
  | .addsat f => Sys2Proof.Machine.execAddsat f s
  | .fabAnd f => Sys2Proof.Machine.execFabAnd f s
  | .fabOr f => Sys2Proof.Machine.execFabOr f s
  | .fabXor f => Sys2Proof.Machine.execFabXor f s
  | .andn f => Sys2Proof.Machine.execAndn f s
  | .fabShl f => Sys2Proof.Machine.execFabShl f s
  | .fabShr f => Sys2Proof.Machine.execFabShr f s
  | .fabSra f => Sys2Proof.Machine.execFabSra f s
  | .rot f => Sys2Proof.Machine.execRot f s
  | .fabMin f => Sys2Proof.Machine.execFabMin f s
  | .fabMax f => Sys2Proof.Machine.execFabMax f s
  | .fabMinu f => Sys2Proof.Machine.execFabMinu f s
  | .fabMaxu f => Sys2Proof.Machine.execFabMaxu f s
  | .fabCeq f => Sys2Proof.Machine.execFabCeq f s
  | .fabCne f => Sys2Proof.Machine.execFabCne f s
  | .fabClt f => Sys2Proof.Machine.execFabClt f s
  | .fabCltu f => Sys2Proof.Machine.execFabCltu f s
  | .fabCle f => Sys2Proof.Machine.execFabCle f s
  | .fabCleu f => Sys2Proof.Machine.execFabCleu f s
  | .fabSel f => Sys2Proof.Machine.execFabSel f s
  | .fabClz f => Sys2Proof.Machine.execFabClz f s
  | .fabPopc f => Sys2Proof.Machine.execFabPopc f s
  | .bfx f => Sys2Proof.Machine.execBfx f s
  | .bfi f => Sys2Proof.Machine.execBfi f s
  | .agen f => Sys2Proof.Machine.execAgen f s
  | .steer f => Sys2Proof.Machine.execSteer f s
  | .steerd f => Sys2Proof.Machine.execSteerd f s
  | .mrgo f => Sys2Proof.Machine.execMrgo f s
  | .mrga f => Sys2Proof.Machine.execMrga f s
  | .gate f => Sys2Proof.Machine.execGate f s
  | .drop f => Sys2Proof.Machine.execDrop f s
  | .repl f => Sys2Proof.Machine.execRepl f s
  | .eosg f => Sys2Proof.Machine.execEosg f s
  | .eosd f => Sys2Proof.Machine.execEosd f s
  | .iter f => Sys2Proof.Machine.execIter f s
  | .lexit f => Sys2Proof.Machine.execLexit f s
  | .sqsh f => Sys2Proof.Machine.execSqsh f s
  | .cnte f => Sys2Proof.Machine.execCnte f s
  | .infl f => Sys2Proof.Machine.execInfl f s
  | .deci f => Sys2Proof.Machine.execDeci f s
  | .plog f => Sys2Proof.Machine.execPlog f s
  | .skipa f => Sys2Proof.Machine.execSkipa f s
  | .fmts f => Sys2Proof.Machine.execFmts f s
  | .progm f => Sys2Proof.Machine.execProgm f s
  | .halte f => Sys2Proof.Machine.execHalte f s
  | .sld f => Sys2Proof.Machine.execSld f s
  | .sldv f => Sys2Proof.Machine.execSldv f s
  | .sst f => Sys2Proof.Machine.execSst f s
  | .sstv f => Sys2Proof.Machine.execSstv f s
  | .sldf f => Sys2Proof.Machine.execSldf f s
  | .slde f => Sys2Proof.Machine.execSlde f s
  | .sstf f => Sys2Proof.Machine.execSstf f s
  | .sstw f => Sys2Proof.Machine.execSstw f s
  | .sfe f => Sys2Proof.Machine.execSfe f s
  | .saadd f => Sys2Proof.Machine.execSaadd f s
  | .samin f => Sys2Proof.Machine.execSamin f s
  | .samax f => Sys2Proof.Machine.execSamax f s
  | .saor f => Sys2Proof.Machine.execSaor f s
  | .saand f => Sys2Proof.Machine.execSaand f s
  | .sacas f => Sys2Proof.Machine.execSacas f s
  | .stas f => Sys2Proof.Machine.execStas f s
  | .gld f => Sys2Proof.Machine.execGld f s
  | .gldv f => Sys2Proof.Machine.execGldv f s
  | .gst f => Sys2Proof.Machine.execGst f s
  | .gstv f => Sys2Proof.Machine.execGstv f s
  | .gaadd f => Sys2Proof.Machine.execGaadd f s
  | .gacas f => Sys2Proof.Machine.execGacas f s
  | .gath f => Sys2Proof.Machine.execGath f s
  | .scat f => Sys2Proof.Machine.execScat f s
  | .ojoin f => Sys2Proof.Machine.execOjoin f s
  | .fabFence f => Sys2Proof.Machine.execFabFence f s
  | .fabPref f => Sys2Proof.Machine.execFabPref f s
  | .ags f => Sys2Proof.Machine.execAgs f s
  | .mldb f => Sys2Proof.Machine.execMldb f s
  | .mfire f => Sys2Proof.Machine.execMfire f s
  | .manch f => Sys2Proof.Machine.execManch f s
  | .mzero f => Sys2Proof.Machine.execMzero f s
  | .mdrn f => Sys2Proof.Machine.execMdrn f s
  | .mscl f => Sys2Proof.Machine.execMscl f s
  | .mcbk f => Sys2Proof.Machine.execMcbk f s
  | .mcarryCfg f => Sys2Proof.Machine.execMcarryCfg f s
  | .mcarryExp f => Sys2Proof.Machine.execMcarryExp f s
  | .mcarryCnt f => Sys2Proof.Machine.execMcarryCnt f s
  | .mstat f => Sys2Proof.Machine.execMstat f s
  | .mswap f => Sys2Proof.Machine.execMswap f s
  | .vadd f => Sys2Proof.Machine.execVadd f s
  | .vsub f => Sys2Proof.Machine.execVsub f s
  | .vmul f => Sys2Proof.Machine.execVmul f s
  | .vfma f => Sys2Proof.Machine.execVfma f s
  | .vmin f => Sys2Proof.Machine.execVmin f s
  | .vmax f => Sys2Proof.Machine.execVmax f s
  | .vabs f => Sys2Proof.Machine.execVabs f s
  | .vneg f => Sys2Proof.Machine.execVneg f s
  | .vex2 f => Sys2Proof.Machine.execVex2 f s
  | .vlg2 f => Sys2Proof.Machine.execVlg2 f s
  | .vrcp f => Sys2Proof.Machine.execVrcp f s
  | .vrsq f => Sys2Proof.Machine.execVrsq f s
  | .vscl f => Sys2Proof.Machine.execVscl f s
  | .vcmp f => Sys2Proof.Machine.execVcmp f s
  | .vsel f => Sys2Proof.Machine.execVsel f s
  | .vshf f => Sys2Proof.Machine.execVshf f s
  | .vbcst f => Sys2Proof.Machine.execVbcst f s
  | .vsumxInit f => Sys2Proof.Machine.execVsumxInit f s
  | .vsumxAcc f => Sys2Proof.Machine.execVsumxAcc f s
  | .vsumxFold f => Sys2Proof.Machine.execVsumxFold f s
  | .vsumxOut f => Sys2Proof.Machine.execVsumxOut f s
  | .vmaxr f => Sys2Proof.Machine.execVmaxr f s
  | .vcvt f => Sys2Proof.Machine.execVcvt f s
  | .vqmx f => Sys2Proof.Machine.execVqmx f s
  | .vqi4 f => Sys2Proof.Machine.execVqi4 f s
  | .vlut f => Sys2Proof.Machine.execVlut f s
  | .vps8Mul f => Sys2Proof.Machine.execVps8Mul f s
  | .vps8Enc f => Sys2Proof.Machine.execVps8Enc f s
  | .vsr f => Sys2Proof.Machine.execVsr f s
  | .vnf f => Sys2Proof.Machine.execVnf f s
  | .vpack f => Sys2Proof.Machine.execVpack f s
  | .vunpk f => Sys2Proof.Machine.execVunpk f s
  | .vlog f => Sys2Proof.Machine.execVlog f s
  | .viadd f => Sys2Proof.Machine.execViadd f s
  | .vimul f => Sys2Proof.Machine.execVimul f s
  | .vmov f => Sys2Proof.Machine.execVmov f s
  | .fabChapp f => Sys2Proof.Machine.execFabChapp f s
  | .fabChtl f => Sys2Proof.Machine.execFabChtl f s
  | .fabChsq f => Sys2Proof.Machine.execFabChsq f s
  | .msend f => Sys2Proof.Machine.execMsend f s
  | .tagset f => Sys2Proof.Machine.execTagset f s
  | .yielde f => Sys2Proof.Machine.execYielde f s
  | .budq f => Sys2Proof.Machine.execBudq f s
  | .trape f => Sys2Proof.Machine.execTrape f s
  | .brke f => Sys2Proof.Machine.execBrke f s

end Sys2Proof.Machine
end

