-- ==== Sys2Proof/Machine/Plan.lean ====
section
/-! DEFINITION. What the machine does next (log 1): the phases of a paddock's fc, each naming the events that come about
in it, the choice of the context that issues (R73, R74), and, with no fc under way, the next moment at which something
happens. -/

namespace Sys2Proof.Machine

def padFin (p : Nat) : Fin 32 := ⟨p % 32, Nat.mod_lt _ (by decide)⟩
def ctxFin (q : Nat) : Fin 4 := ⟨q % 4, Nat.mod_lt _ (by decide)⟩
def tileFin (t : Nat) : Fin 144 := ⟨t % 144, Nat.mod_lt _ (by decide)⟩
def regFin (r : Nat) : Fin 16 := ⟨r % 16, Nat.mod_lt _ (by decide)⟩
def taskFin (k : Nat) : Fin 64 := ⟨k % 64, Nat.mod_lt _ (by decide)⟩
def chainFin (c : Nat) : Fin 17 := ⟨c % 17, Nat.mod_lt _ (by decide)⟩
def rowFin (n : Nat) : Fin 12 := ⟨n % 12, Nat.mod_lt _ (by decide)⟩
def srcFin (n : Nat) : Fin 20 := ⟨n % 20, Nat.mod_lt _ (by decide)⟩

/-- An event if its condition holds. -/
def evIf (b : Bool) (i : Instr) : List Act := if b then [.run i] else []

/-- Acts put in front of what is owed. -/
def State.owe (s : State) (l : List Act) : State := { s with agenda := l ++ s.agenda }

/-! ## The fc begins -/

/-- The allocated regions of a paddock. -/
def liveRegions (s : State) (p : Nat) : List Region :=
  (List.filter (fun e => e.2.alloc) (s.pad p).regions).map fun e => e.2

/-- A task region of a paddock runs (R295). -/
def anyRuns (s : State) (p : Nat) : Bool := (liveRegions s p).any fun r => r.task.isSome && regionRuns s p r

/-- A region of the paddock is paused by a freeze, a fold or a pre-emption, or a task has yielded its region (R20): an
allocated region with an active configuration that does not run. A trapped region counts among them, which R20 does not
name and R295 passes over (log 93; DESIGN CHOICE). -/
def anyStalls (s : State) (p : Nat) : Bool :=
  ((liveRegions s p).any fun r => (r.act.isSome || r.task.isSome) && !regionRuns s p r) ||
    (s.pad p).tasks.any fun e => e.2.st == .released

/-- Buffer places as they stand when the fc begins (R93, item 4). -/
def markBufs (tl : Tile) : Tile :=
  { tl with bufs := tl.bufs.map fun e => (e.1, { e.2 with used := e.2.toks.length + e.2.resv }) }

/-- The clock of a paddock moves on by one fc (R4, R70, R327). -/
def beginFc (s : State) (p : Nat) : State :=
  let x := s.pad p
  let s := s.setPad p
    { x with
      fc := x.fc + 1, cycle := x.cycle + 1, next := s.now + (x.freq.ticks.getD 3)
      tiles := x.tiles.map fun e => (e.1, markBufs e.2)
      ctxs := x.ctxs.map fun e => (e.1, { e.2 with setNow := 0, wasHalted := e.2.halted })
      regions := x.regions.map fun e => (e.1, { e.2 with busy := false }) }
  let s := { s with chStiles := s.chStiles.map fun e =>
    (e.1, if e.2.sp = p then { e.2 with used := e.2.flight.length + e.2.port.length + e.2.resv } else e.2) }
  let ran := anyRuns s p
  let stalled := anyStalls s p
  s.updPad p fun x => { x with ran := ran, stalled := stalled }

/-- A doorbell that waits for a paddock's next fc (R374). -/
def doorbellOf (s : State) (p : Nat) (i : Instr) : Bool :=
  match i with
  | .start fn m q => (pageCtx s (pageOf fn m q)).any fun c => c.1 == p
  | _ => false

/-- The phases of an fc after its beginning. -/
def fcPhases : List Nat := [1, 2, 3, 4, 5, 19, 8, 6, 7, 9, 10, 11, 12, 13, 14, 15, 16, 17, 18]

/-- Regions whose fabric trap was detected two fc ago are trapped (R314). -/
def trapRegions (s : State) (p : Nat) : State :=
  (List.range 16).foldl (fun s r => if trapDue s p (s.region p r) then trapRegion s p r else s) s

/-- A context waits in YLD and its counters have become positive by the start of the fc: it issues in this one (R375). -/
def yldOver (s : State) (p q : Nat) : Bool :=
  let c := s.ctx p q
  match c.wait with
  | .poll w _ => seqOpc w == 0x85 && (tryYld (s.unissue p q) p q).isSome
  | _ => false

/-- The beginning: regions are trapped, doorbells are evaluated, and tasks resume, on the state at the start of the fc. -/
def phaseBegin (s : State) (p : Nat) : State :=
  let s := trapRegions (beginFc (flushArea s (s.partOf p)) p) p
  let bells := s.waiting.filter (doorbellOf s p ·)
  let s := { s with waiting := s.waiting.filter fun i => !doorbellOf s p i }
  let ylds := (List.range 4).flatMap fun q => evIf (yldOver s p q) (.seqOpComplete (padFin p) (ctxFin q))
  let resumes := (List.range 64).flatMap fun k => evIf (resumeDue s p k) (.taskResume (padFin p) (taskFin k))
  s.owe (bells.map (.run ·) ++ ylds ++ resumes ++ fcPhases.map fun n => .phase n (padFin p))

/-! ## The fabric -/

/-- Tiles of allocated regions. -/
def liveTiles (s : State) (p : Nat) : List Nat := (List.range 144).filter fun t => ((s.pad p).regionAt t).isSome

/-- Hops, all of them judged on the state at the start of the fc; a token that hops into an element input stands at its
head in the same fc (R37). -/
def planHops (s : State) (p : Nat) : List Act :=
  (liveTiles s p).flatMap fun t => (List.range 20).flatMap fun src =>
    evIf (hopDue s p t src) (.tokenHop (padFin p) (tileFin t) (srcFin src))

/-- Firings, one of an element at most, all of them judged before the first (R93, R95). -/
def planFires (s : State) (p : Nat) : List Act :=
  (liveTiles s p).flatMap fun t => match choice s p t with
    | some n => [Act.fire (padFin p) (tileFin t) (regFin n)]
    | none => []

/-- Stile waits that are over their limit, once they are counted (R325). -/
def planStileTmo (s : State) (p : Nat) : List Act :=
  (liveTiles s p).flatMap fun t => (List.range 4).flatMap fun o =>
    evIf (stileLate s p t o) (.stileTmo (padFin p) (tileFin t) (ctxFin o))

/-- Parked requests that walk again. -/
def planRetries (s : State) (p : Nat) : List Act :=
  (liveTiles s p).flatMap fun t =>
    evIf ((s.tile p t).et.retryAt.any fun n => decide (n ≤ s.fc p)) (.parkedRequestRetry (padFin p) (tileFin t))

/-- Requests and matrix positions. -/
def planNodes (s : State) (p : Nat) : List Act :=
  (liveTiles s p).flatMap fun t =>
    ((s.tile p t).reqs.flatMap fun r =>
      evIf ((isMemOpc (fabOpc r.word).toNat && r.st == .going && decide (reqDue s p r ≤ s.fc p)) || engReqDue s p r ||
          parkedDue s p t r)
        (.memNodeComplete (padFin p) (tileFin t) r.id)) ++
    evIf (posDue s p t).isSome (.mfirePositionTake (padFin p) (tileFin t))

/-- Passes, drains and results that leave unheld outputs. A drain whose last spill token is taken in this fc completes in it
(R202). -/
def planMatrix (s : State) (p : Nat) : List Act :=
  (liveTiles s p).flatMap fun t =>
    let (a, b) := (padFin p, tileFin t)
    evIf (holdDue s p t).isSome (.carryHoldResume a b) ++
    evIf (passDue s p t).isSome (.matrixPassComplete a b) ++
    evIf (spillDue s p t).isSome (.mdrnSpillToken a b) ++
    evIf ((spillDue s p t).isSome || (drainDue s p t).isSome) (.mdrnComplete a b) ++
    evIf (emitPaced s p t).1.isSome (if tileType t == .m then .mcarryExpToken a b else .gathRowTokenEmit a b)

/-! ## Engines, messages, stiles -/

/-- The event of an entry's operation. -/
def opEvent (p : Fin 32) (c : Fin 17) (op : Nat) : List Act :=
  match op with
  | 1 => [.run (.copy p c)]
  | 2 => [.run (.fill p c)]
  | 3 => [.run (.conv p c)]
  | 4 => [.run (.engGath p c)]
  | 5 => [.run (.engScat p c)]
  | 6 => [.run (.areduce p c)]
  | 7 => [.run (.rscat p c)]
  | 8 => [.run (.agath p c)]
  | 9 => [.run (.signal p c)]
  | 10 => [.run (.waitseq p c)]
  | _ => []

/-- The chain that a transfer engine serves in this fc, round-robin (R243). -/
def turnOf (x : Paddock) (e : Nat) : Option Nat :=
  let last := Tbl.get 3 x.rr e
  ((List.range 4).map fun i => 4 * e + (last + 1 + i) % 4).find? fun c => (chainEnt (x.chain c)).isSome

/-- Entries read by the chains that are ready for the next one. -/
def fetchAll (s : State) (p : Nat) : State :=
  (List.range 17).foldl (fun s c => if fetchDue s p c then fetchEntry s p c else s) s

/-- Chains that go on after an ERET, before the engines choose whom they serve (R245). -/
def planChainRetries (s : State) (p : Nat) : List Act :=
  (List.range 17).flatMap fun c =>
    evIf ((s.chain p c).st == .paused && (s.chain p c).retry) (.chainTranslationRetry (padFin p) (chainFin c))

/-- Chains: re-reads, completions and time-outs; then the turn of each engine, in which it makes a free number of accesses, as
many as a line of reads and one of writes hold at most (R243). -/
def phaseEngines (s : State) (p : Nat) : State :=
  let s := fetchAll s p
  let x := s.pad p
  let turns := (List.range 4).filterMap fun e => (turnOf x e).map fun c => (e, c)
  let s := s.updPad p fun x => { x with rr := turns.foldl (fun t m => Tbl.set t m.1 (m.2 % 4)) x.rr }
  let a := padFin p
  let waits := (List.range 17).flatMap fun c =>
    let y := x.chain c
    evIf (y.st == .stampWait && decide (y.due ≤ x.fc)) (.stampReread a (chainFin c)) ++
    (if y.st == .waitSeq && decide (y.due ≤ x.fc) then List.replicate 2 (.run (.waitseqReread a (chainFin c))) else []) ++
    evIf (remoteLate s p c) (.remoteWriteTimeout a (chainFin c)) ++
    evIf (completeDue s p c).isSome (.chainEntryComplete a (chainFin c))
  let (moves, s) := ((turns.map fun (m : Nat × Nat) => m.2) ++ [16]).foldl
    (fun (l : List Act × State) c =>
      match chainEnt (x.chain c) with
      | some e =>
        let (n, s) := freePart l.2 32
        (l.1 ++ (List.replicate n (opEvent a (chainFin c) e.op)).flatten, s)
      | none => l) ([], s)
  s.owe (waits ++ moves)

/-- The first message that arrives now; the phase is repeated for each one in the network. -/
def planMessage (s : State) (p : Nat) : List Act :=
  match (List.range (s.pad p).msgs.length).find? fun n => (msgDue s p n).isSome with
  | some n => [.run (.messageArrive (padFin p) n)]
  | none => []

/-- Tokens that reach the ports of a paddock's stiles. -/
def planStiles (s : State) (p : Nat) : List Act :=
  List.flatMap (fun e => evIf (e.2.rp == p && stileArrives s e.2) (.stileTokenArrive (padFin p) e.1)) s.chStiles

/-! ## The issue slot (R73, R74) -/

/-- A context that is ready (R73); one that a CTXS stops issues no further instruction (R335). -/
def Paddock.isReady (x : Paddock) (q : Nat) : Bool :=
  let c := x.ctx q
  !c.halted && !c.saved && c.wait == .ready && !x.heldCtx q

/-- 16 × LQW. -/
def weight (x : Paddock) (q : Nat) : Nat := 16 * (Tbl.get 1 x.lqw q).toNat

/-- Deficits of contexts that are not ready are capped; with none of the ready ones above 0, each ready one is raised k
times. -/
def topDeficits (x : Paddock) : Paddock :=
  let qs := [0, 1, 2, 3]
  let x := qs.foldl
    (fun x q =>
      let c := x.ctx q
      if x.isReady q then x else x.setCtx q { c with deficit := min c.deficit (weight x q) }) x
  let ready := qs.filter fun q => x.isReady q
  if ready.isEmpty || ready.any (fun q => decide (0 < (x.ctx q).deficit)) then x
  else
    let need := fun (q : Nat) => ((-(x.ctx q).deficit).toNat) / weight x q + 1
    let k := ready.foldl (fun m q => min m (need q)) (need (ready.headD 0))
    ready.foldl (fun x q => x.setCtx q { x.ctx q with deficit := (x.ctx q).deficit + (k * weight x q : Nat) }) x

/-- The ready context with the largest deficit, the lowest index on a tie. -/
def pickIssue (x : Paddock) : Option Nat :=
  [0, 1, 2, 3].foldl
    (fun w q =>
      if !x.isReady q then w
      else
        match w with
        | none => some q
        | some v => if (x.ctx v).deficit < (x.ctx q).deficit then some q else w) none

/-- One context issues. -/
def phaseIssue (s : State) (p : Nat) : State :=
  let x := topDeficits (s.pad p)
  match pickIssue x with
  | none => s.setPad p x
  | some q =>
    let s := s.setPad p (x.setCtx q { x.ctx q with deficit := (x.ctx q).deficit - 256 })
    s.owe [.issue (padFin p) (ctxFin q)]

/-- Reports that contexts take at their boundary before one of them issues (R311). -/
def planReports (s : State) (p : Nat) : List Act :=
  (List.range 4).flatMap fun q => evIf (asyncDue s p q) (.asyncTrapDelivery (padFin p) (ctxFin q))

/-! ## Regions, tasks, the arbiter -/

/-- What a region's own logic does in this fc. -/
def planRegion (s : State) (p r : Nat) : List Act :=
  let x := s.region p r
  let (a, b) := (padFin p, regFin r)
  if !x.alloc then []
  else
    evIf (!(adderDue s p x).isEmpty || (freezeTrigger s p x).isSome) (.budgetAdderUpdate a b) ++
    evIf (stopDue s p r x.freezeAt) (.budgetFreeze a b) ++
    (match x.task with
     | some k => evIf ((s.task p k).ypend && stopDue s p r x.yieldAt) (.yieldRelease a (taskFin k))
     | none => []) ++
    evIf (recoverDue s p x) (.regionEccRecovery a b (tileFin (tileAt x.row0 x.col0))) ++
    evIf (switchDue s p r).isSome (.decisionSwitch a b)

/-- Splice swaps and flush tokens, tile by tile. -/
def planSplices (s : State) (p : Nat) : List Act :=
  (liveTiles s p).flatMap fun t =>
    ((List.range 4).flatMap fun o => evIf (flushDue s p t o) (.skipFlushEmit (padFin p) (tileFin t) (ctxFin o))) ++
    (match (s.pad p).regionAt t with
     | some (_, r) =>
       match r.spl with
       | some sp => evIf (swapReady s p t r sp && (s.tile p t).pendZero) (.spliceSwap (padFin p) (tileFin t))
       | none => []
     | none => [])

/-- The spares of the twelve rows. -/
def planSpares (s : State) (p : Nat) : List Act :=
  let x := s.pad p
  (List.range 12).flatMap fun n =>
    ((Tbl.get ({} : Spare) x.spares n).cmps.filter fun c => decide (c.due ≤ x.fc)).map
      (fun _ => .run (.spareCompare (padFin p) (rowFin n))) ++
    evIf (shadowDue x n) (.spareAdvance (padFin p) (rowFin n))

/-- A line has not been visited for 2^SCRUBQ fc (R162). -/
def scrubLate (x : Paddock) (line : Nat) : Bool := decide (Tbl.get 0 x.scrubbed line + 2 ^ x.scrubq.toNat ≤ x.fc)

/-- The late lines whose cycle of priority falls in this fc: each line has one in each 64 fc. -/
def lateLines (x : Paddock) : List Nat :=
  if x.fc < 2 ^ x.scrubq.toNat then []
  else ((List.range (scrubLines / 64)).map fun k => 64 * k + x.fc % 64).filter (scrubLate x)

/-- The bank of a line is free in this fc; home lines have no bank in this model (log 30). -/
def scrubIdle (s : State) (p line : Nat) : Bool :=
  if line < memLines then true
  else
    let n := line - memLines
    !bitAt ((s.spad p (tileAt (n / 65536) 6)).usedIn (s.fc p)) (n % 8)

/-- A late line takes a bank cycle of priority, once in each 64 fc, before any other access (R162). -/
def phaseScrubLate (s : State) (p : Nat) : State :=
  s.owe ((lateLines (s.pad p)).map fun n => .run (.scrubVisit (padFin p) n))

/-- A visit in an idle bank cycle, which the scrubbers may use (R162). -/
def phaseScrub (s : State) (p : Nat) : State :=
  let (c, s) := freeChoice s
  let n := (s.pad p).scrubAt
  s.owe (evIf (c && scrubIdle s p n) (.scrubVisit (padFin p) n))

/-- Tasks that retire, and instructions that free or activate a region. -/
def planFrees (s : State) (p : Nat) : List Act :=
  ((List.range 64).flatMap fun k => evIf (retireDue s p k) (.taskRetire (padFin p) (taskFin k))) ++
  (List.range 4).flatMap fun q =>
    let (a, b) := (padFin p, ctxFin q)
    match (s.ctx p q).wait with
    | .poll w _ =>
      evIf (seqOpc w == 0x63) (.cfgaActivate a b) ++ evIf (seqOpc w == 0x61) (.rgnfFree a b)
    | _ => []

/-- The arbiter acts in an fc in which area was freed or a bid arrived (R129), in one in which the next entry of a bound
trace changed, and in the one after binding ended (R275). -/
def phaseArbiter (s : State) (p : Nat) : State :=
  let x := s.pad p
  if x.bidNow && decide (x.trace.till ≤ x.fc) then
    (s.setPad p { x with bidNow := false }).owe (List.replicate x.bids.length (.phase 20 (padFin p)))
  else s

/-- One admission, or the end of a trace's binding. -/
def planBid (s : State) (p : Nat) : List Act :=
  match (pickBid s p).1 with
  | .none => []
  | .diverge n | .grant n _ _ => [.run (.bidAdmit (padFin p) n)]

/-! ## The end of the fc -/

/-- The journal of a partition, in the fc of its lowest paddock (R293, R295, R296, R291): windows are counted and ended,
then shape points begin and go on. -/
def phaseJournal (s : State) (p : Nat) : State :=
  match (s.pad p).part with
  | none => s
  | some n =>
    if s.lead n ≠ p then s
    else
      let s := countWindows s n
      -- regions that came to run since a pause began pause too (R293)
      let s := match (s.jr n).shape with
        | some z => if z.paused then pauseMask s z.mask else s
        | none => s
      let a := padFin p
      s.owe (evIf (!(baseEnds s n).isEmpty) (.baselineWindowEnd a) ++
        (match trialEnds s n with
         | some (_, false) => [.run (.trialWindowEnd a)]
         | some (_, true) => [.run (.trialVerdict a)]
         | none => []) ++ [.phase 21 a, .phase 21 a, .phase 22 a, .phase 21 a])

/-- FFR waits for the end of its fc, as a tag wait does. -/
def Wait.readsTags : Wait → Bool
  | .busy _ (.tagIndex _ _) => true
  | _ => false

/-- Instructions that wait or occupy their context and complete in this fc (R75, R143), tag waits and WFE aside. -/
def planPolls (s : State) (p : Nat) : List Act :=
  (List.range 4).flatMap fun q =>
    let c := s.ctx p q
    let (a, b) := (padFin p, ctxFin q)
    match c.wait with
    | .busy due _ => evIf (decide (due ≤ s.fc p) && !c.wait.readsTags) (.seqOpComplete a b)
    | .poll w _ =>
      if seqOpc w = 0x66 then [.run (.qwaitReturn a b)]
      else if seqOpc w = 0x80 then evIf (s.pad p).taskSlot.isSome (.lnchSlotAcquire a b)
      else if seqOpc w = 0x61 ∨ seqOpc w = 0x63 ∨ seqOpc w = 0x65 then []
      else [.run (.seqOpComplete a b)]
    | .ready | .tags _ _ | .wfe _ _ | .gated _ _ => []

/-- What reads TAGS and the event latch: after every completion of the fc (R84, R85). -/
def planWaits (s : State) (p : Nat) : List Act :=
  (List.range 4).flatMap fun q =>
    let c := s.ctx p q
    let (a, b) := (padFin p, ctxFin q)
    match c.wait with
    | .busy due _ => evIf (decide (due ≤ s.fc p) && c.wait.readsTags) (.seqOpComplete a b)
    | .tags all m => evIf (tagsMet c all m) (.tagWaitComplete a b)
    | .wfe _ _ | .gated _ _ => evIf (wfeEnds s p q) (.wfeWake a b)
    | .poll _ _ | .ready => []

/-- Regions in which nothing happened for this fc (R138). An fc in which a shape point pauses the region counts, and QNC waits
until it runs again (log 105; DESIGN CHOICE). -/
def countQuiet (s : State) (p : Nat) : State :=
  (List.range 16).foldl
    (fun s r =>
      let x := s.region p r
      if !x.alloc then s
      else
        let still := x.st == .running && !x.busy && !quietOps s p r x && quietTokens s p r x != 0
        s.setRegion p r { x with quiet := if still then x.quiet + 1 else 0 }) s

/-- The fc ends: WFE commits, quiet fc are counted and QNC is found in the fc that completes the count, and a paddock that
sleeps is placed in F3 (R85, R138). -/
def phaseEnd (s : State) (p : Nat) : State :=
  let s := countQuiet s p
  let s := (List.range 4).foldl (fun s q => commitWfe s p q) s
  let s := s.updPad p fun x => { x with bell := none }
  s.owe (((List.range 16).flatMap fun r => evIf (quiescent s p r) (.qnc (padFin p) (regFin r))) ++ evIf ((s.pad p).idle && !(s.pad p).gatedF3) (.paddockGateF3 (padFin p)))

/-- The phases of an fc, in their order; 20 to 22 are repeated steps of the arbiter and the journal. -/
def phase (s : State) (n p : Nat) : State :=
  match n with
  | 0 => phaseBegin s p
  | 1 => s.owe (planHops s p)
  | 2 => s.owe (List.replicate (s.pad p).msgs.length (.phase 23 (padFin p)) ++ planStiles s p)
  | 3 => s.owe (planFires s p)
  | 4 => let s := countStiles s p; s.owe (planStileTmo s p)
  | 5 => s.owe (planRetries s p ++ planChainRetries s p)
  | 6 => s.owe (planNodes s p)
  | 7 => s.owe (planMatrix s p)
  | 8 => phaseEngines s p
  | 9 => s.owe (planReports s p)
  | 10 => phaseIssue s p
  | 11 =>
    let s := payLates s p fun e => decide (e.2.fc + 3 ≤ s.fc p)
    s.owe ((List.range 16).flatMap fun r => planRegion s p r)
  | 12 => let s := phaseScrub s p; s.owe (planSplices s p ++ planSpares s p)
  | 13 => s.owe (planFrees s p)
  | 14 => phaseArbiter s p
  | 15 => phaseJournal s p
  | 16 => s.owe (planPolls s p)
  | 17 => s.owe (planWaits s p)
  | 18 => phaseEnd s p
  | 19 => phaseScrubLate s p
  | 20 => s.owe (planBid s p)
  | 21 => s.owe (evIf (shapeDue s (s.partOf p)) (.shapePoint (padFin p)))
  | 22 => s.owe (evIf (tunerDue s (s.partOf p)).isSome (.tunerPropose (padFin p)))
  | 23 => s.owe (planMessage s p)
  | _ => s

/-! ## Between fc -/

/-- What happens at a moment: an input, or an act. -/
inductive Turn where
  | input (x : Input)
  | act (a : Act)

/-- What a paddock has coming: the edge of its clock; with its clock stopped in F3, the wake of a context or the report
it was woken for. -/
def padTurns (s : State) (p : Nat) : List (Nat × Turn) :=
  let x := s.pad p
  let a := padFin p
  if x.clocked then [(x.next, .act (.phase 0 a))]
  else
    (match x.resetDue with
     | some (t, _) => [(t, .act (.run (.paddockResetDone a)))]
     | none => []) ++
    (if x.up && x.gatedF3 then
       (List.range 4).flatMap fun q =>
         match (x.ctx q).wait with
         | .gated _ (some t) =>
           [(t, Turn.act (.run (if (x.ctx q).latch then .wfeWake a (ctxFin q) else .asyncTrapDelivery a (ctxFin q))))]
         | _ => []
     else [])

/-- Everything that is coming, with its tick: with the power off only inputs. -/
def turns (s : State) : List (Nat × Turn) :=
  (match s.inputs with
   | [] => []
   | (t, x) :: _ => [(t, .input x)]) ++
  (if s.boot.power then
     (if s.boot.running = 0 then []
      else [(s.boot.since + stageLimit s.boot.running + 1, .act (.run .stageLimitExpiry))]) ++
     (List.range 32).flatMap (padTurns s ·)
   else [])

/-- The earliest of them; of several at one tick the first of the list. -/
def firstTurn : List (Nat × Turn) → Option (Nat × Turn)
  | [] => none
  | x :: rest =>
    match firstTurn rest with
    | none => some x
    | some y => if y.1 < x.1 then some y else some x

/-- A doorbell takes a paddock out of F3: its clock runs again, and the doorbell is evaluated, soon enough for its context to
run within 2 µs (R85, R327). -/
def ringF3 (s : State) (p : Nat) : State :=
  if (s.pad p).gatedF3 then
    let (n, s) := freeDelay s 0
    s.updPad p fun x =>
      { x with gatedF3 := false, bell := some s.now, next := max x.next s.now + n % (wakeTicks - 6) }
  else s

/-- A host or environment input (log 13). A doorbell waits for the next fc of its paddock, which it takes out of F3
(R374, R85). -/
def applyInput (s : State) (i : Input) : State :=
  match i with
  | .event (.start fn m q) =>
    match pageCtx s (pageOf fn m q) with
    | some (p, _) =>
      if (s.pad p).up && (s.pad p).gate != .resetting then
        { ringF3 s p with waiting := s.waiting ++ [.start fn m q] }
      else s.owe [.run (.start fn m q)]
    | none => s
  | .event e => s.owe [.run e]
  | .badLine p n => s.updPad p fun x => { x with badLines := x.badLines ++ [n] }
  | .softLine p n => s.updPad p fun x => { x with softLines := x.softLines ++ [n] }
  | .badWord p t n => s.updTile p t fun tl => { tl with sp := { tl.sp with bad := tl.sp.bad ++ [n] } }
  | .softWord p t n => s.updTile p t fun tl => { tl with sp := { tl.sp with soft := tl.sp.soft ++ [n] } }
  | .badCell p t n => s.updTile p t fun tl => { tl with badCells := tl.badCells ++ [n] }
  | .badL1 p t n => s.updTile p t fun tl => { tl with et := { tl.et with lines := Tbl.del tl.et.lines n } }
  | .spareFault p row v =>
    s.updPad p fun x =>
      let sp : Spare := Tbl.get {} x.spares row.val
      let cs := match sp.cmps with
        | [] => []
        | c :: rest => { c with spare := v, same := c.elem == v } :: rest
      { x with spares := Tbl.set x.spares row.val { sp with cmps := cs } }
  | .hostStore a bs => s.wrBytes true a bs
  | .atsPage x => { s with ats := x :: s.ats.filter fun e => !(e.fn == x.fn && e.pasid == x.pasid && e.page == x.page) }

/-- With nothing owed, time moves to the next moment and what happens then is owed; a machine with nothing coming stays
as it is, and one without power can do nothing. -/
def advance (s : State) : Out :=
  match firstTurn (turns s) with
  | none => if s.boot.power then .next s else .fault .poweredOff
  | some (t, x) =>
    let s := { s with now := max s.now t }
    match x with
    | .input i => .next (applyInput { s with inputs := s.inputs.drop 1 } i)
    | .act a => .next (s.owe [a])

/-! ## Fetching (R24, R77, R86, R157) -/

/-- The word at the PC of a context, or the cause of the fault in fetching it; an address that is no multiple of 8 is
MISALIGN (log 41). -/
def fetchWord (s : State) (p q : Nat) : Except (BitVec 8) (BitVec 64) × State :=
  let pc := (s.ctx p q).pc
  match checkAddr s p pc 8 .exec with
  | (.fault c, s) => (.error c, s)
  | (.ok pa host, s) =>
    if s.badLine host pa then (.error cECC_UE, s)
    else
      let s := s.fixLine host pa
      (.ok (BitVec.ofNat 64 (s.rdNat host pa 8)), s)

/-- What a context that issues does: the budget trap of R270, the trap of a faulting fetch, ILLEGAL for a word that holds
no sequencer instruction, or the instruction. A word that fails a check of R31 and that the context may not issue either
takes ILLEGAL: R43 has both checked at issue and does not order them (log 89; DESIGN CHOICE). -/
def issueInstr (s : State) (p q : Nat) : Instr × State :=
  let s := { s with cur := { s.cur with p := p, q := q } }
  if budgetOut (s.ctx p q) then (.contextBudgetTrap, s)
  else
    match fetchWord s p q with
    | (.error c, s) => (.fetchFault c, s)
    | (.ok w, s) =>
      match decodeSeq w with
      | some i => (i, s)
      | none => (.illegalWord w, s)

/-- The word of the slot that an element fires. -/
def slotWord (s : State) (p t slot : Nat) : BitVec 64 := Cfg.slot (((s.pad p).cfgAt t).getD []) slot

end Sys2Proof.Machine
end

