-- ==== Sys2Proof/Machine/Step.lean ====
section
/-! DEFINITION. One step (log 1): the first micro-step owed is taken; with none owed, time moves to the next moment. -/

namespace Sys2Proof.Machine

/-- The element's word is fired, or the element takes STRAY_TOKEN in its place (R135). -/
noncomputable def fireStep (s : State) (p t slot : Nat) : Host.Outcome State Fault Refusal :=
  let s := { s with cur := { p := p, q := 0, t := t, slot := slot } }
  if strayFire s then .next (strayTrap s)
  else
    match decodeFab (slotWord s p t slot) with
    | some i => shadowed (slotWord s p t slot) (exec i) s
    | none => .next s

/-- One step. -/
noncomputable def step (s : State) : Host.Outcome State Fault Refusal :=
  match s.agenda with
  | [] => advance s
  | .run i :: rest => exec i { s with agenda := rest }
  | .issue p q :: rest =>
    let r := issueInstr { s with agenda := rest } p q
    exec r.1 r.2
  | .fire p t slot :: rest => fireStep { s with agenda := rest } p t slot
  | .phase n p :: rest => .next (phase { s with agenda := rest } n p)

/-! ## Placing an instruction (log 12) -/

/-- Where `withFetchWord` puts its page tables, and the page of the word. -/
abbrev fetchTable : Nat := 0x100000

/-- The module started, paddock 0 a partition with its gate OPEN. -/
def fetchModule (s : State) : State :=
  let s := { s with boot := { s.boot with power := true, stage := 3, running := 0 } }
  let s := s.updPad 0 fun x => { x with up := true, down := false, gate := .open_, part := some 0, gatedF3 := false, tlb := [], badLines := [] }
  s.updPart 0 fun x => { x with exists_ := true, mask := x.mask ||| 1, bound := true }

/-- The page tables of the partition: the page of `va` is executable and lies behind the tables. -/
def fetchPage (s : State) (va : Nat) : State :=
  let entry := fun (s : State) (level sh ppn low : Nat) =>
    s.wrNat false (fetchTable + 0x1000 * level + 8 * ((va >>> sh) % 512)) 8 (ppn + low)
  let s := { s with roots := Tbl.set s.roots (s.part 0).asid.toNat (BitVec.ofNat 64 fetchTable) }
  let s := entry s 0 48 (fetchTable + 0x1000) 1
  let s := entry s 1 39 (fetchTable + 0x2000) 1
  let s := entry s 2 30 (fetchTable + 0x3000) 1
  let s := entry s 3 21 (fetchTable + 0x4000) 1
  entry s 4 12 (fetchTable + 0x5000) 0x11

/-- A word for the sequencer: LQ0 of paddock 0 issues it from its PC. -/
def placeSeq (s : State) (w : Nat) : State :=
  let c := s.ctx 0 0
  let pc := if canonical c.pc && c.pc.toNat % 8 == 0 then c.pc else 0
  let pos := fun (v : BitVec 64) => if 0 < v.toInt then v else 0x3FFFFFFFFFFFFFFF
  let s := s.setCtx 0 0 { c with pc := pc, halted := false, saved := false, wait := .ready, ibud := pos c.ibud, tbud := pos c.tbud }
  let s := fetchPage s (pc.toNat % 2 ^ 57)
  let s := s.wrNat false (fetchTable + 0x5000 + pc.toNat % 4096) 8 w
  { s with agenda := [.issue 0 0] }

/-- A tile on which the class of a fabric opcode has its place. -/
def placeTile (opc : Nat) : Nat :=
  if 0x60 ≤ opc ∧ opc ≤ 0x6F then 6
  else if 0x70 ≤ opc ∧ opc ≤ 0x7B then 0
  else if 0xA0 ≤ opc ∧ opc ≤ 0xBF then 5
  else 1

/-- A word for an element: slot 0 of a running region of paddock 0, which fires it. -/
def placeFab (s : State) (w : Nat) : State :=
  let t := placeTile ((fabOpc (BitVec.ofNat 64 w)).toNat)
  let s := s.updPad 0 fun x =>
    { x with
      regions := [(0, { alloc := true, h := 1, w := 12, fullH := 1, act := some 0, st := .running })]
      tiles := [(t, { cfgs := [(0, 0 :: BitVec.ofNat 64 w :: List.replicate 31 0)] })] }
  { s with agenda := [.fire 0 ⟨t % 144, Nat.mod_lt _ (by decide)⟩ 0] }

/-- The state with an instruction of `nbits` bits stored where the next step fetches (log 12): by its KIND a slot of a
running region, or the PC of LQ0 of paddock 0. -/
def State.withFetchWord (s : State) (_nbits w : Nat) : State :=
  let s := fetchModule s
  if w / 2 ^ 62 = 0 then placeFab s w else placeSeq s w

end Sys2Proof.Machine
end

