-- ==== Sys2Proof/Laws/Table.lean ====
section
/-! SUPPORT. Laws of sparse tables: reading after writing, and the canonical form. -/

namespace Sys2Proof.Machine.Tbl

variable {α : Type} {d v w : α} {t : Tbl α} {k j n : Nat}

theorem get_eq_find? (d : α) (t : Tbl α) (k : Nat) : get d t k = (find? t k).getD d := by
  induction t with
  | nil => rfl
  | cons e t ih => simp only [get, find?]; split <;> simp_all

@[simp] theorem get_set_same : get d (set t k v) k = v := by
  induction t with
  | nil => simp [set, get]
  | cons e t ih => simp only [set]; split <;> [skip; split] <;> simp_all [get]; omega

@[simp] theorem get_set_other (h : j ≠ k) : get d (set t k v) j = get d t j := by
  induction t with
  | nil => simp [set, get, Ne.symm h]
  | cons e t ih =>
    simp only [set]
    split <;> [skip; split] <;> simp_all [get, Ne.symm h, eq_comm]

theorem get_set : get d (set t k v) j = if j = k then v else get d t j := by
  split <;> simp_all

/-- Two writes to one key: the later one stands. -/
@[simp] theorem set_set : set (set t k v) k w = set t k w := by
  induction t with
  | nil => simp [set]
  | cons e t ih => simp only [set]; split <;> [skip; split] <;> simp_all [set]

theorem sortedFrom_mono (h : n ≤ k) (s : sortedFrom k t) : sortedFrom n t := by
  cases t with
  | nil => rfl
  | cons e t => simp_all [sortedFrom]; omega

theorem get_below (s : sortedFrom n t) (h : j < n) : get d t j = d := by
  induction t generalizing n with
  | nil => rfl
  | cons e t ih =>
    simp only [sortedFrom, Bool.and_eq_true, decide_eq_true_eq] at s
    simp only [get]
    rw [if_neg (by omega)]
    exact ih s.2 (by omega)

theorem del_sorted (s : sortedFrom n t) : sortedFrom n (del t k) := by
  induction t generalizing n with
  | nil => rfl
  | cons e t ih =>
    simp only [sortedFrom, Bool.and_eq_true, decide_eq_true_eq] at s
    simp only [del]
    split
    · exact sortedFrom_mono (by omega) (ih s.2)
    · simp [sortedFrom, s.1, ih s.2]

theorem set_sorted (s : sortedFrom n t) (h : n ≤ k) : sortedFrom n (set t k v) := by
  induction t generalizing n with
  | nil => simp [set, sortedFrom, h]
  | cons e t ih =>
    simp only [sortedFrom, Bool.and_eq_true, decide_eq_true_eq] at s
    simp only [set]
    split
    · simp [sortedFrom, h, s.2]; omega
    · split
      · simp_all [sortedFrom]
      · simp [sortedFrom, s.1, ih s.2 (by omega)]

@[simp] theorem get_del_same : get d (del t k) k = d := by
  induction t with
  | nil => rfl
  | cons e t ih => simp only [del]; split <;> simp_all [get]

@[simp] theorem get_del_other (h : j ≠ k) : get d (del t k) j = get d t j := by
  induction t with
  | nil => rfl
  | cons e t ih => simp only [del]; split <;> simp_all [get, Ne.symm h]

theorem mem_del {e : Nat × α} (h : e ∈ del t k) : e ∈ t := by
  induction t with
  | nil => simp [del] at h
  | cons x t ih =>
    simp only [del] at h
    split at h
    · simp [ih h]
    · rcases List.mem_cons.1 h with h | h
      · simp [h]
      · simp [ih h]

theorem mem_set {e : Nat × α} (h : e ∈ set t k v) : e = (k, v) ∨ e ∈ t := by
  induction t with
  | nil => simp_all [set]
  | cons x t ih =>
    simp only [set] at h
    split at h
    · simp_all
    · split at h <;> (simp_all; tauto)

section Canonical

variable [DecidableEq α]

theorem wf_iff : wf d t ↔ sortedFrom 0 t ∧ ∀ e ∈ t, e.2 ≠ d := by simp [wf]

/-- Equal reads of canonical tables are equal tables. -/
theorem ext_of_get {t u : Tbl α} (ht : wf d t) (hu : wf d u) (h : ∀ k, get d t k = get d u k) : t = u := by
  rw [wf_iff] at ht hu
  have key : ∀ (t u : Tbl α) (n : Nat), sortedFrom n t → sortedFrom n u → (∀ e ∈ t, e.2 ≠ d) → (∀ e ∈ u, e.2 ≠ d) →
      (∀ k, get d t k = get d u k) → t = u := by
    intro t
    induction t with
    | nil =>
      intro u n _ su _ nu h
      cases u with
      | nil => rfl
      | cons e u => have := h e.1; simp [get] at this; exact absurd this.symm (nu e (by simp))
    | cons a t ih =>
      intro u n st su nt nu h
      cases u with
      | nil => have := h a.1; simp [get] at this; exact absurd this (nt a (by simp))
      | cons b u =>
        simp only [sortedFrom, Bool.and_eq_true, decide_eq_true_eq] at st su
        have hab : a.1 = b.1 := by
          rcases Nat.lt_trichotomy a.1 b.1 with l | l | l
          · have h1 := h a.1
            simp only [get, if_true] at h1
            rw [if_neg (by omega), get_below su.2 (by omega)] at h1
            exact absurd h1 (nt a (by simp))
          · exact l
          · have h1 := h b.1
            simp only [get, if_true] at h1
            rw [if_neg (by omega), get_below st.2 (by omega)] at h1
            exact absurd h1.symm (nu b (by simp))
        have hv : a.2 = b.2 := by have := h a.1; simpa [get, hab] using this
        have htu : t = u := by
          refine ih u (a.1 + 1) st.2 (hab ▸ su.2) (fun e he => nt e (by simp [he])) (fun e he => nu e (by simp [he])) ?_
          intro k
          by_cases hk : k = a.1
          · rw [hk, get_below st.2 (by omega), get_below (hab ▸ su.2) (by omega)]
          · have := h k
            simpa [get, Ne.symm hk, hab ▸ Ne.symm hk] using this
        rw [htu, Prod.ext hab hv]
  exact key t u 0 ht.1 hu.1 ht.2 hu.2 h

/-- A write keeps the canonical form. -/
theorem put_wf (h : wf d t) : wf d (put d t k v) := by
  rw [wf_iff] at *
  simp only [put]
  split
  · exact ⟨del_sorted h.1, fun e he => h.2 e (mem_del he)⟩
  · exact ⟨set_sorted h.1 (Nat.zero_le _), fun e he => (mem_set he).elim (fun x => by simp_all) (h.2 e)⟩

/-- A value written is read, whatever the table. -/
@[simp] theorem get_put_same : get d (put d t k v) k = v := by
  simp only [put]; split <;> simp_all

@[simp] theorem get_put_other (h : j ≠ k) : get d (put d t k v) j = get d t j := by
  simp only [put]; split <;> simp [h]

end Canonical

end Sys2Proof.Machine.Tbl
end

