-- ==== Sys2Proof/Laws/State.lean ====
section
/-! SUPPORT. What each update of the state leaves in each field, so that no proof unfolds a record update. -/

namespace Sys2Proof.Machine

variable (s : State) (p q t r k c n : Nat)

/-! ## A part written and read again -/

@[simp] theorem State.pad_setPad_same (x : Paddock) : (s.setPad p x).pad p = x := by simp [State.setPad, State.pad]
@[simp] theorem State.pad_setPad_other (x : Paddock) (h : q ≠ p) : (s.setPad p x).pad q = s.pad q := by
  simp [State.setPad, State.pad, h]
@[simp] theorem State.setPad_setPad (x y : Paddock) : (s.setPad p x).setPad p y = s.setPad p y := by
  simp [State.setPad]

@[simp] theorem Paddock.ctx_setCtx_same (x : Paddock) (v : Ctx) : (x.setCtx n v).ctx n = v := by simp [Paddock.setCtx, Paddock.ctx]
@[simp] theorem Paddock.ctx_setCtx_other (x : Paddock) (v : Ctx) (h : k ≠ n) : (x.setCtx n v).ctx k = x.ctx k := by
  simp [Paddock.setCtx, Paddock.ctx, h]
@[simp] theorem Paddock.setCtx_setCtx (x : Paddock) (v w : Ctx) : (x.setCtx n v).setCtx n w = x.setCtx n w := by
  simp [Paddock.setCtx]
@[simp] theorem State.ctx_setCtx_same (v : Ctx) : (s.setCtx p n v).ctx p n = v := by simp [State.setCtx, State.ctx]
@[simp] theorem State.ctx_setCtx_other (v : Ctx) (h : k ≠ n) : (s.setCtx p n v).ctx p k = s.ctx p k := by
  simp [State.setCtx, State.ctx, h]
@[simp] theorem State.ctx_setCtx_pad (v : Ctx) (h : q ≠ p) : (s.setCtx p n v).ctx q k = s.ctx q k := by
  simp [State.setCtx, State.ctx, h]
@[simp] theorem State.setCtx_setCtx (v w : Ctx) : (s.setCtx p n v).setCtx p n w = s.setCtx p n w := by
  simp [State.setCtx]

@[simp] theorem Paddock.tile_setTile_same (x : Paddock) (v : Tile) : (x.setTile n v).tile n = v := by simp [Paddock.setTile, Paddock.tile]
@[simp] theorem Paddock.tile_setTile_other (x : Paddock) (v : Tile) (h : k ≠ n) : (x.setTile n v).tile k = x.tile k := by
  simp [Paddock.setTile, Paddock.tile, h]
@[simp] theorem Paddock.setTile_setTile (x : Paddock) (v w : Tile) : (x.setTile n v).setTile n w = x.setTile n w := by
  simp [Paddock.setTile]
@[simp] theorem State.tile_setTile_same (v : Tile) : (s.setTile p n v).tile p n = v := by simp [State.setTile, State.tile]
@[simp] theorem State.tile_setTile_other (v : Tile) (h : k ≠ n) : (s.setTile p n v).tile p k = s.tile p k := by
  simp [State.setTile, State.tile, h]
@[simp] theorem State.tile_setTile_pad (v : Tile) (h : q ≠ p) : (s.setTile p n v).tile q k = s.tile q k := by
  simp [State.setTile, State.tile, h]
@[simp] theorem State.setTile_setTile (v w : Tile) : (s.setTile p n v).setTile p n w = s.setTile p n w := by
  simp [State.setTile]

@[simp] theorem Paddock.region_setRegion_same (x : Paddock) (v : Region) : (x.setRegion n v).region n = v := by simp [Paddock.setRegion, Paddock.region]
@[simp] theorem Paddock.region_setRegion_other (x : Paddock) (v : Region) (h : k ≠ n) : (x.setRegion n v).region k = x.region k := by
  simp [Paddock.setRegion, Paddock.region, h]
@[simp] theorem Paddock.setRegion_setRegion (x : Paddock) (v w : Region) : (x.setRegion n v).setRegion n w = x.setRegion n w := by
  simp [Paddock.setRegion]
@[simp] theorem State.region_setRegion_same (v : Region) : (s.setRegion p n v).region p n = v := by simp [State.setRegion, State.region]
@[simp] theorem State.region_setRegion_other (v : Region) (h : k ≠ n) : (s.setRegion p n v).region p k = s.region p k := by
  simp [State.setRegion, State.region, h]
@[simp] theorem State.region_setRegion_pad (v : Region) (h : q ≠ p) : (s.setRegion p n v).region q k = s.region q k := by
  simp [State.setRegion, State.region, h]
@[simp] theorem State.setRegion_setRegion (v w : Region) : (s.setRegion p n v).setRegion p n w = s.setRegion p n w := by
  simp [State.setRegion]

@[simp] theorem Paddock.task_setTask_same (x : Paddock) (v : Task) : (x.setTask n v).task n = v := by simp [Paddock.setTask, Paddock.task]
@[simp] theorem Paddock.task_setTask_other (x : Paddock) (v : Task) (h : k ≠ n) : (x.setTask n v).task k = x.task k := by
  simp [Paddock.setTask, Paddock.task, h]
@[simp] theorem Paddock.setTask_setTask (x : Paddock) (v w : Task) : (x.setTask n v).setTask n w = x.setTask n w := by
  simp [Paddock.setTask]
@[simp] theorem State.task_setTask_same (v : Task) : (s.setTask p n v).task p n = v := by simp [State.setTask, State.task]
@[simp] theorem State.task_setTask_other (v : Task) (h : k ≠ n) : (s.setTask p n v).task p k = s.task p k := by
  simp [State.setTask, State.task, h]
@[simp] theorem State.task_setTask_pad (v : Task) (h : q ≠ p) : (s.setTask p n v).task q k = s.task q k := by
  simp [State.setTask, State.task, h]
@[simp] theorem State.setTask_setTask (v w : Task) : (s.setTask p n v).setTask p n w = s.setTask p n w := by
  simp [State.setTask]

@[simp] theorem Paddock.chain_setChain_same (x : Paddock) (v : Chain) : (x.setChain n v).chain n = v := by simp [Paddock.setChain, Paddock.chain]
@[simp] theorem Paddock.chain_setChain_other (x : Paddock) (v : Chain) (h : k ≠ n) : (x.setChain n v).chain k = x.chain k := by
  simp [Paddock.setChain, Paddock.chain, h]
@[simp] theorem Paddock.setChain_setChain (x : Paddock) (v w : Chain) : (x.setChain n v).setChain n w = x.setChain n w := by
  simp [Paddock.setChain]
@[simp] theorem State.chain_setChain_same (v : Chain) : (s.setChain p n v).chain p n = v := by simp [State.setChain, State.chain]
@[simp] theorem State.chain_setChain_other (v : Chain) (h : k ≠ n) : (s.setChain p n v).chain p k = s.chain p k := by
  simp [State.setChain, State.chain, h]
@[simp] theorem State.chain_setChain_pad (v : Chain) (h : q ≠ p) : (s.setChain p n v).chain q k = s.chain q k := by
  simp [State.setChain, State.chain, h]
@[simp] theorem State.setChain_setChain (v w : Chain) : (s.setChain p n v).setChain p n w = s.setChain p n w := by
  simp [State.setChain]

/-! ## Parts of a paddock that an update of another part leaves -/

@[simp] theorem Paddock.setCtx_fc (x : Paddock) (v : Ctx) : (x.setCtx n v).fc = x.fc := rfl
@[simp] theorem Paddock.setCtx_cycle (x : Paddock) (v : Ctx) : (x.setCtx n v).cycle = x.cycle := rfl
@[simp] theorem Paddock.setCtx_next (x : Paddock) (v : Ctx) : (x.setCtx n v).next = x.next := rfl
@[simp] theorem Paddock.setCtx_up (x : Paddock) (v : Ctx) : (x.setCtx n v).up = x.up := rfl
@[simp] theorem Paddock.setCtx_down (x : Paddock) (v : Ctx) : (x.setCtx n v).down = x.down := rfl
@[simp] theorem Paddock.setCtx_ceil (x : Paddock) (v : Ctx) : (x.setCtx n v).ceil = x.ceil := rfl
@[simp] theorem Paddock.setCtx_clamp (x : Paddock) (v : Ctx) : (x.setCtx n v).clamp = x.clamp := rfl
@[simp] theorem Paddock.setCtx_gatedF3 (x : Paddock) (v : Ctx) : (x.setCtx n v).gatedF3 = x.gatedF3 := rfl
@[simp] theorem Paddock.setCtx_gate (x : Paddock) (v : Ctx) : (x.setCtx n v).gate = x.gate := rfl
@[simp] theorem Paddock.setCtx_resetDue (x : Paddock) (v : Ctx) : (x.setCtx n v).resetDue = x.resetDue := rfl
@[simp] theorem Paddock.setCtx_part (x : Paddock) (v : Ctx) : (x.setCtx n v).part = x.part := rfl
@[simp] theorem Paddock.setCtx_dclean (x : Paddock) (v : Ctx) : (x.setCtx n v).dclean = x.dclean := rfl
@[simp] theorem Paddock.setCtx_lastPart (x : Paddock) (v : Ctx) : (x.setCtx n v).lastPart = x.lastPart := rfl
@[simp] theorem Paddock.setCtx_tiles (x : Paddock) (v : Ctx) : (x.setCtx n v).tiles = x.tiles := rfl
@[simp] theorem Paddock.setCtx_regions (x : Paddock) (v : Ctx) : (x.setCtx n v).regions = x.regions := rfl
@[simp] theorem Paddock.setCtx_tasks (x : Paddock) (v : Ctx) : (x.setCtx n v).tasks = x.tasks := rfl
@[simp] theorem Paddock.setCtx_bids (x : Paddock) (v : Ctx) : (x.setCtx n v).bids = x.bids := rfl
@[simp] theorem Paddock.setCtx_holNext (x : Paddock) (v : Ctx) : (x.setCtx n v).holNext = x.holNext := rfl
@[simp] theorem Paddock.setCtx_bidNow (x : Paddock) (v : Ctx) : (x.setCtx n v).bidNow = x.bidNow := rfl
@[simp] theorem Paddock.setCtx_chains (x : Paddock) (v : Ctx) : (x.setCtx n v).chains = x.chains := rfl
@[simp] theorem Paddock.setCtx_rr (x : Paddock) (v : Ctx) : (x.setCtx n v).rr = x.rr := rfl
@[simp] theorem Paddock.setCtx_msgs (x : Paddock) (v : Ctx) : (x.setCtx n v).msgs = x.msgs := rfl
@[simp] theorem Paddock.setCtx_msgl (x : Paddock) (v : Ctx) : (x.setCtx n v).msgl = x.msgl := rfl
@[simp] theorem Paddock.setCtx_lqw (x : Paddock) (v : Ctx) : (x.setCtx n v).lqw = x.lqw := rfl
@[simp] theorem Paddock.setCtx_bypmax (x : Paddock) (v : Ctx) : (x.setCtx n v).bypmax = x.bypmax := rfl
@[simp] theorem Paddock.setCtx_spareq (x : Paddock) (v : Ctx) : (x.setCtx n v).spareq = x.spareq := rfl
@[simp] theorem Paddock.setCtx_scrubq (x : Paddock) (v : Ctx) : (x.setCtx n v).scrubq = x.scrubq := rfl
@[simp] theorem Paddock.setCtx_dec (x : Paddock) (v : Ctx) : (x.setCtx n v).dec = x.dec := rfl
@[simp] theorem Paddock.setCtx_cecnt (x : Paddock) (v : Ctx) : (x.setCtx n v).cecnt = x.cecnt := rfl
@[simp] theorem Paddock.setCtx_reenc (x : Paddock) (v : Ctx) : (x.setCtx n v).reenc = x.reenc := rfl
@[simp] theorem Paddock.setCtx_scrubAt (x : Paddock) (v : Ctx) : (x.setCtx n v).scrubAt = x.scrubAt := rfl
@[simp] theorem Paddock.setCtx_scrubbed (x : Paddock) (v : Ctx) : (x.setCtx n v).scrubbed = x.scrubbed := rfl
@[simp] theorem Paddock.setCtx_reencAt (x : Paddock) (v : Ctx) : (x.setCtx n v).reencAt = x.reencAt := rfl
@[simp] theorem Paddock.setCtx_stiletmo (x : Paddock) (v : Ctx) : (x.setCtx n v).stiletmo = x.stiletmo := rfl
@[simp] theorem Paddock.setCtx_spares (x : Paddock) (v : Ctx) : (x.setCtx n v).spares = x.spares := rfl
@[simp] theorem Paddock.setCtx_trace (x : Paddock) (v : Ctx) : (x.setCtx n v).trace = x.trace := rfl
@[simp] theorem Paddock.setCtx_tlb (x : Paddock) (v : Ctx) : (x.setCtx n v).tlb = x.tlb := rfl
@[simp] theorem Paddock.setCtx_fused (x : Paddock) (v : Ctx) : (x.setCtx n v).fused = x.fused := rfl
@[simp] theorem Paddock.setCtx_prg (x : Paddock) (v : Ctx) : (x.setCtx n v).prg = x.prg := rfl
@[simp] theorem Paddock.setCtx_ran (x : Paddock) (v : Ctx) : (x.setCtx n v).ran = x.ran := rfl
@[simp] theorem Paddock.setCtx_stalled (x : Paddock) (v : Ctx) : (x.setCtx n v).stalled = x.stalled := rfl
@[simp] theorem Paddock.setCtx_badLines (x : Paddock) (v : Ctx) : (x.setCtx n v).badLines = x.badLines := rfl
@[simp] theorem Paddock.setCtx_softLines (x : Paddock) (v : Ctx) : (x.setCtx n v).softLines = x.softLines := rfl
@[simp] theorem Paddock.setCtx_bell (x : Paddock) (v : Ctx) : (x.setCtx n v).bell = x.bell := rfl
@[simp] theorem Paddock.setCtx_late (x : Paddock) (v : Ctx) : (x.setCtx n v).late = x.late := rfl
@[simp] theorem Paddock.setCtx_behind (x : Paddock) (v : Ctx) : (x.setCtx n v).behind = x.behind := rfl
@[simp] theorem Paddock.tile_setCtx (x : Paddock) (v : Ctx) : (x.setCtx n v).tile k = x.tile k := rfl
@[simp] theorem Paddock.region_setCtx (x : Paddock) (v : Ctx) : (x.setCtx n v).region k = x.region k := rfl
@[simp] theorem Paddock.task_setCtx (x : Paddock) (v : Ctx) : (x.setCtx n v).task k = x.task k := rfl
@[simp] theorem Paddock.chain_setCtx (x : Paddock) (v : Ctx) : (x.setCtx n v).chain k = x.chain k := rfl
@[simp] theorem State.tile_setCtx (v : Ctx) : (s.setCtx p n v).tile q k = s.tile q k := by
  by_cases h : q = p <;> simp [State.tile, State.setCtx, h]
@[simp] theorem State.region_setCtx (v : Ctx) : (s.setCtx p n v).region q k = s.region q k := by
  by_cases h : q = p <;> simp [State.region, State.setCtx, h]
@[simp] theorem State.task_setCtx (v : Ctx) : (s.setCtx p n v).task q k = s.task q k := by
  by_cases h : q = p <;> simp [State.task, State.setCtx, h]
@[simp] theorem State.chain_setCtx (v : Ctx) : (s.setCtx p n v).chain q k = s.chain q k := by
  by_cases h : q = p <;> simp [State.chain, State.setCtx, h]
@[simp] theorem Paddock.setTile_fc (x : Paddock) (v : Tile) : (x.setTile n v).fc = x.fc := rfl
@[simp] theorem Paddock.setTile_cycle (x : Paddock) (v : Tile) : (x.setTile n v).cycle = x.cycle := rfl
@[simp] theorem Paddock.setTile_next (x : Paddock) (v : Tile) : (x.setTile n v).next = x.next := rfl
@[simp] theorem Paddock.setTile_up (x : Paddock) (v : Tile) : (x.setTile n v).up = x.up := rfl
@[simp] theorem Paddock.setTile_down (x : Paddock) (v : Tile) : (x.setTile n v).down = x.down := rfl
@[simp] theorem Paddock.setTile_ceil (x : Paddock) (v : Tile) : (x.setTile n v).ceil = x.ceil := rfl
@[simp] theorem Paddock.setTile_clamp (x : Paddock) (v : Tile) : (x.setTile n v).clamp = x.clamp := rfl
@[simp] theorem Paddock.setTile_gatedF3 (x : Paddock) (v : Tile) : (x.setTile n v).gatedF3 = x.gatedF3 := rfl
@[simp] theorem Paddock.setTile_gate (x : Paddock) (v : Tile) : (x.setTile n v).gate = x.gate := rfl
@[simp] theorem Paddock.setTile_resetDue (x : Paddock) (v : Tile) : (x.setTile n v).resetDue = x.resetDue := rfl
@[simp] theorem Paddock.setTile_part (x : Paddock) (v : Tile) : (x.setTile n v).part = x.part := rfl
@[simp] theorem Paddock.setTile_dclean (x : Paddock) (v : Tile) : (x.setTile n v).dclean = x.dclean := rfl
@[simp] theorem Paddock.setTile_lastPart (x : Paddock) (v : Tile) : (x.setTile n v).lastPart = x.lastPart := rfl
@[simp] theorem Paddock.setTile_ctxs (x : Paddock) (v : Tile) : (x.setTile n v).ctxs = x.ctxs := rfl
@[simp] theorem Paddock.setTile_regions (x : Paddock) (v : Tile) : (x.setTile n v).regions = x.regions := rfl
@[simp] theorem Paddock.setTile_tasks (x : Paddock) (v : Tile) : (x.setTile n v).tasks = x.tasks := rfl
@[simp] theorem Paddock.setTile_bids (x : Paddock) (v : Tile) : (x.setTile n v).bids = x.bids := rfl
@[simp] theorem Paddock.setTile_holNext (x : Paddock) (v : Tile) : (x.setTile n v).holNext = x.holNext := rfl
@[simp] theorem Paddock.setTile_bidNow (x : Paddock) (v : Tile) : (x.setTile n v).bidNow = x.bidNow := rfl
@[simp] theorem Paddock.setTile_chains (x : Paddock) (v : Tile) : (x.setTile n v).chains = x.chains := rfl
@[simp] theorem Paddock.setTile_rr (x : Paddock) (v : Tile) : (x.setTile n v).rr = x.rr := rfl
@[simp] theorem Paddock.setTile_msgs (x : Paddock) (v : Tile) : (x.setTile n v).msgs = x.msgs := rfl
@[simp] theorem Paddock.setTile_msgl (x : Paddock) (v : Tile) : (x.setTile n v).msgl = x.msgl := rfl
@[simp] theorem Paddock.setTile_lqw (x : Paddock) (v : Tile) : (x.setTile n v).lqw = x.lqw := rfl
@[simp] theorem Paddock.setTile_bypmax (x : Paddock) (v : Tile) : (x.setTile n v).bypmax = x.bypmax := rfl
@[simp] theorem Paddock.setTile_spareq (x : Paddock) (v : Tile) : (x.setTile n v).spareq = x.spareq := rfl
@[simp] theorem Paddock.setTile_scrubq (x : Paddock) (v : Tile) : (x.setTile n v).scrubq = x.scrubq := rfl
@[simp] theorem Paddock.setTile_dec (x : Paddock) (v : Tile) : (x.setTile n v).dec = x.dec := rfl
@[simp] theorem Paddock.setTile_cecnt (x : Paddock) (v : Tile) : (x.setTile n v).cecnt = x.cecnt := rfl
@[simp] theorem Paddock.setTile_reenc (x : Paddock) (v : Tile) : (x.setTile n v).reenc = x.reenc := rfl
@[simp] theorem Paddock.setTile_scrubAt (x : Paddock) (v : Tile) : (x.setTile n v).scrubAt = x.scrubAt := rfl
@[simp] theorem Paddock.setTile_scrubbed (x : Paddock) (v : Tile) : (x.setTile n v).scrubbed = x.scrubbed := rfl
@[simp] theorem Paddock.setTile_reencAt (x : Paddock) (v : Tile) : (x.setTile n v).reencAt = x.reencAt := rfl
@[simp] theorem Paddock.setTile_stiletmo (x : Paddock) (v : Tile) : (x.setTile n v).stiletmo = x.stiletmo := rfl
@[simp] theorem Paddock.setTile_spares (x : Paddock) (v : Tile) : (x.setTile n v).spares = x.spares := rfl
@[simp] theorem Paddock.setTile_trace (x : Paddock) (v : Tile) : (x.setTile n v).trace = x.trace := rfl
@[simp] theorem Paddock.setTile_tlb (x : Paddock) (v : Tile) : (x.setTile n v).tlb = x.tlb := rfl
@[simp] theorem Paddock.setTile_fused (x : Paddock) (v : Tile) : (x.setTile n v).fused = x.fused := rfl
@[simp] theorem Paddock.setTile_prg (x : Paddock) (v : Tile) : (x.setTile n v).prg = x.prg := rfl
@[simp] theorem Paddock.setTile_ran (x : Paddock) (v : Tile) : (x.setTile n v).ran = x.ran := rfl
@[simp] theorem Paddock.setTile_stalled (x : Paddock) (v : Tile) : (x.setTile n v).stalled = x.stalled := rfl
@[simp] theorem Paddock.setTile_badLines (x : Paddock) (v : Tile) : (x.setTile n v).badLines = x.badLines := rfl
@[simp] theorem Paddock.setTile_softLines (x : Paddock) (v : Tile) : (x.setTile n v).softLines = x.softLines := rfl
@[simp] theorem Paddock.setTile_bell (x : Paddock) (v : Tile) : (x.setTile n v).bell = x.bell := rfl
@[simp] theorem Paddock.setTile_late (x : Paddock) (v : Tile) : (x.setTile n v).late = x.late := rfl
@[simp] theorem Paddock.setTile_behind (x : Paddock) (v : Tile) : (x.setTile n v).behind = x.behind := rfl
@[simp] theorem Paddock.ctx_setTile (x : Paddock) (v : Tile) : (x.setTile n v).ctx k = x.ctx k := rfl
@[simp] theorem Paddock.region_setTile (x : Paddock) (v : Tile) : (x.setTile n v).region k = x.region k := rfl
@[simp] theorem Paddock.task_setTile (x : Paddock) (v : Tile) : (x.setTile n v).task k = x.task k := rfl
@[simp] theorem Paddock.chain_setTile (x : Paddock) (v : Tile) : (x.setTile n v).chain k = x.chain k := rfl
@[simp] theorem State.ctx_setTile (v : Tile) : (s.setTile p n v).ctx q k = s.ctx q k := by
  by_cases h : q = p <;> simp [State.ctx, State.setTile, h]
@[simp] theorem State.region_setTile (v : Tile) : (s.setTile p n v).region q k = s.region q k := by
  by_cases h : q = p <;> simp [State.region, State.setTile, h]
@[simp] theorem State.task_setTile (v : Tile) : (s.setTile p n v).task q k = s.task q k := by
  by_cases h : q = p <;> simp [State.task, State.setTile, h]
@[simp] theorem State.chain_setTile (v : Tile) : (s.setTile p n v).chain q k = s.chain q k := by
  by_cases h : q = p <;> simp [State.chain, State.setTile, h]
@[simp] theorem Paddock.setRegion_fc (x : Paddock) (v : Region) : (x.setRegion n v).fc = x.fc := rfl
@[simp] theorem Paddock.setRegion_cycle (x : Paddock) (v : Region) : (x.setRegion n v).cycle = x.cycle := rfl
@[simp] theorem Paddock.setRegion_next (x : Paddock) (v : Region) : (x.setRegion n v).next = x.next := rfl
@[simp] theorem Paddock.setRegion_up (x : Paddock) (v : Region) : (x.setRegion n v).up = x.up := rfl
@[simp] theorem Paddock.setRegion_down (x : Paddock) (v : Region) : (x.setRegion n v).down = x.down := rfl
@[simp] theorem Paddock.setRegion_ceil (x : Paddock) (v : Region) : (x.setRegion n v).ceil = x.ceil := rfl
@[simp] theorem Paddock.setRegion_clamp (x : Paddock) (v : Region) : (x.setRegion n v).clamp = x.clamp := rfl
@[simp] theorem Paddock.setRegion_gatedF3 (x : Paddock) (v : Region) : (x.setRegion n v).gatedF3 = x.gatedF3 := rfl
@[simp] theorem Paddock.setRegion_gate (x : Paddock) (v : Region) : (x.setRegion n v).gate = x.gate := rfl
@[simp] theorem Paddock.setRegion_resetDue (x : Paddock) (v : Region) : (x.setRegion n v).resetDue = x.resetDue := rfl
@[simp] theorem Paddock.setRegion_part (x : Paddock) (v : Region) : (x.setRegion n v).part = x.part := rfl
@[simp] theorem Paddock.setRegion_dclean (x : Paddock) (v : Region) : (x.setRegion n v).dclean = x.dclean := rfl
@[simp] theorem Paddock.setRegion_lastPart (x : Paddock) (v : Region) : (x.setRegion n v).lastPart = x.lastPart := rfl
@[simp] theorem Paddock.setRegion_ctxs (x : Paddock) (v : Region) : (x.setRegion n v).ctxs = x.ctxs := rfl
@[simp] theorem Paddock.setRegion_tiles (x : Paddock) (v : Region) : (x.setRegion n v).tiles = x.tiles := rfl
@[simp] theorem Paddock.setRegion_tasks (x : Paddock) (v : Region) : (x.setRegion n v).tasks = x.tasks := rfl
@[simp] theorem Paddock.setRegion_bids (x : Paddock) (v : Region) : (x.setRegion n v).bids = x.bids := rfl
@[simp] theorem Paddock.setRegion_holNext (x : Paddock) (v : Region) : (x.setRegion n v).holNext = x.holNext := rfl
@[simp] theorem Paddock.setRegion_bidNow (x : Paddock) (v : Region) : (x.setRegion n v).bidNow = x.bidNow := rfl
@[simp] theorem Paddock.setRegion_chains (x : Paddock) (v : Region) : (x.setRegion n v).chains = x.chains := rfl
@[simp] theorem Paddock.setRegion_rr (x : Paddock) (v : Region) : (x.setRegion n v).rr = x.rr := rfl
@[simp] theorem Paddock.setRegion_msgs (x : Paddock) (v : Region) : (x.setRegion n v).msgs = x.msgs := rfl
@[simp] theorem Paddock.setRegion_msgl (x : Paddock) (v : Region) : (x.setRegion n v).msgl = x.msgl := rfl
@[simp] theorem Paddock.setRegion_lqw (x : Paddock) (v : Region) : (x.setRegion n v).lqw = x.lqw := rfl
@[simp] theorem Paddock.setRegion_bypmax (x : Paddock) (v : Region) : (x.setRegion n v).bypmax = x.bypmax := rfl
@[simp] theorem Paddock.setRegion_spareq (x : Paddock) (v : Region) : (x.setRegion n v).spareq = x.spareq := rfl
@[simp] theorem Paddock.setRegion_scrubq (x : Paddock) (v : Region) : (x.setRegion n v).scrubq = x.scrubq := rfl
@[simp] theorem Paddock.setRegion_dec (x : Paddock) (v : Region) : (x.setRegion n v).dec = x.dec := rfl
@[simp] theorem Paddock.setRegion_cecnt (x : Paddock) (v : Region) : (x.setRegion n v).cecnt = x.cecnt := rfl
@[simp] theorem Paddock.setRegion_reenc (x : Paddock) (v : Region) : (x.setRegion n v).reenc = x.reenc := rfl
@[simp] theorem Paddock.setRegion_scrubAt (x : Paddock) (v : Region) : (x.setRegion n v).scrubAt = x.scrubAt := rfl
@[simp] theorem Paddock.setRegion_scrubbed (x : Paddock) (v : Region) : (x.setRegion n v).scrubbed = x.scrubbed := rfl
@[simp] theorem Paddock.setRegion_reencAt (x : Paddock) (v : Region) : (x.setRegion n v).reencAt = x.reencAt := rfl
@[simp] theorem Paddock.setRegion_stiletmo (x : Paddock) (v : Region) : (x.setRegion n v).stiletmo = x.stiletmo := rfl
@[simp] theorem Paddock.setRegion_spares (x : Paddock) (v : Region) : (x.setRegion n v).spares = x.spares := rfl
@[simp] theorem Paddock.setRegion_trace (x : Paddock) (v : Region) : (x.setRegion n v).trace = x.trace := rfl
@[simp] theorem Paddock.setRegion_tlb (x : Paddock) (v : Region) : (x.setRegion n v).tlb = x.tlb := rfl
@[simp] theorem Paddock.setRegion_fused (x : Paddock) (v : Region) : (x.setRegion n v).fused = x.fused := rfl
@[simp] theorem Paddock.setRegion_prg (x : Paddock) (v : Region) : (x.setRegion n v).prg = x.prg := rfl
@[simp] theorem Paddock.setRegion_ran (x : Paddock) (v : Region) : (x.setRegion n v).ran = x.ran := rfl
@[simp] theorem Paddock.setRegion_stalled (x : Paddock) (v : Region) : (x.setRegion n v).stalled = x.stalled := rfl
@[simp] theorem Paddock.setRegion_badLines (x : Paddock) (v : Region) : (x.setRegion n v).badLines = x.badLines := rfl
@[simp] theorem Paddock.setRegion_softLines (x : Paddock) (v : Region) : (x.setRegion n v).softLines = x.softLines := rfl
@[simp] theorem Paddock.setRegion_bell (x : Paddock) (v : Region) : (x.setRegion n v).bell = x.bell := rfl
@[simp] theorem Paddock.setRegion_late (x : Paddock) (v : Region) : (x.setRegion n v).late = x.late := rfl
@[simp] theorem Paddock.setRegion_behind (x : Paddock) (v : Region) : (x.setRegion n v).behind = x.behind := rfl
@[simp] theorem Paddock.ctx_setRegion (x : Paddock) (v : Region) : (x.setRegion n v).ctx k = x.ctx k := rfl
@[simp] theorem Paddock.tile_setRegion (x : Paddock) (v : Region) : (x.setRegion n v).tile k = x.tile k := rfl
@[simp] theorem Paddock.task_setRegion (x : Paddock) (v : Region) : (x.setRegion n v).task k = x.task k := rfl
@[simp] theorem Paddock.chain_setRegion (x : Paddock) (v : Region) : (x.setRegion n v).chain k = x.chain k := rfl
@[simp] theorem State.ctx_setRegion (v : Region) : (s.setRegion p n v).ctx q k = s.ctx q k := by
  by_cases h : q = p <;> simp [State.ctx, State.setRegion, h]
@[simp] theorem State.tile_setRegion (v : Region) : (s.setRegion p n v).tile q k = s.tile q k := by
  by_cases h : q = p <;> simp [State.tile, State.setRegion, h]
@[simp] theorem State.task_setRegion (v : Region) : (s.setRegion p n v).task q k = s.task q k := by
  by_cases h : q = p <;> simp [State.task, State.setRegion, h]
@[simp] theorem State.chain_setRegion (v : Region) : (s.setRegion p n v).chain q k = s.chain q k := by
  by_cases h : q = p <;> simp [State.chain, State.setRegion, h]
@[simp] theorem Paddock.setTask_fc (x : Paddock) (v : Task) : (x.setTask n v).fc = x.fc := rfl
@[simp] theorem Paddock.setTask_cycle (x : Paddock) (v : Task) : (x.setTask n v).cycle = x.cycle := rfl
@[simp] theorem Paddock.setTask_next (x : Paddock) (v : Task) : (x.setTask n v).next = x.next := rfl
@[simp] theorem Paddock.setTask_up (x : Paddock) (v : Task) : (x.setTask n v).up = x.up := rfl
@[simp] theorem Paddock.setTask_down (x : Paddock) (v : Task) : (x.setTask n v).down = x.down := rfl
@[simp] theorem Paddock.setTask_ceil (x : Paddock) (v : Task) : (x.setTask n v).ceil = x.ceil := rfl
@[simp] theorem Paddock.setTask_clamp (x : Paddock) (v : Task) : (x.setTask n v).clamp = x.clamp := rfl
@[simp] theorem Paddock.setTask_gatedF3 (x : Paddock) (v : Task) : (x.setTask n v).gatedF3 = x.gatedF3 := rfl
@[simp] theorem Paddock.setTask_gate (x : Paddock) (v : Task) : (x.setTask n v).gate = x.gate := rfl
@[simp] theorem Paddock.setTask_resetDue (x : Paddock) (v : Task) : (x.setTask n v).resetDue = x.resetDue := rfl
@[simp] theorem Paddock.setTask_part (x : Paddock) (v : Task) : (x.setTask n v).part = x.part := rfl
@[simp] theorem Paddock.setTask_dclean (x : Paddock) (v : Task) : (x.setTask n v).dclean = x.dclean := rfl
@[simp] theorem Paddock.setTask_lastPart (x : Paddock) (v : Task) : (x.setTask n v).lastPart = x.lastPart := rfl
@[simp] theorem Paddock.setTask_ctxs (x : Paddock) (v : Task) : (x.setTask n v).ctxs = x.ctxs := rfl
@[simp] theorem Paddock.setTask_tiles (x : Paddock) (v : Task) : (x.setTask n v).tiles = x.tiles := rfl
@[simp] theorem Paddock.setTask_regions (x : Paddock) (v : Task) : (x.setTask n v).regions = x.regions := rfl
@[simp] theorem Paddock.setTask_bids (x : Paddock) (v : Task) : (x.setTask n v).bids = x.bids := rfl
@[simp] theorem Paddock.setTask_holNext (x : Paddock) (v : Task) : (x.setTask n v).holNext = x.holNext := rfl
@[simp] theorem Paddock.setTask_bidNow (x : Paddock) (v : Task) : (x.setTask n v).bidNow = x.bidNow := rfl
@[simp] theorem Paddock.setTask_chains (x : Paddock) (v : Task) : (x.setTask n v).chains = x.chains := rfl
@[simp] theorem Paddock.setTask_rr (x : Paddock) (v : Task) : (x.setTask n v).rr = x.rr := rfl
@[simp] theorem Paddock.setTask_msgs (x : Paddock) (v : Task) : (x.setTask n v).msgs = x.msgs := rfl
@[simp] theorem Paddock.setTask_msgl (x : Paddock) (v : Task) : (x.setTask n v).msgl = x.msgl := rfl
@[simp] theorem Paddock.setTask_lqw (x : Paddock) (v : Task) : (x.setTask n v).lqw = x.lqw := rfl
@[simp] theorem Paddock.setTask_bypmax (x : Paddock) (v : Task) : (x.setTask n v).bypmax = x.bypmax := rfl
@[simp] theorem Paddock.setTask_spareq (x : Paddock) (v : Task) : (x.setTask n v).spareq = x.spareq := rfl
@[simp] theorem Paddock.setTask_scrubq (x : Paddock) (v : Task) : (x.setTask n v).scrubq = x.scrubq := rfl
@[simp] theorem Paddock.setTask_dec (x : Paddock) (v : Task) : (x.setTask n v).dec = x.dec := rfl
@[simp] theorem Paddock.setTask_cecnt (x : Paddock) (v : Task) : (x.setTask n v).cecnt = x.cecnt := rfl
@[simp] theorem Paddock.setTask_reenc (x : Paddock) (v : Task) : (x.setTask n v).reenc = x.reenc := rfl
@[simp] theorem Paddock.setTask_scrubAt (x : Paddock) (v : Task) : (x.setTask n v).scrubAt = x.scrubAt := rfl
@[simp] theorem Paddock.setTask_scrubbed (x : Paddock) (v : Task) : (x.setTask n v).scrubbed = x.scrubbed := rfl
@[simp] theorem Paddock.setTask_reencAt (x : Paddock) (v : Task) : (x.setTask n v).reencAt = x.reencAt := rfl
@[simp] theorem Paddock.setTask_stiletmo (x : Paddock) (v : Task) : (x.setTask n v).stiletmo = x.stiletmo := rfl
@[simp] theorem Paddock.setTask_spares (x : Paddock) (v : Task) : (x.setTask n v).spares = x.spares := rfl
@[simp] theorem Paddock.setTask_trace (x : Paddock) (v : Task) : (x.setTask n v).trace = x.trace := rfl
@[simp] theorem Paddock.setTask_tlb (x : Paddock) (v : Task) : (x.setTask n v).tlb = x.tlb := rfl
@[simp] theorem Paddock.setTask_fused (x : Paddock) (v : Task) : (x.setTask n v).fused = x.fused := rfl
@[simp] theorem Paddock.setTask_prg (x : Paddock) (v : Task) : (x.setTask n v).prg = x.prg := rfl
@[simp] theorem Paddock.setTask_ran (x : Paddock) (v : Task) : (x.setTask n v).ran = x.ran := rfl
@[simp] theorem Paddock.setTask_stalled (x : Paddock) (v : Task) : (x.setTask n v).stalled = x.stalled := rfl
@[simp] theorem Paddock.setTask_badLines (x : Paddock) (v : Task) : (x.setTask n v).badLines = x.badLines := rfl
@[simp] theorem Paddock.setTask_softLines (x : Paddock) (v : Task) : (x.setTask n v).softLines = x.softLines := rfl
@[simp] theorem Paddock.setTask_bell (x : Paddock) (v : Task) : (x.setTask n v).bell = x.bell := rfl
@[simp] theorem Paddock.setTask_late (x : Paddock) (v : Task) : (x.setTask n v).late = x.late := rfl
@[simp] theorem Paddock.setTask_behind (x : Paddock) (v : Task) : (x.setTask n v).behind = x.behind := rfl
@[simp] theorem Paddock.ctx_setTask (x : Paddock) (v : Task) : (x.setTask n v).ctx k = x.ctx k := rfl
@[simp] theorem Paddock.tile_setTask (x : Paddock) (v : Task) : (x.setTask n v).tile k = x.tile k := rfl
@[simp] theorem Paddock.region_setTask (x : Paddock) (v : Task) : (x.setTask n v).region k = x.region k := rfl
@[simp] theorem Paddock.chain_setTask (x : Paddock) (v : Task) : (x.setTask n v).chain k = x.chain k := rfl
@[simp] theorem State.ctx_setTask (v : Task) : (s.setTask p n v).ctx q k = s.ctx q k := by
  by_cases h : q = p <;> simp [State.ctx, State.setTask, h]
@[simp] theorem State.tile_setTask (v : Task) : (s.setTask p n v).tile q k = s.tile q k := by
  by_cases h : q = p <;> simp [State.tile, State.setTask, h]
@[simp] theorem State.region_setTask (v : Task) : (s.setTask p n v).region q k = s.region q k := by
  by_cases h : q = p <;> simp [State.region, State.setTask, h]
@[simp] theorem State.chain_setTask (v : Task) : (s.setTask p n v).chain q k = s.chain q k := by
  by_cases h : q = p <;> simp [State.chain, State.setTask, h]
@[simp] theorem Paddock.setChain_fc (x : Paddock) (v : Chain) : (x.setChain n v).fc = x.fc := rfl
@[simp] theorem Paddock.setChain_cycle (x : Paddock) (v : Chain) : (x.setChain n v).cycle = x.cycle := rfl
@[simp] theorem Paddock.setChain_next (x : Paddock) (v : Chain) : (x.setChain n v).next = x.next := rfl
@[simp] theorem Paddock.setChain_up (x : Paddock) (v : Chain) : (x.setChain n v).up = x.up := rfl
@[simp] theorem Paddock.setChain_down (x : Paddock) (v : Chain) : (x.setChain n v).down = x.down := rfl
@[simp] theorem Paddock.setChain_ceil (x : Paddock) (v : Chain) : (x.setChain n v).ceil = x.ceil := rfl
@[simp] theorem Paddock.setChain_clamp (x : Paddock) (v : Chain) : (x.setChain n v).clamp = x.clamp := rfl
@[simp] theorem Paddock.setChain_gatedF3 (x : Paddock) (v : Chain) : (x.setChain n v).gatedF3 = x.gatedF3 := rfl
@[simp] theorem Paddock.setChain_gate (x : Paddock) (v : Chain) : (x.setChain n v).gate = x.gate := rfl
@[simp] theorem Paddock.setChain_resetDue (x : Paddock) (v : Chain) : (x.setChain n v).resetDue = x.resetDue := rfl
@[simp] theorem Paddock.setChain_part (x : Paddock) (v : Chain) : (x.setChain n v).part = x.part := rfl
@[simp] theorem Paddock.setChain_dclean (x : Paddock) (v : Chain) : (x.setChain n v).dclean = x.dclean := rfl
@[simp] theorem Paddock.setChain_lastPart (x : Paddock) (v : Chain) : (x.setChain n v).lastPart = x.lastPart := rfl
@[simp] theorem Paddock.setChain_ctxs (x : Paddock) (v : Chain) : (x.setChain n v).ctxs = x.ctxs := rfl
@[simp] theorem Paddock.setChain_tiles (x : Paddock) (v : Chain) : (x.setChain n v).tiles = x.tiles := rfl
@[simp] theorem Paddock.setChain_regions (x : Paddock) (v : Chain) : (x.setChain n v).regions = x.regions := rfl
@[simp] theorem Paddock.setChain_tasks (x : Paddock) (v : Chain) : (x.setChain n v).tasks = x.tasks := rfl
@[simp] theorem Paddock.setChain_bids (x : Paddock) (v : Chain) : (x.setChain n v).bids = x.bids := rfl
@[simp] theorem Paddock.setChain_holNext (x : Paddock) (v : Chain) : (x.setChain n v).holNext = x.holNext := rfl
@[simp] theorem Paddock.setChain_bidNow (x : Paddock) (v : Chain) : (x.setChain n v).bidNow = x.bidNow := rfl
@[simp] theorem Paddock.setChain_rr (x : Paddock) (v : Chain) : (x.setChain n v).rr = x.rr := rfl
@[simp] theorem Paddock.setChain_msgs (x : Paddock) (v : Chain) : (x.setChain n v).msgs = x.msgs := rfl
@[simp] theorem Paddock.setChain_msgl (x : Paddock) (v : Chain) : (x.setChain n v).msgl = x.msgl := rfl
@[simp] theorem Paddock.setChain_lqw (x : Paddock) (v : Chain) : (x.setChain n v).lqw = x.lqw := rfl
@[simp] theorem Paddock.setChain_bypmax (x : Paddock) (v : Chain) : (x.setChain n v).bypmax = x.bypmax := rfl
@[simp] theorem Paddock.setChain_spareq (x : Paddock) (v : Chain) : (x.setChain n v).spareq = x.spareq := rfl
@[simp] theorem Paddock.setChain_scrubq (x : Paddock) (v : Chain) : (x.setChain n v).scrubq = x.scrubq := rfl
@[simp] theorem Paddock.setChain_dec (x : Paddock) (v : Chain) : (x.setChain n v).dec = x.dec := rfl
@[simp] theorem Paddock.setChain_cecnt (x : Paddock) (v : Chain) : (x.setChain n v).cecnt = x.cecnt := rfl
@[simp] theorem Paddock.setChain_reenc (x : Paddock) (v : Chain) : (x.setChain n v).reenc = x.reenc := rfl
@[simp] theorem Paddock.setChain_scrubAt (x : Paddock) (v : Chain) : (x.setChain n v).scrubAt = x.scrubAt := rfl
@[simp] theorem Paddock.setChain_scrubbed (x : Paddock) (v : Chain) : (x.setChain n v).scrubbed = x.scrubbed := rfl
@[simp] theorem Paddock.setChain_reencAt (x : Paddock) (v : Chain) : (x.setChain n v).reencAt = x.reencAt := rfl
@[simp] theorem Paddock.setChain_stiletmo (x : Paddock) (v : Chain) : (x.setChain n v).stiletmo = x.stiletmo := rfl
@[simp] theorem Paddock.setChain_spares (x : Paddock) (v : Chain) : (x.setChain n v).spares = x.spares := rfl
@[simp] theorem Paddock.setChain_trace (x : Paddock) (v : Chain) : (x.setChain n v).trace = x.trace := rfl
@[simp] theorem Paddock.setChain_tlb (x : Paddock) (v : Chain) : (x.setChain n v).tlb = x.tlb := rfl
@[simp] theorem Paddock.setChain_fused (x : Paddock) (v : Chain) : (x.setChain n v).fused = x.fused := rfl
@[simp] theorem Paddock.setChain_prg (x : Paddock) (v : Chain) : (x.setChain n v).prg = x.prg := rfl
@[simp] theorem Paddock.setChain_ran (x : Paddock) (v : Chain) : (x.setChain n v).ran = x.ran := rfl
@[simp] theorem Paddock.setChain_stalled (x : Paddock) (v : Chain) : (x.setChain n v).stalled = x.stalled := rfl
@[simp] theorem Paddock.setChain_badLines (x : Paddock) (v : Chain) : (x.setChain n v).badLines = x.badLines := rfl
@[simp] theorem Paddock.setChain_softLines (x : Paddock) (v : Chain) : (x.setChain n v).softLines = x.softLines := rfl
@[simp] theorem Paddock.setChain_bell (x : Paddock) (v : Chain) : (x.setChain n v).bell = x.bell := rfl
@[simp] theorem Paddock.setChain_late (x : Paddock) (v : Chain) : (x.setChain n v).late = x.late := rfl
@[simp] theorem Paddock.setChain_behind (x : Paddock) (v : Chain) : (x.setChain n v).behind = x.behind := rfl
@[simp] theorem Paddock.ctx_setChain (x : Paddock) (v : Chain) : (x.setChain n v).ctx k = x.ctx k := rfl
@[simp] theorem Paddock.tile_setChain (x : Paddock) (v : Chain) : (x.setChain n v).tile k = x.tile k := rfl
@[simp] theorem Paddock.region_setChain (x : Paddock) (v : Chain) : (x.setChain n v).region k = x.region k := rfl
@[simp] theorem Paddock.task_setChain (x : Paddock) (v : Chain) : (x.setChain n v).task k = x.task k := rfl
@[simp] theorem State.ctx_setChain (v : Chain) : (s.setChain p n v).ctx q k = s.ctx q k := by
  by_cases h : q = p <;> simp [State.ctx, State.setChain, h]
@[simp] theorem State.tile_setChain (v : Chain) : (s.setChain p n v).tile q k = s.tile q k := by
  by_cases h : q = p <;> simp [State.tile, State.setChain, h]
@[simp] theorem State.region_setChain (v : Chain) : (s.setChain p n v).region q k = s.region q k := by
  by_cases h : q = p <;> simp [State.region, State.setChain, h]
@[simp] theorem State.task_setChain (v : Chain) : (s.setChain p n v).task q k = s.task q k := by
  by_cases h : q = p <;> simp [State.task, State.setChain, h]

/-! ## Fields of the module that an update of a paddock leaves -/

@[simp] theorem State.setPad_mem (x : Paddock) : (s.setPad p x).mem = s.mem := rfl
@[simp] theorem State.setPad_dram (x : Paddock) : (s.setPad p x).dram = s.dram := rfl
@[simp] theorem State.setPad_host (x : Paddock) : (s.setPad p x).host = s.host := rfl
@[simp] theorem State.setPad_parts (x : Paddock) : (s.setPad p x).parts = s.parts := rfl
@[simp] theorem State.setPad_roots (x : Paddock) : (s.setPad p x).roots = s.roots := rfl
@[simp] theorem State.setPad_groups (x : Paddock) : (s.setPad p x).groups = s.groups := rfl
@[simp] theorem State.setPad_linkWins (x : Paddock) : (s.setPad p x).linkWins = s.linkWins := rfl
@[simp] theorem State.setPad_chStiles (x : Paddock) : (s.setPad p x).chStiles = s.chStiles := rfl
@[simp] theorem State.setPad_mStiles (x : Paddock) : (s.setPad p x).mStiles = s.mStiles := rfl
@[simp] theorem State.setPad_links (x : Paddock) : (s.setPad p x).links = s.links := rfl
@[simp] theorem State.setPad_vfs (x : Paddock) : (s.setPad p x).vfs = s.vfs := rfl
@[simp] theorem State.setPad_ats (x : Paddock) : (s.setPad p x).ats = s.ats := rfl
@[simp] theorem State.setPad_box (x : Paddock) : (s.setPad p x).box = s.box := rfl
@[simp] theorem State.setPad_nv (x : Paddock) : (s.setPad p x).nv = s.nv := rfl
@[simp] theorem State.setPad_boot (x : Paddock) : (s.setPad p x).boot = s.boot := rfl
@[simp] theorem State.setPad_plim (x : Paddock) : (s.setPad p x).plim = s.plim := rfl
@[simp] theorem State.setPad_lowered (x : Paddock) : (s.setPad p x).lowered = s.lowered := rfl
@[simp] theorem State.setPad_now (x : Paddock) : (s.setPad p x).now = s.now := rfl
@[simp] theorem State.setPad_waiting (x : Paddock) : (s.setPad p x).waiting = s.waiting := rfl
@[simp] theorem State.setPad_agenda (x : Paddock) : (s.setPad p x).agenda = s.agenda := rfl
@[simp] theorem State.setPad_cur (x : Paddock) : (s.setPad p x).cur = s.cur := rfl
@[simp] theorem State.setPad_free (x : Paddock) : (s.setPad p x).free = s.free := rfl
@[simp] theorem State.setPad_inputs (x : Paddock) : (s.setPad p x).inputs = s.inputs := rfl
@[simp] theorem State.setCtx_mem (v : Ctx) : (s.setCtx p n v).mem = s.mem := rfl
@[simp] theorem State.setCtx_dram (v : Ctx) : (s.setCtx p n v).dram = s.dram := rfl
@[simp] theorem State.setCtx_host (v : Ctx) : (s.setCtx p n v).host = s.host := rfl
@[simp] theorem State.setCtx_parts (v : Ctx) : (s.setCtx p n v).parts = s.parts := rfl
@[simp] theorem State.setCtx_roots (v : Ctx) : (s.setCtx p n v).roots = s.roots := rfl
@[simp] theorem State.setCtx_groups (v : Ctx) : (s.setCtx p n v).groups = s.groups := rfl
@[simp] theorem State.setCtx_linkWins (v : Ctx) : (s.setCtx p n v).linkWins = s.linkWins := rfl
@[simp] theorem State.setCtx_chStiles (v : Ctx) : (s.setCtx p n v).chStiles = s.chStiles := rfl
@[simp] theorem State.setCtx_mStiles (v : Ctx) : (s.setCtx p n v).mStiles = s.mStiles := rfl
@[simp] theorem State.setCtx_links (v : Ctx) : (s.setCtx p n v).links = s.links := rfl
@[simp] theorem State.setCtx_vfs (v : Ctx) : (s.setCtx p n v).vfs = s.vfs := rfl
@[simp] theorem State.setCtx_ats (v : Ctx) : (s.setCtx p n v).ats = s.ats := rfl
@[simp] theorem State.setCtx_box (v : Ctx) : (s.setCtx p n v).box = s.box := rfl
@[simp] theorem State.setCtx_nv (v : Ctx) : (s.setCtx p n v).nv = s.nv := rfl
@[simp] theorem State.setCtx_boot (v : Ctx) : (s.setCtx p n v).boot = s.boot := rfl
@[simp] theorem State.setCtx_plim (v : Ctx) : (s.setCtx p n v).plim = s.plim := rfl
@[simp] theorem State.setCtx_lowered (v : Ctx) : (s.setCtx p n v).lowered = s.lowered := rfl
@[simp] theorem State.setCtx_now (v : Ctx) : (s.setCtx p n v).now = s.now := rfl
@[simp] theorem State.setCtx_waiting (v : Ctx) : (s.setCtx p n v).waiting = s.waiting := rfl
@[simp] theorem State.setCtx_agenda (v : Ctx) : (s.setCtx p n v).agenda = s.agenda := rfl
@[simp] theorem State.setCtx_cur (v : Ctx) : (s.setCtx p n v).cur = s.cur := rfl
@[simp] theorem State.setCtx_free (v : Ctx) : (s.setCtx p n v).free = s.free := rfl
@[simp] theorem State.setCtx_inputs (v : Ctx) : (s.setCtx p n v).inputs = s.inputs := rfl
@[simp] theorem State.setTile_mem (v : Tile) : (s.setTile p n v).mem = s.mem := rfl
@[simp] theorem State.setTile_dram (v : Tile) : (s.setTile p n v).dram = s.dram := rfl
@[simp] theorem State.setTile_host (v : Tile) : (s.setTile p n v).host = s.host := rfl
@[simp] theorem State.setTile_parts (v : Tile) : (s.setTile p n v).parts = s.parts := rfl
@[simp] theorem State.setTile_roots (v : Tile) : (s.setTile p n v).roots = s.roots := rfl
@[simp] theorem State.setTile_groups (v : Tile) : (s.setTile p n v).groups = s.groups := rfl
@[simp] theorem State.setTile_linkWins (v : Tile) : (s.setTile p n v).linkWins = s.linkWins := rfl
@[simp] theorem State.setTile_chStiles (v : Tile) : (s.setTile p n v).chStiles = s.chStiles := rfl
@[simp] theorem State.setTile_mStiles (v : Tile) : (s.setTile p n v).mStiles = s.mStiles := rfl
@[simp] theorem State.setTile_links (v : Tile) : (s.setTile p n v).links = s.links := rfl
@[simp] theorem State.setTile_vfs (v : Tile) : (s.setTile p n v).vfs = s.vfs := rfl
@[simp] theorem State.setTile_ats (v : Tile) : (s.setTile p n v).ats = s.ats := rfl
@[simp] theorem State.setTile_box (v : Tile) : (s.setTile p n v).box = s.box := rfl
@[simp] theorem State.setTile_nv (v : Tile) : (s.setTile p n v).nv = s.nv := rfl
@[simp] theorem State.setTile_boot (v : Tile) : (s.setTile p n v).boot = s.boot := rfl
@[simp] theorem State.setTile_plim (v : Tile) : (s.setTile p n v).plim = s.plim := rfl
@[simp] theorem State.setTile_lowered (v : Tile) : (s.setTile p n v).lowered = s.lowered := rfl
@[simp] theorem State.setTile_now (v : Tile) : (s.setTile p n v).now = s.now := rfl
@[simp] theorem State.setTile_waiting (v : Tile) : (s.setTile p n v).waiting = s.waiting := rfl
@[simp] theorem State.setTile_agenda (v : Tile) : (s.setTile p n v).agenda = s.agenda := rfl
@[simp] theorem State.setTile_cur (v : Tile) : (s.setTile p n v).cur = s.cur := rfl
@[simp] theorem State.setTile_free (v : Tile) : (s.setTile p n v).free = s.free := rfl
@[simp] theorem State.setTile_inputs (v : Tile) : (s.setTile p n v).inputs = s.inputs := rfl
@[simp] theorem State.setRegion_mem (v : Region) : (s.setRegion p n v).mem = s.mem := rfl
@[simp] theorem State.setRegion_dram (v : Region) : (s.setRegion p n v).dram = s.dram := rfl
@[simp] theorem State.setRegion_host (v : Region) : (s.setRegion p n v).host = s.host := rfl
@[simp] theorem State.setRegion_parts (v : Region) : (s.setRegion p n v).parts = s.parts := rfl
@[simp] theorem State.setRegion_roots (v : Region) : (s.setRegion p n v).roots = s.roots := rfl
@[simp] theorem State.setRegion_groups (v : Region) : (s.setRegion p n v).groups = s.groups := rfl
@[simp] theorem State.setRegion_linkWins (v : Region) : (s.setRegion p n v).linkWins = s.linkWins := rfl
@[simp] theorem State.setRegion_chStiles (v : Region) : (s.setRegion p n v).chStiles = s.chStiles := rfl
@[simp] theorem State.setRegion_mStiles (v : Region) : (s.setRegion p n v).mStiles = s.mStiles := rfl
@[simp] theorem State.setRegion_links (v : Region) : (s.setRegion p n v).links = s.links := rfl
@[simp] theorem State.setRegion_vfs (v : Region) : (s.setRegion p n v).vfs = s.vfs := rfl
@[simp] theorem State.setRegion_ats (v : Region) : (s.setRegion p n v).ats = s.ats := rfl
@[simp] theorem State.setRegion_box (v : Region) : (s.setRegion p n v).box = s.box := rfl
@[simp] theorem State.setRegion_nv (v : Region) : (s.setRegion p n v).nv = s.nv := rfl
@[simp] theorem State.setRegion_boot (v : Region) : (s.setRegion p n v).boot = s.boot := rfl
@[simp] theorem State.setRegion_plim (v : Region) : (s.setRegion p n v).plim = s.plim := rfl
@[simp] theorem State.setRegion_lowered (v : Region) : (s.setRegion p n v).lowered = s.lowered := rfl
@[simp] theorem State.setRegion_now (v : Region) : (s.setRegion p n v).now = s.now := rfl
@[simp] theorem State.setRegion_waiting (v : Region) : (s.setRegion p n v).waiting = s.waiting := rfl
@[simp] theorem State.setRegion_agenda (v : Region) : (s.setRegion p n v).agenda = s.agenda := rfl
@[simp] theorem State.setRegion_cur (v : Region) : (s.setRegion p n v).cur = s.cur := rfl
@[simp] theorem State.setRegion_free (v : Region) : (s.setRegion p n v).free = s.free := rfl
@[simp] theorem State.setRegion_inputs (v : Region) : (s.setRegion p n v).inputs = s.inputs := rfl
@[simp] theorem State.setTask_mem (v : Task) : (s.setTask p n v).mem = s.mem := rfl
@[simp] theorem State.setTask_dram (v : Task) : (s.setTask p n v).dram = s.dram := rfl
@[simp] theorem State.setTask_host (v : Task) : (s.setTask p n v).host = s.host := rfl
@[simp] theorem State.setTask_parts (v : Task) : (s.setTask p n v).parts = s.parts := rfl
@[simp] theorem State.setTask_roots (v : Task) : (s.setTask p n v).roots = s.roots := rfl
@[simp] theorem State.setTask_groups (v : Task) : (s.setTask p n v).groups = s.groups := rfl
@[simp] theorem State.setTask_linkWins (v : Task) : (s.setTask p n v).linkWins = s.linkWins := rfl
@[simp] theorem State.setTask_chStiles (v : Task) : (s.setTask p n v).chStiles = s.chStiles := rfl
@[simp] theorem State.setTask_mStiles (v : Task) : (s.setTask p n v).mStiles = s.mStiles := rfl
@[simp] theorem State.setTask_links (v : Task) : (s.setTask p n v).links = s.links := rfl
@[simp] theorem State.setTask_vfs (v : Task) : (s.setTask p n v).vfs = s.vfs := rfl
@[simp] theorem State.setTask_ats (v : Task) : (s.setTask p n v).ats = s.ats := rfl
@[simp] theorem State.setTask_box (v : Task) : (s.setTask p n v).box = s.box := rfl
@[simp] theorem State.setTask_nv (v : Task) : (s.setTask p n v).nv = s.nv := rfl
@[simp] theorem State.setTask_boot (v : Task) : (s.setTask p n v).boot = s.boot := rfl
@[simp] theorem State.setTask_plim (v : Task) : (s.setTask p n v).plim = s.plim := rfl
@[simp] theorem State.setTask_lowered (v : Task) : (s.setTask p n v).lowered = s.lowered := rfl
@[simp] theorem State.setTask_now (v : Task) : (s.setTask p n v).now = s.now := rfl
@[simp] theorem State.setTask_waiting (v : Task) : (s.setTask p n v).waiting = s.waiting := rfl
@[simp] theorem State.setTask_agenda (v : Task) : (s.setTask p n v).agenda = s.agenda := rfl
@[simp] theorem State.setTask_cur (v : Task) : (s.setTask p n v).cur = s.cur := rfl
@[simp] theorem State.setTask_free (v : Task) : (s.setTask p n v).free = s.free := rfl
@[simp] theorem State.setTask_inputs (v : Task) : (s.setTask p n v).inputs = s.inputs := rfl
@[simp] theorem State.setChain_mem (v : Chain) : (s.setChain p n v).mem = s.mem := rfl
@[simp] theorem State.setChain_dram (v : Chain) : (s.setChain p n v).dram = s.dram := rfl
@[simp] theorem State.setChain_host (v : Chain) : (s.setChain p n v).host = s.host := rfl
@[simp] theorem State.setChain_parts (v : Chain) : (s.setChain p n v).parts = s.parts := rfl
@[simp] theorem State.setChain_roots (v : Chain) : (s.setChain p n v).roots = s.roots := rfl
@[simp] theorem State.setChain_groups (v : Chain) : (s.setChain p n v).groups = s.groups := rfl
@[simp] theorem State.setChain_linkWins (v : Chain) : (s.setChain p n v).linkWins = s.linkWins := rfl
@[simp] theorem State.setChain_chStiles (v : Chain) : (s.setChain p n v).chStiles = s.chStiles := rfl
@[simp] theorem State.setChain_mStiles (v : Chain) : (s.setChain p n v).mStiles = s.mStiles := rfl
@[simp] theorem State.setChain_links (v : Chain) : (s.setChain p n v).links = s.links := rfl
@[simp] theorem State.setChain_vfs (v : Chain) : (s.setChain p n v).vfs = s.vfs := rfl
@[simp] theorem State.setChain_ats (v : Chain) : (s.setChain p n v).ats = s.ats := rfl
@[simp] theorem State.setChain_box (v : Chain) : (s.setChain p n v).box = s.box := rfl
@[simp] theorem State.setChain_nv (v : Chain) : (s.setChain p n v).nv = s.nv := rfl
@[simp] theorem State.setChain_boot (v : Chain) : (s.setChain p n v).boot = s.boot := rfl
@[simp] theorem State.setChain_plim (v : Chain) : (s.setChain p n v).plim = s.plim := rfl
@[simp] theorem State.setChain_lowered (v : Chain) : (s.setChain p n v).lowered = s.lowered := rfl
@[simp] theorem State.setChain_now (v : Chain) : (s.setChain p n v).now = s.now := rfl
@[simp] theorem State.setChain_waiting (v : Chain) : (s.setChain p n v).waiting = s.waiting := rfl
@[simp] theorem State.setChain_agenda (v : Chain) : (s.setChain p n v).agenda = s.agenda := rfl
@[simp] theorem State.setChain_cur (v : Chain) : (s.setChain p n v).cur = s.cur := rfl
@[simp] theorem State.setChain_free (v : Chain) : (s.setChain p n v).free = s.free := rfl
@[simp] theorem State.setChain_inputs (v : Chain) : (s.setChain p n v).inputs = s.inputs := rfl

/-! ## Fields of a context after the updates of an instruction -/

@[simp] theorem Ctx.charge_pc (c : Ctx) (a b : Nat) : (c.charge a b).pc = c.pc := rfl
@[simp] theorem Ctx.charge_regs (c : Ctx) (a b : Nat) : (c.charge a b).regs = c.regs := rfl
@[simp] theorem Ctx.charge_preds (c : Ctx) (a b : Nat) : (c.charge a b).preds = c.preds := rfl
@[simp] theorem Ctx.charge_tags (c : Ctx) (a b : Nat) : (c.charge a b).tags = c.tags := rfl
@[simp] theorem Ctx.charge_latch (c : Ctx) (a b : Nat) : (c.charge a b).latch = c.latch := rfl
@[simp] theorem Ctx.charge_inTrap (c : Ctx) (a b : Nat) : (c.charge a b).inTrap = c.inTrap := rfl
@[simp] theorem Ctx.charge_priv (c : Ctx) (a b : Nat) : (c.charge a b).priv = c.priv := rfl
@[simp] theorem Ctx.charge_tvec (c : Ctx) (a b : Nat) : (c.charge a b).tvec = c.tvec := rfl
@[simp] theorem Ctx.charge_epc (c : Ctx) (a b : Nat) : (c.charge a b).epc = c.epc := rfl
@[simp] theorem Ctx.charge_tcause (c : Ctx) (a b : Nat) : (c.charge a b).tcause = c.tcause := rfl
@[simp] theorem Ctx.charge_tval (c : Ctx) (a b : Nat) : (c.charge a b).tval = c.tval := rfl
@[simp] theorem Ctx.charge_tval2 (c : Ctx) (a b : Nat) : (c.charge a b).tval2 = c.tval2 := rfl
@[simp] theorem Ctx.charge_rights (c : Ctx) (a b : Nat) : (c.charge a b).rights = c.rights := rfl
@[simp] theorem Ctx.charge_contpt (c : Ctx) (a b : Nat) : (c.charge a b).contpt = c.contpt := rfl
@[simp] theorem Ctx.charge_tagmask (c : Ctx) (a b : Nat) : (c.charge a b).tagmask = c.tagmask := rfl
@[simp] theorem Ctx.charge_lrec (c : Ctx) (a b : Nat) : (c.charge a b).lrec = c.lrec := rfl
@[simp] theorem Ctx.charge_trbase (c : Ctx) (a b : Nat) : (c.charge a b).trbase = c.trbase := rfl
@[simp] theorem Ctx.charge_mcsel (c : Ctx) (a b : Nat) : (c.charge a b).mcsel = c.mcsel := rfl
@[simp] theorem Ctx.charge_halted (c : Ctx) (a b : Nat) : (c.charge a b).halted = c.halted := rfl
@[simp] theorem Ctx.charge_wasHalted (c : Ctx) (a b : Nat) : (c.charge a b).wasHalted = c.wasHalted := rfl
@[simp] theorem Ctx.charge_haltCode (c : Ctx) (a b : Nat) : (c.charge a b).haltCode = c.haltCode := rfl
@[simp] theorem Ctx.charge_saved (c : Ctx) (a b : Nat) : (c.charge a b).saved = c.saved := rfl
@[simp] theorem Ctx.charge_deficit (c : Ctx) (a b : Nat) : (c.charge a b).deficit = c.deficit := rfl
@[simp] theorem Ctx.charge_wait (c : Ctx) (a b : Nat) : (c.charge a b).wait = c.wait := rfl
@[simp] theorem Ctx.charge_reports (c : Ctx) (a b : Nat) : (c.charge a b).reports = c.reports := rfl
@[simp] theorem Ctx.charge_serving (c : Ctx) (a b : Nat) : (c.charge a b).serving = c.serving := rfl
@[simp] theorem Ctx.charge_launch (c : Ctx) (a b : Nat) : (c.charge a b).launch = c.launch := rfl
@[simp] theorem Ctx.charge_setNow (c : Ctx) (a b : Nat) : (c.charge a b).setNow = c.setNow := rfl
@[simp] theorem Ctx.charge_hostWrite (c : Ctx) (a b : Nat) : (c.charge a b).hostWrite = c.hostWrite := rfl
@[simp] theorem Ctx.charge_since (c : Ctx) (a b : Nat) : (c.charge a b).since = c.since := rfl
@[simp] theorem Ctx.charge_subAddr (c : Ctx) (a b : Nat) : (c.charge a b).subAddr = c.subAddr := rfl
@[simp] theorem Ctx.charge_result (c : Ctx) (a b : Nat) : (c.charge a b).result = c.result := rfl
@[simp] theorem Ctx.adv_regs (c : Ctx)  : (c.adv).regs = c.regs := rfl
@[simp] theorem Ctx.adv_preds (c : Ctx)  : (c.adv).preds = c.preds := rfl
@[simp] theorem Ctx.adv_tags (c : Ctx)  : (c.adv).tags = c.tags := rfl
@[simp] theorem Ctx.adv_latch (c : Ctx)  : (c.adv).latch = c.latch := rfl
@[simp] theorem Ctx.adv_inTrap (c : Ctx)  : (c.adv).inTrap = c.inTrap := rfl
@[simp] theorem Ctx.adv_priv (c : Ctx)  : (c.adv).priv = c.priv := rfl
@[simp] theorem Ctx.adv_tvec (c : Ctx)  : (c.adv).tvec = c.tvec := rfl
@[simp] theorem Ctx.adv_epc (c : Ctx)  : (c.adv).epc = c.epc := rfl
@[simp] theorem Ctx.adv_tcause (c : Ctx)  : (c.adv).tcause = c.tcause := rfl
@[simp] theorem Ctx.adv_tval (c : Ctx)  : (c.adv).tval = c.tval := rfl
@[simp] theorem Ctx.adv_tval2 (c : Ctx)  : (c.adv).tval2 = c.tval2 := rfl
@[simp] theorem Ctx.adv_rights (c : Ctx)  : (c.adv).rights = c.rights := rfl
@[simp] theorem Ctx.adv_ibud (c : Ctx)  : (c.adv).ibud = c.ibud := rfl
@[simp] theorem Ctx.adv_tbud (c : Ctx)  : (c.adv).tbud = c.tbud := rfl
@[simp] theorem Ctx.adv_contpt (c : Ctx)  : (c.adv).contpt = c.contpt := rfl
@[simp] theorem Ctx.adv_tagmask (c : Ctx)  : (c.adv).tagmask = c.tagmask := rfl
@[simp] theorem Ctx.adv_lrec (c : Ctx)  : (c.adv).lrec = c.lrec := rfl
@[simp] theorem Ctx.adv_trbase (c : Ctx)  : (c.adv).trbase = c.trbase := rfl
@[simp] theorem Ctx.adv_mcsel (c : Ctx)  : (c.adv).mcsel = c.mcsel := rfl
@[simp] theorem Ctx.adv_halted (c : Ctx)  : (c.adv).halted = c.halted := rfl
@[simp] theorem Ctx.adv_wasHalted (c : Ctx)  : (c.adv).wasHalted = c.wasHalted := rfl
@[simp] theorem Ctx.adv_haltCode (c : Ctx)  : (c.adv).haltCode = c.haltCode := rfl
@[simp] theorem Ctx.adv_saved (c : Ctx)  : (c.adv).saved = c.saved := rfl
@[simp] theorem Ctx.adv_deficit (c : Ctx)  : (c.adv).deficit = c.deficit := rfl
@[simp] theorem Ctx.adv_wait (c : Ctx)  : (c.adv).wait = c.wait := rfl
@[simp] theorem Ctx.adv_reports (c : Ctx)  : (c.adv).reports = c.reports := rfl
@[simp] theorem Ctx.adv_serving (c : Ctx)  : (c.adv).serving = c.serving := rfl
@[simp] theorem Ctx.adv_launch (c : Ctx)  : (c.adv).launch = c.launch := rfl
@[simp] theorem Ctx.adv_setNow (c : Ctx)  : (c.adv).setNow = c.setNow := rfl
@[simp] theorem Ctx.adv_hostWrite (c : Ctx)  : (c.adv).hostWrite = c.hostWrite := rfl
@[simp] theorem Ctx.adv_since (c : Ctx)  : (c.adv).since = c.since := rfl
@[simp] theorem Ctx.adv_subAddr (c : Ctx)  : (c.adv).subAddr = c.subAddr := rfl
@[simp] theorem Ctx.adv_result (c : Ctx)  : (c.adv).result = c.result := rfl
@[simp] theorem Ctx.setPr_pc (c : Ctx) (a : Nat) (b : Bool) : (c.setPr a b).pc = c.pc := rfl
@[simp] theorem Ctx.setPr_regs (c : Ctx) (a : Nat) (b : Bool) : (c.setPr a b).regs = c.regs := rfl
@[simp] theorem Ctx.setPr_tags (c : Ctx) (a : Nat) (b : Bool) : (c.setPr a b).tags = c.tags := rfl
@[simp] theorem Ctx.setPr_latch (c : Ctx) (a : Nat) (b : Bool) : (c.setPr a b).latch = c.latch := rfl
@[simp] theorem Ctx.setPr_inTrap (c : Ctx) (a : Nat) (b : Bool) : (c.setPr a b).inTrap = c.inTrap := rfl
@[simp] theorem Ctx.setPr_priv (c : Ctx) (a : Nat) (b : Bool) : (c.setPr a b).priv = c.priv := rfl
@[simp] theorem Ctx.setPr_tvec (c : Ctx) (a : Nat) (b : Bool) : (c.setPr a b).tvec = c.tvec := rfl
@[simp] theorem Ctx.setPr_epc (c : Ctx) (a : Nat) (b : Bool) : (c.setPr a b).epc = c.epc := rfl
@[simp] theorem Ctx.setPr_tcause (c : Ctx) (a : Nat) (b : Bool) : (c.setPr a b).tcause = c.tcause := rfl
@[simp] theorem Ctx.setPr_tval (c : Ctx) (a : Nat) (b : Bool) : (c.setPr a b).tval = c.tval := rfl
@[simp] theorem Ctx.setPr_tval2 (c : Ctx) (a : Nat) (b : Bool) : (c.setPr a b).tval2 = c.tval2 := rfl
@[simp] theorem Ctx.setPr_rights (c : Ctx) (a : Nat) (b : Bool) : (c.setPr a b).rights = c.rights := rfl
@[simp] theorem Ctx.setPr_ibud (c : Ctx) (a : Nat) (b : Bool) : (c.setPr a b).ibud = c.ibud := rfl
@[simp] theorem Ctx.setPr_tbud (c : Ctx) (a : Nat) (b : Bool) : (c.setPr a b).tbud = c.tbud := rfl
@[simp] theorem Ctx.setPr_contpt (c : Ctx) (a : Nat) (b : Bool) : (c.setPr a b).contpt = c.contpt := rfl
@[simp] theorem Ctx.setPr_tagmask (c : Ctx) (a : Nat) (b : Bool) : (c.setPr a b).tagmask = c.tagmask := rfl
@[simp] theorem Ctx.setPr_lrec (c : Ctx) (a : Nat) (b : Bool) : (c.setPr a b).lrec = c.lrec := rfl
@[simp] theorem Ctx.setPr_trbase (c : Ctx) (a : Nat) (b : Bool) : (c.setPr a b).trbase = c.trbase := rfl
@[simp] theorem Ctx.setPr_mcsel (c : Ctx) (a : Nat) (b : Bool) : (c.setPr a b).mcsel = c.mcsel := rfl
@[simp] theorem Ctx.setPr_halted (c : Ctx) (a : Nat) (b : Bool) : (c.setPr a b).halted = c.halted := rfl
@[simp] theorem Ctx.setPr_wasHalted (c : Ctx) (a : Nat) (b : Bool) : (c.setPr a b).wasHalted = c.wasHalted := rfl
@[simp] theorem Ctx.setPr_haltCode (c : Ctx) (a : Nat) (b : Bool) : (c.setPr a b).haltCode = c.haltCode := rfl
@[simp] theorem Ctx.setPr_saved (c : Ctx) (a : Nat) (b : Bool) : (c.setPr a b).saved = c.saved := rfl
@[simp] theorem Ctx.setPr_deficit (c : Ctx) (a : Nat) (b : Bool) : (c.setPr a b).deficit = c.deficit := rfl
@[simp] theorem Ctx.setPr_wait (c : Ctx) (a : Nat) (b : Bool) : (c.setPr a b).wait = c.wait := rfl
@[simp] theorem Ctx.setPr_reports (c : Ctx) (a : Nat) (b : Bool) : (c.setPr a b).reports = c.reports := rfl
@[simp] theorem Ctx.setPr_serving (c : Ctx) (a : Nat) (b : Bool) : (c.setPr a b).serving = c.serving := rfl
@[simp] theorem Ctx.setPr_launch (c : Ctx) (a : Nat) (b : Bool) : (c.setPr a b).launch = c.launch := rfl
@[simp] theorem Ctx.setPr_setNow (c : Ctx) (a : Nat) (b : Bool) : (c.setPr a b).setNow = c.setNow := rfl
@[simp] theorem Ctx.setPr_hostWrite (c : Ctx) (a : Nat) (b : Bool) : (c.setPr a b).hostWrite = c.hostWrite := rfl
@[simp] theorem Ctx.setPr_since (c : Ctx) (a : Nat) (b : Bool) : (c.setPr a b).since = c.since := rfl
@[simp] theorem Ctx.setPr_subAddr (c : Ctx) (a : Nat) (b : Bool) : (c.setPr a b).subAddr = c.subAddr := rfl
@[simp] theorem Ctx.setPr_result (c : Ctx) (a : Nat) (b : Bool) : (c.setPr a b).result = c.result := rfl
@[simp] theorem Ctx.wr_pc (c : Ctx) (d : BitVec 5) (v : BitVec 64) : (c.wr d v).pc = c.pc := by
  simp only [Ctx.wr]; split <;> rfl
@[simp] theorem Ctx.wr_preds (c : Ctx) (d : BitVec 5) (v : BitVec 64) : (c.wr d v).preds = c.preds := by
  simp only [Ctx.wr]; split <;> rfl
@[simp] theorem Ctx.wr_tags (c : Ctx) (d : BitVec 5) (v : BitVec 64) : (c.wr d v).tags = c.tags := by
  simp only [Ctx.wr]; split <;> rfl
@[simp] theorem Ctx.wr_latch (c : Ctx) (d : BitVec 5) (v : BitVec 64) : (c.wr d v).latch = c.latch := by
  simp only [Ctx.wr]; split <;> rfl
@[simp] theorem Ctx.wr_inTrap (c : Ctx) (d : BitVec 5) (v : BitVec 64) : (c.wr d v).inTrap = c.inTrap := by
  simp only [Ctx.wr]; split <;> rfl
@[simp] theorem Ctx.wr_priv (c : Ctx) (d : BitVec 5) (v : BitVec 64) : (c.wr d v).priv = c.priv := by
  simp only [Ctx.wr]; split <;> rfl
@[simp] theorem Ctx.wr_tvec (c : Ctx) (d : BitVec 5) (v : BitVec 64) : (c.wr d v).tvec = c.tvec := by
  simp only [Ctx.wr]; split <;> rfl
@[simp] theorem Ctx.wr_epc (c : Ctx) (d : BitVec 5) (v : BitVec 64) : (c.wr d v).epc = c.epc := by
  simp only [Ctx.wr]; split <;> rfl
@[simp] theorem Ctx.wr_tcause (c : Ctx) (d : BitVec 5) (v : BitVec 64) : (c.wr d v).tcause = c.tcause := by
  simp only [Ctx.wr]; split <;> rfl
@[simp] theorem Ctx.wr_tval (c : Ctx) (d : BitVec 5) (v : BitVec 64) : (c.wr d v).tval = c.tval := by
  simp only [Ctx.wr]; split <;> rfl
@[simp] theorem Ctx.wr_tval2 (c : Ctx) (d : BitVec 5) (v : BitVec 64) : (c.wr d v).tval2 = c.tval2 := by
  simp only [Ctx.wr]; split <;> rfl
@[simp] theorem Ctx.wr_rights (c : Ctx) (d : BitVec 5) (v : BitVec 64) : (c.wr d v).rights = c.rights := by
  simp only [Ctx.wr]; split <;> rfl
@[simp] theorem Ctx.wr_ibud (c : Ctx) (d : BitVec 5) (v : BitVec 64) : (c.wr d v).ibud = c.ibud := by
  simp only [Ctx.wr]; split <;> rfl
@[simp] theorem Ctx.wr_tbud (c : Ctx) (d : BitVec 5) (v : BitVec 64) : (c.wr d v).tbud = c.tbud := by
  simp only [Ctx.wr]; split <;> rfl
@[simp] theorem Ctx.wr_contpt (c : Ctx) (d : BitVec 5) (v : BitVec 64) : (c.wr d v).contpt = c.contpt := by
  simp only [Ctx.wr]; split <;> rfl
@[simp] theorem Ctx.wr_tagmask (c : Ctx) (d : BitVec 5) (v : BitVec 64) : (c.wr d v).tagmask = c.tagmask := by
  simp only [Ctx.wr]; split <;> rfl
@[simp] theorem Ctx.wr_lrec (c : Ctx) (d : BitVec 5) (v : BitVec 64) : (c.wr d v).lrec = c.lrec := by
  simp only [Ctx.wr]; split <;> rfl
@[simp] theorem Ctx.wr_trbase (c : Ctx) (d : BitVec 5) (v : BitVec 64) : (c.wr d v).trbase = c.trbase := by
  simp only [Ctx.wr]; split <;> rfl
@[simp] theorem Ctx.wr_mcsel (c : Ctx) (d : BitVec 5) (v : BitVec 64) : (c.wr d v).mcsel = c.mcsel := by
  simp only [Ctx.wr]; split <;> rfl
@[simp] theorem Ctx.wr_halted (c : Ctx) (d : BitVec 5) (v : BitVec 64) : (c.wr d v).halted = c.halted := by
  simp only [Ctx.wr]; split <;> rfl
@[simp] theorem Ctx.wr_haltCode (c : Ctx) (d : BitVec 5) (v : BitVec 64) : (c.wr d v).haltCode = c.haltCode := by
  simp only [Ctx.wr]; split <;> rfl
@[simp] theorem Ctx.wr_saved (c : Ctx) (d : BitVec 5) (v : BitVec 64) : (c.wr d v).saved = c.saved := by
  simp only [Ctx.wr]; split <;> rfl
@[simp] theorem Ctx.wr_deficit (c : Ctx) (d : BitVec 5) (v : BitVec 64) : (c.wr d v).deficit = c.deficit := by
  simp only [Ctx.wr]; split <;> rfl
@[simp] theorem Ctx.wr_wait (c : Ctx) (d : BitVec 5) (v : BitVec 64) : (c.wr d v).wait = c.wait := by
  simp only [Ctx.wr]; split <;> rfl
@[simp] theorem Ctx.wr_reports (c : Ctx) (d : BitVec 5) (v : BitVec 64) : (c.wr d v).reports = c.reports := by
  simp only [Ctx.wr]; split <;> rfl
@[simp] theorem Ctx.wr_serving (c : Ctx) (d : BitVec 5) (v : BitVec 64) : (c.wr d v).serving = c.serving := by
  simp only [Ctx.wr]; split <;> rfl
@[simp] theorem Ctx.wr_launch (c : Ctx) (d : BitVec 5) (v : BitVec 64) : (c.wr d v).launch = c.launch := by
  simp only [Ctx.wr]; split <;> rfl
@[simp] theorem Ctx.wr_setNow (c : Ctx) (d : BitVec 5) (v : BitVec 64) : (c.wr d v).setNow = c.setNow := by
  simp only [Ctx.wr]; split <;> rfl
@[simp] theorem Ctx.wr_hostWrite (c : Ctx) (d : BitVec 5) (v : BitVec 64) : (c.wr d v).hostWrite = c.hostWrite := by
  simp only [Ctx.wr]; split <;> rfl
@[simp] theorem Ctx.wr_since (c : Ctx) (d : BitVec 5) (v : BitVec 64) : (c.wr d v).since = c.since := by
  simp only [Ctx.wr]; split <;> rfl
@[simp] theorem Ctx.wr_subAddr (c : Ctx) (d : BitVec 5) (v : BitVec 64) : (c.wr d v).subAddr = c.subAddr := by
  simp only [Ctx.wr]; split <;> rfl
@[simp] theorem Ctx.wr_result (c : Ctx) (d : BitVec 5) (v : BitVec 64) : (c.wr d v).result = c.result := by
  simp only [Ctx.wr]; split <;> rfl
@[simp] theorem Ctx.adv_pc (c : Ctx) : c.adv.pc = c.pc + 8 := rfl
@[simp] theorem Ctx.charge_ibud (c : Ctx) (a b : Nat) : (c.charge a b).ibud = c.ibud - BitVec.ofNat 64 a := rfl
@[simp] theorem Ctx.charge_tbud (c : Ctx) (a b : Nat) : (c.charge a b).tbud = c.tbud - BitVec.ofNat 64 b := rfl

/-! ## Registers (R69) -/

@[simp] theorem Ctx.rd_zero (c : Ctx) : c.rd 0 = 0 := rfl
@[simp] theorem Ctx.wr_zero (c : Ctx) (v : BitVec 64) : c.wr 0 v = c := rfl
@[simp] theorem Ctx.rd_charge (c : Ctx) (a b : Nat) (d : BitVec 5) : (c.charge a b).rd d = c.rd d := rfl
@[simp] theorem Ctx.rd_adv (c : Ctx) (d : BitVec 5) : c.adv.rd d = c.rd d := rfl
@[simp] theorem Ctx.rd_setPr (c : Ctx) (a : Nat) (b : Bool) (d : BitVec 5) : (c.setPr a b).rd d = c.rd d := rfl
@[simp] theorem Ctx.rd_wr_other (c : Ctx) (d e : BitVec 5) (v : BitVec 64) (h : e ≠ d) : (c.wr d v).rd e = c.rd e := by
  have h' : e.toNat ≠ d.toNat := fun x => h (BitVec.eq_of_toNat_eq x)
  unfold Ctx.wr Ctx.rd
  by_cases hd : d = 0
  · simp only [if_pos hd]
  · simp only [if_neg hd, Tbl.get_put_other h']
@[simp] theorem Ctx.rd_wr_same (c : Ctx) (d : BitVec 5) (v : BitVec 64) (hd : d ≠ 0) :
    (c.wr d v).rd d = v := by
  unfold Ctx.wr Ctx.rd
  simp only [if_neg hd, Tbl.get_put_same]

end Sys2Proof.Machine
end

