-- ==== Sys2Proof/Certificates/Slice0/Obligations.lean ====
section
/-! DEFINITION. The statements for the provers, from the numbered rules of spec/. A statement of several parts is the
conjunction of the parts, each a proposition of its own under Sys2Proof.Claims. -/

/-! ## Vocabulary -/

namespace Sys2Proof.Claims

open Sys2Proof.Machine

/-- Instructions that have a word: the 120 of the sequencer, with their fields. -/
def seqWord (i : Instr) : Option SeqF :=
  match encode i with
  | some w => if wordKind w = 1 then some (seqFields w) else none
  | none => none

/-- Tables 5-4 and 5-5: the value a one-cycle sequencer instruction writes to sD, from A, B, the predicates and TAGS. -/
def scalarRow : Instr → Option (SeqF × (BitVec 64 → BitVec 64 → BitVec 8 → BitVec 64 → BitVec 64))
  | .seqAdd f => some (f, fun a b _ _ => a + b)
  | .seqSub f => some (f, fun a b _ _ => a - b)
  | .seqAnd f => some (f, fun a b _ _ => a &&& b)
  | .seqOr f => some (f, fun a b _ _ => a ||| b)
  | .seqXor f => some (f, fun a b _ _ => a ^^^ b)
  | .seqShl f => some (f, fun a b _ _ => BitVec.ofNat 64 (a.toNat * 2 ^ (b.toNat % 64)))
  | .seqShr f => some (f, fun a b _ _ => BitVec.ofNat 64 (a.toNat / 2 ^ (b.toNat % 64)))
  | .seqSra f => some (f, fun a b _ _ => BitVec.ofInt 64 (a.toInt / 2 ^ (b.toNat % 64)))
  | .seqMin f => some (f, fun a b _ _ => BitVec.ofInt 64 (min a.toInt b.toInt))
  | .seqMax f => some (f, fun a b _ _ => BitVec.ofInt 64 (max a.toInt b.toInt))
  | .seqMinu f => some (f, fun a b _ _ => BitVec.ofNat 64 (min a.toNat b.toNat))
  | .seqMaxu f => some (f, fun a b _ _ => BitVec.ofNat 64 (max a.toNat b.toNat))
  | .seqClz f => some (f, fun a _ _ _ => BitVec.ofNat 64 (if a = 0 then 64 else 63 - Nat.log2 a.toNat))
  | .seqPopc f => some (f, fun a _ _ _ => BitVec.ofNat 64 ((List.range 64).filter fun n => a.getLsbD n).length)
  | .addi f => some (f, fun a _ _ _ => BitVec.ofInt 64 (a.toNat + f.imm.toInt))
  | .andi f => some (f, fun a _ _ _ => a &&& f.imm.signExtend 64)
  | .ori f => some (f, fun a _ _ _ => a ||| f.imm.signExtend 64)
  | .xori f => some (f, fun a _ _ _ => a ^^^ f.imm.signExtend 64)
  | .shli f => some (f, fun a _ _ _ => BitVec.ofNat 64 (a.toNat * 2 ^ (f.imm.toNat % 64)))
  | .shri f => some (f, fun a _ _ _ => BitVec.ofNat 64 (a.toNat / 2 ^ (f.imm.toNat % 64)))
  | .srai f => some (f, fun a _ _ _ => BitVec.ofInt 64 (a.toInt / 2 ^ (f.imm.toNat % 64)))
  | .movi f => some (f, fun _ _ _ _ => f.imm.signExtend 64)
  | .movhi f => some (f, fun a _ _ _ => BitVec.ofNat 64 (f.imm.toNat * 2 ^ 32 + a.toNat % 2 ^ 32))
  | .seqSel f => some (f, fun a b p _ => if p.getLsbD f.imm.toNat then a else b)
  | _ => none

/-- Table 5-4: the value of an instruction that occupies its context, and the fc it takes (R75). -/
def slowRow : Instr → Option (SeqF × Nat × (BitVec 64 → BitVec 64 → BitVec 64))
  | .seqMul f => some (f, 4, fun a b => BitVec.ofNat 64 (a.toNat * b.toNat))
  | .seqMulh f => some (f, 4, fun a b => BitVec.ofInt 64 (a.toInt * b.toInt / 2 ^ 64))
  | .seqMulhu f => some (f, 4, fun a b => BitVec.ofNat 64 (a.toNat * b.toNat / 2 ^ 64))
  | .divu f => some (f, 66, fun a b => if b = 0 then BitVec.ofNat 64 (2 ^ 64 - 1) else BitVec.ofNat 64 (a.toNat / b.toNat))
  | .remu f => some (f, 66, fun a b => if b = 0 then a else BitVec.ofNat 64 (a.toNat % b.toNat))
  | _ => none

/-- Table 5-6: the predicate a compare or a predicate instruction writes. -/
def predRow : Instr → Option (SeqF × (BitVec 64 → BitVec 64 → BitVec 8 → Bool))
  | .seqCeq f => some (f, fun a b _ => a = b)
  | .seqCne f => some (f, fun a b _ => a ≠ b)
  | .seqClt f => some (f, fun a b _ => a.toInt < b.toInt)
  | .seqCltu f => some (f, fun a b _ => a.toNat < b.toNat)
  | .seqCle f => some (f, fun a b _ => a.toInt ≤ b.toInt)
  | .seqCleu f => some (f, fun a b _ => a.toNat ≤ b.toNat)
  | .ceqi f => some (f, fun a _ _ => a = f.imm.signExtend 64)
  | .clti f => some (f, fun a _ _ => a.toInt < f.imm.toInt)
  | .pand f => some (f, fun _ _ p => p.getLsbD f.a.toNat && p.getLsbD f.b.toNat)
  | .por f => some (f, fun _ _ p => p.getLsbD f.a.toNat || p.getLsbD f.b.toNat)
  | .pnot f => some (f, fun _ _ p => !p.getLsbD f.a.toNat)
  | _ => none

/-- Everything but one context is as before: memory, the other contexts, and all a paddock and the module hold
beside. -/
structure OnlyCtx (s t : State) (p q : Nat) : Prop where
  ctx : ∀ p' q', (p', q') ≠ (p, q) → t.ctx p' q' = s.ctx p' q'
  tile : ∀ p' k, t.tile p' k = s.tile p' k
  region : ∀ p' k, t.region p' k = s.region p' k
  task : ∀ p' k, t.task p' k = s.task p' k
  chain : ∀ p' k, t.chain p' k = s.chain p' k
  byte : ∀ host a, t.rdByte host a = s.rdByte host a
  parts : t.parts = s.parts
  now : t.now = s.now

/-- A context's registers, flags and special registers are as before, but for PC, IBUD, its wait state and what `ex`
lists. -/
structure KeepsCtx (c d : Ctx) (reg : BitVec 5 → Prop) (pred : Nat → Prop) : Prop where
  regs : ∀ r, ¬ reg r → d.rd r = c.rd r
  preds : ∀ n, ¬ pred n → d.pr n = c.pr n
  tags : d.tags = c.tags
  special : (d.tvec, d.epc, d.tcause, d.tval, d.tval2, d.contpt, d.tagmask, d.trbase, d.lrec) =
    (c.tvec, c.epc, c.tcause, c.tval, c.tval2, c.contpt, c.tagmask, c.trbase, c.lrec)
  mode : (d.inTrap, d.priv, d.rights, d.mcsel, d.latch, d.halted, d.haltCode) =
    (c.inTrap, c.priv, c.rights, c.mcsel, c.latch, c.halted, c.haltCode)
  tbud : d.tbud = c.tbud
  reports : d.reports = c.reports

end Sys2Proof.Claims

open Sys2Proof Sys2Proof.Machine Sys2Proof.Claims

/-! ## The sequencer's scalar instructions -/

/-- Each one-cycle scalar instruction whose guard passes writes its value to sD (nothing for s0, which reads 0), moves
PC past the word, charges 1 unit of IBUD and changes nothing else (R69, R76, R78 to R80, R84). -/
def Sys2Proof.Claims.ScalarResult : Prop :=
  ∀ (i : Instr) (f : SeqF) (v : BitVec 64 → BitVec 64 → BitVec 8 → BitVec 64 → BitVec 64) (s : State),
    scalarRow i = some (f, v) → guardOk s.curCtx f = true →
    ∃ t, exec i s = .next t ∧
      let c := s.curCtx
      let d := t.curCtx
      t.cur = s.cur ∧
      d.rd f.d = (if f.d = 0 then 0 else v (c.rd f.a) (c.rd f.b) c.preds c.tags) ∧
      d.pc = c.pc + 8 ∧ d.ibud = c.ibud - 1 ∧ d.wait = c.wait ∧
      KeepsCtx c d (· = f.d) (fun _ => False) ∧ OnlyCtx s t s.cur.p s.cur.q

/-- NOP only moves PC and charges (R78). -/
def Sys2Proof.Claims.SeqNopResult : Prop :=
  ∀ (f : SeqF) (s : State), guardOk s.curCtx f = true →
    ∃ t, exec (.seqNop f) s = .next t ∧ t.curCtx.pc = s.curCtx.pc + 8 ∧ t.curCtx.ibud = s.curCtx.ibud - 1 ∧
      KeepsCtx s.curCtx t.curCtx (fun _ => False) (fun _ => False) ∧ OnlyCtx s t s.cur.p s.cur.q

/-- FFR charges 1, moves PC on and reads TAGS at the end of its fc, after every completion of that fc: SEQ_OP_COMPLETE
then writes sD ← the index of the lowest tag of A that is set, 64 if none is (R84). -/
def Sys2Proof.Claims.FfrResult : Prop :=
  (∀ (f : SeqF) (s : State), guardOk s.curCtx f = true →
    ∃ t, exec (.ffr f) s = .next t ∧ t.curCtx.pc = s.curCtx.pc + 8 ∧ t.curCtx.ibud = s.curCtx.ibud - 1 ∧
      t.curCtx.wait = .busy (s.fc s.cur.p) (.tagIndex f.d (s.curCtx.rd f.a)) ∧
      KeepsCtx s.curCtx t.curCtx (fun _ => False) (fun _ => False) ∧ OnlyCtx s t s.cur.p s.cur.q) ∧
  ∀ (s : State) (p : Fin 32) (q : Fin 4) (due : Nat) (d : BitVec 5) (m : BitVec 64),
    (s.ctx p q).wait = .busy due (.tagIndex d m) → due ≤ s.fc p →
    ∃ t, exec (.seqOpComplete p q) s = .next t ∧
      (t.ctx p q).rd d = (if d = 0 then 0 else
        BitVec.ofNat 64 (((List.range 64).find? fun n => ((s.ctx p q).tags &&& m).getLsbD n).getD 64)) ∧
      (t.ctx p q).wait = .ready ∧ (t.ctx p q).pc = (s.ctx p q).pc ∧ (t.ctx p q).ibud = (s.ctx p q).ibud ∧
      KeepsCtx (s.ctx p q) (t.ctx p q) (· = d) (fun _ => False) ∧ OnlyCtx s t p q

/-- A compare or predicate instruction writes p[D] and no other predicate (R81). -/
def Sys2Proof.Claims.PredicateResult : Prop :=
  ∀ (i : Instr) (f : SeqF) (v : BitVec 64 → BitVec 64 → BitVec 8 → Bool) (s : State),
    predRow i = some (f, v) → i.wf = true → guardOk s.curCtx f = true →
    ∃ t, exec i s = .next t ∧
      let c := s.curCtx
      let d := t.curCtx
      d.pr f.d.toNat = v (c.rd f.a) (c.rd f.b) c.preds ∧ d.pc = c.pc + 8 ∧ d.ibud = c.ibud - 1 ∧
      KeepsCtx c d (fun _ => False) (· = f.d.toNat) ∧ OnlyCtx s t s.cur.p s.cur.q

/-- A multiply takes 4 fc and a division 66: the context is occupied from the fc of issue, and in the last of these fc
SEQ_OP_COMPLETE writes sD (R75, R78). -/
def Sys2Proof.Claims.SlowResult : Prop :=
  ∀ (i : Instr) (f : SeqF) (n : Nat) (v : BitVec 64 → BitVec 64 → BitVec 64) (s : State) (p : Fin 32) (q : Fin 4),
    slowRow i = some (f, n, v) → guardOk s.curCtx f = true → s.cur.p = p.val → s.cur.q = q.val →
    ∃ t, exec i s = .next t ∧ t.curCtx.pc = s.curCtx.pc + 8 ∧ t.curCtx.ibud = s.curCtx.ibud - 1 ∧
      t.curCtx.wait ≠ .ready ∧ KeepsCtx s.curCtx t.curCtx (fun _ => False) (fun _ => False) ∧
      OnlyCtx s t s.cur.p s.cur.q ∧
      (∀ u : State, u.ctx p q = t.ctx p q → u.fc p < s.fc p + n - 1 → exec (.seqOpComplete p q) u = .next u) ∧
      ∀ u : State, u.ctx p q = t.ctx p q → s.fc p + n - 1 ≤ u.fc p →
        ∃ w, exec (.seqOpComplete p q) u = .next w ∧
          (w.ctx p q).rd f.d = (if f.d = 0 then 0 else v (s.curCtx.rd f.a) (s.curCtx.rd f.b)) ∧
          (w.ctx p q).wait = .ready ∧ KeepsCtx (u.ctx p q) (w.ctx p q) (· = f.d) (fun _ => False) ∧
          OnlyCtx u w p q

namespace Sys2Proof.Claims

open Sys2Proof.Machine

/-- What a context must hold to issue a word: SSTAT.PRIV for PGATE, STIL and a CSRW to 0x034 to 0x037; that or
RIGHTS.DEBUG for CTXS and CTXR; TOPUP for BTOP, TRACE for TRACE, JOURNAL for the journal instructions marked R; INTRAP
for ERET (R43, R306, R330, R331). -/
def mayIssue (i : Instr) (c : Ctx) : Bool :=
  match i with
  | .pgateStatus _ | .pgateClose _ | .pgateOpen _ | .pgateReset _ | .pgateFreq _ | .pgateForm _
  | .stilClose _ | .stilChannel _ | .stilMemory _ => c.priv
  | .csrw f => c.priv || !(decide (0x034 ≤ f.imm.toNat % 4096) && decide (f.imm.toNat % 4096 ≤ 0x037))
  | .ctxs _ | .ctxr _ => c.priv || c.rights.getLsbD 3
  | .btop _ => c.rights.getLsbD 0
  | .traceOff _ | .traceRecord _ | .traceBind _ | .traceRead _ => c.rights.getLsbD 2
  | .jpin _ | .jupn _ | .jprp _ | .jrev _ | .jrpl _ | .jbase _ => c.rights.getLsbD 1
  | .eret _ => c.inTrap
  | _ => true

/-- R82: the target of a branch, from PC and A. -/
def branchRow : Instr → Option (SeqF × (BitVec 64 → BitVec 64 → BitVec 64))
  | .br f => some (f, fun pc _ => BitVec.ofInt 64 (pc.toNat + 8 * f.imm.toInt))
  | .call f => some (f, fun pc _ => BitVec.ofInt 64 (pc.toNat + 8 * f.imm.toInt))
  | .jmp f => some (f, fun _ a => BitVec.ofInt 64 (a.toNat + f.imm.toInt))
  | .ret f => some (f, fun _ a => a)
  | _ => none

/-- The register a branch writes: CALL's sD. -/
def linkReg : Instr → Option (BitVec 5)
  | .call f => some f.d
  | _ => none

/-- Taking an exception in a context (R77, R313): EPC, TCAUSE, TVAL and TVAL2 are saved (a value no rule states is left
open), INTRAP is set and PC goes to TVEC; with TVEC 0 or INTRAP already 1 before, the context then halts with the cause
as its code.
No register, predicate, tag or counter changes, no other context, no part of the fabric and no byte of local memory. -/
structure Enters (s t : State) (p q : Nat) (epc : BitVec 64) (cause : BitVec 8) (tval tval2 : Option (BitVec 64)) :
    Prop where
  epcIs : (t.ctx p q).epc = epc
  causeIs : (t.ctx p q).tcause = cause.setWidth 64
  tvalIs : ∀ v, tval = some v → (t.ctx p q).tval = v
  tval2Is : ∀ v, tval2 = some v → (t.ctx p q).tval2 = v
  goes : (t.ctx p q).pc = (s.ctx p q).tvec ∧ (t.ctx p q).inTrap = true ∧ (t.ctx p q).wait = .ready
  runs : (s.ctx p q).tvec ≠ 0 → (s.ctx p q).inTrap = false →
    (t.ctx p q).halted = (s.ctx p q).halted ∧ (t.ctx p q).haltCode = (s.ctx p q).haltCode
  halts : (s.ctx p q).tvec = 0 ∨ (s.ctx p q).inTrap = true →
    (t.ctx p q).halted = true ∧ (t.ctx p q).haltCode = cause
  regs : ∀ r, (t.ctx p q).rd r = (s.ctx p q).rd r
  keeps : ((t.ctx p q).preds, (t.ctx p q).tags, (t.ctx p q).ibud, (t.ctx p q).tbud, (t.ctx p q).tvec, (t.ctx p q).priv) =
    ((s.ctx p q).preds, (s.ctx p q).tags, (s.ctx p q).ibud, (s.ctx p q).tbud, (s.ctx p q).tvec, (s.ctx p q).priv)
  others : ∀ p' q', (p', q') ≠ (p, q) → t.ctx p' q' = s.ctx p' q'
  tile : ∀ p' k, t.tile p' k = s.tile p' k
  region : ∀ p' k, t.region p' k = s.region p' k
  byte : ∀ a, t.rdByte false a = s.rdByte false a

/-- An instruction of a context completes: PC moves past its word, its charges are made, the context is ready. -/
structure Completes (s t : State) (p q ib tb : Nat) : Prop where
  pc : (t.ctx p q).pc = (s.ctx p q).pc + 8
  ibud : (t.ctx p q).ibud = (s.ctx p q).ibud - BitVec.ofNat 64 ib
  tbud : (t.ctx p q).tbud = (s.ctx p q).tbud - BitVec.ofNat 64 tb
  wait : (t.ctx p q).wait = .ready

/-- What an instruction writes into registers: v into sD, nothing for s0, every other register as before. -/
def Writes (s t : State) (p q : Nat) (d : BitVec 5) (v : BitVec 64) : Prop :=
  ∀ r, (t.ctx p q).rd r = if r = 0 then 0 else if r = d then v else (s.ctx p q).rd r

/-- No register changes. -/
def NoWrite (s t : State) (p q : Nat) : Prop := ∀ r, (t.ctx p q).rd r = (s.ctx p q).rd r

/-- Every byte of memory reads as before. -/
def SameBytes (s t : State) : Prop := ∀ host a, t.rdByte host a = s.rdByte host a

/-- The n bytes at an address become those of a number, lowest first; every other byte of memory reads as before. -/
def Stored (s t : State) (host : Bool) (a n v : Nat) : Prop :=
  ∀ h b, t.rdByte h b = if h = host ∧ a ≤ b ∧ b < a + n then BitVec.ofNat 8 (v / 256 ^ (b - a)) else s.rdByte h b

/-- The byte at which the high or the low half of a 64-bit access begins (R185). -/
def halfByte (high : Bool) : Nat := if high then 4 else 0

/-- The loads, with the sign extension of LDS (Table 5-10). -/
def loadRow : Instr → Option (SeqF × Bool)
  | .ld f => some (f, false)
  | .lds f => some (f, true)
  | .lda f => some (f, false)
  | _ => none

def storeRow : Instr → Option SeqF
  | .st f => some f
  | .stl f => some f
  | _ => none

/-- Table 5-11: the new value of an atomic of width n bits, from the old value, B and sD. -/
def atomicRow : Instr → Option (SeqF × (Nat → Nat → Nat → Nat → Nat))
  | .aadd f => some (f, fun n old b _ => (old + b) % 2 ^ n)
  | .aswp f => some (f, fun n _ b _ => b % 2 ^ n)
  | .acas f => some (f, fun n old b d => if old = d % 2 ^ n then b % 2 ^ n else old)
  | .amin f => some (f, fun n old b _ => if sext (b % 2 ^ n) n < sext old n then b % 2 ^ n else old)
  | .amax f => some (f, fun n old b _ => if sext old n < sext (b % 2 ^ n) n then b % 2 ^ n else old)
  | .aor f => some (f, fun n old b _ => old ||| (b % 2 ^ n))
  | .aand f => some (f, fun n old b _ => old &&& (b % 2 ^ n))
  | _ => none

/-- The address of a sequencer access (R86). -/
def seqVa (c : Ctx) (f : SeqF) : BitVec 64 := BitVec.ofInt 64 ((c.rd f.a).toNat + f.imm.toInt)

/-- A context of a state stands as an issue left it, in an access that is due. -/
def AccessDue (t u : State) (p q : Nat) : Prop :=
  u.ctx p q = t.ctx p q ∧ ∃ due w va, (u.ctx p q).wait = .busy due (.access w va) ∧ due ≤ u.fc p

/-- The state with the charge of a context's access, made at its issue, given back (R76; log 32). -/
def refunded (s : State) (p q : Nat) : State :=
  s.updCtx p q fun c => { c with ibud := c.ibud + 1, tbud := c.tbud + 1 }

/-- An access as issued: the context stands at it, occupied, with its charge made (R75, R270). -/
structure Issued (s t : State) (p q ib tb : Nat) : Prop where
  wait : (t.ctx p q).wait ≠ .ready
  pc : (t.ctx p q).pc = (s.ctx p q).pc
  ibud : (t.ctx p q).ibud = (s.ctx p q).ibud - BitVec.ofNat 64 ib
  tbud : (t.ctx p q).tbud = (s.ctx p q).tbud - BitVec.ofNat 64 tb
  regs : ∀ r, (t.ctx p q).rd r = (s.ctx p q).rd r
  bytes : ∀ host a, t.rdByte host a = s.rdByte host a

/-- Every memory instruction with its access kind. -/
def accessRow : Instr → Option (SeqF × AccKind)
  | .ld f | .lds f | .lda f => some (f, .read)
  | .st f | .stl f => some (f, .write)
  | .aadd f | .aswp f | .acas f | .amin f | .amax f | .aor f | .aand f => some (f, .atomic)
  | _ => none

/-- The CSRs a program writes: the value each then reads as, from the value it read as before, TAGS that completions set
in the fc, and the value written (R331 and the tables of its chapter). -/
def csrRow (n : Nat) : Option (BitVec 64 → BitVec 64 → BitVec 64 → BitVec 64) :=
  if n = 0x001 ∨ n = 0x002 ∨ n = 0x004 ∨ n = 0x005 ∨ n = 0x014 ∨ n = 0x021 then some fun _ _ v => v
  else if n = 0x000 then some fun old _ v => (old &&& ~~~(1 : BitVec 64)) ||| (v &&& 1)
  else if n = 0x020 then some fun old now v => v ||| (old &&& now)
  else if n = 0x003 ∨ n = 0x070 then some fun _ _ v => v &&& 0xFF
  else if n = 0x016 then some fun _ _ v => v &&& 0x01FFFFFFFFFF0000
  else if 0x030 ≤ n ∧ n ≤ 0x034 then some fun _ _ v => BitVec.ofNat 64 (max 1 (v.toNat % 256))
  else if n = 0x035 then some fun _ _ v => BitVec.ofNat 64 (min 24 (max 12 (v.toNat % 32)))
  else if n = 0x036 then some fun old _ v => BitVec.ofNat 64
    (v.toNat % 2 + (old.getLsbD 1 || (v.getLsbD 0 != old.getLsbD 0)).toNat * 2 +
      min 30 (max 16 (v.toNat / 2 ^ 8 % 32)) * 2 ^ 8 + (if v.getLsbD 2 then 0 else old.toNat / 2 ^ 32 % 2 ^ 16) * 2 ^ 32)
  else if n = 0x037 then some fun _ _ v => BitVec.ofNat 64 (max 256 (v.toNat % 2 ^ 32))
  else if 0x080 ≤ n ∧ n ≤ 0x0FF then some fun _ _ v => v &&& 0x1FF
  else none

end Sys2Proof.Claims

/-! ## Control, exceptions, CSRs -/

/-- O2. A word that the context may issue and whose guard fails changes no state but PC + 8 and a charge of 1, whatever its
instruction, the privilege of the context and its rights; a word that the context may not issue takes PRIV whether or not
its guard passes, at no charge (R31, R43, R76, R306, R330, R331). -/
def Obligations.GuardFails : Prop :=
  ∀ (i : Instr) (f : SeqF) (s : State), seqWord i = some f →
    (mayIssue i s.curCtx = true → guardOk s.curCtx f = false →
      exec i s = .next (s.setCurCtx { s.curCtx with pc := s.curCtx.pc + 8, ibud := s.curCtx.ibud - 1 })) ∧
    (mayIssue i s.curCtx = false →
      ∃ t, exec i s = .next t ∧ Enters s t s.cur.p s.cur.q s.curCtx.pc cPRIV none none)

/-- A branch whose guard passes and whose target is a multiple of 8 sets PC to it and charges 1; CALL also writes
sD ← PC + 8; nothing else changes (R82, R76). -/
def Sys2Proof.Claims.BranchTaken : Prop :=
  ∀ (i : Instr) (f : SeqF) (g : BitVec 64 → BitVec 64 → BitVec 64) (s : State),
    branchRow i = some (f, g) → guardOk s.curCtx f = true →
    let c := s.curCtx
    let target := g c.pc (c.rd f.a)
    target.toNat % 8 = 0 →
    ∃ t, exec i s = .next t ∧ t.curCtx.pc = target ∧ t.curCtx.ibud = c.ibud - 1 ∧ t.curCtx.wait = c.wait ∧
      (∀ d, linkReg i = some d → t.curCtx.rd d = if d = 0 then 0 else c.pc + 8) ∧
      KeepsCtx c t.curCtx (fun r => linkReg i = some r) (fun _ => False) ∧ OnlyCtx s t s.cur.p s.cur.q

/-- A branch to a target that is no multiple of 8 takes MISALIGN with TVAL the target, at the branch (R82, R77). -/
def Sys2Proof.Claims.BranchMisaligned : Prop :=
  ∀ (i : Instr) (f : SeqF) (g : BitVec 64 → BitVec 64 → BitVec 64) (s : State),
    branchRow i = some (f, g) → guardOk s.curCtx f = true →
    let target := g s.curCtx.pc (s.curCtx.rd f.a)
    target.toNat % 8 ≠ 0 →
    ∃ t, exec i s = .next t ∧ Enters s t s.cur.p s.cur.q s.curCtx.pc cMISALIGN (some target) none

/-- A branch whose guard fails goes on to PC + 8 (R82). -/
def Sys2Proof.Claims.BranchNotTaken : Prop :=
  ∀ (i : Instr) (f : SeqF) (g : BitVec 64 → BitVec 64 → BitVec 64) (s : State),
    branchRow i = some (f, g) → guardOk s.curCtx f = false →
    exec i s = .next (s.setCurCtx { s.curCtx with pc := s.curCtx.pc + 8, ibud := s.curCtx.ibud - 1 })

/-- O4. TRAP and BKPT take precise traps at their own address: TCAUSE 0x80 + IMM[6:0] and TVAL 0, or TCAUSE 0x13 and TVAL
IMM[15:0]; neither charges anything (R329). -/
def Obligations.TrapInstructions : Prop :=
  ∀ (f : SeqF) (s : State), guardOk s.curCtx f = true →
    (∃ t, exec (.trap f) s = .next t ∧
      Enters s t s.cur.p s.cur.q s.curCtx.pc (0x80 + (f.imm.extractLsb' 0 7).setWidth 8) (some 0) none) ∧
    ∃ t, exec (.bkpt f) s = .next t ∧
      Enters s t s.cur.p s.cur.q s.curCtx.pc 0x13 (some ((f.imm.extractLsb' 0 16).setWidth 64)) none

/-- A word that holds no instruction, a fetch that faults and an exhausted counter take their traps in place of the
instruction (R31, R77, R270). -/
def Sys2Proof.Claims.TrapsInPlaceOfAnInstruction : Prop :=
  ∀ (s : State),
    (∀ w, ∃ t, exec (.illegalWord w) s = .next t ∧
      Enters s t s.cur.p s.cur.q s.curCtx.pc cILLEGAL (some w) none) ∧
    (∀ cause, ∃ t, exec (.fetchFault cause) s = .next t ∧
      Enters s t s.cur.p s.cur.q s.curCtx.pc cause (some s.curCtx.pc) none) ∧
    (s.curCtx.inTrap = false → s.curCtx.ibud.toInt ≤ 0 →
      ∃ t, exec .contextBudgetTrap s = .next t ∧ Enters s t s.cur.p s.cur.q s.curCtx.pc cBUDGET_I none none) ∧
    (s.curCtx.inTrap = false → 0 < s.curCtx.ibud.toInt → s.curCtx.tbud.toInt ≤ 0 →
      ∃ t, exec .contextBudgetTrap s = .next t ∧ Enters s t s.cur.p s.cur.q s.curCtx.pc cBUDGET_T none none)

/-- HALT halts its context with CODE 0 (R332). That it charges 1 and leaves PC past its word is the model's choice (log 86). -/
def Sys2Proof.Claims.HaltHalts : Prop :=
  ∀ (f : SeqF) (s : State), guardOk s.curCtx f = true →
    ∃ t, exec (.halt f) s = .next t ∧ t.curCtx.halted = true ∧ t.curCtx.haltCode = 0 ∧ t.curCtx.haltr = 0x100 ∧
      t.curCtx.pc = s.curCtx.pc + 8 ∧ t.curCtx.ibud = s.curCtx.ibud - 1 ∧
      NoWrite s t s.cur.p s.cur.q ∧ (∀ q', q' ≠ s.cur.q → t.ctx s.cur.p q' = s.ctx s.cur.p q') ∧
      ∀ a, t.rdByte false a = s.rdByte false a

/-- ERET of a handler (INTRAP = 1) moves PC to EPC and clears INTRAP; at an EPC that is no multiple of 8 MISALIGN is then
taken, with EPC the target. With INTRAP = 0 it takes PRIV, as `GuardFails` and `PrivilegeChecked` say (R330). -/
def Sys2Proof.Claims.EretReturns : Prop :=
  ∀ (f : SeqF) (s : State), guardOk s.curCtx f = true → s.curCtx.inTrap = true →
    ∃ t, exec (.eret f) s = .next t ∧ NoWrite s t s.cur.p s.cur.q ∧ t.curCtx.ibud = s.curCtx.ibud - 1 ∧
      (s.curCtx.epc.toNat % 8 = 0 → t.curCtx.pc = s.curCtx.epc ∧ t.curCtx.inTrap = false) ∧
      (s.curCtx.epc.toNat % 8 ≠ 0 →
        t.curCtx.pc = s.curCtx.tvec ∧ t.curCtx.inTrap = true ∧ t.curCtx.tcause = cMISALIGN.setWidth 64 ∧
        t.curCtx.tval = s.curCtx.epc ∧ t.curCtx.epc = s.curCtx.epc ∧ (s.curCtx.tvec = 0 → t.curCtx.halted = true))

/-- CSRR of a defined CSR writes its value to sD; CSRR of an undefined number takes ILLEGAL (R331). -/
def Sys2Proof.Claims.CsrReads : Prop :=
  ∀ (f : SeqF) (s : State), guardOk s.curCtx f = true →
    (∀ v, csrRead s s.cur.p s.cur.q (f.imm.toNat % 4096) = some v →
      ∃ t, exec (.csrr f) s = .next t ∧ Completes s t s.cur.p s.cur.q 1 0 ∧ Writes s t s.cur.p s.cur.q f.d v ∧
        OnlyCtx s t s.cur.p s.cur.q) ∧
    (csrRead s s.cur.p s.cur.q (f.imm.toNat % 4096) = none →
      ∃ t, exec (.csrr f) s = .next t ∧ Enters s t s.cur.p s.cur.q s.curCtx.pc cILLEGAL none none)

/-- A CSR written reads as its table says, and no other CSR of the context changes but the counter that is charged; a
number with no RW or WO field, or that no chapter defines, takes ILLEGAL (R331; R5, R71, R74, R83, R107, R130, R161,
R252, R325 for the fields). -/
def Sys2Proof.Claims.CsrWriteReadsBack : Prop :=
  (∀ (f : SeqF) (s : State) (n : Nat) (g : BitVec 64 → BitVec 64 → BitVec 64 → BitVec 64) (old : BitVec 64),
    csrRow n = some g → f.imm.toNat % 4096 = n → guardOk s.curCtx f = true →
    (0x034 ≤ n → n ≤ 0x037 → s.curCtx.priv = true) → csrRead s s.cur.p s.cur.q n = some old →
    ∃ t, exec (.csrw f) s = .next t ∧ Completes s t s.cur.p s.cur.q 1 0 ∧ NoWrite s t s.cur.p s.cur.q ∧
      csrRead t s.cur.p s.cur.q n = some (g old s.curCtx.setNow (s.curCtx.rd f.a)) ∧
      (∀ m, m ≠ n → m ≠ 0x010 → m ≠ 0x012 → csrRead t s.cur.p s.cur.q m = csrRead s s.cur.p s.cur.q m) ∧ SameBytes s t) ∧
  ∀ (f : SeqF) (s : State), csrRow (f.imm.toNat % 4096) = none → guardOk s.curCtx f = true →
    ∃ t, exec (.csrw f) s = .next t ∧ Enters s t s.cur.p s.cur.q s.curCtx.pc cILLEGAL none none

/-- O8. CSRW to BYPMAX, SPAREQ, ECCMODE or STILETMO, and PGATE and STIL, take PRIV where SSTAT.PRIV is 0; CTXS and CTXR
take it where RIGHTS.DEBUG is 0 too; the journal's instructions marked R without RIGHTS.JOURNAL, BTOP without
RIGHTS.TOPUP, TRACE without RIGHTS.TRACE and ERET with INTRAP = 0, whatever SSTAT.PRIV is: whether or not the guard passes
(R43, R331, R333 to R335, R306, R330). -/
def Obligations.PrivilegeChecked : Prop :=
  ∀ (s : State) (f : SeqF),
    (s.curCtx.priv = false → ∀ i ∈ [Instr.pgateStatus f, .pgateClose f, .pgateOpen f, .pgateReset f, .pgateFreq f,
        .pgateForm f, .stilClose f, .stilChannel f, .stilMemory f],
      ∃ t, exec i s = .next t ∧ Enters s t s.cur.p s.cur.q s.curCtx.pc cPRIV none none) ∧
    (s.curCtx.priv = false → 0x034 ≤ f.imm.toNat % 4096 → f.imm.toNat % 4096 ≤ 0x037 →
      ∃ t, exec (.csrw f) s = .next t ∧ Enters s t s.cur.p s.cur.q s.curCtx.pc cPRIV none none) ∧
    (s.curCtx.priv = false → s.curCtx.rights.getLsbD 3 = false → ∀ i ∈ [Instr.ctxs f, .ctxr f],
      ∃ t, exec i s = .next t ∧ Enters s t s.cur.p s.cur.q s.curCtx.pc cPRIV none none) ∧
    (s.curCtx.rights.getLsbD 1 = false → ∀ i ∈ [Instr.jpin f, .jupn f, .jprp f, .jrev f, .jrpl f, .jbase f],
      ∃ t, exec i s = .next t ∧ Enters s t s.cur.p s.cur.q s.curCtx.pc cPRIV none none) ∧
    (s.curCtx.rights.getLsbD 0 = false →
      ∃ t, exec (.btop f) s = .next t ∧ Enters s t s.cur.p s.cur.q s.curCtx.pc cPRIV none none) ∧
    (s.curCtx.rights.getLsbD 2 = false → ∀ i ∈ [Instr.traceOff f, .traceRecord f, .traceBind f, .traceRead f],
      ∃ t, exec i s = .next t ∧ Enters s t s.cur.p s.cur.q s.curCtx.pc cPRIV none none) ∧
    (s.curCtx.inTrap = false →
      ∃ t, exec (.eret f) s = .next t ∧ Enters s t s.cur.p s.cur.q s.curCtx.pc cPRIV none none)

/-! ## Tags and wake events -/

/-- WANY and WALL charge 1 and wait at their word. A context that waits at either goes on, with TAG_WAIT_COMPLETE moving PC
past the word, exactly when the condition on TAGS holds: every bit of the mask for WALL, some bit of it, or a mask of 0,
for WANY (R84). -/
def Sys2Proof.Claims.TagWaits : Prop :=
  (∀ (f : SeqF) (s : State) (all : Bool), guardOk s.curCtx f = true →
    ∃ t, exec (if all then .wall f else .wany f) s = .next t ∧
      t.curCtx.pc = s.curCtx.pc ∧ t.curCtx.ibud = s.curCtx.ibud - 1 ∧ t.curCtx.wait = .tags all (s.curCtx.rd f.a) ∧
      KeepsCtx s.curCtx t.curCtx (fun _ => False) (fun _ => False) ∧ OnlyCtx s t s.cur.p s.cur.q) ∧
  ∀ (s : State) (p : Fin 32) (q : Fin 4) (all : Bool) (m : BitVec 64), (s.ctx p q).wait = .tags all m →
    let met := if all then (s.ctx p q).tags &&& m = m else m = 0 ∨ (s.ctx p q).tags &&& m ≠ 0
    (met → ∃ t, exec (.tagWaitComplete p q) s = .next t ∧ (t.ctx p q).pc = (s.ctx p q).pc + 8 ∧
      (t.ctx p q).wait = .ready ∧ (t.ctx p q).ibud = (s.ctx p q).ibud ∧
      KeepsCtx (s.ctx p q) (t.ctx p q) (fun _ => False) (fun _ => False) ∧ OnlyCtx s t p q) ∧
    (¬ met → exec (.tagWaitComplete p q) s = .next s)

/-- TCLR clears the tags of A, but a tag that a completion sets in the same fc stays set (R83, R84). -/
def Sys2Proof.Claims.TagClear : Prop :=
  ∀ (f : SeqF) (s : State), guardOk s.curCtx f = true →
    ∃ t, exec (.tclr f) s = .next t ∧ t.curCtx.pc = s.curCtx.pc + 8 ∧ t.curCtx.ibud = s.curCtx.ibud - 1 ∧
      (∀ n, n < 64 → t.curCtx.tags.getLsbD n =
        (s.curCtx.tags.getLsbD n && (!(s.curCtx.rd f.a).getLsbD n || s.curCtx.setNow.getLsbD n))) ∧
      NoWrite s t s.cur.p s.cur.q ∧ OnlyCtx s t s.cur.p s.cur.q

/-- WFE waits at its word. WFE_WAKE ends it: with the latch set by the end of the commit cycle, three fc after the issue,
sD ← 1; of a gated context whose wake has come, sD ← 0, and the paddock leaves F3; the latch is cleared and PC moves on.
Before that it changes nothing. WAKE sets the latch of every context that A names, a halted one too, and gives a gated one
a wake within 2 µs. A paddock whose four contexts are gated or halted, with no region admitted and no chain at work, goes
to F3 (R85, Table 5-9). -/
def Sys2Proof.Claims.WfeAndWake : Prop :=
  (∀ (f : SeqF) (s : State), guardOk s.curCtx f = true →
    ∃ t, exec (.wfe f) s = .next t ∧ t.curCtx.pc = s.curCtx.pc ∧ t.curCtx.ibud = s.curCtx.ibud - 1 ∧
      t.curCtx.wait = .wfe (s.fc s.cur.p) f.d ∧ KeepsCtx s.curCtx t.curCtx (fun _ => False) (fun _ => False) ∧
      OnlyCtx s t s.cur.p s.cur.q) ∧
  (∀ (s : State) (p : Fin 32) (q : Fin 4) (n : Nat) (d : BitVec 5), (s.ctx p q).wait = .wfe n d →
    ((s.ctx p q).latch = true → n + 3 ≤ s.fc p →
      ∃ t, exec (.wfeWake p q) s = .next t ∧ (t.ctx p q).wait = .ready ∧ (t.ctx p q).latch = false ∧
        (t.ctx p q).pc = (s.ctx p q).pc + 8 ∧ (t.ctx p q).ibud = (s.ctx p q).ibud ∧ Writes s t p q d 1 ∧
        OnlyCtx s t p q) ∧
    ((s.ctx p q).latch = false ∨ s.fc p < n + 3 → exec (.wfeWake p q) s = .next s)) ∧
  (∀ (s : State) (p : Fin 32) (q : Fin 4) (d : BitVec 5) (n : Nat), (s.ctx p q).wait = .gated d (some n) →
    (s.ctx p q).latch = true → n ≤ s.now →
    ∃ t, exec (.wfeWake p q) s = .next t ∧ (t.ctx p q).wait = .ready ∧ (t.ctx p q).latch = false ∧
      (t.ctx p q).pc = (s.ctx p q).pc + 8 ∧ Writes s t p q d 0 ∧ (t.pad p).gatedF3 = false ∧ OnlyCtx s t p q) ∧
  (∀ (f : SeqF) (s : State), guardOk s.curCtx f = true →
    ∃ t, exec (.wake f) s = .next t ∧ t.curCtx.pc = s.curCtx.pc + 8 ∧ t.curCtx.ibud = s.curCtx.ibud - 1 ∧
      NoWrite s t s.cur.p s.cur.q ∧ SameBytes s t ∧
      ∀ n : Fin 4,
        let c := s.ctx s.cur.p n
        let e := t.ctx s.cur.p n
        e.latch = (c.latch || (s.curCtx.rd f.a).getLsbD n) ∧ e.halted = c.halted ∧ (n.val ≠ s.cur.q → e.pc = c.pc) ∧
          ((∀ d, c.wait ≠ .gated d none) → e.wait = c.wait) ∧
          (∀ d, c.wait = .gated d none → (s.curCtx.rd f.a).getLsbD n = true →
            ∃ k, e.wait = .gated d (some k) ∧ s.now ≤ k ∧ k < s.now + 4800)) ∧
  ∀ (s : State) (p : Fin 32),
    (∀ q, q < 4 → (s.ctx p q).halted = true ∨ ∃ d, (s.ctx p q).wait = .gated d none) →
    (∀ e ∈ (s.pad p).regions, e.2.alloc = false) →
    (∀ e ∈ (s.pad p).chains, e.2.st ≠ .running ∧ e.2.st ≠ .stampWait ∧ e.2.st ≠ .waitSeq) →
    ∃ t, exec (.paddockGateF3 p) s = .next t ∧ (t.pad p).freq = .f3 ∧ (∀ k, t.ctx p k = s.ctx p k) ∧
      (∀ k, k ≠ p.val → t.pad k = s.pad k) ∧ SameBytes s t

/-! ## The sequencer's memory instructions -/

/-- A load whose address is canonical, aligned, mapped and readable occupies its context, charged 1 unit of IBUD and of
TBUD as it issues. When it completes it writes the bytes at its address, zero-extended, or sign-extended by LDS. One of 64
bits may take its two halves at two moments, each translated and read as it then stands. No byte changes (R75, R76, R86,
R87, R185, R270, R338). -/
def Sys2Proof.Claims.LoadResult : Prop :=
  (∀ (i : Instr) (f : SeqF) (signed : Bool) (s : State) (p : Fin 32) (q : Fin 4) (pa : Nat) (host : Bool) (s' : State),
    loadRow i = some (f, signed) → guardOk s.curCtx f = true → s.cur.p = p.val → s.cur.q = q.val →
    let va := seqVa s.curCtx f
    let n := 2 ^ f.w.toNat
    checkAddr s p va n .read = (.ok pa host, s') →
    ∃ t, exec i s = .next t ∧ Issued s t p q 1 1 ∧
      ∀ (u u' : State) (pb : Nat) (hb : Bool), AccessDue t u p q → translate u p none va .read n = (.ok pb hb, u') →
        u'.badLine hb pb = false →
        ∃ w, exec (.seqOpComplete p q) u = .next w ∧ SameBytes u w ∧
          (Completes u w p q 0 0 ∧ Writes u w p q f.d
            (if signed then BitVec.ofInt 64 (sext (u.rdNat hb pb n) (8 * n)) else BitVec.ofNat 64 (u.rdNat hb pb n)) ∨
          n = 8 ∧ NoWrite u w p q ∧ (w.ctx p q).pc = (u.ctx p q).pc ∧ ∃ due word high,
            (w.ctx p q).wait = .busy due (.half word va pb hb high (u.rdNat hb (pb + halfByte high) 4)) ∧
            memKind (seqOpc word).toNat = .read ∧ seqFields word = f)) ∧
  ∀ (s s' : State) (p : Fin 32) (q : Fin 4) (due : Nat) (word va : BitVec 64) (pa pb : Nat) (host hb high : Bool) (got : Nat),
    (s.ctx p q).wait = .busy due (.half word va pa host high got) → memKind (seqOpc word).toNat = .read → due ≤ s.fc p →
    halfLate s p q va = false → translate s p none va .read 8 = (.ok pb hb, s') → s'.badLine hb pb = false →
    let rest := s.rdNat hb (pb + halfByte !high) 4
    ∃ t, exec (.seqOpComplete p q) s = .next t ∧ Completes s t p q 0 0 ∧ SameBytes s t ∧
      Writes s t p q (seqFields word).d (BitVec.ofNat 64 (if high then got * 2 ^ 32 + rest else rest * 2 ^ 32 + got))

/-- A store, charged 1 unit of IBUD and of TBUD as it issues, writes the low bytes of B at its address, lowest byte first,
and changes no other byte and no register; one of 64 bits may write its two halves at two moments (R3, R75, R76, R86, R87,
R185, R270). -/
def Sys2Proof.Claims.StoreResult : Prop :=
  (∀ (i : Instr) (f : SeqF) (s : State) (p : Fin 32) (q : Fin 4) (pa : Nat) (host : Bool) (s' : State),
    storeRow i = some f → guardOk s.curCtx f = true → s.cur.p = p.val → s.cur.q = q.val →
    let va := seqVa s.curCtx f
    let n := 2 ^ f.w.toNat
    checkAddr s p va n .write = (.ok pa host, s') →
    ∃ t, exec i s = .next t ∧ Issued s t p q 1 1 ∧
      ∀ (u u' : State) (pb : Nat) (hb : Bool), AccessDue t u p q → translate u p none va .write n = (.ok pb hb, u') →
        ∃ w, exec (.seqOpComplete p q) u = .next w ∧ NoWrite u w p q ∧
          ((Completes u w p q 0 0 ∧ Stored u w hb pb n ((u.ctx p q).rd f.b).toNat) ∨
          n = 8 ∧ (w.ctx p q).pc = (u.ctx p q).pc ∧ ∃ due word high,
            (w.ctx p q).wait = .busy due (.half word va pb hb high 0) ∧ memKind (seqOpc word).toNat = .write ∧
            seqFields word = f ∧
            Stored u w hb (pb + halfByte high) 4 (((u.ctx p q).rd f.b).toNat / 256 ^ halfByte high))) ∧
  ∀ (s : State) (p : Fin 32) (q : Fin 4) (due : Nat) (word va : BitVec 64) (pa : Nat) (host high : Bool) (got : Nat),
    (s.ctx p q).wait = .busy due (.half word va pa host high got) → memKind (seqOpc word).toNat = .write → due ≤ s.fc p →
    ∃ t, exec (.seqOpComplete p q) s = .next t ∧ Completes s t p q 0 0 ∧ NoWrite s t p q ∧
      Stored s t host (pa + halfByte !high) 4 (((s.ctx p q).rd (seqFields word).b).toNat / 256 ^ halfByte !high)

/-- An atomic, charged 1 unit of IBUD and of TBUD as it issues, writes sD ← the old value, zero-extended, and the new value
of Table 5-11 at its address; no other byte changes (R88, Table 5-11, R270). -/
def Sys2Proof.Claims.AtomicResult : Prop :=
  ∀ (i : Instr) (f : SeqF) (g : Nat → Nat → Nat → Nat → Nat) (s : State) (p : Fin 32) (q : Fin 4) (pa : Nat) (host : Bool)
    (s' : State),
    atomicRow i = some (f, g) → i.wf = true → guardOk s.curCtx f = true → s.cur.p = p.val → s.cur.q = q.val →
    let va := seqVa s.curCtx f
    let n := 2 ^ f.w.toNat
    checkAddr s p va n .atomic = (.ok pa host, s') →
    ∃ t, exec i s = .next t ∧ Issued s t p q 1 1 ∧
      ∀ (u u' : State) (pb : Nat) (hb : Bool), AccessDue t u p q → translate u p none va .atomic n = (.ok pb hb, u') →
        u'.badLine hb pb = false →
        let old := u.rdNat hb pb n
        let new := g (8 * n) old ((u.ctx p q).rd f.b).toNat ((u.ctx p q).rd f.d).toNat
        ∃ w, exec (.seqOpComplete p q) u = .next w ∧ Completes u w p q 0 0 ∧ Writes u w p q f.d (BitVec.ofNat 64 old) ∧
          Stored u w hb pb n new

/-- FENCE and PREF, charged 1 unit of IBUD as they issue, complete whatever their address: no register and no byte changes,
and PREF charges at most 1 unit of TBUD, when a line moves (R76, R89, R90, R270; log 32 has the charge of that line at
completion). -/
def Sys2Proof.Claims.FenceAndPrefComplete : Prop :=
  ∀ (f : SeqF) (s : State) (p : Fin 32) (q : Fin 4) (i : Instr), i = .seqFence f ∨ i = .seqPref f →
    guardOk s.curCtx f = true → s.cur.p = p.val → s.cur.q = q.val →
    ∃ t, exec i s = .next t ∧ Issued s t p q 1 0 ∧
      ∀ u : State, AccessDue t u p q →
        ∃ w tb, exec (.seqOpComplete p q) u = .next w ∧ tb ≤ 1 ∧ (i = .seqFence f → tb = 0) ∧
          Completes u w p q 0 tb ∧ NoWrite u w p q ∧ SameBytes u w

/-- O12. Where a memory instruction traps: an address that is not canonical gives XLATE, a canonical one that is no multiple
of the width MISALIGN, any other fault of its translation that fault's cause, all with TVAL the address and TVAL2 the
access kind; a load or an atomic of a line with an uncorrectable error gives ECC_UE, and a request through a memory
stile that was outstanding for STILETMO fc gives STILE_TMO, both with TVAL the address; and a translation that fails as
the access is performed gives its cause. The second half of a 64-bit load traps as a whole load does. An access that traps
charges nothing: what its issue charged is given back (R76, R270; log 32). No byte changes (R86, R160, R185, R320, R325,
R338). -/
def Obligations.AddressFaults : Prop :=
  (∀ (i : Instr) (f : SeqF) (k : AccKind) (s : State), accessRow i = some (f, k) → guardOk s.curCtx f = true →
    let va := seqVa s.curCtx f
    (canonical va = false →
      ∃ t, exec i s = .next t ∧
        Enters s t s.cur.p s.cur.q s.curCtx.pc cXLATE (some va) (some (BitVec.ofNat 64 k.code))) ∧
    (canonical va = true → va.toNat % 2 ^ f.w.toNat ≠ 0 →
      ∃ t, exec i s = .next t ∧
        Enters s t s.cur.p s.cur.q s.curCtx.pc cMISALIGN (some va) (some (BitVec.ofNat 64 k.code))) ∧
    (∀ c s', checkAddr s s.cur.p va (2 ^ f.w.toNat) k = (.fault c, s') →
      ∃ t, exec i s = .next t ∧
        Enters s t s.cur.p s.cur.q s.curCtx.pc c (some va) (some (BitVec.ofNat 64 k.code)))) ∧
  (∀ (i : Instr) (f : SeqF) (k : AccKind) (s s' : State) (p : Fin 32) (q : Fin 4) (due : Nat) (w va : BitVec 64) (pa : Nat)
    (host : Bool), accessRow i = some (f, k) → encode i = some w → (s.ctx p q).wait = .busy due (.access w va) →
    due ≤ s.fc p → translate s p none va k (2 ^ f.w.toNat) = (.ok pa host, s') → k ≠ .write → s'.badLine host pa = true →
    ∃ t, exec (.seqOpComplete p q) s = .next t ∧ Enters (refunded s p q) t p q (s.ctx p q).pc cECC_UE (some va) none) ∧
  (∀ (i : Instr) (f : SeqF) (k : AccKind) (s s' : State) (p : Fin 32) (q : Fin 4) (due : Nat) (w va : BitVec 64)
    (c : BitVec 8), accessRow i = some (f, k) → encode i = some w → (s.ctx p q).wait = .busy due (.access w va) →
    due ≤ s.fc p → translate s p none va k (2 ^ f.w.toNat) = (.fault c, s') →
    ∃ t, exec (.seqOpComplete p q) s = .next t ∧
      Enters (refunded s p q) t p q (s.ctx p q).pc c (some va) (some (BitVec.ofNat 64 k.code))) ∧
  (∀ (s : State) (p : Fin 32) (q : Fin 4) (due : Nat) (word va : BitVec 64) (pa : Nat) (host high : Bool) (got : Nat),
    (s.ctx p q).wait = .busy due (.half word va pa host high got) → memKind (seqOpc word).toNat = .read → due ≤ s.fc p →
    let traps := fun (cause : BitVec 8) (tval2 : Option (BitVec 64)) =>
      ∃ t, exec (.seqOpComplete p q) s = .next t ∧ Enters (refunded s p q) t p q (s.ctx p q).pc cause (some va) tval2
    (halfLate s p q va = true → traps cSTILE_TMO none) ∧
    (halfLate s p q va = false →
      (∀ c s', translate s p none va .read 8 = (.fault c, s') → traps c (some (BitVec.ofNat 64 AccKind.read.code))) ∧
      ∀ pb hb s', translate s p none va .read 8 = (.ok pb hb, s') → s'.badLine hb pb = true → traps cECC_UE none)) ∧
  ∀ (s : State) (p : Fin 32) (q : Fin 4) (due : Nat) (va : BitVec 64),
    (s.ctx p q).wait = .busy due (.timeout va) → due ≤ s.fc p →
    ∃ t, exec (.seqOpComplete p q) s = .next t ∧ Enters (refunded s p q) t p q (s.ctx p q).pc cSTILE_TMO (some va) none

namespace Sys2Proof.Claims

open Sys2Proof.Machine

/-- A context stands at its instruction and waits for a condition of the end of an fc (the poll of an opcode). What the
instruction charges it was charged as it issued (R270); one that waits and then traps gets that back (R76; log 32). -/
def Polls (s t : State) (p q : Nat) (opc : BitVec 8) (f : SeqF) (stage ib tb : Nat) : Prop :=
  (t.ctx p q).wait = .poll (seqPack opc f) stage ∧ (t.ctx p q).pc = (s.ctx p q).pc ∧
    (t.ctx p q).ibud = (s.ctx p q).ibud - BitVec.ofNat 64 ib ∧ (t.ctx p q).tbud = (s.ctx p q).tbud - BitVec.ofNat 64 tb

/-- A refused instruction: ACCESS with its operand and a detail code, precise (R147, R279, R307, R336). -/
def Refused (i : Instr) (s : State) (a : BitVec 64) (detail : Nat) : Prop :=
  ∃ t, exec i s = .next t ∧
    Enters s t s.cur.p s.cur.q s.curCtx.pc cACCESS (some a) (some (BitVec.ofNat 64 detail))

/-- A context that CTXS may save at once (R335): halted, gated, or at an instruction boundary, which a wait for tags, for a
wake or for a condition is too, but for JREV and JRPL (R308). -/
def standsStill (c : Ctx) : Bool :=
  c.halted || (match c.wait with
    | .ready | .tags _ _ | .wfe _ _ | .gated _ _ => true
    | .busy _ _ => false
    | .poll w _ => seqOpc w != 0x96 && seqOpc w != 0x97)

/-- A paddock that may become a member of partition n (R326, R333): CLOSED, up, its contexts halted, no region, in no other
partition, and its DRAM clean or last used by this partition. -/
def mayJoin (n : Nat) (x : Paddock) : Prop :=
  x.gate = .closed ∧ x.up = true ∧ x.down = false ∧ (∀ q, q < 4 → (x.ctx q).halted = true) ∧
    (∀ e ∈ x.regions, e.2.alloc = false) ∧ (x.part = none ∨ x.part = some n) ∧
    (x.dclean = true ∨ x.lastPart = none ∨ x.lastPart = some n)

/-- A paddock that may leave its partition: CLOSED, its contexts halted, no region (log 53). -/
def mayLeave (x : Paddock) : Prop :=
  x.gate = .closed ∧ (∀ q, q < 4 → (x.ctx q).halted = true) ∧ ∀ e ∈ x.regions, e.2.alloc = false

end Sys2Proof.Claims

/-! ## PGATE, STIL, CTXS and CTXR -/

/-- PGATE STATUS reads a paddock's status; OPEN of a paddock that has a partition leaves it OPEN (RESETTING, when it is
in reset); CLOSE leaves an OPEN paddock CLOSED and waits for the crossings of its boundary; RESET leaves it RESETTING and
waits for its end; FREQ sets the ceiling and waits for the clock; FORM of a mask that Table 16-5 has, with members that
may join and leave, makes that partition. All complete with the status of the paddock A names (FORM: the lowest of its
mask). CLOSE and RESET of the own paddock are refused with 0x61, FREQ 3 with 0x60, OPEN without a partition with 0x67,
FORM with 0x60 or 0x62. While a member's reset goes on, CLOSE waits for nothing but crossings and RESET for its end and for
the crossings (R326, R333, R339). What a RESETTING paddock does on CLOSE and OPEN, and what FORM asks of a member that
leaves, are the model's choice (log 53), as is one ceiling for FREQ and POLICY (log 58). -/
def Sys2Proof.Claims.PaddockGates : Prop :=
  ∀ (f : SeqF) (s : State) (p : Fin 32) (q : Fin 4), s.cur.p = p.val → s.cur.q = q.val →
    guardOk s.curCtx f = true → s.curCtx.priv = true → s.curCtx.wait = .ready →
    let a := s.curCtx.rd f.a
    let h := a.toNat % 32
    let v := a.toNat / 256 % 4
    let mask := BitVec.ofNat 32 a.toNat
    let n := (lowBit mask 32)
    (∃ t, exec (.pgateStatus f) s = .next t ∧ Completes s t p q 1 0 ∧ Writes s t p q f.d (gateStatus (s.pad h)) ∧
      OnlyCtx s t p q) ∧
    ((s.pad h).part ≠ none →
      ∃ t, exec (.pgateOpen f) s = .next t ∧ Completes s t p q 1 0 ∧ Writes s t p q f.d (gateStatus (t.pad h)) ∧
        (t.pad h).gate = (if (s.pad h).gate = .resetting then .resetting else .open_) ∧
        (∀ h', h' ≠ h → (t.pad h').gate = (s.pad h').gate) ∧ SameBytes s t) ∧
    ((s.pad h).part = none → Refused (.pgateOpen f) s a 0x67) ∧
    (h = p → Refused (.pgateClose f) s a 0x61 ∧ Refused (.pgateReset f) s a 0x61) ∧
    (h ≠ p → (Instr.pgateClose f).wf = true →
      ∃ t, exec (.pgateClose f) s = .next t ∧
        (t.pad h).gate = (if (s.pad h).gate = .open_ then .closed else (s.pad h).gate) ∧ SameBytes s t ∧
        (crossing? t h = false → Completes s t p q 1 0 ∧ Writes s t p q f.d (gateStatus (t.pad h))) ∧
        (crossing? t h = true → Polls s t p q 0xA6 f 0 1 0)) ∧
    (h ≠ p → (s.pad h).down = false →
      ∃ t, exec (.pgateReset f) s = .next t ∧ (t.pad h).gate = .resetting ∧ (t.pad h).part = (s.pad h).part ∧
        (∀ k, k < 4 → (t.ctx h k).halted = true) ∧ (∀ k, (t.region h k).alloc = false) ∧ Polls s t p q 0xA6 f 0 1 0 ∧
        (a.getLsbD 16 = true → ∀ b, b / 2 ^ 33 = h → t.rdByte false b = 0) ∧
        ∀ b, b / 2 ^ 33 ≠ h → t.rdByte false b = s.rdByte false b) ∧
    (v = 3 → Refused (.pgateFreq f) s a 0x60) ∧
    (v ≠ 3 → (Instr.pgateFreq f).wf = true →
      ∃ t, exec (.pgateFreq f) s = .next t ∧ (t.pad h).ceil = BitVec.ofNat 2 v ∧ SameBytes s t ∧
        (Completes s t p q 1 0 ∧ Writes s t p q f.d (gateStatus (t.pad h)) ∨
          Polls s t p q 0xA6 f (t.pad h).next 1 0)) ∧
    (placements.contains mask.toNat = false → Refused (.pgateForm f) s a 0x60) ∧
    (placements.contains mask.toNat = true → (∀ k, k < 32 → mask.getLsbD k = true → mayJoin n (s.pad k)) →
      (∀ k, k < 32 → mask.getLsbD k = false → (s.pad k).part = some n → mayLeave (s.pad k)) →
      ∃ t, exec (.pgateForm f) s = .next t ∧ Completes s t p q 1 0 ∧ Writes s t p q f.d (gateStatus (t.pad n)) ∧
        (t.part n).exists_ = true ∧ (t.part n).mask = mask ∧
        ∀ k, k < 32 → (t.pad k).part =
          (if mask.getLsbD k then some n else if (s.pad k).part = some n then none else (s.pad k).part)) ∧
    (placements.contains mask.toNat = true → (∃ k, k < 32 ∧ mask.getLsbD k = true ∧ ¬ mayJoin n (s.pad k)) ∨
        (∃ k, k < 32 ∧ mask.getLsbD k = false ∧ (s.pad k).part = some n ∧ ¬ mayLeave (s.pad k)) →
      Refused (.pgateForm f) s a 0x62) ∧
    ∀ u : State, ∀ stage, (u.ctx p q).wait = .poll (seqPack 0xA6 f) stage →
      f.imm = 1 ∧ crossing? u (gatePad u f p q) = false ∨
        f.imm = 3 ∧ (u.pad (gatePad u f p q)).gate ≠ .resetting ∧ crossing? u (gatePad u f p q) = false ∨
        f.imm = 4 ∧ stage ≤ u.now →
      ∃ w, exec (.seqOpComplete p q) u = .next w ∧ Completes u w p q 0 0 ∧
        Writes u w p q f.d (gateStatus (u.pad (gatePad u f p q))) ∧ OnlyCtx u w p q

/-- STIL CHANNEL and MEMORY build a stile under an index its owner has free and answer its handle, index plus 256 times
the owner; CLOSE of a handle in use takes the stile out and answers 0. What R334 forbids is refused with 0x66: an edge
tile the receiver has not, one paddock for both ends, a size or a base that is not allowed, a ninth stile, no such
handle (R323, R324, R334). -/
def Sys2Proof.Claims.Stiles : Prop :=
  ∀ (f : SeqF) (s : State), guardOk s.curCtx f = true → s.curCtx.priv = true →
    let (p, q) := (s.cur.p, s.cur.q)
    let a := s.curCtx.rd f.a
    let b := s.curCtx.rd f.b
    let rp := b.toNat % 32
    let st := tileAt (a.toNat / 256 % 16) (a.toNat / 4096 % 16)
    let rt := tileAt (b.toNat / 256 % 16) (b.toNat / 4096 % 16)
    let inside := [a.toNat / 256 % 16, a.toNat / 4096 % 16, b.toNat / 256 % 16, b.toNat / 4096 % 16].all (· < 12)
    let same := List.filter (fun e : Nat × ChanStile => e.2.rp == rp && edgeOf e.2.rt == edgeOf rt) s.chStiles
    let log2 := b.toNat % 64
    let owner := a.toNat / 2 ^ 33
    let held := List.filter (fun e : Nat × MemStile => e.2.owner == owner) s.mStiles
    let used := fun (o i : Nat) =>
      Tbl.find? s.chStiles (stileKey o i) ≠ none ∨ Tbl.find? s.mStiles (stileKey o i) ≠ none
    let k := stileKey (a.toNat / 256 % 32) (a.toNat % 64)
    (inside = true → a.toNat % 32 ≠ rp → onEdge rt = true → same.length < 8 → (∃ i, i < 64 ∧ ¬ used rp i) →
      ∃ t ix, exec (.stilChannel f) s = .next t ∧ ix < 64 ∧ ¬ used rp ix ∧ Completes s t p q 1 0 ∧
        Writes s t p q f.d (BitVec.ofNat 64 (ix + 256 * rp)) ∧ SameBytes s t ∧
        ∃ z, Tbl.find? t.chStiles (stileKey rp ix) = some z ∧ z.sp = a.toNat % 32 ∧ z.st = st ∧
          z.so = a.toNat / 2 ^ 16 % 4 ∧ z.rp = rp ∧ z.rt = rt ∧ z.flight = [] ∧ z.port = []) ∧
    (inside = false ∨ a.toNat % 32 = rp ∨ onEdge rt = false ∨ 8 ≤ same.length ∨
        (∀ i, i < 64 → used rp i) → Refused (.stilChannel f) s a 0x66) ∧
    (16 ≤ log2 → log2 ≤ 33 → owner < 32 → a.toNat % 2 ^ log2 = 0 → held.length < 8 → (∃ i, i < 64 ∧ ¬ used owner i) →
      ∃ t ix, exec (.stilMemory f) s = .next t ∧ ix < 64 ∧ ¬ used owner ix ∧ Completes s t p q 1 0 ∧
        Writes s t p q f.d (BitVec.ofNat 64 (ix + 256 * owner)) ∧ SameBytes s t ∧
        Tbl.find? t.mStiles (stileKey owner ix) = some
          { owner := owner, base := a.toNat, log2 := log2, write := b.getLsbD 8, part := b.toNat / 2 ^ 16 % 32 }) ∧
    (log2 < 16 ∨ 33 < log2 ∨ 32 ≤ owner ∨ a.toNat % 2 ^ log2 ≠ 0 ∨ 8 ≤ held.length ∨
        (∀ i, i < 64 → used owner i) → Refused (.stilMemory f) s a 0x66) ∧
    (a = BitVec.ofNat 64 (a.toNat % 64 + 256 * (a.toNat / 256 % 32)) →
      (Tbl.find? s.chStiles k ≠ none ∨ Tbl.find? s.mStiles k ≠ none) →
      ∃ t, exec (.stilClose f) s = .next t ∧ Completes s t p q 1 0 ∧ Writes s t p q f.d 0 ∧ SameBytes s t ∧
        (Tbl.find? s.chStiles k ≠ none → Tbl.find? t.chStiles k = none) ∧
        (Tbl.find? s.chStiles k = none → Tbl.find? t.mStiles k = none)) ∧
    (a ≠ BitVec.ofNat 64 (a.toNat % 64 + 256 * (a.toNat / 256 % 32)) ∨
        Tbl.find? s.chStiles k = none ∧ Tbl.find? s.mStiles k = none →
      Refused (.stilClose f) s a 0x66)

/-- O15. CTXS of another context of the paddock that is halted, gated or stands at a boundary writes its 512-byte area at B,
charges 1 and 8, and leaves the context SAVED; with an area that does not translate it takes the fault, no byte is written
and nothing is saved or charged. For a context within an instruction it waits, and that context issues no further one. It
is refused with 0x63 for the own context or a SAVED one. CTXR gives a SAVED or halted context what its area holds, but
TAGS, RIGHTS and the counters, and it runs when IMM[0] is 1. Both are open to a privileged context and to one with
RIGHTS.DEBUG (R335, Table 16-10; that a gated context's wait is a boundary is the model's choice, log 53). -/
def Obligations.ContextSaveAndRestore : Prop :=
  ∀ (f : SeqF) (s : State) (p : Fin 32) (q : Fin 4), s.cur.p = p.val → s.cur.q = q.val →
    guardOk s.curCtx f = true → s.curCtx.priv = true ∨ s.curCtx.rights.getLsbD 3 = true →
    let a := s.curCtx.rd f.a
    let b := s.curCtx.rd f.b
    let k := a.toNat % 4
    let c := s.ctx p k
    (k = q ∨ c.saved = true → Refused (.ctxs f) s a 0x63) ∧
    (∀ i ib tb, (i = .ctxs f ∧ ib = 1 ∧ tb = 8 ∧ k ≠ q ∧ c.saved = false ∧ canonical b = true ∧ b.toNat % 64 = 0 ∨
        i = .seqOpComplete p q ∧ ib = 0 ∧ tb = 0 ∧ s.curCtx.wait = .poll (seqPack 0xA8 f) 0 ∧ k ≠ q) →
      standsStill c = true →
      (∀ s', writeBytes s p b (ctxBytes c p k) = (none, s') →
        ∃ t, exec i s = .next t ∧ Completes s t p q ib tb ∧ NoWrite s t p q ∧ (t.ctx p k).saved = true ∧
          (∀ r, (t.ctx p k).rd r = c.rd r) ∧ (t.ctx p k).pc = c.pc ∧ ∀ h x, t.rdByte h x = s'.rdByte h x) ∧
      ∀ e va s', writeBytes s p b (ctxBytes c p k) = (some (e, va), s') →
        ∃ t, exec i s = .next t ∧ t.ctx p k = c ∧ (t.ctx p q).epc = s.curCtx.pc ∧ (t.ctx p q).tcause = e.setWidth 64 ∧
          (t.ctx p q).tval = va ∧ (t.ctx p q).ibud = s.curCtx.ibud + BitVec.ofNat 64 (1 - ib) ∧
          (t.ctx p q).tbud = s.curCtx.tbud + BitVec.ofNat 64 (8 - tb) ∧ ∀ x, t.rdByte false x = s.rdByte false x) ∧
    (k ≠ q → c.saved = false → standsStill c = false → canonical b = true → b.toNat % 64 = 0 →
      ∃ t, exec (.ctxs f) s = .next t ∧ Polls s t p q 0xA8 f 0 1 8 ∧ OnlyCtx s t p q ∧ (t.pad p).isReady k = false) ∧
    (k ≠ q → c.saved = false → canonical b = false →
      ∃ t, exec (.ctxs f) s = .next t ∧ Enters s t p q s.curCtx.pc cXLATE (some b) (some 1)) ∧
    (k ≠ q → c.saved = false → canonical b = true → b.toNat % 64 ≠ 0 →
      ∃ t, exec (.ctxs f) s = .next t ∧ Enters s t p q s.curCtx.pc cMISALIGN (some b) (some 1)) ∧
    (c.saved = false → c.halted = false → Refused (.ctxr f) s a 0x64) ∧
    (∀ bs s', c.saved = true ∨ c.halted = true → canonical b = true → b.toNat % 64 = 0 →
      readBytes s p .read b 512 = (.ok bs, s') →
      natOfBytes (bs.take 8) % 8 ≠ 0 ∨ natOfBytes ((bs.drop 0x100).take 8) / 2 ^ 10 % 4 ≠ k ∨
        natOfBytes ((bs.drop 0x100).take 8) / 2 ^ 12 % 32 ≠ p → Refused (.ctxr f) s a 0x65) ∧
    (c.saved = true ∨ c.halted = true → canonical b = true → b.toNat % 64 = 0 →
      ∀ bs s', readBytes s p .read b 512 = (.ok bs, s') →
      let w := fun (off : Nat) => BitVec.ofNat 64 (natOfBytes ((bs.drop off).take 8))
      (w 0).toNat % 8 = 0 → (w 0x100).toNat / 2 ^ 10 % 4 = k → (w 0x100).toNat / 2 ^ 12 % 32 = p → k ≠ q →
      ∃ t, exec (.ctxr f) s = .next t ∧ Completes s t p q 1 8 ∧ NoWrite s t p q ∧
        (let d := t.ctx p k
         d.pc = w 0 ∧ (∀ r : BitVec 5, d.rd r = if r = 0 then 0 else w (8 * r.toNat)) ∧
         d.preds = (w 0x100).setWidth 8 ∧ d.latch = (w 0x100).getLsbD 8 ∧ d.inTrap = (w 0x110).getLsbD 0 ∧
         d.tvec = w 0x118 ∧ d.epc = w 0x120 ∧ d.tcause = w 0x128 &&& 0xFF ∧ d.tval = w 0x130 ∧ d.tval2 = w 0x138 ∧
         d.contpt = w 0x158 ∧ d.tagmask = w 0x160 ∧ d.saved = false ∧ d.halted = !f.imm.getLsbD 0 ∧
         (d.tags, d.rights, d.ibud, d.tbud, d.lrec) = (c.tags, c.rights, c.ibud, c.tbud, c.lrec)) ∧
        ∀ h x, t.rdByte h x = s'.rdByte h x)

/-- The events of the power clamp: a step down moves a paddock one frequency state below the slower of its ceiling and its
clamp, as far as F3; a step up raises its clamp by one; the module's limit lowers the clamp of a paddock whose clock runs,
not held in reset, by one and remembers it, and raises again the paddock lowered last (R10, R327, R388; one clamp state for both limits is
the model's choice, log 58). -/
def Sys2Proof.Claims.PowerClamp : Prop :=
  ∀ (s : State) (p : Fin 32),
    ((s.pad p).up = true →
      (∃ t, exec (.clampStepDown p) s = .next t ∧
        (t.pad p).clamp.toNat = min 3 (max (s.pad p).ceil.toNat (s.pad p).clamp.toNat + 1) ∧
        (t.pad p).ceil = (s.pad p).ceil ∧ ∀ h k, (h ≠ p.val → t.pad h = s.pad h) ∧ t.ctx h k = s.ctx h k) ∧
      ∃ t, exec (.clampStepUp p) s = .next t ∧ (t.pad p).clamp.toNat = (s.pad p).clamp.toNat - 1 ∧
        (t.pad p).ceil = (s.pad p).ceil ∧ ∀ h k, (h ≠ p.val → t.pad h = s.pad h) ∧ t.ctx h k = s.ctx h k) ∧
    ((∃ h, h < 32 ∧ (s.pad h).up = true ∧ (s.pad h).freq ≠ .f3 ∧ (s.pad h).gate ≠ .resetting) →
      ∃ t h, exec .plimStepDown s = .next t ∧ h < 32 ∧ (s.pad h).up = true ∧ (s.pad h).freq ≠ .f3 ∧
        (s.pad h).gate ≠ .resetting ∧
        t.lowered = h :: s.lowered ∧ (t.pad h).clamp.toNat = (s.pad h).clamp.toNat + 1 ∧
        (∀ k, k ≠ h → t.pad k = s.pad k) ∧ SameBytes s t) ∧
    ∀ h l, s.lowered = h :: l →
      ∃ t, exec .plimStepUp s = .next t ∧ t.lowered = l ∧ (t.pad h).clamp.toNat = (s.pad h).clamp.toNat - 1 ∧ SameBytes s t
namespace Sys2Proof.Claims

open Sys2Proof.Machine

/-- The class instructions that name a region by A[3:0] (R143). -/
def regionRow : Instr → Option SeqF
  | .rgnf f | .cfgl f | .cfga f | .splc f | .rfold f | .rfoldUnfold f | .qwait f | .toksv f | .tokrs f | .decb f
  | .rgns f => some f
  | _ => none

/-- The acting context issues an instruction that names its own region id (R125, R143). -/
structure Names (s : State) (p : Fin 32) (q : Fin 4) (f : SeqF) (id : Nat) : Prop where
  atP : s.cur.p = p.val
  atQ : s.cur.q = q.val
  passes : guardOk s.curCtx f = true
  named : (s.curCtx.rd f.a).toNat % 16 = id
  isAlloc : (s.region p id).alloc = true
  owns : (s.region p id).owner = q.val

/-- The owner of region id waits in an instruction that names it. -/
structure PollsOn (s : State) (p : Fin 32) (q : Fin 4) (opc : BitVec 8) (f : SeqF) (stage id : Nat) : Prop where
  waits : (s.ctx p q).wait = .poll (seqPack opc f) stage
  named : ((s.ctx p q).rd f.a).toNat % 16 = id
  isAlloc : (s.region p id).alloc = true
  owns : (s.region p id).owner = q.val

/-- The other regions of a paddock and every other paddock's are as before. -/
def OtherRegions (s t : State) (p id : Nat) : Prop :=
  ∀ h k, (h, k) ≠ (p, id) → t.region h k = s.region h k

/-- Nothing but the acting context's wait and the charge of 1 unit of IBUD. -/
def OnlyWaits (s t : State) (p q : Nat) (opc : BitVec 8) (f : SeqF) (stage : Nat) : Prop :=
  Polls s t p q opc f stage 1 0 ∧ OnlyCtx s t p q ∧ NoWrite s t p q

/-- A region as an activation of slot n leaves it (R134): the slot is active on a running region with nothing pending,
and on each of its tiles predicates are 0, the element is not halted, and stream state is as R109 starts it; `full`
(CFGA and LNCH) also zeroes the locals. -/
def Activated (s t : State) (p id n : Nat) (full : Bool) : Prop :=
  let r := t.region p id
  r.act = some (BitVec.ofNat 2 n) ∧ r.st = .running ∧ r.saved = false ∧ r.dec = none ∧ r.spl = none ∧
  r.runFrom = s.fc p + 1 ∧ (r.row0, r.col0, r.h, r.w) = ((s.region p id).row0, (s.region p id).col0, (s.region p id).h, (s.region p id).w) ∧
  ∀ k ∈ (s.region p id).tileList,
    let tl := t.tile p k
    tl.preds = 0 ∧ tl.halt = false ∧ tl.arm = false ∧ tl.x = 0 ∧ tl.l = 15 ∧ tl.a = -1 ∧
    (full = true → ∀ j, tl.lc j = 0 ∧ tl.vc j = 0 ∧ Tbl.get 0x3F800000 tl.mx.scale j = 0x3F800000 ∧ Tbl.get 0 tl.mx.zp j = 0) ∧
    (full = false → (∀ j, tl.lc j = (s.tile p k).lc j) ∧ tl.mx = (s.tile p k).mx)

/-- No matrix operation of a tile is in progress, and none completed in this fc (R132). -/
def NoMatrixWork (s : State) (p k : Nat) : Prop :=
  let m := (s.tile p k).mx
  (m.away = none → m.pass = none ∧ m.drain = none) ∧ m.last ≠ some (s.fc p)

/-- None of the operations that R132 lists is in progress in a region: no request, no matrix operation and no result not
yet sent on its tiles, no engine entry it, or an earlier region of its task, announced that is not complete, no token of
its outputs over a stile, no message in the network. -/
def OpsDone (s : State) (p id : Nat) (r : Region) : Prop :=
  (∀ k ∈ r.tileList, (s.tile p k).reqs = [] ∧ (s.tile p k).outq = [] ∧ NoMatrixWork s p k) ∧
  (∀ e ∈ (s.pad p).chains, (e.2.st ≠ .detached ∧ e.2.st ≠ .halted ∧ e.2.st ≠ .stopped) →
    ∀ a ∈ e.2.announced, (a.2 = .region id ∨ ∃ k, (s.region p id).task = some k ∧ a.2 = .task k (s.task p k).ser) →
      a.1.toNat ≤ e.2.done.toNat) ∧
  (∀ e ∈ s.chStiles, e.2.sp = p → inRect r.row0 r.col0 r.h r.w e.2.st = true → e.2.flight = []) ∧
  ∀ m ∈ (s.pad p).msgs, m.rid ≠ some id

/-- A drained region (R132): nothing in progress, no token in its buffers, every pending count zero. -/
def Drained (s : State) (p id : Nat) (r : Region) : Prop :=
  r.recover = none ∧ OpsDone s p id r ∧
    ∀ k ∈ r.tileList, (∀ e ∈ (s.tile p k).bufs, e.2.toks = []) ∧ ∀ e ∈ (s.tile p k).pend, e.2 = 0

/-- The four conditions of R137 on a tile: no memory or matrix operation in progress; every input that has a channel has
had its EOS of the old GEN and holds no token of it; every output that has one has sent its EOS, or the element has
halted; every pending count is zero. The region runs and the tile has not swapped. -/
def SwapConditions (s : State) (p k : Nat) (r : Region) (sp : Splice) : Prop :=
  let tl := s.tile p k
  let c := ((s.pad p).cfgAt k).getD []
  r.st = .running ∧ tl.swapped = false ∧ (∀ q ∈ tl.reqs, 0x89 < (fabOpc q.word).toNat) ∧ NoMatrixWork s p k ∧
  (∀ n, n < 4 → c.inPlane n ≠ none → bitAt tl.eosIn n = true ∧ ∀ y ∈ (tl.buf n).toks, y.gen ≠ sp.oldGen) ∧
  (∀ n, n < 4 → c.outPlane n ≠ none → tl.halt = true ∨ bitAt tl.eosOut n = true) ∧ ∀ e ∈ tl.pend, e.2 = 0

/-- The owner of a region waits in a CFGA of it without FORCE, for the region to drain. -/
def CfgaDrains (s : State) (p id : Nat) : Prop :=
  let c := s.ctx p (s.region p id).owner
  ∃ w, c.wait = .poll w 0 ∧ seqOpc w = 0x63 ∧ (c.rd (seqFields w).a).toNat % 16 = id ∧
    (seqFields w).imm.getLsbD 2 = false

end Sys2Proof.Claims

/-! ## The region class -/

/-- An instruction that names a region id that is not allocated, or a region of another context, is refused with 0x10
(R125, R147). -/
def Sys2Proof.Claims.RegionOwnership : Prop :=
  ∀ (i : Instr) (f : SeqF) (s : State), regionRow i = some f → guardOk s.curCtx f = true →
    let a := s.curCtx.rd f.a
    let r := s.region s.cur.p (a.toNat % 16)
    r.alloc = false ∨ r.owner ≠ s.cur.q → Refused i s a 0x10

/-- RGNA places its bid last among those waiting and waits; a descriptor that is not well formed is refused with 0x1B;
with TRY, a bid not admitted in its fc is withdrawn and sD ← 2^64 − 1. BID_ADMIT of the arbiter's choice, of the only
bid where its rectangle is free in particular, allocates a free region id to a context's bid, the lowest one by the model's
choice (log 105), with the granted rectangle, no configuration, and RGNA completes with id + 256 row0 + 4,096 col0 (R125 to
R129, R144). -/
def Sys2Proof.Claims.RegionAdmission : Prop :=
  (∀ (f : SeqF) (s : State), guardOk s.curCtx f = true →
    let (p, q) := (s.cur.p, s.cur.q)
    let a := s.curCtx.rd f.a
    let row0 := a.toNat % 16
    let col0 := a.toNat / 16 % 16
    let h := a.toNat / 256 % 16 + 1
    let w := a.toNat / 4096 % 16 + 1
    let mode := a.toNat / 2 ^ 16 % 4
    (row0 + h ≤ 12 ∧ col0 + w ≤ 12 ∧ mode ≤ 2 →
      ∃ t b, exec (.rgna f) s = .next t ∧ Polls s t p q 0x60 f 0 1 0 ∧ SameBytes s t ∧
        (t.pad p).bids = (s.pad p).bids ++ [b] ∧ b.kind = .ctx q ∧
        (b.row0, b.col0, b.h, b.w, b.mode) = (row0, col0, h, w, mode) ∧ b.prio = a.toNat / 2 ^ 18 % 8 ∧ b.q = q ∧
        b.arr = s.fc p ∧ b.age = 0) ∧
    (12 < row0 + h ∨ 12 < col0 + w ∨ 2 < mode → Refused (.rgna f) s a 0x1B)) ∧
  (∀ (f : SeqF) (s : State) (p : Fin 32) (q : Fin 4) (st : Nat), (s.ctx p q).wait = .poll (seqPack 0x60 f) st →
    f.imm.getLsbD 0 = true →
    ∃ t, exec (.seqOpComplete p q) s = .next t ∧ Completes s t p q 0 0 ∧ Writes s t p q f.d (BitVec.ofNat 64 (2 ^ 64 - 1)) ∧
      ∀ b ∈ (t.pad p).bids, b.kind ≠ .ctx q) ∧
  (∀ (f : SeqF) (s : State) (p : Fin 32) (q : Fin 4) (id : Nat) (b : Bid) (st : Nat),
    (s.pad p).bids = [b] → b.kind = .ctx q → b.q = q.val → b.mode = 0 → b.row0 + b.h ≤ 12 → b.col0 + b.w ≤ 12 →
    (∀ k ∈ rectTiles b.row0 b.col0 b.h b.w, ∀ e ∈ (s.pad p).regions, e.2.alloc = true →
      inRect e.2.row0 e.2.col0 e.2.h e.2.w k = false) →
    id < 16 → (s.region p id).alloc = false → (∀ j, j < id → (s.region p j).alloc = true) →
    (s.ctx p q).wait = .poll (seqPack 0x60 f) st → (s.pad p).trace.mode = 0 → (s.pad p).trace.till ≤ s.fc p →
    ∃ t, exec (.bidAdmit p 0) s = .next t ∧ (t.region p id).alloc = true ∧ (t.region p id).owner = q.val ∧
      ((t.region p id).row0, (t.region p id).col0, (t.region p id).h, (t.region p id).w) = (b.row0, b.col0, b.h, b.w) ∧
      Completes s t p q 0 0 ∧ Writes s t p q f.d (BitVec.ofNat 64 (id + 256 * b.row0 + 4096 * b.col0)) ∧
      (t.pad p).bids = [] ∧ OtherRegions s t p id ∧ SameBytes s t) ∧
  ∀ (f : SeqF) (s : State) (p : Fin 32) (q : Fin 4) (n row0 col0 id : Nat) (b : Bid) (st : Nat),
    pickBid s p = (.grant n row0 col0, s) → (s.pad p).bids[n]? = some b → b.kind = .ctx q → b.q = q.val →
    (s.pad p).freeId = some id → (s.ctx p q).wait = .poll (seqPack 0x60 f) st → (s.pad p).trace.mode = 0 →
    ∃ t, exec (.bidAdmit p n) s = .next t ∧ (s.region p id).alloc = false ∧
      (let r := t.region p id
       r.alloc = true ∧ r.owner = q.val ∧ (r.row0, r.col0, r.h, r.w) = (row0, col0, b.h, b.w) ∧ r.act = none ∧
       r.task = none ∧ r.saved = false) ∧
      Completes s t p q 0 0 ∧ Writes s t p q f.d (BitVec.ofNat 64 (id + 256 * row0 + 4096 * col0)) ∧
      (t.pad p).bids.length + 1 = (s.pad p).bids.length ∧ OtherRegions s t p id ∧ SameBytes s t

/-- The arbiter's choice without a head-of-line bid: a bid that fits, placed at the first origin it allows with its
rectangle free, and no waiting bid that fits ranks before it by priority, arrival and launch queue (R128, R129). -/
def Sys2Proof.Claims.ArbiterChoice : Prop :=
  ∀ (x : Paddock) (n row0 col0 : Nat), (∀ b ∈ x.bids, b.hol = none) → pickRanked x = .grant n row0 col0 →
    ∃ b, x.bids[n]? = some b ∧ (row0, col0) ∈ bidOrigins b ∧ row0 + b.h ≤ 12 ∧ col0 + b.w ≤ 12 ∧
      (∀ k ∈ rectTiles row0 col0 b.h b.w, x.tileFree k = true) ∧
      ∀ (m : Nat) (c : Bid), x.bids[m]? = some c → placeBid x c ≠ none → outranks c b = false

/-- CFGL of an image that passes its checks makes it resident in slot IMM[1:0] of every tile of the region, 33 words
each in row-major order, and charges 16 units and one per 64 bytes; a bad word traps with its cause, address and the
word, an address fault with its own; nothing is then loaded. A slot that is active, armed or pending is refused with
0x11, a task's region with 0x12 (R33, R40, R131, R146). -/
def Sys2Proof.Claims.RegionLoad : Prop :=
  ∀ (f : SeqF) (s : State) (p : Fin 32) (q : Fin 4) (id : Nat), Names s p q f id →
    let r := s.region p id
    let n := f.imm.toNat % 4
    let b := s.curCtx.rd f.b
    let taken := r.act = some (BitVec.ofNat 2 n) ∨ (r.spl.map (·.succ)) = some (BitVec.ofNat 2 n) ∨
      r.dec = some (BitVec.ofNat 2 n)
    (r.task ≠ none → Refused (.cfgl f) s (s.curCtx.rd f.a) 0x12) ∧
    (r.task = none → taken → Refused (.cfgl f) s (s.curCtx.rd f.a) 0x11) ∧
    (r.task = none → ¬ taken → ∀ img s', readImage s p r.row0 r.col0 r.h r.w none b = (.ok img, s') →
      ∃ t, exec (.cfgl f) s = .next t ∧ Completes s t p q 16 ((264 * r.h * r.w + 63) / 64) ∧ NoWrite s t p q ∧
        (∀ k ∈ r.tileList, ∃ j : Nat, r.tileList[j]? = some k ∧
          Tbl.find? (t.tile p k).cfgs n = some ((img.drop (33 * j)).take 33)) ∧
        (∀ k m, m ≠ n → Tbl.find? (t.tile p k).cfgs m = Tbl.find? (s.tile p k).cfgs m) ∧
        (t.region p id).act = r.act ∧ (t.region p id).st = r.st ∧ OtherRegions s t p id ∧ SameBytes s t) ∧
    (r.task = none → ¬ taken → ∀ c va w s', readImage s p r.row0 r.col0 r.h r.w none b = (.error (.word c va w), s') →
      ∃ t, exec (.cfgl f) s = .next t ∧ Enters s t p q s.curCtx.pc c (some va) (some w)) ∧
    (r.task = none → ¬ taken → ∀ c va s', readImage s p r.row0 r.col0 r.h r.w none b = (.error (.addr c va), s') →
      ∃ t, exec (.cfgl f) s = .next t ∧ Enters s t p q s.curCtx.pc c (some va) (some 0))

/-- CFGA of a loaded slot waits: for the region to drain, or with FORCE, on a region whose tokens are saved or
discarded, for its work to settle, the region frozen meanwhile. CFGA_ACTIVATE then activates the slot in all tiles
together and CFGA completes, under FORCE without DISCARD once no flush token is left to send (R64); until then it leaves
everything. The refusals are those of R145 (R132, R134, R145). -/
def Sys2Proof.Claims.RegionActivate : Prop :=
  (∀ (f : SeqF) (s : State) (p : Fin 32) (q : Fin 4) (id : Nat), Names s p q f id →
    let r := s.region p id
    let n := f.imm.toNat % 4
    let a := s.curCtx.rd f.a
    let force := f.imm.getLsbD 2
    let disc := f.imm.getLsbD 3
    let free := r.task = none ∧ r.spl = none ∧ (∀ d, r.dec = some d → d.toNat = n)
    (r.task ≠ none → Refused (.cfga f) s a 0x12) ∧
    (r.task = none → (∃ sp, r.spl = some sp ∧ sp.succ.toNat ≠ n) ∨ (r.spl = none ∧ ∃ d, r.dec = some d ∧ d.toNat ≠ n) →
      Refused (.cfga f) s a 0x15) ∧
    (free → slotLoaded s p r n = false → Refused (.cfga f) s a 0x13) ∧
    (free → slotLoaded s p r n = true → force = false → r.st = .trapped → Refused (.cfga f) s a 0x19) ∧
    (free → slotLoaded s p r n = true → force = true → r.saved = false → disc = false → Refused (.cfga f) s a 0x16) ∧
    (free → slotLoaded s p r n = true → force = false → r.st ≠ .trapped →
      ∃ t, exec (.cfga f) s = .next t ∧ OnlyWaits s t p q 0x63 f 0) ∧
    (free → slotLoaded s p r n = true → force = true → (r.saved = true ∨ disc = true) →
      ∃ t, exec (.cfga f) s = .next t ∧ Polls s t p q 0x63 f 0 1 0 ∧ t.region p id = { r with st := .frozen } ∧
        OtherRegions s t p id ∧ NoWrite s t p q ∧ SameBytes s t) ∧
    (∀ sp, r.task = none → r.spl = some sp → sp.succ.toNat = n →
      ∃ t, exec (.cfga f) s = .next t ∧ OnlyWaits s t p q 0x63 f 1)) ∧
  ∀ (f : SeqF) (s : State) (p : Fin 32) (q : Fin 4) (id : Nat), PollsOn s p q 0x63 f 0 id →
    let r := s.region p id
    let force := f.imm.getLsbD 2
    let ready := if force then settled s p r = true else Drained s p id r
    let flushed := force = false ∨ f.imm.getLsbD 3 = true ∨ ∀ k ∈ r.tileList, ∀ e ∈ (s.tile p k).pend, e.2 = 0
    (ready → flushed → ∃ t, exec (.cfgaActivate p q) s = .next t ∧ Completes s t p q 0 0 ∧ NoWrite s t p q ∧
      Activated s t p id (f.imm.toNat % 4) true ∧ SameBytes s t ∧ OtherRegions s t p id) ∧
    (¬ ready → exec (.cfgaActivate p q) s = .next s)

/-- SPLC of a loaded slot of the other GEN arms the splice and completes; SPLICE_SWAP of a tile that meets R137's four
conditions swaps that tile to the successor, its locals kept; with the last tile the successor is the region's active
slot, the splice is over and its tag is set (R137, R146). -/
def Sys2Proof.Claims.SpliceArmsAndSwaps : Prop :=
  (∀ (f : SeqF) (s : State) (p : Fin 32) (q : Fin 4) (id : Nat), Names s p q f id →
    let r := s.region p id
    let n := f.imm.toNat % 4
    let a := s.curCtx.rd f.a
    (r.task ≠ none → Refused (.splc f) s a 0x12) ∧
    (r.task = none → r.act = none → Refused (.splc f) s a 0x1C) ∧
    (r.task = none → r.act ≠ none → r.spl ≠ none ∨ r.dec ≠ none → Refused (.splc f) s a 0x15) ∧
    (r.task = none → r.act ≠ none → r.spl = none → r.dec = none → slotLoaded s p r n = false →
      Refused (.splc f) s a 0x13) ∧
    (∀ o c d, r.task = none → r.act = some o → r.spl = none → r.dec = none → r.cfgIn s p n = some c →
      r.cfgIn s p o.toNat = some d →
      (n = o.toNat ∨ hdrGen c.hdr = hdrGen d.hdr → Refused (.splc f) s a 0x17) ∧
      (n ≠ o.toNat → hdrGen c.hdr ≠ hdrGen d.hdr →
        ∃ t, exec (.splc f) s = .next t ∧ Completes s t p q 1 0 ∧ NoWrite s t p q ∧
          (t.region p id).spl = some
            { succ := BitVec.ofNat 2 n, tag := if f.imm.getLsbD 2 then some (f.imm.extractLsb' 3 6) else none, q := q,
              oldGen := hdrGen d.hdr } ∧
          (t.region p id).act = r.act ∧ (∀ k ∈ r.tileList, (t.tile p k).swapped = false) ∧ OtherRegions s t p id ∧
          SameBytes s t))) ∧
  ∀ (s : State) (p : Fin 32) (k : Fin 144) (id : Nat) (r : Region) (sp : Splice),
    (s.pad p).regionAt k = some (id, r) → s.region p id = r → r.spl = some sp →
    SwapConditions s p k r sp → (k : Nat) ∈ r.tileList →
    let last := ∀ j ∈ r.tileList, j ≠ k → (s.tile p j).swapped = true
    ∃ t, exec (.spliceSwap p k) s = .next t ∧ (t.tile p k).swapped = true ∧ (t.tile p k).preds = 0 ∧
      (∀ j, (t.tile p k).lc j = (s.tile p k).lc j) ∧
      (last → (t.region p id).act = some sp.succ ∧ (t.region p id).spl = none ∧
        ∀ g : BitVec 6, sp.tag = some g → (t.ctx p sp.q).tags.getLsbD g.toNat = true) ∧
      (¬ last → (t.region p id).act = r.act ∧ (t.region p id).spl = some sp) ∧ SameBytes s t

/-- DECB of a loaded slot places its broadcast when none is pending, which commits the replay epoch, and else waits;
DECISION_SWITCH activates the slot in all tiles of the drained region together, locals kept, but while a CFGA of the
owner supersedes it, a splice is armed or the region stands (R134, R136, R318; the order of the decision and the splice
is the model's choice, log 22). -/
def Sys2Proof.Claims.DecisionBroadcast : Prop :=
  (∀ (f : SeqF) (s : State) (p : Fin 32) (q : Fin 4) (id : Nat), Names s p q f id →
    let r := s.region p id
    let n := (s.curCtx.rd f.b).toNat % 4
    (slotLoaded s p r n = false → Refused (.decb f) s (s.curCtx.rd f.a) 0x13) ∧
    (slotLoaded s p r n = true → r.dec ≠ none → ∃ t, exec (.decb f) s = .next t ∧ OnlyWaits s t p q 0x69 f 0) ∧
    (slotLoaded s p r n = true → r.dec = none →
      ∃ t, exec (.decb f) s = .next t ∧ Completes s t p q 1 0 ∧ NoWrite s t p q ∧
        t.region p id = { r with dec := some (BitVec.ofNat 2 n), committed := true } ∧ OtherRegions s t p id ∧
        SameBytes s t)) ∧
  ∀ (s : State) (p : Fin 32) (id : Fin 16) (n : BitVec 2),
    let r := s.region p id
    r.dec = some n → r.alloc = true → r.st = .running ∨ r.st = .noConfig → r.spl = none → r.trap = none →
    r.paused = false → ¬ CfgaDrains s p id → Drained s p id r →
    ∃ t, exec (.decisionSwitch p id) s = .next t ∧ Activated s t p id n.toNat false ∧ OtherRegions s t p id ∧
      SameBytes s t ∧ ∀ h k, t.ctx h k = s.ctx h k

/-- RGNF waits, with DISCARD freezing the region; RGNF_FREE frees a drained region, or with DISCARD a settled one, and
RGNF completes. QWAIT waits and returns 0 for a retired region, 2 when every element has halted, 3 for a frozen, trapped
or saved one, and 1 from the quiescence detector, which else traps the owner's CFGA with QNC or raises QNC in the region.
RGNS reads the status, the flags of all tiles ORed, the dropped count or the tokens held (R126, R133, R138, R146; that
QWAIT gives 3 before 2 before 0 where two hold is the model's choice, log 64). -/
def Sys2Proof.Claims.RegionEndAndQuery : Prop :=
  (∀ (f : SeqF) (s : State) (p : Fin 32) (q : Fin 4) (id : Nat), Names s p q f id →
    let r := s.region p id
    let a := s.curCtx.rd f.a
    let disc := f.imm.getLsbD 0
    (r.task ≠ none → Refused (.rgnf f) s a 0x12) ∧
    (r.task = none → disc = false → r.st = .trapped → Refused (.rgnf f) s a 0x19) ∧
    (r.task = none → disc = false → r.st ≠ .trapped → ∃ t, exec (.rgnf f) s = .next t ∧ OnlyWaits s t p q 0x61 f 0) ∧
    (r.task = none → disc = true →
      ∃ t, exec (.rgnf f) s = .next t ∧ Polls s t p q 0x61 f 0 1 0 ∧ t.region p id = { r with st := .frozen } ∧
        OtherRegions s t p id ∧ NoWrite s t p q ∧ SameBytes s t) ∧
    (∃ t, exec (.qwait f) s = .next t ∧ OnlyWaits s t p q 0x66 f 0) ∧
    ∃ t, exec (.rgns f) s = .next t ∧ Completes s t p q 1 0 ∧ OnlyCtx s t p q ∧
      Writes s t p q f.d
        (if f.imm.toNat % 4 = 0 then BitVec.ofNat 64 (regionStatus s p id)
         else if f.imm.toNat % 4 = 1 then
           (r.tileList.foldl (fun (v : BitVec 8) k => v ||| (s.tile p k).flags) 0).setWidth 64
         else if f.imm.toNat % 4 = 2 then BitVec.ofNat 64 r.drop
         else BitVec.ofNat 64 (tokensHeld s p r))) ∧
  (∀ (f : SeqF) (s : State) (p : Fin 32) (q : Fin 4) (id : Nat), PollsOn s p q 0x61 f 0 id →
    let r := s.region p id
    let ready := if f.imm.getLsbD 0 then settled s p r = true else Drained s p id r
    (ready → ∃ t, exec (.rgnfFree p q) s = .next t ∧ (t.region p id).alloc = false ∧ (t.ctx p q).wait = .ready ∧
      (t.ctx p q).pc = (s.ctx p q).pc + 8 ∧ NoWrite s t p q ∧ OtherRegions s t p id ∧ SameBytes s t ∧
      ∀ k ∈ r.tileList, (t.tile p k).bufs = [] ∧ (t.tile p k).cfgs = [] ∧ (t.tile p k).sp.words = (s.tile p k).sp.words ∧
        (t.tile p k).mx.cell = (s.tile p k).mx.cell) ∧
    (¬ ready → exec (.rgnfFree p q) s = .next s)) ∧
  (∀ (f : SeqF) (s : State) (p : Fin 32) (q : Fin 4) (id : Nat), PollsOn s p q 0x66 f 0 id →
    let r := s.region p id
    let stands := r.st = .frozen ∨ r.st = .trapped ∨ r.saved = true
    let halted := r.act ≠ none ∧ ∀ k ∈ r.tileList, haltedTile s p k = true
    let retired := Drained s p id r ∧ anyReady s p r = false
    let answers := fun (v : BitVec 64) => ∃ t, exec (.qwaitReturn p q) s = .next t ∧ Completes s t p q 0 0 ∧
      Writes s t p q f.d v ∧ OnlyCtx s t p q
    (stands → answers 3) ∧ (¬ stands → halted → answers 2) ∧ (¬ stands → ¬ halted → retired → answers 0) ∧
      (¬ stands → ¬ halted → ¬ retired → exec (.qwaitReturn p q) s = .next s)) ∧
  ∀ (s : State) (p : Fin 32) (id : Fin 16) (q : Fin 4),
    let r := s.region p id
    r.alloc = true → r.st = .running → r.saved = false → r.trap = none → r.recover = none → r.paused = false →
    4096 ≤ r.quiet → (∃ k ∈ r.tileList, haltedTile s p k = false) → r.owner = q.val →
    (∀ f, PollsOn s p q 0x66 f 0 id →
      ∃ t, exec (.qnc p id) s = .next t ∧ Completes s t p q 0 0 ∧ Writes s t p q f.d 1 ∧ SameBytes s t) ∧
    (CfgaDrains s p id →
      ∃ t, exec (.qnc p id) s = .next t ∧ (t.ctx p q).tcause = cQNC.setWidth 64 ∧ (t.ctx p q).epc = (s.ctx p q).pc ∧
        (t.ctx p q).ibud = (s.ctx p q).ibud + 1 ∧ ∀ x, t.rdByte false x = s.rdByte false x) ∧
    ((s.ctx p q).wait = .ready ∨ (ownerWaits s p id 0x66 = none ∧ ¬ CfgaDrains s p id) →
      (s.pad p).regionAt (qncTile s p (s.region p id)) = some (id.val, s.region p id) →
      ∃ t tr, exec (.qnc p id) s = .next t ∧ (t.region p id).trap = some tr ∧ tr.cause = cQNC ∧ tr.at_ = s.fc p ∧
        tr.reported = false ∧ SameBytes s t)

/-- TOKSV freezes the region and, once its work has settled, writes the save area of Table 8-5 at B, empties the
buffers, leaves the region frozen with SAVED = 1 and answers the bytes written; a write that faults leaves the region as
it was and no byte changed. TOKRS of a SAVED region that its area matches restores it, running; an area that does not
match is refused with 0x1A, a region that is not SAVED with 0x16 (R139, R140, R317). -/
def Sys2Proof.Claims.RegionSaveAndRestore : Prop :=
  (∀ (f : SeqF) (s : State) (p : Fin 32) (q : Fin 4) (id : Nat), Names s p q f id →
    let r := s.region p id
    let b := s.curCtx.rd f.b
    (canonical b = true → b.toNat % 64 = 0 →
      ∃ t, exec (.toksv f) s = .next t ∧ Polls s t p q 0x67 f r.st.code 1 0 ∧ t.region p id = { r with st := .frozen } ∧
        OtherRegions s t p id ∧ NoWrite s t p q ∧ SameBytes s t) ∧
    (canonical b = false →
      ∃ t, exec (.toksv f) s = .next t ∧ Enters s t p q s.curCtx.pc cXLATE (some b) (some 1)) ∧
    (canonical b = true → b.toNat % 64 ≠ 0 →
      ∃ t, exec (.toksv f) s = .next t ∧ Enters s t p q s.curCtx.pc cMISALIGN (some b) (some 1)) ∧
    (r.saved = false → Refused (.tokrs f) s (s.curCtx.rd f.a) 0x16) ∧
    (r.saved = true → ∀ s', restoreRegion s p id b = (.error .mismatch, s') →
      Refused (.tokrs f) s (s.curCtx.rd f.a) 0x1A) ∧
    (r.saved = true → ∀ n s', restoreRegion s p id b = (.ok n, s') →
      ∃ t, exec (.tokrs f) s = .next t ∧ Completes s t p q 1 ((n + 63) / 64) ∧ NoWrite s t p q ∧
        (t.region p id).saved = false ∧ (t.region p id).st = .running ∧ (t.region p id).act = r.act ∧
        OtherRegions s t p id ∧ SameBytes s t)) ∧
  ∀ (f : SeqF) (s : State) (p : Fin 32) (q : Fin 4) (id st : Nat), PollsOn s p q 0x67 f st id →
    s.cur.p = p.val → s.cur.q = q.val →
    let r := s.region p id
    let b := (s.ctx p q).rd f.b
    let bs := saveBytes s p r
    (settled s p r = true → ∀ s', writeBytes s p b bs = (none, s') →
      ∃ t, exec (.seqOpComplete p q) s = .next t ∧ Completes s t p q 0 ((bs.length + 63) / 64) ∧
        Writes s t p q f.d (BitVec.ofNat 64 bs.length) ∧ (t.region p id).saved = true ∧ (t.region p id).st = .frozen ∧
        (∀ k ∈ r.tileList, (t.tile p k).tokens = 0) ∧ OtherRegions s t p id ∧ ∀ h x, t.rdByte h x = s'.rdByte h x) ∧
    (settled s p r = true → ∀ c va s', writeBytes s p b bs = (some (c, va), s') →
      ∃ t, exec (.seqOpComplete p q) s = .next t ∧ t.region p id = { r with st := RunSt.ofCode st } ∧
        (t.ctx p q).tcause = c.setWidth 64 ∧ (t.ctx p q).tval = va ∧ (t.ctx p q).ibud = (s.ctx p q).ibud + 1 ∧
        ∀ x, t.rdByte false x = s.rdByte false x) ∧
    (settled s p r = false → exec (.seqOpComplete p q) s = .next s)

/-- The save area of Table 8-5: a header of 64 bytes with the region's height, width, fold, active slot, CFGID and GEN, the
number of records and the bytes written; a block of 512 bytes per tile, whose fields stand where the table has them; a
record per nonempty buffer. A block and a token that TOKRS reads back are what TOKSV wrote (R139, R140). -/
def Sys2Proof.Claims.SaveAreaContents : Prop :=
  let word := fun (bs : List (BitVec 8)) (off len : Nat) => natOfBytes ((bs.drop off).take len)
  (∀ (s : State) (p : Nat) (r : Region),
    let bs := saveBytes s p r
    let h := r.activeHdr s p
    let blocks := 512 * r.tileList.length
    word bs 0 8 = r.h % 16 + r.w % 16 * 16 + r.fold.toNat * 2 ^ 8 + ((r.act.map (·.toNat)).getD 0) * 2 ^ 10 +
      (hdrCfgid h).toNat * 2 ^ 16 + (hdrGen h).toNat * 2 ^ 32 ∧
    ((fullBufs s p r).length < 2 ^ 32 → word bs 8 8 = (fullBufs s p r).length) ∧ (bs.length < 2 ^ 64 → word bs 16 8 = bs.length) ∧
    (∀ j k, r.tileList[j]? = some k → (bs.drop (64 + 512 * j)).take 512 = blockBytes (s.tile p k) k) ∧
    bs.drop (64 + blocks) =
      (fullBufs s p r).flatMap fun e => bytesOfNat 8 (recordWord r e.1 e.2.1 e.2.2) ++ e.2.2.flatMap tokBytes) ∧
  (∀ (tl : Tile) (k : Nat),
    let bs := blockBytes tl k
    bs.length = 512 ∧
    word bs 0 4 = tl.preds.toNat + (tl.rrPtr % 16) * 2 ^ 8 + tl.halt.toNat * 2 ^ 12 + tl.arm.toNat * 2 ^ 13 + tl.l.toNat * 2 ^ 16 +
      tl.flags.toNat * 2 ^ 24 ∧
    (∀ o, o < 4 → word bs (4 + o) 1 = (Tbl.get 0 tl.pend o).toNat) ∧
    word bs 8 8 = (tl.x.signExtend 64).toNat ∧ word bs 16 8 = (tl.a.signExtend 64).toNat ∧ word bs 24 8 = tl.swapped.toNat ∧
    (∀ i, i < 8 → word bs (0x20 + 4 * i) 4 = (tl.lc i).toNat) ∧
    (∀ i, i < 16 → word bs (0x40 + 4 * i) 4 = (Tbl.get 0 tl.rc i).toNat) ∧
    (∀ i, i < 16 → word bs (0x80 + 4 * i) 4 = (Tbl.get 0 tl.pos i).toNat) ∧
    ∀ i, i < 4 → word bs (0x100 + 64 * i) 64 = if tileType k = .m ∨ tileType k = .v then (tl.vc i).toNat else 0) ∧
  (∀ (tl u : Tile) (k : Nat), tl.rrPtr < 16 → tl.flags.getLsbD 7 = false →
    let v := blockTile u (blockBytes tl k)
    (v.preds, v.rrPtr, v.halt, v.arm, v.l, v.flags, v.x, v.a, v.swapped) =
      (tl.preds, tl.rrPtr, tl.halt, tl.arm, tl.l, tl.flags, tl.x, tl.a, tl.swapped) ∧
    (∀ o, o < 4 → Tbl.get 0 v.pend o = Tbl.get 0 tl.pend o) ∧ (∀ i, i < 8 → v.lc i = tl.lc i) ∧
    (∀ i, i < 16 → Tbl.get 0 v.rc i = Tbl.get 0 tl.rc i ∧ Tbl.get 0 v.pos i = Tbl.get 0 tl.pos i) ∧
    (tileType k = .m ∨ tileType k = .v → ∀ i, i < 4 → v.vc i = tl.vc i) ∧
    (v.bufs, v.cfgs, v.mx, v.sp) = (u.bufs, u.cfgs, u.mx, u.sp)) ∧
  ∀ k : Tok, (k.dat = true → tokOf true (tokBytes k) = { k with kind := 0, arr := 0 }) ∧
    (k.dat = false → tokOf false (tokBytes k) =
      { val := (k.val.setWidth 32).setWidth 512, kind := k.kind, eos := k.eos, gen := k.gen, iter := k.iter })

/-- RFOLD of a SAVED region cuts it to its first ⌈h / 2^k⌉ rows under its fold image, sB or the alternate of its task's
type, which becomes resident in the active slot, and returns the other rows to the free area; factor 0 bids for those
rows and, admitted, restores the full height with the full image resident in the active slot. R142's conditions refuse it
(R141, R142; the order of these checks is the model's choice, log 44, and so is the refusal where there is no alternate,
log 105). -/
def Sys2Proof.Claims.RegionFold : Prop :=
  let resident := fun (t : State) (p rw cl h w : Nat) (act : Option (BitVec 2)) (img : List (BitVec 64)) =>
    ∀ a, act = some a → ∀ k ∈ rectTiles rw cl h w, ∃ j : Nat, (rectTiles rw cl h w)[j]? = some k ∧
      Tbl.find? (t.tile p k).cfgs a.toNat = some ((img.drop (33 * j)).take 33)
  (∀ (f : SeqF) (s : State) (p : Fin 32) (q : Fin 4) (id : Nat), Names s p q f id →
    let r := s.region p id
    let fac := f.imm.toNat % 4
    let hk := (r.h + 2 ^ fac - 1) / 2 ^ fac
    let b := s.curCtx.rd f.b
    let a := s.curCtx.rd f.a
    (∀ d, foldRefusal s p r fac = some d → Refused (.rfold f) s a d) ∧
    (∀ d, foldRefusal s p r 0 = some d → Refused (.rfoldUnfold f) s a d) ∧
    (r.saved = false → foldRefusal s p r fac = some 0x16) ∧
    (r.saved = true → 0 < fac → r.fold ≠ 0 → foldRefusal s p r fac = some 0x14) ∧
    (fac = 1 ∨ fac = 2 → foldRefusal s p r fac = none → (s.pad p).trace.mode = 0 → ∀ va,
      (r.task = none ∧ va = b ∨ va ≠ 0 ∧ ∃ k, r.task = some k ∧
        va = if b ≠ 0 then b else if fac = 1 then (s.task p k).fold2 else (s.task p k).fold4) →
      ∀ img s', readImage s p r.row0 r.col0 hk r.w (some (BitVec.ofNat 2 fac)) va = (.ok img, s') →
      ∃ t, exec (.rfold f) s = .next t ∧ Completes s t p q 16 ((264 * hk * r.w + 63) / 64) ∧ NoWrite s t p q ∧
        ((t.region p id).h, (t.region p id).fullH, (t.region p id).fold) = (hk, r.h, BitVec.ofNat 2 fac) ∧
        (∀ k ∈ rectTiles (r.row0 + hk) r.col0 (r.h - hk) r.w, k ∉ rectTiles r.row0 r.col0 hk r.w →
          (t.tile p k).cfgs = [] ∧ (t.tile p k).bufs = []) ∧
        resident t p r.row0 r.col0 hk r.w r.act img ∧ OtherRegions s t p id ∧ SameBytes s t) ∧
    (fac = 1 ∨ fac = 2 → foldRefusal s p r fac = none → b = 0 →
      (∃ k, r.task = some k ∧ (if fac = 1 then (s.task p k).fold2 else (s.task p k).fold4) = 0) →
      Refused (.rfold f) s a 0x14) ∧
    (foldRefusal s p r 0 = none →
      ∃ t b, exec (.rfoldUnfold f) s = .next t ∧ Polls s t p q 0x65 f 0 16 ((264 * r.fullH * r.w + 63) / 64) ∧ (t.pad p).bids = (s.pad p).bids ++ [b] ∧
        b.kind = .unfold id ∧ (b.row0, b.col0, b.h, b.w) = (r.row0 + r.h, r.col0, r.fullH - r.h, r.w) ∧
        SameBytes s t)) ∧
  ∀ (f : SeqF) (s : State) (p : Fin 32) (q : Fin 4) (n row0 col0 id : Nat) (b : Bid),
    pickBid s p = (.grant n row0 col0, s) → (s.pad p).bids[n]? = some b → b.kind = .unfold id → PollsOn s p q 0x65 f 0 id →
    (s.pad p).trace.mode = 0 →
    let r := s.region p id
    ∀ img s', readImage { takeBid s p n with cur := { s.cur with p := p, q := q } } p r.row0 r.col0 r.fullH r.w (some 0)
      ((s.ctx p q).rd f.b) = (.ok img, s') →
    ∃ t, exec (.bidAdmit p n) s = .next t ∧ Completes s t p q 0 0 ∧ NoWrite s t p q ∧
      ((t.region p id).h, (t.region p id).fold) = (r.fullH, 0) ∧
      resident t p r.row0 r.col0 r.fullH r.w r.act img ∧ OtherRegions s t p id ∧ SameBytes s t
namespace Sys2Proof.Claims

open Sys2Proof.Machine

/-- The acting context issues an instruction whose guard passes. -/
structure Issues (s : State) (p : Fin 32) (q : Fin 4) (f : SeqF) : Prop where
  atP : s.cur.p = p.val
  atQ : s.cur.q = q.val
  passes : guardOk s.curCtx f = true

/-- The other chains of a paddock and every other paddock's are as before. -/
def OtherChains (s t : State) (p c : Nat) : Prop := ∀ h k, (h, k) ≠ (p, c) → t.chain h k = s.chain h k

/-- The other task slots of a paddock and every other paddock's are as before. -/
def OtherTasks (s t : State) (p c : Nat) : Prop := ∀ h k, (h, k) ≠ (p, c) → t.task h k = s.task h k

/-- Word i of a control block. -/
def cbWord (bs : List (BitVec 8)) (i : Nat) : BitVec 64 := BitVec.ofNat 64 (natOfBytes ((bs.drop (8 * i)).take 8))

/-- The operand of an instruction names task slot k of the acting context (R261). -/
structure NamesTask (s : State) (p : Fin 32) (q : Fin 4) (f : SeqF) (k : Nat) : Prop where
  atP : s.cur.p = p.val
  atQ : s.cur.q = q.val
  passes : guardOk s.curCtx f = true
  slot : k < 64
  handle : s.curCtx.rd f.a = BitVec.ofNat 64 (k + 256 * (s.task p k).ser.toNat)
  live : (s.task p k).st ≠ .free
  parent : (s.task p k).parent = q.val

/-- A slot that a launch may take (R261): free, or of a faulted task with no region left (log 42). -/
def MayTake (t : Task) : Prop := t.st = .free ∨ t.st = .faulted ∧ t.rid = none

/-- The lowest slot that a launch may take (log 73). -/
def LowestSlot (s : State) (p k : Nat) : Prop :=
  k < 64 ∧ MayTake (s.task p k) ∧ ∀ j, j < k → ¬ MayTake (s.task p j)

/-- Some counter that a task's class enforces holds less than or equal to n (R259). -/
def CounterAtMost (t : Task) (n : Int) : Prop := t.cclass ≠ 2 ∧ t.ibud.toInt ≤ n ∨ t.cclass ≠ 1 ∧ t.tbud.toInt ≤ n

/-- A freeze or a yield of a region that has come, with nothing in progress in the region (R267, R268, R273). -/
def StopNow (s : State) (p rid : Nat) (at_ : Option Nat) : Prop :=
  let r := s.region p rid
  r.alloc = true ∧ r.trap = none ∧ r.recover = none ∧ r.saved = false ∧ r.paused = false ∧
  (∃ n, at_ = some n ∧ n ≤ s.fc p) ∧
  (∀ e ∈ (s.pad p).chains, e.2.st = .running → e.2.entry ≠ none →
    ∀ a ∈ e.2.announced, a.2 = .region rid → a.1.toNat ≤ e.2.done.toNat) ∧
  ∀ k ∈ r.tileList, (s.tile p k).reqs = [] ∧ (s.tile p k).outq = [] ∧ (s.tile p k).mx.pass = none ∧
    (s.tile p k).mx.drain = none

/-- R133: a region is drained with no slot ready, or every element has halted or has no valid slot, with nothing in
progress. -/
def RetiringRegion (s : State) (p rid : Nat) : Prop :=
  let r := s.region p rid
  Drained s p rid r ∧ anyReady s p r = false ∨
    r.recover = none ∧ OpsDone s p rid r ∧
      ∀ k ∈ r.tileList, (s.tile p k).halt = true ∨ ∀ i, i < 16 → ((firOf s p k).cfg.slot i).getLsbD 61 = false

/-- A task that retires (R264): it runs with no yield pending, its region runs and meets R133, no charge is under way and
no enforced counter is negative. -/
def RetireNow (s : State) (p k rid : Nat) : Prop :=
  let t := s.task p k
  let r := s.region p rid
  t.rid = some rid ∧ t.st = .running ∧ t.ypend = false ∧ r.alloc = true ∧ r.st = .running ∧ r.saved = false ∧
    r.trap = none ∧ r.paused = false ∧ r.charges = [] ∧ (∀ e ∈ (s.pad p).late, e.1 ≠ .task k t.ser) ∧
    ¬ CounterAtMost t (-1) ∧ RetiringRegion s p rid

end Sys2Proof.Claims

/-! ## Chains -/

/-- CHAPP reads the control block at B and attaches the chain to the context: CUR, NEXT and the completion word's
address from the block, DONE and TAIL one below NEXT, which is stored in the completion word, state idle; a block whose
first-entry address is 0 detaches it. It charges 4 and 1. CHTL raises TAIL to the larger of TAIL and B, and an idle or
stopped chain with entries to perform runs; 4 units. An id above 16, a chain of another context, a chain in a wrong
state, a bad block and a TAIL more than 32,768 beyond DONE are refused (R248, R249, R251). That a stopped chain with
nothing to run is idle, and the order of CHAPP's checks, are the model's choice (logs 72, 44). -/
def Sys2Proof.Claims.ChainControl : Prop :=
  ∀ (f : SeqF) (s : State) (p : Fin 32) (q : Fin 4), Issues s p q f →
    let a := s.curCtx.rd f.a
    let b := s.curCtx.rd f.b
    let c := a.toNat % 32
    let x := s.chain p c
    (16 < c → Refused (.seqChapp f) s a 0x34 ∧ Refused (.seqChtl f) s a 0x34) ∧
    (c ≤ 16 → x.st ≠ .detached → x.owner ≠ q → Refused (.seqChapp f) s a 0x35 ∧ Refused (.seqChtl f) s a 0x35) ∧
    (c ≤ 16 → x.st = .detached → Refused (.seqChtl f) s a 0x35) ∧
    (c ≤ 16 → x.st = .running ∨ x.st = .stampWait ∨ x.st = .waitSeq ∨ x.st = .paused → x.owner = q →
      Refused (.seqChapp f) s a 0x35) ∧
    (c ≤ 16 → (x.st = .detached ∨ x.owner = q ∧ (x.st = .idle ∨ x.st = .halted ∨ x.st = .stopped)) →
      canonical b = true → b.toNat % 64 = 0 →
      ∀ bs s', readBytes s p .read b 64 = (.ok bs, s') →
      (cbWord bs 0 = 0 →
        ∃ t, exec (.seqChapp f) s = .next t ∧ (t.chain p c).st = .detached ∧ t.curCtx.wait ≠ .ready ∧
          t.curCtx.pc = s.curCtx.pc + 8 ∧ t.curCtx.ibud = s.curCtx.ibud - 4 ∧ t.curCtx.tbud = s.curCtx.tbud - 1 ∧
          NoWrite s t p q ∧ OtherChains s t p c ∧ SameBytes s t) ∧
      (cbWord bs 0 ≠ 0 → cbWord bs 2 ≠ 0 → (cbWord bs 1).toNat % 8 = 0 → (∀ y ∈ bs.drop 24, y = 0) →
        ∀ s'', writeBytes s' p (cbWord bs 1) (bytesOfNat 8 (cbWord bs 2 - 1).toNat) = (none, s'') →
        ∃ t, exec (.seqChapp f) s = .next t ∧
          (let y := t.chain p c
           y.st = .idle ∧ y.owner = q.val ∧ y.cb = b ∧ y.cur = cbWord bs 0 ∧ y.cw = cbWord bs 1 ∧ y.next = cbWord bs 2 ∧
           y.done = cbWord bs 2 - 1 ∧ y.tail = cbWord bs 2 - 1) ∧
          t.curCtx.pc = s.curCtx.pc + 8 ∧ t.curCtx.ibud = s.curCtx.ibud - 4 ∧ t.curCtx.tbud = s.curCtx.tbud - 1 ∧
          NoWrite s t p q ∧ OtherChains s t p c ∧ ∀ h k, t.rdByte h k = s''.rdByte h k) ∧
      (cbWord bs 0 ≠ 0 → cbWord bs 2 = 0 ∨ (cbWord bs 1).toNat % 8 ≠ 0 ∨ (∃ y ∈ bs.drop 24, y ≠ 0) → Refused (.seqChapp f) s a 0x30)) ∧
    (c ≤ 16 → x.st ≠ .detached → x.owner = q →
      let tail := if x.tail.toNat < b.toNat then b else x.tail
      (32768 < tail.toNat - x.done.toNat → Refused (.seqChtl f) s a 0x37) ∧
      (tail.toNat - x.done.toNat ≤ 32768 →
        ∃ t, exec (.seqChtl f) s = .next t ∧ Completes s t p q 4 0 ∧ NoWrite s t p q ∧ (t.chain p c).tail = tail ∧
          (t.chain p c).done = x.done ∧
          (t.chain p c).st = (if x.st = .idle ∨ x.st = .stopped then
            (if x.next.toNat ≤ tail.toNat then .running else .idle) else x.st) ∧
          OtherChains s t p c ∧ SameBytes s t))

/-- CHSQ reads DONE, TAIL, NEXT or the status of any chain of the paddock. CHWT waits, and SEQ_OP_COMPLETE ends it: 0
once DONE has reached B, else 1 for a halted chain and 2 for a detached or stopped one (R250). -/
def Sys2Proof.Claims.ChainQueries : Prop :=
  (∀ (f : SeqF) (s : State) (p : Fin 32) (q : Fin 4), Issues s p q f →
    let a := s.curCtx.rd f.a
    let c := a.toNat % 32
    let x := s.chain p c
    let sel := f.imm.toNat % 4
    (16 < c → Refused (.seqChsq f) s a 0x34 ∧ Refused (.chwt f) s a 0x34) ∧
    (c ≤ 16 →
      (∃ t, exec (.seqChsq f) s = .next t ∧ Completes s t p q 1 0 ∧ OnlyCtx s t p q ∧
        Writes s t p q f.d
          (if sel = 0 then x.done else if sel = 1 then x.tail else if sel = 2 then x.next
           else BitVec.ofNat 64 (x.st.code + x.cause.toNat * 2 ^ 8 + x.detail.toNat * 2 ^ 16 + x.owner * 2 ^ 24))) ∧
      ∃ t, exec (.chwt f) s = .next t ∧ OnlyWaits s t p q 0x73 f 0)) ∧
  ∀ (f : SeqF) (s : State) (p : Fin 32) (q : Fin 4), (s.ctx p q).wait = .poll (seqPack 0x73 f) 0 →
    let x := s.chain p (((s.ctx p q).rd f.a).toNat % 32)
    let b := (s.ctx p q).rd f.b
    let answers := fun (v : BitVec 64) => ∃ t, exec (.seqOpComplete p q) s = .next t ∧ Completes s t p q 0 0 ∧
      Writes s t p q f.d v ∧ OnlyCtx s t p q
    (b.toNat ≤ x.done.toNat → answers 0) ∧
    (x.done.toNat < b.toNat → x.st = .halted → answers 1) ∧
    (x.done.toNat < b.toNat → x.st = .detached ∨ x.st = .stopped → answers 2) ∧
    (x.done.toNat < b.toNat → x.st ≠ .halted → x.st ≠ .detached → x.st ≠ .stopped →
      exec (.seqOpComplete p q) s = .next s)

/-! ## Tasks and budgets -/

/-- LNCH of a good record and entry takes the lowest free slot: the child is queued with the entry's budgets, which
leave the parent's counters together with the launch's own charge, its handle goes to sD and its bid to the arbiter; with
no slot free it waits, and LNCH_SLOT_ACQUIRE launches it later. A bad record or entry is refused with 0x41 or 0x42, a
parent that cannot pay takes BUDGET_I or BUDGET_T and nothing is charged (R259 to R262). The lowest slot and TVAL of the
budget traps are the model's choice (logs 73, 76). -/
def Sys2Proof.Claims.TaskLaunch : Prop :=
  (∀ (f : SeqF) (s : State) (p : Fin 32) (q : Fin 4), Issues s p q f →
    let a := s.curCtx.rd f.a
    let l := s.curCtx.launch
    canonical a = true → a.toNat % 16 = 0 → ∀ rb s1, readBytes s p .read a 16 = (.ok rb, s1) →
    (TaskRec.parse l.ttlen rb = none → Refused (.lnch f) s a 0x41) ∧
    ∀ r eb s2, TaskRec.parse l.ttlen rb = some r →
      readBytes s1 p .read (l.ttbase + BitVec.ofNat 64 (64 * r.ttype.toNat)) 64 = (.ok eb, s2) →
      (TypeEnt.parse eb = none → Refused (.lnch f) s a 0x42) ∧
      ∀ e, TypeEnt.parse eb = some e →
        let c := s.curCtx
        let tb := (80 + 264 * e.h * e.w + 63) / 64
        let ibLeft := c.ibud - 32
        let tbLeft := c.tbud - BitVec.ofNat 64 tb
        (12 < r.row0 + e.h ∨ 12 < r.col0 + e.w → Refused (.lnch f) s a 0x42) ∧
        (r.row0 + e.h ≤ 12 → r.col0 + e.w ≤ 12 → ∀ k, LowestSlot s p k →
          (ibLeft.toInt < e.ibud.toInt →
            ∃ t, exec (.lnch f) s = .next t ∧ Enters s t p q c.pc cBUDGET_I (some e.ibud) none) ∧
          (e.ibud.toInt ≤ ibLeft.toInt → tbLeft.toInt < e.tbud.toInt →
            ∃ t, exec (.lnch f) s = .next t ∧ Enters s t p q c.pc cBUDGET_T (some e.tbud) none) ∧
          (e.ibud.toInt ≤ ibLeft.toInt → e.tbud.toInt ≤ tbLeft.toInt →
            ∃ t, exec (.lnch f) s = .next t ∧
              (let y := t.task p k
               y.st = .queued ∧ y.parent = q.val ∧ y.ttype = r.ttype ∧ y.arg = r.arg ∧ y.ibud = e.ibud ∧ y.tbud = e.tbud ∧
               y.ser = (s.task p k).ser + 1 ∧ (y.h, y.w, y.prio) = (e.h, e.w, e.prio) ∧
               Writes s t p q f.d (BitVec.ofNat 64 (k + y.ser.toNat * 256))) ∧
              (t.ctx p q).ibud = ibLeft - e.ibud ∧ (t.ctx p q).tbud = tbLeft - e.tbud ∧
              (t.ctx p q).pc = c.pc + 8 ∧ (t.ctx p q).wait = .ready ∧
              (t.pad p).bids.length = (s.pad p).bids.length + 1 ∧ OtherTasks s t p k ∧ SameBytes s t)) ∧
        (r.row0 + e.h ≤ 12 → r.col0 + e.w ≤ 12 → (∀ k, k < 64 → ¬ MayTake (s.task p k)) →
          ∃ t, exec (.lnch f) s = .next t ∧ Polls s t p q 0x80 f (natOfBytes (rb ++ eb)) 0 0 ∧ OnlyCtx s2 t p q ∧
            NoWrite s t p q)) ∧
  ∀ (f : SeqF) (s : State) (p : Fin 32) (q : Fin 4) (k : Nat) (rb eb : List (BitVec 8)) (r : TaskRec) (e : TypeEnt),
    (s.ctx p q).wait = .poll (seqPack 0x80 f) (natOfBytes (rb ++ eb)) → rb.length = 16 → eb.length = 64 →
    TaskRec.parse 4096 rb = some r → TypeEnt.parse eb = some e → LowestSlot s p k →
    let tb := (80 + 264 * e.h * e.w + 63) / 64
    let c := s.ctx p q
    e.ibud.toInt ≤ (c.ibud - 32).toInt → e.tbud.toInt ≤ (c.tbud - BitVec.ofNat 64 tb).toInt →
    ∃ t, exec (.lnchSlotAcquire p q) s = .next t ∧ (t.task p k).st = .queued ∧ (t.task p k).ttype = r.ttype ∧
      (t.ctx p q).ibud = c.ibud - 32 - e.ibud ∧ (t.ctx p q).pc = c.pc + 8 ∧ (t.ctx p q).wait = .ready ∧
      Writes s t p q f.d (BitVec.ofNat 64 (k + (t.task p k).ser.toNat * 256)) ∧ SameBytes s t

/-- TSKQ reads a child's status, CONTPT or yield code, and a stale handle answers 0; BRD reads a child's counters as
IBUD, TBUD, IDEBT or TDEBT; BSPL moves B from the context's counter to the child's; BTOP adds B to a child's counter, or
with CTX to a context's, given RIGHTS.TOPUP; CONT sets CONTPT to a multiple of 64; YLD charges as it issues and waits
until both counters are positive. A bad handle, an amount of BSPL or a context is refused with 0x40, 0x43 or 0x44 (R261,
R265, R271, R277, R278). When a handle is stale, TVAL of BSPL's traps and the order of BTOP's checks are the model's
choice (logs 73, 76, 44). -/
def Sys2Proof.Claims.TaskOperations : Prop :=
  (∀ (f : SeqF) (s : State) (p : Fin 32) (q : Fin 4) (k : Nat), NamesTask s p q f k →
    let t0 := s.task p k
    let sel := f.imm.toNat % 4
    let b := s.curCtx.rd f.b
    let tr := f.imm.getLsbD 0
    (sel < 3 →
      ∃ t, exec (.tskq f) s = .next t ∧ Completes s t p q 1 0 ∧ OnlyCtx s t p q ∧
        Writes s t p q f.d (if sel = 0 then taskStatus t0 else if sel = 1 then t0.contpt else t0.ycode.setWidth 64)) ∧
    (sel = 3 →
      ∃ t v, exec (.tskq f) s = .next t ∧ Completes s t p q 1 0 ∧ OnlyCtx s t p q ∧ Writes s t p q f.d v ∧
        ∀ r, t0.rid = some r → v = (hdrCfgid ((s.region p r).activeHdr s p)).setWidth 64) ∧
    (∃ t, exec (.brd f) s = .next t ∧ Completes s t p q 1 0 ∧ OnlyCtx s t p q ∧
      Writes s t p q f.d
        (let v := if sel % 2 = 0 then t0.ibud else t0.tbud
         if sel < 2 then (if v.toInt < 0 then 0 else v) else if v.toInt < 0 then 0 - v else 0)) ∧
    (2 ^ 62 ≤ b.toNat → Refused (.bspl f) s (s.curCtx.rd f.a) 0x43) ∧
    (b.toNat < 2 ^ 62 → b.toInt ≤ (if tr then s.curCtx.tbud else s.curCtx.ibud - 1).toInt →
      ∃ t, exec (.bspl f) s = .next t ∧ NoWrite s t p q ∧ (t.ctx p q).pc = s.curCtx.pc + 8 ∧
        (t.ctx p q).ibud = (if tr then s.curCtx.ibud - 1 else s.curCtx.ibud - 1 - b) ∧
        (t.ctx p q).tbud = (if tr then s.curCtx.tbud - b else s.curCtx.tbud) ∧
        (t.task p k).ibud = (if tr then t0.ibud else t0.ibud + b) ∧
        (t.task p k).tbud = (if tr then t0.tbud + b else t0.tbud) ∧ OtherTasks s t p k ∧ SameBytes s t) ∧
    (b.toNat < 2 ^ 62 → (if tr then s.curCtx.tbud else s.curCtx.ibud - 1).toInt < b.toInt →
      ∃ t, exec (.bspl f) s = .next t ∧
        Enters s t p q s.curCtx.pc (if tr then cBUDGET_T else cBUDGET_I) (some b) none) ∧
    (f.imm.getLsbD 1 = false → s.curCtx.rights.getLsbD 0 = true →
      ∃ t, exec (.btop f) s = .next t ∧ Completes s t p q 1 0 ∧ NoWrite s t p q ∧
        (t.task p k).ibud = (if tr then t0.ibud else t0.ibud + b) ∧
        (t.task p k).tbud = (if tr then t0.tbud + b else t0.tbud) ∧ OtherTasks s t p k ∧ SameBytes s t)) ∧
  ∀ (f : SeqF) (s : State) (p : Fin 32) (q : Fin 4), Issues s p q f →
    let a := s.curCtx.rd f.a
    let b := s.curCtx.rd f.b
    (nameTask s p q a = .stale → ∃ t, exec (.tskq f) s = .next t ∧ Completes s t p q 1 0 ∧ Writes s t p q f.d 0 ∧
      OnlyCtx s t p q) ∧
    (nameTask s p q a = .bad → Refused (.tskq f) s a 0x40) ∧
    (nameTask s p q a = .bad ∨ nameTask s p q a = .stale → Refused (.brd f) s a 0x40 ∧ Refused (.bspl f) s a 0x40 ∧
      (f.imm.getLsbD 1 = false → s.curCtx.rights.getLsbD 0 = true → Refused (.btop f) s a 0x40)) ∧
    (f.imm.getLsbD 1 = true → s.curCtx.rights.getLsbD 0 = true →
      (4 ≤ a.toNat → Refused (.btop f) s a 0x44) ∧
      (a.toNat < 4 →
        let own : BitVec 64 := if a.toNat = q then 1 else 0
        ∃ t, exec (.btop f) s = .next t ∧ (t.ctx p q).pc = s.curCtx.pc + 8 ∧ (t.ctx p q).wait = .ready ∧ NoWrite s t p q ∧
          (t.ctx p a.toNat).ibud = (s.ctx p a.toNat).ibud - own + (if f.imm.getLsbD 0 then 0 else b) ∧
          (t.ctx p a.toNat).tbud = (s.ctx p a.toNat).tbud + (if f.imm.getLsbD 0 then b else 0) ∧
          (a.toNat ≠ q → (t.ctx p q).ibud = s.curCtx.ibud - 1) ∧ SameBytes s t)) ∧
    (a.toNat % 64 = 0 → ∃ t, exec (.cont f) s = .next t ∧ Completes s t p q 1 0 ∧ NoWrite s t p q ∧
      (t.ctx p q).contpt = a ∧ OnlyCtx s t p q) ∧
    (a.toNat % 64 ≠ 0 → ∃ t, exec (.cont f) s = .next t ∧ Enters s t p q s.curCtx.pc cMISALIGN (some a) none) ∧
    (∃ t, exec (.yld f) s = .next t ∧ OnlyWaits s t p q 0x85 f 0) ∧
    ∀ (u : State) (k : Fin 4), (u.ctx p k).wait = .poll (seqPack 0x85 f) 0 →
      (0 < (u.ctx p k).ibud.toInt → 0 < (u.ctx p k).tbud.toInt →
        ∃ w, exec (.seqOpComplete p k) u = .next w ∧ Completes u w p k 0 0 ∧ NoWrite u w p k ∧ OnlyCtx u w p k) ∧
      ((u.ctx p k).ibud.toInt ≤ 0 ∨ (u.ctx p k).tbud.toInt ≤ 0 → exec (.seqOpComplete p k) u = .next u)

/-- TRACE answers the status before its change: count, FULL, DIVERGED and mode. Modes 1 and 2 start a trace on a buffer
at a multiple of 64 with a size, count and flags cleared and the waiting bids' ordinals begun anew; a bad base or size
is refused with 0x45. Mode 0 ends it, mode 3 only reads (R274, R275, R278; the numbers the waiting bids take are the
model's choice, log 38). -/
def Sys2Proof.Claims.DispatchTrace : Prop :=
  ∀ (f : SeqF) (s : State) (p : Fin 32) (q : Fin 4), Issues s p q f → s.curCtx.rights.getLsbD 2 = true →
    let a := s.curCtx.rd f.a
    let b := s.curCtx.rd f.b
    let tr := (s.pad p).trace
    let st := BitVec.ofNat 64 (tr.count.toNat + tr.full.toNat * 2 ^ 32 + tr.diverged.toNat * 2 ^ 33 + tr.mode.toNat * 2 ^ 34)
    (∃ t, exec (.traceRead f) s = .next t ∧ Completes s t p q 1 0 ∧ Writes s t p q f.d st ∧ OnlyCtx s t p q ∧
      (t.pad p).trace = tr) ∧
    (∃ t, exec (.traceOff f) s = .next t ∧ Completes s t p q 1 0 ∧ Writes s t p q f.d st ∧ OnlyCtx s t p q ∧
      (t.pad p).trace = { tr with mode := 0 }) ∧
    ∀ i m, (i = Instr.traceRecord f ∧ m = 1) ∨ (i = .traceBind f ∧ m = 2) →
      (a.toNat % 64 ≠ 0 ∨ b = 0 → Refused i s a 0x45) ∧
      (a.toNat % 64 = 0 → b ≠ 0 →
        ∃ t, exec i s = .next t ∧ Completes s t p q 1 0 ∧ Writes s t p q f.d st ∧ OnlyCtx s t p q ∧
          (let y := (t.pad p).trace
           y.mode = BitVec.ofNat 2 m ∧ y.base = a ∧ y.size = b ∧ y.count = 0 ∧ y.full = false ∧ y.diverged = false) ∧
          (t.pad p).bids.length = (s.pad p).bids.length)

/-- The life of a task. Its charges reach its counters in the fourth fc and an enforced counter at or below 0 then sets
a freeze 5 fc on, under a trap too; a due freeze saves the region at CONTPT and freezes the task, or with CONTPT 0 is a
fabric trap BUDGET_I or BUDGET_T, but where the task retires in that fc; a frozen task whose counters are positive again
is restored and runs; a pending yield saves, frees the region and bids again; a region that meets R133 with no charge
under way and no debt retires its task: both counters return to the parent, the region and the slot are free and the
parent's tag is set (R264, R267 to R269, R273). That a freeze is set under a trap too, and the fc in which it holds, are the
model's reading (log 42). -/
def Sys2Proof.Claims.TaskLife : Prop :=
  (∀ (s : State) (p : Fin 32) (r : Fin 16) (k : Nat), (s.region p r).task = some k → (s.region p r).alloc = true →
    let x := s.region p r
    let due := x.charges.filter fun c => decide (c.fc + 3 ≤ s.fc p)
    let ib := due.foldl (fun n c => n + c.ib) 0
    let tb := due.foldl (fun n c => n + c.tb) 0
    let i := (s.task p k).ibud - BitVec.ofNat 64 ib
    let j := (s.task p k).tbud - BitVec.ofNat 64 tb
    let out := ((s.task p k).cclass ≠ 2 ∧ i.toInt ≤ 0) ∨ ((s.task p k).cclass ≠ 1 ∧ j.toInt ≤ 0)
    ∃ t, exec (.budgetAdderUpdate p r) s = .next t ∧ (t.task p k).ibud = i ∧ (t.task p k).tbud = j ∧
      (t.region p r).charges = x.charges.filter (fun c => !decide (c.fc + 3 ≤ s.fc p)) ∧
      (out → (s.task p k).st = .running ∨ (s.task p k).st = .faulted → x.freezeAt = none →
        (t.region p r).freezeAt = some (s.fc p + 5)) ∧
      (¬ out → (t.region p r).freezeAt = x.freezeAt) ∧ OtherRegions s t p r ∧ OtherTasks s t p k ∧ SameBytes s t) ∧
  (∀ (s : State) (p : Fin 32) (r : Fin 16) (k : Nat), (s.region p r).task = some k →
    stopDue s p r (s.region p r).freezeAt = true ∨ StopNow s p r (s.region p r).freezeAt →
    (∀ rid, RetireNow s p k rid → exec (.budgetFreeze p r) s = .next s) ∧
    ((s.task p k).contpt = 0 → (∀ rid, ¬ RetireNow s p k rid) →
      (s.pad p).regionAt (tileAt (s.region p r).row0 (s.region p r).col0) = some (r.val, s.region p r) →
      ∃ t tr, exec (.budgetFreeze p r) s = .next t ∧ (t.region p r).trap = some tr ∧
        tr.cause = (if (s.task p k).iexh then cBUDGET_I else cBUDGET_T) ∧ (t.task p k).st = .faulted ∧ SameBytes s t) ∧
    ∀ s', (s.task p k).contpt ≠ 0 → (∀ rid, ¬ RetireNow s p k rid) →
      writeSome s p (s.task p k).contpt (saveBytes s p (s.region p r)) = (none, s') →
      ∃ t, exec (.budgetFreeze p r) s = .next t ∧ (t.region p r).saved = true ∧ (t.region p r).st = .frozen ∧
        (t.task p k).st = .frozen ∧ ∀ h x, t.rdByte h x = s'.rdByte h x) ∧
  (∀ (s : State) (p : Fin 32) (k : Fin 64) (rid n : Nat) (s' : State), (s.task p k).rid = some rid →
    (s.task p k).st = .frozen → ¬ CounterAtMost (s.task p k) 0 → (s.region p rid).paused = false →
    restoreRegion s p rid (s.task p k).contpt = (.ok n, s') → (s.pad p).trace.mode = 0 →
    ∃ t, exec (.taskResume p k) s = .next t ∧ (t.task p k).st = .running ∧ (t.region p rid).st = .running ∧
      (t.region p rid).saved = false ∧ SameBytes s t) ∧
  (∀ (s : State) (p : Fin 32) (k : Fin 64) (rid : Nat) (s' : State), (s.task p k).rid = some rid →
    (s.task p k).st = .running → (s.task p k).ypend = true →
    stopDue s p rid (s.region p rid).yieldAt = true ∨ StopNow s p rid (s.region p rid).yieldAt →
    (∀ n, (s.region p rid).freezeAt = some n → s.fc p < n) → (s.region p rid).task = some k.val → (s.pad p).trace.mode = 0 →
    writeSome s p (s.task p k).contpt (saveBytes s p (s.region p rid)) = (none, s') →
    ∃ t, exec (.yieldRelease p k) s = .next t ∧ (t.task p k).st = .released ∧ (t.region p rid).alloc = false ∧
      (t.pad p).bids.length = (s.pad p).bids.length + 1 ∧ ∀ h x, t.rdByte h x = s'.rdByte h x) ∧
  ∀ (s : State) (p : Fin 32) (k : Fin 64) (rid : Nat), RetireNow s p k rid → (s.region p rid).task = some k.val →
    let y := s.task p k
    ∃ t, exec (.taskRetire p k) s = .next t ∧ (t.task p k).st = .free ∧ (t.task p k).ser = y.ser ∧
      (t.region p rid).alloc = false ∧ (t.ctx p y.parent).ibud = (s.ctx p y.parent).ibud + y.ibud ∧
      (t.ctx p y.parent).tbud = (s.ctx p y.parent).tbud + y.tbud ∧
      (t.ctx p y.parent).tags.getLsbD y.tag.toNat = true ∧ OtherTasks s t p k ∧ SameBytes s t

/-- BID_ADMIT of a queued task's bid: the task's image is read, made resident in slot 0 and activated, SEG0 of its E tiles
is the argument pointer and the task runs. Of a released task, the image of its continuation (its own where CONTC is 0) is
read, made resident and active, without the reset of locals, scales and zero points that LNCH gives, and the save area at
CONTPT restored; the task runs with YPEND 0. An image that cannot be loaded, for a fault of an address or of a word of it,
or a save area that does not match, frees the region, returns both budgets to the parent, makes the task faulted and
reports the cause, with the address or the handle and the handle or detail 0x1A, to the parent; the report waits behind
one of the task that is still pending (R40, R156, R188, R263, R273, R311). -/
def Sys2Proof.Claims.TaskAdmission : Prop :=
  ∀ (s : State) (p : Fin 32) (n row0 col0 id k : Nat) (b : Bid),
    pickBid s p = (.grant n row0 col0, s) → (s.pad p).bids[n]? = some b → b.kind = .task k →
    (s.pad p).freeId = some id → (s.pad p).trace.mode = 0 → (s.task p k).moveTo = none →
    b.q = (s.task p k).parent → (s.task p k).fuse = false →
    let y := s.task p k
    let rect := rectTiles row0 col0 b.h b.w
    let handle := BitVec.ofNat 64 (k + 256 * y.ser.toNat)
    let from_ := fun (cont : Bool) =>
      (newRegion (takeBid s p n) p id b row0 col0 (some k) y.seed (!cont)).updRegion p id fun r =>
        { r with ufc := y.ufc, fold := 0, fullH := y.h }
    let runs := fun (t : State) (img : List (BitVec 64)) =>
      (t.task p k).st = .running ∧ (t.task p k).rid = some id ∧
      (let r := t.region p id
       r.alloc = true ∧ r.task = some k ∧ r.act = some 0 ∧ r.st = .running ∧ (r.row0, r.col0, r.h, r.w) = (row0, col0, b.h, b.w)) ∧
      (∀ j ∈ rect, ∃ m : Nat, rect[m]? = some j ∧ Tbl.find? (t.tile p j).cfgs 0 = some ((img.drop (33 * m)).take 33)) ∧
      (∀ j ∈ rect, tileType j = .e → Tbl.get 0 (t.tile p j).et.seg 0 = y.arg.setWidth 64) ∧
      OtherRegions s t p id ∧ SameBytes s t
    let fails := fun (c : BitVec 8) (tval tval2 : BitVec 64) =>
      ∃ t, exec (.bidAdmit p n) s = .next t ∧ (t.task p k).st = .faulted ∧ (t.task p k).rid = none ∧
        (t.region p id).alloc = false ∧ SameBytes s t ∧
        ((∀ e ∈ (s.pad p).late, e.1 ≠ .task k y.ser) →
          (t.ctx p b.q).ibud = (s.ctx p b.q).ibud + y.ibud ∧ (t.ctx p b.q).tbud = (s.ctx p b.q).tbud + y.tbud) ∧
        ∃ r : Report, r.cause = c ∧ r.tval = tval ∧ r.tval2 = tval2 ∧ r.src = .task k ∧
          if reportWaits s p (.task k) then (b.q, r) ∈ (t.pad p).behind else r ∈ (t.ctx p b.q).reports
    (y.st = .queued → ∀ img s', readImage (from_ false) p row0 col0 b.h b.w none y.main = (.ok img, s') →
      ∃ t, exec (.bidAdmit p n) s = .next t ∧ runs t img ∧ Activated (from_ false) t p id 0 true) ∧
    (y.st = .released → ∀ main, main = (if y.contc = 0 then y.main else y.contc) →
      ∀ img s', readImage (from_ true) p row0 col0 b.h b.w none main = (.ok img, s') →
      let s1 := activateRegion (makeResident s' p id 0 main img) p id 0 false
      let s2 := (setSegs s1 p (s1.region p id) y.arg).setTask p k
        { y with st := .running, rid := some id, row0 := row0, col0 := col0, stopAt := none }
      let s3 := s2.updRegion p id fun r => { r with freezeAt := y.stopAt }
      (∀ m u, restoreRegion s3 p id y.contpt = (.ok m, u) →
        ∃ t, exec (.bidAdmit p n) s = .next t ∧ runs t img ∧ (t.task p k).ypend = false ∧ (t.region p id).saved = false ∧
          ∀ j ∈ rect, (t.tile p j).bufs = (u.tile p j).bufs ∧ (t.tile p j).preds = (u.tile p j).preds ∧
            (∀ i, (t.tile p j).lc i = (u.tile p j).lc i ∧ (t.tile p j).vc i = (u.tile p j).vc i) ∧
            (t.tile p j).mx.scale = (s.tile p j).mx.scale ∧ (t.tile p j).mx.zp = (s.tile p j).mx.zp) ∧
      ∀ e u, restoreRegion s3 p id y.contpt = (.error e, u) → fails cACCESS handle 0x1A) ∧
    (y.st = .queued ∨ y.st = .released → ∀ e c va s', (e = .addr c va ∨ ∃ w, e = .word c va w) →
      readImage (from_ (y.st == .released)) p row0 col0 b.h b.w none
        (if y.st = .queued ∨ y.contc = 0 then y.main else y.contc) = (.error e, s') → fails c va handle)
namespace Sys2Proof.Claims

open Sys2Proof.Machine

/-- The status a journal instruction answers: a code and a seq (R307). -/
def status (code : Nat) (seq : BitVec 48) : BitVec 64 := BitVec.ofNat 64 (code * 2 ^ 56 + seq.toNat)

/-- A journal instruction completes with a status, charging 1 unit of IBUD and tb of TBUD. -/
def Answers (i : Instr) (s : State) (p : Fin 32) (q : Fin 4) (d : BitVec 5) (tb code : Nat) (seq : BitVec 48) : Prop :=
  ∃ t, exec i s = .next t ∧ Completes s t p q 1 tb ∧ Writes s t p q d (status code seq)

/-- The acting context issues a journal instruction of a partition, whose journal is j, with the right it needs. -/
structure JIssues (s : State) (p : Fin 32) (q : Fin 4) (f : SeqF) (n : Nat) (j : Journal) : Prop where
  atP : s.cur.p = p.val
  atQ : s.cur.q = q.val
  passes : guardOk s.curCtx f = true
  right : s.curCtx.rights.getLsbD 1 = true
  part : s.partOf p = n
  jr : s.jr n = j

end Sys2Proof.Claims

namespace Sys2Proof.Claims

open Sys2Proof.Machine

/-- Every member of partition n is OPEN (R322). -/
def MembersOpen (s : State) (n : Nat) : Prop :=
  ∀ h, h < 32 → (s.part n).mask.getLsbD h = true → (s.pad h).gate = .open_

/-- The shape controller of partition n may begin a shape point: none is in progress, the journal has an area and is not
stopped, and every member is OPEN (R292, R322, R391). -/
def MayBegin (s : State) (n : Nat) : Prop :=
  (s.jr n).shape = none ∧ (s.jr n).stopped = false ∧ (s.jr n).area ≠ none ∧ MembersOpen s n

/-- The lowest PROPOSED record, which declares nothing, starts its trial: none is under way and four windows of its
object have passed since the last verdict (R292, R297). -/
def HeadStarts (s : State) (n : Nat) (j : Journal) (r : JRec) : Prop :=
  MayBegin s n ∧ j.trial = none ∧ r.declares = [] ∧ (∃ l, j.inState rPROPOSED = r :: l) ∧
    ∃ o, j.obj = some o ∧ 4 * 2 ^ o.w ≤ (Tbl.get {} j.wins r.obj.toNat : BaseWin).since

/-- A shape point goes on: before the pause no source has to empty; in the pause, begun in an earlier fc, no region of its
paddocks is paused any more (R293). -/
def PointGoesOn (s : State) (p : Fin 32) (z : ShapePt) : Prop :=
  (z.paused = false ∧ z.srcs = []) ∨
    (z.paused = true ∧ z.since < s.fc p ∧ ∀ h, h < 32 → z.mask.getLsbD h = true → ∀ e ∈ (s.pad h).regions, e.2.paused = false)

/-- The tuner takes the object at its pointer (R291): TUNE, an area, neither a stop nor a pin, nothing PROPOSED or in TRIAL,
a paddock of the object's PMASK runs, four windows have passed, and the value is one the object may take. -/
def TunerTakes (s : State) (j : Journal) (i : Nat) (d : Desc) : Prop :=
  ∃ o, j.obj = some o ∧ o.tune = true ∧ j.area ≠ none ∧ j.stopped = false ∧ j.pin = none ∧ j.inState rPROPOSED = [] ∧
    j.inState rTRIAL = [] ∧ j.tuner = i ∧ o.descs[i]? = some d ∧
    (∃ h, h < 32 ∧ d.pmask.getLsbD h = true ∧ (s.pad h).ran = true) ∧
    4 * 2 ^ o.w ≤ (Tbl.get {} j.wins i : BaseWin).since ∧ d.allows (tunerValue d) = true

/-- PRG tokens of a trial in the union of its records' PMASKs (R296). -/
def trialPrg (tr : Trial) : Nat :=
  ((List.range 32).filter fun h => tr.mask.getLsbD h).foldl (fun c h => c + Tbl.get 0 tr.prg h) 0

end Sys2Proof.Claims

/-! ## The Shape Journal -/

/-- O24. Subscriptions, pins, versions and areas. JSUB of a good ring at a multiple of 64 takes the lowest free subscription
and answers it, JUNS of an own one ends it; JPIN takes the pin with a PIN record, JUPN gives it up with an UNPIN record;
JVER answers the version, and with WAIT waits for it; JBASE takes a new area, whose FIRST is NEXT; JRD copies a record
out of the area and answers the seq of the record appended last. An instruction that needs an area answers status 5
without one (R281, R283, R301, R303, R307, R308, R391). JPIN and JBASE wait while a shape point is in progress, JBASE not
for one that a stopped journal holds. The seq that a status of code 5, 2 or 4 carries is the model's choice (log 47), and
so is how a record's write is cut in two for a plain load to see, which JRD and JVER complete (log 14). -/
def Obligations.JournalInstructions : Prop :=
  ∀ (f : SeqF) (s : State) (p : Fin 32) (q : Fin 4) (n : Nat) (j : Journal), JIssues s p q f n j →
    let a := s.curCtx.rd f.a
    let b := s.curCtx.rd f.b
    (j.area = none →
      (∀ i ∈ [Instr.jpin f, .jupn f, .jrev f], Answers i s p q f.d 0 5 (j.next - 1)) ∧
      (∀ i ∈ [Instr.jrd f, .jprp f], Answers i s p q f.d 1 5 (j.next - 1)) ∧
      Answers (.jrpl f) s p q f.d b.toNat 5 (j.next - 1)) ∧
    (canonical a = true → a.toNat % 64 ≠ 0 → Refused (.jsub f) s a 0x54) ∧
    (canonical a = true → a.toNat % 64 = 0 → ∀ bs s', readBytes s p .read a 64 = (.ok bs, s') →
      let w := fun (k : Nat) => natOfBytes ((bs.drop (8 * k)).take 8)
      w 1 < 32 → w 4 < 2 → w 5 = 0 → w 6 = 0 → w 7 = 0 →
      (w 0 % 64 ≠ 0 ∨ w 1 < 4 ∨ 16 < w 1 → Refused (.jsub f) s a 0x54) ∧
      (w 0 % 64 = 0 → 4 ≤ w 1 → w 1 ≤ 16 → (∀ k, k < 4 → (Tbl.get {} j.subs k : Sub).active = true) →
        Refused (.jsub f) s a 0x55) ∧
      ∀ k, w 0 % 64 = 0 → 4 ≤ w 1 → w 1 ≤ 16 → k < 4 → (Tbl.get {} j.subs k : Sub).active = false →
        (∀ m, m < k → (Tbl.get {} j.subs m : Sub).active = true) →
        ∃ t, exec (.jsub f) s = .next t ∧ Completes s t p q 1 1 ∧ Writes s t p q f.d (BitVec.ofNat 64 k) ∧
          (let u : Sub := Tbl.get {} (t.jr n).subs k
           u.active = true ∧ u.paddock = p.val ∧ u.q = q.val ∧ u.ring = a ∧ u.tag = f.imm.extractLsb' 0 6 ∧
           u.kinds = f.imm.extractLsb' 16 16) ∧ SameBytes s t) ∧
    (let u : Sub := Tbl.get {} j.subs (a.toNat % 4)
     (u.active = true → u.paddock = p.val → u.q = q.val →
       ∃ t, exec (.juns f) s = .next t ∧ Completes s t p q 1 0 ∧ NoWrite s t p q ∧
         (Tbl.get {} (t.jr n).subs (a.toNat % 4) : Sub).active = false ∧ SameBytes s t) ∧
     (u.active = false ∨ u.paddock ≠ p.val ∨ u.q ≠ q.val → Refused (.juns f) s a 0x55)) ∧
    (j.area ≠ none → j.shape = none → j.pin ≠ none → Answers (.jpin f) s p q f.d 0 2 j.ver) ∧
    (j.area ≠ none → j.shape = none → j.pin = none →
      let scope := if a.toNat % 2 ^ 32 = 0 then (s.part n).mask else BitVec.ofNat 32 a.toNat
      ∃ t v, exec (.jpin f) s = .next t ∧ Completes s t p q 1 0 ∧ Writes s t p q f.d (status 0 v) ∧
        (t.jr n).pin = some { ver := v, scope := scope, paddock := p, q := q } ∧ (t.jr n).next = j.next + 1 ∧
        ∃ r, (t.jr n).find j.next.toNat = some r ∧ r.kind = kPIN ∧ r.pmask = scope ∧ r.after = v.setWidth 64) ∧
    (j.area ≠ none → j.shape ≠ none → ∃ t, exec (.jpin f) s = .next t ∧ OnlyWaits s t p q 0x92 f 0) ∧
    (j.area ≠ none → j.pin = none → Answers (.jupn f) s p q f.d 0 4 (j.next - 1)) ∧
    (∀ z, j.area ≠ none → j.pin = some z → z.paddock = p.val → z.q = q.val →
      ∃ t, exec (.jupn f) s = .next t ∧ Completes s t p q 1 0 ∧ Writes s t p q f.d (status 0 j.next) ∧
        (t.jr n).pin = none ∧ ∃ r, (t.jr n).find j.next.toNat = some r ∧ r.kind = kUNPIN ∧ r.pmask = z.scope) ∧
    (∀ z, j.area ≠ none → j.pin = some z → z.paddock ≠ p.val ∨ z.q ≠ q.val → Refused (.jupn f) s a 0x56) ∧
    (f.imm.getLsbD 0 = false ∨ a.toNat % 2 ^ 48 ≤ j.ver.toNat →
      ∃ t, exec (.jver f) s = .next t ∧ Completes s t p q 1 0 ∧ Writes s t p q f.d (j.ver.setWidth 64) ∧
        (∀ h k, (h, k) ≠ (p.val, q.val) → t.ctx h k = s.ctx h k) ∧ (j.tail = none → OnlyCtx s t p q)) ∧
    (f.imm.getLsbD 0 = true → j.ver.toNat < a.toNat % 2 ^ 48 →
      ∃ t, exec (.jver f) s = .next t ∧ OnlyWaits s t p q 0x99 f 0) ∧
    (∀ z, j.shape = some z → z.held = false → ∃ t, exec (.jbase f) s = .next t ∧ OnlyWaits s t p q 0x98 f 0) ∧
    ((∀ z, j.shape = some z → z.held = true) → a.toNat % 64 ≠ 0 ∨ b.toNat % 32 < 6 ∨ 24 < b.toNat % 32 →
      Refused (.jbase f) s a 0x54) ∧
    (∀ pa host s', (∀ z, j.shape = some z → z.held = true) → a.toNat % 64 = 0 → 6 ≤ b.toNat % 32 → b.toNat % 32 ≤ 24 →
      checkAddr s p a 64 .write = (.ok pa host, s') → j.stopped = false →
      j.inState rPROPOSED ≠ [] ∨ j.inState rTRIAL ≠ [] → Answers (.jbase f) s p q f.d 0 2 (j.next - 1)) ∧
    (∀ pa host s', (∀ z, j.shape = some z → z.held = true) → a.toNat % 64 = 0 → 6 ≤ b.toNat % 32 → b.toNat % 32 ≤ 24 →
      checkAddr s p a 64 .write = (.ok pa host, s') →
      j.stopped = true ∨ (j.inState rPROPOSED = [] ∧ j.inState rTRIAL = []) →
      ∃ t, exec (.jbase f) s = .next t ∧ Completes s t p q 1 0 ∧ Writes s t p q f.d (status 0 (j.next - 1)) ∧
        (t.jr n).area = some a ∧ (t.jr n).k = b.toNat % 32 ∧ (t.jr n).first = j.next ∧
        (t.jr n).baseBy = some (p.val, q.val) ∧
        (j.inState rPROPOSED = [] → j.inState rTRIAL = [] → j.failed = [] → (t.jr n).stopped = false)) ∧
    (j.area ≠ none → j.holds (a.toNat % 2 ^ 48) = false → ∃ t, exec (.jrd f) s = .next t ∧
      Enters (flushArea s n) t p q s.curCtx.pc cACCESS (some a) (some 0x53)) ∧
    (j.area ≠ none → j.holds (a.toNat % 2 ^ 48) = true → canonical b = true → b.toNat % 64 ≠ 0 →
      ∃ t, exec (.jrd f) s = .next t ∧
        Enters (flushArea s n) t p q s.curCtx.pc cACCESS (some a) (some 0x54)) ∧
    ∀ bs s1 s2, j.area ≠ none → j.holds (a.toNat % 2 ^ 48) = true → canonical b = true → b.toNat % 64 = 0 →
      readBytes (flushArea s n) (s.lead n) .read (j.addr (j.area.getD 0) (a.toNat % 2 ^ 48)) 64 = (.ok bs, s1) →
      writeBytes s1 p b bs = (none, s2) →
      ∃ t, exec (.jrd f) s = .next t ∧ Completes s t p q 1 1 ∧
        Writes s t p q f.d (status 0 (j.next - 1)) ∧ ∀ h x, t.rdByte h x = s2.rdByte h x

/-- O25. JPRP of a request that R289 allows appends a PROPOSED record of the object, BEFORE its current value, and
answers its seq; a stopped journal answers 2, a pinned scope 1, a full queue 2; a bad request, index, value or
dependency is refused with 0x57, 0x50, 0x51 or 0x52. JREV of no revertible record is refused with 0x53; of an UNDONE or
REJECTED one it answers 4; a PROPOSED one becomes REJECTED with reason 2; for another it begins the closure's shape
point, or appends a REFUSED record and answers its seq, with code 1 for a pin or a member below EARLY. JRPL waits its
turn, answers 2 while records are pending, 3 where its records do not fit and 1 for a pinned scope, and else begins the
shape point of the first record it keeps, with the others behind it; with none it ends at once with its REPLAY record
(R289, R290, R298, R304, R305, R307, R308). The seq that a status of code 1 to 4 carries and what a REPLAY record holds
beside what R304 says are the model's choice (log 47), so is which code JPRP and JRPL answer where two hold (log 80), and
the code of a revert that its check refuses for its action, which no rule names, is free (log 85). -/
def Obligations.JournalRequests : Prop :=
  ∀ (f : SeqF) (s : State) (p : Fin 32) (q : Fin 4) (n : Nat) (j : Journal), JIssues s p q f n j → j.area ≠ none →
    let a := s.curCtx.rd f.a
    let b := s.curCtx.rd f.b
    let seq := a.toNat % 2 ^ 48
    (canonical a = true → a.toNat % 64 = 0 → ∀ bs s', readBytes s p .read a 64 = (.ok bs, s') →
      (parseRequest bs = none → Refused (.jprp f) s a 0x57) ∧
      ∀ idx after deps, parseRequest bs = some (idx, after, deps) →
        (j.desc idx = none → Refused (.jprp f) s a 0x50) ∧
        ∀ d, j.desc idx = some d →
          (d.allows after.toNat = false → Refused (.jprp f) s a 0x51) ∧
          (d.allows after.toNat = true → (∃ x ∈ deps, x ≠ 0 ∧ j.depOk x = false) → Refused (.jprp f) s a 0x52) ∧
          (d.allows after.toNat = true → (∀ x ∈ deps, x ≠ 0 → j.depOk x = true) →
            (j.stopped = true → Answers (.jprp f) s p q f.d 1 2 (j.next - 1)) ∧
            (j.stopped = false → j.pinned d.pmask = true → Answers (.jprp f) s p q f.d 1 1 (j.next - 1)) ∧
            (j.stopped = false → j.pinned d.pmask = false → 16 ≤ (j.inState rPROPOSED).length →
              Answers (.jprp f) s p q f.d 1 2 (j.next - 1)) ∧
            (j.pinned d.pmask = false → j.stopped = false → (j.inState rPROPOSED).length < 16 →
              ∃ t r, exec (.jprp f) s = .next t ∧ Completes s t p q 1 1 ∧ Writes s t p q f.d (status 0 j.next) ∧
                (t.jr n).next = j.next + 1 ∧ (t.jr n).find j.next.toNat = some r ∧ r.st = rPROPOSED ∧ r.kind = d.kind ∧
                r.obj = BitVec.ofNat 32 idx ∧ r.pmask = d.pmask ∧ r.before = d.cur.setWidth 64 ∧ r.after = after ∧
                r.origin = 1))) ∧
    (j.shape = none → j.holds seq = false ∨ j.find seq = none → Refused (.jrev f) s a 0x53) ∧
    (∀ r, j.shape = none → j.holds seq = true → j.find seq = some r →
      (r.isChange = false ∨ r.device = true → Refused (.jrev f) s a 0x53) ∧
      (r.isChange = true → r.device = false → r.st = rUNDONE ∨ r.st = rREJECTED →
        Answers (.jrev f) s p q f.d 0 4 (j.next - 1)) ∧
      (r.isChange = true → r.device = false → r.st = rPROPOSED → r.seq.toNat = seq →
        ∃ t y, exec (.jrev f) s = .next t ∧ Completes s t p q 1 0 ∧ Writes s t p q f.d (status 0 (j.next - 1)) ∧
          (t.jr n).find seq = some y ∧ y.st = rREJECTED ∧ y.reason = 2) ∧
      (r.isChange = true → r.device = false → r.st = rTRIAL ∨ r.st = rCONFIRMED → shapeIdle s n = true →
        (∀ s', refusal s n (closure j r) = (none, s') →
          ∃ t z, exec (.jrev f) s = .next t ∧ Polls s t p q 0x96 f 1 1 0 ∧ NoWrite s t p q ∧ (t.jr n).shape = some z ∧
            z.req = .revert ((closure j r).map (·.seq)) 1 2 (some (p.val, q.val))) ∧
        ∀ m inacc s', refusal s n (closure j r) = (some (m, inacc), s') →
          ∃ t y code, exec (.jrev f) s = .next t ∧ Completes s t p q 1 0 ∧ Writes s t p q f.d (status code j.next) ∧
            code < 6 ∧ (inacc = false → code = 1) ∧
            (t.jr n).find j.next.toNat = some y ∧ y.kind = kREFUSED ∧ y.before = r.seq.setWidth 64 ∧
            y.after = m.setWidth 64 ∧ y.flags = (if inacc then fINACC else 0))) ∧
    (j.shape ≠ none → ∃ t, exec (.jrev f) s = .next t ∧ OnlyWaits s t p q 0x96 f 0) ∧
    (∀ z, j.shape = some z → z.held = false ∨ j.stopped = false →
      ∃ t, exec (.jrpl f) s = .next t ∧ Polls s t p q 0x97 f 0 1 b.toNat ∧ OnlyCtx s t p q ∧ NoWrite s t p q) ∧
    ((∀ z, j.shape = some z → z.held = true ∧ j.stopped = true) → canonical a = true → a.toNat % 64 = 0 → 0 < b.toNat → b.toNat ≤ 65536 →
      (j.stopped = true ∨ j.inState rPROPOSED ≠ [] ∨ j.inState rTRIAL ≠ [] →
        Answers (.jrpl f) s p q f.d b.toNat 2 (j.next - 1)) ∧
      (j.stopped = false → j.inState rPROPOSED = [] → j.inState rTRIAL = [] →
        ∀ bs s', readBytes s p .read a (64 * b.toNat) = (.ok bs, s') →
        let kept := ((List.range b.toNat).map fun i => (bs.drop (64 * i)).take 64).filter replayKept
        (kept ≠ [] → j.obj = none → Answers (.jrpl f) s p q f.d b.toNat 3 (j.next - 1)) ∧
        (∀ o, j.obj = some o →
          let src := kept.foldl (fun (m : BitVec 32) x => m ||| BitVec.ofNat 32 (natOfBytes ((x.drop 8).take 4))) 0
          let plan := replayPlan o (maskList src) (maskList (s.part n).mask) kept o.descs
          (plan = none → Answers (.jrpl f) s p q f.d b.toNat 3 (j.next - 1)) ∧
          ∀ r l, plan = some (r :: l) →
            ((∃ y ∈ r :: l, j.pinned y.pmask = true) → Answers (.jrpl f) s p q f.d b.toNat 1 (j.next - 1)) ∧
            ((∀ y ∈ r :: l, j.pinned y.pmask = false) → membersOpen s n = true →
              ∃ t z, exec (.jrpl f) s = .next t ∧ Polls s t p q 0x97 f 1 1 b.toNat ∧ NoWrite s t p q ∧
                (t.jr n).shape = some z ∧ z.req = .replay (r :: l) [] (p.val, q.val) ∧ z.mask = r.pmask ∧ z.held = false)) ∧
        (kept = [] → membersOpen s n = true →
          ∃ t y, exec (.jrpl f) s = .next t ∧ Completes s t p q 1 b.toNat ∧ Writes s t p q f.d (status 0 j.next) ∧
            (t.jr n).find j.next.toNat = some y ∧ y.kind = kREPLAY ∧ y.before = 0 ∧ y.after = 0)))

/-- SHAPE_POINT of a partition's lowest paddock: the head record's shape point begins, or the record is rejected with
reason 6; once the changed routes are empty the regions pause; then the action is performed and the shape point is
over: a proposal becomes TRIAL, or REJECTED with reason 9 where its action cannot be performed, a revert undoes
its members, or is refused where its check, made again, says so. One that was held begins anew (R292, R293, R298, R391,
R392). That a check is made again at the shape point, and how a held one begins, are the model's choice (log 47). -/
def Sys2Proof.Claims.ShapePoints : Prop :=
  ∀ (s : State) (p : Fin 32) (n : Nat) (j : Journal), s.partOf p = n → s.lead n = p.val → s.jr n = j →
    (∀ r, j.shape = none → (headDue s n = some (r, .start) ∨ HeadStarts s n j r) →
      ∃ t z, exec (.shapePoint p) s = .next t ∧ (t.jr n).shape = some z ∧ z.req = .apply r.seq ∧ z.mask = r.pmask ∧
        SameBytes s t) ∧
    (∀ r, j.shape = none → headDue s n = some (r, .reject) → j.find r.seq.toNat = some r →
      ∃ t y, exec (.shapePoint p) s = .next t ∧ (t.jr n).find r.seq.toNat = some y ∧ y.st = rREJECTED ∧ y.reason = 6) ∧
    (∀ z, j.shape = some z → z.held = true → j.stopped = false → MembersOpen s n →
      ∃ t y, exec (.shapePoint p) s = .next t ∧ (t.jr n).shape = some y ∧ y.req = z.req ∧ y.mask = z.mask ∧
        y.held = false ∧ SameBytes s t) ∧
    ∀ z, j.shape = some z → z.held = false → (shapeDue s n = true ∨ PointGoesOn s p z) →
      (z.paused = false →
        ∃ t, exec (.shapePoint p) s = .next t ∧ (t.jr n).shape = some { z with paused := true, since := s.fc p } ∧
          SameBytes s t) ∧
      (∀ seq r c s', z.paused = true → z.req = .apply seq → j.find seq.toNat = some r → r.seq = seq →
        act s n r.obj.toNat r.after.toNat seq.toNat = (some c, s') →
        ∃ t y, exec (.shapePoint p) s = .next t ∧ (t.jr n).shape = none ∧ (t.jr n).find seq.toNat = some y ∧
          y.st = rTRIAL ∧ (t.jr n).trial ≠ none) ∧
      (∀ seq r s', z.paused = true → z.req = .apply seq → j.find seq.toNat = some r → r.seq = seq →
        act s n r.obj.toNat r.after.toNat seq.toNat = (none, s') →
        ∃ t y, exec (.shapePoint p) s = .next t ∧ (t.jr n).shape = none ∧ (t.jr n).find seq.toNat = some y ∧
          y.st = rREJECTED ∧ y.reason = 9) ∧
      ∀ seqs origin reason by_, z.paused = true → z.req = .revert seqs origin reason by_ →
        let members := seqs.filterMap fun x => j.find x.toNat
        (∀ s', refusal s n members = (none, s') →
          ∃ t, exec (.shapePoint p) s = .next t ∧ (t.jr n).shape = none ∧
            ((t.jr n).recs, (t.jr n).next) =
              (((revertNow s' n seqs origin reason).jr n).recs, ((revertNow s' n seqs origin reason).jr n).next) ∧
            ∀ (h : Fin 32) (q : Fin 4) (f : SeqF), by_ = some (h.val, q.val) →
              (s.ctx h q).wait = .poll (seqPack 0x96 f) 1 →
              Completes s t h q 0 0 ∧ Writes s t h q f.d (status 0 ((t.jr n).next - 1))) ∧
        ∀ m inacc s', refusal s n members = (some (m, inacc), s') →
          ∃ t y, exec (.shapePoint p) s = .next t ∧ (t.jr n).shape = none ∧ (t.jr n).find j.next.toNat = some y ∧
            y.kind = kREFUSED ∧ y.before = (seqs.headD 0).setWidth 64 ∧ y.after = m.setWidth 64

/-- One member of a revert undone: an UNDO record with BEFORE and AFTER exchanged is appended, declaring the member,
and the member is UNDONE, with AUTO where the device reverted it (R298, R305). -/
def Sys2Proof.Claims.UndoneMember : Prop :=
  ∀ (s : State) (n : Nat) (m : JRec) (origin : BitVec 2) (reason : BitVec 8) (last : Bool),
    (s.jr n).find m.seq.toNat = some m → m.seq ≠ (s.jr n).next →
    let u := undoOne s n m.seq origin reason last
    (u.jr n).next = (s.jr n).next + 1 ∧
    (∃ y, (u.jr n).find m.seq.toNat = some y ∧ y.st = rUNDONE ∧ y.reason = reason ∧ y.after = m.after ∧
      (reason = 1 → y.flags = m.flags ||| fAUTO)) ∧
    ∃ y, (u.jr n).find (s.jr n).next.toNat = some y ∧ y.kind = kUNDO ∧ y.before = m.after ∧ y.after = m.before ∧
      y.obj = m.obj ∧ y.pmask = m.pmask ∧ y.origin = origin ∧ y.reason = reason ∧
      y.dep 0 = (BitVec.ofNat 16 ((s.jr n).next.toNat - m.seq.toNat)).toNat

/-- O27. The windows. A complete baseline window joins its object's last four counts; a trial's window that is not the last
is counted; the last gives the verdict, once a shape point may begin: MEAS the mean of its windows over the union of its
records' PMASKs, its records CONFIRMED when MEAS × 256 is at least BASE × (256 − margin), else their revert begins or is
refused, and the trial is over. The tuner proposes its value for the object it takes, with origin 0 (R291, R295, R296,
R302). The tuner's wait, 4 times 2^W fc counted for the object, and the verdict on the first record's BASE are the readings of
log 48: the model's. -/
def Obligations.TrialsAndTuner : Prop :=
  ∀ (s : State) (p : Fin 32) (n : Nat) (j : Journal), s.partOf p = n → s.lead n = p.val → s.jr n = j →
    (∀ o i b, j.obj = some o → Tbl.find? j.wins i = some b → 2 ^ o.w ≤ b.fcs → (j.wins.map (·.1)).Nodup →
      ∃ t, exec (.baselineWindowEnd p) s = .next t ∧ SameBytes s t ∧
        (let c : BaseWin := Tbl.get {} (t.jr n).wins i
         c.fcs = 0 ∧ c.cnt = 0 ∧ c.since = b.since ∧
         c.hist = (b.hist ++ [b.cnt]).drop ((b.hist ++ [b.cnt]).length - 4))) ∧
    (∀ tr o, j.trial = some tr → j.obj = some o → tr.wins + 1 < o.ntrialw → 2 ^ o.w ≤ tr.fcs →
      ∃ t, exec (.trialWindowEnd p) s = .next t ∧ SameBytes s t ∧
        (t.jr n).trial = some { tr with wins := tr.wins + 1, fcs := 0 }) ∧
    (∀ tr o, j.trial = some tr → j.obj = some o → o.ntrialw ≤ tr.wins + 1 → 2 ^ o.w ≤ tr.fcs → MayBegin s n →
      (∀ x ∈ tr.seqs, ∃ r, j.find x.toNat = some r ∧ r.seq = x) →
      let meas := min (trialPrg tr / o.ntrialw) (2 ^ 32 - 1)
      (tr.base * (256 - o.margin) ≤ meas * 256 →
        ∃ t, exec (.trialVerdict p) s = .next t ∧ (t.jr n).trial = none ∧
          ∀ x ∈ tr.seqs, ∃ r, (t.jr n).find x.toNat = some r ∧ r.st = rCONFIRMED ∧ r.meas = BitVec.ofNat 32 meas) ∧
      (meas * 256 < tr.base * (256 - o.margin) → tr.seqs ≠ [] →
        ∃ t, exec (.trialVerdict p) s = .next t ∧ (t.jr n).trial = none ∧
          ((t.jr n).shape ≠ none ∨ ∃ y, (t.jr n).find j.next.toNat = some y ∧ y.kind = kREFUSED))) ∧
    ∀ i d, (tunerDue s n = some i ∧ j.desc i = some d) ∨ TunerTakes s j i d →
      ∃ t r, exec (.tunerPropose p) s = .next t ∧ (t.jr n).tuner = i + 1 ∧ (t.jr n).next = j.next + 1 ∧
        (t.jr n).find j.next.toNat = some r ∧ r.st = rPROPOSED ∧ r.obj = BitVec.ofNat 32 i ∧
        r.after = BitVec.ofNat 64 (tunerValue d) ∧ r.before = d.cur.setWidth 64 ∧ r.origin = 0
namespace Sys2Proof.Claims

open Sys2Proof.Machine

/-- A flag that says the result is not 0. -/
def orNz (r : BitVec 32) : BitVec 32 × Bool := (r, decide (r ≠ 0))

/-- A truth value as result and flag. -/
def truthOf (b : Bool) : BitVec 32 × Bool := (if b then 1 else 0, b)

/-- A minimum or maximum with its flag: b ≠ a and the result is b. -/
def chosen (r a b : BitVec 32) : BitVec 32 × Bool := (r, decide (b ≠ a) && decide (r = b))

/-- Table 6-4: the result and the flag of an element arithmetic instruction, from the element's surroundings and its
operands a and b. -/
def arithRow : Instr → Option (FabF × (Fir → BitVec 32 → BitVec 32 → BitVec 32 × Bool))
  | .fabAdd f => some (f, fun _ a b => (BitVec.ofNat 32 (a.toNat + b.toNat), decide (2 ^ 32 ≤ a.toNat + b.toNat)))
  | .fabSub f => some (f, fun _ a b => (BitVec.ofInt 32 (a.toNat - b.toNat), decide (a.toNat < b.toNat)))
  | .fabMul f => some (f, fun _ a b =>
      (BitVec.ofInt 32 (a.toInt * b.toInt), decide (a.toInt * b.toInt < -2 ^ 31 ∨ 2 ^ 31 - 1 < a.toInt * b.toInt)))
  | .fabMulh f => some (f, fun _ a b => orNz (BitVec.ofInt 32 (a.toInt * b.toInt / 2 ^ 32)))
  | .fabMulhu f => some (f, fun _ a b => orNz (BitVec.ofNat 32 (a.toNat * b.toNat / 2 ^ 32)))
  | .addsat f => some (f, fun _ a b =>
      (BitVec.ofInt 32 (max (-2 ^ 31) (min (2 ^ 31 - 1) (a.toInt + b.toInt))),
       decide (a.toInt + b.toInt < -2 ^ 31 ∨ 2 ^ 31 - 1 < a.toInt + b.toInt)))
  | .fabAnd f => some (f, fun _ a b => orNz (a &&& b))
  | .fabOr f => some (f, fun _ a b => orNz (a ||| b))
  | .fabXor f => some (f, fun _ a b => orNz (a ^^^ b))
  | .andn f => some (f, fun _ a b => orNz (a &&& ~~~b))
  | .fabShl f => some (f, fun _ a b =>
      let n := b.toNat % 32
      (BitVec.ofNat 32 (a.toNat * 2 ^ n), decide (0 < n) && a.getLsbD (32 - n)))
  | .fabShr f => some (f, fun _ a b =>
      let n := b.toNat % 32
      (BitVec.ofNat 32 (a.toNat / 2 ^ n), decide (0 < n) && a.getLsbD (n - 1)))
  | .fabSra f => some (f, fun _ a b =>
      let n := b.toNat % 32
      (BitVec.ofInt 32 (a.toInt / 2 ^ n), decide (0 < n) && a.getLsbD (n - 1)))
  | .rot f => some (f, fun _ a b =>
      let n := b.toNat % 32
      let r := BitVec.ofNat 32 (a.toNat * 2 ^ n + a.toNat / 2 ^ (32 - n))
      (r, r.getLsbD 0))
  | .fabMin f => some (f, fun _ a b => chosen (if b.toInt < a.toInt then b else a) a b)
  | .fabMax f => some (f, fun _ a b => chosen (if a.toInt < b.toInt then b else a) a b)
  | .fabMinu f => some (f, fun _ a b => chosen (if b.toNat < a.toNat then b else a) a b)
  | .fabMaxu f => some (f, fun _ a b => chosen (if a.toNat < b.toNat then b else a) a b)
  | .fabCeq f => some (f, fun _ a b => truthOf (a = b))
  | .fabCne f => some (f, fun _ a b => truthOf (a ≠ b))
  | .fabClt f => some (f, fun _ a b => truthOf (a.toInt < b.toInt))
  | .fabCltu f => some (f, fun _ a b => truthOf (a.toNat < b.toNat))
  | .fabCle f => some (f, fun _ a b => truthOf (a.toInt ≤ b.toInt))
  | .fabCleu f => some (f, fun _ a b => truthOf (a.toNat ≤ b.toNat))
  | .fabSel f => some (f, fun x a b => (if x.tl.preds.getLsbD f.pd.toNat then a else b, x.tl.preds.getLsbD f.pd.toNat))
  | .fabClz f => some (f, fun _ _ b => (BitVec.ofNat 32 (if b = 0 then 32 else 31 - Nat.log2 b.toNat), decide (b = 0)))
  | .fabPopc f => some (f, fun _ _ b =>
      let r := BitVec.ofNat 32 ((List.range 32).filter fun n => b.getLsbD n).length
      (r, r.getLsbD 0))
  | .bfx f => some (f, fun _ a b =>
      orNz (BitVec.ofNat 32 (a.toNat / 2 ^ (b.toNat % 32) % 2 ^ (b.toNat / 32 % 32 + 1))))
  | .bfi f => some (f, fun x a b =>
      let m : BitVec 32 := BitVec.ofNat 32 ((2 ^ (b.toNat / 32 % 32 + 1) - 1) * 2 ^ (b.toNat % 32))
      orNz ((x.tl.lc (f.dst.toNat % 8) &&& ~~~m) ||| (BitVec.ofNat 32 (a.toNat * 2 ^ (b.toNat % 32)) &&& m)))
  | .agen f => some (f, fun _ a b => (BitVec.ofNat 32 (a.toNat + b.toNat * 2 ^ f.pd.toNat), false))
  | _ => none

/-- The numeric flags of an element arithmetic instruction: SAT where ADDSAT clamped (R66). -/
def arithFlags (i : Instr) (fl : Bool) : BitVec 8 :=
  match i, fl with
  | .addsat _, true => flSAT
  | _, _ => 0

/-- A firing is its effect (R99). -/
def Fired (i : Instr) (s : State) (f : FabF) (e : Effect) : Prop := exec i s = .next (applyEffect f e s)

/-- A firing whose result is undefined: its effect, from a state prepared by u, with a zero test that nothing fixes. -/
def FiredFree (i : Instr) (s : State) (f : FabF) (e : Effect) (u : State → State) : Prop :=
  ∃ n fr, exec i s = .next (applyEffect f { e with nonzero := n } (u { s with free := fr }))

/-- p[n] after PU (Table 3-4). -/
def predAfter (old : BitVec 8) (f : FabF) (nonzero flag : Bool) (n : Nat) : Bool :=
  if n = f.pd.toNat then
    (if f.pu = 1 then nonzero else if f.pu = 2 then !nonzero else if f.pu = 3 then true else if f.pu = 4 then false
     else if f.pu = 5 then flag else if f.pu = 6 then !old.getLsbD n else old.getLsbD n)
  else old.getLsbD n

/-- What a firing or a request leaves alone outside its fabric: contexts, tasks, chains, partitions, every byte. -/
structure FabricOnly (s t : State) : Prop where
  ctx : ∀ h k, t.ctx h k = s.ctx h k
  task : ∀ h k, t.task h k = s.task h k
  chain : ∀ h k, t.chain h k = s.chain h k
  parts : t.parts = s.parts
  byte : SameBytes s t

/-- What a tile keeps that only receives tokens. -/
def TileKeeps (a b : Tile) : Prop :=
  (b.preds, b.loc, b.vec, b.flags, b.pos, b.rc, b.cfgs, b.halt) = (a.preds, a.loc, a.vec, a.flags, a.pos, a.rc, a.cfgs, a.halt) ∧
    (b.mx, b.sp, b.et, b.reqs) = (a.mx, a.sp, a.et, a.reqs)

end Sys2Proof.Claims

/-! ## Firings -/

/-- O28. What a firing does to its tile and leaves alone elsewhere. DST below 8 is the local that takes the result, 8 to 11
the vector local that takes the 512 bits or the 32 zero-extended, 12 and above nothing; p[PD] follows PU; numeric flags
are ORed; POS of the slot rises by one where a result was formed; the charge enters the region's adder. No other local,
no other tile's state but its buffers, no context, task, chain or byte of memory changes (R62, R66, R96, R99, R101,
R267). -/
def Obligations.FiringEffect : Prop :=
  ∀ (f : FabF) (e : Effect) (s : State),
    let x := s.fir
    let t := applyEffect f e s
    let a := s.tile x.p x.t
    let b := t.tile x.p x.t
    (∀ n, b.lc n = if n < 8 ∧ f.dst.toNat = n then e.res.getD (a.lc n) else a.lc n) ∧
    (∀ n, b.vc n =
      if n < 4 ∧ f.dst.toNat = 8 + n then e.vres.getD ((e.res.map (·.setWidth 512)).getD (a.vc n)) else a.vc n) ∧
    (∀ n, n < 8 → b.preds.getLsbD n = predAfter a.preds f e.nonzero e.flag n) ∧
    b.flags = a.flags ||| e.flags ∧
    (∀ n, Tbl.get 0 b.pos n = if n = x.slot ∧ e.formed = true then Tbl.get 0 a.pos n + 1 else Tbl.get 0 a.pos n) ∧
    (b.mx, b.sp, b.et, b.reqs, b.cfgs, b.rc, b.halt) = (a.mx, a.sp, a.et, a.reqs, a.cfgs, a.rc, a.halt) ∧
    (∀ h k, (h, k) ≠ (x.p, x.t) → TileKeeps (s.tile h k) (t.tile h k)) ∧
    ((s.region x.p x.rid).alloc = true → e.ib ≠ 0 ∨ e.tb ≠ 0 →
      (t.region x.p x.rid).charges = addCharge (s.fc x.p) e.ib e.tb (s.region x.p x.rid).charges) ∧
    FabricOnly s t

/-- A token sent on a control-plane output with one route, no stile there and no deferred result before it stands last
in the buffer that the route feeds, as a control token that arrives in that fc, or in the next on a loopback into an
input of the same tile, and nothing else in that buffer changes. On a data-plane output under SKIP an all-zero token
without EOS and PRG, while fewer than 63 are pending, is counted in place of being sent (R23, R37, R64). A dequeue removes
the head, or lowers the SKIP count of a data head by one (R65). -/
def Sys2Proof.Claims.TokensMove : Prop :=
  (∀ (s : State) (p k n u b : Nat) (r : Route) (d : Tok),
    let c := ((s.pad p).cfgAt k).getD []
    c.from (8 + n) = [r] → routeDest k r = some (u, b) → r.data = false → s.stilesAt p k n = [] →
    (s.tile p k).blocked n = false →
    let y := asPlane false r.rep { d with arr := if 8 ≤ r.dest then s.fc p + 1 else s.fc p }
    (((sendOut s p k n d).tile p u).buf b).toks = ((s.tile p u).buf b).toks ++ [{ y with skip := 0 }]) ∧
  (∀ (s : State) (p k n : Nat) (d : Tok),
    let c := ((s.pad p).cfgAt k).getD []
    let r := ((s.pad p).regionAt k).map (·.2)
    let tl := s.tile p k
    c.outPlane n = some true → tl.blocked n = false → ((r.getD {}).ufc.getD (hdrUfc c.hdr)) = false →
    zeroLanes (hdrLw c.hdr) (asPlane true false d) = true → d.eos = false → (asPlane true false d).prg = false →
    (Tbl.get 0 tl.pend n).toNat < 63 →
    Tbl.get 0 ((sendOut s p k n d).tile p k).pend n = Tbl.get 0 tl.pend n + 1 ∧
      ∀ h u b, ((sendOut s p k n d).tile h u).buf b = (s.tile h u).buf b) ∧
  ∀ (s : State) (p k n : Nat) (d : Tok) (ds : List Tok), ((s.tile p k).buf n).toks = d :: ds →
    let b := (((deqIn s p k n).2.tile p k).buf n).toks
    (d.dat = true → d.skip ≠ 0 → b = { d with skip := d.skip - 1 } :: ds ∧ (deqIn s p k n).1 = false) ∧
    (d.dat = false ∨ d.skip = 0 → b = ds ∧ (deqIn s p k n).1 = (d.dat && d.prg)) ∧
    ∀ h u m, (h, u, m) ≠ (p, k, n) → ((deqIn s p k n).2.tile h u).buf m = (s.tile h u).buf m

/-- Each element arithmetic instruction fires with the result and flag of Table 6-4 from its operands a and b: res to
DST and, as a fresh value token, to every output of OM; res ≠ 0 and the flag for PU; 1 unit. ADDSAT's clamp also sets
SAT (R97 to R100, R66). -/
def Sys2Proof.Claims.ElementArithmetic : Prop :=
  ∀ (i : Instr) (f : FabF) (v : Fir → BitVec 32 → BitVec 32 → BitVec 32 × Bool) (s : State), arithRow i = some (f, v) →
    let x := s.fir
    let (r, fl) := v x (x.opnd f.sa) (if f.k then x.cfg.k (f.sb.toNat % 8) else x.opnd f.sb)
    Fired i s f
      { res := some r, sends := (outsOf f.om).map fun n => (n, x.fresh f r), nonzero := decide (r ≠ 0), flag := fl,
        flags := arithFlags i fl }

/-- FAB_NOP forms, writes and sends nothing, and is charged and dequeues as any firing. MOV's result is its source: a
vector local or a data head whole, with its token, else 32 bits (R97, R101, Table 6-5). -/
def Sys2Proof.Claims.NopAndMov : Prop :=
  ∀ (f : FabF) (s : State),
    let x := s.fir
    let b := x.opB f
    Fired (.fabNop f) s f { formed := false } ∧
    (f.k = false → 12 ≤ f.sb.toNat →
      let v := x.tl.vc (f.sb.toNat - 12)
      Fired (.mov f) s f
        { res := some b, vres := some v, sends := toAll f.om (x.vecTok f (hdrFmta x.cfg.hdr) v), nonzero := v != 0,
          flag := b != 0 }) ∧
    (f.k = false → f.sb.toNat < 4 →
      let h := x.tl.head f.sb.toNat
      Fired (.mov f) s f
        { res := some b, vres := if h.dat then some h.val else none,
          sends := toAll f.om { h with gen := x.gen, skip := 0 }, nonzero := if h.dat then h.val != 0 else b != 0,
          flag := b != 0 }) ∧
    (f.k = true ∨ (4 ≤ f.sb.toNat ∧ f.sb.toNat < 12) →
      Fired (.mov f) s f { res := some b, sends := toAll f.om (x.fresh f b), nonzero := b != 0, flag := b != 0 })

/-- The passing, steering and marking instructions of the stream class (Table 7-3): where the token of a or b goes, what
DST takes, the flag; those without a result send nothing but what is said (R110 to R114, R117). -/
def Sys2Proof.Claims.StreamSteering : Prop :=
  ∀ (f : FabF) (s : State),
    let x := s.fir
    let a := x.opA f
    let b := x.opB f
    let pa := x.pass f f.sa false a
    let pb := x.pass f f.sb f.k b
    let c := decide (b ≠ 0)
    let dec := x.dec f (if c then 1 else 0) (srcEos x f.sa false)
    Fired (.steer f) s f
      (srcEffect x f.sa false a
        ((nthOut f.om (if c then 0 else 1), pa) :: (if popc4 f.om = 3 then [(nthOut f.om 2, dec)] else [])) c) ∧
    Fired (.steerd f) s f
      (srcEffect x f.sa false a [(nthOut f.om (if b.getLsbD 0 then 0 else 1), pa)] (b.getLsbD 0)) ∧
    Fired (.mrgo f) s f
      (srcEffect x f.sb f.k b (toAll f.om pb) ((x.tl.head f.tc.toNat).val.getLsbD 0)) ∧
    Fired (.mrga f) s f (srcEffect x f.sb f.k b (toAll f.om pb) false) ∧
    (b ≠ 0 → Fired (.gate f) s f (srcEffect x f.sa false a (toAll f.om pa) true)) ∧
    (b = 0 → FiredFree (.gate f) s f { flag := false, formed := false } id) ∧
    FiredFree (.drop f) s f { flag := srcEos x f.sb f.k, formed := false } id ∧
    (f.om ≠ 0 → FiredFree (.eosg f) s f
      { sends := (outsOf f.om).map fun n => (n,
          if x.cfg.outPlane n = some true then { x.vecTok f (hdrFmta x.cfg.hdr) 0 with eos := true }
          else { x.fresh f 0 with eos := true }), flag := true } id) ∧
    Fired (.eosd f) s f (srcEffect x f.sb f.k b (toAll f.om { pb with eos := false }) (srcEos x f.sb f.k)) ∧
    (let h := x.tl.head f.sb.toNat
     let m := h.dat && Tag.ofBits h.tag == hdrFmta x.cfg.hdr
     Fired (.fmts f) s f (srcEffect x f.sb f.k b [(nthOut f.om (if m then 0 else 1), { h with gen := x.gen, skip := 0 })] m)) ∧
    Fired (.progm f) s f (srcEffect x f.sb f.k b (toAll f.om { pb with prg := true }) false) ∧
    (let r := (x.tl.preds &&& b.setWidth 8).setWidth 32
     Fired (.plog f) s f { res := some r, sends := toAll f.om (x.fresh f r), nonzero := r != 0, flag := r != 0 }) ∧
    (∀ k ks, ((x.tl.buf f.sb.toNat).toks) = k :: ks →
      let r : BitVec 32 := k.skip.setWidth 32
      ∃ t, exec (.skipa f) s = .next t ∧
        t = applyEffect f { res := some r, sends := toAll f.om (x.fresh f r), nonzero := r != 0, flag := r != 0 }
          (s.updTile x.p x.t fun tl => tl.setBuf f.sb.toNat { tl.buf f.sb.toNat with toks := { k with skip := 0 } :: ks })) ∧
    FiredFree (.halte f) s f { formed := false } fun s => s.updTile x.p x.t fun tl => { tl with halt := true }

/-- The counting, loop and decision instructions of the stream class: ITER, REPL and CNTE with the count RC of their
slot, LEXIT, SQSH, INFL and DECI, whose broadcast makes the slot the region's pending decision, or without that slot is
an element trap (R115, R118, R119, R121, R122). Of two broadcasts of one fc the later firing's stands (log 92). -/
def Sys2Proof.Claims.StreamCounting : Prop :=
  ∀ (f : FabF) (s : State),
    let x := s.fir
    let a := x.opA f
    let b := x.opB f
    let rc := Tbl.get 0 x.tl.rc x.slot
    let pb := x.pass f f.sb f.k b
    let withRc := fun (v : BitVec 32) (s : State) => s.updTile x.p x.t fun tl => { tl with rc := Tbl.put 0 tl.rc x.slot v }
    let then_ := fun (i : Instr) (e : Effect) (u : State → State) => exec i s = .next (applyEffect f e (u s))
    (rc.toNat < b.toNat →
      then_ (.iter f)
        { res := some (a + rc), sends := toAll f.om { x.fresh f (a + rc) with iter := rc.setWidth 4 },
          nonzero := a + rc != 0, flag := false, deqok := false } (withRc (rc + 1))) ∧
    (b.toNat ≤ rc.toNat →
      then_ (.iter f)
        { res := some b, sends := toAll f.om { x.fresh f b with eos := true, iter := b.setWidth 4 }, nonzero := b != 0,
          flag := true } (withRc 0)) ∧
    (a = 0 → FiredFree (.repl f) s f { flag := true, formed := false } id) ∧
    (a ≠ 0 → rc + 1 ≠ a →
      then_ (.repl f) { srcEffect x f.sb f.k b (toAll f.om pb) false with deqok := false } (withRc (rc + 1))) ∧
    (a ≠ 0 → rc + 1 = a → then_ (.repl f) (srcEffect x f.sb f.k b (toAll f.om pb) true) (withRc 0)) ∧
    (srcEos x f.sb f.k = true →
      then_ (.cnte f)
        { res := some rc, sends := toAll f.om { x.fresh f rc with eos := true }, nonzero := rc != 0, flag := true }
        (withRc 0)) ∧
    (srcEos x f.sb f.k = false → FiredFree (.cnte f) s f { flag := false, formed := false } (withRc (rc + 1))) ∧
    (b ≠ 0 → f.om ≠ 0 → FiredFree (.lexit f) s f { sends := toAll f.om (x.dec f a false), flag := true } id) ∧
    (b = 0 → FiredFree (.lexit f) s f { flag := false, formed := false } id) ∧
    (let h := x.tl.head f.sb.toNat
     let acc := x.tl.a + (h.iter - x.tl.l).setWidth 33
     let upd := fun (s : State) => s.updTile x.p x.t fun tl => { tl with a := acc, l := h.iter }
     (h.dat = false → h.kind = 2 →
       FiredFree (.sqsh f) s f { flag := true, formed := false } fun s =>
         s.updTile x.p x.t fun tl => { tl with x := h.val.setWidth 32, arm := true }) ∧
     (h.dat = true ∨ h.kind ≠ 2 → h.eos = true →
       then_ (.sqsh f) (srcEffect x f.sb f.k b (toAll f.om pb) false)
         fun s => s.updTile x.p x.t fun tl => { tl with arm := false, l := 15, a := -1 }) ∧
     (h.dat = true ∨ h.kind ≠ 2 → h.eos = false → x.tl.arm = true → x.tl.x.toInt < acc.toInt →
       FiredFree (.sqsh f) s f { flag := true, formed := false } upd) ∧
     (h.dat = true ∨ h.kind ≠ 2 → h.eos = false → x.tl.arm = false ∨ acc.toInt ≤ x.tl.x.toInt →
       then_ (.sqsh f) (srcEffect x f.sb f.k b (toAll f.om pb) false) upd)) ∧
    (let r := x.tl.lc (f.dst.toNat % 8) + a - b
     Fired (.infl f) s f
       { res := some r, sends := if r = 0 then toAll f.om (x.dec f 1 false) else [], nonzero := r != 0, flag := r == 0 }) ∧
    (f.om ≠ 0 → FiredFree (.deci f) s f { sends := toAll f.om (x.dec f b false), flag := b.getLsbD 0 } id) ∧
    (f.om = 0 → slotLoaded s x.p x.reg (b.toNat % 4) = true →
      FiredFree (.deci f) s f { flag := b.getLsbD 0, formed := false } fun s =>
        s.updRegion x.p x.rid fun r => { r with dec := some (b.setWidth 2), committed := true }) ∧
    (f.om = 0 → slotLoaded s x.p x.reg (b.toNat % 4) = false →
      exec (.deci f) s = .next (fabricTrap s x.p x.t x.slot (fabPack 0x4E f) false cELEMENT 0 0 0))
namespace Sys2Proof.Claims

open Sys2Proof.Machine

/-- The scratchpad nodes: the opcode and the number of words they reach from i. -/
def spadNode : Instr → Option (FabF × BitVec 8 × (Fir → Nat))
  | .sld f => some (f, 0x60, fun _ => 1)
  | .sldv f => some (f, 0x61, fun _ => if f.pd.getLsbD 0 then 17 else 16)
  | .sst f => some (f, 0x62, fun _ => 1)
  | .sstv f => some (f, 0x63, fun _ => if f.pd.getLsbD 0 then 17 else 16)
  | .sldf f => some (f, 0x64, fun _ => 1)
  | .slde f => some (f, 0x65, fun _ => 1)
  | .sstf f => some (f, 0x66, fun _ => 1)
  | .sstw f => some (f, 0x67, fun _ => 1)
  | .sfe f => some (f, 0x68, fun x =>
      let i := (x.opB f).toNat
      if 65535 < i then 1 else min (i + (x.opA f).toNat % 256) 65535 + 1 - i)
  | .saadd f => some (f, 0x69, fun _ => 1)
  | .samin f => some (f, 0x6A, fun _ => 1)
  | .samax f => some (f, 0x6B, fun _ => 1)
  | .saor f => some (f, 0x6C, fun _ => 1)
  | .saand f => some (f, 0x6D, fun _ => 1)
  | .sacas f => some (f, 0x6E, fun _ => 1)
  | .stas f => some (f, 0x6F, fun _ => 1)
  | _ => none

/-- The global nodes that check an address (R164): opcode, SegAddr base, address and alignment. -/
def globNode (x : Fir) : Instr → Option (FabF × BitVec 8 × BitVec 64 × BitVec 64 × Nat)
  | .gld f => let v := segAddr x.tl (x.opB f); some (f, 0x70, v, v, 4)
  | .gldv f => let v := segAddr x.tl (x.opB f); some (f, 0x71, v, v, 4)
  | .gst f => let v := segAddr x.tl (x.opB f); some (f, 0x72, v, v, 4)
  | .gstv f => let v := segAddr x.tl (x.opB f); some (f, 0x73, v, v, 4)
  | .gaadd f => let v := segAddr x.tl (x.opB f); some (f, 0x74, v, v, 4)
  | .gacas f => let v := segAddr x.tl (x.opB f); some (f, 0x75, v, v, 4)
  | .gath f =>
    let b := segAddr x.tl (x.opB f)
    some (f, 0x76, b, b + BitVec.ofNat 64 ((x.opA f).toNat * 64 * 2 ^ f.pd.toNat), 64)
  | .scat f =>
    let b := segAddr x.tl (x.tl.lc (f.dst.toNat % 8))
    some (f, 0x77, b, b + BitVec.ofNat 64 ((x.opB f).toNat * 64), 64)
  | _ => none

/-- A slot fires a request (R165): it stands last among its tile's requests with the word, slot and operand b of the
firing; no local, vector local or scratchpad word changes, a predicate only where PU needs no result, and the region is
charged. -/
def Requests (s t : State) (f : FabF) (opc : BitVec 8) (due ib tb : Nat) : Prop :=
  let x := s.fir
  let a := s.tile x.p x.t
  let b := t.tile x.p x.t
  (∃ r, b.reqs = a.reqs ++ [r] ∧ r.word = fabPack opc f ∧ r.slot = x.slot ∧ r.b = x.opB f ∧ r.st = .going ∧
    r.fired = s.fc x.p ∧ due ≤ r.due) ∧
  (b.loc, b.vec, b.flags, b.sp, b.cfgs) = (a.loc, a.vec, a.flags, a.sp, a.cfgs) ∧
  (puLate f.pu = true → b.preds = a.preds ∧ b.pendP.getLsbD f.pd.toNat = true) ∧
  (puLate f.pu = false → ∀ n, n < 8 → b.preds.getLsbD n = predAfter a.preds f false false n) ∧
  ((s.region x.p x.rid).alloc = true →
    (t.region x.p x.rid).charges = addCharge (s.fc x.p) ib tb (s.region x.p x.rid).charges) ∧
  (∀ h k, (h, k) ≠ (x.p, x.t) → TileKeeps (s.tile h k) (t.tile h k)) ∧ FabricOnly s t

/-- No matrix unit changes. -/
def MxSame (s t : State) : Prop := ∀ h k, (t.tile h k).mx = (s.tile h k).mx

/-- A fault before firing (R314): the element stops with a fabric trap whose record names the slot; it does not fire. -/
def FaultsBefore (i : Instr) (s : State) (opc : BitVec 8) (f : FabF) (cause : BitVec 8) (info : BitVec 64) : Prop :=
  exec i s = .next (fabricTrap s s.cur.p s.cur.t s.cur.slot (fabPack opc f) false cause 0 info 0)

/-- Tables 9-9 and 9-10: what a scratchpad request leaves in its word and its full/empty bit, and its result and flag,
from the word, the bit, a and c. LDF and LDE need a full word, STW an empty one. -/
def spadRow (opc : Nat) (old : BitVec 32) (full : Bool) (a c : BitVec 32) :
    Option (BitVec 32 × Bool × Option (BitVec 32) × Bool) :=
  if opc = 0x60 then some (old, full, some old, full)
  else if opc = 0x62 then some (a, full, none, false)
  else if opc = 0x64 ∧ full = true then some (old, true, some old, true)
  else if opc = 0x65 ∧ full = true then some (old, false, some old, true)
  else if opc = 0x66 then some (a, true, none, true)
  else if opc = 0x67 ∧ full = false then some (a, true, none, true)
  else if opc = 0x69 then
    some (BitVec.ofNat 32 (old.toNat + a.toNat), full, some old, decide (2 ^ 32 ≤ old.toNat + a.toNat))
  else if opc = 0x6A then
    let v := if a.toInt < old.toInt then a else old
    some (v, full, some old, decide (v ≠ old))
  else if opc = 0x6B then
    let v := if old.toInt < a.toInt then a else old
    some (v, full, some old, decide (v ≠ old))
  else if opc = 0x6C then some (old ||| a, full, some old, decide (old ||| a ≠ old))
  else if opc = 0x6D then some (old &&& a, full, some old, decide (old &&& a ≠ old))
  else if opc = 0x6E then some (if old = c then a else old, full, some old, decide (old = c))
  else if opc = 0x6F then some (if old = 0 then a else old, full, some old, decide (old = 0))
  else none

/-- A request of a tile that goes on in this fc. -/
structure Goes (s : State) (p : Fin 32) (k : Fin 144) (r : Req) : Prop where
  found : (s.tile p k).req r.id = some r
  going : r.st = .going
  due : reqDue s p r ≤ s.fc p
  noReplay : (s.tile p (tileAt (tileRow k) 0)).et.served = []

/-- The request has left its tile. -/
def Left (t : State) (p k : Nat) (r : Req) : Prop := ∀ q ∈ (t.tile p k).reqs, q.id ≠ r.id

/-- The words a scratchpad request accesses: the first, and their number (R154, Table 9-8). -/
def padWords (r : Req) : Nat × Nat :=
  let opc := (fabOpc r.word).toNat
  (r.b.toNat,
    if opc = 0x61 ∨ opc = 0x63 then (if (fabFields r.word).pd.getLsbD 0 then 17 else 16)
    else if opc = 0x68 then min (r.b.toNat + r.a.toNat % 256) 65535 + 1 - r.b.toNat else 1)

/-- Every earlier request of the element to a word that this one accesses has been at its bank, or is parked (R166, R170). -/
def InTurn (s : State) (p k : Nat) (r : Req) : Prop :=
  ∀ q ∈ (s.tile p k).reqs, q.id < r.id → 0x60 ≤ (fabOpc q.word).toNat → (fabOpc q.word).toNat ≤ 0x6F →
    q.st ≠ .performed → q.st ≠ .parkedFE →
    (padWords q).1 + (padWords q).2 ≤ (padWords r).1 ∨ (padWords r).1 + (padWords r).2 ≤ (padWords q).1

/-- The bank of a word has made no access in this fc (R154). -/
def BankFree (s : State) (p k w : Nat) : Prop :=
  (s.spad p k).usedFc ≠ s.fc p ∨ (s.spad p k).used.getLsbD (w % 8) = false

/-- A request's tokens, in order (R165): where an earlier deferred result holds every output, the entries of the request take
the tokens and wait behind it. -/
def OutGets (s t : State) (p k : Nat) (r : Req) (ks : List Tok) : Prop :=
  ∀ e0 es, (s.tile p k).outq = e0 :: es → e0.om = 0xF → e0.tok = none → e0.id ≠ r.id → es.length = ks.length →
    (∀ e ∈ es, e.id = r.id ∧ e.om ≠ 0 ∧ e.tok = none) →
    (t.tile p k).outq = e0 :: List.zipWith
      (fun e d => { e with tok := some { d with gen := (firOf s p k).gen, iter := r.iter } }) es ks

/-- The region of a tile is charged ib of IBUD and tb of TBUD, through the adder tree (R167, R267). -/
def Charged (s t : State) (p k ib tb : Nat) : Prop :=
  let id := (firOf s p k).rid
  (s.region p id).alloc = true → ib ≠ 0 ∨ tb ≠ 0 →
    (t.region p id).charges = addCharge (s.fc p) ib tb (s.region p id).charges

/-- A flush token of an output is due and has space (R132): the owner's CFGA waits for the region to drain, nothing is in
progress there and no token stands in it, or another of its flush tokens left in this fc. -/
def FlushDue (s : State) (p k o : Nat) : Prop :=
  ∃ id r, (s.pad p).regionAt k = some (id, r) ∧ r.spl = none ∧ CfgaDrains s p id ∧ Tbl.get 0 (s.tile p k).pend o ≠ 0 ∧
    outSpace s p k (((s.pad p).cfgAt k).getD []) o = true ∧
    (r.flushFc = some (s.fc p) ∨ (OpsDone s p id r ∧ ∀ j ∈ r.tileList, ∀ e ∈ (s.tile p j).bufs, e.2.toks = []))

/-- Word i of a vector access: a lane of its 512 bits, or its side bits. -/
def vecWord (v : BitVec 512) (sd : BitVec 32) (i : Nat) : BitVec 32 :=
  if i < 16 then BitVec.ofNat 32 (v.toNat / 2 ^ (32 * i)) else sd

/-- A vector load of n words goes on (R154, R185): some of the words it has left, from the next on, are read as `mem` gives
them; when none is left it completes with its token, of TAG FMTA. `tb` is the charge of m words from its place. -/
def VectorLoads (s t : State) (p : Fin 32) (k : Fin 144) (r : Req) (n : Nat) (mem : Nat → BitVec 32) (tb : Nat → Nat) : Prop :=
  ∃ m v sd, 0 < m ∧ r.prog + m ≤ n ∧
    (∀ i, i < r.prog → vecWord v sd i = vecWord r.res r.rside i) ∧
    (∀ i, r.prog ≤ i → i < r.prog + m → vecWord v sd i = mem i) ∧ (n = 16 → sd = r.rside) ∧
    (r.prog + m = n → Left t p k r ∧
      OutGets s t p k r [{ dat := true, val := v, side := sd, tag := (hdrFmta (firOf s p k).cfg.hdr).bits }]) ∧
    (r.prog + m < n → ∃ y, (t.tile p k).req r.id = some y ∧ y.prog = r.prog + m ∧ y.res = v ∧ y.rside = sd ∧
      y.st = .going ∧ y.word = r.word) ∧
    Charged s t p k 0 (tb m) ∧ FabricOnly s t

/-- A request's words translated, in its access kind, where nothing in them is in error: the physical places of its words. -/
structure Reaches (s s' : State) (p : Fin 32) (k : Fin 144) (r : Req) (kind : AccKind) (len : Nat) (ws : List (Nat × Bool)) :
    Prop where
  parts : ∃ segs, xlSegs s p k kind (segments 10 r.va len) = (.ok segs, s') ∧ ws = segWords segs ∧
    (kind = .read → ∀ e ∈ segs, s.badLine e.2.1 e.1 = false)
  count : ws.length = len / 4
  aligned : ∀ w ∈ ws, w.1 % 4 = 0

/-- How many of the words lo to hi − 1 lie in another line than the word before. -/
def linesEntered (ws : List (Nat × Bool)) (lo hi : Nat) : Nat :=
  ((List.range hi).filter fun i => decide (lo ≤ i) &&
    (i == 0 || (ws[i]?).map (fun w => lineKey w.1 w.2) != (ws[i - 1]?).map (fun w => lineKey w.1 w.2))).length

/-- Word i of a gathered row as far as it is read. -/
def rowWord (row : List (BitVec 512)) (res : BitVec 512) (i : Nat) : BitVec 32 :=
  vecWord ((row ++ [res]).getD (i / 16) 0) 0 (i % 16)

/-- The line that a tile's coalescer holds for a gather (R173). -/
def heldLine (s : State) (p k : Nat) (r : Req) (key : Nat) : Option CoalLine :=
  (s.tile p k).et.coal.find? fun e => e.key == key && e.reqs.contains r.id

/-- A result in DST's local (R165), late predicates by the flag. -/
def Lands (s t : State) (p k : Nat) (r : Req) (res : Option (BitVec 32)) (flag : Bool) : Prop :=
  let f := fabFields r.word
  (∀ n v, res = some v → (t.tile p k).lc n = if n < 8 ∧ f.dst.toNat = n then v else (s.tile p k).lc n) ∧
  (res = none → ∀ n, (t.tile p k).lc n = (s.tile p k).lc n) ∧
  (f.pu = 5 → (t.tile p k).preds.getLsbD f.pd.toNat = flag)

end Sys2Proof.Claims

/-! ## Memory nodes -/

/-- A scratchpad node whose words lie in the pad, below the reorder area where a GATH reserves it, issues its request,
due in the next fc at the earliest, for 1 unit; else the element takes ACCESS with the index before firing (R154, R163 to
R165, R173). -/
def Sys2Proof.Claims.ScratchpadNodesFire : Prop :=
  ∀ (i : Instr) (f : FabF) (opc : BitVec 8) (n : Fir → Nat) (s : State), spadNode i = some (f, opc, n) →
    let x := s.fir
    let last := (x.opB f).toNat + n x - 1
    let bad := 65535 < last ∨ (reorderReserved s x.p (x.t / 12) = true ∧ 57344 ≤ last)
    (¬ bad → ∃ t, exec i s = .next t ∧ Requests s t f opc (s.fc x.p + 1) 1 0 ∧ MxSame s t) ∧
    (bad → FaultsBefore i s opc f cACCESS ((x.opB f).setWidth 64))

/-- A global node whose SegAddr and address are canonical and whose address has the node's alignment issues its request
for 2 units, else the element takes XLATE or MISALIGN with the address before firing; PREF checks nothing; FENCE waits
for the element's requests; OJOIN joins ordering tokens at once, AGS sets its segment base at once (R156, R163 to R165,
R172 to R177). -/
def Sys2Proof.Claims.GlobalNodesFire : Prop :=
  (∀ (i : Instr) (f : FabF) (opc : BitVec 8) (base va : BitVec 64) (n : Nat) (s : State),
    globNode s.fir i = some (f, opc, base, va, n) →
    (canonical base = true → canonical va = true → va.toNat % n = 0 →
      ∃ t, exec i s = .next t ∧ Requests s t f opc (s.fc s.cur.p + 1) 2 0 ∧ MxSame s t ∧
        ∃ r ∈ (t.tile s.cur.p s.cur.t).reqs, r.va = va ∧ r.word = fabPack opc f) ∧
    (canonical base = false ∨ canonical va = false → FaultsBefore i s opc f cXLATE va) ∧
    (canonical base = true → canonical va = true → va.toNat % n ≠ 0 → FaultsBefore i s opc f cMISALIGN va)) ∧
  ∀ (f : FabF) (s : State),
    let x := s.fir
    (∃ t, exec (.fabPref f) s = .next t ∧ Requests s t f 0x7A (s.fc x.p + 1) 2 0 ∧ MxSame s t) ∧
    (∃ t, exec (.fabFence f) s = .next t ∧ Requests s t f 0x79 (s.fc x.p + 1) 1 0 ∧ MxSame s t) ∧
    (∃ n fr, exec (.ojoin f) s = .next
      (applyEffect f { sends := toAll f.om (x.ordTok f), nonzero := n } { s with free := fr })) ∧
    exec (.ags f) s = .next (applyEffect f { sends := toAll f.om (x.ordTok f) }
      (s.updTile x.p x.t fun tl => { tl with et := { tl.et with
        seg := Tbl.put 0 tl.et.seg f.pd.toNat (BitVec.ofNat 64 ((x.opA f).toNat + 2 ^ 32 * (x.opB f).toNat)) } }))

/-- O33. A scratchpad request whose turn it is, at a free bank, whose word nothing waits for, leaves its word and its bit as
Tables 9-9 and 9-10 say, lands its result and completes; SLDV and SSTV read and write their words in ascending order, as far
as the banks allow, from one to all in an fc (log 8), SLDV's token then leaving; LDF and LDE of an empty word, and STW of a
full one, park at the tail of the word's queue, and one that its word's bit lets go is served once its region runs again; SFE
gives its bit to words i to min(i + a[7:0], 65,535). No byte of memory changes (R154, R166, R169 to R171, R185). When a bank
serves a request is the model's choice (log 40). -/
def Obligations.ScratchpadResults : Prop :=
  (∀ (s : State) (p : Fin 32) (k : Fin 144) (r : Req) (v : BitVec 32) (b : Bool) (res : Option (BitVec 32)) (fl : Bool),
    Goes s p k r → InTurn s p k r →
    let sp := s.spad p k
    let w := r.b.toNat
    let opc := (fabOpc r.word).toNat
    spadRow opc (sp.word w) (sp.isFull w) (r.a.setWidth 32) r.c = some (v, b, res, fl) →
    BankFree s p k w → Tbl.get [] sp.loadQ w = [] → Tbl.get [] sp.storeQ w = [] → sp.bad = [] → sp.soft = [] →
    ∃ t, exec (.memNodeComplete p k r.id) s = .next t ∧ Left t p k r ∧ (t.spad p k).word w = v ∧
      (t.spad p k).isFull w = b ∧ (∀ n, n ≠ w → (t.spad p k).word n = sp.word n ∧ (t.spad p k).isFull n = sp.isFull n) ∧
      Lands s t p k r res fl ∧
      OutGets s t p k r [match res with | some x => { val := x.setWidth 512 } | none => { kind := 1 }] ∧ FabricOnly s t) ∧
  (∀ (s : State) (p : Fin 32) (k : Fin 144) (r : Req), Goes s p k r → InTurn s p k r →
    let sp := s.spad p k
    let w := r.b.toNat
    let n := if (fabFields r.word).pd.getLsbD 0 then 17 else 16
    BankFree s p k (w + r.prog) → sp.bad = [] → sp.soft = [] → r.prog < n →
    ((fabOpc r.word).toNat = 0x61 → (∀ i, r.prog ≤ i → i < 16 → vecWord r.res r.rside i = 0) →
      ∃ t, exec (.memNodeComplete p k r.id) s = .next t ∧ VectorLoads s t p k r n (fun i => sp.word (w + i)) (fun _ => 0) ∧
        ∀ i, (t.spad p k).word i = sp.word i ∧ (t.spad p k).isFull i = sp.isFull i) ∧
    ((fabOpc r.word).toNat = 0x63 →
      ∃ t m, exec (.memNodeComplete p k r.id) s = .next t ∧ 0 < m ∧ r.prog + m ≤ n ∧
        (∀ i, (t.spad p k).word i =
          if w + r.prog ≤ i ∧ i < w + r.prog + m then vecWord r.a r.aside (i - w) else sp.word i) ∧
        (∀ i, (t.spad p k).isFull i = sp.isFull i) ∧
        (r.prog + m = n → Left t p k r ∧ OutGets s t p k r [{ kind := 1 }]) ∧
        (r.prog + m < n → ∃ y, (t.tile p k).req r.id = some y ∧ y.prog = r.prog + m ∧ y.st = .going) ∧ FabricOnly s t)) ∧
  (∀ (s : State) (p : Fin 32) (k : Fin 144) (r : Req), Goes s p k r → InTurn s p k r →
    let sp := s.spad p k
    let w := r.b.toNat
    let opc := (fabOpc r.word).toNat
    BankFree s p k w →
    ((opc = 0x64 ∨ opc = 0x65) ∧ sp.isFull w = false →
      ∃ t, exec (.memNodeComplete p k r.id) s = .next t ∧ Tbl.get [] (t.spad p k).loadQ w = Tbl.get [] sp.loadQ w ++ [r.id] ∧
        (∀ n, (t.spad p k).word n = sp.word n) ∧ FabricOnly s t) ∧
    (opc = 0x67 ∧ sp.isFull w = true →
      ∃ t, exec (.memNodeComplete p k r.id) s = .next t ∧ Tbl.get [] (t.spad p k).storeQ w = Tbl.get [] sp.storeQ w ++ [r.id] ∧
        (∀ n, (t.spad p k).word n = sp.word n) ∧ FabricOnly s t)) ∧
  (∀ (s : State) (p : Fin 32) (k : Fin 144) (r : Req), (s.tile p k).req r.id = some r → r.st = .parkedFE →
    parkHeld s p k = false → (s.spad p k).bad = [] →
    let sp := s.spad p k
    let w := r.b.toNat
    (sp.isFull w = true ∧ (Tbl.get [] sp.loadQ w).head? = some r.id) ∨
      (sp.isFull w = false ∧ (Tbl.get [] sp.storeQ w).head? = some r.id) →
    ∃ t, exec (.memNodeComplete p k r.id) s = .next t ∧ Left t p k r ∧ FabricOnly s t) ∧
  ∀ (s : State) (p : Fin 32) (k : Fin 144) (r : Req), Goes s p k r → InTurn s p k r → (fabOpc r.word).toNat = 0x68 →
    let sp := s.spad p k
    let lo := r.b.toNat
    let hi := min (lo + r.a.toNat % 256) 65535
    BankFree s p k lo → sp.loadQ = [] → sp.storeQ = [] →
    ∃ t, exec (.memNodeComplete p k r.id) s = .next t ∧ Left t p k r ∧
      (∀ n, (t.spad p k).isFull n = if lo ≤ n ∧ n ≤ hi then r.a.getLsbD 8 else sp.isFull n) ∧
      (∀ n, (t.spad p k).word n = sp.word n) ∧ OutGets s t p k r [{ kind := 1 }] ∧ FabricOnly s t

/-- O34. Global requests performed. A load of 4 bytes whose line its L1 does not hold lands the bytes of memory; a store
writes its 4 bytes and no other; an atomic adds, or compares and swaps, at its 4 bytes and lands the old value. GLDV, GSTV,
GATH and SCAT read and write their 32-bit words in order, from one to all of those left in a step (R185; log 8). GLDV then
completes with one token. GATH takes a word that the coalescer holds for it from there, and any other from memory; its row
read, its tokens get free places of the reorder area, their words are staged there as the banks of its S tile allow, and
then its tokens are given, in address order. Each is charged the lines it moves, GATH a line as its fetch begins and none
that an earlier gather fetched for it. One that does not translate parks, and the first of its tile is reported to the
owner (R154, R159, R167, R172 to R175). How an L1 evicts, what a coalescer holds and which places it takes is the model's
choice (log 9), the reporting bit's life log 40's. -/
def Obligations.GlobalResults : Prop :=
  ∀ (s s' : State) (p : Fin 32) (k : Fin 144) (r : Req), Goes s p k r →
    let opc := (fabOpc r.word).toNat
    let pd := (fabFields r.word).pd
    viaStile s p r.va = false → nodBefore s p k r = [] → canonical r.va = true → r.va.toNat % 4 = 0 →
    (∀ pa host, opc = 0x70 → translate s p (some k) r.va .read 4 = (.ok pa host, s') → pa % 4 = 0 →
      s.badLine host pa = false → r.prog = 0 → r.res = 0 →
      Tbl.find? (s'.tile p (l1Home s' p k (lineKey pa host))).et.lines (lineKey pa host) = none →
      ∃ t, exec (.memNodeComplete p k r.id) s = .next t ∧ Left t p k r ∧
        Lands s t p k r (some (BitVec.ofNat 32 (s.rdNat host pa 4))) false ∧ Charged s t p k 0 1 ∧
        OutGets s t p k r [{ val := (BitVec.ofNat 32 (s.rdNat host pa 4)).setWidth 512 }] ∧ SameBytes s t) ∧
    (∀ pa host, opc = 0x72 → translate s p (some k) r.va .write 4 = (.ok pa host, s') → pa % 4 = 0 → r.prog = 0 →
      ∃ t, exec (.memNodeComplete p k r.id) s = .next t ∧ Left t p k r ∧ Charged s t p k 0 1 ∧
        OutGets s t p k r [{ kind := 1 }] ∧
        ∀ h a, t.rdByte h a =
          if h = host ∧ pa ≤ a ∧ a < pa + 4 then BitVec.ofNat 8 (r.a.toNat / 256 ^ (a - pa)) else s.rdByte h a) ∧
    (∀ pa host, opc = 0x74 ∨ opc = 0x75 → translate s p (some k) r.va .atomic 4 = (.ok pa host, s') →
      s.badLine host pa = false →
      let old := BitVec.ofNat 32 (s.rdNat host pa 4)
      let new : BitVec 32 := if opc = 0x74 then BitVec.ofNat 32 (old.toNat + r.a.toNat)
        else if old = r.c then r.a.setWidth 32 else old
      let fl := if opc = 0x74 then decide (2 ^ 32 ≤ old.toNat + r.a.toNat % 2 ^ 32) else decide (old = r.c)
      ∃ t, exec (.memNodeComplete p k r.id) s = .next t ∧ Left t p k r ∧ Lands s t p k r (some old) fl ∧
        Charged s t p k 0 1 ∧ OutGets s t p k r [{ val := old.setWidth 512 }] ∧
        ∀ h a, t.rdByte h a =
          if h = host ∧ pa ≤ a ∧ a < pa + 4 then BitVec.ofNat 8 (new.toNat / 256 ^ (a - pa)) else s.rdByte h a) ∧
    (∀ ws, opc = 0x71 → (∀ j, (s.tile p j).et.lines = []) → (∀ i, r.prog ≤ i → i < 16 → vecWord r.res r.rside i = 0) →
      let n := if pd.getLsbD 0 then 17 else 16
      Reaches s s' p k r .read (4 * n) ws → r.prog < n →
      let at_ := fun (i : Nat) => ws.getD i (0, false)
      ∃ t, exec (.memNodeComplete p k r.id) s = .next t ∧
        VectorLoads s t p k r n (fun i => BitVec.ofNat 32 (s.rdNat (at_ i).2 (at_ i).1 4))
          (fun m => (((ws.drop r.prog).take m).map fun w => lineKey w.1 w.2).dedup.length)) ∧
    (∀ ws, opc = 0x73 ∨ opc = 0x77 →
      let n := if opc = 0x73 ∧ pd.getLsbD 0 = true then 17 else 16
      Reaches s s' p k r .write (4 * n) ws → ws.Nodup → r.prog < n →
      let at_ := fun (i : Nat) => ws.getD i (0, false)
      ∃ t m, exec (.memNodeComplete p k r.id) s = .next t ∧ 0 < m ∧ r.prog + m ≤ n ∧
        (∀ i, r.prog ≤ i → i < r.prog + m → t.rdNat (at_ i).2 (at_ i).1 4 = (vecWord r.a r.aside i).toNat) ∧
        (∀ h a, (∀ i, r.prog ≤ i → i < r.prog + m → h = (at_ i).2 → a < (at_ i).1 ∨ (at_ i).1 + 4 ≤ a) →
          t.rdByte h a = s.rdByte h a) ∧
        (r.prog + m = n → Left t p k r ∧ OutGets s t p k r [{ kind := 1 }]) ∧
        (r.prog + m < n → ∃ y, (t.tile p k).req r.id = some y ∧ y.prog = r.prog + m ∧ y.st = .going) ∧
        Charged s t p k 0 (linesEntered ws r.prog (r.prog + m))) ∧
    (∀ ws, opc = 0x76 → pd.toNat ≤ 3 → r.va.toNat % 64 = 0 →
      let n := 2 ^ pd.toNat
      Reaches s s' p k r .read (64 * n) ws → r.prog < 16 * n → r.row.length = r.prog / 16 →
      (∀ i, r.prog % 16 ≤ i → i < 16 → vecWord r.res 0 i = 0) →
      let at_ := fun (i : Nat) => ws.getD i (0, false)
      let key := fun (i : Nat) => lineKey (at_ i).1 (at_ i).2
      let held := fun (i : Nat) => heldLine s p k r (key i)
      ∃ t m y row res, exec (.memNodeComplete p k r.id) s = .next t ∧ 0 < m ∧ r.prog + m ≤ 16 * n ∧
        (t.tile p k).req r.id = some y ∧ y.row = row ∧ y.st = .going ∧ row.length = (r.prog + m) / 16 ∧
        (∀ i, i < r.prog → rowWord row res i = rowWord r.row r.res i) ∧
        (∀ i, r.prog ≤ i → i < r.prog + m → rowWord row res i =
          ((held i).bind fun e => Tbl.find? e.words ((at_ i).1 % 64 / 4)).getD (BitVec.ofNat 32 (s.rdNat (at_ i).2 (at_ i).1 4))) ∧
        (r.prog + m < 16 * n → y.prog = r.prog + m ∧ y.res = res) ∧
        (r.prog + m = 16 * n → 16 * n ≤ y.prog ∧ (r.places = [] → y.places.Nodup ∧
          ∀ x ∈ y.places, x < 512 ∧ ∀ q ∈ (s.tile p k).reqs, q.st ≠ .performed → x ∉ q.places)) ∧
        Charged s t p k 0
          (((List.range m).filter fun i => (held (r.prog + i)).isNone).map fun i => key (r.prog + i)).dedup.length ∧
        SameBytes s t) ∧
    (opc = 0x76 → pd.toNat ≤ 3 →
      let n := 2 ^ pd.toNat
      let sp := tileAt (k / 12) 6
      let place := fun (i : Nat) => 57344 + 16 * r.places.getD (i / 16) 0 + i % 16
      16 * n ≤ r.prog → r.prog < 32 * n → r.row.length = n → r.places.length = n → r.places.Nodup →
      BankFree s p sp (place (r.prog - 16 * n)) →
      ∃ t j, exec (.memNodeComplete p k r.id) s = .next t ∧ r.prog - 16 * n < j ∧ j ≤ 16 * n ∧
        (∀ i, r.prog - 16 * n ≤ i → i < j → (t.spad p sp).word (place i) = rowWord r.row 0 i) ∧
        (∀ w, (∀ i, r.prog - 16 * n ≤ i → i < j → w ≠ place i) → (t.spad p sp).word w = (s.spad p sp).word w) ∧
        (j < 16 * n → ∃ y, (t.tile p k).req r.id = some y ∧ y.prog = 16 * n + j ∧ y.row = r.row ∧ y.places = r.places ∧
          y.st = .going) ∧
        (j = 16 * n → OutGets s t p k r
          (r.row.map fun v => { dat := true, val := v, tag := (hdrFmta (firOf s p k).cfg.hdr).bits })) ∧ FabricOnly s t) ∧
    (∀ c, opc = 0x70 ∨ opc = 0x72 → translate s p (some k) r.va (if opc = 0x72 then .write else .read) 4 = (.fault c, s') →
      ∃ t y, exec (.memNodeComplete p k r.id) s = .next t ∧ (t.tile p k).req r.id = some y ∧ y.st = .parkedFault c ∧
        (t.tile p k).et.reported = true ∧ SameBytes s t ∧
        ((s.tile p k).et.reported = false → (∀ q, q < 4 → ∀ z ∈ (s.ctx p q).reports, z.src ≠ .etile k) →
          ∃ z ∈ (t.ctx p (firOf s p k).reg.owner).reports, z.cause = c ∧ z.tval = r.va ∧ z.src = .etile k ∧
            z.tval2.toNat % 16 = (if opc = 0x72 then 1 else 0) ∧ z.tval2.toNat / 16 % 16 = k.val / 12))

/-- O35. FENCE waits while an earlier memory request of its element is not performed, and then invalidates the L1's lines at
scope 2 and above; PREF completes whatever its address; TAGSET sets its tag once the element's earlier memory requests,
that of a CHAPP among them, are performed; an MSEND completes when its message has left the network; requests parked on faults walk again, and their
tile may report again (R159, R175, R177, R253, R255). -/
def Obligations.WaitingRequests : Prop :=
  (∀ (s : State) (p : Fin 32) (k : Fin 144) (r : Req), Goes s p k r →
    let opc := (fabOpc r.word).toNat
    let early := (memReqs (s.tile p k)).any fun q => decide (q.id < r.id) && q.st != .performed
    let chapp := (s.tile p k).reqs.any fun q => fabOpc q.word == 0xE0 && decide (q.id < r.id) && q.st != .performed
    (opc = 0x79 → early = true → exec (.memNodeComplete p k r.id) s = .next s) ∧
    (opc = 0x79 → early = false →
      ∃ t, exec (.memNodeComplete p k r.id) s = .next t ∧ Left t p k r ∧ SameBytes s t ∧
        (2 ≤ (fabFields r.word).pd.toNat → tileType k = .e → (s.pad p).fused = [] → (t.tile p k).et.lines = [])) ∧
    (opc = 0x7A →
      ∃ t, exec (.memNodeComplete p k r.id) s = .next t ∧ Left t p k r ∧ SameBytes s t) ∧
    (opc = 0xE4 → early = true ∨ chapp = true → exec (.memNodeComplete p k r.id) s = .next s) ∧
    (opc = 0xE4 → early = false → chapp = false →
      ∃ t, exec (.memNodeComplete p k r.id) s = .next t ∧ Left t p k r ∧
        (t.ctx p (firOf s p k).reg.owner).tags.getLsbD (r.b.toNat % 64) = true ∧ SameBytes s t)) ∧
  (∀ (s : State) (p : Fin 32) (k : Fin 144) (r : Req), (s.tile p k).req r.id = some r → fabOpc r.word = 0xE3 →
    r.st = .performed → r.flag = true →
    ∃ t, exec (.memNodeComplete p k r.id) s = .next t ∧ Left t p k r ∧ FabricOnly s t) ∧
  ∀ (s : State) (p : Fin 32) (k : Fin 144),
    ∃ t, exec (.parkedRequestRetry p k) s = .next t ∧ (t.tile p k).et.reported = false ∧
      (∀ n r, (s.tile p k).req n = some r →
        ∃ y, (t.tile p k).req n = some y ∧ (y.word, y.slot, y.va, y.a) = (r.word, r.slot, r.va, r.a) ∧
          (∀ c, r.st = .parkedFault c → y.st = .going ∧ y.due = s.fc p) ∧ ((∀ c, r.st ≠ .parkedFault c) → y = r)) ∧
      FabricOnly s t

/-! ## Tokens between tiles -/

/-- TOKEN_HOP moves the head of a link input to the buffer its route names, on the route's plane, and takes it from its
source, where its region runs and there is space there; without space it moves nothing. A flush token of a due output clears
its pending count; those of a drained region all leave in one fc. A later token of a gathered row leaves when its turn has
come and its outputs have space (R23, R37, R64, R132, R173). -/
def Sys2Proof.Claims.TokenEvents : Prop :=
  (∀ (s : State) (p : Fin 32) (k : Fin 144) (src : Fin 20) (id : Nat) (r : Region) (e : Route) (u b : Nat) (d : Tok)
      (ds : List Tok),
    (s.pad p).regionAt k = some (id, r) → 4 ≤ src.val → hopRoutes (((s.pad p).cfgAt k).getD []) src = [e] →
    routeDest k e = some (u, b) → (u, b) ≠ (k.val, src.val) → ((s.tile p k).buf src).toks = d :: ds → d.arr < s.fc p →
    (regionRuns s p r = true → ((s.tile p u).buf b).used < e.depth →
      ∃ t, exec (.tokenHop p k src) s = .next t ∧ ((t.tile p k).buf src).toks = ds ∧
        ((t.tile p u).buf b).toks = ((s.tile p u).buf b).toks ++ [{ asPlane e.data false d with arr := s.fc p }] ∧
        FabricOnly s t) ∧
    (regionRuns s p r = false ∨ e.depth ≤ ((s.tile p u).buf b).used → exec (.tokenHop p k src) s = .next s)) ∧
  (∀ (s : State) (p : Fin 32) (k : Fin 144) (o : Fin 4),
    (flushDue s p k o = true ∨ FlushDue s p k o →
      ∃ t, exec (.skipFlushEmit p k o) s = .next t ∧ Tbl.get 0 (t.tile p k).pend o = 0 ∧ FabricOnly s t) ∧
    (flushDue s p k o = false → exec (.skipFlushEmit p k o) s = .next s)) ∧
  ∀ (s : State) (p : Fin 32) (k : Fin 144),
    let q := (s.tile p k).outq
    let c := ((s.pad p).cfgAt k).getD []
    (pacedReady s p k c q 0 = none → exec (.gathRowTokenEmit p k) s = .next s) ∧
    ∀ e, q = [e] → e.paced = true → e.tok ≠ none →
      (∀ n, n < 4 → e.om.getLsbD n = true → e.held.getLsbD n = true ∨ outSpace s p k c n = true) →
      ∃ t, exec (.gathRowTokenEmit p k) s = .next t ∧ (t.tile p k).outq = [] ∧ FabricOnly s t
namespace Sys2Proof.Claims

open Sys2Proof.Machine

/-- What a matrix instruction leaves alone that acts on its matrix unit as it fires: locals, flags, scratchpad and
requests of its tile, every other tile, all outside the fabric; PU acts by the flag. -/
structure MxFires (s t : State) (f : FabF) (flag : Bool) : Prop where
  keeps : let a := s.fir.tl
    let b := t.tile s.fir.p s.fir.t
    (b.loc, b.vec, b.flags, b.sp, b.cfgs, b.rc, b.reqs) = (a.loc, a.vec, a.flags, a.sp, a.cfgs, a.rc, a.reqs)
  pu : ∀ n, n < 8 → f.pu ≠ 1 → f.pu ≠ 2 →
    (t.tile s.fir.p s.fir.t).preds.getLsbD n = predAfter s.fir.tl.preds f false flag n
  others : ∀ h k, (h, k) ≠ (s.fir.p, s.fir.t) → TileKeeps (s.tile h k) (t.tile h k)
  fabric : FabricOnly s t

/-- The instructions that set a register of the matrix unit, with their opcode and what they set. -/
def mxRow : Instr → Option (FabF × Nat × (Fir → Matrix → Matrix))
  | .manch f => some (f, 0x82, fun x m => { m with anchor := (x.opB f).setWidth 10 })
  | .mzero f => some (f, 0x83, fun _ m => { m with body := [], nfc := [], carry := [], ovf := false, bsel := false })
  | .mcbk f => some (f, 0x86, fun x m => { m with cb := Tbl.put 0 m.cb ((x.opB f).toNat % 16) ((x.opA f).setWidth 16) })
  | .mcarryCfg f => some (f, 0x87, fun x m =>
      { m with
        carryCap := if (x.opB f).toNat % 64 = 0 then 64 else (x.opB f).toNat % 64
        carryPol := (x.opB f).getLsbD 8, tagen := (x.opB f).getLsbD 9, ctag := (x.opB f).extractLsb' 10 6 })
  | _ => none

/-- A matrix-control token: its payload (Table 11-8), KIND 0b11. -/
def ctlTok (v : Nat) : Tok := { val := BitVec.ofNat 512 v, kind := 3 }

/-- A firing that sends a matrix-control token to every output: the effect, charge ib, from a state u prepared by the
instruction. -/
def SendsCtl (s t u : State) (f : FabF) (opc ib : Nat) (flag : Bool) : Prop :=
  u.cur = s.cur ∧ ∃ n, t = applyEffect f
    { sends := toAll f.om { ctlTok opc with gen := s.fir.gen, iter := s.fir.iter f }, nonzero := n, flag := flag, ib := ib } u

/-- The rational behind a finite value. -/
def ratOf : Ex → Option ℚ
  | .fin s n d => some ((if s then -1 else 1) * (n : ℚ) / (d : ℚ))
  | _ => none

/-- The value of an accumulator without its non-finite class: h × 2^32 + BODY (R196). -/
def accOf (m : Matrix) (c : Nat) : Int := (m.high c).toInt * 2 ^ 32 + (m.bodyOf c).toInt

/-- ±⌊|v|⌋ of v = n × 2^e. -/
def truncDy (n e : Int) : Int :=
  if 0 ≤ e then n * 2 ^ e.toNat else if 0 ≤ n then n / 2 ^ (-e).toNat else -((-n) / 2 ^ (-e).toNat)

/-- A pass's additions are tried: what addAll over the steps left gives, from where the pass stands. -/
def passTry (s : State) (p t : Nat) (ps : Pass) : AddSt :=
  let x := firOf s p t
  let fmt := ps.tagA
  addAll ps.bank (fun g => (List.range 16).map fun i => aOp fmt (Tbl.get {} x.tl.mx.row (16 * g + i)))
    ((((List.range ps.n).map (ps.g0 + ·)).filter fun g => decide (ps.g ≤ g)).flatMap fun g =>
      if groupSkipped fmt ps g then [(g, skipStep)]
      else ((List.range 129).filter fun c => decide (ps.g < g) || decide (ps.c ≤ c)).map fun c => (g, c))
    { m := x.tl.mx, flags := 0, nfp := ps.nfp, nfsk := ps.nfsk, held := none }

/-- The groups a pass broadcasts: those whose position in A was no implied zero (R193, R194). -/
def sentGroups (ps : Pass) : List Nat :=
  ((List.range ps.n).map (ps.g0 + ·)).filter fun g => !ps.zeros.getD (16 * (g - ps.g0) / (512 / ps.tagA.lane 0)) false

/-- The partial of a group and an accumulator, of the A elements that stand in the row buffer. -/
def partialAt (s : State) (p t : Nat) (ps : Pass) (g c : Nat) : Partial :=
  partialOf (s.tile p t).mx ps.bank g c
    ((List.range 16).map fun i => aOp ps.tagA (Tbl.get {} (s.tile p t).mx.row (16 * g + i)))

/-- The class that two accumulator classes merge into (R195). -/
def mergedClass : NonFin → NonFin → NonFin
  | .nan, _ | _, .nan => .nan
  | .finite, y => y
  | x, .finite => x
  | x, y => if x = y then x else .nan

/-- What a pass that completes leaves in its accumulators (R194 to R196): each is its value before plus the partials of
the groups still to be added, truncated at ANCHOR; its class is merged with their non-finite products. -/
def PassSums (s : State) (p t : Nat) (ps : Pass) (n : Matrix) : Prop :=
  let m := (s.tile p t).mx
  ∀ c, c < 129 →
    let gs := (sentGroups ps).filter fun g => decide (ps.g < g) || (decide (ps.g = g) && decide (ps.c ≤ c))
    let part := fun g => partialAt s p t ps g c
    accOf n c = accOf m c + (gs.map fun g => truncDy (part g).sum ((part g).e - m.anchor.toInt)).sum ∧
    n.nfcOf c = (gs.flatMap fun g => (part g).non.map (·.1)).foldl mergedClass (m.nfcOf c)

/-- A pass leaves its matrix unit: its accumulators as the additions gave them, BSEL flipped by an MSWAP, its request
complete with its matrix-control token (Table 11-8). -/
def PassEnds (s t : State) (p k : Nat) (ps : Pass) (r : Req) : Prop :=
  let a := passTry s p k ps
  let m := a.m
  let n := (t.tile p k).mx
  let ng := (sentGroups ps).length
  n = { m with pass := none, last := some (s.fc p), bsel := if fabOpc ps.word = 0x89 then !m.bsel else m.bsel } ∧
    (Tbl.sortedFrom 0 (s.tile p k).mx.carry = true → PassSums s p k ps n) ∧ Left t p k r ∧
    OutGets s t p k r [ctlTok (((fabOpc ps.word).toNat + ps.everHeld.toNat * 2 ^ 8 + a.nfsk.toNat * 2 ^ 9 +
      (if ng = 0 then 2 ^ 10 else 0) + a.nfp.toNat * 2 ^ 11 + ng * 2 ^ 16) % 2 ^ 32)] ∧ FabricOnly s t

/-- A pass stands held at the addition that could not be made, the earlier ones made. -/
def PassHeld (s t : State) (p k : Nat) (ps : Pass) (g c : Nat) : Prop :=
  ∃ q, (t.tile p k).mx = { (passTry s p k ps).m with pass := some q } ∧ q.held = true ∧ q.everHeld = true ∧ q.g = g ∧
    q.c = c ∧ (q.id, q.bank, q.n, q.g0, q.zeros, q.fmt, q.pos) = (ps.id, ps.bank, ps.n, ps.g0, ps.zeros, ps.fmt, ps.pos)

/-- Σ of the ⌊·⌋-truncated rationals: ±⌊|q|⌋. -/
def truncQ (q : ℚ) : Int := if 0 ≤ q then ⌊q⌋ else -⌊-q⌋

/-- The class a product of two exact values belongs to when it is not finite: NaN of a NaN or of 0 × Inf, else the infinity
of its sign. -/
def prodClass : Ex → Ex → Option NonFin
  | .nan, _ | _, .nan => some .nan
  | .inf a, .inf b => some (if a = b then .pinf else .ninf)
  | .inf a, .fin b n _ | .fin b n _, .inf a => some (if n = 0 then .nan else if a = b then .pinf else .ninf)
  | .fin .., .fin .. => none

/-- E of a finite float value x of a format with this bias, scaled by 2^k: the exponent of its normal form, 1 − bias where
it is subnormal or zero (Tables 11-2 and 11-3). -/
def isExp (bias k : Int) (x : ℚ) (e : Int) : Prop :=
  1 - bias ≤ e - k ∧ |x| < (2 : ℚ) ^ (e + 1) ∧ ((2 : ℚ) ^ e ≤ |x| ∨ e - k = 1 - bias)

end Sys2Proof.Claims

/-! ## The matrix class -/

/-- O36. MANCH, MZERO, MCBK and MCARRY cfg set their registers of the matrix unit and nothing else of it; MSCL sets SCALE and
ZP of one column, or of all. Each is charged 1 unit and sends a matrix-control token of its opcode (R198, R204 to R206, R209,
R210). -/
def Obligations.MatrixSettings : Prop :=
  (∀ (i : Instr) (f : FabF) (opc : Nat) (g : Fir → Matrix → Matrix) (s : State), mxRow i = some (f, opc, g) →
    s.fir.tl.mx.pass = none →
    ∃ t u, exec i s = .next t ∧ (t.tile s.fir.p s.fir.t).mx = g s.fir s.fir.tl.mx ∧ MxFires s t f false ∧
      SendsCtl s t u f opc 1 false) ∧
  ∀ (f : FabF) (s : State),
    let x := s.fir
    let a := x.opA f
    let b := x.opB f
    let m := x.tl.mx
    ∃ t u, exec (.mscl f) s = .next t ∧ MxFires s t f false ∧ SendsCtl s t u f 0x85 1 false ∧
      let n := (t.tile x.p x.t).mx
      { n with scale := m.scale, zp := m.zp } = m ∧
      ∀ c, c < 128 →
        (b.getLsbD 16 = true ∨ c = b.toNat % 128 →
          n.scaleOf c = a ∧ Tbl.get 0 n.zp c = b.extractLsb' 8 8) ∧
        (b.getLsbD 16 = false → c ≠ b.toNat % 128 → n.scaleOf c = m.scaleOf c ∧ Tbl.get 0 n.zp c = Tbl.get 0 m.zp c)

/-- O37. MLDB loads the columns of its token: cell (16g + i, col + j) from lane 16j + i, the group's format and scale with
each column; a NaN scale loads NaN. Other cells, formats and scales stay. It is charged 2 units and sends a matrix-control
token. A token of FP32, of INT lanes other than 8
bits or past column 127 is an element trap (R190 to R192). -/
def Obligations.MatrixLoad : Prop :=
  ∀ (f : FabF) (s : State),
    let x := s.fir
    let k := x.tl.head f.sa.toNat
    let b := x.opB f
    let m := x.tl.mx
    let t := Tag.ofBits k.tag
    let w := t.lane (hdrLw x.cfg.hdr)
    let cols := 512 / w / 16
    let (g, col, bank) := (b.toNat / 256 % 16, b.toNat % 128, mldbBank m b)
    let bad := t = .fp32 ∨ (t = .int ∧ hdrLw x.cfg.hdr ≠ 0) ∨ 128 < col + cols
    let hit := fun c' => col ≤ c' ∧ c' < col + cols
    (bad → FaultsBefore (.mldb f) s 0x80 f cELEMENT 0) ∧
    (¬ bad → ∃ u pre fl, exec (.mldb f) s = .next u ∧ MxFires s u f fl ∧ SendsCtl s u pre f 0x80 2 fl ∧
      let n := (u.tile x.p x.t).mx
      (∀ bk r c, r < 256 → c < 128 →
        Tbl.get 0 n.cell (Matrix.cellIx bk r c) =
          if bk = bank ∧ r / 16 = g ∧ hit c then
            if blockScale t k.side (16 * (c - col)) = 0xFF then 0x7FC0
            else mldbCell t (hdrQ4i x.cfg.hdr) m.cb (laneOf k.val w (16 * (c - col) + r % 16))
          else Tbl.get 0 m.cell (Matrix.cellIx bk r c)) ∧
      (∀ bk gg c, gg < 16 → c < 128 →
        Tbl.get .bf16 n.bfmt (Matrix.grpIx bk gg c) =
          (if bk = bank ∧ gg = g ∧ hit c then mldbFmt t (hdrQ4i x.cfg.hdr) else Tbl.get .bf16 m.bfmt (Matrix.grpIx bk gg c)) ∧
        Tbl.get 127 n.sx (Matrix.grpIx bk gg c) =
          if bk = bank ∧ gg = g ∧ hit c then blockScale t k.side (16 * (c - col)) else Tbl.get 127 m.sx (Matrix.grpIx bk gg c)) ∧
      (n.body, n.nfc, n.carry, n.anchor, n.scale, n.zp, n.bsel) = (m.body, m.nfc, m.carry, m.anchor, m.scale, m.zp, m.bsel))

/-- The carry buffer: an addition of S × 2^e adds v = ±⌊|S| × 2^(e − ANCHOR)⌋ to the accumulator's value
h × 2^32 + BODY exactly, BODY staying a signed 32-bit number; it changes no other accumulator. It cannot be made exactly
when it needs a new entry in a full buffer, or, with an entry or room for one, when the high word leaves 32 bits. MCPOP takes the entry of the lowest number
(R196, R197, R199). -/
def Sys2Proof.Claims.CarryBuffer : Prop :=
  (∀ (m n : Matrix) (c : Nat) (sum e : Int), Tbl.sortedFrom 0 m.carry = true → addTo m c sum e = .made n →
    accOf n c = accOf m c + truncDy sum (e - m.anchor.toInt) ∧ (∀ d, d ≠ c → accOf n d = accOf m d) ∧
    Tbl.sortedFrom 0 n.carry = true ∧ (n.nfc, n.cell, n.anchor, n.pass) = (m.nfc, m.cell, m.anchor, m.pass)) ∧
  (∀ (m : Matrix) (c : Nat) (sum e : Int),
    let up := ((m.bodyOf c).toInt + truncDy sum (e - m.anchor.toInt) + 2 ^ 31) / 2 ^ 32
    let h := (m.high c).toInt + up
    let noRoom := Tbl.find? m.carry c = none ∧ m.carryCap ≤ m.carry.length
    (addTo m c sum e = .full ↔ noRoom ∧ up ≠ 0) ∧
    (addTo m c sum e = .overflow ↔ ¬ noRoom ∧ (h < -2 ^ 31 ∨ 2 ^ 31 ≤ h))) ∧
  ∀ (f : SeqF) (s : State), guardOk s.curCtx f = true →
    let p := s.cur.p
    let sel := s.curCtx.mcsel
    let (row, col) := (sel.toNat % 16, sel.toNat / 16)
    let k := tileAt row col
    let own := row < 12 ∧ col < 12 ∧ tileType k = .m ∧ ∃ r, (s.pad p).regionAt k = some r ∧ r.2.owner = s.cur.q
    (own → ∃ t, exec (.mcpopRead f) s = .next t ∧ Completes s t p s.cur.q 1 0 ∧ SameBytes s t ∧
      (∀ c h rest, (s.tile p k).mx.carry = (c, h) :: rest →
        (t.tile p k).mx = { (s.tile p k).mx with carry := rest } ∧ Writes s t p s.cur.q f.d (h ++ BitVec.ofNat 32 c)) ∧
      ((s.tile p k).mx.carry = [] → (t.tile p k).mx = (s.tile p k).mx ∧ Writes s t p s.cur.q f.d 0xFFFFFFFF)) ∧
    (¬ own → ∃ t, exec (.mcpopRead f) s = .next t ∧
      Enters s t p s.cur.q s.curCtx.pc cACCESS (some (sel.setWidth 64)) (some 0x20))

/-- MFIRE and MSWAP fire their pass: descriptor, bank, first position in the row buffer, C units; a descriptor out of
range or a token of another TAG is an element trap (R193, R194). -/
def Sys2Proof.Claims.PassFires : Prop :=
  ∀ (f : FabF) (s : State) (swap : Bool),
    let i : Instr := if swap then .mswap f else .mfire f
    let opc : BitVec 8 := if swap then 0x89 else 0x81
    let x := s.fir
    let b := x.opB f
    let fmt := hdrFmta x.cfg.hdr
    let raw := (x.tl.rawHead f.sa.toNat).getD {}
    let (n, g0) := (b.toNat % 32, b.toNat / 256 % 16)
    let bad := n = 0 ∨ 16 < n ∨ 16 < g0 + n ∨ Tag.ofBits raw.tag ≠ fmt
    (bad → FaultsBefore i s opc f cELEMENT 0) ∧
    (¬ bad → ∃ t ps, exec i s = .next t ∧ Requests s t f opc (s.fc x.p) (passCycles fmt) 0 ∧
      let m := (t.tile x.p x.t).mx
      m = { x.tl.mx with pass := some ps, row := m.row } ∧
      (ps.n, ps.g0, ps.fired, ps.held, ps.g, ps.c) = (n, g0, s.fc x.p, false, g0, 0) ∧
      (ps.fmt, ps.pos, ps.lastTake) = (fmt.bits, passPos fmt n, s.fc x.p) ∧
      ps.bank = (if swap then x.tl.mx.bsel.toNat else (b.getLsbD 12).toNat) ∧
      (passPos fmt n ≤ raw.skip.toNat → ps.zeros = List.replicate (passPos fmt n) true) ∧
      (raw.skip.toNat < passPos fmt n → ps.zeros = [raw.skip != 0]) ∧
      (raw.skip = 0 → ∀ r, Tbl.get {} m.row r =
        if 16 * g0 ≤ r ∧ r < 16 * g0 + passLanes fmt ∧ r < 16 * (g0 + n) then
          { code := BitVec.ofNat 16 (laneOf raw.val (fmt.lane 0) (r - 16 * g0)), scale := blockScale fmt raw.side (r - 16 * g0) }
        else Tbl.get {} x.tl.mx.row r))

/-- A position of a pass that is due takes the head of its input into the row buffer, or traps at another TAG or GEN. A pass
whose additions are due makes them in order and completes, or is held at the first that cannot be made; a held pass tries
again (R135, R193, R194, R197). A head that waits for a splice is not taken, and a stray one traps (log 95). -/
def Sys2Proof.Claims.PassRuns : Prop :=
  ∀ (s : State) (p : Fin 32) (k : Fin 144),
    let x := firOf s p k
    (posDue s p k = none → exec (.mfirePositionTake p k) s = .next s) ∧
    (∀ ps d, x.tl.mx.pass = some ps → x.tl.mx.away = none → ps.zeros.length < ps.pos → ps.lastTake < s.fc p →
      ps.fired + ps.zeros.length ≤ s.fc p → x.tl.rawHead (fabFields ps.word).sa.toNat = some d → d.arr ≤ s.fc p →
      let n := ps.zeros.length
      let l := 512 / ps.tagA.lane 0
      (d.gen = x.gen → Tag.ofBits d.tag = ps.tagA → ∃ t q, exec (.mfirePositionTake p k) s = .next t ∧
        q = { ps with zeros := ps.zeros ++ [d.skip != 0], lastTake := s.fc p } ∧
        (t.tile p k).mx = { x.tl.mx with pass := some q, row := (t.tile p k).mx.row } ∧ FabricOnly s t ∧
        (d.skip = 0 → ∀ i, Tbl.get {} (t.tile p k).mx.row i =
          if 16 * ps.g0 + l * n ≤ i ∧ i < 16 * ps.g0 + l * n + l ∧ i < 16 * (ps.g0 + ps.n) then
            { code := BitVec.ofNat 16 (laneOf d.val (ps.tagA.lane 0) (i - (16 * ps.g0 + l * n)))
              scale := blockScale ps.tagA d.side (i - (16 * ps.g0 + l * n)) }
          else Tbl.get {} x.tl.mx.row i)) ∧
      (d.gen = x.gen → Tag.ofBits d.tag ≠ ps.tagA → x.tl.stopped = false →
        exec (.mfirePositionTake p k) s = .next (fabricTrap s p k ps.slot ps.word false cELEMENT 0 0 0)) ∧
      (d.gen ≠ x.gen → x.reg.spl = none → x.tl.stopped = false →
        exec (.mfirePositionTake p k) s = .next (fabricTrap s p k ps.slot ps.word false cSTRAY_TOKEN 0 0 0))) ∧
    (passDue s p k = none → exec (.matrixPassComplete p k) s = .next s) ∧
    (holdDue s p k = none → exec (.carryHoldResume p k) s = .next s) ∧
    ∀ (i : Instr) (ps : Pass), x.tl.mx.pass = some ps → x.tl.mx.away = none →
      (i = .matrixPassComplete p k ∧ ps.held = false ∧ ps.zeros.length = ps.pos ∧
        (if ps.lastTake = ps.fired ∧ (∀ z ∈ ps.zeros, z = true) then ps.fired
          else max (ps.fired + passCycles ps.tagA - 1) ps.lastTake) ≤ s.fc p) ∨
      (i = .carryHoldResume p k ∧ ps.held = true ∧ x.tl.stopped = false ∧ regionRuns s p x.reg = true) →
      x.tl.badCells = [] →
      (∀ r, (passTry s p k ps).held = none → x.tl.req ps.id = some r →
        ∃ t, exec i s = .next t ∧ PassEnds s t p k ps r) ∧
      (∀ g c high, (passTry s p k ps).held = some (g, c, high) → ∃ t, exec i s = .next t ∧ PassHeld s t p k ps g c ∧
        (high = true → (t.tile p k).mx.ovf = true) ∧
        (high = true ∨ x.tl.mx.carryPol = true ∨ x.tl.mx.tagen = false → x.tl.stopped = false →
          (s.pad p).regionAt k ≠ none → (t.tile p k).stopped = true))

/-- The group adder (R195, R196): an A element and a B cell are the exact values and exponents that Tables 11-2 and 11-3
give; the partial of 16 products sums those that are finite, each truncated below e, where e is 18 below the largest
exponent of a product that is not zero, or 0 for integers, whose sum is exact; of the others it collects the classes. B
of the A-sum (accumulator 128) is 1. -/
def Sys2Proof.Claims.GroupSums : Prop :=
  (∀ (t : Tag) (r : RowEl),
    (t = .int → aOp t r = { int := true, e := 7, v := Ex.ofInt (sext r.code.toNat 8) }) ∧
    (t = .q4 → aOp t r = { int := true, e := 3, v := Ex.ofInt (sext r.code.toNat 4) }) ∧
    ∀ fp, t.fp = some fp →
      let a := aOp t r
      a.int = false ∧ (r.scale = 0xFF → a.v = .nan) ∧
      ∀ x, r.scale ≠ 0xFF → ratOf (fp.dec r.code.toNat) = some x →
        let k : Int := (r.scale.toNat : Int) - 127
        ratOf a.v = some (x * (2 : ℚ) ^ k) ∧ isExp fp.bias k (x * (2 : ℚ) ^ k) a.e) ∧
  (∀ (fmt : BFmt) (cell : BitVec 16) (sx : BitVec 8),
    let b := bOp fmt cell sx
    let v := fpBF16.dec cell.toNat
    (fmt = .int8 → b = { int := true, e := 7, v := v }) ∧ (fmt = .int4 → b = { int := true, e := 3, v := v }) ∧
    ∀ bias : Int, (fmt = .bf16 ∧ bias = 127) ∨ (fmt = .e2m1 ∧ bias = 1) ∨ (fmt = .e4m3 ∧ bias = 7) ∨
        (fmt = .e5m2 ∧ bias = 15) →
      b.int = false ∧ (sx = 0xFF → b.v = .nan) ∧
      ∀ x, sx ≠ 0xFF → ratOf v = some x →
        let k : Int := (sx.toNat : Int) - 127
        ratOf b.v = some (x * (2 : ℚ) ^ k) ∧ isExp bias k (x * (2 : ℚ) ^ k) b.e) ∧
  ∀ (m : Matrix) (bank g c : Nat) (as : List MOp), as.length = 16 → c ≤ 128 →
    (∀ a ∈ as, ∀ neg n, a.v ≠ .fin neg n 0) →
    let b := fun (i : Nat) =>
      if c = 128 then { oneOp with int := (as.getD i oneOp).int }
      else bOp (Tbl.get .bf16 m.bfmt (Matrix.grpIx bank g c)) (Tbl.get 0 m.cell (Matrix.cellIx bank (16 * g + i) c))
        (Tbl.get 127 m.sx (Matrix.grpIx bank g c))
    let a := fun (i : Nat) => as.getD i oneOp
    let part := partialOf m bank g c as
    let exact := (∃ i, i < 16 ∧ (a i).int = true) ∧ ∃ i, i < 16 ∧ (b i).int = true
    let e := fun (i : Nat) => (a i).e + (b i).e
    part.non.map (·.1) = (List.range 16).filterMap (fun i => prodClass (a i).v (b i).v) ∧
    ∀ q : Nat → ℚ,
      (∀ i, i < 16 → prodClass (a i).v (b i).v ≠ none → q i = 0) →
      (∀ i, i < 16 → prodClass (a i).v (b i).v = none →
        ∃ x y, ratOf (a i).v = some x ∧ ratOf (b i).v = some y ∧ q i = x * y) →
      ((∀ i, i < 16 → q i = 0) → part.sum = 0) ∧
      (∀ i, i < 16 → q i ≠ 0 → ¬ exact → (∀ j, j < 16 → q j ≠ 0 → e j ≤ e i) →
        part.e = e i - 18 ∧ part.sum = ((List.range 16).map fun j => truncQ (q j / (2 : ℚ) ^ part.e)).sum) ∧
      ((∃ i, i < 16 ∧ q i ≠ 0) → exact → part.e = 0 ∧ part.sum = ((List.range 16).map fun j => truncQ (q j)).sum)

/-- O40. MDRN reads the accumulators as it fires and frees the drained columns under Z and ZA; a spill token adds its pairs;
MDRN_COMPLETE rounds the lanes into v[DST] and sends them, one data token of format OF. Lane j is column c = COL + j: its
accumulator with its spill at ANCHOR, less ZP × the A-sum, times SCALE, rounded by RM; NaN and the infinities go before; past
column 127 the lane is 0. A spill token of a foreign GEN takes STRAY_TOKEN, with the drain's slot and word, where no splice to
that GEN is armed: the reading of log 95, the model's (R135, R202, R203). -/
def Obligations.MatrixDrains : Prop :=
  (∀ (f : FabF) (s : State),
    let x := s.fir
    let b := x.opB f
    let m := x.tl.mx
    let h := x.tl.head f.sa.toNat
    let col := b.toNat % 128
    let freed := fun c => (b.getLsbD 15 = true ∧ col ≤ c ∧ c < col + 512 / (drainFmt b).lane 0 ∧ c < 128) ∨
      (b.getLsbD 16 = true ∧ c = 128)
    ∃ t d, exec (.mdrn f) s = .next t ∧ Requests s t f 0x84 (s.fc x.p + 7) 8 0 ∧ (t.tile x.p x.t).mx.drain = some d ∧
      (d.body, d.nfc, d.carry, d.desc, d.fired) = (m.body, m.nfc, m.carry, b, s.fc x.p) ∧
      (f.pd.getLsbD 0 = false → d.spill = [] ∧ d.spillDone = some (s.fc x.p)) ∧
      (f.pd.getLsbD 0 = true → d.spill = spillAdd [] h.val ∧ d.spillDone = if h.eos then some (s.fc x.p) else none) ∧
      ∀ c, c ≤ 128 →
        let n := (t.tile x.p x.t).mx
        (freed c → accOf n c = 0 ∧ n.nfcOf c = .finite) ∧ (¬ freed c → accOf n c = accOf m c ∧ n.nfcOf c = m.nfcOf c)) ∧
  (∀ (y : Tbl Int) (v : BitVec 512) (c : Nat), c ≤ 128 →
    Tbl.get 0 (spillAdd y v) c = Tbl.get 0 y c + ((List.range 8).map fun j =>
      if laneOf v 32 (2 * j) = c then sext (laneOf v 32 (2 * j + 1)) 32 else 0).sum) ∧
  ∀ (s : State) (p : Fin 32) (k : Fin 144),
    let x := firOf s p k
    (spillDue s p k = none → exec (.mdrnSpillToken p k) s = .next s) ∧
    (∀ d h, x.tl.mx.drain = some d → x.tl.mx.away = none → d.spillDone = none → d.fired < s.fc p →
      x.tl.rawHead (fabFields d.word).sa.toNat = some h → h.arr ≤ s.fc p →
      (h.gen = x.gen → ∃ t, exec (.mdrnSpillToken p k) s = .next t ∧ FabricOnly s t ∧
        (t.tile p k).mx = { x.tl.mx with drain := some { d with
          spill := spillAdd d.spill (viewTok h).val, spillDone := if (viewTok h).eos then some (s.fc p) else none } }) ∧
      (h.gen ≠ x.gen → x.reg.spl = none → x.tl.stopped = false →
        exec (.mdrnSpillToken p k) s = .next (fabricTrap s p k d.slot d.word false cSTRAY_TOKEN 0 0 0))) ∧
    (drainDue s p k = none → exec (.mdrnComplete p k) s = .next s) ∧
    (∀ d r u, x.tl.mx.drain = some d → x.tl.mx.away = none → d.spillDone = some u → d.fired + 7 ≤ s.fc p → u ≤ s.fc p →
      x.tl.req d.id = some r →
      let w := (drainFmt d.desc).lane 0
      let v := ofLanes w ((List.range (512 / w)).map fun j => (drainLane x d j).1)
      ∃ t, exec (.mdrnComplete p k) s = .next t ∧ Left t p k r ∧ FabricOnly s t ∧
        (t.tile p k).mx = { x.tl.mx with drain := none, last := some (s.fc p) } ∧
        OutGets s t p k r [{ dat := true, val := v, tag := (drainFmt d.desc).bits }] ∧
        ∀ n, n < 4 → (t.tile p k).vc n = if (fabFields d.word).dst.toNat = 8 + n then v else x.tl.vc n) ∧
    ∀ (d : Drain) (j : Nat),
      let c := d.desc.toNat % 128 + j
      let m := x.tl.mx
      let acc := fun (c : Nat) => (((Tbl.get 0 d.carry c).toInt + Tbl.get 0 d.spill c) * 2 ^ 32 + (Tbl.get 0 d.body c).toInt : ℚ) *
        (2 : ℚ) ^ m.anchor.toInt
      let zp := (Tbl.get 0 m.zp c).toNat
      let rm := d.desc.toNat / 2 ^ 12 % 8
      let ctx : RndCtx :=
        { mode := if rm ≤ 4 then Rnd.ofBits rm else x.rndMode, stoch := x.stoch
          r := srWord x.reg.seed (srCounter d.pos d.slot (tileRow k - x.reg.row0) (tileCol k - x.reg.col0) j) }
      (127 < c → drainLane x d j = (0, 0)) ∧
      ∀ fp, c ≤ 127 → (drainFmt d.desc).fp = some fp → ∃ y : Ex, (drainLane x d j).1 = (fp.round ctx y).1 ∧
        (Tbl.get .finite d.nfc c = .nan → y = .nan) ∧
        (∀ q, Tbl.get .finite d.nfc c = .finite → (zp = 0 ∨ Tbl.get .finite d.nfc 128 = .finite) →
          ratOf (fpFP32.dec (m.scaleOf c).toNat) = some q →
          ratOf y = some ((acc c - (if zp = 0 then 0 else zp * acc 128)) * q)) ∧
        (∀ q, (Tbl.get .finite d.nfc c = .pinf ∨ Tbl.get .finite d.nfc c = .ninf) → zp = 0 →
          ratOf (fpFP32.dec (m.scaleOf c).toNat) = some q → q ≠ 0 →
          y = .inf (decide (Tbl.get .finite d.nfc c = .ninf) != decide (q < 0)))

/-- MCARRY cnt answers the number of entries, MSTAT the status word or half of an accumulator; MCARRY exp empties the
buffer into spill tokens of 8 pairs, which leave in order, one in an fc, as the outputs allow, for 1 unit each as it leaves
(R198, R206, R207, R210). -/
def Sys2Proof.Claims.CarryReads : Prop :=
  (∀ (f : FabF) (s : State), s.fir.tl.mx.pass = none →
    let x := s.fir
    let m := x.tl.mx
    let b := x.opB f
    let answers := fun (i : Instr) (r : BitVec 32) (fl : Bool) =>
      Fired i s f { res := some r, sends := toAll f.om (x.fresh f r), nonzero := r != 0, flag := fl }
    let n : BitVec 32 := BitVec.ofNat 32 m.carry.length
    answers (.mcarryCnt f) n (n != 0) ∧
    (b.getLsbD 8 = true → answers (.mstat f)
      (if 128 < b.toNat % 256 then 0 else if b.getLsbD 9 then m.high (b.toNat % 256) else m.bodyOf (b.toNat % 256)) false) ∧
    (b.getLsbD 8 = false → m.carry.length < 2 ^ 11 → ∃ r : BitVec 32, answers (.mstat f) r false ∧
      r.toNat % 2 ^ 11 = m.carry.length ∧ r.getLsbD 11 = m.drain.isSome ∧ r.getLsbD 12 = false ∧
      r.getLsbD 13 = !m.nfc.isEmpty ∧ r.getLsbD 14 = m.bsel ∧ r.getLsbD 15 = m.ovf ∧
      r.extractLsb' 16 16 = m.anchor.signExtend 16) ∧
    ∃ t, exec (.mcarryExp f) s = .next t ∧ (t.tile x.p x.t).mx = { m with carry := [] } ∧ FabricOnly s t ∧
      (t.region x.p x.rid).charges = (s.region x.p x.rid).charges ∧
      (x.tl.outq = [] → f.om ≠ 0 → m.carry.length ≤ 136 →
        ((t.tile x.p x.t).outq.map fun e => (e.id, e.om, e.tok, e.paced)) =
          (spillToks 17 m.carry).map fun d =>
            (x.tl.nextReq, f.om, some { d with gen := x.gen, iter := x.iter f }, true))) ∧
  (∀ l : List (Nat × BitVec 32), l.length ≤ 136 → (∀ e ∈ l, e.1 ≤ 128) →
    let ks := spillToks 17 l
    ks.length = max 1 ((l.length + 7) / 8) ∧
    ∀ (n : Nat) (k : Tok), ks[n]? = some k → k.dat = true ∧ (k.eos = true ↔ n + 1 = ks.length) ∧
      ∀ j, j < 8 → (laneOf k.val 32 (2 * j), laneOf k.val 32 (2 * j + 1)) =
        match l[8 * n + j]? with
        | some e => (e.1, e.2.toNat)
        | none => (0xFFFFFFFF, 0)) ∧
  ∀ (s : State) (p : Fin 32) (k : Fin 144),
    let q := (s.tile p k).outq
    let c := ((s.pad p).cfgAt k).getD []
    (pacedReady s p k c q 0 = none → exec (.mcarryExpToken p k) s = .next s) ∧
    ∀ e r, q = [e] → e.paced = true → e.tok ≠ none → (s.tile p k).req e.id = some r → fabOpc r.word = 0x87 →
      (∀ n, n < 4 → e.om.getLsbD n = true → e.held.getLsbD n = true ∨ outSpace s p k c n = true) →
      ∃ t, exec (.mcarryExpToken p k) s = .next t ∧ (t.tile p k).outq = [] ∧ Charged s t p k 1 0 ∧ FabricOnly s t
namespace Sys2Proof.Claims

open Sys2Proof.Machine

/-- A vector result in the lane format: the codes of its lanes, its tokens, PU's inputs, 2 units. -/
def VectorResult (i : Instr) (s : State) (f : FabF) (tag : Tag) (v : BitVec 512) (side : BitVec 32) (flag : Bool)
    (flags : BitVec 8) : Prop :=
  Fired i s f { vres := some v, sends := toAll f.om (s.fir.vecTok f tag v side), nonzero := v != 0, flag := flag, ib := 2,
                 flags := flags }

/-- R216, R218: lane l of the result is Round of the exact value es l, the flag says that some lane is infinite or NaN,
and the flags of the lanes' roundings are ORed, with NV where `nv` says so. -/
def Rounded (i : Instr) (s : State) (f : FabF) (es : Nat → Ex) (nv : Bool) : Prop :=
  let x := s.fir
  let rs := (List.range x.lnL).map fun l => x.lfp.round (x.rctx x.rndMode l) (es l)
  VectorResult i s f x.lf (ofLanes x.lnW (rs.map (·.1))) 0 (rs.any fun r => !(x.lfp.dec r.1).isFin)
    (rs.foldl (fun m r => m ||| r.2) 0 ||| flagIf nv flNV)

/-- The rational functions of two lanes (Table 12-2); VFMA also reads c. -/
def lane2Row : Instr → Option (FabF × BitVec 8 × (ℚ → ℚ → ℚ → ℚ))
  | .vadd f => some (f, 0xA0, fun a b _ => a + b)
  | .vsub f => some (f, 0xA1, fun a b _ => a - b)
  | .vmul f => some (f, 0xA2, fun a b _ => a * b)
  | .vfma f => some (f, 0xA3, fun a b c => a * b + c)
  | .vmin f => some (f, 0xA4, fun a b _ => min a b)
  | .vmax f => some (f, 0xA5, fun a b _ => max a b)
  | _ => none

/-- The functions of one lane: what they answer for NaN, the infinities, zeros and negative values, and the exact value
where it is rational (Table 12-2). -/
def lane1Row : Instr → Option (FabF × BitVec 8 × (Ex → Ex → Prop))
  | .vabs f => some (f, 0xA6, fun y e => ∀ r, ratOf y = some r → ratOf e = some |r|)
  | .vneg f => some (f, 0xA7, fun y e => ∀ r, ratOf y = some r → ratOf e = some (-r))
  | .vex2 f => some (f, 0xA8, fun y e => (y = .inf false → e = .inf false) ∧ (y = .inf true → ratOf e = some 0) ∧
      ∀ k : Int, -1024 ≤ k → k ≤ 1024 → ratOf y = some (k : ℚ) → ratOf e = some ((2 : ℚ) ^ k))
  | .vlg2 f => some (f, 0xA9, fun y e => (y = .inf false → e = .inf false) ∧ (y = .inf true → e = .nan) ∧
      (ratOf y = some 0 → e = .inf true) ∧ (∀ r, ratOf y = some r → r < 0 → e = .nan) ∧
      ∀ k : Int, ratOf y = some ((2 : ℚ) ^ k) → ratOf e = some (k : ℚ))
  | .vrcp f => some (f, 0xAA, fun y e => (∀ g, y = .inf g → ratOf e = some 0 ∧ e.neg? = g) ∧
      (ratOf y = some 0 → e = .inf y.neg?) ∧ ∀ r, ratOf y = some r → r ≠ 0 → ratOf e = some (1 / r))
  | .vrsq f => some (f, 0xAB, fun y e => (y = .inf false → ratOf e = some 0) ∧ (y = .inf true → e = .nan) ∧
      (ratOf y = some 0 → e = .inf y.neg?) ∧ (∀ r, ratOf y = some r → r < 0 → e = .nan) ∧
      ∀ k : Int, -128 ≤ k → k ≤ 128 → ratOf y = some ((4 : ℚ) ^ k) → ratOf e = some ((2 : ℚ) ^ (-k)))
  | _ => none

/-- A lane move: the code of lane l of the result (Table 12-3, R219), the flag, and when it is an element trap. -/
structure Move where
  opc : BitVec 8
  trap : Prop
  lane : Nat → Nat
  flag : BitVec 512 → Bool

def moveRow (s : State) : Instr → Option (FabF × Move)
  | .vsel f =>
    let x := s.fir
    let m := x.tl.lc f.pd.toNat
    some (f, { opc := 0xAE, trap := (x.vA f).wrong x.lf ∨ (x.vB f).wrong x.lf, flag := fun _ => false,
               lane := fun l => laneOf (if m.getLsbD (l * 32 / x.lnL) then (x.vA f).v else (x.vB f).v) x.lnW l })
  | .vshf f =>
    let x := s.fir
    let b := x.opB f
    let n := b.toNat / 2 ^ 8 % 128
    let m := b.toNat % 4
    some (f, { opc := 0xAF, flag := fun v => v != 0
               trap := (x.vA f).wrong x.lf ∨ (m = 2 ∧ x.lnL ≤ n) ∨ (m = 3 ∧ x.lnL ≤ 2 ^ n)
               lane := fun l => laneOf (x.vA f).v x.lnW
                 (if m = 0 then (l + n) % x.lnL else if m = 1 then x.lnL - 1 - l else if m = 2 then n else l ^^^ 2 ^ n) })
  | .vbcst f =>
    let x := s.fir
    some (f, { opc := 0xB0, trap := False, lane := fun _ => (x.opB f).toNat % 2 ^ x.lnW, flag := fun v => v != 0 })
  | .vpack f =>
    let x := s.fir
    let b := x.opB f
    let (off, n) := (b.toNat % 128, b.toNat / 2 ^ 8 % 128)
    some (f, { opc := 0xBA, trap := (x.vA f).wrong x.lf ∨ x.lnL < off + n + 1, flag := fun v => v != 0
               lane := fun l => if off ≤ l ∧ l ≤ off + n then laneOf (x.vA f).v x.lnW (l - off) else laneOf (x.vD f) x.lnW l })
  | .vunpk f =>
    let x := s.fir
    let b := x.opB f
    let (off, n) := (b.toNat % 128, b.toNat / 2 ^ 8 % 128)
    some (f, { opc := 0xBB, trap := (x.vA f).wrong x.lf ∨ x.lnL < off + n + 1, flag := fun v => v != 0
               lane := fun l => if l ≤ n then laneOf (x.vA f).v x.lnW (off + l) else 0 })
  | _ => none

/-- The exact lane value of an integer lane instruction and the range it is clamped into (R221). -/
def intRow : Instr → Option (FabF × BitVec 8 × (Nat → Nat → Nat → Int) × (Nat → Option (Int × Int)))
  | .viadd f =>
    let m := f.pd.toNat / 2
    let sub : Int := if f.pd.getLsbD 0 then -1 else 1
    some (f, 0xBD, fun w a b => if m = 1 then sext a w + sub * sext b w else a + sub * b,
      fun w => if m = 1 then some (-2 ^ (w - 1), 2 ^ (w - 1) - 1) else if m = 2 then some (0, 2 ^ w - 1) else none)
  | .vimul f =>
    some (f, 0xBE, fun w a b =>
        if f.pd = 0 then (a : Int) * b else if f.pd = 1 then sext a w * sext b w / 2 ^ w
        else if f.pd = 2 then (a : Int) * b / 2 ^ w else sext a w * sext b w,
      fun w => if f.pd = 3 then some (-2 ^ (w - 1), 2 ^ (w - 1) - 1) else none)
  | _ => none

/-- A value in a range. -/
def clampTo (r : Option (Int × Int)) (v : Int) : Int :=
  match r with
  | some (lo, hi) => max lo (min hi v)
  | none => v

/-- The value of a magnitude code (R49), with the exponent range unbounded (R59): below 2^m a subnormal, else the exponent's
power of two times its significand. -/
def magVal (fp : Fp) (mag : Nat) : ℚ :=
  if mag < 2 ^ fp.m then (mag : ℚ) * (2 : ℚ) ^ (1 - fp.bias - (fp.m : Int))
  else ((2 ^ fp.m + mag % 2 ^ fp.m : Nat) : ℚ) * (2 : ℚ) ^ (((mag / 2 ^ fp.m : Nat) : Int) - fp.bias - (fp.m : Int))

/-- Table 4-6: a magnitude (N + f) × q rounds away from zero. -/
def goesUp (c : RndCtx) (neg : Bool) (n : Nat) (f : ℚ) : Prop :=
  (c.mode = .rne ∧ (1 / 2 < f ∨ (f = 1 / 2 ∧ n % 2 = 1))) ∨ (c.mode = .rup ∧ 0 < f ∧ neg = false) ∨
    (c.mode = .rdn ∧ 0 < f ∧ neg = true) ∨ (c.mode = .sr ∧ 65536 ≤ ⌊f * 65536⌋ + (c.r : Int))

/-- Table 4-7: an overflow of the sign gives infinity, in a format that has one. -/
def toInfinity (mode : Rnd) (neg : Bool) : Bool :=
  mode == .rne || mode == .sr || (mode == .rup && !neg) || (mode == .rdn && neg)

/-- VSUMX's result (R229, R230): 4 units. -/
def SumResult (i : Instr) (s : State) (f : FabF) (v : BitVec 512) (flag : Bool) (flags : BitVec 8) (u : State) : Prop :=
  exec i s = .next (applyEffect f { vres := some v, sends := toAll f.om (s.fir.vecTok f s.fir.lf v), nonzero := v != 0,
                                    flag := flag, ib := 4, flags := flags } u)

end Sys2Proof.Claims

/-! ## Rounding -/

/-- Round of an exact value to each floating-point format (R57 to R59, Tables 4-6 and 4-7): NaN, infinities and zeros; the
neighbour below or above the magnitude by the mode, NX where the value lies between them, UF where it is also below the
smallest normal; an overflow by its table; under STOCH a magnitude below the smallest subnormal by the random word
(R63). Every finite code has the value that its magnitude names (R49). The random word is that of R61. An integer lane takes
the rounded integer, clamped (R222). -/
def Sys2Proof.Claims.Rounding : Prop :=
  (∀ (fp : Fp), fp ∈ [fpFP32, fpBF16, fpE5M2, fpE4M3, fpE2M1] → ∀ (c : RndCtx),
    (∀ code, fp.nan = some code → fp.round c .nan = (code, 0)) ∧ (fp.nan = none → fp.round c .nan = (0, flNV)) ∧
    (∀ neg, fp.round c (.inf neg) = match fp.inf with
      | some code => (fp.sign neg code, 0)
      | none => (fp.sign neg fp.big, flOF)) ∧
    (∀ neg mag, mag ≤ fp.big → (fp.dec (fp.sign neg mag)).neg? = neg ∧
      ratOf (fp.dec (fp.sign neg mag)) = some ((if neg then -1 else 1) * magVal fp mag)) ∧
    ∀ (neg : Bool) (n d : Nat), 0 < d →
      let q : ℚ := (n : ℚ) / (d : ℚ)
      let mu : ℚ := magVal fp 1
      let tiny := c.stoch = true ∧ fp ≠ fpFP32 ∧ q < mu
      (n = 0 → fp.round c (.fin neg n d) = (fp.sign neg 0, 0)) ∧
      (0 < n → tiny → fp.round c (.fin neg n d) =
        (fp.sign neg (if 65536 ≤ ⌊q / mu * 65536⌋ + (c.r : Int) then 1 else 0), flUF ||| flNX)) ∧
      (0 < n → ¬ tiny → ∀ lo, magVal fp lo ≤ q → q < magVal fp (lo + 1) →
        let f : ℚ := (q - magVal fp lo) / (magVal fp (lo + 1) - magVal fp lo)
        ∃ mag, (goesUp c neg lo f → mag = lo + 1) ∧ (¬ goesUp c neg lo f → mag = lo) ∧
          (fp.round c (.fin neg n d)).1 = (if mag ≤ fp.big then fp.sign neg mag
            else match fp.inf with
              | some code => fp.sign neg (if toInfinity c.mode neg then code else fp.big)
              | none => fp.sign neg fp.big) ∧
          (fp.round c (.fin neg n d)).2 = flagIf (decide (0 < f)) flNX |||
            flagIf (decide (0 < f ∧ q < magVal fp (2 ^ fp.m))) flUF ||| flagIf (decide (fp.big < mag)) flOF)) ∧
  (∀ (seed c : BitVec 64),
    let mul := fun (a b : Nat) => a * b % 2 ^ 64
    let z0 := (seed.toNat + mul (c.toNat + 1) 0x9E3779B97F4A7C15) % 2 ^ 64
    let z1 := mul (z0 ^^^ (z0 / 2 ^ 30)) 0xBF58476D1CE4E5B9
    let z2 := mul (z1 ^^^ (z1 / 2 ^ 27)) 0x94D049BB133111EB
    srWord seed c = (z2 ^^^ (z2 / 2 ^ 31)) % 2 ^ 16) ∧
  ∀ (c : RndCtx) (neg : Bool) (n d w : Nat), 0 < d → 0 < w →
    let f : ℚ := (n : ℚ) / (d : ℚ) - ((n / d : Nat) : ℚ)
    ∃ mag : Nat, (goesUp c neg (n / d) f → mag = n / d + 1) ∧ (¬ goesUp c neg (n / d) f → mag = n / d) ∧
      let v : Int := if neg then -mag else mag
      let k := clampTo (some (-2 ^ (w - 1), 2 ^ (w - 1) - 1)) v
      toIntLane c w (.fin neg n d) =
        ((Int.emod k (2 ^ w)).toNat, flagIf (decide (0 < f)) flNX ||| flagIf (decide (k ≠ v)) flSAT)

/-! ## The vector and format class -/

/-- A two-source floating-point lane instruction rounds, lane by lane, the exact sum, difference, product, fused
product and sum, minimum or maximum; an operand that is NaN gives NaN; a head of another TAG is an element trap (R214,
R216, R218). -/
def Sys2Proof.Claims.VectorLanes : Prop :=
  ∀ (i : Instr) (f : FabF) (opc : BitVec 8) (g : ℚ → ℚ → ℚ → ℚ) (s : State), lane2Row i = some (f, opc, g) →
    let x := s.fir
    let (a, b) := (x.vA f, x.vB f)
    let c := fun l => if i = .vfma f then x.lfp.dec (laneOf (x.vD f) x.lnW l) else .fin false 0 1
    let bad := a.wrong x.lf = true ∨ b.wrong x.lf = true
    (bad → FaultsBefore i s opc f cELEMENT 0) ∧
    (¬ bad → ∃ es nv, Rounded i s f es nv ∧
      ((∀ l, l < x.lnL → (a.val x.lw l).isFin ∧ (b.val x.lw l).isFin ∧ (c l).isFin) → nv = false) ∧
      ∀ l, l < x.lnL →
        (∀ p q r, ratOf (a.val x.lw l) = some p → ratOf (b.val x.lw l) = some q → ratOf (c l) = some r →
          ratOf (es l) = some (g p q r)) ∧
        (a.val x.lw l = .nan ∨ b.val x.lw l = .nan ∨ c l = .nan → es l = .nan))

/-- A one-source lane function answers as its row says, NaN for NaN; VSCL multiplies by 2^n (R218, Table 12-2). -/
def Sys2Proof.Claims.VectorFunctions : Prop :=
  (∀ (i : Instr) (f : FabF) (opc : BitVec 8) (g : Ex → Ex → Prop) (s : State), lane1Row i = some (f, opc, g) →
    let x := s.fir
    let b := x.vB f
    (b.wrong x.lf = true → FaultsBefore i s opc f cELEMENT 0) ∧
    (b.wrong x.lf = false → ∃ es nv, Rounded i s f es nv ∧ ∀ l, l < x.lnL →
      g (b.val x.lw l) (es l) ∧ (b.val x.lw l = .nan → es l = .nan))) ∧
  ∀ (f : FabF) (s : State),
    let x := s.fir
    let a := x.vA f
    let n := (x.opB f).toInt
    (a.wrong x.lf = true → FaultsBefore (.vscl f) s 0xAC f cELEMENT 0) ∧
    (a.wrong x.lf = false → ∃ es, Rounded (.vscl f) s f es false ∧
      ∀ l, l < x.lnL → (-1000 ≤ n → n ≤ 1000 → ∀ r, ratOf (a.val x.lw l) = some r → ratOf (es l) = some (r * 2 ^ n)) ∧
        ((a.val x.lw l).isFin = false → es l = a.val x.lw l))

/-- The lane moves take each lane's code from where Table 12-3 says; VLOG combines the 512 bits; VCMP answers one bit
for each lane; VMOV copies a vector and its side bits (R219, R220, R226). -/
def Sys2Proof.Claims.VectorMoves : Prop :=
  (∀ (i : Instr) (f : FabF) (m : Move) (s : State), moveRow s i = some (f, m) →
    let x := s.fir
    let v := ofLanes x.lnW ((List.range x.lnL).map m.lane)
    (m.trap → FaultsBefore i s m.opc f cELEMENT 0) ∧ (¬ m.trap → VectorResult i s f x.lf v 0 (m.flag v) 0)) ∧
  ∀ (f : FabF) (s : State),
    let x := s.fir
    let (a, b) := (x.vA f, x.vB f)
    let v := if f.pd = 0 then a.v &&& b.v else if f.pd = 1 then a.v ||| b.v else if f.pd = 2 then a.v ^^^ b.v
      else a.v &&& ~~~b.v
    VectorResult (.vlog f) s f x.lf v 0 (v != 0) 0 ∧
    (a.wrong x.lf = true ∨ b.wrong x.lf = true → FaultsBefore (.vcmp f) s 0xAD f cELEMENT 0) ∧
    (a.wrong x.lf = false → b.wrong x.lf = false → ∃ r : BitVec 32,
      Fired (.vcmp f) s f { res := some r, sends := toAll f.om (x.fresh f r), nonzero := r != 0, flag := r != 0, ib := 2 } ∧
      ∀ l, l < 32 → r.getLsbD l =
        (decide (l < x.lnL) &&
          (let (p, q) := (a.val x.lw l, b.val x.lw l)
           let un := p.isNan || q.isNan
           if f.pd = 0 then !un && Ex.eq p q else if f.pd = 1 then un || !Ex.eq p q else if f.pd = 2 then !un && Ex.lt p q
           else if f.pd = 3 then !un && !Ex.lt q p else if f.pd = 4 then !un && Ex.lt q p
           else if f.pd = 5 then !un && !Ex.lt p q else if f.pd = 6 then un else !un))) ∧
    (let (w, side, k) :=
      if 12 ≤ f.sb.toNat then
        let m := f.sb.toNat - 12
        (x.tl.vc m, x.tl.lc (m + 4), x.vecTok f x.lf (x.tl.vc m) (x.tl.lc (m + 4)))
      else
        let h := x.tl.head f.sb.toNat
        (h.val, h.side, { h with gen := x.gen, skip := 0 })
     exec (.vmov f) s = .next (applyEffect f
       { vres := some w, sends := toAll f.om k, nonzero := w != 0, flag := w != 0, ib := 2 }
       (if f.dst = 12 then s else s.updTile x.p x.t fun tl => { tl with loc := Tbl.put 0 tl.loc (f.dst.toNat - 8 + 4) side })))

/-- VIADD and VIMUL act on integer lanes, wrapping or clamped; the flag and SAT say that a lane was clamped (R221). -/
def Sys2Proof.Claims.VectorIntegers : Prop :=
  ∀ (i : Instr) (f : FabF) (opc : BitVec 8) (g : Nat → Nat → Nat → Int) (rng : Nat → Option (Int × Int)) (s : State),
    intRow i = some (f, opc, g, rng) →
    let x := s.fir
    let (a, b) := (x.vA f, x.vB f)
    let w := x.lnW
    let exact := fun l => g w (laneOf a.v w l) (laneOf b.v w l)
    let sat := (List.range x.lnL).any fun l => decide (clampTo (rng w) (exact l) ≠ exact l)
    (a.wrong x.lf = true ∨ b.wrong x.lf = true → FaultsBefore i s opc f cELEMENT 0) ∧
    (a.wrong x.lf = false → b.wrong x.lf = false →
      VectorResult i s f x.lf
        (ofLanes w ((List.range x.lnL).map fun l => (Int.emod (clampTo (rng w) (exact l)) (2 ^ w)).toNat)) 0 sat
        (if sat then flSAT else 0))

/-- The conversions: VCVT rounds lane P × Lout + i into lane i of the target format, integers clamped with SAT; VSR
rounds to a narrow format by SR and back to FP32; VLUT decodes Q4 codes; VPS8 multiplies by PS8 codes, or encodes. A
source of a wrong TAG, a multiplier of VPS8 in a v register, which carries no TAG (log 98), a form the target excludes,
or lanes past the source are element traps (R222 to R225). -/
def Sys2Proof.Claims.VectorConversions : Prop :=
  ∀ (f : FabF) (s : State),
    let x := s.fir
    let (a, c) := (x.vA f, x.vB f)
    let b := x.opB f
    (let t := Tag.ofBits (b.extractLsb' 0 3)
     let lout := 512 / t.lane x.lw
     let lin := 512 / a.tag.lane x.lw
     let p := b.toNat / 2 ^ 8 % 16
     let no := fun (t : Tag) => t = .q4 ∨ t = .ps8
     let ctx := fun l => x.rctx (x.modeOf (b.toNat / 2 ^ 4 % 8)) l
     (no t ∨ no a.tag ∨ lin ≤ p * lout → FaultsBefore (.vcvt f) s 0xB3 f cELEMENT 0) ∧
     (¬ no t → ¬ no a.tag → p * lout < lin → ∃ code fl flags,
       VectorResult (.vcvt f) s f t (ofLanes (t.lane x.lw) ((List.range lout).map code)) (if t = .e2m1 then 0x7F7F7F7F else 0)
         fl flags ∧
       ∀ l, l < lout →
         (lin ≤ p * lout + l → code l = 0) ∧
         (p * lout + l < lin → (∀ fp, t.fp = some fp → code l = (fp.round (ctx l) (a.val x.lw (p * lout + l))).1) ∧
           (t = .int → code l = (toIntLane (ctx l) (t.lane x.lw) (a.val x.lw (p * lout + l))).1)))) ∧
    (∀ fp, (Tag.ofBits f.pd).fp = some fp →
      (c.wrong .fp32 = true → FaultsBefore (.vsr f) s 0xB8 f cELEMENT 0) ∧
      (c.wrong .fp32 = false → ∃ fl flags,
        VectorResult (.vsr f) s f x.lf (ofLanes 32 ((List.range 16).map fun l =>
          (fpFP32.round { mode := .rne } (fp.dec (fp.round (x.rctx .sr l) (fpFP32.dec (laneOf c.v 32 l))).1)).1)) 0 fl flags)) ∧
    (let p := b.toNat % 8
     (a.wrong .q4 = true ∨ 128 ≤ p * x.lnL → FaultsBefore (.vlut f) s 0xB6 f cELEMENT 0) ∧
     (a.wrong .q4 = false → p * x.lnL < 128 → ∃ es, Rounded (.vlut f) s f es false ∧ ∀ l, l < x.lnL →
       let q := laneOf a.v 4 (p * x.lnL + l)
       (hdrQ4i x.cfg.hdr = 0 → ratOf (es l) = some ((sext q 4 : Int) : ℚ)) ∧
       (hdrQ4i x.cfg.hdr = 1 → ∀ r, ratOf (fpFP32.dec (x.tl.lc f.pd.toNat).toNat) = some r →
         ratOf (es l) = some (((q : ℚ) - ((b.toNat / 2 ^ 8 % 256 : Nat) : ℚ)) * r)) ∧
       (hdrQ4i x.cfg.hdr = 2 → es l = fpBF16.dec (laneOf (x.tl.vc (f.pd.toNat % 4)) 16 q)))) ∧
    (a.wrong x.lf = true ∨ c.head = false ∨ c.wrong .ps8 = true → FaultsBefore (.vps8Mul f) s 0xB7 f cELEMENT 0) ∧
    (a.wrong x.lf = false → c.head = true → c.wrong .ps8 = false → ∃ es, Rounded (.vps8Mul f) s f es false ∧ ∀ l, l < x.lnL →
      ∀ r k, ratOf (a.val x.lw l) = some r → ratOf (ps8Value (laneOf c.v 8 (f.pd.toNat % 4 * x.lnL + l))) = some k →
        ratOf (es l) = some (r * k)) ∧
    (let n := 512 / c.tag.lane x.lw
     let p := f.pd.toNat % 4
     (n ≤ 64 * p → FaultsBefore (.vps8Enc f) s 0xB7 f cELEMENT 0) ∧
     (64 * p < n → c.tag ≠ .q4 → ∃ code fl flags,
       VectorResult (.vps8Enc f) s f .ps8 (ofLanes 8 ((List.range 64).map code)) 0 fl flags ∧
       ∀ l, l < 64 → 64 * p + l < n → code l = (ps8Encode (c.val x.lw (64 * p + l))).1))

/-- VQMX and VQI4 quantise a block of 32 FP32 elements: the scale is the smallest power of two of R227 and R228, each
element the rounding of its quotient; a NaN gives the scale 0xFF and zeros; the other lanes of v[DST] stay (R227, R228). -/
def Sys2Proof.Claims.VectorQuantisation : Prop :=
  (∀ (f : FabF) (s : State) (mx : Bool),
    let i : Instr := if mx then .vqmx f else .vqi4 f
    let opc : BitVec 8 := if mx then 0xB4 else 0xB5
    let x := s.fir
    let (a, b) := (x.vA f, x.vB f)
    let w := if mx then x.lf.lane 0 else 4
    let j := f.pd.toNat
    (a.wrong .fp32 = true ∨ b.wrong .fp32 = true → FaultsBefore i s opc f cELEMENT 0) ∧
    (a.wrong .fp32 = false → b.wrong .fp32 = false → ∃ v side fl flags u q,
      exec i s = .next (applyEffect f
        { vres := some v, sends := toAll f.om (x.vecTok f (if mx then x.lf else .q4) v side), nonzero := v != 0, flag := fl,
          ib := 2, flags := flags } u) ∧
      (∀ k, k ≠ f.dst.toNat - 8 + 4 → (u.tile x.p x.t).lc k = x.tl.lc k) ∧
      q = quantise (blockEls a b)
        (if mx then fun n d => flog2 n d - (if x.lf = .e4m3 then 8 else 2) else fun n d => clog2 n (7 * d))
        (if mx then fun l v => x.lfp.round (x.rctx x.rndMode (32 * j + l)) v
         else fun l v => toIntLane (x.rctx x.rndMode (32 * j + l)) 4 v)
        (if mx then fun g => x.lfp.sign g x.lfp.big else fun g => if g then 8 else 7) ∧
      v = ofLanes w ((List.range (512 / w)).map fun l =>
        if 32 * j ≤ l ∧ l < 32 * j + 32 then q.2.1.getD (l - 32 * j) 0 else laneOf (x.vD f) w l) ∧
      (j < 4 → (x.lf ≠ .e4m3 ∨ mx = false ∨ j < 2) →
        ((u.tile x.p x.t).lc (f.dst.toNat - 8 + 4)).extractLsb' (8 * j) 8 = BitVec.ofNat 8 q.1))) ∧
  ∀ (l : List Ex) (x0 : Nat → Nat → Int) (rnd : Nat → Ex → Nat × BitVec 8) (top : Bool → Nat),
    let r := quantise l x0 rnd top
    ((∃ e ∈ l, e = .nan) → r.1 = 0xFF ∧ ∀ c ∈ r.2.1, c = 0) ∧
    ((∀ e ∈ l, e.isFin = true) → l ≠ [] →
      let m := amaxOf l
      let k : Int := if m.1 = 0 then 0 else max (-127) (min 127 (x0 m.1 m.2))
      (r.1 : Int) = k + 127 ∧ r.2.1.length = l.length ∧
        ∀ (n : Nat) (e : Ex), l[n]? = some e → r.2.1[n]? = some (rnd n (e.scale (-k))).1)

/-- O44. Exact reduction: VSUMX init makes an empty XACC, acc adds the lanes at the anchor without rounding, fold adds or
subtracts one XACC, out rounds it; VMAXR answers the largest lane, VNF what is in the lanes (R229 to R231). -/
def Obligations.VectorReductions : Prop :=
  ∀ (f : FabF) (s : State),
    let x := s.fir
    let (a, b) := (x.vA f, x.opB f)
    let d := Xacc.read (x.vD f)
    let inRange := fun (n : Int) => -2 ^ 127 ≤ n ∧ n < 2 ^ 127
    SumResult (.vsumxInit f) s f (Xacc.pack { n := 0, anchor := b.setWidth 10, st := .finite }) false 0 s ∧
    (a.head = true → a.tag = .q4 ∨ a.tag = .ps8 → FaultsBefore (.vsumxAcc f) s 0xB1 f cELEMENT 0) ∧
    (a.tag ≠ .q4 → a.tag ≠ .ps8 → ∃ y fl u, SumResult (.vsumxAcc f) s f (Xacc.pack y) (y.st != .finite) fl u ∧
      y.anchor = d.anchor ∧
      let n := 512 / a.tag.lane x.lw
      let cnt := if b.toNat % 256 = 0 then n else min n (b.toNat % 256)
      let sum := d.n + ((List.range cnt).map fun l => truncAt (a.val x.lw l) d.anchor.toInt).sum
      ((∀ l, l < cnt → (a.val x.lw l).isFin = true) → inRange sum → y.n = sum ∧ y.st = d.st ∧ fl = 0 ∧ u = s) ∧
      ((∃ l, l < cnt ∧ a.val x.lw l = .nan) → y.st = .nan)) ∧
    (let e := Xacc.read a.v
     let sum := if b.getLsbD 0 then d.n - e.n else d.n + e.n
     (e.anchor ≠ d.anchor → FaultsBefore (.vsumxFold f) s 0xB1 f cELEMENT 0) ∧
     (e.anchor = d.anchor → ∃ y fl u, SumResult (.vsumxFold f) s f (Xacc.pack y) (y.st != .finite) fl u ∧
       y.anchor = d.anchor ∧ (inRange sum → y.n = sum ∧ u = s) ∧
       (inRange sum → e.st = .finite → y.st = d.st ∧ fl = 0))) ∧
    (let e := Xacc.read a.v
     let r := x.lfp.round (x.rctx (x.modeOf (b.toNat % 8)) 0) e.val
     SumResult (.vsumxOut f) s f (BitVec.ofNat 512 r.1) (e.st != .finite) r.2 s) ∧
    (let c := x.vB f
     let n := 512 / c.tag.lane x.lw
     c.tag ≠ .q4 ∨ hdrQ4i x.cfg.hdr = 0 →
     (∃ m : Ex, ∃ r fl, r = BitVec.ofNat 32 (fpFP32.round (x.rctx .rne 0) m).1 ∧
       Fired (.vmaxr f) s f { res := some r, sends := toAll f.om (x.fresh f r), nonzero := r != 0, flag := r != 0, ib := 2,
                               flags := fl } ∧
       let v := fun l => if f.pd.getLsbD 0 then (c.val x.lw l).abs else c.val x.lw l
       ((∃ l, l < n ∧ (v l).isNan = true) → m = .nan) ∧
       ((∀ l, l < n → (v l).isNan = false) → (∃ l, l < n ∧ m = v l) ∧ ∀ l, l < n → Ex.lt m (v l) = false)) ∧
     (∃ r : BitVec 32,
       Fired (.vnf f) s f { res := some r, sends := toAll f.om (x.fresh f r), nonzero := r != 0,
                             flag := r.toNat % 8 != 0, ib := 2 } ∧
       let v := fun l => c.val x.lw l
       (r.getLsbD 0 = true ↔ ∃ l, l < n ∧ v l = .nan) ∧ (r.getLsbD 1 = true ↔ ∃ l, l < n ∧ v l = .inf false) ∧
       (r.getLsbD 2 = true ↔ ∃ l, l < n ∧ v l = .inf true) ∧ (r.getLsbD 4 = true ↔ ∃ l, l < n ∧ (v l).isZero = true) ∧
       r.toNat / 2 ^ 16 = ((List.range n).filter fun l => !(v l).isFin).length ∧
       ((∀ l, l < n → (v l).isFin = true) → r.toNat / 2 ^ 8 % 256 = 0xFF)))
namespace Sys2Proof.Claims

open Sys2Proof.Machine

/-- The chain of a fabric CHAPP or CHTL may be named by the region's owner (R247, R256). -/
def chainOk (s : State) (c : Nat) (app : Bool) : Prop := chainRefusal s s.fir.p s.fir.reg.owner c app = none

/-- A fabric trap stands on the region, the first of its fc, its report not yet queued, and its element fires nothing more
(R314). -/
def TrapNoted (t : State) (p k rid : Nat) (cause : BitVec 8) (fired : Bool) (detail : BitVec 16) : Prop :=
  (t.tile p k).stopped = true ∧
    ∃ y, (t.region p rid).trap = some y ∧ y.cause = cause ∧ y.tile = k ∧ y.fired = fired ∧ y.detail = detail ∧
      y.reported = false

end Sys2Proof.Claims

/-! ## Fabric instructions of engines, messages, tasks and traps -/

/-- FAB_CHAPP attaches the chain of a[4:0], with its request to complete; a block that may not be attached is an element
trap, a fault in reading it parks the request. FAB_CHTL adds b to TAIL and starts an idle or stopped chain, a distance
beyond 32768 being refused. FAB_CHSQ answers the low 32 bits of a sequence number. A chain that may not be named is an
element trap with its detail code (R247, R249, R250, R256). That a restarted chain with nothing left to run is idle is
the choice of log 72. -/
def Sys2Proof.Claims.FabricChains : Prop :=
  ∀ (f : FabF) (s : State),
    let x := s.fir
    let a := x.opA f
    let b := x.opB f
    let c := a.toNat % 32
    let va := segAddr x.tl b
    let trap := fun (i : Instr) (opc : BitVec 8) (d : Nat) =>
      exec i s = .next (fabricTrap s s.cur.p s.cur.t s.cur.slot (fabPack opc f) false cELEMENT (BitVec.ofNat 16 d) 0 0)
    (∀ d, chainRefusal s x.p x.reg.owner c true = some d → trap (.fabChapp f) 0xE0 d) ∧
    (chainOk s c true → canonical va = false → FaultsBefore (.fabChapp f) s 0xE0 f cXLATE va) ∧
    (chainOk s c true → canonical va = true → va.toNat % 64 ≠ 0 → FaultsBefore (.fabChapp f) s 0xE0 f cMISALIGN va) ∧
    (chainOk s c true → canonical va = true → va.toNat % 64 = 0 → ∀ u, attach s x.p x.reg.owner c va = (.done, u) →
      ∃ t, exec (.fabChapp f) s = .next t ∧ t.chain x.p c = u.chain x.p c ∧
        (∃ r ∈ (t.tile x.p x.t).reqs, r.id = x.tl.nextReq ∧ r.word = fabPack 0xE0 f ∧ r.flag = true ∧ r.st = .going) ∧
        (∀ k, k ≠ c → t.chain x.p k = s.chain x.p k)) ∧
    (chainOk s c true → canonical va = true → va.toNat % 64 = 0 → ∀ d u, attach s x.p x.reg.owner c va = (.refused d, u) →
      exec (.fabChapp f) s =
        .next (fabricTrap u s.cur.p s.cur.t s.cur.slot (fabPack 0xE0 f) false cELEMENT (BitVec.ofNat 16 d) 0 0)) ∧
    (chainOk s c true → canonical va = true → va.toNat % 64 = 0 →
      ∀ cause a k u, attach s x.p x.reg.owner c va = (.fault cause a k, u) → ∃ t, exec (.fabChapp f) s = .next t ∧
        (∃ r ∈ (t.tile x.p x.t).reqs, r.id = x.tl.nextReq ∧ r.word = fabPack 0xE0 f ∧ r.st = .parkedFault cause) ∧
        (∀ k, t.chain x.p k = u.chain x.p k) ∧
        (cause ≠ cECC_UE → (t.tile x.p x.t).et.reported = true)) ∧
    (∀ d, chainRefusal s x.p x.reg.owner c false = some d → trap (.fabChtl f) 0xE1 d) ∧
    (let tail := (s.chain x.p c).tail + b.setWidth 64
     chainOk s c false → 32768 < tail.toNat - (s.chain x.p c).done.toNat → trap (.fabChtl f) 0xE1 0x37) ∧
    (let tail := (s.chain x.p c).tail + b.setWidth 64
     chainOk s c false → tail.toNat - (s.chain x.p c).done.toNat ≤ 32768 →
      ∃ t, exec (.fabChtl f) s = .next t ∧ (t.chain x.p c).tail = tail ∧
        ((s.chain x.p c).st = .idle ∨ (s.chain x.p c).st = .stopped →
          (t.chain x.p c).st = if (s.chain x.p c).next.toNat ≤ tail.toNat then .running else .idle) ∧
        ((s.chain x.p c).st ≠ .idle → (s.chain x.p c).st ≠ .stopped → (t.chain x.p c).st = (s.chain x.p c).st) ∧
        ((t.chain x.p c).done, (t.chain x.p c).next, (t.chain x.p c).cw) =
          ((s.chain x.p c).done, (s.chain x.p c).next, (s.chain x.p c).cw) ∧ SameBytes s t) ∧
    (let n := b.toNat % 32
     let y := s.chain x.p n
     let w : BitVec 64 := if f.pd.toNat % 4 = 0 then y.done else if f.pd.toNat % 4 = 1 then y.tail
       else if f.pd.toNat % 4 = 2 then y.next else chainValue y 3
     (16 < n → trap (.fabChsq f) 0xE2 0x34) ∧
     (n ≤ 16 → Fired (.fabChsq f) s f
       { res := some (w.setWidth 32), sends := toAll f.om (x.fresh f (w.setWidth 32)), nonzero := w.setWidth 32 != (0 : BitVec 32),
         flag := w.setWidth 32 != (0 : BitVec 32) }))

/-- MSEND puts its message into the network for the tile its label is bound to, due 2 + d fc later; an unbound label is
an element trap. MESSAGE_ARRIVE enqueues a message that is due and whose port has room, behind the earlier ones of its sender
to its label, and completes its sender; without room it waits. One whose label is unbound, or whose tile is in no region,
is lost and counted. TAGSET issues its request (R252 to R255). -/
def Sys2Proof.Claims.Messages : Prop :=
  (∀ (f : FabF) (s : State),
    let x := s.fir
    let b := x.opB f
    let label := b.toNat % 128
    (deliverTile s x.p label = none → FaultsBefore (.msend f) s 0xE3 f cELEMENT 0) ∧
    (∀ u, deliverTile s x.p label = some u → ∃ t m, exec (.msend f) s = .next t ∧
      Requests s t f 0xE3 (s.fc x.p + 2 + tileDist x.t u) 1 0 ∧
      (t.pad x.p).msgs = (s.pad x.p).msgs ++ [m] ∧ m.label.toNat = label ∧ m.dest = u ∧ m.src = x.t ∧ m.eos = b.getLsbD 12 ∧
      m.words = x.opA f :: (if b.getLsbD 11 then [x.tl.lc (b.toNat / 2 ^ 8 % 8)] else []) ∧ m.iter = x.iter f ∧
      m.due = s.fc x.p + 2 + tileDist x.t u) ∧
    ∃ t, exec (.tagset f) s = .next t ∧ Requests s t f 0xE4 (s.fc x.p + 1) 1 0) ∧
  ∀ (s : State) (p : Fin 32) (n : Nat),
    let x := s.pad p
    (x.msgs[n]? = none → exec (.messageArrive p n) s = .next s) ∧
    ∀ m, x.msgs[n]? = some m →
      let ready := m.due ≤ s.fc p ∧ ∀ e ∈ x.msgs.take n, ¬ (e.src = m.src ∧ e.label = m.label)
      let bound := (Tbl.get 0 x.msgl m.label.toNat).getLsbD 8 = true ∧ x.regionAt m.dest ≠ none
      let leaves := fun (t : State) (there : Bool) =>
        (t.pad p).msgs = x.msgs.eraseIdx n ∧ FabricOnly s t ∧
          ∀ r, m.req ≠ 0 → (s.tile p m.src).req m.req = some r →
            ∃ y, (t.tile p m.src).req m.req = some y ∧ y.st = .performed ∧ y.flag = there
      (¬ ready → exec (.messageArrive p n) s = .next s) ∧
      (ready → ¬ bound → ∃ t, exec (.messageArrive p n) s = .next t ∧ leaves t false ∧
        ∀ id r, x.regionAt m.dest = some (id, r) → (t.region p id).drop = (s.region p id).drop + 1) ∧
      (ready → bound → x.portRoutes m.dest = [] → exec (.messageArrive p n) s = .next s) ∧
      (ready → bound → ∀ e u b, x.portRoutes m.dest = [e] → routeDest m.dest e = some (u, b) →
        (((s.tile p u).buf b).used + m.words.length ≤ e.depth → ∃ t ks, exec (.messageArrive p n) s = .next t ∧
          leaves t true ∧ ((t.tile p u).buf b).toks = ((s.tile p u).buf b).toks ++ ks ∧ ks.length = m.words.length ∧
          ∀ j k w, ks[j]? = some k → m.words[j]? = some w → k.val.setWidth 32 = w ∧
            (k.eos = true ↔ m.eos = true ∧ j + 1 = m.words.length)) ∧
        (e.depth < ((s.tile p u).buf b).used + m.words.length → exec (.messageArrive p n) s = .next s))

/-- A token over a channel stile reaches the port when it is due and the port has a place, and not before; an output
that has waited STILETMO fc stops its element with STILE_TMO (R323, R325). -/
def Sys2Proof.Claims.StileTokens : Prop :=
  ∀ (s : State) (p : Fin 32) (n : Nat) (k : Fin 144) (o : Fin 4),
    (Tbl.find? s.chStiles n = none → exec (.stileTokenArrive p n) s = .next s) ∧
    (∀ z due d rest, Tbl.find? s.chStiles n = some z → z.rp = p.val → z.flight = (due, d) :: rest →
      (due ≤ s.fc p → z.port.length < 16 →
        ∃ t y, exec (.stileTokenArrive p n) s = .next t ∧ Tbl.find? t.chStiles n = some y ∧ y.flight = rest ∧
          y.port = z.port ++ [{ d with arr := s.fc p }] ∧ (∀ h u, t.tile h u = s.tile h u) ∧ FabricOnly s t) ∧
      (s.fc p < due ∨ 16 ≤ z.port.length → exec (.stileTokenArrive p n) s = .next s)) ∧
    (let w := Tbl.get 0 (s.tile p k).stileWait o
     (w = 0 ∨ w < (s.pad p).stiletmo.toNat → exec (.stileTmo p k o) s = .next s) ∧
     (w ≠ 0 → (s.pad p).stiletmo.toNat ≤ w → ∀ rid r, (s.pad p).regionAt k = some (rid, r) → r.trap = none →
       ∃ t, exec (.stileTmo p k o) s = .next t ∧ TrapNoted t p k rid cSTILE_TMO false 0 ∧ FabricOnly s t))

/-- YIELDE of a task with a continuation makes its yield pending with YCODE b, once; without a task or a continuation
it is an element trap. BUDQ answers a counter of the task, or of the owner, clipped to 32 bits. TRAPE and BRKE fire and
then stop the element, with the detail b[15:0] (R273, R280, R337). -/
def Sys2Proof.Claims.TaskAndTrapFabric : Prop :=
  ∀ (f : FabF) (s : State),
    let x := s.fir
    let b := x.opB f
    (x.reg.task = none → FaultsBefore (.yielde f) s 0xF0 f cELEMENT 0) ∧
    (∀ k, x.reg.task = some k →
      ((s.task x.p k).contpt = 0 → FaultsBefore (.yielde f) s 0xF0 f cELEMENT 0) ∧
      ((s.task x.p k).contpt ≠ 0 → ∃ t, exec (.yielde f) s = .next t ∧ (t.task x.p k).ypend = true ∧
        (t.task x.p k).ycode = (if (s.task x.p k).ypend then (s.task x.p k).ycode else b) ∧
        (∀ j, j ≠ k → t.task x.p j = s.task x.p j) ∧ (∀ h q, t.ctx h q = s.ctx h q) ∧ SameBytes s t)) ∧
    (let (ib, tb) := match x.reg.task with
       | some k => ((s.task x.p k).ibud, (s.task x.p k).tbud)
       | none => ((s.ctx x.p x.reg.owner).ibud, (s.ctx x.p x.reg.owner).tbud)
     let v := budgetSel ib tb (f.pd.toNat % 4)
     let r : BitVec 32 := BitVec.ofNat 32 (min v.toNat (2 ^ 32 - 1))
     Fired (.budq f) s f { res := some r, sends := toAll f.om (x.fresh f r), nonzero := r != 0, flag := r != 0 }) ∧
    ∀ rid r, (s.pad x.p).regionAt x.t = some (rid, r) → r.trap = none → ∀ brk : Bool,
      ∃ t, exec (if brk then .brke f else .trape f) s = .next t ∧
        TrapNoted t x.p x.t rid (if brk then cBREAK else cELEMENT) true (b.setWidth 16) ∧ FabricOnly s t ∧
        (∀ n, (t.tile x.p x.t).lc n = x.tl.lc n)
namespace Sys2Proof.Claims

open Sys2Proof.Machine

/-- The entry operations that move elements, with their events (Table 13-5). -/
def engRow (p : Fin 32) (c : Fin 17) : List (Instr × Nat) :=
  [(.copy p c, 1), (.fill p c, 2), (.conv p c, 3), (.engGath p c, 4), (.engScat p c, 5), (.signal p c, 9)]

/-- The collective operations. -/
def collRow (p : Fin 32) : List (Instr × Nat) := [(.areduce p 16, 6), (.rscat p 16, 7), (.agath p 16, 8)]

/-- What the events of the engines leave alone: tiles' elements, regions, tasks, every other chain. -/
structure EngineOnly (s t : State) (p c : Nat) : Prop where
  chain : ∀ h k, (h, k) ≠ (p, c) → t.chain h k = s.chain h k
  task : ∀ h k, t.task h k = s.task h k
  loc : ∀ h k n, (t.tile h k).lc n = (s.tile h k).lc n
  parts : t.parts = s.parts

/-- The chain halts with a cause and a detail code, its entry dropped (R245). -/
def Halts (s t : State) (p c : Nat) (cause : BitVec 8) (detail : Nat) : Prop :=
  let y := t.chain p c
  y.st = .halted ∧ y.cause = cause ∧ y.detail = BitVec.ofNat 8 detail ∧ y.entry = none ∧ y.done = (s.chain p c).done ∧
    EngineOnly s t p c

/-- A word of 8 bytes written at an address, and no other byte. -/
def Stores (s t : State) (host : Bool) (pa n v : Nat) : Prop :=
  ∀ h a, t.rdByte h a = if h = host ∧ pa ≤ a ∧ a < pa + n then BitVec.ofNat 8 (v / 256 ^ (a - pa)) else s.rdByte h a

/-- A fault of an engine at an access: an address that does not translate pauses the chain, any other fault halts it; no
byte changes (R245). -/
def EngineFaults (i : Instr) (s : State) (p c : Nat) (f : EngFault) : Prop :=
  ∃ t, exec i s = .next t ∧ SameBytes s t ∧
    (f.cause = cXLATE → (t.chain p c).st = .paused ∧ (t.chain p c).elem = (s.chain p c).elem ∧
      (t.chain p c).wrote = (s.chain p c).wrote ∧ EngineOnly s t p c) ∧
    (f.cause ≠ cXLATE → Halts s t p c f.cause f.detail)

/-- The state in which an engine acts, after the free choice of the side that goes first (R184). -/
def afterChoice (s : State) : State := { s with free := s.free + 1 }

/-- The engine of a chain can read: element words are left, that of the next place, u, is not read yet, and no other line of
the side was read in this fc (R243). -/
def ReadsNext (s : State) (p c : Nat) (e : Ent) (u : Nat) : Prop :=
  let x := s.chain p c
  e.reads = true ∧ x.elem < e.units ∧ u = orderAt x.seed e.units x.elem ∧ u ∉ x.ahead ∧
    ∀ l, x.rline = some l → l.1 ≠ s.fc p

/-- The engine of a chain has read all and can write: of the words it writes, `total`, the next one, y, is not written yet,
no other line of the side was written in this fc, and the access writes y alone: a word or more, or the last one left. -/
def WritesNext (s : State) (p c : Nat) (e : Ent) (total y : Nat) : Prop :=
  let x := s.chain p c
  (e.reads = false ∨ e.units ≤ x.elem) ∧ x.wrote < total ∧ y = orderAt (x.seed + 1) total x.wrote ∧ y ∉ x.wahead ∧
    (∀ l, x.wline = some l → l.1 ≠ s.fc p) ∧ (4 ≤ e.dSize ∨ x.wrote + 1 = total)

/-- No uncorrectable error lies in the word of 4 bytes at pa, nor, for elements smaller than a word, in what is read with it. -/
def CleanAt (s : State) (e : Ent) (host : Bool) (pa : Nat) : Prop :=
  ∀ d : Int, -3 ≤ d → d ≤ 3 → d = 0 ∨ e.sSize < 4 → s.badLine host ((pa : Int) + d).toNat = false

end Sys2Proof.Claims

/-! ## Engines -/

/-- One access of an element-moving entry. With no entry of its operation the event does nothing. Elements are accessed by
aligned 32-bit words, each word once on each side, in orders the entry's seed gives and no claim rests on; element n has the
offsets its index vector names. A word read is held; a word held, its element converted by CONV, or one of the value of FILL
and SIGNAL, is stored where its destination lies, and with the last one every element is moved. An address that does not
translate pauses the chain, any other fault halts it, and no byte changes (R185, R238, R239, R243, R245, R390; the cut into
accesses is the reading of log 46). -/
def Sys2Proof.Claims.EngineElements : Prop :=
  (∀ seed total n : Nat, n < total → orderAt seed total n < total) ∧
  (∀ seed total u : Nat, u < total → ∃ n, n < total ∧ orderAt seed total n = u ∧
    ∀ j, j < total → orderAt seed total j = u → j = n) ∧
  (∀ l : List (Nat × Dim), (∀ x ∈ l, x.1 < x.2.ext) →
    dimOffsets (l.map (·.2)) (l.foldr (fun x n => x.1 + x.2.ext * n) 0) =
      ((l.map fun x => (x.1 : Int) * x.2.ss).sum, (l.map fun x => (x.1 : Int) * x.2.ds).sum)) ∧
  ∀ (s : State) (p : Fin 32) (c : Fin 17) (i : Instr) (op : Nat), (i, op) ∈ engRow p c →
    let x := s.chain p c
    let s1 := afterChoice s
    (∀ e, chainEnt x = some e → e.op ≠ op → exec i s = .next s) ∧
    (chainEnt x = none → exec i s = .next s) ∧
    ∀ e u, chainEnt x = some e → e.op = op →
      let (n, w) := (u / e.words, u % e.words)
      (ReadsNext s p c e u → x.held = [] → x.wahead = [] →
        (∀ f s2, elemOffsets s1 p e n = (.error f, s2) → EngineFaults i s p c f) ∧
        ∀ so d s2, elemOffsets s1 p e n = (.ok (so, d), s2) →
          (∀ f, (place s2 p e.spSrc e.src so e.sSize .read).1 = .error f → EngineFaults i s p c f) ∧
          ∀ pa ha, (place s2 p e.spSrc e.src so e.sSize .read).1 = .ok (.mem pa ha) →
            (s.badLine ha (pa + 4 * w) = true → ∃ t, exec i s = .next t ∧ SameBytes s t ∧ Halts s t p c cECC_UE 0) ∧
            (CleanAt s e ha (pa + 4 * w) →
              ∃ t, exec i s = .next t ∧ EngineOnly s t p c ∧ SameBytes s t ∧ (t.chain p c).elem = x.elem + 1 ∧
                (t.chain p c).wrote = x.wrote ∧ (t.chain p c).done = x.done ∧
                ({ unit := u, off := d, val := s.rdNat ha (pa + 4 * w) e.sUnit } : EngWord) ∈ (t.chain p c).held)) ∧
      (WritesNext s p c e e.units u →
        ∀ off v, (if e.reads = true then ∃ h, x.held.find? (·.unit == u) = some h ∧ off = h.off ∧ v = elemValue s p c e n h.val
            else off = (if op = 9 then 0 else (dimOffsets e.dims n).2) ∧
              v = fillValue e / 2 ^ (32 * w) % 2 ^ (8 * e.dUnit)) →
          (∀ f, (destPlace s1 p e off).1 = .error f → EngineFaults i s p c f) ∧
          ∀ pb hb, (destPlace s1 p e off).1 = .ok (.mem pb hb) →
            ∃ t, exec i s = .next t ∧ EngineOnly s t p c ∧ Stores s t hb (pb + 4 * w) e.dUnit v ∧
              (t.chain p c).wrote = x.wrote + 1 ∧ (t.chain p c).elem = x.elem ∧ (t.chain p c).done = x.done ∧
              ((t.chain p c).moved = true ↔ x.wrote + 1 = e.units) ∧
              (x.wrote + 1 = e.units → s.fc p ≤ (t.chain p c).due))

/-- WAITSEQ reads its word, a 32-bit half at a time in either order (R185): with both read, at least the value awaited, the
entry is done, else the chain waits 64 fc and reads it again (R242, Table 13-5). A fault pauses or halts the chain (R245). -/
def Sys2Proof.Claims.WaitSequence : Prop :=
  ∀ (s : State) (p : Fin 32) (c : Fin 17) (e : Ent) (i : Instr),
    (i = .waitseq p c ∧ chainEnt (s.chain p c) = some e ∧ e.op = 10) ∨
      (i = .waitseqReread p c ∧ (s.chain p c).st = .waitSeq ∧ (s.chain p c).due ≤ s.fc p ∧
        ∃ bs, (s.chain p c).entry = some bs ∧ e = Ent.parse bs) →
    let x := s.chain p c
    (∀ f, (place s p e.spSrc e.src 0 8 .read).1 = .error f → EngineFaults i s p c f) ∧
    ∀ pa host, (place s p e.spSrc e.src 0 8 .read).1 = .ok (.mem pa host) → s.badLine host pa = false →
      s.badLine host (pa + 4) = false →
      let half := fun (h : Nat) => s.rdNat host (pa + 4 * h) 4
      (x.held = [] → ∃ t h, exec i s = .next t ∧ SameBytes s t ∧ EngineOnly s t p c ∧ h ≤ 1 ∧ (t.chain p c).st = x.st ∧
        (t.chain p c).held = [{ unit := h, off := 0, val := half h }]) ∧
      ∀ o rest, x.held = o :: rest → o.unit ≤ 1 →
        let whole := if o.unit = 1 then half 0 + 2 ^ 32 * o.val else o.val + 2 ^ 32 * half 1
        ∃ t, exec i s = .next t ∧ SameBytes s t ∧ EngineOnly s t p c ∧ (t.chain p c).held = [] ∧
          (e.dst.toNat ≤ whole → (t.chain p c).st = .running ∧ (t.chain p c).moved = true) ∧
          (whole < e.dst.toNat → (t.chain p c).st = .waitSeq ∧ (t.chain p c).due = s.fc p + 64)

/-- O47. A collective's entry that names no group, or whose chain is no member, halts with ACCESS, detail 0x36. A round does not
begin before every member of the module stands at an operation of the group, and goes on through no gate that is not OPEN;
members that disagree all halt with 0x36. In a round each member reads its elements word by word, contributes them, and stores
its part: for AGATH every member's words at that member's place, for AREDUCE and RSCAT the rounded sum over the members of
the elements truncated at ANCHOR, a NaN giving NaN, as soon as all are contributed. A member that has stored all has performed
the round; the last one ends it and raises the round counter. Sums are exact, so their order does not matter (R184, R185, R237,
R240, R320, R322, R390). The cut into accesses and what a fault of one member does are the readings of logs 45 and 46, members
in other modules those of log 19. -/
def Obligations.CollectivesCombine : Prop :=
  (∀ (s : State) (p : Fin 32) (i : Instr) (op : Nat), (i, op) ∈ collRow p →
    let x := s.chain p 16
    let s1 := afterChoice s
    (chainEnt x = none → exec i s = .next s) ∧
    ∀ e, chainEnt x = some e →
      (e.op ≠ op → exec i s = .next s) ∧
      (e.op = op → Tbl.find? s.groups e.handle = none →
        ∃ t, exec i s = .next t ∧ SameBytes s t ∧ Halts s t p 16 cACCESS 0x36) ∧
      ∀ g, e.op = op → Tbl.find? s.groups e.handle = some g →
        let r := g.members.idxOf p.val
        let gatesOpen := g.n = 1 ∨ ∀ m ∈ g.members, m < 32 → (s.pad m).gate = .open_
        let stands := fun (m : Nat) => collEnt s m e.handle
        let goes := (g.begun = true ∧ r ∉ g.fin ∨ g.begun = false ∧ ∀ m ∈ g.members, m < 32 → stands m ≠ none) ∧ gatesOpen
        let agrees := fun (j m : Nat) => ∀ k, stands m = some k →
          k.op = e.op ∧ k.nd = e.nd ∧ k.dims.map (·.ext) = e.dims.map (·.ext) ∧
            (k.fmt, k.anchor, k.otag, k.omode) = (e.fmt, e.anchor, e.otag, e.omode) ∧ (k.dim 8).ds = (j : Int) ∧
            (k.op = 7 → (k.dim (k.nd - 1)).ext % g.n = 0)
        let unfinished := fun (j m : Nat) => g.members[j]? = some m ∧ m < 32 ∧ ¬ (g.begun = true ∧ j ∈ g.fin)
        let local_ := ∀ m ∈ g.members, m < 32
        (p.val ∉ g.members → ∃ t, exec i s = .next t ∧ SameBytes s t ∧ Halts s t p 16 cACCESS 0x36) ∧
        (p.val ∈ g.members → ¬ goes → exec i s = .next s) ∧
        (p.val ∈ g.members → goes → (∃ j m, unfinished j m ∧ ¬ agrees j m) →
          ∃ t, exec i s = .next t ∧ SameBytes s t ∧ ∀ m ∈ g.members, m < 32 → stands m ≠ none →
            ((t.chain m 16).st, (t.chain m 16).cause, (t.chain m 16).detail) = (.halted, cACCESS, 0x36)) ∧
        (p.val ∈ g.members → goes → local_ → g.n = g.members.length → (∀ j m, unfinished j m → agrees j m) →
          let now := if g.begun then g else g.rest
          let total := collTotal g e
          let s2 := if g.begun then s1 else { s1 with groups := Tbl.set s.groups e.handle { g.rest with begun := true } }
          (∀ u, ReadsNext s p 16 e u → x.wahead = [] → x.wrote < total →
            (let (y, k) := collUnit g e r (orderAt (x.seed + 1) total x.wrote)
             now.contrib (if op = 8 then k else r) y = none) →
            let off := (dimOffsets e.dims (u / e.words)).1
            (∀ f, (place s2 p e.spSrc e.src off e.sSize .read).1 = .error f → EngineFaults i s p 16 f) ∧
            ∀ pa ha, (place s2 p e.spSrc e.src off e.sSize .read).1 = .ok (.mem pa ha) →
              CleanAt s e ha (pa + 4 * (u % e.words)) →
              ∃ t z, exec i s = .next t ∧ SameBytes s t ∧ EngineOnly s t p 16 ∧ (t.chain p 16).elem = x.elem + 1 ∧
                Tbl.find? t.groups e.handle = some z ∧ z.begun = true ∧ z.rounds = g.rounds ∧
                z.contrib r u = some ((now.contrib r u).getD (s.rdNat ha (pa + 4 * (u % e.words)) e.sUnit))) ∧
          ∀ y, g.begun = true → WritesNext s p 16 e total y → e.remote = false →
            let (u, k) := collUnit g e r y
            let off := (dimOffsets e.dims (u / e.words)).2 + (if op = 8 then (k : Int) * (e.dim e.nd).ds else 0)
            ∀ X : Nat → Nat, (op = 8 → g.contrib k u = some (X k)) →
              (op ≠ 8 → ∀ m, m < g.n → g.contrib m u = some (X m) ∧ X m < 2 ^ (8 * e.sSize)) →
              (∀ f, (destPlace s1 p e off).1 = .error f → EngineFaults i s p 16 f) ∧
              ∀ pb hb, (destPlace s1 p e off).1 = .ok (.mem pb hb) →
                let val := fun m => engVal e.fmt (X m)
                let round := fun v => engRound e.otag e.omode (engRnd 0 u g.rounds.toNat 0x1F) v
                let last := x.wrote + 1 = total
                let ends := ∀ j, (∃ m, g.members[j]? = some m ∧ m < 32) → j = r ∨ j ∈ g.fin
                ∃ t v, exec i s = .next t ∧ EngineOnly s t p 16 ∧ Stores s t hb (pb + 4 * (u % e.words)) e.dUnit v ∧
                  (t.chain p 16).wrote = x.wrote + 1 ∧ ((t.chain p 16).moved = true ↔ last) ∧
                  (op = 8 → v = X k) ∧ (op ≠ 8 → (∃ m, m < g.n ∧ val m = .nan) → v = round .nan) ∧
                  (op ≠ 8 → ∀ q : Nat → ℚ, (∀ m, m < g.n → ratOf (val m) = some (q m)) →
                    let sum := ((List.range g.n).map fun m => truncQ (q m / (2 : ℚ) ^ e.anchor.toInt)).sum
                    sum < 2 ^ 127 → -2 ^ 127 ≤ sum → v = round (Ex.ofIntScaled sum e.anchor.toInt)) ∧
                  (last → s.fc p ≤ (t.chain p 16).due) ∧
                  ∃ z, Tbl.find? t.groups e.handle = some z ∧
                    (¬ last → z = g) ∧ (last → ¬ ends → z = { g with fin := g.fin ++ [r] }) ∧
                    (last → ends → z.rounds = g.rounds + 1 ∧ z.begun = false ∧ z.members = g.members))) ∧
  ∀ (l l' : List Ex) (a : Xacc), l.Perm l' →
    (l.foldl Xacc.addVal (a, false)).1 = (l'.foldl Xacc.addVal (a, false)).1

/-- An entry completes: the completion word takes its sequence number, DONE follows, NEXT moves on, the tag of TAGEN is
set, whoever announced it is charged the lines moved (a task whose region a yield has freed, through the late charges), and the chain goes on, idles or stops. A remote write whose peer
refuses halts it; one of no elements asks no peer (R242, R244, R379). -/
def Sys2Proof.Claims.EntryCompletes : Prop :=
  ∀ (s u : State) (p : Fin 32) (c : Fin 17),
    let x := s.chain p c
    let due := x.st = .running ∧ x.moved = true ∧ x.due ≤ s.fc p ∧ (∀ n, x.remoteSent = some n → x.due < n + 2 ^ 20)
    (¬ due ∨ x.entry = none → exec (.chainEntryComplete p c) s = .next s) ∧
    (∀ bs pa host, due → x.entry = some bs →
      let e := Ent.parse bs
      let units := entryUnits s e
      (e.remote = false ∨ e.count = 0) → e.token = false → memPlace s p x.cw 8 .write = (.ok (.mem pa host), u) →
      ∃ t, exec (.chainEntryComplete p c) s = .next t ∧ Stores s t host pa 8 x.next.toNat ∧
        (∀ h k, (h, k) ≠ (p.val, c.val) → t.chain h k = s.chain h k) ∧
        (t.chain p c).done = x.next ∧ (t.chain p c).next = x.next + 1 ∧ (t.chain p c).entry = none ∧
        (t.chain p c).st = (if e.stop then .stopped else if x.next.toNat + 1 ≤ x.tail.toNat then .running else .idle) ∧
        (e.tagen = true → (t.ctx p x.owner).tags.getLsbD e.ctag = true) ∧
        (∀ seq who rest, x.announced = (seq, who) :: rest → x.next.toNat ≤ seq.toNat →
          (∀ q, who = .ctx q →
            (t.ctx p q).tbud = (s.ctx p q).tbud - BitVec.ofNat 64 units ∧ (t.ctx p q).ibud = (s.ctx p q).ibud) ∧
          (∀ r, who = .region r → (s.region p r).alloc = true → units ≠ 0 →
            (t.region p r).charges = addCharge (s.fc p) 0 units (s.region p r).charges) ∧
          (∀ k ser, who = .task k ser →
            (t.pad p).late = (s.pad p).late ++ [(.task k ser, { fc := s.fc p, ib := 0, tb := units })]))) ∧
    ∀ bs, due → x.entry = some bs → (Ent.parse bs).remote = true → (Ent.parse bs).count ≠ 0 →
      ∃ t, exec (.chainEntryComplete p c) s = .next t ∧
        ((SameBytes s t ∧ Halts s t p c cACCESS 0x38) ∨ t = completeEntry { s with free := s.free + 1 } p c (Ent.parse bs))

/-- STAMP_REREAD reads the stamp of the entry at CUR again when it is due: with the entry's stamp its other words are read,
each once, in a free order (R182, R184, R185), and with the last one the entry is checked and starts; without it the chain
waits 64 fc more, and after 64 reads it halts with CHAIN_STALE (R241, R245; the cut into reads is the reading of log 46).
CHAIN_TRANSLATION_RETRY goes on where the chain paused, once the trap was returned from. -/
def Sys2Proof.Claims.ChainRereads : Prop :=
  (∀ (s : State) (p : Fin 32) (c : Fin 17),
    let x := s.chain p c
    let at_ := (afterChoice s).updChain p c fun x => { x with st := .running }
    (x.st ≠ .stampWait ∨ s.fc p < x.due → exec (.stampReread p c) s = .next s) ∧
    (∀ pa host, x.st = .stampWait → x.due ≤ s.fc p → x.curSeq = x.next → x.cur.toNat % 128 = 0 → x.got = [] →
      x.entry = none → x.next.toNat ≤ x.tail.toNat → (memPlace at_ p x.cur 4 .read).1 = .ok (.mem pa host) →
      s.badLine host pa = false →
      let stamp := s.rdNat host pa 4 % 2 ^ 16
      (stamp = x.next.toNat % 2 ^ 16 →
        ∃ t, exec (.stampReread p c) s = .next t ∧ SameBytes s t ∧ EngineOnly s t p c ∧ (t.chain p c).st ≠ .stampWait ∧
          (t.chain p c).done = x.done) ∧
      (stamp ≠ x.next.toNat % 2 ^ 16 → x.tries < 64 →
        ∃ t, exec (.stampReread p c) s = .next t ∧ SameBytes s t ∧ EngineOnly s t p c ∧ (t.chain p c).st = .stampWait ∧
          (t.chain p c).due = s.fc p + 64 ∧ (t.chain p c).tries = x.tries + 1) ∧
      (stamp ≠ x.next.toNat % 2 ^ 16 → 64 ≤ x.tries →
        ∃ t, exec (.stampReread p c) s = .next t ∧ SameBytes s t ∧ Halts s t p c cCHAIN_STALE 0))) ∧
  (∀ (s : State) (p : Fin 32) (c : Fin 17) (pa : Nat) (host : Bool),
    let x := s.chain p c
    let n := x.got.length - 1
    let u := orderAt x.fseed 31 n + 1
    let got := Tbl.set x.got u (BitVec.ofNat 32 (s.rdNat host pa 4))
    let bs := (List.range 32).flatMap fun i => bytesOfNat 4 (Tbl.get 0 got i).toNat
    let e := Ent.parse bs
    x.curSeq = x.next → x.cur.toNat % 128 = 0 → x.got ≠ [] →
    (memPlace s p (x.cur + BitVec.ofNat 64 (4 * u)) 4 .read).1 = .ok (.mem pa host) → s.badLine host pa = false →
    let t := fetchStep s p c
    SameBytes s t ∧ EngineOnly s t p c ∧
    (n < 30 → (t.chain p c).got = got ∧ (t.chain p c).st = x.st ∧ (t.chain p c).entry = x.entry) ∧
    (30 ≤ n → ∀ d, entDetail c e = some d → Halts s t p c cACCESS d) ∧
    (30 ≤ n → entDetail c e = none → (e.op = 4 ∨ e.op = 5 → e.spSrc = false ∧ e.spDst = false) →
      (t.chain p c).st = .running ∧ (t.chain p c).entry = some bs ∧ ((t.chain p c).elem, (t.chain p c).wrote) = (0, 0) ∧
        ((t.chain p c).moved = true ↔ e.count = 0 ∧ e.op ≠ 10 ∧ (e.op < 6 ∨ 8 < e.op)))) ∧
  ∀ (s : State) (p : Fin 32) (c : Fin 17),
    let x := s.chain p c
    exec (.chainTranslationRetry p c) s =
      .next (if x.st = .paused ∧ x.retry = true then s.setChain p c { x with st := .running, retry := false } else s)

/-- A remote write without an answer for 2^20 fc halts its chain with ACCESS, detail 0x38. A remote write that arrives
is performed in the address space of its link window, or, without a window, refused without an effect (R379). -/
def Sys2Proof.Claims.RemoteWrites : Prop :=
  (∀ (s : State) (p : Fin 32) (c : Fin 17),
    let x := s.chain p c
    let late := x.st = .running ∧ x.moved = true ∧ ∃ n, x.remoteSent = some n ∧ n + 2 ^ 20 ≤ x.due ∧ n + 2 ^ 20 ≤ s.fc p
    (¬ late → exec (.remoteWriteTimeout p c) s = .next s) ∧
    (late → ∃ t, exec (.remoteWriteTimeout p c) s = .next t ∧ SameBytes s t ∧ Halts s t p c cACCESS 0x38)) ∧
  ∀ (s : State) (src : BitVec 20) (part : Fin 32) (va : BitVec 64) (bs : List (BitVec 8)),
    ((∀ w ∈ s.linkWins, w.srcMod ≠ src ∨ w.srcPart ≠ part.val) → exec (.remoteWriteReceive src part va bs) s = .next s) ∧
    ∀ w rest pa host, s.linkWins = w :: rest → w.srcMod = src → w.srcPart = part.val → bs ≠ [] → canonical va = true →
      va.toNat % 64 + bs.length ≤ 64 → (xlWalk s w.part w.asid va .write bs.length).1 = .ok pa host →
      ∃ t, exec (.remoteWriteReceive src part va bs) s = .next t ∧ (∀ h q, t.ctx h q = s.ctx h q) ∧
        ∀ h a, t.rdByte h a = if h = host ∧ pa ≤ a ∧ a < pa + bs.length then bs.getD (a - pa) 0 else s.rdByte h a
/-! ## Asynchronous traps, errors, spares, scrubbers -/

/-- The oldest report of a context that stands at an instruction boundary outside a handler, and that no CTXS stops, is
delivered: EPC is the PC, the instruction that waits, or the next one; TCAUSE, TVAL and TVAL2 are the report's, and the
report is gone. The report of a fabric trap carries TRBASE: where TRBASE is not 0 its record is written there first, and
TVAL2[62] says that it could not be written whole; the task of the trapped region is then in STATE 5. A report that waited
behind it, of the same source, becomes pending. Else ASYNC_TRAP_DELIVERY does nothing (R311, R314, R315). When the record is taken is the choice of log 43. -/
def Sys2Proof.Claims.AsyncDelivery : Prop :=
  ∀ (s : State) (p : Fin 32) (q : Fin 4),
    let c := s.ctx p q
    let boundary := (c.wait = .ready ∨ (∃ a m, c.wait = .tags a m) ∨ (∃ n d, c.wait = .wfe n d) ∨
      (∃ d n, c.wait = .gated d (some n) ∧ n ≤ s.now) ∨
      ∃ w n, c.wait = .poll w n ∧ seqOpc w ≠ 0x96 ∧ seqOpc w ≠ 0x97)
    let stopped := ∃ k w n, k < 4 ∧ k ≠ q.val ∧ (s.ctx p k).wait = .poll w n ∧ seqOpc w = 0xA8 ∧
      ((s.ctx p k).opA (seqFields w)).toNat % 4 = q.val
    let open_ := c.halted = false ∧ c.saved = false ∧ c.inTrap = false ∧ boundary ∧ ¬ stopped
    let alone := fun (r : Report) => ∀ e ∈ (s.pad p).behind, e.2.src ≠ r.src
    (∀ r rest, open_ → c.reports = r :: rest → alone r → (∀ rid, r.src ≠ .region rid) ∨ c.trbase = 0 →
      ∃ t, exec (.asyncTrapDelivery p q) s = .next t ∧ (t.ctx p q).reports = rest ∧ (t.ctx p q).wait = .ready ∧
        ((∀ rid, r.src ≠ .region rid) → Enters s t p q c.pc r.cause (some r.tval) (some r.tval2)) ∧
        (∀ rid, r.src = .region rid → Enters s t p q c.pc r.cause (some 0) (some r.tval2) ∧
          ∀ k, (s.region p rid).task = some k → (s.region p rid).st = .trapped → (t.task p k).st = .faulted)) ∧
    (∀ r rest e, open_ → c.reports = r :: rest → (s.pad p).behind.find? (fun e => e.2.src == r.src) = some e → e.1 < 4 →
      ∃ t z, exec (.asyncTrapDelivery p q) s = .next t ∧ (t.pad p).behind = (s.pad p).behind.erase e ∧
        z ∈ (t.ctx p e.1).reports ∧ (z.src, z.cause, z.tval, z.tval2) = (r.src, e.2.cause, e.2.tval, e.2.tval2) ∧
        (t.ctx p q).tcause = r.cause.setWidth 64) ∧
    (∀ r rest rid o u, open_ → c.reports = r :: rest → alone r → r.src = .region rid → c.trbase ≠ 0 →
      writeSome s p c.trbase r.rec_ = (o, u) →
      ∃ t, exec (.asyncTrapDelivery p q) s = .next t ∧ (∀ h a, h = false ∨ c.tvec ≠ 0 → t.rdByte h a = u.rdByte h a) ∧
        let d := t.ctx p q
        d.reports = rest ∧ d.wait = .ready ∧ d.epc = c.pc ∧ d.tcause = r.cause.setWidth 64 ∧ d.tval = c.trbase ∧
          d.tval2 = (if o = none then r.tval2 else r.tval2 ||| BitVec.ofNat 64 (2 ^ 62)) ∧ d.pc = c.tvec ∧ d.inTrap = true ∧
          (∀ n, d.rd n = c.rd n) ∧ (d.halted = true ↔ c.tvec = 0) ∧
          ∀ k, (s.region p rid).task = some k → (s.region p rid).st = .trapped → (t.task p k).st = .faulted) ∧
    (¬ open_ ∨ c.reports = [] → exec (.asyncTrapDelivery p q) s = .next s)

/-- An uncorrectable error in what a tile of a region holds stops the element; the region recovers when its epoch is
neither committed nor replayed, else it takes ECC_UE. The recovery activates the configuration again and serves the
recorded loads, once the region has stopped and the work begun in it has completed as far as it can (R318, R319). -/
def Sys2Proof.Claims.ErrorRecovery : Prop :=
  ∀ (s : State) (p : Fin 32) (r : Fin 16) (k : Fin 144),
    let x := s.region p r
    (x.alloc = false → exec (.regionEccRecovery p r k) s = .next s) ∧
    (x.alloc = true → x.recover = none → inRect x.row0 x.col0 x.h x.w k = true →
      (x.committed = false → x.replayed = false → ∃ t, exec (.regionEccRecovery p r k) s = .next t ∧
        (t.region p r).recover = some (s.fc p) ∧ (t.region p r).trap = x.trap ∧ (t.tile p k).stopped = true ∧ FabricOnly s t) ∧
      (x.committed = true ∨ x.replayed = true → ∀ y, (s.pad p).regionAt k = some (r.val, y) → y.trap = none →
        ∃ t, exec (.regionEccRecovery p r k) s = .next t ∧ TrapNoted t p k r cECC_UE false 0 ∧ FabricOnly s t)) ∧
    (∀ n, x.alloc = true → x.recover = some n → (x.trap ≠ none ∨ s.fc p < n + 2 ∨ workSettled s p x = false) →
      exec (.regionEccRecovery p r k) s = .next s) ∧
    ∀ a n, x.alloc = true → x.recover = some n → x.trap = none → n + 2 ≤ s.fc p →
      (workSettled s p x = true ∨ ∀ j ∈ x.tileList, (s.tile p j).reqs = [] ∧ (s.tile p j).outq = [] ∧ NoMatrixWork s p j) →
      x.committed = false → x.act = some a →
      ∃ t, exec (.regionEccRecovery p r k) s = .next t ∧ FabricOnly s t ∧
        ((t.region p r).act, (t.region p r).replayed, (t.region p r).committed, (t.region p r).recover, (t.region p r).st) =
          (some a, true, false, none, .running) ∧ (t.region p r).runFrom = s.fc p + 1 ∧
        (∀ i, i < x.h →
          let l := s.tile p (tileAt (x.row0 + i) 0)
          (t.tile p (tileAt (x.row0 + i) 0)).et.served =
            (l.et.served.filter fun e => !x.tileList.contains e.tile) ++ l.et.replay.filter fun e => x.tileList.contains e.tile) ∧
        ∀ j ∈ x.tileList, (t.tile p j).reqs = [] ∧ (t.tile p j).outq = [] ∧ (t.tile p j).preds = 0 ∧
          (t.tile p j).stopped = false ∧ ∀ b, ((t.tile p j).buf b).toks = []

/-- The spare of a row moves to the next column that is not retired after 2^SPAREQ cycles. The spare that shadows an
element fires the same slot from its copy of the element's configuration and state and notes whether the destination,
the tokens sent and the predicate update agree, to be compared four fc later. A comparison that is complete and equal
leaves no trace; one that differs marks the element suspect and retires it (R106 to R108, R300). Where a row has no
element left to shadow, what a write of SPAREQ does to the period under way, and that a pin holds no retiring up are the
choices of log 91. -/
def Sys2Proof.Claims.Spares : Prop :=
  (∀ (s : State) (p : Fin 32) (row : Fin 12),
    let x := s.pad p
    let sp : Spare := Tbl.get {} x.spares row
    let due := sp.since + 2 ^ x.spareq.toNat ≤ x.cycle.toNat
    (¬ due → exec (.spareAdvance p row) s = .next s) ∧
    (due → ∃ t, exec (.spareAdvance p row) s = .next t ∧
      (let y : Spare := Tbl.get {} (t.pad p).spares row
       y.since = x.cycle.toNat ∧ y.cmps = sp.cmps ∧ y.copy = none ∧
       (∀ d, d < 12 → (s.tile p (tileAt row ((sp.col + 1 + d) % 12))).retired = false →
         (∀ e, e < d → (s.tile p (tileAt row ((sp.col + 1 + e) % 12))).retired = true) → y.col = (sp.col + 1 + d) % 12) ∧
       ((∀ d, d < 12 → (s.tile p (tileAt row ((sp.col + 1 + d) % 12))).retired = true) → y.col = sp.col)) ∧
      (∀ h k, t.tile h k = s.tile h k) ∧ (∀ h k, t.region h k = s.region h k) ∧ FabricOnly s t) ∧
    ((∀ c ∈ sp.cmps, x.fc < c.due) → exec (.spareCompare p row) s = .next s) ∧
    ∀ c rest, sp.cmps = c :: rest → c.due ≤ x.fc →
      (c.same = true → ∃ t, exec (.spareCompare p row) s = .next t ∧
        (Tbl.get ({} : Spare) (t.pad p).spares row).cmps = rest ∧ (∀ h k, t.tile h k = s.tile h k) ∧
        (∀ h k, t.region h k = s.region h k) ∧ FabricOnly s t) ∧
      (c.same = false → ∃ t, exec (.spareCompare p row) s = .next t ∧ (t.tile p c.tile).retired = true ∧
        (t.tile p c.tile).suspect = true ∧ ∀ h k, (h, k) ≠ (p.val, c.tile) → (t.tile h k).retired = (s.tile h k).retired)) ∧
  ∀ (w : BitVec 64) (run : State → Host.Outcome State Fault Refusal) (s s1 s2 : State),
    let x := s.fir
    let row := tileRow x.t
    let sp : Spare := Tbl.get {} (s.pad x.p).spares row
    let opc := (fabOpc w).toNat
    let shadows := (opc < 0x20 ∨ (0x40 ≤ opc ∧ opc < 0x54)) ∧ sp.col = tileCol x.t ∧ x.tl.retired = false
    (¬ shadows → shadowed w run s = run s) ∧
    (shadows → run s = .next s1 →
      run (s.updTile x.p x.t fun tl => ((if sp.seen = some x.elemSt then sp.copy.getD x.elemSt else x.elemSt).into x.reg tl)) =
        .next s2 →
      ((s1.tile x.p x.t).stopped = true → shadowed w run s = .next s1) ∧
      ((s1.tile x.p x.t).stopped = false → ∃ t, shadowed w run s = .next t ∧ (∀ h k, t.tile h k = s1.tile h k) ∧
        (∀ h k, t.region h k = s1.region h k) ∧ (∀ h q, t.ctx h q = s1.ctx h q) ∧
        let y : Spare := Tbl.get {} (t.pad x.p).spares row
        y.col = sp.col ∧ y.since = sp.since ∧
        y.copy = some (firOf s2 x.p x.t).elemSt ∧ y.seen = some (firOf s1 x.p x.t).elemSt ∧
        ∃ c, y.cmps = sp.cmps ++ [c] ∧ (c.tile, c.slot, c.due) = (x.t, x.slot, s.fc x.p + 4) ∧
          (c.same = true ↔ firedVal s1 x (fabFields w) = firedVal s2 x (fabFields w) ∧
            firedPred s1 x (fabFields w) = firedPred s2 x (fabFields w) ∧
            emitted s1 x (fabFields w).om = emitted s2 x (fabFields w).om)))

/-- A write of ECCMODE's fields: CLR zeroes CECNT, DEC changes the code that lines are rewritten in, until every line
has been visited. A scrub visit changes no value: it repairs the line's, or the scratchpad word's, correctable error and
counts it, and is noted with its fc (R107, R160 to R162). -/
def Sys2Proof.Claims.ErrorControl : Prop :=
  ∀ (s : State) (p : Fin 32),
    (∃ t, exec (.eccmodeClr p) s = .next t ∧ (t.pad p).cecnt = 0 ∧ SameBytes s t ∧
      ({ (t.pad p) with cecnt := (s.pad p).cecnt } : Paddock) = s.pad p) ∧
    (∀ d, ∃ t, exec (.eccmodeDecWrite p d) s = .next t ∧ (t.pad p).dec = d ∧
      (d ≠ (s.pad p).dec → (t.pad p).reenc = true ∧ (t.pad p).reencAt = (s.pad p).scrubAt) ∧
      (d = (s.pad p).dec → t.pad p = s.pad p) ∧ FabricOnly s t) ∧
    ∀ n, n < scrubLines → ∃ t, exec (.scrubVisit p n) s = .next t ∧ FabricOnly s t ∧
      (∀ k w, (t.spad p k).word w = (s.spad p k).word w) ∧ Tbl.get 0 (t.pad p).scrubbed n = (s.pad p).fc ∧
      (n < memLines →
        let line := n + p.val * memLines
        (line ∈ (s.pad p).softLines → line ∉ (t.pad p).softLines ∧
          (t.pad p).cecnt = (if (s.pad p).cecnt = 0xFFFF then 0xFFFF else (s.pad p).cecnt + 1)) ∧
        (line ∉ (s.pad p).softLines → ((t.pad p).softLines, (t.pad p).cecnt) = ((s.pad p).softLines, (s.pad p).cecnt))) ∧
      (memLines ≤ n →
        let k := tileAt ((n - memLines) / 65536) 6
        let w := (n - memLines) % 65536
        (w ∈ (s.spad p k).soft → w ∉ (t.spad p k).soft ∧
          (t.pad p).cecnt = (if (s.pad p).cecnt = 0xFFFF then 0xFFFF else (s.pad p).cecnt + 1)) ∧
        (w ∉ (s.spad p k).soft → (t.pad p).cecnt = (s.pad p).cecnt) ∧ (t.spad p k).usedFc = (s.pad p).fc) ∧
      ((s.pad p).scrubAt = n →
        let next := if n + 1 < scrubLines then n + 1 else 0
        (t.pad p).scrubAt = next ∧ ((t.pad p).reenc = true ↔ (s.pad p).reenc = true ∧ next ≠ (s.pad p).reencAt)) ∧
      ((s.pad p).scrubAt ≠ n → (t.pad p).scrubAt = (s.pad p).scrubAt ∧ (t.pad p).reenc = (s.pad p).reenc)

/-- A reset of a paddock ends CLOSED when its time has come, and not before (R326). -/
def Sys2Proof.Claims.ResetEnds : Prop :=
  ∀ (s : State) (p : Fin 32),
    ((s.pad p).resetDue = none → exec (.paddockResetDone p) s = .next s) ∧
    ∀ due zd, (s.pad p).resetDue = some (due, zd) →
      (s.now < due → exec (.paddockResetDone p) s = .next s) ∧
      (due ≤ s.now → ∃ t, exec (.paddockResetDone p) s = .next t ∧ (t.pad p).gate = .closed ∧ (t.pad p).resetDue = none ∧
        FabricOnly s t ∧ (∀ h k, t.tile h k = s.tile h k) ∧ ∀ h, h ≠ p.val → t.pad h = s.pad h)
namespace Sys2Proof.Claims

open Sys2Proof.Machine

/-- The module has completed its start and accepts every command (R381, R385). -/
def Up (s : State) : Prop := s.boot.power = true ∧ s.boot.stage = 3 ∧ s.nv.safe = false

/-- The status word of the mailbox (R376): status, code and detail. -/
def Status (t : State) (code status detail : Nat) : Prop := t.box.status = BitVec.ofNat 64 (status + code * 256 + detail * 65536)

/-- A command leaves the paddocks, local memory, the start and the module's clock alone. -/
def BoxOnly (s t : State) : Prop :=
  t.pads = s.pads ∧ t.mem = s.mem ∧ t.boot = s.boot ∧ t.now = s.now ∧ t.chStiles = s.chStiles ∧ t.mStiles = s.mStiles

/-- The volatile state of a module that begins a start (R381): nothing but the non-volatile store, host memory, the
environment and the CODE of the last failure stays. -/
structure Begins (s t : State) : Prop where
  pads : t.pads = []
  mem : t.mem = []
  parts : (t.parts, t.roots, t.groups, t.linkWins) = ([], [], [], [])
  stiles : (t.chStiles, t.mStiles) = ([], [])
  box : t.box = {}
  host : t.host = s.host
  stage : (t.boot.power, t.boot.running, t.boot.stage, t.boot.pdown) = (true, 1, 0, 0)
  now : t.now = 0

/-- The start has failed (R383): FAILS rises, up to 3; below 3 the next start begins, at 3 SAFE is set and the module
stays in Stage A. -/
def Fails (s t : State) (code : BitVec 8) : Prop :=
  let n := min 3 (s.nv.fails.toNat + 1)
  t.nv.fails = BitVec.ofNat 2 n ∧ t.boot.code = code ∧ t.pads = [] ∧ t.mem = [] ∧ t.host = s.host ∧ t.nv.image = s.nv.image ∧
    (n < 3 → t.boot.running = 1 ∧ t.boot.stage = 0 ∧ t.nv.safe = s.nv.safe) ∧
    (n = 3 → t.boot.running = 0 ∧ t.boot.stage = 1 ∧ t.nv.safe = true)

end Sys2Proof.Claims

/-! ## The host -/

/-- START on a context page of PF0, or on one of a VF that is enabled for an existing partition, of a halted context whose
launch record reads and passes its checks starts it as R374 says: registers, predicates, tags and trap registers 0,
counters and rights from the record, PC its entry, PRIV from PF0's page, RESULT 1; the regions its RGNA holds draw with the
new SEED (R60). A context that was running at the start of the fc gives RESULT 3, a misaligned record or one that does not
read 4, a record that fails a check 2 (R257, R258, R373, R374). -/
def Sys2Proof.Claims.StartDoorbell : Prop :=
  (∀ (s : State) (m : Fin 32) (q : Fin 4), s.boot.power = true → pageCtx s (pageOf 0 m q) = some (m.val, q.val)) ∧
  (∀ (s : State) (n m : Fin 32) (q : Fin 4) (p : Nat), s.boot.power = true → s.vfs.getLsbD n = true →
    (s.part n).exists_ = true → (s.part n).mask.getLsbD p = true →
    ((List.range p).filter fun k => (s.part n).mask.getLsbD k).length = m →
    pageCtx s (pageOf ⟨n + 1, by omega⟩ m q) = some (p, q.val)) ∧
  (∀ (s : State) (fn : Fin 33) (m : Fin 32) (q : Fin 4), pageCtx s (pageOf fn m q) = none → exec (.start fn m q) s = .next s) ∧
  ∀ (s u : State) (fn : Fin 33) (m p : Fin 32) (q q' : Fin 4), pageCtx s (pageOf fn m q') = some (p.val, q.val) →
    let i := Instr.start fn m q'
    let c := s.ctx p q
    let va : BitVec 64 := (c.subAddr.setWidth 57).signExtend 64
    let ready := (s.pad p).up = true ∧ (s.pad p).gate ≠ .resetting
    let idle := c.halted = true ∨ c.wasHalted = true
    let answers := fun (v : BitVec 8) => ∃ t, exec i s = .next t ∧ (t.ctx p q).result = v ∧
      ((t.ctx p q).halted, (t.ctx p q).pc) = (c.halted, c.pc) ∧ SameBytes s t
    (¬ ready → answers 3) ∧
    (ready → ¬ idle → answers 3) ∧
    (ready → idle → va.toNat % 64 ≠ 0 → answers 4) ∧
    (ready → idle → va.toNat % 64 = 0 →
      (∀ e, readBytes ((wakeCtx s p q).updPad p fun x => { x with gatedF3 := false }) p .read va 128 = (.error e, u) → answers 4) ∧
      ∀ bs, readBytes ((wakeCtx s p q).updPad p fun x => { x with gatedF3 := false }) p .read va 128 = (.ok bs, u) →
        (LaunchRec.parse bs = none → answers 2) ∧
        ∀ r, LaunchRec.parse bs = some r → r.jobj = 0 →
          ∃ t, exec i s = .next t ∧ SameBytes s t ∧
            (let d := t.ctx p q
             (∀ n, d.rd n = 0) ∧ (d.preds, d.tags, d.tvec, d.epc, d.tcause, d.tval, d.tval2) = (0, 0, 0, 0, 0, 0, 0) ∧
             (d.contpt, d.tagmask, d.trbase, d.lrec, d.latch) = (0, 0, 0, c.subAddr, false) ∧
             (d.pc, d.ibud, d.tbud, d.rights, d.launch) = (r.entry, r.ibud, r.tbud, r.rights, r.kept) ∧
             (d.halted, d.inTrap, d.priv, d.result, d.haltCode) = (false, false, decide (fn.val = 0), 1, 0)) ∧
            (∀ n x, Tbl.find? (s.pad p).regions n = some x → x.owner = q.val → x.task = none →
              ∃ y, Tbl.find? (t.pad p).regions n = some y ∧ y.seed = r.kept.seed) ∧
            ∀ p' q', (p', q') ≠ (p.val, q.val) → t.ctx p' q' = s.ctx p' q')

/-- A doorbell to a context is a wake event and no more; TOPI and TOPT of PF0's pages add to a counter, those of a VF's
are ignored; SUBADDR, the mailbox words and the window keep the bits they have, and BOOT_REASON keeps all; the mailbox's
doorbell runs the command that word 0 names on the words as they stand (the model notes that the command comes to run),
a code of none being refused (log 56); an ATS
invalidation drops the cached translations it covers and no other (R371 to R377, R384). -/
def Sys2Proof.Claims.HostWrites : Prop :=
  ∀ (s : State) (p : Fin 32) (q : Fin 4) (g : CtxPage) (v : BitVec 64), s.boot.power = true →
    pageCtx s g = some (p.val, q.val) →
    ((s.pad p).up = true → (s.pad p).gate ≠ .resetting →
      ∃ t, exec (.doorbellWake g.fn g.page) s = .next t ∧ (t.ctx p q).latch = true ∧ (t.ctx p q).pc = (s.ctx p q).pc ∧
        (t.ctx p q).halted = (s.ctx p q).halted ∧ SameBytes s t) ∧
    ((s.pad p).up = false ∨ (s.pad p).gate = .resetting →
      ∃ t, exec (.doorbellWake g.fn g.page) s = .next t ∧ (t.ctx p q).result = 3 ∧ (t.ctx p q).latch = (s.ctx p q).latch ∧
        SameBytes s t) ∧
    (g.fn.val ≠ 0 → ∀ i ∈ [Instr.topi g.fn g.page v, .topt g.fn g.page v], exec i s = .next s) ∧
    (g.fn.val = 0 → 2 ^ 62 ≤ v.toNat → ∀ i ∈ [Instr.topi g.fn g.page v, .topt g.fn g.page v],
      ∃ t, exec i s = .next t ∧ (t.ctx p q).result = 5 ∧
        ((t.ctx p q).ibud, (t.ctx p q).tbud) = ((s.ctx p q).ibud, (s.ctx p q).tbud)) ∧
    (g.fn.val = 0 → v.toNat < 2 ^ 62 →
      (∃ t, exec (.topi g.fn g.page v) s = .next t ∧ (t.ctx p q).ibud = (s.ctx p q).ibud + v ∧
        (t.ctx p q).tbud = (s.ctx p q).tbud) ∧
      ∃ t, exec (.topt g.fn g.page v) s = .next t ∧ (t.ctx p q).tbud = (s.ctx p q).tbud + v ∧
        (t.ctx p q).ibud = (s.ctx p q).ibud) ∧
    (∃ t, exec (.registerWrite (.subaddr g) v) s = .next t ∧ (t.ctx p q).subAddr.toNat = v.toNat % 2 ^ 57) ∧
    (∀ w : Fin 8, ∃ t, exec (.registerWrite (.mailbox w) v) s = .next t ∧ Tbl.get 0 t.box.words w = v ∧ BoxOnly s t) ∧
    (∃ t, exec (.registerWrite .mwbase v) s = .next t ∧ t.box.mwbase = v &&& 0xFFFFFFFFFFFFF000 ∧ BoxOnly s t) ∧
    (∃ t, exec (.registerWrite .mwsize v) s = .next t ∧ t.box.mwsize = v &&& 0xFFFFFFFFFFFFF000 ∧ BoxOnly s t) ∧
    (let w := fun (n : Nat) => (Tbl.get 0 s.box.words n : BitVec 64)
     let m : Mbox := { w1 := w 1, w2 := w 2, w3 := w 3, w4 := w 4, w5 := w 5, w6 := w 6, w7 := w 7 }
     (∀ i code, (i, code) ∈ [(Instr.setroot m, 1), (.bindpart m, 2), (.inval m, 3), (.hostwin m, 4), (.group m, 5),
        (.linkwin m, 6), (.restart m, 7), (.propose m, 8), (.notice m, 9), (.attest m, 10), (.fwstage m, 11),
        (.reboot m, 12), (.ident m, 13), (.plimit m, 14)] → (w 0).toNat % 256 = code →
        exec (.registerWrite .doorbell v) s =
          .next { s with agenda := .run i :: s.agenda, box := { s.box with late := s.box.late + 1 } }) ∧
     ((w 0).toNat % 256 = 0 ∨ 14 < (w 0).toNat % 256 →
        ∃ t, exec (.registerWrite .doorbell v) s = .next t ∧ Status t ((w 0).toNat % 256) 1 0 ∧ BoxOnly s t ∧ t.agenda = s.agenda)) ∧
    exec (.registerWrite .bootReason v) s = .next s ∧
    ∀ (pasid : BitVec 20) (va size : BitVec 64), ∃ t, exec (.atsInvalidation pasid va size) s = .next t ∧ SameBytes s t ∧
      (∀ h k, t.ctx h k = s.ctx h k) ∧
      ∀ h e, e ∈ (t.pad h).tlb ↔ e ∈ (s.pad h).tlb ∧
        ¬ (e.leaf.getLsbD 7 = true ∧ (∃ y ∈ s.parts, y.2.bound = true ∧ y.2.pasid = pasid ∧ y.2.asid = e.asid) ∧
           ((e.base.toNat < va.toNat + size.toNat ∧ va.toNat < e.base.toNat + e.size) ∨
            (e.leaf.toNat / 4096 * 4096 < va.toNat + size.toNat ∧ va.toNat < e.leaf.toNat / 4096 * 4096 + e.size)))

/-- The mailbox's commands that name address spaces, partitions and windows have their effect and answer status 0, or
are refused with status 1 and no effect (R158, R240, R376, R379). That a partition that is not formed yet is bound, too,
is the choice of log 97. -/
def Sys2Proof.Claims.SpaceCommands : Prop :=
  ∀ (s : State) (m : Mbox), Up s →
    let n := m.w1.toNat
    (∃ t, exec (.setroot m) s = .next t ∧ Status t 1 0 0 ∧ BoxOnly s t ∧
      Tbl.find? t.roots (n % 65536) = some m.w2 ∧ ∀ a, a ≠ n % 65536 → Tbl.find? t.roots a = Tbl.find? s.roots a) ∧
    (n < 32 → ∃ t, exec (.bindpart m) s = .next t ∧ Status t 2 0 0 ∧ BoxOnly s t ∧
      t.part n = { s.part n with asid := m.w2.setWidth 16, pasid := m.w3.setWidth 20, link := m.w4.getLsbD 0, bound := true } ∧
      ∀ k, k ≠ n → t.part k = s.part k) ∧
    (∃ t, exec (.inval m) s = .next t ∧ Status t 3 0 0 ∧ SameBytes s t ∧ (∀ h k, t.ctx h k = s.ctx h k) ∧
      let v := m.w2.toNat % 2 ^ 57
      ∀ h e, e ∈ (t.pad h).tlb ↔ e ∈ (s.pad h).tlb ∧
        ¬ (e.asid = m.w1.setWidth 16 ∧ e.base.toNat < v + m.w3.toNat ∧ v < e.base.toNat + e.size)) ∧
    (n < 32 → m.w2.toNat ≤ 15 → ∃ t, exec (.hostwin m) s = .next t ∧ Status t 4 0 0 ∧ BoxOnly s t ∧
      Tbl.find? (t.part n).wins m.w2.toNat =
        (if m.w4 = 0 then none else some { base := m.w3, size := m.w4, write := m.w5.getLsbD 0 }) ∧
      ∀ k, k ≠ m.w2.toNat → Tbl.find? (t.part n).wins k = Tbl.find? (s.part n).wins k) ∧
    (inWindow s m.w3.toNat (8 * m.w2.toNat) = true → ∃ t, exec (.group m) s = .next t ∧ Status t 5 0 0 ∧ BoxOnly s t ∧
      Tbl.find? t.groups (n % 2 ^ 32) = some
        { n := m.w2.toNat, members := (List.range m.w2.toNat).map fun i => s.rdNat true (m.w3.toNat + 8 * i) 8 }) ∧
    (n < 32 → ∃ t, exec (.linkwin m) s = .next t ∧ Status t 6 0 0 ∧ BoxOnly s t ∧
      ∀ w : LinkWin, w ∈ t.linkWins ↔
        w = { part := n, srcMod := m.w2.setWidth 20, srcPart := m.w3.toNat % 32, asid := m.w4.setWidth 16 } ∨
        (w ∈ s.linkWins ∧ (w.srcMod ≠ m.w2.setWidth 20 ∨ w.srcPart ≠ m.w3.toNat % 32))) ∧
    (32 ≤ n → ∀ i ∈ [(Instr.bindpart m, 2), (.hostwin m, 4), (.linkwin m, 6)],
      ∃ t, exec i.1 s = .next t ∧ Status t i.2 1 0 ∧ BoxOnly s t ∧ t.parts = s.parts ∧ t.linkWins = s.linkWins) ∧
    (n < 32 → 15 < m.w2.toNat → ∃ t, exec (.hostwin m) s = .next t ∧ Status t 4 1 0 ∧ BoxOnly s t ∧ t.parts = s.parts) ∧
    (inWindow s m.w3.toNat (8 * m.w2.toNat) = false →
      ∃ t, exec (.group m) s = .next t ∧ Status t 5 1 0 ∧ BoxOnly s t ∧ t.groups = s.groups)

/-- RESTART runs a halted context from EPC; NOTICE sets the halt-notice ring; PLIMIT takes 1,200 to 2,200 W; PROPOSE
outside the window is refused, and without a journal area answers the status of R307 (R313, R376, R388, R393). -/
def Sys2Proof.Claims.ControlCommands : Prop :=
  ∀ (s : State) (m : Mbox), Up s →
    (∀ (p : Fin 32) (q : Fin 4), m.w1.toNat = p.val → m.w2.toNat = q.val → (s.pad p).up = true →
      ((s.ctx p q).halted = true → (s.pad p).gate ≠ .resetting → ∃ t, exec (.restart m) s = .next t ∧ Status t 7 0 0 ∧ SameBytes s t ∧
        ((t.ctx p q).halted, (t.ctx p q).haltCode, (t.ctx p q).pc, (t.ctx p q).wait) = (false, 0, (s.ctx p q).epc, .ready) ∧
        ∀ p' q', (p', q') ≠ (p.val, q.val) → t.ctx p' q' = s.ctx p' q') ∧
      ((s.ctx p q).halted = false ∨ (s.pad p).gate = .resetting →
        ∃ t, exec (.restart m) s = .next t ∧ Status t 7 1 0 ∧ BoxOnly s t)) ∧
    (let a := m.w1.toNat
     let n := m.w2.toNat
     let ok := 4 ≤ n ∧ n ≤ 12 ∧ inWindow s a 64 = true ∧ inWindow s (s.rdNat true a 8) (32 * 2 ^ n) = true
     (ok → ∃ t, exec (.notice m) s = .next t ∧ Status t 9 0 0 ∧ BoxOnly s t ∧ t.box.ring = some (m.w1, n)) ∧
     (¬ ok → ∃ t, exec (.notice m) s = .next t ∧ Status t 9 1 0 ∧ BoxOnly s t ∧ t.box.ring = s.box.ring)) ∧
    (let w := m.w1.toNat
     (1200 ≤ w → w ≤ 2200 → ∃ t, exec (.plimit m) s = .next t ∧ Status t 14 0 0 ∧ BoxOnly s t ∧ t.plim = w) ∧
     (w < 1200 ∨ 2200 < w → ∃ t, exec (.plimit m) s = .next t ∧ Status t 14 1 0 ∧ BoxOnly s t ∧ t.plim = s.plim)) ∧
    (inWindow s m.w2.toNat 64 = false → ∃ t, exec (.propose m) s = .next t ∧ Status t 8 1 0 ∧ BoxOnly s t ∧ t.parts = s.parts) ∧
    (inWindow s m.w2.toNat 64 = true →
      ((s.jr m.w1.toNat).area = none → ∃ t, exec (.propose m) s = .next t ∧ Status t 8 1 0 ∧ BoxOnly s t ∧ t.parts = s.parts ∧
        Tbl.get 0 t.box.words 7 = jStatus 5 (s.jr m.w1.toNat).last) ∧
      ((s.jr m.w1.toNat).area.isSome = true → m.w2.toNat % 64 = 0 → ∀ idx after deps u seq,
        parseRequest (s.rdBytes true m.w2.toNat 64) = some (idx, after, deps) →
        propose (boxWords s 8 m) m.w1.toNat idx after deps 3 = (.done seq, u) →
        ∃ t, exec (.propose m) s = .next t ∧ Status t 8 0 0 ∧ Tbl.get 0 t.box.words 7 = jStatus 0 seq ∧ t.parts = u.parts))

/-- The commands of trust: ATTEST writes its report, IDENT the certificates, FWSTAGE an image that verifies; each is
refused outside its window; REBOOT begins a start, with RETRY clearing FAILS and SAFE first (R383, R385, R386). -/
def Sys2Proof.Claims.TrustCommands : Prop :=
  ∀ (s : State) (m : Mbox), s.boot.power = true →
    let a := m.w1.toNat
    let n := m.w2.toNat
    (let ok := inWindow s a 32 = true ∧ inWindow s n m.w3.toNat = true
     (ok → ∃ t r, exec (.attest m) s = .next t ∧ r = attestReport (boxWords s 10 m) (s.rdBytes true a 32) ∧
       (r.length ≤ m.w3.toNat → Status t 10 0 0 ∧ ∀ h k, t.rdByte h k =
         if h = true ∧ n ≤ k ∧ k < n + r.length then r.getD (k - n) 0 else s.rdByte h k) ∧
       (m.w3.toNat < r.length → Status t 10 1 0 ∧ SameBytes s t)) ∧
     (¬ ok → ∃ t, exec (.attest m) s = .next t ∧ Status t 10 1 0 ∧ BoxOnly s t ∧ SameBytes s t)) ∧
    (inWindow s a n = true → ∃ t, exec (.fwstage m) s = .next t ∧ BoxOnly s t ∧
      let bs := s.rdBytes true a n
      (imageFaults s bs = [] → Status t 11 0 0 ∧ t.nv = { s.nv with image := some bs }) ∧
      (imageFaults s bs ≠ [] → Status t 11 1 0 ∧ t.nv = s.nv)) ∧
    (inWindow s a n = false → ∀ i ∈ [(Instr.fwstage m, 11), (.ident m, 13)],
      ∃ t, exec i.1 s = .next t ∧ Status t i.2 1 0 ∧ BoxOnly s t ∧ t.nv = s.nv ∧ SameBytes s t) ∧
    (inWindow s a n = true → ∃ t, exec (.ident m) s = .next t ∧ t.nv = s.nv ∧
      (Config.identCerts.length ≤ n → Status t 13 0 0 ∧ ∀ h k, t.rdByte h k =
        if h = true ∧ a ≤ k ∧ k < a + Config.identCerts.length then Config.identCerts.getD (k - a) 0 else s.rdByte h k) ∧
      (n < Config.identCerts.length → Status t 13 1 0 ∧ SameBytes s t)) ∧
    ∃ t, exec (.reboot m) s = .next t ∧ Status t 12 0 0 ∧ t.pads = [] ∧ t.mem = [] ∧ t.host = s.host ∧
      (t.boot.power, t.boot.running, t.boot.stage) = (true, 1, 0) ∧ t.nv.image = s.nv.image ∧
      (t.nv.fails, t.nv.safe) = (if m.w1.getLsbD 0 then (0, false) else (s.nv.fails, s.nv.safe))

/-- While SAFE is 1 only the commands of Table 25-3 are accepted; the others wait until Stage C ends, in Stage A too (R377,
R381, R383, R385). -/
def Sys2Proof.Claims.CommandGates : Prop :=
  ∀ (s : State) (m : Mbox), s.boot.power = true →
    ∀ i ∈ [(Instr.setroot m, 1), (.bindpart m, 2), (.inval m, 3), (.hostwin m, 4), (.group m, 5), (.linkwin m, 6),
        (.restart m, 7), (.propose m, 8)],
      (s.nv.safe = true → ∃ t, exec i.1 s = .next t ∧ Status t i.2 1 0 ∧ BoxOnly s t ∧ t.parts = s.parts ∧
        t.roots = s.roots ∧ t.waiting = s.waiting) ∧
      (s.boot.stage.toNat < 3 → s.nv.safe = false →
        ∃ t, exec i.1 s = .next t ∧ t.waiting = s.waiting ++ [i.1] ∧ t.box.status = s.box.status ∧ BoxOnly s t ∧
          t.parts = s.parts ∧ t.roots = s.roots)

/-! ## The start -/

/-- Power and resets: POWER_ON begins a start of a module without power, FUNDAMENTAL_RESET of one with power, POWER_OFF
loses everything volatile; a stage past its limit fails the start with its code (R381, R383). -/
def Sys2Proof.Claims.PowerAndReset : Prop :=
  ∀ (s : State),
    (s.boot.power = false → ∃ t, exec .powerOn s = .next t ∧ Begins s t ∧ t.nv = s.nv ∧ t.boot.code = 0) ∧
    (s.boot.power = true → exec .powerOn s = .next s) ∧
    (s.boot.power = true → ∃ t, exec .fundamentalReset s = .next t ∧ Begins s t ∧ t.nv = s.nv ∧ t.boot.code = s.boot.code) ∧
    (s.boot.power = false → exec .fundamentalReset s = .next s) ∧
    (∃ t, exec .powerOff s = .next t ∧ t.boot.power = false ∧ t.pads = [] ∧ t.mem = [] ∧ t.host = s.host ∧ t.nv = s.nv) ∧
    (overdue s = false → exec .stageLimitExpiry s = .next s) ∧
    (overdue s = true → ∃ t, exec .stageLimitExpiry s = .next t ∧ Fails s t (0x1F + s.boot.running.setWidth 8))

/-- A stage that ends within its limit: Stage A brings up the mailbox and Stage B begins when the image verifies, and
the start fails with a code of the image's faults when it does not, which one being the choice of log 57; Stage B notes
as down the eight paddocks of a failed die spine and every paddock with a channel that did not train; with no spine left
the start fails with 0x10, with no channel trained with 0x11. Stage C brings up the others at F0 with their gates CLOSED and
their contexts halted, clears FAILS and CODE, and runs the commands that waited; with every paddock down the start fails
(R11, R381 to R384). -/
def Sys2Proof.Claims.StageEnds : Prop :=
  ∀ (s : State) (f : StageFaults), s.boot.power = true → overdue s = false →
    let i := Instr.stageComplete f
    let noSpine := f.spines = BitVec.allOnes 4
    let noChannel := f.channels = BitVec.allOnes 256
    let pdown := s.boot.pdown ||| f.pads
    (s.boot.running = 0 → exec i s = .next s) ∧
    (s.boot.running = 1 → s.nv.safe = true → ∃ t, exec i s = .next t ∧
      (t.boot.stage, t.boot.running) = (1, 0) ∧ t.nv = s.nv) ∧
    (s.boot.running = 1 → s.nv.safe = false → ∃ t, exec i s = .next t ∧
      (imageFaults s s.flash = [] → (t.boot.stage, t.boot.running, t.boot.since) = (1, 2, s.now) ∧
        t.secver = Config.imageSecVer s.flash ∧ t.nv.fails = s.nv.fails) ∧
      (imageFaults s s.flash ≠ [] → ∃ c ∈ imageFaults s s.flash, Fails s t c)) ∧
    (s.boot.running = 2 → ¬ noSpine → ¬ noChannel → ∃ t, exec i s = .next t ∧
      (t.boot.stage, t.boot.running, t.boot.since) = (2, 3, s.now) ∧ t.pads = s.pads ∧
      ∀ p, p < 32 → (t.boot.pdown.getLsbD p = true ↔
        s.boot.pdown.getLsbD p = true ∨ f.spines.getLsbD (p / 8) = true ∨ ∃ k, k < 8 ∧ f.channels.getLsbD (8 * p + k) = true)) ∧
    (s.boot.running = 2 → noSpine ∨ noChannel → ∃ t c, exec i s = .next t ∧ Fails s t c ∧
      (noSpine ∧ c = 0x10 ∨ noChannel ∧ c = 0x11)) ∧
    (s.boot.running = 3 → pdown = BitVec.allOnes 32 → ∃ t, exec i s = .next t ∧ Fails s t 0x23) ∧
    (s.boot.running = 3 → pdown ≠ BitVec.allOnes 32 → ∃ t, exec i s = .next t ∧
      (t.boot.stage, t.boot.running, t.boot.code, t.nv.fails) = (3, 0, 0, 0) ∧ t.waiting = [] ∧
      t.agenda = s.waiting.map Act.run ++ s.agenda ∧ t.mem = s.mem ∧
      ∀ p, p < 32 →
        (pdown.getLsbD p = true → (t.pad p).up = false ∧ (t.pad p).down = true) ∧
        (pdown.getLsbD p = false → (t.pad p).up = true ∧ (t.pad p).gate = .closed ∧ (t.pad p).freq = .f0 ∧
          ∀ q, q < 4 → (t.ctx p q).halted = true))

/-- A host link trains in FLIT mode, at a rate and width of Table 24-1 (their coding is that of log 13), or stays down;
a link's IDE keys are added once; VF n + 1 is enabled only while partition n exists (R370, R371). -/
def Sys2Proof.Claims.LinksAndFunctions : Prop :=
  ∀ (s : State) (l : Fin 2) (rate width stream : BitVec 8) (n : Fin 32), s.boot.power = true →
    let y : HostLink := Tbl.get {} s.links l.val
    let ok := 1 ≤ rate.toNat ∧ rate.toNat ≤ 7 ∧ width.toNat ∈ [1, 2, 4, 8, 16]
    (ok → ∃ t, exec (.hostLinkTraining l true rate width) s = .next t ∧ BoxOnly s t ∧
      Tbl.get {} t.links l.val = { up := true, rate := rate, width := width }) ∧
    (∀ flit, flit = false ∨ ¬ ok →
      ∃ t, exec (.hostLinkTraining l flit rate width) s = .next t ∧ BoxOnly s t ∧ (Tbl.get {} t.links l.val).up = false) ∧
    (y.up = true → stream ∉ y.ide → ∃ t, exec (.ideKm l stream) s = .next t ∧ BoxOnly s t ∧
      Tbl.get {} t.links l.val = { y with ide := y.ide ++ [stream] }) ∧
    (y.up = false ∨ stream ∈ y.ide → exec (.ideKm l stream) s = .next s) ∧
    ((s.part n).exists_ = false → exec (.vfEnable n true) s = .next s) ∧
    ((s.part n).exists_ = true → ∃ t, exec (.vfEnable n true) s = .next t ∧ t.vfs.getLsbD n = true ∧ BoxOnly s t ∧
      ∀ k, k ≠ n.val → t.vfs.getLsbD k = s.vfs.getLsbD k) ∧
    ∃ t, exec (.vfEnable n false) s = .next t ∧ t.vfs.getLsbD n = false ∧ BoxOnly s t

namespace Sys2Proof.Claims

open Sys2Proof.Machine

/-- The CSRs whose reset value a table of the spec states, with it, for context q of paddock p (Tables 5-1, 5-2, 14-2,
16-2, 9-4, 15-1 and their like). -/
def resetCsrs (p q : Nat) : List (Nat × Nat) :=
  [(0x000, p * 256 + q * 16), (0x001, 0), (0x002, 0), (0x003, 0), (0x004, 0), (0x005, 0), (0x008, 0), (0x010, 0),
   (0x011, 0), (0x012, 0), (0x013, 0), (0x014, 0), (0x015, 0), (0x016, 0), (0x017, 0), (0x020, 0), (0x021, 0), (0x030, 1),
   (0x031, 1), (0x032, 1), (0x033, 1), (0x034, 8), (0x036, 26 * 256), (0x050, 0), (0x060, 144 * 65536)]

/-- What the deficits of a paddock become before the choice of R74, k rounds of weights added to the ready contexts. -/
def deficitOf (x : Paddock) (k : Nat) (q : Fin 4) : Int :=
  let w : Int := (16 * (Tbl.get 1 x.lqw q.val).toNat : Nat)
  if x.isReady q then (x.ctx q).deficit + k * w else min (x.ctx q).deficit w

end Sys2Proof.Claims

/-! ## Decoding, fetching and steps -/

/-- O54. Decoding and encoding agree: a well-formed instruction that has a word is what its word decodes to, and a word that
decodes is the word of the well-formed instruction it decodes to (R25, R28, R29, R31). -/
def Obligations.DecodeAndEncodeAgree : Prop :=
  (∀ (i : Instr) (w : BitVec 64), i.wf = true → encode i = some w → decode w = some i) ∧
  (∀ (w : BitVec 64) (i : Instr), decode w = some i → i.wf = true ∧ encode i = some w) ∧
  ∀ (i : Instr) (nbits : Nat) (w : BitVec 64), i.wf = true → encode i = some w →
    decodeTableWord nbits w.toNat = some i

/-- O55. A context's turn runs the instruction its PC points to; an exhausted counter, a fetch that faults and a word that
holds no instruction of the sequencer take their traps in its place; an element's turn runs the instruction of its
slot, beside which nothing but the spare of its row acts (R24, R77, R86, R106, R135, R270). The order of the checks is that
of log 89. -/
def Obligations.StepRunsTheDecodedWord : Prop :=
  (∀ (s : State) (i : Instr) (rest : List Act), s.agenda = .run i :: rest →
    step s = exec i { s with agenda := rest }) ∧
  (∀ (s : State) (p : Fin 32) (q : Fin 4) (rest : List Act), s.agenda = .issue p q :: rest →
    let u := { s with agenda := rest, cur := { s.cur with p := p, q := q } }
    let c := u.ctx p q
    (c.inTrap = false → c.ibud.toInt ≤ 0 ∨ c.tbud.toInt ≤ 0 → step s = exec .contextBudgetTrap u) ∧
    (c.inTrap = true ∨ (0 < c.ibud.toInt ∧ 0 < c.tbud.toInt) →
      (∀ cause v, checkAddr u p c.pc 8 .exec = (.fault cause, v) → step s = exec (.fetchFault cause) v) ∧
      ∀ pa host v, checkAddr u p c.pc 8 .exec = (.ok pa host, v) →
        (v.badLine host pa = true → step s = exec (.fetchFault cECC_UE) v) ∧
        (v.badLine host pa = false →
          let v := v.fixLine host pa
          let w := BitVec.ofNat 64 (v.rdNat host pa 8)
          (∀ i, decode w = some i → wordKind w = 1 → step s = exec i v) ∧
          (decode w = none ∨ wordKind w ≠ 1 → step s = exec (.illegalWord w) v)))) ∧
  ∀ (s : State) (p : Fin 32) (t : Fin 144) (slot : Fin 16) (rest : List Act) (i : Instr), s.agenda = .fire p t slot :: rest →
    let u := { s with agenda := rest, cur := { p := p, q := 0, t := t, slot := slot } }
    strayFire u = false → decode (slotWord u p t slot) = some i → wordKind (slotWord u p t slot) = 0 →
    (step s = shadowed (slotWord u p t slot) (exec i) u ∧
      ∀ v, exec i u = .next v → ∃ y, step s = .next y ∧ { y with pads := v.pads } = v ∧
        ∀ h, ({ (y.pad h) with spares := (v.pad h).spares } : Paddock) = v.pad h)

/-- O56. Once in each fc the deficits are settled and at most one context of a paddock issues (R73, R74). -/
def Obligations.IssueSlot : Prop :=
  ∀ (s : State) (p : Fin 32) (rest : List Act), s.agenda = .phase 10 p :: rest →
    (∀ q : Fin 4, 0 < (Tbl.get 1 (s.pad p).lqw q.val).toNat) →
    let x := s.pad p
    ∃ t, step s = .next t ∧ (∀ p', p' ≠ p.val → t.pad p' = s.pad p') ∧
      (∀ host a, t.rdByte host a = s.rdByte host a) ∧
      (∀ q : Fin 4, { (t.pad p).ctx q with deficit := 0 } = { x.ctx q with deficit := 0 }) ∧
      ((∀ q : Fin 4, x.isReady q = false) →
        t.agenda = rest ∧ ∀ q : Fin 4, ((t.pad p).ctx q).deficit = deficitOf x 0 q) ∧
      ((∃ q : Fin 4, x.isReady q = true) →
        ∃ (w : Fin 4) (k : Nat), t.agenda = .issue p w :: rest ∧
          x.isReady w = true ∧
          (∃ q : Fin 4, x.isReady q = true ∧ 0 < deficitOf x k q) ∧
          (∀ j, j < k → ∀ q : Fin 4, x.isReady q = true → deficitOf x j q ≤ 0) ∧
          (∀ q : Fin 4, x.isReady q = true →
            deficitOf x k q < deficitOf x k w ∨ (deficitOf x k q = deficitOf x k w ∧ w ≤ q)) ∧
          ∀ q : Fin 4, ((t.pad p).ctx q).deficit = if q = w then deficitOf x k q - 256 else deficitOf x k q)

/-- O57. Every instruction and event answers a next state in every state; a step stops only without power and with
nothing coming (R31, R77, R383; log 13). -/
def Obligations.EveryInstructionAnswers : Prop :=
  (∀ (i : Instr) (s : State), ∃ t, exec i s = .next t) ∧
  ∀ s : State, (∃ t, step s = .next t) ∨
    (step s = .fault .poweredOff ∧ s.agenda = [] ∧ s.boot.power = false ∧ s.inputs = [])

/-- O58. Every step keeps the canonical form of both memories: equal memories are equal data (R3, R150). -/
def Obligations.MemoryStaysCanonical : Prop :=
  ∀ s t : State, s.memWf = true → step s = .next t → t.memWf = true

/-- O59. After reset: the registers the spec gives a reset value read as it, no context runs and no program is loaded,
no partition, region or chain exists, memory reads zero and is in canonical form, and Stage A is under way (R70, R71,
R312, R326, R381, R384). HALTR reads 0 then (Table 16-2); no context issues before Stage C, which leaves them HALTED
(log 3). That unlisted host memory reads zero is the choice of log 6. -/
def Obligations.ResetState : Prop :=
  State.reset.memWf = true ∧
  (∀ (p : Fin 32) (q : Fin 4),
    (∀ e ∈ resetCsrs p q, csrRead State.reset p q e.1 = some (BitVec.ofNat 64 e.2)) ∧
    (State.reset.ctx p q).halted = false ∧
    ∀ r : BitVec 5, (State.reset.ctx p q).rd r = 0) ∧
  (∀ (p : Fin 32) (n : Nat), ((State.reset.pad p).region n).alloc = false ∧ (State.reset.pad p).up = false) ∧
  (∀ n : Nat, (State.reset.part n).exists_ = false) ∧
  (∀ host a, State.reset.rdByte host a = 0) ∧
  State.reset.agenda = [] ∧ State.reset.waiting = [] ∧ State.reset.boot.power = true ∧ State.reset.boot.stage = 0 ∧
  State.reset.boot.running = 1 ∧ State.reset.boot.code = 0 ∧ State.reset.boot.pdown = 0

/-- O60. The worked encodings of the spec: each word decodes to the instruction its chapter says it is (R25, R29). -/
def Obligations.WordsOfTheSpec : Prop :=
  ∀ e ∈ ([
    (0x52800000FFFFFFFB, .br { cond := 1, pc := 1, d := 0, a := 0, b := 0, w := 0, imm := 4294967291 }),
    (0x2010C04000136061, .mov { v := true, rr := false, pm := 12, pv := 4, im := 0, tc := 0, tt := 0, dq := 0, om := 2, pu := 3, pd := 3, sa := 0, sb := 3, dst := 0, k := true }),
    (0x56A0428200000010, .ld { cond := 1, pc := 3, d := 4, a := 5, b := 0, w := 2, imm := 16 }),
    (0x40AE429B00000000, .acas { cond := 0, pc := 0, d := 4, a := 5, b := 6, w := 3, imm := 0 }),
    (0x207020248A15C48B, .addsat { v := true, rr := false, pm := 2, pv := 2, im := 4, tc := 2, tt := 1, dq := 4, om := 2, pu := 5, pd := 6, sa := 2, sb := 4, dst := 5, k := true }),
    (0x2400000349B80038, .steer { v := true, rr := false, pm := 0, pv := 0, im := 3, tc := 1, tt := 1, dq := 3, om := 7, pu := 0, pd := 0, sa := 0, sb := 1, dst := 12, k := false }),
    (0x40C4011C00000001, .cfgl { cond := 0, pc := 0, d := 0, a := 2, b := 7, w := 0, imm := 1 }),
    (0x2640400000134023, .sldf { v := true, rr := false, pm := 4, pv := 0, im := 0, tc := 0, tt := 0, dq := 0, om := 2, pu := 3, pd := 2, sa := 0, sb := 1, dst := 1, k := true }),
    (0x2810C04108836039, .mfire { v := true, rr := false, pm := 12, pv := 4, im := 1, tc := 0, tt := 1, dq := 1, om := 0, pu := 3, pd := 3, sa := 0, sb := 1, dst := 12, k := true }),
    (0x2A30000309880030, .vfma { v := true, rr := false, pm := 0, pv := 0, im := 3, tc := 0, tt := 1, dq := 3, om := 1, pu := 0, pd := 0, sa := 0, sb := 1, dst := 8, k := false }),
    (0x40E204A800000000, .seqChtl { cond := 0, pc := 0, d := 0, a := 9, b := 10, w := 0, imm := 0 }),
    (0x2E30000108800059, .msend { v := true, rr := false, pm := 0, pv := 0, im := 1, tc := 0, tt := 1, dq := 1, om := 0, pu := 0, pd := 0, sa := 0, sb := 2, dst := 12, k := true }),
    (0x4100950000004605, .lnch { cond := 0, pc := 0, d := 9, a := 10, b := 0, w := 0, imm := 17925 }),
    (0x412C430000000001, .jrev { cond := 0, pc := 0, d := 4, a := 6, b := 0, w := 0, imm := 1 }),
    (0x4146028000000016, .csrw { cond := 0, pc := 0, d := 0, a := 5, b := 0, w := 0, imm := 22 }),
    (0x2F20000251000059, .trape { v := true, rr := false, pm := 0, pv := 0, im := 2, tc := 1, tt := 2, dq := 2, om := 0, pu := 0, pd := 0, sa := 0, sb := 2, dst := 12, k := true })] : List (BitVec 64 × Instr)),
    decode e.1 = some e.2

/-! ## Statements of several parts -/

/-- O1. Scalar, predicate and slow instructions compute what their tables give: all parts hold. -/
def Obligations.ScalarInstructions : Prop :=
  Sys2Proof.Claims.ScalarResult ∧ Sys2Proof.Claims.FfrResult ∧ Sys2Proof.Claims.SeqNopResult ∧ Sys2Proof.Claims.PredicateResult ∧ Sys2Proof.Claims.SlowResult

/-- O3. Branches set PC, trap on a misaligned target, or go on when the guard fails: all parts hold. -/
def Obligations.BranchesGoOrTrap : Prop :=
  Sys2Proof.Claims.BranchTaken ∧ Sys2Proof.Claims.BranchMisaligned ∧ Sys2Proof.Claims.BranchNotTaken

/-- O5. Illegal words, faulting fetches, exhausted counters and reports take their traps: all parts hold. That BUDGET_I
comes before BUDGET_T is the reading of log 75, when a record is taken the choice of log 43: the model's, not the
spec's. -/
def Obligations.TrapsTaken : Prop :=
  Sys2Proof.Claims.TrapsInPlaceOfAnInstruction ∧ Sys2Proof.Claims.AsyncDelivery

/-- O6. HALT halts its context; ERET returns from a handler: all parts hold. What HALT charges and where PC then stands is the
reading of log 86: the model's, not the spec's. -/
def Obligations.HaltAndReturn : Prop :=
  Sys2Proof.Claims.HaltHalts ∧ Sys2Proof.Claims.EretReturns

/-- O7. CSR reads and writes: all parts hold. -/
def Obligations.CsrAccess : Prop :=
  Sys2Proof.Claims.CsrReads ∧ Sys2Proof.Claims.CsrWriteReadsBack

/-- O9. Tag waits, TCLR, WFE and wake events: all parts hold. That a paused chain does not hold a paddock from F3 is the choice
of log 100: the model's. -/
def Obligations.TagsAndWake : Prop :=
  Sys2Proof.Claims.TagWaits ∧ Sys2Proof.Claims.TagClear ∧ Sys2Proof.Claims.WfeAndWake

/-- O10. Loads and stores move the bytes their address names and no others: all parts hold. -/
def Obligations.LoadsAndStores : Prop :=
  Sys2Proof.Claims.LoadResult ∧ Sys2Proof.Claims.StoreResult

/-- O11. Atomics write the old value and store the new; FENCE and PREF complete: all parts hold. -/
def Obligations.AtomicsAndFences : Prop :=
  Sys2Proof.Claims.AtomicResult ∧ Sys2Proof.Claims.FenceAndPrefComplete

/-- O13. PGATE, the clamp and the end of a reset: all parts hold. The corners of gates are the readings of log 53, the one
ceiling and clamp those of log 58: the model's. -/
def Obligations.PaddockStates : Prop :=
  Sys2Proof.Claims.PaddockGates ∧ Sys2Proof.Claims.ResetEnds ∧ Sys2Proof.Claims.PowerClamp

/-- O14. Stiles open, close and carry tokens: all parts hold. -/
def Obligations.StilesAndTheirTokens : Prop :=
  Sys2Proof.Claims.Stiles ∧ Sys2Proof.Claims.StileTokens

/-- O16. Regions are refused to strangers, freed and queried by their owners: all parts hold. -/
def Obligations.RegionOwners : Prop :=
  Sys2Proof.Claims.RegionOwnership ∧ Sys2Proof.Claims.RegionEndAndQuery

/-- O17. Bids for a region wait, are admitted by the arbiter, and take their tiles: all parts hold. That the lowest free region
id is allocated is the choice of log 105: the model's, not the spec's. -/
def Obligations.RegionBids : Prop :=
  Sys2Proof.Claims.RegionAdmission ∧ Sys2Proof.Claims.ArbiterChoice

/-- O18. A configuration image is loaded and a region is activated: all parts hold. -/
def Obligations.RegionLoadAndActivation : Prop :=
  Sys2Proof.Claims.RegionLoad ∧ Sys2Proof.Claims.RegionActivate

/-- O19. A splice arms, swaps and a decision is broadcast: all parts hold. -/
def Obligations.SpliceAndDecision : Prop :=
  Sys2Proof.Claims.SpliceArmsAndSwaps ∧ Sys2Proof.Claims.DecisionBroadcast

/-- O20. A region is saved, restored, folded and unfolded: all parts hold. The order of RFOLD's checks is the reading of log 44,
its refusal where there is no alternate the choice of log 105: the model's. -/
def Obligations.RegionSaveRestoreFold : Prop :=
  Sys2Proof.Claims.RegionSaveAndRestore ∧ Sys2Proof.Claims.SaveAreaContents ∧ Sys2Proof.Claims.RegionFold

/-- O21. Chains are appended to, pointed to a tail, queried and waited for: all parts hold. -/
def Obligations.ChainInstructions : Prop :=
  Sys2Proof.Claims.ChainControl ∧ Sys2Proof.Claims.ChainQueries

/-- O22. Launch, budget, yield, continuation and trace instructions of tasks: all parts hold. -/
def Obligations.TaskInstructions : Prop :=
  Sys2Proof.Claims.TaskLaunch ∧ Sys2Proof.Claims.TaskOperations ∧ Sys2Proof.Claims.DispatchTrace

/-- O23. Tasks are admitted, freeze, yield, resume and retire: all parts hold. The corners of a task's life are the readings of
log 42: the model's. -/
def Obligations.TaskLives : Prop :=
  Sys2Proof.Claims.TaskLife ∧ Sys2Proof.Claims.TaskAdmission

/-- O26. A shape point acts at its moment and undoes its members: all parts hold. The wait of a head record, 4 times 2^W fc
counted for its object, is the reading of log 48: the model's. -/
def Obligations.ShapePointsAndMembers : Prop :=
  Sys2Proof.Claims.ShapePoints ∧ Sys2Proof.Claims.UndoneMember

/-- O29. Tokens hop, arrive and are held up: all parts hold. -/
def Obligations.TokensMoveAndArrive : Prop :=
  Sys2Proof.Claims.TokensMove ∧ Sys2Proof.Claims.TokenEvents

/-- O30. Element arithmetic writes the result its table gives: all parts hold. Which bits of a moved vector PU tests is
the reading of log 60: the model's. -/
def Obligations.ElementInstructions : Prop :=
  Sys2Proof.Claims.ElementArithmetic ∧ Sys2Proof.Claims.NopAndMov

/-- O31. Stream instructions steer, join, count and mark tokens: all parts hold. -/
def Obligations.StreamInstructions : Prop :=
  Sys2Proof.Claims.StreamSteering ∧ Sys2Proof.Claims.StreamCounting

/-- O32. Memory nodes fire and queue their requests: all parts hold. That OJOIN and AGS act in the firing fc is the reading of
log 40: the model's. -/
def Obligations.MemoryNodesFire : Prop :=
  Sys2Proof.Claims.ScratchpadNodesFire ∧ Sys2Proof.Claims.GlobalNodesFire

/-- O38. The carry buffer allocates, stalls, traps and is read and emptied: all parts hold. -/
def Obligations.CarryBufferAndReads : Prop :=
  Sys2Proof.Claims.CarryBuffer ∧ Sys2Proof.Claims.CarryReads

/-- O39. A pass fires, runs and adds the exact products into its accumulators: all parts hold. -/
def Obligations.MatrixPasses : Prop :=
  Sys2Proof.Claims.PassFires ∧ Sys2Proof.Claims.PassRuns ∧ Sys2Proof.Claims.GroupSums

/-- O41. Round gives the code and flags of its tables; vector lanes and functions round what their tables give: all parts
hold. -/
def Obligations.VectorArithmetic : Prop :=
  Sys2Proof.Claims.Rounding ∧ Sys2Proof.Claims.VectorLanes ∧ Sys2Proof.Claims.VectorFunctions

/-- O42. Vector moves, selections, shifts and integer lanes: all parts hold. -/
def Obligations.VectorMovesAndIntegers : Prop :=
  Sys2Proof.Claims.VectorMoves ∧ Sys2Proof.Claims.VectorIntegers

/-- O43. Vector conversions and quantisation: all parts hold. -/
def Obligations.VectorConversionsAndQuantisation : Prop :=
  Sys2Proof.Claims.VectorConversions ∧ Sys2Proof.Claims.VectorQuantisation

/-- O45. Fabric nodes append to chains, send messages, set tags, yield, read budgets and raise traps: all parts hold.
The order of a CHAPP's checks is that of log 44, when a message that waits finds room that of log 23: the model's
readings. -/
def Obligations.FabricSystemNodes : Prop :=
  Sys2Proof.Claims.FabricChains ∧ Sys2Proof.Claims.Messages ∧ Sys2Proof.Claims.TaskAndTrapFabric

/-- O46. Engine entries move their bytes; WAITSEQ waits for its value: all parts hold. How they are cut into accesses is the
reading of log 46: the model's. -/
def Obligations.EngineMoves : Prop :=
  Sys2Proof.Claims.EngineElements ∧ Sys2Proof.Claims.WaitSequence

/-- O48. Chain entries complete, are re-read, retried or timed out: all parts hold. How the read of an entry is cut is the
reading of log 46, whom a freed region's entry is charged to that of log 26: the model's. -/
def Obligations.EngineEvents : Prop :=
  Sys2Proof.Claims.EntryCompletes ∧ Sys2Proof.Claims.ChainRereads ∧ Sys2Proof.Claims.RemoteWrites

/-- O49. Errors are corrected, scrubbed, recovered from and compared on a spare: all parts hold. What a spare is when
its row has no element left is log 91's, the moments of scrub visits log 30's, the moment of a recovery log 54's: the model's
choices. -/
def Obligations.ErrorsAndSpares : Prop :=
  Sys2Proof.Claims.ErrorRecovery ∧ Sys2Proof.Claims.Spares ∧ Sys2Proof.Claims.ErrorControl

/-- O50. A doorbell starts a context; host writes reach the registers they name: all parts hold. What a doorbell keeps
is the reading of log 55, by which addresses an ATS invalidation covers a leaf the choice of log 36. -/
def Obligations.DoorbellsAndHostWrites : Prop :=
  Sys2Proof.Claims.StartDoorbell ∧ Sys2Proof.Claims.HostWrites

/-- O51. Mailbox commands about address spaces, windows, contexts and power: all parts hold. The corners of commands are
the readings of logs 56, 84 and 97, of a member list that of log 46: the model's, not the spec's. -/
def Obligations.SpaceAndControlCommands : Prop :=
  Sys2Proof.Claims.SpaceCommands ∧ Sys2Proof.Claims.ControlCommands

/-- O52. Mailbox commands about firmware and attestation, and what gates a command: all parts hold. That commands wait in Stage
A too, and what REBOOT leaves in the mailbox, are the readings of log 56: the model's. -/
def Obligations.TrustAndGates : Prop :=
  Sys2Proof.Claims.TrustCommands ∧ Sys2Proof.Claims.CommandGates

/-- O53. Power, resets, start stages, links and functions: all parts hold. Which of an image's faults CODE takes is the
choice of log 57. -/
def Obligations.PowerAndStart : Prop :=
  Sys2Proof.Claims.PowerAndReset ∧ Sys2Proof.Claims.StageEnds ∧ Sys2Proof.Claims.LinksAndFunctions
end

