-- ==== Sys2Proof/Laws/Decode.lean ====
section
/-! SUPPORT. The fields of a packed word are the fields it was packed from, and a word is packed from its fields: no bit of
an encoding is dropped or read twice. -/

namespace Sys2Proof

variable (opc : BitVec 8) (f : SeqF) (g : FabF) (w : BitVec 64)

/-- Two choices agree when their conditions do and their branches do. -/
theorem ite_agree {α : Type} {c d : Prop} [Decidable c] [Decidable d] {a a' b b' : α} (h : c ↔ d) (ha : c → a = a')
    (hb : ¬ c → b = b') : (if c then a else b) = if d then a' else b' := by
  by_cases hc : c
  · rw [if_pos hc, if_pos (h.1 hc), ha hc]
  · rw [if_neg hc, if_neg (fun x => hc (h.2 x)), hb hc]

/-- A choice is what both of its branches are. -/
theorem ite_both {α : Type} {c : Prop} [Decidable c] {a b r : α} (ha : c → a = r) (hb : ¬ c → b = r) :
    (if c then a else b) = r := by
  by_cases hc : c
  · rw [if_pos hc, ha hc]
  · rw [if_neg hc, hb hc]

/-! ## Sequencer words -/

/-- Each bit of a packed sequencer word is a bit of one field (Table 3-6). -/
theorem getLsbD_seqPack (i : Nat) : (seqPack opc f).getLsbD i =
    if i < 32 then f.imm.getLsbD i else if i < 34 then f.w.getLsbD (i - 32) else if i < 39 then f.b.getLsbD (i - 34)
    else if i < 44 then f.a.getLsbD (i - 39) else if i < 49 then f.d.getLsbD (i - 44)
    else if i < 57 then opc.getLsbD (i - 49) else if i < 60 then f.pc.getLsbD (i - 57)
    else if i < 62 then f.cond.getLsbD (i - 60) else (1#2).getLsbD (i - 62) := by
  unfold seqPack
  iterate 8 rw [BitVec.getLsbD_append]
  simp only [Nat.sub_sub]
  iterate 8 refine ite_agree (by omega) (fun _ => rfl) fun _ => ?_
  rfl

/-- Each bit of a packed element word is a bit of one field (Table 3-2). -/
theorem getLsbD_fabPack (i : Nat) : (fabPack opc g).getLsbD i =
    if i < 1 then g.k else if i < 5 then g.dst.getLsbD (i - 1) else if i < 9 then g.sb.getLsbD (i - 5)
    else if i < 13 then g.sa.getLsbD (i - 9) else if i < 16 then g.pd.getLsbD (i - 13)
    else if i < 19 then g.pu.getLsbD (i - 16) else if i < 23 then g.om.getLsbD (i - 19)
    else if i < 27 then g.dq.getLsbD (i - 23) else if i < 30 then g.tt.getLsbD (i - 27)
    else if i < 32 then g.tc.getLsbD (i - 30) else if i < 36 then g.im.getLsbD (i - 32)
    else if i < 44 then g.pv.getLsbD (i - 36) else if i < 52 then g.pm.getLsbD (i - 44)
    else if i < 60 then opc.getLsbD (i - 52) else if i < 61 then g.rr
    else if i < 62 then g.v else false := by
  unfold fabPack
  iterate 16 rw [BitVec.getLsbD_append]
  simp only [Nat.sub_sub, BitVec.getLsbD_ofBool]
  refine ite_agree (by omega) (fun h => by simp [show i = 0 by omega]) fun _ => ?_
  iterate 13 refine ite_agree (by omega) (fun _ => rfl) fun _ => ?_
  refine ite_agree (by omega) (fun h => by simp [show i = 60 by omega]) fun _ => ?_
  refine ite_agree (by omega) (fun h => by simp [show i = 61 by omega]) fun _ => ?_
  simp

@[simp] theorem wordKind_seqPack : wordKind (seqPack opc f) = 1 := by
  apply BitVec.eq_of_getLsbD_eq
  intro i hi
  simp only [wordKind, BitVec.getLsbD_extractLsb', getLsbD_seqPack]
  have : i = 0 ∨ i = 1 := by omega
  rcases this with rfl | rfl <;> simp

/-- One field of a packed sequencer word. -/
theorem extract_seqPack (lo n : Nat) (v : BitVec n)
    (h : ∀ i < n, (seqPack opc f).getLsbD (lo + i) = v.getLsbD i) : (seqPack opc f).extractLsb' lo n = v := by
  apply BitVec.eq_of_getLsbD_eq
  intro i hi
  simp [hi, h i hi]

/-- One field of a packed element word. -/
theorem extract_fabPack (lo n : Nat) (v : BitVec n)
    (h : ∀ i < n, (fabPack opc g).getLsbD (lo + i) = v.getLsbD i) : (fabPack opc g).extractLsb' lo n = v := by
  apply BitVec.eq_of_getLsbD_eq
  intro i hi
  simp [hi, h i hi]

@[simp] theorem seqOpc_seqPack : seqOpc (seqPack opc f) = opc := by
  apply extract_seqPack
  intro i hi
  rw [getLsbD_seqPack]
  repeat rw [if_neg (by omega)]
  rw [if_pos (by omega)]
  simp

@[simp] theorem seqFields_seqPack : seqFields (seqPack opc f) = f := by
  obtain ⟨cond, pc, d, a, b, x, imm⟩ := f
  simp only [seqFields, SeqF.mk.injEq]
  refine ⟨?_, ?_, ?_, ?_, ?_, ?_, ?_⟩ <;>
  · apply extract_seqPack
    intro i hi
    rw [getLsbD_seqPack]
    repeat rw [if_neg (by omega)]
    rw [if_pos (by omega)]
    simp

@[simp] theorem wordKind_fabPack : wordKind (fabPack opc g) = 0 := by
  apply BitVec.eq_of_getLsbD_eq
  intro i hi
  simp only [wordKind, BitVec.getLsbD_extractLsb', getLsbD_fabPack]
  repeat rw [if_neg (by omega)]
  simp

@[simp] theorem fabOpc_fabPack : fabOpc (fabPack opc g) = opc := by
  apply extract_fabPack
  intro i hi
  rw [getLsbD_fabPack]
  repeat rw [if_neg (by omega)]
  rw [if_pos (by omega)]
  simp

@[simp] theorem fabFields_fabPack : fabFields (fabPack opc g) = g := by
  obtain ⟨v, rr, pm, pv, im, tc, tt, dq, om, pu, pd, sa, sb, dst, k⟩ := g
  simp only [fabFields, FabF.mk.injEq]
  refine ⟨by rw [getLsbD_fabPack]; simp, by rw [getLsbD_fabPack]; simp, ?_, ?_, ?_, ?_, ?_, ?_, ?_, ?_, ?_, ?_, ?_, ?_,
    by rw [getLsbD_fabPack]; simp⟩ <;>
  · apply extract_fabPack
    intro i hi
    rw [getLsbD_fabPack]
    repeat rw [if_neg (by omega)]
    rw [if_pos (by omega)]
    simp

/-- A word of KIND 0b01 is packed from its own fields. -/
theorem seqPack_fields (h : wordKind w = 1) : seqPack (seqOpc w) (seqFields w) = w := by
  apply BitVec.eq_of_getLsbD_eq
  intro i hi
  rw [getLsbD_seqPack]
  have hk : ∀ j < 2, w.getLsbD (62 + j) = (1#2).getLsbD j := by
    intro j hj
    have := congrArg (·.getLsbD j) h
    simpa [wordKind, BitVec.getLsbD_extractLsb', hj] using this
  simp only [seqOpc, seqFields, BitVec.getLsbD_extractLsb']
  iterate 8
    refine ite_both (fun _ => ?_) fun _ => ?_
    · rw [decide_eq_true (by omega), Bool.true_and]
      congr 1
      omega
  rw [← hk (i - 62) (by omega)]
  congr 1
  omega

/-- A word of KIND 0b00 is packed from its own fields. -/
theorem fabPack_fields (h : wordKind w = 0) : fabPack (fabOpc w) (fabFields w) = w := by
  apply BitVec.eq_of_getLsbD_eq
  intro i hi
  rw [getLsbD_fabPack]
  have hk : ∀ j < 2, w.getLsbD (62 + j) = false := by
    intro j hj
    have := congrArg (·.getLsbD j) h
    simpa [wordKind, BitVec.getLsbD_extractLsb', hj] using this
  simp only [fabOpc, fabFields, BitVec.getLsbD_extractLsb']
  refine ite_both (fun h => by rw [show i = 0 by omega]) fun _ => ?_
  iterate 13
    refine ite_both (fun _ => ?_) fun _ => ?_
    · rw [decide_eq_true (by omega), Bool.true_and]
      congr 1
      omega
  refine ite_both (fun h => by rw [show i = 60 by omega]) fun _ => ?_
  refine ite_both (fun h => by rw [show i = 61 by omega]) fun _ => ?_
  rw [← hk (i - 62) (by omega)]
  congr 1
  omega

end Sys2Proof
end

