-- ==== Sys2Proof/Laws/Memory.lean ====
section
/-! SUPPORT. Laws of memory: reading after writing, what a write leaves in place, and the canonical form. -/

namespace Sys2Proof.Machine

variable (s : State) (host g : Bool) (a b n : Nat) (v : BitVec 8) (bs : List (BitVec 8))

/-! ## One byte -/

@[simp] theorem State.rdByte_wrByte_same : (s.wrByte host a v).rdByte host a = v := by
  cases host <;> simp [State.wrByte, State.rdByte]

theorem State.rdByte_wrByte_other (h : (g, b) ≠ (host, a)) : (s.wrByte host a v).rdByte g b = s.rdByte g b := by
  cases host <;> cases g <;> simp_all [State.wrByte, State.rdByte]

/-- A write of one byte changes the memories and nothing else. -/
theorem State.wrByte_frame : ∃ m d h, s.wrByte host a v = { s with mem := m, dram := d, host := h } := by
  cases host <;> exact ⟨_, _, _, rfl⟩

theorem State.wrByte_memWf (h : s.memWf) : (s.wrByte host a v).memWf := by
  simp only [State.memWf, Memory.wf, Bool.and_eq_true] at *
  cases host
  · exact ⟨Tbl.put_wf h.1, h.2⟩
  · exact ⟨h.1, Tbl.put_wf h.2⟩

/-! ## Bytes in order -/

theorem State.rdByte_wrBytes_below (h : b < a) : (s.wrBytes host a bs).rdByte host b = s.rdByte host b := by
  induction bs generalizing s a with
  | nil => rfl
  | cons x bs ih =>
    rw [State.wrBytes, ih _ _ (by omega), State.rdByte_wrByte_other _ _ _ _ _ _ (by simp; omega)]

/-- Bytes outside those written read as before. -/
theorem State.rdByte_wrBytes_outside (h : g ≠ host ∨ b < a ∨ a + bs.length ≤ b) :
    (s.wrBytes host a bs).rdByte g b = s.rdByte g b := by
  induction bs generalizing s a with
  | nil => rfl
  | cons x bs ih =>
    simp only [List.length_cons] at h
    have h' : g ≠ host ∨ b < a + 1 ∨ a + 1 + bs.length ≤ b := h.imp_right (fun h => by omega)
    have h'' : (g, b) ≠ (host, a) := by
      rcases h with h | h <;> simp
      · exact fun e => absurd e h
      · intro _; omega
    rw [State.wrBytes, ih _ _ h', State.rdByte_wrByte_other _ _ _ _ _ _ h'']

@[simp] theorem State.rdBytes_length : (s.rdBytes host a n).length = n := by
  induction n generalizing a with
  | zero => rfl
  | succ n ih => simp [State.rdBytes, ih]

/-- Bytes written are read back. -/
@[simp] theorem State.rdBytes_wrBytes : (s.wrBytes host a bs).rdBytes host a bs.length = bs := by
  induction bs generalizing s a with
  | nil => rfl
  | cons x bs ih =>
    rw [List.length_cons, State.rdBytes, State.wrBytes, ih,
      State.rdByte_wrBytes_below _ _ _ _ _ (by omega), State.rdByte_wrByte_same]

theorem State.rdBytes_congr {s t : State} (h : ∀ b, t.rdByte host b = s.rdByte host b) :
    t.rdBytes host a n = s.rdBytes host a n := by
  induction n generalizing a with
  | zero => rfl
  | succ n ih => simp [State.rdBytes, ih, h]

theorem State.wrBytes_frame : ∃ m d h, s.wrBytes host a bs = { s with mem := m, dram := d, host := h } := by
  induction bs generalizing s a with
  | nil => exact ⟨_, _, _, rfl⟩
  | cons x bs ih =>
    obtain ⟨m, d, h, e⟩ := s.wrByte_frame host a x
    obtain ⟨m', d', h', e'⟩ := ih (s.wrByte host a x) (a + 1)
    exact ⟨m', d', h', by rw [State.wrBytes, e', e]⟩

theorem State.wrBytes_memWf (h : s.memWf) : (s.wrBytes host a bs).memWf := by
  induction bs generalizing s a with
  | nil => exact h
  | cons x bs ih => exact ih _ _ (s.wrByte_memWf host a x h)

/-! ## Numbers -/

theorem State.wrNat_memWf (v : Nat) (h : s.memWf) : (s.wrNat host a n v).memWf := s.wrBytes_memWf _ _ _ h

theorem State.wrNat_frame (v : Nat) : ∃ m d h, s.wrNat host a n v = { s with mem := m, dram := d, host := h } :=
  s.wrBytes_frame _ _ _

theorem State.memWf_reset : State.reset.memWf := by decide

/-- The canonical form looks at the two memories alone. -/
theorem State.memWf_congr {s t : State} (h : t.mem = s.mem) (g : t.host = s.host) : t.memWf = s.memWf := by
  simp [State.memWf, h, g]

end Sys2Proof.Machine
end

