-- ==== Sys2Proof/Laws/PerInstr.lean ====
section
/-! SUPPORT. Per instruction: the word of a well-formed instruction decodes to that instruction. -/

namespace Sys2Proof.Laws.RoundTrip

/-- The word of a well-formed instruction decodes to it; an event has no word. -/
def Statement (i : Instr) : Prop := ∀ w, i.wf = true → encode i = some w → decode w = some i

theorem ofSeq {f : SeqF} {o : BitVec 8} {i : Instr} (he : encode i = some (seqPack o f))
    (h : i.wf = true → seqRow o f = some i) : Statement i := by
  intro w hw e
  obtain rfl := Option.some.inj (he.symm.trans e)
  simp [decode, decodeSeq, h hw, hw]

theorem ofFab {f : FabF} {o : BitVec 8} {i : Instr} (he : encode i = some (fabPack o f))
    (h : i.wf = true → fabRow o f = some i) : Statement i := by
  intro w hw e
  obtain rfl := Option.some.inj (he.symm.trans e)
  simp [decode, decodeFab, h hw, hw]

theorem ofNone {i : Instr} (he : encode i = none) : Statement i := by
  intro w _ e
  rw [he] at e
  cases e

theorem seqOpComplete (x0 x1) : Statement (.seqOpComplete x0 x1) := ofNone rfl
theorem tagWaitComplete (x0 x1) : Statement (.tagWaitComplete x0 x1) := ofNone rfl
theorem wfeWake (x0 x1) : Statement (.wfeWake x0 x1) := ofNone rfl
theorem paddockGateF3 (x0) : Statement (.paddockGateF3 x0) := ofNone rfl
theorem illegalWord (x0) : Statement (.illegalWord x0) := ofNone rfl
theorem fetchFault (x0) : Statement (.fetchFault x0) := ofNone rfl
theorem contextBudgetTrap : Statement .contextBudgetTrap := ofNone rfl
theorem lnchSlotAcquire (x0 x1) : Statement (.lnchSlotAcquire x0 x1) := ofNone rfl
theorem eccmodeClr (x0) : Statement (.eccmodeClr x0) := ofNone rfl
theorem eccmodeDecWrite (x0 x1) : Statement (.eccmodeDecWrite x0 x1) := ofNone rfl
theorem paddockResetDone (x0) : Statement (.paddockResetDone x0) := ofNone rfl
theorem gathRowTokenEmit (x0 x1) : Statement (.gathRowTokenEmit x0 x1) := ofNone rfl
theorem memNodeComplete (x0 x1 x2) : Statement (.memNodeComplete x0 x1 x2) := ofNone rfl
theorem parkedRequestRetry (x0 x1) : Statement (.parkedRequestRetry x0 x1) := ofNone rfl
theorem mfirePositionTake (x0 x1) : Statement (.mfirePositionTake x0 x1) := ofNone rfl
theorem matrixPassComplete (x0 x1) : Statement (.matrixPassComplete x0 x1) := ofNone rfl
theorem carryHoldResume (x0 x1) : Statement (.carryHoldResume x0 x1) := ofNone rfl
theorem mdrnSpillToken (x0 x1) : Statement (.mdrnSpillToken x0 x1) := ofNone rfl
theorem mdrnComplete (x0 x1) : Statement (.mdrnComplete x0 x1) := ofNone rfl
theorem mcarryExpToken (x0 x1) : Statement (.mcarryExpToken x0 x1) := ofNone rfl
theorem tokenHop (x0 x1 x2) : Statement (.tokenHop x0 x1 x2) := ofNone rfl
theorem skipFlushEmit (x0 x1 x2) : Statement (.skipFlushEmit x0 x1 x2) := ofNone rfl
theorem bidAdmit (x0 x1) : Statement (.bidAdmit x0 x1) := ofNone rfl
theorem cfgaActivate (x0 x1) : Statement (.cfgaActivate x0 x1) := ofNone rfl
theorem rgnfFree (x0 x1) : Statement (.rgnfFree x0 x1) := ofNone rfl
theorem qwaitReturn (x0 x1) : Statement (.qwaitReturn x0 x1) := ofNone rfl
theorem decisionSwitch (x0 x1) : Statement (.decisionSwitch x0 x1) := ofNone rfl
theorem spliceSwap (x0 x1) : Statement (.spliceSwap x0 x1) := ofNone rfl
theorem qnc (x0 x1) : Statement (.qnc x0 x1) := ofNone rfl
theorem taskRetire (x0 x1) : Statement (.taskRetire x0 x1) := ofNone rfl
theorem budgetAdderUpdate (x0 x1) : Statement (.budgetAdderUpdate x0 x1) := ofNone rfl
theorem budgetFreeze (x0 x1) : Statement (.budgetFreeze x0 x1) := ofNone rfl
theorem taskResume (x0 x1) : Statement (.taskResume x0 x1) := ofNone rfl
theorem yieldRelease (x0 x1) : Statement (.yieldRelease x0 x1) := ofNone rfl
theorem asyncTrapDelivery (x0 x1) : Statement (.asyncTrapDelivery x0 x1) := ofNone rfl
theorem regionEccRecovery (x0 x1 x2) : Statement (.regionEccRecovery x0 x1 x2) := ofNone rfl
theorem scrubVisit (x0 x1) : Statement (.scrubVisit x0 x1) := ofNone rfl
theorem spareAdvance (x0 x1) : Statement (.spareAdvance x0 x1) := ofNone rfl
theorem spareCompare (x0 x1) : Statement (.spareCompare x0 x1) := ofNone rfl
theorem copy (x0 x1) : Statement (.copy x0 x1) := ofNone rfl
theorem fill (x0 x1) : Statement (.fill x0 x1) := ofNone rfl
theorem conv (x0 x1) : Statement (.conv x0 x1) := ofNone rfl
theorem engGath (x0 x1) : Statement (.engGath x0 x1) := ofNone rfl
theorem engScat (x0 x1) : Statement (.engScat x0 x1) := ofNone rfl
theorem areduce (x0 x1) : Statement (.areduce x0 x1) := ofNone rfl
theorem rscat (x0 x1) : Statement (.rscat x0 x1) := ofNone rfl
theorem agath (x0 x1) : Statement (.agath x0 x1) := ofNone rfl
theorem signal (x0 x1) : Statement (.signal x0 x1) := ofNone rfl
theorem waitseq (x0 x1) : Statement (.waitseq x0 x1) := ofNone rfl
theorem waitseqReread (x0 x1) : Statement (.waitseqReread x0 x1) := ofNone rfl
theorem stampReread (x0 x1) : Statement (.stampReread x0 x1) := ofNone rfl
theorem chainEntryComplete (x0 x1) : Statement (.chainEntryComplete x0 x1) := ofNone rfl
theorem chainTranslationRetry (x0 x1) : Statement (.chainTranslationRetry x0 x1) := ofNone rfl
theorem remoteWriteTimeout (x0 x1) : Statement (.remoteWriteTimeout x0 x1) := ofNone rfl
theorem remoteWriteReceive (x0 x1 x2 x3) : Statement (.remoteWriteReceive x0 x1 x2 x3) := ofNone rfl
theorem messageArrive (x0 x1) : Statement (.messageArrive x0 x1) := ofNone rfl
theorem stileTokenArrive (x0 x1) : Statement (.stileTokenArrive x0 x1) := ofNone rfl
theorem stileTmo (x0 x1 x2) : Statement (.stileTmo x0 x1 x2) := ofNone rfl
theorem shapePoint (x0) : Statement (.shapePoint x0) := ofNone rfl
theorem baselineWindowEnd (x0) : Statement (.baselineWindowEnd x0) := ofNone rfl
theorem trialVerdict (x0) : Statement (.trialVerdict x0) := ofNone rfl
theorem tunerPropose (x0) : Statement (.tunerPropose x0) := ofNone rfl
theorem clampStepDown (x0) : Statement (.clampStepDown x0) := ofNone rfl
theorem clampStepUp (x0) : Statement (.clampStepUp x0) := ofNone rfl
theorem plimStepDown : Statement .plimStepDown := ofNone rfl
theorem plimStepUp : Statement .plimStepUp := ofNone rfl
theorem start (x0 x1 x2) : Statement (.start x0 x1 x2) := ofNone rfl
theorem doorbellWake (x0 x1) : Statement (.doorbellWake x0 x1) := ofNone rfl
theorem topi (x0 x1 x2) : Statement (.topi x0 x1 x2) := ofNone rfl
theorem topt (x0 x1 x2) : Statement (.topt x0 x1 x2) := ofNone rfl
theorem registerWrite (x0 x1) : Statement (.registerWrite x0 x1) := ofNone rfl
theorem atsInvalidation (x0 x1 x2) : Statement (.atsInvalidation x0 x1 x2) := ofNone rfl
theorem setroot (x0) : Statement (.setroot x0) := ofNone rfl
theorem bindpart (x0) : Statement (.bindpart x0) := ofNone rfl
theorem inval (x0) : Statement (.inval x0) := ofNone rfl
theorem hostwin (x0) : Statement (.hostwin x0) := ofNone rfl
theorem group (x0) : Statement (.group x0) := ofNone rfl
theorem linkwin (x0) : Statement (.linkwin x0) := ofNone rfl
theorem restart (x0) : Statement (.restart x0) := ofNone rfl
theorem propose (x0) : Statement (.propose x0) := ofNone rfl
theorem notice (x0) : Statement (.notice x0) := ofNone rfl
theorem attest (x0) : Statement (.attest x0) := ofNone rfl
theorem fwstage (x0) : Statement (.fwstage x0) := ofNone rfl
theorem reboot (x0) : Statement (.reboot x0) := ofNone rfl
theorem ident (x0) : Statement (.ident x0) := ofNone rfl
theorem plimit (x0) : Statement (.plimit x0) := ofNone rfl
theorem powerOn : Statement .powerOn := ofNone rfl
theorem fundamentalReset : Statement .fundamentalReset := ofNone rfl
theorem stageLimitExpiry : Statement .stageLimitExpiry := ofNone rfl
theorem stageComplete (x0) : Statement (.stageComplete x0) := ofNone rfl
theorem powerOff : Statement .powerOff := ofNone rfl
theorem hostLinkTraining (x0 x1 x2 x3) : Statement (.hostLinkTraining x0 x1 x2 x3) := ofNone rfl
theorem ideKm (x0 x1) : Statement (.ideKm x0 x1) := ofNone rfl
theorem vfEnable (x0 x1) : Statement (.vfEnable x0 x1) := ofNone rfl
theorem trialWindowEnd (x0) : Statement (.trialWindowEnd x0) := ofNone rfl
theorem seqNop (f) : Statement (.seqNop f) := ofSeq rfl fun _ => rfl
theorem seqAdd (f) : Statement (.seqAdd f) := ofSeq rfl fun _ => rfl
theorem seqSub (f) : Statement (.seqSub f) := ofSeq rfl fun _ => rfl
theorem seqMul (f) : Statement (.seqMul f) := ofSeq rfl fun _ => rfl
theorem seqMulh (f) : Statement (.seqMulh f) := ofSeq rfl fun _ => rfl
theorem seqMulhu (f) : Statement (.seqMulhu f) := ofSeq rfl fun _ => rfl
theorem divu (f) : Statement (.divu f) := ofSeq rfl fun _ => rfl
theorem remu (f) : Statement (.remu f) := ofSeq rfl fun _ => rfl
theorem seqAnd (f) : Statement (.seqAnd f) := ofSeq rfl fun _ => rfl
theorem seqOr (f) : Statement (.seqOr f) := ofSeq rfl fun _ => rfl
theorem seqXor (f) : Statement (.seqXor f) := ofSeq rfl fun _ => rfl
theorem seqShl (f) : Statement (.seqShl f) := ofSeq rfl fun _ => rfl
theorem seqShr (f) : Statement (.seqShr f) := ofSeq rfl fun _ => rfl
theorem seqSra (f) : Statement (.seqSra f) := ofSeq rfl fun _ => rfl
theorem seqMin (f) : Statement (.seqMin f) := ofSeq rfl fun _ => rfl
theorem seqMax (f) : Statement (.seqMax f) := ofSeq rfl fun _ => rfl
theorem seqMinu (f) : Statement (.seqMinu f) := ofSeq rfl fun _ => rfl
theorem seqMaxu (f) : Statement (.seqMaxu f) := ofSeq rfl fun _ => rfl
theorem seqClz (f) : Statement (.seqClz f) := ofSeq rfl fun _ => rfl
theorem seqPopc (f) : Statement (.seqPopc f) := ofSeq rfl fun _ => rfl
theorem addi (f) : Statement (.addi f) := ofSeq rfl fun _ => rfl
theorem andi (f) : Statement (.andi f) := ofSeq rfl fun _ => rfl
theorem ori (f) : Statement (.ori f) := ofSeq rfl fun _ => rfl
theorem xori (f) : Statement (.xori f) := ofSeq rfl fun _ => rfl
theorem shli (f) : Statement (.shli f) := ofSeq rfl fun _ => rfl
theorem shri (f) : Statement (.shri f) := ofSeq rfl fun _ => rfl
theorem srai (f) : Statement (.srai f) := ofSeq rfl fun _ => rfl
theorem movi (f) : Statement (.movi f) := ofSeq rfl fun _ => rfl
theorem movhi (f) : Statement (.movhi f) := ofSeq rfl fun _ => rfl
theorem seqSel (f) : Statement (.seqSel f) := ofSeq rfl fun _ => rfl
theorem seqCeq (f) : Statement (.seqCeq f) := ofSeq rfl fun _ => rfl
theorem seqCne (f) : Statement (.seqCne f) := ofSeq rfl fun _ => rfl
theorem seqClt (f) : Statement (.seqClt f) := ofSeq rfl fun _ => rfl
theorem seqCltu (f) : Statement (.seqCltu f) := ofSeq rfl fun _ => rfl
theorem seqCle (f) : Statement (.seqCle f) := ofSeq rfl fun _ => rfl
theorem seqCleu (f) : Statement (.seqCleu f) := ofSeq rfl fun _ => rfl
theorem ceqi (f) : Statement (.ceqi f) := ofSeq rfl fun _ => rfl
theorem clti (f) : Statement (.clti f) := ofSeq rfl fun _ => rfl
theorem pand (f) : Statement (.pand f) := ofSeq rfl fun _ => rfl
theorem por (f) : Statement (.por f) := ofSeq rfl fun _ => rfl
theorem pnot (f) : Statement (.pnot f) := ofSeq rfl fun _ => rfl
theorem br (f) : Statement (.br f) := ofSeq rfl fun _ => rfl
theorem jmp (f) : Statement (.jmp f) := ofSeq rfl fun _ => rfl
theorem call (f) : Statement (.call f) := ofSeq rfl fun _ => rfl
theorem ret (f) : Statement (.ret f) := ofSeq rfl fun _ => rfl
theorem wany (f) : Statement (.wany f) := ofSeq rfl fun _ => rfl
theorem wall (f) : Statement (.wall f) := ofSeq rfl fun _ => rfl
theorem ffr (f) : Statement (.ffr f) := ofSeq rfl fun _ => rfl
theorem tclr (f) : Statement (.tclr f) := ofSeq rfl fun _ => rfl
theorem wfe (f) : Statement (.wfe f) := ofSeq rfl fun _ => rfl
theorem wake (f) : Statement (.wake f) := ofSeq rfl fun _ => rfl
theorem ld (f) : Statement (.ld f) := ofSeq rfl fun _ => rfl
theorem lds (f) : Statement (.lds f) := ofSeq rfl fun _ => rfl
theorem st (f) : Statement (.st f) := ofSeq rfl fun _ => rfl
theorem lda (f) : Statement (.lda f) := ofSeq rfl fun _ => rfl
theorem stl (f) : Statement (.stl f) := ofSeq rfl fun _ => rfl
theorem aadd (f) : Statement (.aadd f) := ofSeq rfl fun _ => rfl
theorem aswp (f) : Statement (.aswp f) := ofSeq rfl fun _ => rfl
theorem acas (f) : Statement (.acas f) := ofSeq rfl fun _ => rfl
theorem amin (f) : Statement (.amin f) := ofSeq rfl fun _ => rfl
theorem amax (f) : Statement (.amax f) := ofSeq rfl fun _ => rfl
theorem aor (f) : Statement (.aor f) := ofSeq rfl fun _ => rfl
theorem aand (f) : Statement (.aand f) := ofSeq rfl fun _ => rfl
theorem seqFence (f) : Statement (.seqFence f) := ofSeq rfl fun _ => rfl
theorem seqPref (f) : Statement (.seqPref f) := ofSeq rfl fun _ => rfl
theorem rgna (f) : Statement (.rgna f) := ofSeq rfl fun _ => rfl
theorem rgnf (f) : Statement (.rgnf f) := ofSeq rfl fun _ => rfl
theorem cfgl (f) : Statement (.cfgl f) := ofSeq rfl fun _ => rfl
theorem cfga (f) : Statement (.cfga f) := ofSeq rfl fun _ => rfl
theorem splc (f) : Statement (.splc f) := ofSeq rfl fun _ => rfl
theorem rfold (f) : Statement (.rfold f) := ofSeq rfl fun h => by
  unfold Instr.wf at h
  dsimp only at h
  simp only [Bool.and_eq_true] at h
  show (if f.imm.toNat != 0 then some (.rfold f) else if f.imm.toNat == 0 then some (.rfoldUnfold f) else none : Option Instr) = some (.rfold f)
  simp_all
theorem rfoldUnfold (f) : Statement (.rfoldUnfold f) := ofSeq rfl fun h => by
  unfold Instr.wf at h
  dsimp only at h
  simp only [Bool.and_eq_true] at h
  show (if f.imm.toNat != 0 then some (.rfold f) else if f.imm.toNat == 0 then some (.rfoldUnfold f) else none : Option Instr) = some (.rfoldUnfold f)
  simp_all
theorem qwait (f) : Statement (.qwait f) := ofSeq rfl fun _ => rfl
theorem toksv (f) : Statement (.toksv f) := ofSeq rfl fun _ => rfl
theorem tokrs (f) : Statement (.tokrs f) := ofSeq rfl fun _ => rfl
theorem decb (f) : Statement (.decb f) := ofSeq rfl fun _ => rfl
theorem rgns (f) : Statement (.rgns f) := ofSeq rfl fun _ => rfl
theorem seqChapp (f) : Statement (.seqChapp f) := ofSeq rfl fun _ => rfl
theorem seqChtl (f) : Statement (.seqChtl f) := ofSeq rfl fun _ => rfl
theorem seqChsq (f) : Statement (.seqChsq f) := ofSeq rfl fun _ => rfl
theorem chwt (f) : Statement (.chwt f) := ofSeq rfl fun _ => rfl
theorem lnch (f) : Statement (.lnch f) := ofSeq rfl fun _ => rfl
theorem tskq (f) : Statement (.tskq f) := ofSeq rfl fun _ => rfl
theorem bspl (f) : Statement (.bspl f) := ofSeq rfl fun _ => rfl
theorem btop (f) : Statement (.btop f) := ofSeq rfl fun _ => rfl
theorem brd (f) : Statement (.brd f) := ofSeq rfl fun _ => rfl
theorem yld (f) : Statement (.yld f) := ofSeq rfl fun _ => rfl
theorem cont (f) : Statement (.cont f) := ofSeq rfl fun _ => rfl
theorem traceOff (f) : Statement (.traceOff f) := ofSeq rfl fun h => by
  unfold Instr.wf at h
  dsimp only at h
  simp only [Bool.and_eq_true] at h
  show (if f.imm.toNat == 0 then some (.traceOff f) else if f.imm.toNat == 1 then some (.traceRecord f) else if f.imm.toNat == 2 then some (.traceBind f) else if f.imm.toNat == 3 then some (.traceRead f) else none : Option Instr) = some (.traceOff f)
  simp_all
theorem traceRecord (f) : Statement (.traceRecord f) := ofSeq rfl fun h => by
  unfold Instr.wf at h
  dsimp only at h
  simp only [Bool.and_eq_true] at h
  show (if f.imm.toNat == 0 then some (.traceOff f) else if f.imm.toNat == 1 then some (.traceRecord f) else if f.imm.toNat == 2 then some (.traceBind f) else if f.imm.toNat == 3 then some (.traceRead f) else none : Option Instr) = some (.traceRecord f)
  simp_all
theorem traceBind (f) : Statement (.traceBind f) := ofSeq rfl fun h => by
  unfold Instr.wf at h
  dsimp only at h
  simp only [Bool.and_eq_true] at h
  show (if f.imm.toNat == 0 then some (.traceOff f) else if f.imm.toNat == 1 then some (.traceRecord f) else if f.imm.toNat == 2 then some (.traceBind f) else if f.imm.toNat == 3 then some (.traceRead f) else none : Option Instr) = some (.traceBind f)
  simp_all
theorem traceRead (f) : Statement (.traceRead f) := ofSeq rfl fun h => by
  unfold Instr.wf at h
  dsimp only at h
  simp only [Bool.and_eq_true] at h
  show (if f.imm.toNat == 0 then some (.traceOff f) else if f.imm.toNat == 1 then some (.traceRecord f) else if f.imm.toNat == 2 then some (.traceBind f) else if f.imm.toNat == 3 then some (.traceRead f) else none : Option Instr) = some (.traceRead f)
  simp_all
theorem jsub (f) : Statement (.jsub f) := ofSeq rfl fun _ => rfl
theorem juns (f) : Statement (.juns f) := ofSeq rfl fun _ => rfl
theorem jpin (f) : Statement (.jpin f) := ofSeq rfl fun _ => rfl
theorem jupn (f) : Statement (.jupn f) := ofSeq rfl fun _ => rfl
theorem jrd (f) : Statement (.jrd f) := ofSeq rfl fun _ => rfl
theorem jprp (f) : Statement (.jprp f) := ofSeq rfl fun _ => rfl
theorem jrev (f) : Statement (.jrev f) := ofSeq rfl fun _ => rfl
theorem jrpl (f) : Statement (.jrpl f) := ofSeq rfl fun _ => rfl
theorem jbase (f) : Statement (.jbase f) := ofSeq rfl fun _ => rfl
theorem jver (f) : Statement (.jver f) := ofSeq rfl fun _ => rfl
theorem trap (f) : Statement (.trap f) := ofSeq rfl fun _ => rfl
theorem eret (f) : Statement (.eret f) := ofSeq rfl fun _ => rfl
theorem csrr (f) : Statement (.csrr f) := ofSeq rfl fun h => by
  unfold Instr.wf at h
  dsimp only at h
  simp only [Bool.and_eq_true] at h
  show (if f.imm.toNat != 0x071 then some (.csrr f) else if f.imm.toNat == 0x071 then some (.mcpopRead f) else none : Option Instr) = some (.csrr f)
  simp_all
theorem csrw (f) : Statement (.csrw f) := ofSeq rfl fun _ => rfl
theorem mcpopRead (f) : Statement (.mcpopRead f) := ofSeq rfl fun h => by
  unfold Instr.wf at h
  dsimp only at h
  simp only [Bool.and_eq_true] at h
  show (if f.imm.toNat != 0x071 then some (.csrr f) else if f.imm.toNat == 0x071 then some (.mcpopRead f) else none : Option Instr) = some (.mcpopRead f)
  simp_all
theorem halt (f) : Statement (.halt f) := ofSeq rfl fun _ => rfl
theorem bkpt (f) : Statement (.bkpt f) := ofSeq rfl fun _ => rfl
theorem pgateStatus (f) : Statement (.pgateStatus f) := ofSeq rfl fun h => by
  unfold Instr.wf at h
  dsimp only at h
  simp only [Bool.and_eq_true] at h
  show (if f.imm.toNat == 0 then some (.pgateStatus f) else if f.imm.toNat == 1 then some (.pgateClose f) else if f.imm.toNat == 2 then some (.pgateOpen f) else if f.imm.toNat == 3 then some (.pgateReset f) else if f.imm.toNat == 4 then some (.pgateFreq f) else if f.imm.toNat == 5 then some (.pgateForm f) else none : Option Instr) = some (.pgateStatus f)
  simp_all
theorem pgateClose (f) : Statement (.pgateClose f) := ofSeq rfl fun h => by
  unfold Instr.wf at h
  dsimp only at h
  simp only [Bool.and_eq_true] at h
  show (if f.imm.toNat == 0 then some (.pgateStatus f) else if f.imm.toNat == 1 then some (.pgateClose f) else if f.imm.toNat == 2 then some (.pgateOpen f) else if f.imm.toNat == 3 then some (.pgateReset f) else if f.imm.toNat == 4 then some (.pgateFreq f) else if f.imm.toNat == 5 then some (.pgateForm f) else none : Option Instr) = some (.pgateClose f)
  simp_all
theorem pgateOpen (f) : Statement (.pgateOpen f) := ofSeq rfl fun h => by
  unfold Instr.wf at h
  dsimp only at h
  simp only [Bool.and_eq_true] at h
  show (if f.imm.toNat == 0 then some (.pgateStatus f) else if f.imm.toNat == 1 then some (.pgateClose f) else if f.imm.toNat == 2 then some (.pgateOpen f) else if f.imm.toNat == 3 then some (.pgateReset f) else if f.imm.toNat == 4 then some (.pgateFreq f) else if f.imm.toNat == 5 then some (.pgateForm f) else none : Option Instr) = some (.pgateOpen f)
  simp_all
theorem pgateReset (f) : Statement (.pgateReset f) := ofSeq rfl fun h => by
  unfold Instr.wf at h
  dsimp only at h
  simp only [Bool.and_eq_true] at h
  show (if f.imm.toNat == 0 then some (.pgateStatus f) else if f.imm.toNat == 1 then some (.pgateClose f) else if f.imm.toNat == 2 then some (.pgateOpen f) else if f.imm.toNat == 3 then some (.pgateReset f) else if f.imm.toNat == 4 then some (.pgateFreq f) else if f.imm.toNat == 5 then some (.pgateForm f) else none : Option Instr) = some (.pgateReset f)
  simp_all
theorem pgateFreq (f) : Statement (.pgateFreq f) := ofSeq rfl fun h => by
  unfold Instr.wf at h
  dsimp only at h
  simp only [Bool.and_eq_true] at h
  show (if f.imm.toNat == 0 then some (.pgateStatus f) else if f.imm.toNat == 1 then some (.pgateClose f) else if f.imm.toNat == 2 then some (.pgateOpen f) else if f.imm.toNat == 3 then some (.pgateReset f) else if f.imm.toNat == 4 then some (.pgateFreq f) else if f.imm.toNat == 5 then some (.pgateForm f) else none : Option Instr) = some (.pgateFreq f)
  simp_all
theorem pgateForm (f) : Statement (.pgateForm f) := ofSeq rfl fun h => by
  unfold Instr.wf at h
  dsimp only at h
  simp only [Bool.and_eq_true] at h
  show (if f.imm.toNat == 0 then some (.pgateStatus f) else if f.imm.toNat == 1 then some (.pgateClose f) else if f.imm.toNat == 2 then some (.pgateOpen f) else if f.imm.toNat == 3 then some (.pgateReset f) else if f.imm.toNat == 4 then some (.pgateFreq f) else if f.imm.toNat == 5 then some (.pgateForm f) else none : Option Instr) = some (.pgateForm f)
  simp_all
theorem stilClose (f) : Statement (.stilClose f) := ofSeq rfl fun h => by
  unfold Instr.wf at h
  dsimp only at h
  simp only [Bool.and_eq_true] at h
  show (if f.imm.toNat == 0 then some (.stilClose f) else if f.imm.toNat == 1 then some (.stilChannel f) else if f.imm.toNat == 2 then some (.stilMemory f) else none : Option Instr) = some (.stilClose f)
  simp_all
theorem stilChannel (f) : Statement (.stilChannel f) := ofSeq rfl fun h => by
  unfold Instr.wf at h
  dsimp only at h
  simp only [Bool.and_eq_true] at h
  show (if f.imm.toNat == 0 then some (.stilClose f) else if f.imm.toNat == 1 then some (.stilChannel f) else if f.imm.toNat == 2 then some (.stilMemory f) else none : Option Instr) = some (.stilChannel f)
  simp_all
theorem stilMemory (f) : Statement (.stilMemory f) := ofSeq rfl fun h => by
  unfold Instr.wf at h
  dsimp only at h
  simp only [Bool.and_eq_true] at h
  show (if f.imm.toNat == 0 then some (.stilClose f) else if f.imm.toNat == 1 then some (.stilChannel f) else if f.imm.toNat == 2 then some (.stilMemory f) else none : Option Instr) = some (.stilMemory f)
  simp_all
theorem ctxs (f) : Statement (.ctxs f) := ofSeq rfl fun _ => rfl
theorem ctxr (f) : Statement (.ctxr f) := ofSeq rfl fun _ => rfl
theorem fabNop (f) : Statement (.fabNop f) := ofFab rfl fun _ => rfl
theorem mov (f) : Statement (.mov f) := ofFab rfl fun _ => rfl
theorem fabAdd (f) : Statement (.fabAdd f) := ofFab rfl fun _ => rfl
theorem fabSub (f) : Statement (.fabSub f) := ofFab rfl fun _ => rfl
theorem fabMul (f) : Statement (.fabMul f) := ofFab rfl fun _ => rfl
theorem fabMulh (f) : Statement (.fabMulh f) := ofFab rfl fun _ => rfl
theorem fabMulhu (f) : Statement (.fabMulhu f) := ofFab rfl fun _ => rfl
theorem addsat (f) : Statement (.addsat f) := ofFab rfl fun _ => rfl
theorem fabAnd (f) : Statement (.fabAnd f) := ofFab rfl fun _ => rfl
theorem fabOr (f) : Statement (.fabOr f) := ofFab rfl fun _ => rfl
theorem fabXor (f) : Statement (.fabXor f) := ofFab rfl fun _ => rfl
theorem andn (f) : Statement (.andn f) := ofFab rfl fun _ => rfl
theorem fabShl (f) : Statement (.fabShl f) := ofFab rfl fun _ => rfl
theorem fabShr (f) : Statement (.fabShr f) := ofFab rfl fun _ => rfl
theorem fabSra (f) : Statement (.fabSra f) := ofFab rfl fun _ => rfl
theorem rot (f) : Statement (.rot f) := ofFab rfl fun _ => rfl
theorem fabMin (f) : Statement (.fabMin f) := ofFab rfl fun _ => rfl
theorem fabMax (f) : Statement (.fabMax f) := ofFab rfl fun _ => rfl
theorem fabMinu (f) : Statement (.fabMinu f) := ofFab rfl fun _ => rfl
theorem fabMaxu (f) : Statement (.fabMaxu f) := ofFab rfl fun _ => rfl
theorem fabCeq (f) : Statement (.fabCeq f) := ofFab rfl fun _ => rfl
theorem fabCne (f) : Statement (.fabCne f) := ofFab rfl fun _ => rfl
theorem fabClt (f) : Statement (.fabClt f) := ofFab rfl fun _ => rfl
theorem fabCltu (f) : Statement (.fabCltu f) := ofFab rfl fun _ => rfl
theorem fabCle (f) : Statement (.fabCle f) := ofFab rfl fun _ => rfl
theorem fabCleu (f) : Statement (.fabCleu f) := ofFab rfl fun _ => rfl
theorem fabSel (f) : Statement (.fabSel f) := ofFab rfl fun _ => rfl
theorem fabClz (f) : Statement (.fabClz f) := ofFab rfl fun _ => rfl
theorem fabPopc (f) : Statement (.fabPopc f) := ofFab rfl fun _ => rfl
theorem bfx (f) : Statement (.bfx f) := ofFab rfl fun _ => rfl
theorem bfi (f) : Statement (.bfi f) := ofFab rfl fun _ => rfl
theorem agen (f) : Statement (.agen f) := ofFab rfl fun _ => rfl
theorem steer (f) : Statement (.steer f) := ofFab rfl fun _ => rfl
theorem steerd (f) : Statement (.steerd f) := ofFab rfl fun _ => rfl
theorem mrgo (f) : Statement (.mrgo f) := ofFab rfl fun _ => rfl
theorem mrga (f) : Statement (.mrga f) := ofFab rfl fun _ => rfl
theorem gate (f) : Statement (.gate f) := ofFab rfl fun _ => rfl
theorem drop (f) : Statement (.drop f) := ofFab rfl fun _ => rfl
theorem repl (f) : Statement (.repl f) := ofFab rfl fun _ => rfl
theorem eosg (f) : Statement (.eosg f) := ofFab rfl fun _ => rfl
theorem eosd (f) : Statement (.eosd f) := ofFab rfl fun _ => rfl
theorem iter (f) : Statement (.iter f) := ofFab rfl fun _ => rfl
theorem lexit (f) : Statement (.lexit f) := ofFab rfl fun _ => rfl
theorem sqsh (f) : Statement (.sqsh f) := ofFab rfl fun _ => rfl
theorem cnte (f) : Statement (.cnte f) := ofFab rfl fun _ => rfl
theorem infl (f) : Statement (.infl f) := ofFab rfl fun _ => rfl
theorem deci (f) : Statement (.deci f) := ofFab rfl fun _ => rfl
theorem plog (f) : Statement (.plog f) := ofFab rfl fun _ => rfl
theorem skipa (f) : Statement (.skipa f) := ofFab rfl fun _ => rfl
theorem fmts (f) : Statement (.fmts f) := ofFab rfl fun _ => rfl
theorem progm (f) : Statement (.progm f) := ofFab rfl fun _ => rfl
theorem halte (f) : Statement (.halte f) := ofFab rfl fun _ => rfl
theorem sld (f) : Statement (.sld f) := ofFab rfl fun _ => rfl
theorem sldv (f) : Statement (.sldv f) := ofFab rfl fun _ => rfl
theorem sst (f) : Statement (.sst f) := ofFab rfl fun _ => rfl
theorem sstv (f) : Statement (.sstv f) := ofFab rfl fun _ => rfl
theorem sldf (f) : Statement (.sldf f) := ofFab rfl fun _ => rfl
theorem slde (f) : Statement (.slde f) := ofFab rfl fun _ => rfl
theorem sstf (f) : Statement (.sstf f) := ofFab rfl fun _ => rfl
theorem sstw (f) : Statement (.sstw f) := ofFab rfl fun _ => rfl
theorem sfe (f) : Statement (.sfe f) := ofFab rfl fun _ => rfl
theorem saadd (f) : Statement (.saadd f) := ofFab rfl fun _ => rfl
theorem samin (f) : Statement (.samin f) := ofFab rfl fun _ => rfl
theorem samax (f) : Statement (.samax f) := ofFab rfl fun _ => rfl
theorem saor (f) : Statement (.saor f) := ofFab rfl fun _ => rfl
theorem saand (f) : Statement (.saand f) := ofFab rfl fun _ => rfl
theorem sacas (f) : Statement (.sacas f) := ofFab rfl fun _ => rfl
theorem stas (f) : Statement (.stas f) := ofFab rfl fun _ => rfl
theorem gld (f) : Statement (.gld f) := ofFab rfl fun _ => rfl
theorem gldv (f) : Statement (.gldv f) := ofFab rfl fun _ => rfl
theorem gst (f) : Statement (.gst f) := ofFab rfl fun _ => rfl
theorem gstv (f) : Statement (.gstv f) := ofFab rfl fun _ => rfl
theorem gaadd (f) : Statement (.gaadd f) := ofFab rfl fun _ => rfl
theorem gacas (f) : Statement (.gacas f) := ofFab rfl fun _ => rfl
theorem gath (f) : Statement (.gath f) := ofFab rfl fun _ => rfl
theorem scat (f) : Statement (.scat f) := ofFab rfl fun _ => rfl
theorem ojoin (f) : Statement (.ojoin f) := ofFab rfl fun _ => rfl
theorem fabFence (f) : Statement (.fabFence f) := ofFab rfl fun _ => rfl
theorem fabPref (f) : Statement (.fabPref f) := ofFab rfl fun _ => rfl
theorem ags (f) : Statement (.ags f) := ofFab rfl fun _ => rfl
theorem mldb (f) : Statement (.mldb f) := ofFab rfl fun _ => rfl
theorem mfire (f) : Statement (.mfire f) := ofFab rfl fun _ => rfl
theorem manch (f) : Statement (.manch f) := ofFab rfl fun _ => rfl
theorem mzero (f) : Statement (.mzero f) := ofFab rfl fun _ => rfl
theorem mdrn (f) : Statement (.mdrn f) := ofFab rfl fun _ => rfl
theorem mscl (f) : Statement (.mscl f) := ofFab rfl fun _ => rfl
theorem mcbk (f) : Statement (.mcbk f) := ofFab rfl fun _ => rfl
theorem mcarryCfg (f) : Statement (.mcarryCfg f) := ofFab rfl fun h => by
  unfold Instr.wf at h
  dsimp only at h
  simp only [Bool.and_eq_true] at h
  show (if f.pd.toNat == 0 then some (.mcarryCfg f) else if f.pd.toNat == 1 then some (.mcarryExp f) else if f.pd.toNat == 2 then some (.mcarryCnt f) else none : Option Instr) = some (.mcarryCfg f)
  simp_all
theorem mcarryExp (f) : Statement (.mcarryExp f) := ofFab rfl fun h => by
  unfold Instr.wf at h
  dsimp only at h
  simp only [Bool.and_eq_true] at h
  show (if f.pd.toNat == 0 then some (.mcarryCfg f) else if f.pd.toNat == 1 then some (.mcarryExp f) else if f.pd.toNat == 2 then some (.mcarryCnt f) else none : Option Instr) = some (.mcarryExp f)
  simp_all
theorem mcarryCnt (f) : Statement (.mcarryCnt f) := ofFab rfl fun h => by
  unfold Instr.wf at h
  dsimp only at h
  simp only [Bool.and_eq_true] at h
  show (if f.pd.toNat == 0 then some (.mcarryCfg f) else if f.pd.toNat == 1 then some (.mcarryExp f) else if f.pd.toNat == 2 then some (.mcarryCnt f) else none : Option Instr) = some (.mcarryCnt f)
  simp_all
theorem mstat (f) : Statement (.mstat f) := ofFab rfl fun _ => rfl
theorem mswap (f) : Statement (.mswap f) := ofFab rfl fun _ => rfl
theorem vadd (f) : Statement (.vadd f) := ofFab rfl fun _ => rfl
theorem vsub (f) : Statement (.vsub f) := ofFab rfl fun _ => rfl
theorem vmul (f) : Statement (.vmul f) := ofFab rfl fun _ => rfl
theorem vfma (f) : Statement (.vfma f) := ofFab rfl fun _ => rfl
theorem vmin (f) : Statement (.vmin f) := ofFab rfl fun _ => rfl
theorem vmax (f) : Statement (.vmax f) := ofFab rfl fun _ => rfl
theorem vabs (f) : Statement (.vabs f) := ofFab rfl fun _ => rfl
theorem vneg (f) : Statement (.vneg f) := ofFab rfl fun _ => rfl
theorem vex2 (f) : Statement (.vex2 f) := ofFab rfl fun _ => rfl
theorem vlg2 (f) : Statement (.vlg2 f) := ofFab rfl fun _ => rfl
theorem vrcp (f) : Statement (.vrcp f) := ofFab rfl fun _ => rfl
theorem vrsq (f) : Statement (.vrsq f) := ofFab rfl fun _ => rfl
theorem vscl (f) : Statement (.vscl f) := ofFab rfl fun _ => rfl
theorem vcmp (f) : Statement (.vcmp f) := ofFab rfl fun _ => rfl
theorem vsel (f) : Statement (.vsel f) := ofFab rfl fun _ => rfl
theorem vshf (f) : Statement (.vshf f) := ofFab rfl fun _ => rfl
theorem vbcst (f) : Statement (.vbcst f) := ofFab rfl fun _ => rfl
theorem vsumxInit (f) : Statement (.vsumxInit f) := ofFab rfl fun h => by
  unfold Instr.wf at h
  dsimp only at h
  simp only [Bool.and_eq_true] at h
  show (if f.pd.toNat == 0 then some (.vsumxInit f) else if f.pd.toNat == 1 then some (.vsumxAcc f) else if f.pd.toNat == 2 then some (.vsumxFold f) else if f.pd.toNat == 3 then some (.vsumxOut f) else none : Option Instr) = some (.vsumxInit f)
  simp_all
theorem vsumxAcc (f) : Statement (.vsumxAcc f) := ofFab rfl fun h => by
  unfold Instr.wf at h
  dsimp only at h
  simp only [Bool.and_eq_true] at h
  show (if f.pd.toNat == 0 then some (.vsumxInit f) else if f.pd.toNat == 1 then some (.vsumxAcc f) else if f.pd.toNat == 2 then some (.vsumxFold f) else if f.pd.toNat == 3 then some (.vsumxOut f) else none : Option Instr) = some (.vsumxAcc f)
  simp_all
theorem vsumxFold (f) : Statement (.vsumxFold f) := ofFab rfl fun h => by
  unfold Instr.wf at h
  dsimp only at h
  simp only [Bool.and_eq_true] at h
  show (if f.pd.toNat == 0 then some (.vsumxInit f) else if f.pd.toNat == 1 then some (.vsumxAcc f) else if f.pd.toNat == 2 then some (.vsumxFold f) else if f.pd.toNat == 3 then some (.vsumxOut f) else none : Option Instr) = some (.vsumxFold f)
  simp_all
theorem vsumxOut (f) : Statement (.vsumxOut f) := ofFab rfl fun h => by
  unfold Instr.wf at h
  dsimp only at h
  simp only [Bool.and_eq_true] at h
  show (if f.pd.toNat == 0 then some (.vsumxInit f) else if f.pd.toNat == 1 then some (.vsumxAcc f) else if f.pd.toNat == 2 then some (.vsumxFold f) else if f.pd.toNat == 3 then some (.vsumxOut f) else none : Option Instr) = some (.vsumxOut f)
  simp_all
theorem vmaxr (f) : Statement (.vmaxr f) := ofFab rfl fun _ => rfl
theorem vcvt (f) : Statement (.vcvt f) := ofFab rfl fun _ => rfl
theorem vqmx (f) : Statement (.vqmx f) := ofFab rfl fun _ => rfl
theorem vqi4 (f) : Statement (.vqi4 f) := ofFab rfl fun _ => rfl
theorem vlut (f) : Statement (.vlut f) := ofFab rfl fun _ => rfl
theorem vps8Mul (f) : Statement (.vps8Mul f) := ofFab rfl fun h => by
  unfold Instr.wf at h
  dsimp only at h
  simp only [Bool.and_eq_true] at h
  show (if decide (f.pd.toNat < 4) then some (.vps8Mul f) else if decide (4 ≤ f.pd.toNat) then some (.vps8Enc f) else none : Option Instr) = some (.vps8Mul f)
  simp_all
theorem vps8Enc (f) : Statement (.vps8Enc f) := ofFab rfl fun h => by
  unfold Instr.wf at h
  dsimp only at h
  simp only [Bool.and_eq_true] at h
  show (if decide (f.pd.toNat < 4) then some (.vps8Mul f) else if decide (4 ≤ f.pd.toNat) then some (.vps8Enc f) else none : Option Instr) = some (.vps8Enc f)
  simp_all
theorem vsr (f) : Statement (.vsr f) := ofFab rfl fun _ => rfl
theorem vnf (f) : Statement (.vnf f) := ofFab rfl fun _ => rfl
theorem vpack (f) : Statement (.vpack f) := ofFab rfl fun _ => rfl
theorem vunpk (f) : Statement (.vunpk f) := ofFab rfl fun _ => rfl
theorem vlog (f) : Statement (.vlog f) := ofFab rfl fun _ => rfl
theorem viadd (f) : Statement (.viadd f) := ofFab rfl fun _ => rfl
theorem vimul (f) : Statement (.vimul f) := ofFab rfl fun _ => rfl
theorem vmov (f) : Statement (.vmov f) := ofFab rfl fun _ => rfl
theorem fabChapp (f) : Statement (.fabChapp f) := ofFab rfl fun _ => rfl
theorem fabChtl (f) : Statement (.fabChtl f) := ofFab rfl fun _ => rfl
theorem fabChsq (f) : Statement (.fabChsq f) := ofFab rfl fun _ => rfl
theorem msend (f) : Statement (.msend f) := ofFab rfl fun _ => rfl
theorem tagset (f) : Statement (.tagset f) := ofFab rfl fun _ => rfl
theorem yielde (f) : Statement (.yielde f) := ofFab rfl fun _ => rfl
theorem budq (f) : Statement (.budq f) := ofFab rfl fun _ => rfl
theorem trape (f) : Statement (.trape f) := ofFab rfl fun _ => rfl
theorem brke (f) : Statement (.brke f) := ofFab rfl fun _ => rfl

end Sys2Proof.Laws.RoundTrip
end

