-- ==== Sys2Proof/Laws/Translate.lean ====
section
/-! SUPPORT. What a translation can do to the state: it takes a free choice, repairs correctable errors of the table lines its
walk reads, or keeps a leaf in a TLB, and nothing else. -/

namespace Sys2Proof.Machine

variable (s : State) (p : Nat) (va : BitVec 64) (k : AccKind) (w : Nat)

/-- An update of a paddock that leaves its contexts leaves every context. -/
theorem updPad_ctx (f : Paddock → Paddock) (h : (f (s.pad p)).ctxs = (s.pad p).ctxs) (q r : Nat) :
    (s.updPad p f).ctx q r = s.ctx q r := by
  by_cases e : q = p
  · subst e
    simp [State.updPad, State.ctx, Paddock.ctx, h]
  · unfold State.updPad State.ctx
    rw [State.pad_setPad_other _ _ _ _ e]

/-- An update of a paddock that leaves its tiles leaves every tile. -/
theorem updPad_tile (f : Paddock → Paddock) (h : (f (s.pad p)).tiles = (s.pad p).tiles) (q t : Nat) :
    (s.updPad p f).tile q t = s.tile q t := by
  by_cases e : q = p
  · subst e
    simp [State.updPad, State.tile, Paddock.tile, h]
  · unfold State.updPad State.tile
    rw [State.pad_setPad_other _ _ _ _ e]

/-- A repair touches the error list and the counter of the line's home paddock alone. -/
theorem fixLine_frame (g : Bool) (a : Nat) : s.fixLine g a = s ∨
    ∃ l c, s.fixLine g a = s.updPad (a / 2 ^ 33) fun x => { x with softLines := l, cecnt := c } := by
  unfold State.fixLine
  dsimp only
  split
  · exact .inr ⟨_, _, rfl⟩
  · exact .inl rfl

@[simp] theorem fixLine_mem (g : Bool) (a : Nat) : (s.fixLine g a).mem = s.mem := by
  obtain h | ⟨l, c, h⟩ := fixLine_frame s g a
  · rw [h]
  · rw [h]; rfl

@[simp] theorem fixLine_host (g : Bool) (a : Nat) : (s.fixLine g a).host = s.host := by
  obtain h | ⟨l, c, h⟩ := fixLine_frame s g a
  · rw [h]
  · rw [h]; rfl

@[simp] theorem fixLine_ctx (g : Bool) (a q r : Nat) : (s.fixLine g a).ctx q r = s.ctx q r := by
  obtain h | ⟨l, c, h⟩ := fixLine_frame s g a
  · rw [h]
  · rw [h]; exact updPad_ctx _ _ _ rfl q r

@[simp] theorem fixLine_tile (g : Bool) (a q t : Nat) : (s.fixLine g a).tile q t = s.tile q t := by
  obtain h | ⟨l, c, h⟩ := fixLine_frame s g a
  · rw [h]
  · rw [h]; exact updPad_tile _ _ _ rfl q t

@[simp] theorem fixLines_mem (l : List Nat) : (s.fixLines l).mem = s.mem := by
  induction l generalizing s with
  | nil => rfl
  | cons a l ih => exact (ih _).trans (by simp)

@[simp] theorem fixLines_host (l : List Nat) : (s.fixLines l).host = s.host := by
  induction l generalizing s with
  | nil => rfl
  | cons a l ih => exact (ih _).trans (by simp)

@[simp] theorem fixLines_ctx (l : List Nat) (q r : Nat) : (s.fixLines l).ctx q r = s.ctx q r := by
  induction l generalizing s with
  | nil => rfl
  | cons a l ih => exact (ih _).trans (by simp)

@[simp] theorem fixLines_tile (l : List Nat) (q t : Nat) : (s.fixLines l).tile q t = s.tile q t := by
  induction l generalizing s with
  | nil => rfl
  | cons a l ih => exact (ih _).trans (by simp)

/-- A walk repairs some lines. -/
theorem fixWalk_frame (a : BitVec 16) : ∃ l, s.fixWalk a va = s.fixLines l := by
  unfold State.fixWalk
  split
  · exact ⟨[], rfl⟩
  · exact ⟨_, rfl⟩

/-- A translation without a micro-TLB changes the free-value counter, repairs lines, and changes the TLB of its paddock, no
more. -/
theorem translate_frame : ∃ (n : Nat) (l : List Nat) (tl : List TlbEnt → List TlbEnt), (translate s p none va k w).2 = { s with free := n }.fixLines l ∨
    (translate s p none va k w).2 = (s.fixLines l).updPad p fun y => { y with tlb := tl y.tlb } := by
  unfold translate
  cases s.asidOf p with
  | none => exact ⟨s.free, [], id, .inl rfl⟩
  | some a =>
    dsimp only
    split
    · obtain ⟨l, h⟩ := fixWalk_frame { s with free := s.free + 1 } va a
      cases hc : Config.choice s.free
      · exact ⟨s.free + 1, l, id, .inl (by simp only [freeChoice, hc]; exact h)⟩
      · exact ⟨s.free + 1, [], id, .inl (by simp only [freeChoice, hc]; rfl)⟩
    · obtain ⟨l, h⟩ := fixWalk_frame s va a
      split
      · exact ⟨s.free, l, id, .inl h⟩
      · rename_i x e _
        exact ⟨s.free, l, fun t => (e :: t).take 4096, .inr (by rw [← h])⟩

@[simp] theorem translate_mem : (translate s p none va k w).2.mem = s.mem := by
  obtain ⟨n, l, tl, h | h⟩ := translate_frame s p va k w
  · rw [h, fixLines_mem]
  · rw [h]; exact fixLines_mem s l

@[simp] theorem translate_host : (translate s p none va k w).2.host = s.host := by
  obtain ⟨n, l, tl, h | h⟩ := translate_frame s p va k w
  · rw [h, fixLines_host]
  · rw [h]; exact fixLines_host s l

@[simp] theorem translate_rdByte (g : Bool) (a : Nat) : (translate s p none va k w).2.rdByte g a = s.rdByte g a := by
  simp [State.rdByte]

@[simp] theorem translate_ctx (q r : Nat) : (translate s p none va k w).2.ctx q r = s.ctx q r := by
  obtain ⟨n, l, tl, h | h⟩ := translate_frame s p va k w <;> rw [h]
  · exact fixLines_ctx { s with free := n } l q r
  · exact (updPad_ctx _ _ _ rfl q r).trans (fixLines_ctx s l q r)

@[simp] theorem translate_tile (q t : Nat) : (translate s p none va k w).2.tile q t = s.tile q t := by
  obtain ⟨n, l, tl, h | h⟩ := translate_frame s p va k w <;> rw [h]
  · exact fixLines_tile { s with free := n } l q t
  · exact (updPad_tile _ _ _ rfl q t).trans (fixLines_tile s l q t)

@[simp] theorem checkAddr_mem (n : Nat) : (checkAddr s p va n k).2.mem = s.mem := by
  unfold checkAddr; split
  · rfl
  · split
    · rfl
    · exact translate_mem s p va k n

@[simp] theorem checkAddr_host (n : Nat) : (checkAddr s p va n k).2.host = s.host := by
  unfold checkAddr; split
  · rfl
  · split
    · rfl
    · exact translate_host s p va k n

@[simp] theorem checkAddr_ctx (n q r : Nat) : (checkAddr s p va n k).2.ctx q r = s.ctx q r := by
  unfold checkAddr; split
  · rfl
  · split
    · rfl
    · exact translate_ctx s p va k n q r

theorem rdNat_congr {s t : State} (h : ∀ b, t.rdByte false b = s.rdByte false b) (a n : Nat) :
    t.rdNat false a n = s.rdNat false a n := by
  simp [State.rdNat, State.rdBytes_congr false a n h]

/-- A walk looks at the bytes of local memory alone. -/
theorem walkFrom_congr {s t : State} (h : ∀ b, t.rdByte false b = s.rdByte false b) (v : Nat) (l : List Nat) (tab : Nat) :
    walkFrom t v tab l = walkFrom s v tab l := by
  induction l generalizing tab with
  | nil => rfl
  | cons sh rest ih =>
    have e : t.rdNat false = s.rdNat false := by
      funext a n
      exact rdNat_congr h a n
    unfold walkFrom c64ok
    rw [e]
    simp only [ih]

theorem xlWalk_free (n : Nat) (a : BitVec 16) : xlWalk { s with free := n } p a va k w = xlWalk s p a va k w := by
  unfold xlWalk
  cases Tbl.find? s.roots a.toNat with
  | none => rfl
  | some r =>
    dsimp only
    rw [walkFrom_congr (s := s) (t := { s with free := n }) (fun _ => rfl)]
    rfl

/-- A translation answers what the walk answers, or what a cached leaf that covers the address gives. -/
theorem translate_answer (a : BitVec 16) (h : s.asidOf p = some a) :
    (translate s p none va k w).1 = (xlWalk s p a va k w).1 ∨
    ∃ t ∈ (s.pad p).tlb, t.covers a (va.toNat % 2 ^ 57) = true ∧
      (translate s p none va k w).1 = xlCached s p t (va.toNat % 2 ^ 57) k w := by
  unfold translate
  rw [h]
  dsimp only
  cases hf : (([] : List TlbEnt) ++ (s.pad p).tlb).find? (fun x => x.covers a (va.toNat % 2 ^ 57)) with
  | none =>
    refine .inl ?_
    dsimp only
    split <;> simp_all
  | some t =>
    dsimp only
    cases hc : Config.choice s.free with
    | true =>
      refine .inr ⟨t, by simpa using List.mem_of_find?_eq_some hf, by simpa using List.find?_some hf, ?_⟩
      simp only [freeChoice, hc]
      rfl
    | false =>
      refine .inl ?_
      simp only [freeChoice, hc]
      exact congrArg Prod.fst (xlWalk_free s p va k w _ a)

end Sys2Proof.Machine
end

