-- ==== Sys2Proof/Safety.lean ====
section
/-! DEFINITION. What counts as a safe run: no instruction is met without a meaning, and the machine stops only for want
of power (R383). -/

namespace Sys2Proof

/-- An outcome that a powered machine may have. -/
def Outcome.ok (o : Host.Outcome Machine.State Machine.Fault Machine.Refusal) : Prop :=
  match o with
  | .next _ => True
  | .fault r => r = .poweredOff
  | .refused _ => False

/-- A run that is safe for k steps. -/
def SafeFor (k : Nat) (s : Machine.State) : Prop := ∀ j, j ≤ k → Outcome.ok (core.run j s)

/-- A run that is safe for ever. -/
def Safe (s : Machine.State) : Prop := ∀ k, SafeFor k s

end Sys2Proof
end

