-- ==== Sys2Proof/Tests/Slice0.lean ====
section
/-! SUPPORT. Tests: decoding of the spec's worked encodings, ill-formed instructions refused, results of single
instructions, and for every statement with hypotheses a state and operands that meet them. -/

namespace Sys2Proof.Tests

set_option Elab.async false

open Sys2Proof.Machine Sys2Proof.Claims

/-! ## Decoding: the worked encodings of the spec, field by field -/

/-- 02_tutorial.md. -/
theorem test_word_br : decode (0b1#2 ++ 0b1#2 ++ 0b1#3 ++ 0b1000000#8 ++ 0b0#5 ++ 0b0#5 ++ 0b0#5 ++ 0b0#2 ++
      0b11111111111111111111111111111011#32) =
    some (.br { cond := 1, pc := 1, d := 0, a := 0, b := 0, w := 0, imm := 4294967291 }) := by decide +kernel

/-- 03_encoding.md. -/
theorem test_word_mov : decode (0b0#2 ++ 0b1#1 ++ 0b0#1 ++ 0b1#8 ++ 0b1100#8 ++ 0b100#8 ++ 0b0#4 ++ 0b0#2 ++ 0b0#3
      ++ 0b0#4 ++ 0b10#4 ++ 0b11#3 ++ 0b11#3 ++ 0b0#4 ++ 0b11#4 ++ 0b0#4 ++ 0b1#1) =
    some (.mov { v := true, rr := false, pm := 12, pv := 4, im := 0, tc := 0, tt := 0, dq := 0, om := 2, pu := 3, pd := 3, sa := 0, sb := 3, dst := 0, k := true }) := by decide +kernel

/-- 03_encoding.md. -/
theorem test_word_ld : decode (0b1#2 ++ 0b1#2 ++ 0b11#3 ++ 0b1010000#8 ++ 0b100#5 ++ 0b101#5 ++ 0b0#5 ++ 0b10#2 ++
      0b10000#32) =
    some (.ld { cond := 1, pc := 3, d := 4, a := 5, b := 0, w := 2, imm := 16 }) := by decide +kernel

/-- 05_sequencer.md. -/
theorem test_word_acas : decode (0b1#2 ++ 0b0#2 ++ 0b0#3 ++ 0b1010111#8 ++ 0b100#5 ++ 0b101#5 ++ 0b110#5 ++ 0b11#2
      ++ 0b0#32) =
    some (.acas { cond := 0, pc := 0, d := 4, a := 5, b := 6, w := 3, imm := 0 }) := by decide +kernel

/-- 06_element.md. -/
theorem test_word_addsat : decode (0b0#2 ++ 0b1#1 ++ 0b0#1 ++ 0b111#8 ++ 0b10#8 ++ 0b10#8 ++ 0b100#4 ++ 0b10#2 ++
      0b1#3 ++ 0b100#4 ++ 0b10#4 ++ 0b101#3 ++ 0b110#3 ++ 0b10#4 ++ 0b100#4 ++ 0b101#4 ++ 0b1#1) =
    some (.addsat { v := true, rr := false, pm := 2, pv := 2, im := 4, tc := 2, tt := 1, dq := 4, om := 2, pu := 5, pd := 6, sa := 2, sb := 4, dst := 5, k := true }) := by decide +kernel

/-- 07_stream.md. -/
theorem test_word_steer : decode (0b0#2 ++ 0b1#1 ++ 0b0#1 ++ 0b1000000#8 ++ 0b0#8 ++ 0b0#8 ++ 0b11#4 ++ 0b1#2 ++
      0b1#3 ++ 0b11#4 ++ 0b111#4 ++ 0b0#3 ++ 0b0#3 ++ 0b0#4 ++ 0b1#4 ++ 0b1100#4 ++ 0b0#1) =
    some (.steer { v := true, rr := false, pm := 0, pv := 0, im := 3, tc := 1, tt := 1, dq := 3, om := 7, pu := 0, pd := 0, sa := 0, sb := 1, dst := 12, k := false }) := by decide +kernel

/-- 08_region.md. -/
theorem test_word_cfgl : decode (0b1#2 ++ 0b0#2 ++ 0b0#3 ++ 0b1100010#8 ++ 0b0#5 ++ 0b10#5 ++ 0b111#5 ++ 0b0#2 ++
      0b1#32) =
    some (.cfgl { cond := 0, pc := 0, d := 0, a := 2, b := 7, w := 0, imm := 1 }) := by decide +kernel

/-- 09_memory.md. -/
theorem test_word_sldf : decode (0b0#2 ++ 0b1#1 ++ 0b0#1 ++ 0b1100100#8 ++ 0b100#8 ++ 0b0#8 ++ 0b0#4 ++ 0b0#2 ++
      0b0#3 ++ 0b0#4 ++ 0b10#4 ++ 0b11#3 ++ 0b10#3 ++ 0b0#4 ++ 0b1#4 ++ 0b1#4 ++ 0b1#1) =
    some (.sldf { v := true, rr := false, pm := 4, pv := 0, im := 0, tc := 0, tt := 0, dq := 0, om := 2, pu := 3, pd := 2, sa := 0, sb := 1, dst := 1, k := true }) := by decide +kernel

/-- 11_matrix.md. -/
theorem test_word_mfire : decode (0b0#2 ++ 0b1#1 ++ 0b0#1 ++ 0b10000001#8 ++ 0b1100#8 ++ 0b100#8 ++ 0b1#4 ++ 0b0#2
      ++ 0b1#3 ++ 0b1#4 ++ 0b0#4 ++ 0b11#3 ++ 0b11#3 ++ 0b0#4 ++ 0b1#4 ++ 0b1100#4 ++ 0b1#1) =
    some (.mfire { v := true, rr := false, pm := 12, pv := 4, im := 1, tc := 0, tt := 1, dq := 1, om := 0, pu := 3, pd := 3, sa := 0, sb := 1, dst := 12, k := true }) := by decide +kernel

/-- 12_vector.md. -/
theorem test_word_vfma : decode (0b0#2 ++ 0b1#1 ++ 0b0#1 ++ 0b10100011#8 ++ 0b0#8 ++ 0b0#8 ++ 0b11#4 ++ 0b0#2 ++
      0b1#3 ++ 0b11#4 ++ 0b1#4 ++ 0b0#3 ++ 0b0#3 ++ 0b0#4 ++ 0b1#4 ++ 0b1000#4 ++ 0b0#1) =
    some (.vfma { v := true, rr := false, pm := 0, pv := 0, im := 3, tc := 0, tt := 1, dq := 3, om := 1, pu := 0, pd := 0, sa := 0, sb := 1, dst := 8, k := false }) := by decide +kernel

/-- 13_engines.md. -/
theorem test_word_seqChtl : decode (0b1#2 ++ 0b0#2 ++ 0b0#3 ++ 0b1110001#8 ++ 0b0#5 ++ 0b1001#5 ++ 0b1010#5 ++ 0b0#2
      ++ 0b0#32) =
    some (.seqChtl { cond := 0, pc := 0, d := 0, a := 9, b := 10, w := 0, imm := 0 }) := by decide +kernel

/-- 13_engines.md. -/
theorem test_word_msend : decode (0b0#2 ++ 0b1#1 ++ 0b0#1 ++ 0b11100011#8 ++ 0b0#8 ++ 0b0#8 ++ 0b1#4 ++ 0b0#2 ++
      0b1#3 ++ 0b1#4 ++ 0b0#4 ++ 0b0#3 ++ 0b0#3 ++ 0b0#4 ++ 0b10#4 ++ 0b1100#4 ++ 0b1#1) =
    some (.msend { v := true, rr := false, pm := 0, pv := 0, im := 1, tc := 0, tt := 1, dq := 1, om := 0, pu := 0, pd := 0, sa := 0, sb := 2, dst := 12, k := true }) := by decide +kernel

/-- 14_tasks.md. -/
theorem test_word_lnch : decode (0b1#2 ++ 0b0#2 ++ 0b0#3 ++ 0b10000000#8 ++ 0b1001#5 ++ 0b1010#5 ++ 0b0#5 ++ 0b0#2
      ++ 0b100011000000101#32) =
    some (.lnch { cond := 0, pc := 0, d := 9, a := 10, b := 0, w := 0, imm := 17925 }) := by decide +kernel

/-- 14_tasks.md. -/
theorem test_word_budq : decode (0b0#2 ++ 0b1#1 ++ 0b0#1 ++ 0b11110001#8 ++ 0b0#8 ++ 0b0#8 ++ 0b0#4 ++ 0b0#2 ++
      0b0#3 ++ 0b0#4 ++ 0b1#4 ++ 0b0#3 ++ 0b0#3 ++ 0b0#4 ++ 0b0#4 ++ 0b10#4 ++ 0b0#1) =
    some (.budq { v := true, rr := false, pm := 0, pv := 0, im := 0, tc := 0, tt := 0, dq := 0, om := 1, pu := 0, pd := 0, sa := 0, sb := 0, dst := 2, k := false }) := by decide +kernel

/-- 15_journal.md. -/
theorem test_word_jrev : decode (0b1#2 ++ 0b0#2 ++ 0b0#3 ++ 0b10010110#8 ++ 0b100#5 ++ 0b110#5 ++ 0b0#5 ++ 0b0#2 ++
      0b1#32) =
    some (.jrev { cond := 0, pc := 0, d := 4, a := 6, b := 0, w := 0, imm := 1 }) := by decide +kernel

/-- 16_system.md. -/
theorem test_word_csrw : decode (0b1#2 ++ 0b0#2 ++ 0b0#3 ++ 0b10100011#8 ++ 0b0#5 ++ 0b101#5 ++ 0b0#5 ++ 0b0#2 ++
      0b10110#32) =
    some (.csrw { cond := 0, pc := 0, d := 0, a := 5, b := 0, w := 0, imm := 22 }) := by decide +kernel

/-- 16_system.md. -/
theorem test_word_trape : decode (0b0#2 ++ 0b1#1 ++ 0b0#1 ++ 0b11110010#8 ++ 0b0#8 ++ 0b0#8 ++ 0b10#4 ++ 0b1#2 ++
      0b10#3 ++ 0b10#4 ++ 0b0#4 ++ 0b0#3 ++ 0b0#3 ++ 0b0#4 ++ 0b10#4 ++ 0b1100#4 ++ 0b1#1) =
    some (.trape { v := true, rr := false, pm := 0, pv := 0, im := 2, tc := 1, tt := 2, dq := 2, om := 0, pu := 0, pd := 0, sa := 0, sb := 2, dst := 12, k := true }) := by decide +kernel

/-- 17_prog_dot.md. -/
theorem test_word_mfire2 : decode (0b0#2 ++ 0b1#1 ++ 0b0#1 ++ 0b10000001#8 ++ 0b1100000#8 ++ 0b100000#8 ++ 0b1#4 ++
      0b0#2 ++ 0b1#3 ++ 0b1#4 ++ 0b1100#4 ++ 0b11#3 ++ 0b110#3 ++ 0b0#4 ++ 0b101#4 ++ 0b1100#4 ++ 0b1#1) =
    some (.mfire { v := true, rr := false, pm := 96, pv := 32, im := 1, tc := 0, tt := 1, dq := 1, om := 12, pu := 3, pd := 6, sa := 0, sb := 5, dst := 12, k := true }) := by decide +kernel

/-- 18_prog_int4.md. -/
theorem test_word_mcarryCfg : decode (0b0#2 ++ 0b1#1 ++ 0b0#1 ++ 0b10000111#8 ++ 0b0#8 ++ 0b0#8 ++ 0b100#4 ++ 0b0#2
      ++ 0b0#3 ++ 0b100#4 ++ 0b1#4 ++ 0b0#3 ++ 0b0#3 ++ 0b0#4 ++ 0b10#4 ++ 0b1100#4 ++ 0b0#1) =
    some (.mcarryCfg { v := true, rr := false, pm := 0, pv := 0, im := 4, tc := 0, tt := 0, dq := 4, om := 1, pu := 0, pd := 0, sa := 0, sb := 2, dst := 12, k := false }) := by decide +kernel

/-- 18_prog_int4.md. -/
theorem test_word_mcpopRead : decode (0b1#2 ++ 0b0#2 ++ 0b0#3 ++ 0b10100010#8 ++ 0b10100#5 ++ 0b0#5 ++ 0b0#5 ++
      0b0#2 ++ 0b1110001#32) =
    some (.mcpopRead { cond := 0, pc := 0, d := 20, a := 0, b := 0, w := 0, imm := 113 }) := by decide +kernel

/-- 19_prog_bfs.md. -/
theorem test_word_stas : decode (0b0#2 ++ 0b1#1 ++ 0b0#1 ++ 0b1101111#8 ++ 0b0#8 ++ 0b0#8 ++ 0b1#4 ++ 0b0#2 ++ 0b1#3
      ++ 0b1#4 ++ 0b10#4 ++ 0b0#3 ++ 0b0#3 ++ 0b1001#4 ++ 0b0#4 ++ 0b1#4 ++ 0b0#1) =
    some (.stas { v := true, rr := false, pm := 0, pv := 0, im := 1, tc := 0, tt := 1, dq := 1, om := 2, pu := 0, pd := 0, sa := 9, sb := 0, dst := 1, k := false }) := by decide +kernel

/-- 19_prog_bfs.md. -/
theorem test_word_infl : decode (0b0#2 ++ 0b1#1 ++ 0b0#1 ++ 0b1001101#8 ++ 0b0#8 ++ 0b0#8 ++ 0b100#4 ++ 0b0#2 ++
      0b0#3 ++ 0b100#4 ++ 0b10#4 ++ 0b11#3 ++ 0b10#3 ++ 0b10#4 ++ 0b111#4 ++ 0b11#4 ++ 0b0#1) =
    some (.infl { v := true, rr := false, pm := 0, pv := 0, im := 4, tc := 0, tt := 0, dq := 4, om := 2, pu := 3, pd := 2, sa := 2, sb := 7, dst := 3, k := false }) := by decide +kernel

/-- 20_prog_residual.md. -/
theorem test_word_sstw : decode (0b0#2 ++ 0b1#1 ++ 0b0#1 ++ 0b1100111#8 ++ 0b0#8 ++ 0b0#8 ++ 0b11#4 ++ 0b1#2 ++
      0b1#3 ++ 0b11#4 ++ 0b0#4 ++ 0b0#3 ++ 0b0#3 ++ 0b0#4 ++ 0b1#4 ++ 0b1100#4 ++ 0b0#1) =
    some (.sstw { v := true, rr := false, pm := 0, pv := 0, im := 3, tc := 1, tt := 1, dq := 3, om := 0, pu := 0, pd := 0, sa := 0, sb := 1, dst := 12, k := false }) := by decide +kernel

/-- 20_prog_residual.md. -/
theorem test_word_slde : decode (0b0#2 ++ 0b1#1 ++ 0b0#1 ++ 0b1100101#8 ++ 0b0#8 ++ 0b0#8 ++ 0b100#4 ++ 0b10#2 ++
      0b1#3 ++ 0b100#4 ++ 0b1#4 ++ 0b0#3 ++ 0b0#3 ++ 0b0#4 ++ 0b10#4 ++ 0b11#4 ++ 0b0#1) =
    some (.slde { v := true, rr := false, pm := 0, pv := 0, im := 4, tc := 2, tt := 1, dq := 4, om := 1, pu := 0, pd := 0, sa := 0, sb := 2, dst := 3, k := false }) := by decide +kernel

/-- 21_prog_splice.md. -/
theorem test_word_vsumxAcc : decode (0b0#2 ++ 0b1#1 ++ 0b0#1 ++ 0b10110001#8 ++ 0b0#8 ++ 0b0#8 ++ 0b1#4 ++ 0b0#2 ++
      0b1#3 ++ 0b1#4 ++ 0b0#4 ++ 0b0#3 ++ 0b1#3 ++ 0b0#4 ++ 0b1#4 ++ 0b1000#4 ++ 0b1#1) =
    some (.vsumxAcc { v := true, rr := false, pm := 0, pv := 0, im := 1, tc := 0, tt := 1, dq := 1, om := 0, pu := 0, pd := 1, sa := 0, sb := 1, dst := 8, k := true }) := by decide +kernel

/-- 21_prog_splice.md. -/
theorem test_word_splc : decode (0b1#2 ++ 0b0#2 ++ 0b0#3 ++ 0b1100100#8 ++ 0b0#5 ++ 0b100#5 ++ 0b0#5 ++ 0b0#2 ++
      0b110101#32) =
    some (.splc { cond := 0, pc := 0, d := 0, a := 4, b := 0, w := 0, imm := 53 }) := by decide +kernel

/-- 22_prog_revert.md. -/
theorem test_word_jprp : decode (0b1#2 ++ 0b0#2 ++ 0b0#3 ++ 0b10010101#8 ++ 0b1001#5 ++ 0b1000#5 ++ 0b0#5 ++ 0b0#2
      ++ 0b0#32) =
    some (.jprp { cond := 0, pc := 0, d := 9, a := 8, b := 0, w := 0, imm := 0 }) := by decide +kernel

/-- ADD s3, s1, s2 (R29, Table 5-4). -/
theorem test_word_seqAdd :
    decode (0b1#2 ++ 0b0#2 ++ 0b0#3 ++ 0b1#8 ++ 0b11#5 ++ 0b1#5 ++ 0b10#5 ++ 0b0#2 ++ 0b0#32) =
    some (.seqAdd { cond := 0, pc := 0, d := 3, a := 1, b := 2, w := 0, imm := 0 }) := by decide +kernel

/-- (!p2) PNOT p2, p2 (R30, Table 5-6). -/
theorem test_word_pnot :
    decode (0b1#2 ++ 0b10#2 ++ 0b10#3 ++ 0b101000#8 ++ 0b10#5 ++ 0b10#5 ++ 0b0#5 ++ 0b0#2 ++ 0b0#32) =
    some (.pnot { cond := 2, pc := 2, d := 2, a := 2, b := 0, w := 0, imm := 0 }) := by decide +kernel

/-- WFE s9 (Table 5-9). -/
theorem test_word_wfe :
    decode (0b1#2 ++ 0b0#2 ++ 0b0#3 ++ 0b1001000#8 ++ 0b1001#5 ++ 0b0#5 ++ 0b0#5 ++ 0b0#2 ++ 0b0#32) =
    some (.wfe { cond := 0, pc := 0, d := 9, a := 0, b := 0, w := 0, imm := 0 }) := by decide +kernel

/-- RGNA s4, s5 (Table 8-8). -/
theorem test_word_rgna :
    decode (0b1#2 ++ 0b0#2 ++ 0b0#3 ++ 0b1100000#8 ++ 0b100#5 ++ 0b101#5 ++ 0b0#5 ++ 0b0#2 ++ 0b0#32) =
    some (.rgna { cond := 0, pc := 0, d := 4, a := 5, b := 0, w := 0, imm := 0 }) := by decide +kernel

/-- ERET (Table 16-11). -/
theorem test_word_eret :
    decode (0b1#2 ++ 0b0#2 ++ 0b0#3 ++ 0b10100001#8 ++ 0b0#5 ++ 0b0#5 ++ 0b0#5 ++ 0b0#2 ++ 0b0#32) =
    some (.eret { cond := 0, pc := 0, d := 0, a := 0, b := 0, w := 0, imm := 0 }) := by decide +kernel

theorem test_kind_config : decode (0b10#2 ++ 0#62) = none := by decide +kernel
theorem test_kind_reserved : decode (0b11#2 ++ 0#62) = none := by decide +kernel
/-- Opcode 0x29 is not in the sequencer map (Table 3-12), 0x20 not in the fabric map (Table 3-10). -/
theorem test_opcode_reserved_seq : decode (1#2 ++ 0#2 ++ 0#3 ++ 0x29#8 ++ 0#49) = none := by decide +kernel
theorem test_opcode_reserved_fab : decode (0#2 ++ 1#1 ++ 0#1 ++ 0x20#8 ++ 0#52) = none := by decide +kernel
/-- The bytes of a word lie lowest first (R3). -/
theorem test_table_word : decodeTableWord 64 0x52800000FFFFFFFB =
    some (.br { cond := 1, pc := 1, imm := 0xFFFFFFFB }) := by decide +kernel

/-! ## Well-formedness: an ill-formed term for each check, which the check refuses -/

theorem test_wf_cond : (Instr.seqAdd { cond := 3 }).wf = false := by decide
theorem test_wf_pc : (Instr.seqAdd { pc := 1 }).wf = false := by decide
theorem test_wf_field_d : (Instr.br { d := 1 }).wf = false := by decide
theorem test_wf_field_a : (Instr.movi { a := 1 }).wf = false := by decide
theorem test_wf_field_b : (Instr.addi { b := 1 }).wf = false := by decide
theorem test_wf_pred_high : (Instr.seqCeq { d := 8 }).wf = false := by decide
theorem test_wf_pred_a : (Instr.pnot { a := 9 }).wf = false := by decide
theorem test_wf_imm_unused : (Instr.seqAdd { imm := 1 }).wf = false := by decide
theorem test_wf_imm_shift : (Instr.shli { imm := 64 }).wf = false := by decide
theorem test_wf_imm_sel : (Instr.seqSel { imm := 8 }).wf = false := by decide
theorem test_wf_width : (Instr.seqAdd { w := 1 }).wf = false := by decide
theorem test_wf_width_atomic : (Instr.aadd { w := 1 }).wf = false := by decide
theorem test_wf_width_fence : (Instr.seqFence { w := 1 }).wf = false := by decide
theorem test_wf_row_rfold : (Instr.rfold {}).wf = false := by decide
theorem test_wf_row_csrr : (Instr.csrr { imm := 0x71 }).wf = false := by decide
theorem test_wf_row_csrw : (Instr.pgateOpen { imm := 1 }).wf = false := by decide
theorem test_wf_pu : (Instr.fabAdd { pu := 7, sb := 4, sa := 4, dst := 0 }).wf = false := by decide
theorem test_wf_dst : (Instr.fabAdd { sa := 4, sb := 4, dst := 13 }).wf = false := by decide
theorem test_wf_tt : (Instr.fabAdd { sa := 4, sb := 4, tt := 1, tc := 2 }).wf = false := by decide
theorem test_wf_dq : (Instr.fabAdd { sa := 4, sb := 4, dq := 1 }).wf = false := by decide
theorem test_wf_sa : (Instr.fabAdd { sa := 12, sb := 4 }).wf = false := by decide
theorem test_wf_sa_im : (Instr.fabAdd { sa := 1, sb := 4 }).wf = false := by decide
theorem test_wf_sb : (Instr.fabAdd { sa := 4, sb := 13 }).wf = false := by decide
theorem test_wf_sb_im : (Instr.fabAdd { sa := 4, sb := 3 }).wf = false := by decide
theorem test_wf_dst_vector : (Instr.vadd { dst := 0 }).wf = false := by decide
theorem test_wf_om : (Instr.steer { sa := 4, sb := 4, dst := 12, om := 1 }).wf = false := by decide
theorem test_wf_pd : (Instr.agen { sa := 4, sb := 4, pu := 1 }).wf = false := by decide
theorem test_wf_extra : (Instr.drop { im := 1, sb := 0, dst := 12, om := 0 }).wf = false := by decide
theorem test_wf_row_pd : (Instr.mcarryCfg { pd := 1, dst := 12 }).wf = false := by decide
theorem test_wf_good : (Instr.fabAdd { sa := 4, sb := 4, dst := 0 }).wf = true := by decide


/-! ## A small machine -/

/-- Page tables at 0x100000: one leaf of 1 GiB at virtual 0, readable, writable, executable and fit for atomics (R157). -/
def tables : List Host.Cell :=
  [(0x100000, 0x01), (0x100001, 0x10), (0x100002, 0x10), (0x101000, 0x01), (0x101001, 0x20), (0x101002, 0x10),
   (0x102000, 0x3F)]

/-- Paddock 0 up, its gate OPEN, in partition 0; LQ0 runs with every right. -/
def base : State :=
  { pads := [(0, { up := true, gate := .open_, part := some 0, fc := 10
                   ctxs := [(0, { halted := false, priv := true, rights := 15, ibud := 1000, tbud := 1000, tvec := 0x8000 })] })]
    mem := tables
    parts := [(0, { exists_ := true, mask := 1, bound := true })]
    roots := [(0, 0x100000)]
    boot := { power := true, stage := 3, running := 0 } }

/-- The small machine with LQ0, or the paddock, changed. -/
def baseC (f : Ctx → Ctx) : State := base.updCtx 0 0 f
def baseP (f : Paddock → Paddock) : State := base.updPad 0 f
def baseR (regs : Tbl (BitVec 64)) : State := baseC fun c => { c with regs := regs }

/-- The next state, where there is one. -/
def run (i : Instr) (s : State) : State :=
  match exec i s with
  | .next t => t
  | _ => s

/-- A later fc of paddock 0, with no translation cached. -/
def later (n : Nat) (s : State) : State := s.updPad 0 fun x => { x with fc := n, tlb := [] }

/-- The fc a context waits for. -/
def dueOf (s : State) : Nat :=
  match (s.ctx 0 0).wait with
  | .busy d _ => d
  | _ => 0

/-- A context in an access. -/
def inAccess (c : Ctx) : Bool :=
  match c.wait with
  | .busy _ (.access _ _) => true
  | _ => false

/-- An access is due in the fc it waits for. -/
theorem accessDue_later (t : State) (h : inAccess (t.ctx 0 0) = true) : AccessDue t (later (dueOf t) t) 0 0 := by
  have e : (later (dueOf t) t).ctx 0 0 = t.ctx 0 0 := by
    simp [later, State.updPad, State.ctx, Paddock.ctx]
  refine ⟨e, ?_⟩
  rw [e]
  unfold inAccess at h
  cases hw : (t.ctx 0 0).wait with
  | busy d op =>
    rw [hw] at h
    cases op with
    | access w va =>
      refine ⟨d, w, va, rfl, ?_⟩
      simp [later, State.updPad, State.fc, dueOf, hw]
    | _ => simp at h
  | _ => rw [hw] at h; simp at h

theorem test_base_wf : base.memWf = true := by decide

/-! ## States and operands that meet the hypotheses of the statements -/

theorem witness_ScalarResult : ∃ f v, ∃ s : State, scalarRow (.seqAdd f) = some (f, v) ∧ guardOk s.curCtx f = true :=
  ⟨{ d := 1, a := 2, b := 3 }, _, baseR [(2, 5), (3, 2 ^ 64 - 1)], rfl, by decide⟩
theorem witness_SeqNopResult : guardOk base.curCtx {} = true := by decide
theorem witness_PredicateResult : ∃ f v, ∃ s : State, predRow (.seqCltu f) = some (f, v) ∧ (Instr.seqCltu f).wf = true ∧
    guardOk s.curCtx f = true := ⟨{ d := 7, a := 2, b := 3 }, _, base, rfl, by decide, by decide⟩
theorem witness_SlowResult : ∃ f n v, slowRow (.divu f) = some (f, n, v) ∧ guardOk base.curCtx f = true ∧
    base.cur.p = (0 : Fin 32).val ∧ base.cur.q = (0 : Fin 4).val := ⟨{ d := 1 }, _, _, rfl, by decide, rfl, rfl⟩
theorem witness_FfrResult : guardOk base.curCtx { d := 1, a := 2 } = true ∧
    ((baseC fun c => { c with wait := .busy 10 (.tagIndex 1 6) }).ctx 0 0).wait = .busy 10 (.tagIndex 1 6) ∧
    10 ≤ (baseC fun c => { c with wait := .busy 10 (.tagIndex 1 6) }).fc 0 := by decide +kernel
/-- A context without privilege or rights. -/
def plain : State := baseC fun c => { c with priv := false, rights := 0 }
theorem witness_GuardFails : seqWord (.ld { cond := 1, w := 3 }) = some { cond := 1, w := 3 } ∧
    mayIssue (.ld { cond := 1, w := 3 }) plain.curCtx = true ∧ guardOk plain.curCtx { cond := 1, w := 3 } = false ∧
    seqWord (.eret { cond := 1 }) = some { cond := 1 } ∧ mayIssue (.eret { cond := 1 }) base.curCtx = false ∧
    guardOk base.curCtx { cond := 1 } = false ∧ mayIssue (.eret { cond := 1 }) (baseC fun c => { c with inTrap := true }).curCtx = true := by
  decide +kernel
theorem witness_BranchTaken : ∃ f g, branchRow (.call f) = some (f, g) ∧ guardOk base.curCtx f = true ∧
    (g base.curCtx.pc (base.curCtx.rd f.a)).toNat % 8 = 0 := ⟨{ d := 1, imm := 0xFFFFFFFF }, _, rfl, by decide, by decide⟩
theorem witness_BranchMisaligned : ∃ f g, branchRow (.jmp f) = some (f, g) ∧ guardOk base.curCtx f = true ∧
    (g base.curCtx.pc (base.curCtx.rd f.a)).toNat % 8 ≠ 0 := ⟨{ imm := 4 }, _, rfl, by decide, by decide⟩
theorem witness_BranchNotTaken : ∃ f g, branchRow (.br f) = some (f, g) ∧ guardOk base.curCtx f = false :=
  ⟨{ cond := 1, pc := 3 }, _, rfl, by decide⟩
theorem witness_TrapInstructions : guardOk base.curCtx { imm := 0x7F } = true := by decide
theorem witness_TrapsInPlace_I : (baseC fun c => { c with ibud := 0 }).curCtx.inTrap = false ∧
    (baseC fun c => { c with ibud := 0 }).curCtx.ibud.toInt ≤ 0 := by decide
theorem witness_TrapsInPlace_T : (baseC fun c => { c with tbud := 0 }).curCtx.inTrap = false ∧
    0 < (baseC fun c => { c with tbud := 0 }).curCtx.ibud.toInt ∧
    (baseC fun c => { c with tbud := 0 }).curCtx.tbud.toInt ≤ 0 := by decide
/-- LQ0 in a handler that returns to an address. -/
def handler (epc tvec : BitVec 64) : State := baseC fun c => { c with epc := epc, tvec := tvec, inTrap := true }
theorem witness_EretReturns : guardOk (handler 0x108 0x8000).curCtx {} = true ∧ (handler 0x108 0x8000).curCtx.inTrap = true ∧
    (handler 0x108 0x8000).curCtx.epc.toNat % 8 = 0 ∧ (handler 0x104 0).curCtx.epc.toNat % 8 ≠ 0 ∧
    (handler 0x104 0).curCtx.tvec = 0 := by decide
theorem witness_CsrReads : csrRead base 0 0 0x034 = some 8 ∧ csrRead base 0 0 0x009 = none := by decide +kernel
theorem witness_CsrWriteReadsBack : ∃ g, csrRow 0x0FF = some g ∧ (0x0FF : BitVec 32).toNat % 4096 = 0x0FF ∧
    guardOk base.curCtx { imm := 0x0FF } = true ∧ csrRead base 0 0 0x0FF = some 0 ∧ csrRead base 0 0 0x034 = some 8 :=
  ⟨_, rfl, by decide, by decide, by decide +kernel, by decide +kernel⟩
theorem witness_CsrWriteReadsBack_user : (∃ g, csrRow 0x000 = some g) ∧ (∃ g, csrRow 0x037 = some g) ∧
    base.curCtx.priv = true ∧ (csrRow 0x009).isNone = true ∧ plain.curCtx.priv = false := ⟨⟨_, rfl⟩, ⟨_, rfl⟩, by decide⟩
theorem witness_PrivilegeChecked : plain.curCtx.priv = false ∧ (∀ n, n < 4 → plain.curCtx.rights.getLsbD n = false) ∧
    plain.curCtx.inTrap = false ∧ 0x034 ≤ (0x035 : BitVec 32).toNat % 4096 ∧ (0x035 : BitVec 32).toNat % 4096 ≤ 0x037 := by decide
theorem witness_TagWaits : guardOk base.curCtx { a := 2 } = true := by decide
/-- LQ0 waits for tags, TAGS 5. -/
def tagged (all : Bool) (m : BitVec 64) : State := baseC fun c => { c with tags := 5, wait := .tags all m }
theorem witness_TagWaits_met : ((tagged true 5).ctx 0 0).wait = .tags true 5 ∧ ((tagged true 5).ctx 0 0).tags &&& 5 = 5 ∧
    ((tagged true 6).ctx 0 0).tags &&& 6 ≠ 6 ∧ ((tagged false 6).ctx 0 0).tags &&& 6 ≠ 0 ∧
    ¬ ((2 : BitVec 64) = 0 ∨ ((tagged false 2).ctx 0 0).tags &&& 2 ≠ 0) := by decide
theorem witness_WfeAndWake_wfe :
    let s := baseC fun c => { c with latch := true, wait := .wfe 7 1 }
    (s.ctx 0 0).wait = .wfe 7 1 ∧ (s.ctx 0 0).latch = true ∧ 7 + 3 ≤ s.fc 0 ∧ s.fc 0 < 8 + 3 := by decide +kernel
theorem witness_WfeAndWake_gated :
    ((baseC fun c => { c with wait := .gated 1 (some 0), latch := true }).ctx 0 0).wait = .gated 1 (some 0) ∧
    ((baseC fun c => { c with wait := .gated 1 (some 0), latch := true }).ctx 0 0).latch = true := by decide
/-- Paddock 0 with LQ0 gated and the other contexts halted. -/
def idleState : State :=
  baseP fun x => { x with ctxs := [(0, { wait := .gated 1 none }), (1, { halted := true }), (2, { halted := true }), (3, { halted := true })] }
theorem witness_WfeAndWake_wake :
    let s := (baseR [(1, 6)]).setCtx 0 2 { wait := .gated 1 none }
    guardOk s.curCtx { a := 1 } = true ∧ (s.ctx 0 2).wait = .gated 1 none ∧ (s.curCtx.rd 1).getLsbD 2 = true := by decide
theorem witness_WfeAndWake_idle :
    (∀ q, q < 4 → (idleState.ctx 0 q).halted = true ∨ (idleState.ctx 0 q).wait = .gated 1 none) ∧
    (∀ e ∈ (idleState.pad 0).regions, e.2.alloc = false) ∧ (idleState.pad 0).chains = [] := by decide +kernel
theorem witness_LoadResult : loadRow (.ld { d := 1, w := 3, imm := 0x2000 }) = some ({ d := 1, w := 3, imm := 0x2000 }, false) ∧
    (checkAddr base 0 0x2000 8 .read).1 = .ok 0x2000 false := by decide +kernel
/-- A 64-bit access of which one half is done. -/
def halfDone (opc : BitVec 8) (high : Bool) : State :=
  baseC fun c => { c with wait := .busy 10 (.half (seqPack opc { w := 3, d := 1, b := 2 }) 0x2000 0x2000 false high 7) }
theorem witness_HalfDone (high : Bool) :
    ((halfDone 0x50 high).ctx 0 0).wait = .busy 10 (.half (seqPack 0x50 { w := 3, d := 1, b := 2 }) 0x2000 0x2000 false high 7) ∧
    memKind (seqOpc (seqPack 0x50 { w := 3, d := 1, b := 2 })).toNat = .read ∧
    memKind (seqOpc (seqPack 0x52 { w := 3, d := 1, b := 2 })).toNat = .write ∧ 10 ≤ (halfDone 0x52 high).fc 0 ∧
    halfLate (halfDone 0x50 high) 0 0 0x2000 = false ∧ (translate (halfDone 0x50 high) 0 none 0x2000 .read 8).1 = .ok 0x2000 false ∧
    ((translate (halfDone 0x50 high) 0 none 0x2000 .read 8).2).badLine false 0x2000 = false := by
  cases high <;> decide +kernel
theorem witness_LoadResult_due :
    let t := run (.ld { d := 1, w := 3, imm := 0x2000 }) base
    let u := later (dueOf t) t
    AccessDue t u 0 0 ∧ (translate u 0 none 0x2000 .read 8).1 = .ok 0x2000 false ∧
    (translate u 0 none 0x2000 .read 8).2.badLine false 0x2000 = false :=
  ⟨accessDue_later _ (by decide +kernel), by decide +kernel, by decide +kernel⟩

/-! ## The identity mapping of the small machine, whatever the TLB serves -/

/-- The first GiB of paddock 0's address space maps to itself, and no line of it is in error. -/
structure Idn (s : State) : Prop where
  asid : s.asidOf 0 = some 0
  root : Tbl.find? s.roots 0 = some 0x100000
  e0 : s.rdNat false 0x100000 8 = 0x101001
  e1 : s.rdNat false 0x101000 8 = 0x102001
  e2 : s.rdNat false 0x102000 8 = 0x3F
  tlb : ∀ t ∈ (s.pad 0).tlb, t = { asid := 0, base := 0, size := 2 ^ 30, leaf := 0x3F }
  bad : (s.pad 0).badLines = []
  soft : (s.pad 0).softLines = []

theorem Idn.walk {s : State} (h : Idn s) (va : BitVec 64) (k : AccKind) (n : Nat) (hv : va.toNat < 2 ^ 30) :
    xlWalk s 0 0 va k n =
      (.ok va.toNat false, some { asid := 0, base := 0, size := 2 ^ 30, leaf := 0x3F }) := by
  have hm : va.toNat % 2 ^ 57 = va.toNat := Nat.mod_eq_of_lt (by omega)
  have hw : walkFrom s va.toNat 0x100000 walkLevels = .leaf 0x3F 0 (2 ^ 30) := by
    have a0 : va.toNat >>> 48 = 0 := by rw [Nat.shiftRight_eq_div_pow]; omega
    have a1 : va.toNat >>> 39 = 0 := by rw [Nat.shiftRight_eq_div_pow]; omega
    have a2 : va.toNat >>> 30 = 0 := by rw [Nat.shiftRight_eq_div_pow]; omega
    simp [walkLevels, walkFrom, a0, a1, a2, h.e0, h.e1, h.e2]
  unfold xlWalk
  rw [show (0 : BitVec 16).toNat = 0 from rfl, h.root]
  dsimp only
  rw [show (0x100000 : BitVec 64).toNat = 0x100000 from rfl, hm, hw]
  have hm' : va.toNat % 2 ^ 30 = va.toNat := Nat.mod_eq_of_lt hv
  have hr : ∀ wr, reachable s 0 va.toNat wr = true := by
    intro wr
    have : va.toNat / 2 ^ 33 = 0 := by omega
    have h2 : va.toNat < 2 ^ 38 := by omega
    simp only [reachable, this, h2]
    rfl
  have hl : leafOk 0x3F k = true := by cases k <;> rfl
  dsimp only
  rw [hm', leafAddr, hl, Nat.zero_add]
  dsimp only
  rw [hr]
  simp

theorem Idn.frame {s t : State} (h : Idn s) (a : t.asidOf 0 = s.asidOf 0) (b : t.roots = s.roots)
    (c : ∀ x, 0x100000 ≤ x → x < 0x103000 → t.rdByte false x = s.rdByte false x)
    (d : ∀ e ∈ (t.pad 0).tlb, e ∈ (s.pad 0).tlb ∨ e = { asid := 0, base := 0, size := 2 ^ 30, leaf := 0x3F })
    (e : (t.pad 0).badLines = (s.pad 0).badLines) (f : (t.pad 0).softLines = (s.pad 0).softLines) : Idn t := by
  have r : ∀ n x, 0x100000 ≤ x → x + n ≤ 0x103000 → t.rdBytes false x n = s.rdBytes false x n := by
    intro n
    induction n with
    | zero => intros; rfl
    | succ n ih => intro x h1 h2; rw [State.rdBytes, State.rdBytes, ih _ (by omega) (by omega), c _ h1 (by omega)]
  refine ⟨a.trans h.asid, b ▸ h.root, ?_, ?_, ?_, fun x hx => (d x hx).elim (h.tlb x) id, e.trans h.bad, f.trans h.soft⟩
  · rw [State.rdNat, r _ _ (by omega) (by omega)]; exact h.e0
  · rw [State.rdNat, r _ _ (by omega) (by omega)]; exact h.e1
  · rw [State.rdNat, r _ _ (by omega) (by omega)]; exact h.e2

theorem asidOf_tlb (s : State) (l : Paddock → List TlbEnt) :
    (s.updPad 0 fun y => { y with tlb := l y }).asidOf 0 = s.asidOf 0 := by
  have e : (s.updPad 0 fun y => { y with tlb := l y }).pad 0 = { s.pad 0 with tlb := l (s.pad 0) } := by
    rw [State.updPad, State.pad_setPad_same]
  unfold State.asidOf State.spaceOf
  rw [e]
  rfl

theorem Idn.fixWalk {s : State} (h : Idn s) (va : BitVec 64) (hv : va.toNat < 2 ^ 30) : s.fixWalk 0 va = s := by
  have hm : va.toNat % 2 ^ 57 = va.toNat := Nat.mod_eq_of_lt (by omega)
  have a0 : va.toNat >>> 48 = 0 := by rw [Nat.shiftRight_eq_div_pow]; omega
  have a1 : va.toNat >>> 39 = 0 := by rw [Nat.shiftRight_eq_div_pow]; omega
  have a2 : va.toNat >>> 30 = 0 := by rw [Nat.shiftRight_eq_div_pow]; omega
  have hw : walkReads s va.toNat 0x100000 walkLevels = [0x100000, 0x101000, 0x102000] := by
    simp [walkLevels, walkReads, a0, a1, a2, h.e0, h.e1, h.e2]
  have hf : ∀ a, a < 2 ^ 33 → s.fixLine false a = s := by
    intro a ha
    unfold State.fixLine
    dsimp only
    rw [Nat.div_eq_of_lt ha, h.soft]
    rfl
  unfold State.fixWalk
  rw [show (0 : BitVec 16).toNat = 0 from rfl, h.root]
  dsimp only
  rw [show (0x100000 : BitVec 64).toNat = 0x100000 from rfl, hm, hw]
  simp [State.fixLines, hf]

theorem Idn.translate {s : State} (h : Idn s) (va : BitVec 64) (k : AccKind) (n : Nat) (hv : va.toNat < 2 ^ 30) :
    (translate s 0 none va k n).1 = .ok va.toNat false ∧ Idn (Machine.translate s 0 none va k n).2 := by
  have hm : va.toNat % 2 ^ 57 = va.toNat := Nat.mod_eq_of_lt (by omega)
  constructor
  · rcases translate_answer s 0 va k n 0 h.asid with e | ⟨t, ht, _, e⟩
    · rw [e, h.walk va k n hv]
    · rw [e, h.tlb t ht, hm]
      have hr : ∀ wr, reachable s 0 va.toNat wr = true := by
        intro wr
        have : va.toNat / 2 ^ 33 = 0 := by omega
        have h2 : va.toNat < 2 ^ 38 := by omega
        simp only [reachable, this, h2]
        rfl
      have hl : leafOk 0x3F k = true := by cases k <;> rfl
      rw [xlCached, show (0x3F : BitVec 64) &&& 0xFF = 0x3F from rfl, leafAddr, hl]
      simp [hr]
  · unfold Machine.translate
    rw [h.asid]
    dsimp only
    split
    · have hn : Idn { s with free := s.free + 1 } := h.frame rfl rfl (fun _ _ _ => rfl) (fun _ h => .inl h) rfl rfl
      cases hc : Config.choice s.free <;> simp only [freeChoice, hc]
      · rw [if_neg (by decide), hn.fixWalk va hv]; exact hn
      · rw [if_pos trivial]; exact hn
    · rw [h.walk va k n hv, h.fixWalk va hv]
      dsimp only
      refine h.frame ?_ rfl (fun _ _ _ => rfl) (fun x hx => ?_) ?_ ?_
      · exact asidOf_tlb s _
      · simp [State.updPad] at hx
        exact hx.elim .inr fun hx => .inl (List.mem_of_mem_take hx)
      · simp [State.updPad]
      · simp [State.updPad]

theorem rdBytes_append (s : State) (host : Bool) (a m n : Nat) :
    s.rdBytes host a (m + n) = s.rdBytes host a m ++ s.rdBytes host (a + m) n := by
  induction m generalizing a with
  | zero => simp [State.rdBytes]
  | succ m ih => rw [Nat.succ_add, State.rdBytes, State.rdBytes, ih]; simp [Nat.add_assoc, Nat.add_comm 1]

theorem Idn.fixLine {s : State} (h : Idn s) (a : Nat) (ha : a < 2 ^ 30) : s.fixLine false a = s := by
  have : a / 2 ^ 33 = 0 := by omega
  unfold State.fixLine
  rw [this]
  dsimp only
  rw [h.soft]
  rfl

theorem Idn.badLine {s : State} (h : Idn s) (a : Nat) (ha : a < 2 ^ 30) : s.badLine false a = false := by
  have : a / 2 ^ 33 = 0 := by omega
  unfold State.badLine
  rw [this, h.bad]
  rfl

theorem canonical_low (va : BitVec 64) (h : va.toNat < 2 ^ 30) : canonical va = true := by
  have a : va.getLsbD 56 = false := by
    rw [BitVec.getLsbD, Nat.testBit_eq_false_of_lt]
    omega
  have b : fld va 57 7 = 0 := by
    have : va.toNat >>> 57 = 0 := by rw [Nat.shiftRight_eq_div_pow]; omega
    simp [fld, this]
  unfold canonical
  rw [a, b]
  rfl

/-- Reading gives the bytes of memory. -/
theorem Idn.readVA {s : State} (h : Idn s) (k : AccKind) (fuel : Nat) (va : BitVec 64) (n : Nat) (hv : va.toNat + n < 2 ^ 30)
    (hf : n = 0 ∨ va.toNat % 64 + n ≤ 64 * fuel) :
    (readVA s 0 k fuel va n).1 = .ok (s.rdBytes false va.toNat n) ∧ Idn (Machine.readVA s 0 k fuel va n).2 ∧
      ∀ g x, (Machine.readVA s 0 k fuel va n).2.rdByte g x = s.rdByte g x := by
  induction fuel generalizing s va n with
  | zero => have : n = 0 := by omega
            subst this; exact ⟨rfl, h, fun _ _ => rfl⟩
  | succ fuel ih =>
    by_cases hn : n = 0
    · subst hn; exact ⟨rfl, h, fun _ _ => rfl⟩
    · have hva64 := va.isLt
      set m := min n (64 - va.toNat % 64) with hm
      obtain ⟨ht, hi⟩ := h.translate va k m (by omega)
      have hmem : ∀ g x, (Machine.translate s 0 none va k m).2.rdByte g x = s.rdByte g x := fun g x => by simp
      have hb := hi.badLine va.toNat (by omega)
      have hx := hi.fixLine va.toNat (by omega)
      have hva : (va + BitVec.ofNat 64 m).toNat = va.toNat + m := by
        rw [BitVec.toNat_add, BitVec.toNat_ofNat]; omega
      obtain ⟨hrec, hrec2, hrec3⟩ := ih hi (va + BitVec.ofNat 64 m) (n - m) (by rw [hva]; omega) (by rw [hva]; omega)
      unfold Machine.readVA
      rw [if_neg hn, ← hm]
      dsimp only
      rw [canonical_low va (by omega)]
      rcases hT : Machine.translate s 0 none va k m with ⟨x, s'⟩
      rw [hT] at ht hb hx hrec hrec2 hrec3 hmem
      dsimp only at ht hb hx hrec hrec2 hrec3 hmem
      subst ht
      simp only [Bool.not_true, Bool.false_eq_true, if_false, hb, hx]
      rcases hR : Machine.readVA s' 0 k fuel (va + BitVec.ofNat 64 m) (n - m) with ⟨y, s''⟩
      rw [hR] at hrec hrec2 hrec3
      dsimp only at hrec hrec2 hrec3
      subst hrec
      dsimp only
      refine ⟨?_, hrec2, fun g x => (hrec3 g x).trans (hmem g x)⟩
      rw [hva, State.rdBytes_congr false _ _ (hmem false), State.rdBytes_congr false _ _ (hmem false), ← rdBytes_append]
      congr 2
      omega

/-- A writing below 1 GiB finds its places. -/
theorem Idn.placeVA {s : State} (h : Idn s) (fuel : Nat) (va : BitVec 64) (n : Nat) (hv : va.toNat + n < 2 ^ 30) :
    ∃ ps, (placeVA s 0 fuel va n).1 = .ok ps := by
  induction fuel generalizing s va n with
  | zero => exact ⟨_, rfl⟩
  | succ fuel ih =>
    unfold Machine.placeVA
    split
    · exact ⟨_, rfl⟩
    · set m := min n (64 - va.toNat % 64) with hm
      obtain ⟨ht, hi⟩ := h.translate va .write m (by omega)
      have hb := hi.badLine va.toNat (by omega)
      dsimp only
      rw [canonical_low va (by omega)]
      rcases hT : Machine.translate s 0 none va .write m with ⟨x, s'⟩
      rw [hT] at ht hb hi
      dsimp only at ht hb hi
      subst ht
      simp only [Bool.not_true, Bool.false_eq_true, if_false]
      have hva : (va + BitVec.ofNat 64 m).toNat = va.toNat + m := by
        rw [BitVec.toNat_add, BitVec.toNat_ofNat]; omega
      obtain ⟨ps, hp⟩ := ih hi (va + BitVec.ofNat 64 m) (n - m) (by rw [hva]; omega)
      rcases hP : Machine.placeVA s' 0 fuel (va + BitVec.ofNat 64 m) (n - m) with ⟨y, s''⟩
      rw [hP] at hp
      dsimp only at hp
      subst hp
      exact ⟨_, rfl⟩

theorem Idn.readBytes {s : State} (h : Idn s) (k : AccKind) (va : BitVec 64) (n : Nat) (hv : va.toNat + n < 2 ^ 30) :
    (readBytes s 0 k va n).1 = .ok (s.rdBytes false va.toNat n) := (h.readVA k _ va n hv (.inr (by omega))).1

/-- What a reading leaves is an identity mapping of the same bytes. -/
theorem Idn.afterRead {s : State} (h : Idn s) (k : AccKind) (va : BitVec 64) (n : Nat) (hv : va.toNat + n < 2 ^ 30) :
    Idn (Machine.readBytes s 0 k va n).2 ∧ ∀ g x, (Machine.readBytes s 0 k va n).2.rdByte g x = s.rdByte g x :=
  (h.readVA k _ va n hv (.inr (by omega))).2

theorem Idn.writeBytes {s : State} (h : Idn s) (va : BitVec 64) (bs : List (BitVec 8))
    (hv : va.toNat + bs.length < 2 ^ 30) : (writeBytes s 0 va bs).1 = none := by
  obtain ⟨ps, hp⟩ := h.placeVA (bs.length / 32 + 2) va bs.length hv
  unfold Machine.writeBytes
  rcases hP : Machine.placeVA s 0 (bs.length / 32 + 2) va bs.length with ⟨y, s'⟩
  rw [hP] at hp
  dsimp only at hp
  subst hp
  rfl

/-- Writing above the tables succeeds line by line. -/
theorem Idn.writeVA {s : State} (h : Idn s) (fuel : Nat) (va : BitVec 64) (bs : List (BitVec 8)) (hl : 0x103000 ≤ va.toNat)
    (hv : va.toNat + bs.length < 2 ^ 30) : (writeVA s 0 fuel va bs).1 = none := by
  induction fuel generalizing s va bs with
  | zero => rfl
  | succ fuel ih =>
    unfold Machine.writeVA
    split
    · rfl
    · set m := min bs.length (64 - va.toNat % 64) with hm
      obtain ⟨ht, hi⟩ := h.translate va .write m (by omega)
      have hb := hi.badLine va.toNat (by omega)
      dsimp only
      rw [canonical_low va (by omega)]
      rcases hT : Machine.translate s 0 none va .write m with ⟨x, s'⟩
      rw [hT] at ht hb hi
      dsimp only at ht hb hi
      subst ht
      simp only [Bool.not_true, Bool.false_eq_true, if_false]
      have hva : (va + BitVec.ofNat 64 m).toNat = va.toNat + m := by
        rw [BitVec.toNat_add, BitVec.toNat_ofNat]; omega
      refine ih ?_ _ _ (by rw [hva]; omega) (by rw [hva, List.length_drop]; omega)
      obtain ⟨m', d, g, e⟩ := s'.wrBytes_frame false va.toNat (bs.take m)
      refine hi.frame (by rw [e]; rfl) (by rw [e]) (fun x _ hx => ?_) (fun x hx => .inl (by rw [e] at hx; exact hx))
        (by rw [e]; rfl) (by rw [e]; rfl)
      exact State.rdByte_wrBytes_below _ _ _ _ _ (by omega)

theorem Idn.writeSome {s : State} (h : Idn s) (va : BitVec 64) (bs : List (BitVec 8)) (hl : 0x103000 ≤ va.toNat)
    (hv : va.toNat + bs.length < 2 ^ 30) : (writeSome s 0 va bs).1 = none := h.writeVA _ va bs hl hv

theorem witness_StoreResult :
    let f : SeqF := { a := 1, b := 2, w := 3, imm := 0xFFFFFFF8 }
    let s := baseR [(1, 0x2008), (2, 7)]
    let t := run (.st f) s
    let u := later (dueOf t) t
    storeRow (.st f) = some f ∧ guardOk s.curCtx f = true ∧ seqVa s.curCtx f = 0x2000 ∧
    (checkAddr s 0 0x2000 8 .write).1 = .ok 0x2000 false ∧ AccessDue t u 0 0 ∧
    (translate u 0 none 0x2000 .write 8).1 = .ok 0x2000 false :=
  ⟨rfl, by decide, by decide, by decide +kernel, accessDue_later _ (by decide +kernel), by decide +kernel⟩
theorem witness_AtomicResult : ∃ g,
    let f : SeqF := { a := 1, b := 2, d := 3, w := 2 }
    let s := baseR [(1, 0x2004), (2, 7)]
    let t := run (.aadd f) s
    let u := later (dueOf t) t
    atomicRow (.aadd f) = some (f, g) ∧ (Instr.aadd f).wf = true ∧ guardOk s.curCtx f = true ∧ seqVa s.curCtx f = 0x2004 ∧
    (checkAddr s 0 0x2004 4 .atomic).1 = .ok 0x2004 false ∧ AccessDue t u 0 0 ∧
    (translate u 0 none 0x2004 .atomic 4).1 = .ok 0x2004 false ∧ u.badLine false 0x2004 = false :=
  ⟨_, rfl, by decide, by decide, by decide, by decide +kernel, accessDue_later _ (by decide +kernel),
    by decide +kernel, by decide +kernel⟩
theorem witness_FenceAndPrefComplete :
    let t := run (.seqPref { a := 1 }) (baseR [(1, 0x2000)])
    AccessDue t (later (dueOf t) t) 0 0 := accessDue_later _ (by decide +kernel)
theorem witness_AddressFaults_xlate : accessRow (.lda { a := 1 }) = some ({ a := 1 }, .read) ∧
    canonical (seqVa (baseR [(1, 2 ^ 60)]).curCtx { a := 1 }) = false := ⟨rfl, by decide +kernel⟩
theorem witness_AddressFaults_misalign :
    canonical (seqVa (baseR [(1, 0x2001)]).curCtx { a := 1, w := 1 }) = true ∧
    (seqVa (baseR [(1, 0x2001)]).curCtx { a := 1, w := 1 }).toNat % 2 ^ (1 : BitVec 2).toNat ≠ 0 := by decide
theorem witness_AddressFaults_fault : (checkAddr base 0 0x40000000 8 .read).1 = .fault cXLATE := by decide +kernel
theorem witness_AddressFaults_ecc :
    let s := (baseC fun c => { c with wait := .busy 3 (.access (seqPack 0x50 { w := 3 }) 0x2000) }).updPad 0 fun x =>
      { x with badLines := [0x2000 / 64] }
    encode (.ld { w := 3 }) = some (seqPack 0x50 { w := 3 }) ∧ 3 ≤ s.fc 0 ∧
    (translate s 0 none 0x2000 .read 8).1 = .ok 0x2000 false ∧ (translate s 0 none 0x2000 .read 8).2.badLine false 0x2000 = true :=
  ⟨rfl, by decide +kernel, by decide +kernel, by decide +kernel⟩
theorem witness_AddressFaults_timeout : ((baseC fun c => { c with wait := .busy 3 (.timeout 0x2000) }).ctx 0 0).wait =
    .busy 3 (.timeout 0x2000) ∧ 3 ≤ (baseC fun c => { c with wait := .busy 3 (.timeout 0x2000) }).fc 0 := by decide +kernel

theorem witness_AddressFaults_performed :
    let s := baseC fun c => { c with wait := .busy 3 (.access (seqPack 0x52 { w := 3 }) 0x40000000) }
    (s.ctx 0 0).wait = .busy 3 (.access (seqPack 0x52 { w := 3 }) 0x40000000) ∧
    (translate s 0 none 0x40000000 .write 8).1 = .fault cXLATE := by decide +kernel

/-- Contexts that are all halted. -/
def halts : Tbl Ctx := [(0, { halted := true }), (1, { halted := true }), (2, { halted := true }), (3, { halted := true })]
/-- Two paddocks up: 1 is CLOSED and belongs to no partition. -/
def base2 (regs : Tbl (BitVec 64)) : State := (baseR regs).setPad 1 { up := true, ctxs := halts }

theorem witness_PaddockGates : guardOk (base2 [(1, 1)]).curCtx { a := 1 } = true ∧ (base2 [(1, 1)]).curCtx.priv = true ∧
    (base2 [(1, 1)]).curCtx.wait = .ready := by decide
theorem witness_PaddockGates_open : ((base2 []).pad 0).part ≠ none ∧ ((base2 [(1, 1)]).pad 1).part = none := by decide
theorem witness_PaddockGates_close : (1 : Nat) ≠ (0 : Fin 32).val ∧ (Instr.pgateClose { a := 1, imm := 1 }).wf = true ∧
    crossing? (run (.pgateClose { a := 1, imm := 1 }) (base2 [(1, 1)])) 1 = false := by decide +kernel
/-- A context of paddock 0 is in an access of paddock 1's memory, at 0x200000000. -/
def crossingState : State :=
  let s := (base2 [(1, 1)]).updPad 1 fun x => { x with gate := .open_, part := some 0 }
  let s := { s with mem := [(0x100000, 0x01), (0x100001, 0x10), (0x100002, 0x10), (0x101000, 0x01), (0x101001, 0x20),
    (0x101002, 0x10), (0x102000, 0x3F), (0x102004, 0x02)] }
  s.setCtx 0 1 { halted := false, wait := .busy 900 (.access (seqPack 0x50 {}) 0) }
/-- Paddock 1 behind a closed gate, with a memory stile to partition 0 over its memory. -/
def stiled : State :=
  { crossingState.updPad 1 fun x => { x with gate := .closed, part := none } with
    mStiles := [(stileKey 1 0, { owner := 1, base := 2 ^ 33, log2 := 16, write := true, part := 0 })] }
/-- A load through the stile with one half done, issued in fc 3. -/
def stileHalf (tmo : BitVec 32) : State :=
  (stiled.updPad 0 fun x => { x with stiletmo := tmo }).updCtx 0 0 fun c =>
    { c with wait := .busy 3 (.half (seqPack 0x50 { w := 3 }) 0 0x200000000 false false 7), since := 3 }
theorem witness_AddressFaults_half :
    ((stileHalf 1).ctx 0 0).wait = .busy 3 (.half (seqPack 0x50 { w := 3 }) 0 0x200000000 false false 7) ∧
    memKind (seqOpc (seqPack 0x50 { w := 3 })).toNat = .read ∧ 3 ≤ (stileHalf 1).fc 0 ∧ halfLate (stileHalf 1) 0 0 0 = true ∧
    halfLate (stileHalf 0x10000) 0 0 0 = false ∧
    (translate { stileHalf 0x10000 with mStiles := [] } 0 none 0 .read 8).1 = .fault cACCESS ∧
    halfLate { stileHalf 1 with mStiles := [] } 0 0 0 = false := by decide +kernel
theorem witness_AddressFaults_half_ecc :
    let s := (halfDone 0x50 true).updPad 0 fun x => { x with badLines := [0x2000 / 64] }
    halfLate s 0 0 0x2000 = false ∧ (translate s 0 none 0x2000 .read 8).1 = .ok 0x2000 false ∧
    (translate s 0 none 0x2000 .read 8).2.badLine false 0x2000 = true := by decide +kernel
theorem witness_PaddockGates_crossing :
    crossing? (run (.pgateClose { a := 1, imm := 1 }) crossingState) 1 = true := by decide +kernel
theorem witness_PaddockGates_reset : ((base2 [(1, 1)]).pad 1).down = false ∧
    ((base2 [(1, 0x10001)]).curCtx.rd 1).getLsbD 16 = true := by decide
theorem witness_PaddockGates_freq : (0x300 : Nat) / 256 % 4 = 3 ∧ (0x200 : Nat) / 256 % 4 ≠ 3 ∧
    (Instr.pgateFreq { a := 1, imm := 4 }).wf = true := by decide
theorem witness_PaddockGates_form : placements.contains 5 = false ∧ placements.contains 2 = true ∧
    ((base2 []).pad 1).gate = .closed ∧ ((base2 []).pad 1).up = true ∧ ((base2 []).pad 1).down = false ∧
    (∀ q, q < 4 → (((base2 []).pad 1).ctx q).halted = true) ∧ ((base2 []).pad 1).regions = [] ∧
    (∀ k, k < 32 → (2 : BitVec 32).getLsbD k = false → ((base2 []).pad k).part ≠ some 1) ∧
    ((base2 []).pad 0).gate ≠ .closed := by decide +kernel
theorem witness_PaddockGates_wait :
    let s := baseC fun c => { c with wait := .poll (seqPack 0xA6 { imm := 1, a := 1 }) 0, regs := [(1, 1)] }
    crossing? s (gatePad s { imm := 1, a := 1 } 0 0) = false ∧ (s.pad (gatePad s { imm := 3, a := 1 } 0 0)).gate ≠ .resetting ∧
    0 ≤ s.now := by decide +kernel
/-- Output 1 of tile (11, 3) of paddock 0 to tile (0, 3) of paddock 1. -/
theorem witness_Stiles_channel :
    let a : Nat := 0 + 11 * 256 + 3 * 4096 + 1 * 65536
    let b : Nat := 1 + 0 * 256 + 3 * 4096
    [a / 256 % 16, a / 4096 % 16, b / 256 % 16, b / 4096 % 16].all (· < 12) = true ∧ a % 32 ≠ b % 32 ∧
    onEdge (tileAt 0 3) = true ∧ (base2 []).chStiles.length < 8 ∧ Tbl.find? (base2 []).chStiles (stileKey 1 0) = none ∧
    Tbl.find? (base2 []).mStiles (stileKey 1 0) = none := by decide +kernel
theorem witness_Stiles_memory : 16 ≤ (16 : Nat) ∧ (16 : Nat) ≤ 33 ∧ (2 ^ 33 : Nat) / 2 ^ 33 < 32 ∧ (2 ^ 33 : Nat) % 2 ^ 16 = 0 ∧
    (base2 []).mStiles.length < 8 := by decide +kernel
theorem witness_Stiles_close : (0x103 : BitVec 64) = BitVec.ofNat 64 ((0x103 : BitVec 64).toNat % 64 + 256 * ((0x103 : BitVec 64).toNat / 256 % 32)) ∧
    Tbl.find? [(stileKey 1 3, ({ owner := 1, base := 2 ^ 33, log2 := 16, write := true, part := 0 } : MemStile))] (stileKey 1 3) ≠ none := by
  decide +kernel
theorem witness_ContextSaveAndRestore_save :
    let s := baseR [(1, 2), (2, 0x200000)]
    (2 : Nat) ≠ (0 : Fin 4).val ∧ (s.ctx 0 2).saved = false ∧ canonical (s.curCtx.rd 2) = true ∧
    (s.curCtx.rd 2).toNat % 64 = 0 ∧ Claims.standsStill (s.ctx 0 2) = true ∧
    (writeBytes s 0 0x200000 (ctxBytes (s.ctx 0 2) 0 2)).1 = none :=
  ⟨by decide, by decide, by decide, by decide, by decide,
    Idn.writeBytes (by constructor <;> decide +kernel) _ _ (by decide +kernel)⟩
theorem witness_ContextSaveAndRestore_fault :
    let s := baseR [(1, 2), (2, 0x40000000)]
    (writeBytes s 0 0x40000000 (ctxBytes (s.ctx 0 2) 0 2)).1 = some (cXLATE, 0x40000000) := by decide +kernel
theorem witness_ContextSaveAndRestore_wait :
    let s := (baseR [(1, 2), (2, 0x2000)]).setCtx 0 2 { halted := false, wait := .busy 99 .nothing }
    (s.ctx 0 2).saved = false ∧ Claims.standsStill (s.ctx 0 2) = false := by decide +kernel
theorem witness_ContextSaveAndRestore_restore :
    let s := { (baseR [(1, 2), (2, 0x200000)]).setCtx 0 2 { halted := true } with mem := tables ++ [(0x200101, 8)] }
    let bs := s.rdBytes false 0x200000 512
    (s.ctx 0 2).halted = true ∧ (readBytes s 0 .read 0x200000 512).1 = .ok bs ∧ natOfBytes (bs.take 8) % 8 = 0 ∧
    natOfBytes ((bs.drop 0x100).take 8) / 2 ^ 10 % 4 = 2 ∧ natOfBytes ((bs.drop 0x100).take 8) / 2 ^ 12 % 32 = 0 :=
  ⟨by decide, Idn.readBytes (by constructor <;> decide +kernel) _ _ _ (by decide), by decide +kernel, by decide +kernel,
    by decide +kernel⟩
theorem witness_ContextSaveAndRestore_mismatch :
    let s := baseR [(1, 2), (2, 0x200000)]
    let bs := s.rdBytes false 0x200000 512
    (readBytes s 0 .read 0x200000 512).1 = .ok bs ∧ natOfBytes ((bs.drop 0x100).take 8) / 2 ^ 10 % 4 ≠ 2 :=
  ⟨Idn.readBytes (by constructor <;> decide +kernel) _ _ _ (by decide), by decide +kernel⟩
theorem witness_PowerClamp : (base.pad 0).up = true ∧ (base.pad 0).freq ≠ .f3 ∧ (base.pad 0).gate ≠ .resetting ∧
    ({ base with lowered := [0] } : State).lowered = 0 :: [] := by decide

/-! ## Regions -/

theorem Idn.readImage {s : State} (h : Idn s) (r c hh w : Nat) (fold : Option (BitVec 2)) (va : BitVec 64)
    (x : Option (Nat × BitVec 8)) (h8 : va.toNat % 8 = 0) (hv : va.toNat + 264 * hh * w < 2 ^ 30)
    (hx : imageFault r c hh w fold (wordsOf (33 * hh * w) (s.rdBytes false va.toNat (264 * hh * w))) = x) :
    ∃ ws, (readImage s 0 r c hh w fold va).1 = match x with
      | some (i, e) => .error (.word e (va + BitVec.ofNat 64 (8 * i)) (ws.getD i 0))
      | none => .ok ws := by
  refine ⟨wordsOf (33 * hh * w) (s.rdBytes false va.toNat (264 * hh * w)), ?_⟩
  have hr := h.readBytes .exec va (264 * hh * w) hv
  unfold Machine.readImage
  rw [canonical_low va (by omega), if_neg (by simp), if_neg (by omega)]
  rcases hR : Machine.readBytes s 0 .exec va (264 * hh * w) with ⟨y, s'⟩
  rw [hR] at hr
  dsimp only at hr
  subst hr
  dsimp only
  rw [hx]
  cases x <;> rfl

/-- An image of one tile without instructions, at 0x200000: the header for tile (1, 1) with its FOLD, 8 routing words and 8
constants (Table 3-8). -/
def imageCells (hdr : BitVec 8) : List Host.Cell :=
  [(0x200007, hdr), (0x20008F, 0x80), (0x200097, 0x80), (0x20009F, 0x80), (0x2000A7, 0x80), (0x2000AF, 0x80),
   (0x2000B7, 0x80), (0x2000BF, 0x80), (0x2000C7, 0x80), (0x2000CF, 0x90), (0x2000D7, 0x92), (0x2000DF, 0x94),
   (0x2000E7, 0x96), (0x2000EF, 0x98), (0x2000F7, 0x9A), (0x2000FF, 0x9C), (0x200107, 0x9E)]

/-- A tile's configuration of 33 words: a header with GEN, and slots. -/
def cfgOf (gen : Bool) (slots : List (BitVec 64)) : List (BitVec 64) :=
  (BitVec.ofNat 64 (gen.toNat * 2 ^ 41)) :: (slots ++ List.replicate (32 - slots.length) 0)

/-- Region 3 of LQ0: tile (1, 1), slot 0 active, slot 1 loaded with the other GEN. -/
def reg3 : Region :=
  { alloc := true, row0 := 1, col0 := 1, h := 1, w := 1, fullH := 1, act := some 0, st := .running }

def regState (regs : Tbl (BitVec 64)) (r : Region) (mem : List Host.Cell) (wait : Wait) : State :=
  let s := (baseR regs).updPad 0 fun x =>
    { x with regions := [(3, r)], tiles := [(13, { cfgs := [(0, cfgOf false []), (1, cfgOf true [])] })] }
  let s := s.updCtx 0 0 fun c => { c with wait := wait }
  { s with mem := tables ++ mem }

theorem named_regState (r : Region) (mem : List Host.Cell) (f : SeqF) (ha : f.a = 1) (hc : f.cond = 0) (hr : r.alloc = true)
    (ho : r.owner = 0) (w : Wait) : Names (regState [(1, 3), (2, 0x200000)] r mem w) 0 0 f 3 :=
  ⟨rfl, rfl, by simp [guardOk, hc], by rw [ha]; rfl, hr, ho⟩

theorem polls_regState (r : Region) (mem : List Host.Cell) (opc : BitVec 8) (f : SeqF) (ha : f.a = 1) (hr : r.alloc = true)
    (ho : r.owner = 0) (st : Nat) :
    PollsOn (regState [(1, 3), (2, 0x200000)] r mem (.poll (seqPack opc f) st)) 0 0 opc f st 3 :=
  ⟨rfl, by rw [ha]; rfl, hr, ho⟩

theorem witness_RegionOwnership : regionRow (.rgnf { a := 1 }) = some { a := 1 } ∧
    ((baseR [(1, 3)]).region 0 3).alloc = false := ⟨rfl, by decide⟩
theorem witness_RegionAdmission_descriptor :
    (11 : Nat) + 1 ≤ 12 ∧ (0x1100B : Nat) % 16 = 11 ∧ (0x1100B : Nat) / 2 ^ 16 % 4 = 1 ∧ 12 < 0x10C % 16 + (0x10C / 256 % 16 + 1) := by
  decide
theorem witness_RegionAdmission_try :
    ((baseC fun c => { c with wait := .poll (seqPack 0x60 { imm := 1 }) 0 }).ctx 0 0).wait = .poll (seqPack 0x60 { imm := 1 }) 0 ∧
    (1 : BitVec 32).getLsbD 0 = true := by decide +kernel
/-- A bid of LQ0 for one tile at (2, 5). -/
def bid25 (k : BidKind) : Bid := { kind := k, row0 := 2, col0 := 5, h := 1, w := 1, mode := 0, prio := 0, q := 0, arr := 0 }
theorem witness_RegionAdmission_alone :
    let s := (baseC fun c => { c with wait := .poll (seqPack 0x60 {}) 0 }).updPad 0 fun x => { x with bids := [bid25 (.ctx 0)] }
    (s.pad 0).bids = [bid25 (.ctx 0)] ∧ (bid25 (.ctx 0)).mode = 0 ∧ 2 + 1 ≤ 12 ∧ 5 + 1 ≤ 12 ∧ (s.pad 0).regions = [] ∧
    (s.region 0 0).alloc = false ∧ (s.pad 0).trace.mode = 0 ∧ (s.pad 0).trace.till ≤ s.fc 0 := by decide +kernel
theorem witness_RegionAdmission_admit :
    let s := (baseC fun c => { c with wait := .poll (seqPack 0x60 {}) 0 }).updPad 0 fun x => { x with bids := [bid25 (.ctx 0)] }
    pickBid s 0 = (.grant 0 2 5, s) ∧ (s.pad 0).bids[0]? = some (bid25 (.ctx 0)) ∧ (s.pad 0).freeId = some 0 ∧
    (s.ctx 0 0).wait = .poll (seqPack 0x60 {}) 0 ∧ (s.pad 0).trace.mode = 0 := by decide +kernel
theorem witness_ArbiterChoice :
    let x : Paddock := { bids := [{ bid25 (.ctx 0) with row0 := 1 }, { bid25 (.ctx 1) with prio := 1 }] }
    (∀ b ∈ x.bids, b.hol = none) ∧ pickRanked x = .grant 1 2 5 := by decide +kernel
theorem witness_RegionLoad_names : Names (regState [(1, 3), (2, 0x200000)] reg3 [] .ready) 0 0 { a := 1, b := 2, imm := 2 } 3 :=
  named_regState _ _ _ rfl rfl rfl rfl _
theorem witness_RegionLoad_taken : reg3.task = none ∧ reg3.act = some (BitVec.ofNat 2 (0 % 4)) ∧
    { reg3 with task := some 5 }.task ≠ none := by decide
theorem witness_RegionLoad_image :
    let s := regState [(1, 3), (2, 0x200000)] reg3 (imageCells 0xA4) .ready
    ∃ img, (readImage s 0 1 1 1 1 none 0x200000).1 = .ok img :=
  Idn.readImage (by constructor <;> decide +kernel) 1 1 1 1 none 0x200000 none (by decide) (by decide) (by decide +kernel)
theorem witness_RegionLoad_badword :
    let s := regState [(1, 3), (2, 0x200000)] reg3 [] .ready
    ∃ c va w, (readImage s 0 1 1 1 1 none 0x200000).1 = .error (.word c va w) :=
  have ⟨_, h⟩ := Idn.readImage (s := regState [(1, 3), (2, 0x200000)] reg3 [] .ready) (by constructor <;> decide +kernel)
    1 1 1 1 none 0x200000 (some (0, 0x0E)) (by decide) (by decide) (by decide +kernel)
  ⟨_, _, _, h⟩
theorem witness_RegionLoad_address : (readImage base 0 1 1 1 1 none 0x200004).1 = .error (.addr cMISALIGN 0x200004) := by
  unfold readImage
  rw [canonical_low _ (by decide)]
  rfl
theorem witness_RegionActivate :
    let s := regState [(1, 3)] reg3 [] .ready
    reg3.task = none ∧ reg3.spl = none ∧ reg3.dec = none ∧ slotLoaded s 0 reg3 1 = true ∧ slotLoaded s 0 reg3 2 = false ∧
    reg3.st ≠ .trapped ∧ reg3.saved = false ∧ (8 : BitVec 32).getLsbD 3 = true ∧ (4 : BitVec 32).getLsbD 2 = true := by
  decide +kernel
theorem witness_RegionActivate_ready :
    let s := regState [(1, 3), (2, 0x200000)] reg3 [] (.poll (seqPack 0x63 { a := 1, imm := 1 }) 0)
    PollsOn s 0 0 0x63 { a := 1, imm := 1 } 0 3 ∧ (1 : BitVec 32).getLsbD 2 = false ∧ Drained s 0 3 (s.region 0 3) :=
  ⟨polls_regState _ _ _ _ rfl rfl rfl _, by decide, by unfold Drained OpsDone NoMatrixWork; decide +kernel⟩
/-- LQ0 waits in CFGA with FORCE of the frozen and saved region 3, in which a flush token is pending. -/
def forceState (pend : BitVec 6) : State :=
  (regState [(1, 3), (2, 0x200000)] { reg3 with st := .frozen, saved := true } [] (.poll (seqPack 0x63 { a := 1, imm := 5 }) 0)).updTile
    0 13 fun x => { x with pend := [(0, pend)] }
theorem witness_RegionActivate_force : settled (forceState 0) 0 ((forceState 0).region 0 3) = true ∧
    (5 : BitVec 32).getLsbD 2 = true ∧ (∀ k ∈ reg3.tileList, ∀ e ∈ ((forceState 0).tile 0 k).pend, e.2 = 0) ∧
    ((forceState 3).tile 0 13).pend = [(0, 3)] ∧
    ¬ Drained (regState [] reg3 [] .ready |>.updTile 0 13 fun x => { x with pend := [(0, 1)] }) 0 3 reg3 := by
  refine ⟨by decide +kernel, by decide, by decide +kernel, by decide +kernel, fun h => ?_⟩
  exact absurd (h.2.2 13 (by decide) |>.2 (0, 1) (by decide +kernel)) (by decide)
/-- A splice armed, of slot 1. -/
def spl3 : Splice := { succ := 1, tag := some 9, q := 0, oldGen := false }
theorem witness_RegionActivate_splice : { reg3 with spl := some spl3 }.spl = some spl3 ∧ spl3.succ.toNat = 1 ∧
    { reg3 with dec := some 2 }.dec = some 2 := by decide
theorem witness_SpliceArms :
    let s := regState [(1, 3)] reg3 [] .ready
    ∃ c d, reg3.cfgIn s 0 1 = some c ∧ reg3.cfgIn s 0 0 = some d ∧ hdrGen c.hdr ≠ hdrGen d.hdr ∧ slotLoaded s 0 reg3 2 = false ∧
    { reg3 with act := none }.act = none :=
  ⟨cfgOf true [], cfgOf false [], by decide +kernel, by decide +kernel, by decide +kernel, by decide +kernel, rfl⟩
theorem witness_SpliceSwaps :
    let r := { reg3 with spl := some spl3 }
    let s := regState [] r [] .ready
    (s.pad 0).regionAt 13 = some (3, r) ∧ s.region 0 3 = r ∧ SwapConditions s 0 13 r spl3 ∧ 13 ∈ r.tileList ∧
    ∀ j ∈ r.tileList, j ≠ 13 → (s.tile 0 j).swapped = true := by
  unfold SwapConditions NoMatrixWork; decide +kernel
theorem witness_SpliceSwaps_not_last :
    let r := { reg3 with spl := some spl3, w := 2 }
    let s := regState [] r [] .ready
    (s.pad 0).regionAt 13 = some (3, r) ∧ SwapConditions s 0 13 r spl3 ∧ 14 ∈ r.tileList ∧ (s.tile 0 14).swapped = false := by
  unfold SwapConditions NoMatrixWork; decide +kernel
/-- The owner of region 3 waits for nothing. -/
theorem not_drains (r : Region) (w : Wait) (h : ∀ x y, w ≠ .poll x y) (ho : r.owner = 0) :
    ¬ CfgaDrains (regState [] r [] w) 0 3 := by
  rintro ⟨x, hx, -⟩
  have e : ((regState [] r [] w).region 0 3).owner = 0 := ho
  rw [e] at hx
  exact h _ _ (show w = _ from hx)
theorem witness_DecisionBroadcast :
    let r := { reg3 with dec := some 1 }
    let s := regState [] r [] .ready
    slotLoaded s 0 reg3 1 = true ∧ (s.region 0 3).dec = some 1 ∧ (s.region 0 3).st = .running ∧ (s.region 0 3).spl = none ∧
    ¬ CfgaDrains s 0 3 ∧ Drained s 0 3 (s.region 0 3) :=
  ⟨by decide +kernel, rfl, rfl, rfl, not_drains _ _ (by simp) rfl, by unfold Drained OpsDone NoMatrixWork; decide +kernel⟩
theorem witness_RegionEnd_free :
    let s := regState [(1, 3), (2, 0x200000)] reg3 [] (.poll (seqPack 0x61 { a := 1 }) 0)
    PollsOn s 0 0 0x61 { a := 1 } 0 3 ∧ Drained s 0 3 (s.region 0 3) ∧ settled s 0 (s.region 0 3) = true :=
  ⟨polls_regState _ _ _ _ rfl rfl rfl _, by unfold Drained OpsDone NoMatrixWork; decide +kernel, by decide +kernel⟩
theorem witness_RegionEnd_stands : ({ reg3 with st := .frozen } : Region).st = .frozen ∧ ({ reg3 with saved := true } : Region).saved = true := by
  decide
theorem witness_RegionEnd_qwait :
    let s := regState [(1, 3), (2, 0x200000)] reg3 [] (.poll (seqPack 0x66 { a := 1 }) 0)
    PollsOn s 0 0 0x66 { a := 1 } 0 3 ∧ reg3.act ≠ none ∧ (∀ k ∈ reg3.tileList, haltedTile s 0 k = true) :=
  ⟨polls_regState _ _ _ _ rfl rfl rfl _, by decide, by decide +kernel⟩
/-- A region with a valid slot that never fires: its guard asks for p0. -/
def quietState (wait : Wait) : State :=
  (regState [(1, 3), (2, 0x200000)] { reg3 with quiet := 4096 } [] wait).updPad 0 fun x =>
    { x with tiles := [(13, { cfgs := [(0, cfgOf false [fabPack 0x00 { pm := 1, pv := 1, dst := 12 }])] })] }
theorem witness_RegionEnd_qwait_retired :
    let s := quietState (.poll (seqPack 0x66 { a := 1 }) 0)
    (∃ k ∈ reg3.tileList, haltedTile s 0 k = false) ∧ Drained s 0 3 (s.region 0 3) ∧ anyReady s 0 (s.region 0 3) = false := by
  unfold Drained OpsDone NoMatrixWork; decide +kernel
theorem witness_RegionEnd_quiescent :
    let s := quietState .ready
    (s.region 0 3).st = .running ∧ (s.region 0 3).trap = none ∧ (s.region 0 3).recover = none ∧ 4096 ≤ (s.region 0 3).quiet ∧
    (∃ k ∈ (s.region 0 3).tileList, haltedTile s 0 k = false) ∧ (s.ctx 0 0).wait = .ready ∧
    (s.pad 0).regionAt (qncTile s 0 (s.region 0 3)) = some (3, s.region 0 3) := by decide +kernel
theorem witness_RegionEnd_cfga : CfgaDrains (quietState (.poll (seqPack 0x63 { a := 1 }) 0)) 0 3 :=
  ⟨seqPack 0x63 { a := 1 }, rfl, by decide +kernel, by decide +kernel, by decide +kernel⟩
theorem witness_RegionEnd_qnc_wait : PollsOn (quietState (.poll (seqPack 0x66 { a := 1 }) 0)) 0 0 0x66 { a := 1 } 0 3 :=
  ⟨rfl, rfl, rfl, rfl⟩
theorem witness_RegionSave :
    let s := regState [(1, 3), (2, 0x200000)] { reg3 with st := .frozen } [] (.poll (seqPack 0x67 { a := 1, b := 2 }) 1)
    PollsOn s 0 0 0x67 { a := 1, b := 2 } 1 3 ∧ s.cur.p = (0 : Fin 32).val ∧ s.cur.q = (0 : Fin 4).val ∧
    settled s 0 (s.region 0 3) = true ∧
    (writeBytes s 0 0x200000 (saveBytes s 0 (s.region 0 3))).1 = none :=
  ⟨polls_regState _ _ _ _ rfl rfl rfl _, rfl, rfl, by decide +kernel,
    Idn.writeBytes (by constructor <;> decide +kernel) _ _ (by decide +kernel)⟩
theorem witness_RegionSave_fault :
    let s := regState [(1, 3), (2, 0x40000000)] { reg3 with st := .frozen } [] (.poll (seqPack 0x67 { a := 1, b := 2 }) 1)
    (writeBytes s 0 0x40000000 (saveBytes s 0 (s.region 0 3))).1 = some (cXLATE, 0x40000000) := by decide +kernel
theorem witness_SaveAreaContents : ({} : Tile).rrPtr < 16 ∧ ({} : Tile).flags.getLsbD 7 = false ∧ tileType 13 = .m ∧
    reg3.tileList[0]? = some 13 ∧ (fullBufs (regState [] reg3 [] .ready) 0 reg3).length < 2 ^ 32 := by decide +kernel
theorem witness_RegionRestore_mismatch : { reg3 with saved := true }.saved = true ∧
    canonical 0x200000 = true ∧ (0x200000 : BitVec 64).toNat % 64 = 0 ∧ (0x200001 : BitVec 64).toNat % 64 ≠ 0 := by decide
/-- Region 3 SAVED, of two rows. -/
def reg3s : Region := { reg3 with saved := true, st := .frozen, h := 2, fullH := 2 }
theorem witness_RegionFold : foldRefusal (regState [] reg3s [] .ready) 0 reg3s 1 = none ∧
    foldRefusal (regState [] { reg3s with fold := 1 } [] .ready) 0 { reg3s with fold := 1 } 0 = none := by decide +kernel
theorem witness_RegionFold_image :
    let s := regState [(1, 3), (2, 0x200000)] reg3s ((0x200004, 0x80) :: imageCells 0xA4) .ready
    ∃ img, (readImage s 0 1 1 1 1 (some 1) 0x200000).1 = .ok img :=
  Idn.readImage (by constructor <;> decide +kernel) 1 1 1 1 (some 1) 0x200000 none (by decide) (by decide) (by decide +kernel)
/-- LQ0 waits in RFOLD with factor 0, and its bid for the row below stands. -/
def unfoldState : State :=
  (regState [(1, 3), (2, 0x200000)] { reg3 with fold := 1, fullH := 2 }
    (imageCells 0xA4 ++ (imageCells 0xA4).map fun e => (e.1 + 264, e.2)) (.poll (seqPack 0x65 { a := 1, b := 2 }) 0)).updPad 0
    fun x => { x with bids := [{ bid25 (.unfold 3) with col0 := 1 }] }
theorem witness_RegionFold_admit : pickBid unfoldState 0 = (.grant 0 2 1, unfoldState) ∧
    PollsOn unfoldState 0 0 0x65 { a := 1, b := 2 } 0 3 ∧ (unfoldState.pad 0).trace.mode = 0 ∧
    ∃ img, (readImage { takeBid unfoldState 0 0 with cur := { unfoldState.cur with p := 0, q := 0 } } 0 1 1 2 1 (some 0)
      0x200000).1 = .ok img :=
  ⟨by decide +kernel, ⟨rfl, rfl, rfl, rfl⟩, by decide +kernel,
    Idn.readImage (by constructor <;> decide +kernel) 1 1 2 1 (some 0) 0x200000 none (by decide) (by decide)
      (by decide +kernel)⟩

/-! ## Chains and tasks -/

theorem Idn.restore {s : State} (h : Idn s) (rid : Nat) (va : BitVec 64) (ha : (s.region 0 rid).act = none)
    (hv : va.toNat + (64 + 512 * (s.region 0 rid).h * (s.region 0 rid).w) < 2 ^ 30)
    (hw : let w0 := natOfBytes ((s.rdBytes false va.toNat (64 + 512 * (s.region 0 rid).h * (s.region 0 rid).w)).take 8)
      (w0 % 16 == (s.region 0 rid).h % 16 && w0 / 16 % 16 == (s.region 0 rid).w % 16 &&
        w0 / 256 % 4 == (s.region 0 rid).fold.toNat && w0 / 65536 % 65536 == 0) = true)
    (hc : natOfBytes (((s.rdBytes false va.toNat (64 + 512 * (s.region 0 rid).h * (s.region 0 rid).w)).drop 8).take 4) = 0) :
    ∃ n, (restoreRegion s 0 rid va).1 = .ok n := by
  have hr := h.readBytes .read va _ hv
  unfold restoreRegion
  dsimp only at hw ⊢
  rcases hR : Machine.readBytes s 0 .read va (64 + 512 * (s.region 0 rid).h * (s.region 0 rid).w) with ⟨y, s'⟩
  rw [hR] at hr
  dsimp only at hr
  subst hr
  dsimp only
  have e : (s.region 0 rid).activeHdr s' 0 = 0 := by unfold Region.activeHdr; rw [ha]
  rw [e, hc, show (hdrCfgid 0).toNat = 0 from rfl, hw]
  simp only [readRecs]
  exact ⟨_, rfl⟩

/-- A control block at 0x200000: first entry 0x300000, completion word 0x200100, first sequence number 1 (Table 13-2). -/
def blockCells : List Host.Cell := [(0x200002, 0x30), (0x200009, 0x01), (0x20000A, 0x20), (0x200010, 1)]
/-- Chain 2 of paddock 0. -/
def chainState (x : Chain) (regs : Tbl (BitVec 64)) (mem : List Host.Cell) : State :=
  let s := baseR regs
  { (s.updPad 0 fun y => { y with chains := [(2, x)] }) with mem := tables ++ mem }

theorem witness_Issues : Issues (chainState {} [(1, 2), (2, 0x200000)] []) 0 0 { a := 1, b := 2 } := ⟨rfl, rfl, by decide⟩
theorem witness_ChainControl_ids : 16 < (17 : BitVec 64).toNat % 32 ∧
    ((chainState { st := .idle, owner := 1 } [] []).chain 0 2).st ≠ .detached ∧
    ((chainState { st := .idle, owner := 1 } [] []).chain 0 2).owner ≠ 0 := by decide
theorem witness_ChainControl_attach :
    let s := chainState {} [(1, 2), (2, 0x200000)] blockCells
    let bs := s.rdBytes false 0x200000 64
    chainRefusal s 0 0 2 true = none ∧ (readBytes s 0 .read 0x200000 64).1 = .ok bs ∧ cbWord bs 0 ≠ 0 ∧ cbWord bs 2 ≠ 0 ∧
    (cbWord bs 1).toNat % 8 = 0 ∧ (∀ y ∈ bs.drop 24, y = 0) ∧ (s.chain 0 2).st = .detached ∧
    (writeBytes (readBytes s 0 .read 0x200000 64).2 0 (cbWord bs 1) (bytesOfNat 8 (cbWord bs 2 - 1).toNat)).1 = none :=
  have h : Idn (chainState {} [(1, 2), (2, 0x200000)] blockCells) := by constructor <;> decide +kernel
  ⟨by decide +kernel, h.readBytes _ _ _ (by decide), by decide +kernel, by decide +kernel, by decide +kernel, by decide +kernel,
    by decide +kernel, Idn.writeBytes (h.afterRead .read 0x200000 64 (by decide)).1 _ _ (by decide +kernel)⟩
theorem witness_ChainControl_detach :
    let s := chainState {} [(1, 2), (2, 0x200000)] []
    let bs := s.rdBytes false 0x200000 64
    (readBytes s 0 .read 0x200000 64).1 = .ok bs ∧ cbWord bs 0 = 0 :=
  ⟨Idn.readBytes (by constructor <;> decide +kernel) _ _ _ (by decide), by decide +kernel⟩
theorem witness_ChainControl_badblock :
    let s := chainState {} [(1, 2), (2, 0x200000)] [(0x200002, 0x30)]
    cbWord (s.rdBytes false 0x200000 64) 0 ≠ 0 ∧ cbWord (s.rdBytes false 0x200000 64) 2 = 0 := by decide +kernel
theorem witness_ChainControl_tail : ((chainState { st := .idle, next := 1 } [] []).chain 0 2).st = .idle ∧
    (32768 : BitVec 64).toNat - (0 : BitVec 64).toNat ≤ 32768 ∧ 32768 < (32769 : BitVec 64).toNat - (0 : BitVec 64).toNat ∧
    (1 : BitVec 64).toNat ≤ (32768 : BitVec 64).toNat := by decide +kernel
theorem witness_ChainQueries :
    ((baseC fun c => { c with wait := .poll (seqPack 0x73 { a := 1, b := 2 }) 0 }).ctx 0 0).wait = .poll (seqPack 0x73 { a := 1, b := 2 }) 0 ∧
    ((chainState { st := .halted, done := 3 } [] []).chain 0 2).st = .halted ∧ (3 : BitVec 64).toNat < (4 : BitVec 64).toNat := by
  decide +kernel

/-- A task record at 0x200000 of type 0 at row 1, column 1, and its entry at 0x300000: main image 0x400000, one tile,
budgets 100 and 50 (Tables 14-6, 14-3). -/
def taskCells : List Host.Cell :=
  [(0x200001, 0x10), (0x200002, 0x01), (0x300002, 0x40), (0x300028, 100), (0x300030, 50)]
def launchState (ib : BitVec 64) (mem : List Host.Cell) : State :=
  let s := baseC fun c => { c with regs := [(1, 0x200000)], ibud := ib, launch := { ttlen := 1, ttbase := 0x300000 } }
  { s with mem := tables ++ mem }
theorem witness_TaskLaunch :
    let s := launchState 1000 taskCells
    let rb := s.rdBytes false 0x200000 16
    let eb := s.rdBytes false 0x300000 64
    (readBytes s 0 .read 0x200000 16).1 = .ok rb ∧ (readBytes (readBytes s 0 .read 0x200000 16).2 0 .read 0x300000 64).1 = .ok eb ∧
    ((TaskRec.parse 1 rb).map fun r => (r.ttype, r.row0, r.col0)) = some (0, 1, 1) ∧
    ((TypeEnt.parse eb).map fun e => (e.h, e.w, e.ibud, e.tbud)) = some (1, 1, 100, 50) ∧ LowestSlot s 0 0 :=
  have h : Idn (launchState 1000 taskCells) := by constructor <;> decide +kernel
  have a := h.afterRead .read 0x200000 16 (by decide)
  ⟨h.readBytes _ _ _ (by decide), (a.1.readBytes _ _ _ (by decide)).trans (by rw [State.rdBytes_congr false _ _ (a.2 false)]; rfl),
    by decide +kernel, by decide +kernel, by unfold LowestSlot MayTake; decide +kernel⟩
theorem witness_TaskLaunch_bad :
    TaskRec.parse 1 ((launchState 1000 [(0x200000, 1)]).rdBytes false 0x200000 16) = none ∧
    (TypeEnt.parse ((launchState 1000 []).rdBytes false 0x300000 64)).isNone = true := by decide +kernel
theorem witness_TaskLaunch_budgets : ((100 : BitVec 64) - 32).toInt < (100 : BitVec 64).toInt ∧
    (100 : BitVec 64).toInt ≤ ((1000 : BitVec 64) - 32).toInt ∧ ((50 : BitVec 64) - 6).toInt < (50 : BitVec 64).toInt := by decide
/-- Every task slot is taken. -/
def fullTasks : Tbl Task := (List.range 64).map fun k => (k, { st := .running })
theorem witness_TaskLaunch_full : ∀ k, k < 64 → ¬ MayTake ((base.updPad 0 fun x => { x with tasks := fullTasks }).task 0 k) := by
  unfold MayTake; decide +kernel
theorem witness_TaskLaunch_acquire :
    let rb := (launchState 1000 taskCells).rdBytes false 0x200000 16
    let eb := (launchState 1000 taskCells).rdBytes false 0x300000 64
    rb.length = 16 ∧ eb.length = 64 ∧ (TaskRec.parse 4096 rb).isSome = true ∧ (TypeEnt.parse eb).isSome = true ∧
    (100 : BitVec 64).toInt ≤ ((1000 : BitVec 64) - 32).toInt := by decide +kernel

/-- Task 5 of LQ0 in region 3. -/
def taskState (t : Task) (r : Region) (regs : Tbl (BitVec 64)) (mem : List Host.Cell) : State :=
  (regState regs { r with task := some 5 } mem .ready).updPad 0 fun x => { x with tasks := [(5, t)] }
def task5 : Task := { st := .running, ser := 1, rid := some 3, ibud := 100, tbud := 100, contpt := 0x200000, h := 1, w := 1 }
/-- Region 3, of task 5, to be folded under the alternate of the task's type. -/
def foldTask (alt : BitVec 64) : State :=
  (regState [(1, 3), (2, 0)] { reg3s with task := some 5 } ((0x200004, 0x80) :: imageCells 0xA4) .ready).updPad 0 fun x =>
    { x with tasks := [(5, { task5 with st := .frozen, fold2 := alt })] }
theorem witness_RegionFold_alternate :
    foldRefusal (foldTask 0x200000) 0 ((foldTask 0x200000).region 0 3) 1 = none ∧ ((foldTask 0x200000).region 0 3).task = some 5 ∧
    ((foldTask 0x200000).task 0 5).fold2 = 0x200000 ∧ ((foldTask 0).task 0 5).fold2 = 0 ∧
    foldRefusal (foldTask 0) 0 ((foldTask 0).region 0 3) 1 = none ∧
    ∃ img, (readImage (foldTask 0x200000) 0 1 1 1 1 (some 1) 0x200000).1 = .ok img :=
  ⟨by decide +kernel, by decide +kernel, by decide +kernel, by decide +kernel, by decide +kernel,
    Idn.readImage (by constructor <;> decide +kernel) 1 1 1 1 (some 1) 0x200000 none (by decide) (by decide) (by decide +kernel)⟩
theorem witness_TaskOperations : NamesTask (taskState task5 reg3 [(1, 0x105), (2, 7)] []) 0 0 { a := 1, b := 2 } 5 :=
  ⟨rfl, rfl, by decide, by decide, rfl, by decide, rfl⟩
theorem witness_TaskOperations_amounts : 2 ^ 62 ≤ (2 ^ 62 : BitVec 64).toNat ∧ (7 : BitVec 64).toNat < 2 ^ 62 ∧
    (7 : BitVec 64).toInt ≤ ((1000 : BitVec 64) - 1).toInt ∧ ((1000 : BitVec 64) - 1).toInt < (1000 : BitVec 64).toInt ∧
    base.curCtx.rights.getLsbD 0 = true := by decide +kernel
theorem witness_TaskOperations_handles : nameTask (taskState task5 reg3 [] []) 0 0 0x205 = .stale ∧
    nameTask (taskState task5 reg3 [] []) 0 0 0x145 = .bad := by decide +kernel
theorem witness_TaskOperations_cont : (64 : BitVec 64).toNat % 64 = 0 ∧ (65 : BitVec 64).toNat % 64 ≠ 0 := by decide
theorem witness_DispatchTrace : (baseR [(1, 0x200000), (2, 4)]).curCtx.rights.getLsbD 2 = true ∧
    ((baseR [(1, 0x200000), (2, 4)]).curCtx.rd 1).toNat % 64 = 0 ∧ (baseR [(1, 0x200000), (2, 4)]).curCtx.rd 2 ≠ 0 := by
  decide +kernel
theorem witness_TaskLife_adder :
    let s := taskState task5 { reg3 with charges := [{ fc := 7, ib := 200, tb := 0 }] } [] []
    (s.region 0 3).task = some 5 ∧ (s.region 0 3).alloc = true ∧ (s.task 0 5).cclass ≠ 2 ∧
    ((s.task 0 5).ibud - BitVec.ofNat 64 200).toInt ≤ 0 ∧ 7 + 3 ≤ s.fc 0 ∧ (s.region 0 3).freezeAt = none ∧
    (s.task 0 5).st = .running := by decide +kernel
/-- Task 5 in debt does not retire. -/
def debt5 : Task := { task5 with ibud := -5 }
theorem debt_stays (r : Region) (rid : Nat) : ¬ RetireNow (taskState debt5 r [] []) 0 5 rid := by
  rintro ⟨-, -, -, -, -, -, -, -, -, -, h, -⟩
  exact h (.inl ⟨(by decide : debt5.cclass ≠ 2), (by decide : debt5.ibud.toInt ≤ -1)⟩)
theorem broke_stays (r : Region) (rid : Nat) : ¬ RetireNow (taskState { debt5 with contpt := 0 } r [] []) 0 5 rid := by
  rintro ⟨-, -, -, -, -, -, -, -, -, -, h, -⟩
  exact h (.inl ⟨(by decide : debt5.cclass ≠ 2), (by decide : debt5.ibud.toInt ≤ -1)⟩)
/-- A region that stops in this fc. -/
theorem stops (s : State) (a : Option Nat) (h : a = some 10) (hf : s.fc 0 = 10)
    (hr : (s.region 0 3).alloc = true ∧ (s.region 0 3).trap = none ∧ (s.region 0 3).recover = none ∧
      (s.region 0 3).saved = false ∧ (s.region 0 3).paused = false) (hc : (s.pad 0).chains = [])
    (ht : ∀ k ∈ (s.region 0 3).tileList, (s.tile 0 k).reqs = [] ∧ (s.tile 0 k).outq = [] ∧ (s.tile 0 k).mx.pass = none ∧
      (s.tile 0 k).mx.drain = none) : StopNow s 0 3 a :=
  ⟨hr.1, hr.2.1, hr.2.2.1, hr.2.2.2.1, hr.2.2.2.2, ⟨10, h, by omega⟩, by rw [hc]; simp, ht⟩
theorem witness_TaskLife_freeze :
    let s := taskState debt5 { reg3 with freezeAt := some 10 } [] []
    (s.region 0 3).task = some 5 ∧ StopNow s 0 3 (s.region 0 3).freezeAt ∧ (s.task 0 5).contpt ≠ 0 ∧
    (∀ rid, ¬ RetireNow s 0 5 rid) ∧ (writeSome s 0 0x200000 (saveBytes s 0 (s.region 0 3))).1 = none :=
  ⟨by decide +kernel, stops _ _ rfl (by decide +kernel) (by decide +kernel) (by decide +kernel) (by decide +kernel), by decide,
    debt_stays _, Idn.writeSome (by constructor <;> decide +kernel) _ _ (by decide) (by decide +kernel)⟩
theorem witness_TaskLife_freeze_trap :
    let s := taskState { debt5 with contpt := 0 } { reg3 with freezeAt := some 10 } [] []
    stopDue s 0 3 (s.region 0 3).freezeAt = true ∧ (s.task 0 5).contpt = 0 ∧ (∀ rid, ¬ RetireNow s 0 5 rid) ∧
    (s.pad 0).regionAt (tileAt (s.region 0 3).row0 (s.region 0 3).col0) = some (3, s.region 0 3) :=
  ⟨by decide +kernel, by decide, broke_stays _, by decide +kernel⟩
theorem witness_TaskLife_resume :
    let s := taskState { task5 with st := .frozen } { reg3 with st := .frozen, saved := true, act := none } [] [(0x200000, 0x11)]
    (s.task 0 5).rid = some 3 ∧ (s.task 0 5).st = .frozen ∧ ¬ CounterAtMost (s.task 0 5) 0 ∧ (s.region 0 3).paused = false ∧
    (s.pad 0).trace.mode = 0 ∧ ∃ n, (restoreRegion s 0 3 (s.task 0 5).contpt).1 = .ok n :=
  ⟨rfl, rfl, by unfold CounterAtMost; decide +kernel, rfl, by decide +kernel, Idn.restore (by constructor <;> decide +kernel) 3 _ rfl
    (by decide +kernel) (by decide +kernel) (by decide +kernel)⟩
theorem witness_RegionRestore :
    let s := regState [(1, 3), (2, 0x200000)] { reg3 with st := .frozen, saved := true, act := none } [(0x200000, 0x11)] .ready
    (s.region 0 3).saved = true ∧ ∃ n, (restoreRegion s 0 3 0x200000).1 = .ok n :=
  ⟨rfl, Idn.restore (by constructor <;> decide +kernel) 3 _ rfl (by decide +kernel) (by decide +kernel) (by decide +kernel)⟩
theorem witness_TaskLife_yield :
    let s := taskState { task5 with ypend := true } { reg3 with yieldAt := some 10 } [] []
    (s.task 0 5).rid = some 3 ∧ (s.task 0 5).st = .running ∧ (s.task 0 5).ypend = true ∧ StopNow s 0 3 (s.region 0 3).yieldAt ∧
    (s.region 0 3).freezeAt = none ∧ (s.region 0 3).task = some 5 ∧ (s.pad 0).trace.mode = 0 ∧
    (writeSome s 0 (s.task 0 5).contpt (saveBytes s 0 (s.region 0 3))).1 = none :=
  ⟨rfl, rfl, rfl, stops _ _ rfl (by decide +kernel) (by decide +kernel) (by decide +kernel) (by decide +kernel), rfl, rfl,
    by decide +kernel, Idn.writeSome (by constructor <;> decide +kernel) _ _ (by decide +kernel) (by decide +kernel)⟩
theorem witness_TaskLife_retire :
    RetireNow (taskState task5 reg3 [] []) 0 5 3 ∧ ((taskState task5 reg3 [] []).region 0 3).task = some 5 :=
  ⟨⟨rfl, rfl, rfl, rfl, rfl, rfl, rfl, rfl, rfl, by decide +kernel, by unfold CounterAtMost; decide +kernel,
    .inl ⟨by unfold Drained OpsDone NoMatrixWork; decide +kernel, by decide +kernel⟩⟩, rfl⟩
/-- A queued task and its bid for tile (1, 1). -/
def admitState (mem : List Host.Cell) (main : BitVec 64) : State :=
  let s := base.updPad 0 fun x =>
    { x with tasks := [(5, { task5 with st := .queued, rid := none, main := main })]
             bids := [{ bid25 (.task 5) with row0 := 1, col0 := 1 }] }
  { s with mem := tables ++ mem }
theorem witness_TaskAdmission :
    let s := admitState (imageCells 0xA4) 0x200000
    let s1 := newRegion (takeBid s 0 0) 0 0 { bid25 (.task 5) with row0 := 1, col0 := 1 } 1 1 (some 5) (s.task 0 5).seed true
    let s2 := s1.updRegion 0 0 fun r => { r with ufc := (s.task 0 5).ufc, fold := 0, fullH := (s.task 0 5).h }
    pickBid s 0 = (.grant 0 1 1, s) ∧ (s.pad 0).bids[0]? = some { bid25 (.task 5) with row0 := 1, col0 := 1 } ∧
    (s.pad 0).freeId = some 0 ∧ (s.pad 0).trace.mode = 0 ∧ (s.task 0 5).st = .queued ∧ (s.task 0 5).moveTo = none ∧
    (bid25 (.task 5)).q = (s.task 0 5).parent ∧ (s.task 0 5).fuse = false ∧ ∃ img, (readImage s2 0 1 1 1 1 none (s.task 0 5).main).1 = .ok img :=
  ⟨by decide +kernel, by decide +kernel, by decide +kernel, by decide +kernel, by decide +kernel, by decide +kernel,
    by decide +kernel, by decide +kernel,
    Idn.readImage (by constructor <;> decide +kernel) 1 1 1 1 none _ none (by decide +kernel) (by decide +kernel) (by decide +kernel)⟩
theorem witness_TaskAdmission_fault :
    (readImage (admitState [] 0x200004) 0 1 1 1 1 none 0x200004).1 = .error (.addr cMISALIGN 0x200004) := by
  unfold readImage
  rw [canonical_low _ (by decide)]
  rfl

/-- The leaf of the identity mapping. -/
def leafEnt : TlbEnt := { asid := 0, base := 0, size := 2 ^ 30, leaf := 0x3F }
/-- With the leaf in the TLB, a reading changes the free-value counter alone, whatever the TLB serves. -/
theorem Idn.translate_hit {s : State} (h : Idn s) (hl : (s.pad 0).tlb = [leafEnt]) (va : BitVec 64) (k : AccKind) (m : Nat)
    (hv : va.toNat < 2 ^ 30) : (Machine.translate s 0 none va k m).2 = { s with free := s.free + 1 } := by
  have hc : leafEnt.covers 0 (va.toNat % 2 ^ 57) = true := by
    rw [Nat.mod_eq_of_lt (by omega)]
    simp [TlbEnt.covers, leafEnt]
    omega
  unfold Machine.translate
  rw [h.asid, hl]
  simp only [List.nil_append, List.find?_cons, hc]
  have hn : Idn { s with free := s.free + 1 } := h.frame rfl rfl (fun _ _ _ => rfl) (fun _ h => .inl h) rfl rfl
  cases hc : Config.choice s.free <;> simp only [freeChoice, hc]
  · rw [if_neg (by decide)]; exact hn.fixWalk va hv
  · rw [if_pos trivial]

/-- The parts of a reading, by line. -/
def pieces : Nat → Nat → Nat → Nat
  | 0, _, _ => 0
  | f + 1, va, m => if m = 0 then 0 else pieces f (va + min m (64 - va % 64)) (m - min m (64 - va % 64)) + 1
theorem Idn.readVA_hit (fuel : Nat) {s : State} (h : Idn s) (hl : (s.pad 0).tlb = [leafEnt]) (k : AccKind)
    (va : BitVec 64) (m : Nat) (hv : va.toNat + m < 2 ^ 30) :
    (Machine.readVA s 0 k fuel va m).2 = { s with free := s.free + pieces fuel va.toNat m } := by
  induction fuel generalizing s va m with
  | zero => rfl
  | succ fuel ih =>
    unfold Machine.readVA pieces
    split
    · rfl
    · set c := min m (64 - va.toNat % 64) with hc
      have ht := h.translate_hit hl va k c (by omega)
      obtain ⟨hx, hi⟩ := h.translate va k c (by omega)
      dsimp only
      rw [canonical_low va (by omega)]
      rcases hT : Machine.translate s 0 none va k c with ⟨y, s'⟩
      rw [hT] at ht hx hi
      dsimp only at ht hx hi
      subst hx; subst ht
      simp only [Bool.not_true, Bool.false_eq_true, if_false, hi.badLine va.toNat (by omega), hi.fixLine va.toNat (by omega)]
      have hva : (va + BitVec.ofNat 64 c).toNat = va.toNat + c := by
        have := va.isLt
        rw [BitVec.toNat_add, BitVec.toNat_ofNat]; omega
      have hr := ih hi hl (va + BitVec.ofNat 64 c) (m - c) (by rw [hva]; omega)
      rw [hva] at hr
      rcases hR : Machine.readVA { s with free := s.free + 1 } 0 k fuel (va + BitVec.ofNat 64 c) (m - c) with ⟨y, s''⟩
      rw [hR] at hr
      dsimp only at hr
      subst hr
      cases y <;> dsimp only <;> rw [Nat.add_assoc, Nat.add_comm 1]
theorem Idn.readBytes_hit {s : State} (h : Idn s) (hl : (s.pad 0).tlb = [leafEnt]) (k : AccKind)
    (va : BitVec 64) (m : Nat) (hv : va.toNat + m < 2 ^ 30) :
    Machine.readBytes s 0 k va m = (.ok (s.rdBytes false va.toNat m), { s with free := s.free + pieces (m / 32 + 2) va.toNat m }) :=
  Prod.ext (h.readBytes k va m hv) (h.readVA_hit _ hl k va m hv)

/-- A released task 5 with its save area at 0x300000, or where no address is, and its bid for tile (1, 1). -/
def returnState (save : BitVec 64) : State :=
  let s := base.updPad 0 fun x =>
    { x with tasks := [(5, { task5 with st := .released, rid := none, main := 0x200000, contpt := save })]
             bids := [{ bid25 (.task 5) with row0 := 1, col0 := 1 }], tlb := [leafEnt] }
  { s with mem := tables ++ imageCells 0xA4 ++ [(0x300000, 0x11)] }
/-- Its region, given for the continuation. -/
def returnRegion (save : BitVec 64) : State :=
  let s := returnState save
  (newRegion (takeBid s 0 0) 0 0 { bid25 (.task 5) with row0 := 1, col0 := 1 } 1 1 (some 5) (s.task 0 5).seed false).updRegion 0 0
    fun r => { r with ufc := (s.task 0 5).ufc, fold := 0, fullH := (s.task 0 5).h }
def returnImage (save : BitVec 64) : List (BitVec 64) := wordsOf (33 * 1 * 1) ((returnRegion save).rdBytes false 0x200000 (264 * 1 * 1))
/-- The region activated, before the restore. -/
def returned (save : BitVec 64) : State :=
  let y := (returnState save).task 0 5
  let s1 := activateRegion (makeResident { returnRegion save with free := (returnRegion save).free + 5 } 0 0 0 0x200000 (returnImage save)) 0 0 0 false
  ((setSegs s1 0 (s1.region 0 0) y.arg).setTask 0 5 { y with st := .running, rid := some 0, row0 := 1, col0 := 1, stopAt := none }).updRegion
    0 0 fun r => { r with freezeAt := y.stopAt }
theorem witness_TaskAdmission_return (save : BitVec 64) (hs : save = 0x300000 ∨ save = 2 ^ 60) :
    let s := returnState save
    pickBid s 0 = (.grant 0 1 1, s) ∧ (s.pad 0).freeId = some 0 ∧ (s.task 0 5).st = .released ∧ (s.task 0 5).contc = 0 ∧
    (s.task 0 5).moveTo = none ∧ (bid25 (.task 5)).q = (s.task 0 5).parent ∧ (s.task 0 5).fuse = false ∧
    readImage (returnRegion save) 0 1 1 1 1 none 0x200000 =
      (.ok (returnImage save), { returnRegion save with free := (returnRegion save).free + 5 }) := by
  have h7 : pickBid (returnState save) 0 = (.grant 0 1 1, returnState save) ∧ ((returnState save).pad 0).freeId = some 0 ∧
      ((returnState save).task 0 5).st = .released ∧ ((returnState save).task 0 5).contc = 0 ∧
      ((returnState save).task 0 5).moveTo = none ∧ (bid25 (.task 5)).q = ((returnState save).task 0 5).parent ∧
      ((returnState save).task 0 5).fuse = false ∧ ((returnRegion save).pad 0).tlb = [leafEnt] ∧
      imageFault 1 1 1 1 none (returnImage save) = none := by
    obtain rfl | rfl := hs <;> decide +kernel
  obtain ⟨g1, g2, g3, g4, g5, g6, g7, g8, g9⟩ := h7
  have hi : Idn (returnRegion save) := by obtain rfl | rfl := hs <;> constructor <;> decide +kernel
  have hr := hi.readBytes_hit g8 .exec 0x200000 (264 * 1 * 1) (by decide)
  refine ⟨g1, g2, g3, g4, g5, g6, g7, ?_⟩
  unfold readImage
  rw [canonical_low _ (by decide), if_neg (by simp), if_neg (by decide), hr]
  dsimp only
  rw [show (0x200000 : BitVec 64).toNat = 0x200000 from rfl]
  rw [show wordsOf (33 * 1 * 1) ((returnRegion save).rdBytes false 0x200000 (264 * 1 * 1)) = returnImage save from rfl, g9]
  rw [show pieces (264 * 1 * 1 / 32 + 2) 0x200000 (264 * 1 * 1) = 5 by decide +kernel]
theorem answers_ok {α β : Type} {x : Except α β} (h : x.toOption.isSome = true) : ∃ b, x = .ok b := by
  cases x with
  | ok b => exact ⟨b, rfl⟩
  | error => exact absurd h (by simp [Except.toOption])
theorem answers_error {α β : Type} {x : Except α β} (h : x.toOption.isNone = true) : ∃ a, x = .error a := by
  cases x with
  | error a => exact ⟨a, rfl⟩
  | ok => exact absurd h (by simp [Except.toOption])
theorem witness_TaskAdmission_restore : ∃ m, (restoreRegion (returned 0x300000) 0 0 0x300000).1 = .ok m := by
  have hi : Idn (returned 0x300000) := by constructor <;> decide +kernel
  have e1 : ((returned 0x300000).region 0 0).h = 1 := by decide +kernel
  have e2 : ((returned 0x300000).region 0 0).w = 1 := by decide +kernel
  unfold restoreRegion
  dsimp only
  rw [e1, e2, hi.readBytes_hit (by decide +kernel) .read 0x300000 _ (by decide)]
  exact answers_ok (by decide +kernel)
theorem witness_TaskAdmission_unrestored : ∃ e, (restoreRegion (returned (2 ^ 60)) 0 0 (2 ^ 60)).1 = .error e :=
  answers_error (by decide +kernel)
/-- A report of the task that is still pending, and none. -/
theorem witness_TaskAdmission_report :
    reportWaits (baseC fun c => { c with reports := [{ cause := 5, tval := 0, tval2 := 0, src := .task 5, fc := 1 }] }) 0 (.task 5) = true ∧
    reportWaits base 0 (.task 5) = false ∧ (∀ e ∈ (base.pad 0).late, e.1 ≠ .task 5 0) := by decide +kernel

/-! ## The Shape Journal -/

/-- Partition 0 of the small machine with a journal. -/
def jState (j : Journal) (regs : Tbl (BitVec 64)) (mem : List Host.Cell) : State :=
  let s := baseR regs
  { s with parts := [(0, { exists_ := true, mask := 1, bound := true, jr := j })], mem := tables ++ mem }
theorem jIssues (j : Journal) (regs : Tbl (BitVec 64)) (mem : List Host.Cell) (f : SeqF) (hc : f.cond = 0) :
    JIssues (jState j regs mem) 0 0 f 0 j :=
  have h : (jState j regs mem).curCtx.rights = 15 := rfl
  ⟨rfl, rfl, by simp [guardOk, hc], by rw [h]; decide, rfl, rfl⟩
/-- A buffer descriptor: BF16 now, FP32 and BF16 allowed, four elements at 0x400000. -/
def buf0 : Desc := { words := [0x0201, 1, 0x400000, 0x0600000004, 0, 0, 0, 0], cur := 2 }
/-- A record TRIAL of object 0, and one PROPOSED. -/
def rec1 : JRec := { seq := 1, kind := 3, st := rTRIAL, pmask := 1, obj := 0, before := 1, after := 2 }
def rec2 : JRec := { seq := 2, kind := 3, st := rPROPOSED, pmask := 1, obj := 0, before := 2, after := 1 }
def objs0 : ObjTable := { addr := 0x300000, tune := true, ntrialw := 2, w := 12, margin := 10, descs := [buf0], seed := 5 }
/-- A journal with an area at 0x200000 of 64 places. -/
def jr0 : Journal := { area := some 0x200000, k := 6, next := 3, ver := 1, recs := [(1, rec1), (2, rec2)], obj := some objs0 }
theorem test_buf0_ok : buf0.ok 1 = true := by decide +kernel

theorem witness_JournalInstructions (f : SeqF) (hc : f.cond = 0) :
    JIssues (jState {} [] []) 0 0 f 0 {} ∧ JIssues (jState jr0 [] []) 0 0 f 0 jr0 ∧
    ({} : Journal).area = none ∧ jr0.area ≠ none ∧ jr0.shape = none ∧ jr0.pin = none :=
  ⟨jIssues _ _ _ f hc, jIssues _ _ _ f hc, rfl, by decide, rfl, rfl⟩
/-- A ring descriptor at 0x500000: records at 0x600000, 2^4 of them. -/
def ringCells : List Host.Cell := [(0x500002, 0x60), (0x500008, 4)]
theorem witness_JournalInstructions_subscribe :
    let s := jState jr0 [(1, 0x500000)] ringCells
    let bs := s.rdBytes false 0x500000 64
    let w := fun (k : Nat) => natOfBytes ((bs.drop (8 * k)).take 8)
    (readBytes s 0 .read 0x500000 64).1 = .ok bs ∧ w 1 < 32 ∧ w 4 < 2 ∧ w 5 = 0 ∧ w 6 = 0 ∧ w 7 = 0 ∧ w 0 % 64 = 0 ∧
    4 ≤ w 1 ∧ w 1 ≤ 16 ∧ (Tbl.get {} jr0.subs 0 : Sub).active = false :=
  have h : Idn (jState jr0 [(1, 0x500000)] ringCells) := by constructor <;> decide +kernel
  ⟨h.readBytes _ _ _ (by decide), by decide +kernel⟩
theorem witness_JournalInstructions_full : ∀ k, k < 4 →
    (Tbl.get {} ((List.range 4).map fun i => (i, ({ active := true } : Sub))) k : Sub).active = true := by decide
theorem witness_JournalInstructions_own :
    let u : Sub := Tbl.get {} [(2, ({ active := true } : Sub))] ((6 : BitVec 64).toNat % 4)
    u.active = true ∧ u.paddock = (0 : Fin 32).val ∧ u.q = (0 : Fin 4).val := by decide
theorem witness_JournalInstructions_pin : ({ jr0 with pin := some ⟨1, 1, 0, 0⟩ }).pin ≠ none ∧
    ({ jr0 with shape := some ⟨.apply 1, 1, [], false, 0, false⟩ }).shape ≠ none := by decide
theorem witness_JournalInstructions_held : ({ jr0 with shape := some ⟨.apply 1, 1, [], false, 0, true⟩, stopped := true } : Journal).stopped = true ∧
    (⟨1, 1, 0, 0⟩ : Pin).paddock = (0 : Fin 32).val ∧ (⟨1, 1, 0, 0⟩ : Pin).q = (0 : Fin 4).val ∧ (⟨1, 1, 0, 1⟩ : Pin).q ≠ (0 : Fin 4).val ∧
    jr0.tail = none := by decide
theorem witness_JournalInstructions_version : (1 : BitVec 32).getLsbD 0 = true ∧ (1 : Nat) % 2 ^ 48 ≤ jr0.ver.toNat ∧
    jr0.ver.toNat < (2 : Nat) % 2 ^ 48 := by decide
theorem witness_JournalInstructions_base :
    let j : Journal := { jr0 with recs := [] }
    j.shape = none ∧ (0x200000 : BitVec 64).toNat % 64 = 0 ∧ (24 : BitVec 64).toNat % 32 ≤ 24 ∧
    (checkAddr (jState j [] []) 0 0x200000 64 .write).1 = .ok 0x200000 false ∧ j.inState rPROPOSED = [] ∧
    j.inState rTRIAL = [] := by decide +kernel
theorem witness_JournalInstructions_read :
    let s := jState jr0 [(1, 1), (2, 0x500000)] []
    jr0.holds 1 = true ∧ jr0.holds 3 = false ∧ flushArea s 0 = s ∧
    (readBytes s (s.lead 0) .read (jr0.addr 0x200000 1) 64).1 = .ok (s.rdBytes false 0x200040 64) ∧
    (writeBytes (readBytes s (s.lead 0) .read (jr0.addr 0x200000 1) 64).2 0 0x500000 (s.rdBytes false 0x200040 64)).1 = none :=
  have h : Idn (jState jr0 [(1, 1), (2, 0x500000)] []) := by constructor <;> decide +kernel
  ⟨by decide +kernel, by decide +kernel, rfl, h.readBytes .read 0x200040 64 (by decide),
    (h.afterRead .read 0x200040 64 (by decide)).1.writeBytes _ _ (by decide +kernel)⟩
/-- A request at 0x500000 for object 0, AFTER 1 and the dependency 1. -/
def requestCells : List Host.Cell := [(0x500008, 1), (0x500010, 1)]
theorem witness_JournalRequests_proposal :
    let s := jState jr0 [(1, 0x500000)] requestCells
    let bs := s.rdBytes false 0x500000 64
    (readBytes s 0 .read 0x500000 64).1 = .ok bs ∧ parseRequest bs = some (0, 1, [1, 0, 0, 0]) ∧ jr0.desc 0 = some buf0 ∧
    buf0.allows (1 : BitVec 64).toNat = true ∧ jr0.depOk 1 = true ∧ jr0.pinned buf0.pmask = false ∧
    jr0.stopped = false ∧ (jr0.inState rPROPOSED).length < 16 :=
  have h : Idn (jState jr0 [(1, 0x500000)] requestCells) := by constructor <;> decide +kernel
  ⟨h.readBytes _ _ _ (by decide), by decide +kernel⟩
theorem witness_JournalRequests_refused : parseRequest (0x40 :: List.replicate 63 0) = none ∧ jr0.desc 1 = none ∧
    buf0.allows 2 = false ∧ jr0.depOk 3 = false ∧ ({ jr0 with pin := some ⟨1, 1, 0, 0⟩ }).pinned buf0.pmask = true ∧
    ({ jr0 with stopped := true }).stopped = true := by decide +kernel
theorem witness_JournalRequests_revert : jr0.holds 0 = false ∧ jr0.find 1 = some rec1 ∧ jr0.find 2 = some rec2 ∧
    rec1.isChange = true ∧ rec1.device = false ∧ rec1.st = rTRIAL ∧ rec2.st = rPROPOSED ∧ rec2.seq.toNat = 2 ∧
    ({ rec1 with flags := fDEVICE }).device = true ∧ ({ rec1 with st := rUNDONE }).isChange = true ∧
    shapeIdle (jState jr0 [] []) 0 = true := by decide +kernel
theorem witness_JournalRequests_closure :
    (refusal (jState { jr0 with obj := some { objs0 with descs := [{ buf0 with words := [0x0201, 1, 0x400000, 0x0600000000] }] } } [] [])
      0 [rec1]).1 = none ∧
    (refusal (jState { jr0 with pin := some ⟨1, 1, 0, 0⟩ } [] []) 0 [rec1]).1 = some (1, false) ∧
    closure jr0 rec1 = [rec1] := by decide +kernel
theorem witness_JournalRequests_replay :
    let j : Journal := { jr0 with recs := [] }
    let s := jState j [(1, 0x500000), (2, 1)] []
    j.stopped = false ∧ j.inState rPROPOSED = [] ∧ j.inState rTRIAL = [] ∧ 0 < (1 : BitVec 64).toNat ∧
    (readBytes s 0 .read 0x500000 (64 * 1)).1 = .ok (s.rdBytes false 0x500000 64) ∧
    ((List.range 1).map fun i => ((s.rdBytes false 0x500000 64).drop (64 * i)).take 64).filter replayKept = [] ∧
    membersOpen s 0 = true :=
  have h : Idn (jState { jr0 with recs := [] } [(1, 0x500000), (2, 1)] []) := by constructor <;> decide +kernel
  ⟨rfl, by decide +kernel, by decide +kernel, by decide, h.readBytes _ _ _ (by decide), by decide +kernel, by decide +kernel⟩
theorem witness_JournalRequests_replay_kept : replayKept (rec1.bytes) = false ∧
    replayKept ({ rec1 with st := rCONFIRMED }.bytes) = true := by decide +kernel
/-- A record to be replayed, which finds the object at 2. -/
def kept1 : JRec := { rec1 with st := rCONFIRMED, before := 2, after := 1, deps := [0, 0, 0, 0] }
theorem witness_JournalRequests_plan :
    replayPlan objs0 [0] [0] [kept1.bytes] objs0.descs = some [kept1] ∧
    replayPlan objs0 [0] [0] [{ kept1 with before := 3 }.bytes] objs0.descs = none ∧
    jr0.pinned kept1.pmask = false ∧ ({ jr0 with pin := some ⟨1, 1, 0, 0⟩ }).pinned kept1.pmask = true ∧ jr0.obj = some objs0 := by
  decide +kernel

theorem mayBegin_jState (j : Journal) (regs : Tbl (BitVec 64)) (mem : List Host.Cell) (h : j.shape = none) (hs : j.stopped = false)
    (ha : j.area ≠ none) : MayBegin (jState j regs mem) 0 :=
  ⟨h, hs, ha, fun k _ hk => by
    have : k = 0 := by
      by_contra hne
      have : (jState j regs mem).part 0 = { exists_ := true, mask := 1, bound := true, jr := j } := rfl
      rw [this] at hk
      rw [show (1 : BitVec 32).getLsbD k = false by simp [BitVec.getLsbD_one, hne]] at hk
      exact absurd hk (by simp)
    subst this; rfl⟩
theorem witness_ShapePoints :
    let j : Journal := { jr0 with recs := [(2, rec2)], wins := [(0, { since := 16384 })] }
    let s := jState j [] []
    s.partOf 0 = 0 ∧ s.lead 0 = (0 : Fin 32).val ∧ headDue s 0 = some (rec2, .start) ∧ HeadStarts s 0 j rec2 :=
  ⟨by decide +kernel, by decide +kernel, by decide +kernel, mayBegin_jState _ _ _ rfl rfl (by decide), rfl, by decide +kernel,
    ⟨[], by decide +kernel⟩, objs0, rfl, by decide +kernel⟩
theorem witness_ShapePoints_reject :
    let r : JRec := { rec2 with deps := [1] }
    let j : Journal := { jr0 with recs := [(1, { rec1 with st := rUNDONE }), (2, r)] }
    headDue (jState j [] []) 0 = some (r, .reject) ∧ j.find r.seq.toNat = some r := by decide +kernel
theorem witness_ShapePoints_held :
    let j : Journal := { jr0 with shape := some ⟨.apply 2, 1, [], false, 9, true⟩ }
    j.stopped = false ∧ MembersOpen (jState j [] []) 0 :=
  ⟨rfl, (mayBegin_jState { jr0 with shape := none } [] [] rfl rfl (by decide)).2.2.2⟩
theorem witness_ShapePoints_pause :
    PointGoesOn (jState { jr0 with shape := some ⟨.apply 2, 1, [], false, 9, false⟩ } [] []) 0 ⟨.apply 2, 1, [], false, 9, false⟩ :=
  .inl ⟨rfl, rfl⟩
theorem pausedGoes (j : Journal) (r : ShapeReq) : PointGoesOn (jState j [] []) 0 ⟨r, 1, [], true, 9, false⟩ :=
  .inr ⟨rfl, (by decide : 9 < 10), fun h _ hm e he => by
    have : h = 0 := by
      by_contra hne
      rw [show (1 : BitVec 32).getLsbD h = false by simp [BitVec.getLsbD_one, hne]] at hm
      exact absurd hm (by simp)
    subst this
    exact absurd (show e ∈ ([] : Tbl Region) from he) (by simp)⟩
/-- A policy descriptor of LQ 0's weight, from 1 to 255. -/
def policy0 : Desc := { words := [0x0104, 1, 0, 0x1FF01, 0, 0, 0, 0], cur := 1 }
theorem test_policy0_ok : policy0.ok 1 = true := by decide +kernel
def jrPolicy : Journal :=
  { jr0 with recs := [(2, { rec2 with kind := 4, after := 9 })], obj := some { objs0 with descs := [policy0] }
             shape := some ⟨.apply 2, 1, [], true, 9, false⟩ }
theorem witness_ShapePoints_apply :
    let s := jState jrPolicy [] []
    PointGoesOn s 0 ⟨.apply 2, 1, [], true, 9, false⟩ ∧ jrPolicy.find 2 = some { rec2 with kind := 4, after := 9 } ∧
    (act s 0 0 9 2).1.isSome = true := ⟨pausedGoes _ _, rfl, rfl⟩
theorem witness_ShapePoints_fails :
    let s := jState { jr0 with obj := none, shape := some ⟨.apply 2, 1, [], true, 9, false⟩ } [] []
    jr0.find 2 = some rec2 ∧ (act s 0 0 1 2).1.isNone = true := ⟨rfl, rfl⟩
theorem witness_ShapePoints_revert :
    let j : Journal := { jr0 with obj := some { objs0 with descs := [{ buf0 with words := [0x0201, 1, 0x400000, 0x0600000000] }] } }
    let j : Journal := { j with shape := some ⟨.revert [1] 1 2 (some (0, 0)), 1, [], true, 9, false⟩ }
    PointGoesOn (jState j [] []) 0 ⟨.revert [1] 1 2 (some (0, 0)), 1, [], true, 9, false⟩ ∧
    ([1] : List (BitVec 48)).filterMap (fun x => j.find x.toNat) = [rec1] ∧ (refusal (jState j [] []) 0 [rec1]).1 = none ∧
    (refusal (jState { j with pin := some ⟨1, 1, 0, 0⟩ } [] []) 0 [rec1]).1 = some (1, false) :=
  ⟨pausedGoes _ _, by decide +kernel, by decide +kernel, by decide +kernel⟩
theorem witness_UndoneMember : ((jState jr0 [] []).jr 0).find rec1.seq.toNat = some rec1 ∧
    rec1.seq ≠ ((jState jr0 [] []).jr 0).next := by decide +kernel

/-- The trial of record 1 at BASE 100, its last window of 4096 fc complete. -/
def trial1 (n : Nat) : Trial := { seqs := [1], mask := 1, base := 100, wins := 1, fcs := 4096, prg := [(0, n)] }
theorem witness_TrialsAndTuner_base :
    let j : Journal := { jr0 with wins := [(0, { fcs := 4096, cnt := 7 })] }
    j.obj = some objs0 ∧ Tbl.find? j.wins 0 = some { fcs := 4096, cnt := 7 } ∧ 2 ^ objs0.w ≤ 4096 ∧ (j.wins.map (·.1)).Nodup := by
  decide +kernel
theorem witness_TrialsAndTuner_window : 0 + 1 < objs0.ntrialw ∧ 2 ^ objs0.w ≤ (trial1 250).fcs := by decide
theorem witness_TrialsAndTuner_verdict :
    MayBegin (jState { jr0 with trial := some (trial1 250) } [] []) 0 ∧ objs0.ntrialw ≤ (trial1 250).wins + 1 ∧
    (∀ x ∈ (trial1 250).seqs, ∃ r, jr0.find x.toNat = some r ∧ r.seq = x) ∧
    100 * (256 - objs0.margin) ≤ min (trialPrg (trial1 250) / objs0.ntrialw) (2 ^ 32 - 1) * 256 ∧
    min (trialPrg (trial1 150) / objs0.ntrialw) (2 ^ 32 - 1) * 256 < 100 * (256 - objs0.margin) ∧ (trial1 150).seqs ≠ [] :=
  ⟨mayBegin_jState _ _ _ rfl rfl (by decide), by decide, fun x hx => ⟨rec1, by simp [trial1] at hx; subst hx; decide⟩,
    by decide +kernel, by decide +kernel, by decide⟩
theorem witness_TrialsAndTuner_tuner :
    let j : Journal := { jr0 with recs := [], wins := [(0, { since := 16384 })] }
    let s := (jState j [] []).updPad 0 fun x => { x with ran := true }
    TunerTakes s j 0 buf0 ∧ j.desc 0 = some buf0 :=
  ⟨⟨objs0, rfl, rfl, by decide, rfl, rfl, by decide +kernel, by decide +kernel, rfl, rfl, ⟨0, by decide, by decide, by decide +kernel⟩,
    by decide +kernel, by decide +kernel⟩, rfl⟩
theorem test_tuner_next_format : tunerValue buf0 = 1 := by decide +kernel

/-! ## The fabric -/

/-- Region 3 on tile t alone, whose slot 0 holds a header, no instruction, route words and no constants. -/
def fabAt (t : Nat) (hdr : BitVec 64) (routes : List (BitVec 64)) (tl : Tile) : State :=
  let cfg := hdr :: (List.replicate 16 0 ++ routes ++ List.replicate (16 - routes.length) 0)
  let s := base.updPad 0 fun x =>
    { x with regions := [(3, { reg3 with row0 := tileRow t, col0 := tileCol t })], tiles := [(t, { tl with cfgs := [(0, cfg)] })] }
  { s with cur := { p := 0, q := 0, t := t, slot := 0 } }
/-- A scalar token at an input. -/
def scalarIn (n : Nat) (v : BitVec 512) : Tile := { bufs := [(n, { toks := [{ val := v }] })] }
/-- Locals. -/
def locals (l : Tbl (BitVec 32)) : Tile := { loc := l }

theorem test_add_wraps : (fAdd 0xFFFFFFFF 2).1 = 1 := by decide
theorem test_bfx_field : ∃ v, arithRow (.bfx {}) = some ({}, v) ∧
    v (fabAt 13 0 [] {}).fir 0xABCD (0xE4 : BitVec 32) = (0xBC, true) := ⟨_, rfl, by decide +kernel⟩
theorem witness_FiringEffect :
    let s := fabAt 13 0 [] {}
    let e : Effect := { res := some 7 }
    (s.region s.fir.p s.fir.rid).alloc = true ∧ e.ib ≠ 0 := by decide +kernel
theorem witness_TokensMove_send :
    let s := fabAt 13 0 [0xA200] {}
    let c := ((s.pad 0).cfgAt 13).getD []
    c.from (8 + 0) = [⟨false, 8, 8, 2, false⟩] ∧ routeDest 13 ⟨false, 8, 8, 2, false⟩ = some (13, 0) ∧
    s.stilesAt 0 13 0 = [] ∧ (s.tile 0 13).blocked 0 = false := by decide +kernel
theorem witness_TokensMove_skip :
    let s := fabAt 13 0 [0xE200] {}
    let c := ((s.pad 0).cfgAt 13).getD []
    c.outPlane 0 = some true ∧ (s.tile 0 13).blocked 0 = false ∧
    (((((s.pad 0).regionAt 13).map fun (e : Nat × Region) => e.2).getD {}).ufc.getD (hdrUfc c.hdr)) = false ∧
    zeroLanes (hdrLw c.hdr) (asPlane true false {}) = true ∧ (asPlane true false {}).prg = false ∧
    (Tbl.get 0 (s.tile 0 13).pend 0).toNat < 63 := by decide +kernel
theorem witness_TokensMove_dequeue :
    let s := fabAt 13 0 [] { bufs := [(0, { toks := [{ dat := true, skip := 2 }] }), (1, { toks := [{ val := 5 }] })] }
    ((s.tile 0 13).buf 0).toks = [{ dat := true, skip := 2 }] ∧ ((s.tile 0 13).buf 1).toks = [{ val := 5 }] := by decide +kernel
theorem witness_ElementArithmetic : ∃ v, arithRow (.fabMulh { sa := 4, sb := 5 }) = some ({ sa := 4, sb := 5 }, v) := ⟨_, rfl⟩
theorem witness_NopAndMov : (12 : Nat) ≤ (13 : BitVec 4).toNat ∧ (2 : BitVec 4).toNat < 4 ∧
    (4 : Nat) ≤ (11 : BitVec 4).toNat ∧ (11 : BitVec 4).toNat < 12 := by decide
theorem witness_StreamSteering :
    let x := (fabAt 13 0 [] (scalarIn 1 9)).fir
    x.opB { sb := 1 } ≠ 0 ∧ x.opB { sb := 2 } = 0 ∧ ((x.tl.buf 1).toks) = [{ val := 9 }] := by decide +kernel
theorem witness_StreamCounting :
    let x := (fabAt 13 0 [] { locals [(0, 1), (1, 3)] with rc := [(0, 2)], arm := true, x := 1
                                                           bufs := [(0, { toks := [{ kind := 2 }] }), (1, { toks := [{ eos := true }] }), (2, { toks := [{ iter := 3 }] })] }).fir
    (Tbl.get 0 x.tl.rc x.slot).toNat < (x.opB { sb := 5 }).toNat ∧ (x.opB { sb := 4 }).toNat ≤ (Tbl.get 0 x.tl.rc x.slot).toNat ∧
    x.opA { sa := 6 } = 0 ∧ x.opA { sa := 5 } = Tbl.get 0 x.tl.rc x.slot + 1 ∧ Tbl.get 0 x.tl.rc x.slot + 1 ≠ x.opA { sa := 4 } ∧
    srcEos x 1 false = true ∧ srcEos x 2 false = false ∧
    (x.tl.head 0).dat = false ∧ (x.tl.head 0).kind = 2 ∧ (x.tl.head 1).kind ≠ 2 ∧ (x.tl.head 1).eos = true ∧
    (x.tl.head 2).eos = false ∧ x.tl.arm = true ∧
    x.tl.x.toInt < (x.tl.a + ((x.tl.head 2).iter - x.tl.l).setWidth 33).toInt := by decide +kernel
theorem witness_StreamCounting_pass :
    ({} : Tile).arm = false ∧ (1 : BitVec 4) ≠ 0 ∧ slotLoaded (fabAt 13 0 [] {}) 0 reg3 0 = true ∧
    slotLoaded (fabAt 13 0 [] {}) 0 reg3 1 = false := by decide +kernel

/-! ## Memory nodes -/

theorem witness_ScratchpadNodesFire :
    let s := fabAt 18 0 [] (locals [(0, 9), (1, 65530), (2, 57340), (3, 20)])
    (∃ n, spadNode (.sldv { sb := 4 }) = some ({ sb := 4 }, 0x61, n) ∧ n s.fir = 16) ∧ (s.fir.opB { sb := 4 }).toNat + 16 - 1 ≤ 65535 ∧
    reorderReserved s 0 (18 / 12) = false ∧ 65535 < (s.fir.opB { sb := 5 }).toNat + 16 - 1 ∧
    (∃ n, spadNode (.sfe { sa := 7, sb := 6 }) = some ({ sa := 7, sb := 6 }, 0x68, n) ∧ n s.fir = 21) :=
  ⟨⟨_, rfl, rfl⟩, by decide +kernel, by decide +kernel, by decide +kernel, _, rfl, by decide +kernel⟩
theorem witness_GlobalNodesFire :
    let s := fabAt 12 0 [] { locals [(0, 8), (1, 6), (2, 0x40000008)] with et := { seg := [(1, 0x100000000000000)] } }
    globNode s.fir (.gld { sb := 4 }) = some ({ sb := 4 }, 0x70, 8, 8, 4) ∧ canonical 8 = true ∧
    (8 : BitVec 64).toNat % 4 = 0 ∧ segAddr s.fir.tl (s.fir.opB { sb := 5 }) = 6 ∧ (6 : BitVec 64).toNat % 4 ≠ 0 ∧
    canonical (segAddr s.fir.tl (s.fir.opB { sb := 6 })) = false := by decide +kernel
/-- A request of slot 0 that is due. -/
def reqOf (opc : BitVec 8) (f : FabF) (a : BitVec 512) (b : BitVec 32) : Req :=
  { id := 5, slot := 0, word := fabPack opc f, fired := 4, due := 5, iter := 0, a := a, b := b }
def spadState (r : Req) (sp : Spad) : State := fabAt 18 0 [] { reqs := [r], nextReq := 6, sp := sp }
theorem witness_ScratchpadResults_add :
    let s := spadState (reqOf 0x69 {} 5 9) { words := [(9, 0xFFFFFFFE)] }
    Goes s 0 18 (reqOf 0x69 {} 5 9) ∧ InTurn s 0 18 (reqOf 0x69 {} 5 9) ∧ BankFree s 0 18 9 ∧
    spadRow 0x69 ((s.spad 0 18).word 9) ((s.spad 0 18).isFull 9) 5 0 = some (3, false, some 0xFFFFFFFE, true) ∧
    Tbl.get [] (s.spad 0 18).loadQ 9 = [] ∧ (s.spad 0 18).bad = [] ∧ (s.spad 0 18).soft = [] ∧
    (fabOpc (reqOf 0x69 {} 5 9).word).toNat = 0x69 :=
  ⟨⟨by decide +kernel, rfl, by decide +kernel, by decide +kernel⟩, by unfold InTurn; decide +kernel,
    by unfold BankFree; decide +kernel, by decide +kernel, by decide +kernel, by decide +kernel, by decide +kernel, by decide +kernel⟩
theorem witness_ScratchpadResults_vector (opc : BitVec 8) (h : opc = 0x61 ∨ opc = 0x63) :
    let r := reqOf opc { pd := 1 } 5 9
    let s := spadState r {}
    Goes s 0 18 r ∧ InTurn s 0 18 r ∧ BankFree s 0 18 (9 + r.prog) ∧ (fabFields r.word).pd.getLsbD 0 = true ∧ r.prog < 17 ∧
    (∀ i, r.prog ≤ i → i < 16 → vecWord r.res r.rside i = 0) ∧ (fabOpc r.word).toNat = opc.toNat := by
  obtain rfl | rfl := h <;>
    exact ⟨⟨by decide +kernel, rfl, by decide +kernel, by decide +kernel⟩, by unfold InTurn; decide +kernel,
      by unfold BankFree; decide +kernel, by decide +kernel, by decide +kernel,
      fun i _ hi => by simp [vecWord, hi, reqOf], by decide +kernel⟩
theorem witness_ScratchpadResults_park :
    BankFree (spadState (reqOf 0x64 {} 0 9) {}) 0 18 9 ∧ (({} : Spad).isFull 9) = false ∧
    BankFree (spadState (reqOf 0x67 {} 0 9) { full := [(9, true)] }) 0 18 9 ∧ ({ full := [(9, true)] } : Spad).isFull 9 = true := by
  unfold BankFree; decide +kernel
theorem witness_ScratchpadResults_served :
    let r := { reqOf 0x64 {} 0 9 with st := .parkedFE }
    let s := spadState r { full := [(9, true)], loadQ := [(9, [5])] }
    (s.tile 0 18).req r.id = some r ∧ parkHeld s 0 18 = false ∧ (s.spad 0 18).bad = [] ∧ (s.spad 0 18).isFull 9 = true ∧
    (Tbl.get [] (s.spad 0 18).loadQ 9).head? = some r.id ∧
    (Tbl.get [] (spadState { reqOf 0x67 {} 0 9 with st := .parkedFE } { storeQ := [(9, [5])] } |>.spad 0 18).storeQ 9).head? = some 5 := by
  decide +kernel
theorem witness_ScratchpadResults_sfe :
    let s := spadState (reqOf 0x68 {} 0x103 65534) {}
    Goes s 0 18 (reqOf 0x68 {} 0x103 65534) ∧ InTurn s 0 18 (reqOf 0x68 {} 0x103 65534) ∧
    (fabOpc (reqOf 0x68 {} 0x103 65534).word).toNat = 0x68 ∧ BankFree s 0 18 65534 ∧ (s.spad 0 18).loadQ = [] ∧
    min (65534 + (0x103 : BitVec 512).toNat % 256) 65535 = 65535 :=
  ⟨⟨by decide +kernel, rfl, by decide +kernel, by decide +kernel⟩, by unfold InTurn; decide +kernel, by decide +kernel,
    by unfold BankFree; decide +kernel, by decide +kernel, by decide +kernel⟩
def globState (r : Req) : State := { fabAt 12 0 [] { reqs := [r], nextReq := 6 } with mem := tables ++ [(0x400000, 7)] }
/-- A global request of slot 0 at 0x400000. -/
def globReq (opc : BitVec 8) : Req := { reqOf opc {} 5 0 with va := 0x400000 }
theorem witness_GlobalResults (opc : BitVec 8) (h : opc = 0x70 ∨ opc = 0x72 ∨ opc = 0x74 ∨ opc = 0x71 ∨ opc = 0x73 ∨ opc = 0x76) :
    let r := globReq opc
    Goes (globState r) 0 12 r ∧ viaStile (globState r) 0 r.va = false ∧ nodBefore (globState r) 0 12 r = [] ∧
    canonical r.va = true ∧ r.va.toNat % 64 = 0 ∧ (globState r).badLine false 0x400000 = false ∧ r.prog = 0 ∧ r.res = 0 ∧
    (fabOpc r.word).toNat = opc.toNat := by
  obtain rfl | rfl | rfl | rfl | rfl | rfl := h <;>
    exact ⟨⟨by decide +kernel, rfl, by decide +kernel, by decide +kernel⟩, by decide +kernel⟩
theorem witness_GlobalResults_word (k : AccKind) :
    (translate (globState (globReq 0x74)) 0 (some 12) 0x400000 k 4).1 = .ok 0x400000 false := by
  cases k <;> decide +kernel
theorem witness_GlobalResults_miss :
    let s := (translate (globState (globReq 0x70)) 0 (some 12) 0x400000 .read 4).2
    Tbl.find? (s.tile 0 (l1Home s 0 12 (lineKey 0x400000 false))).et.lines (lineKey 0x400000 false) = none := by decide +kernel
/-- The 16 words of a line. -/
def lineWords : List (Nat × Bool) := (List.range 16).map fun i => (0x400000 + 4 * i, false)
theorem witness_GlobalResults_vector (opc : BitVec 8) (k : AccKind) (h : (opc = 0x71 ∨ opc = 0x76) ∧ k = .read ∨ opc = 0x73 ∧ k = .write) :
    ∃ s', Reaches (globState (globReq opc)) s' 0 12 (globReq opc) k 64 lineWords := by
  obtain ⟨rfl | rfl, rfl⟩ | ⟨rfl, rfl⟩ := h <;>
    exact ⟨_, ⟨_, rfl, by decide +kernel, by decide +kernel⟩, by decide +kernel, by decide +kernel⟩
theorem witness_GlobalResults_shape : lineWords.Nodup ∧ (∀ j, ((globState (globReq 0x71)).tile 0 j).et.lines = []) ∧
    (∀ i, 0 ≤ i → i < 16 → vecWord 0 0 i = 0) ∧ ((globReq 0x76).row.length = 0) := by
  refine ⟨by decide, fun j => ?_, fun i _ h => by simp [vecWord, h], rfl⟩
  show (if 12 = j then _ else ({} : Tile)).et.lines = []
  split <;> rfl
/-- A gather whose row is read: its one place, and the number of its words staged. -/
def stagedReq (n : Nat) : Req := { globReq 0x76 with prog := 16 + n, row := [7], places := [3] }
theorem witness_GlobalResults_staged :
    let r := stagedReq 0
    let s := globState r
    Goes s 0 12 r ∧ nodBefore s 0 12 r = [] ∧ (fabFields r.word).pd.toNat = 0 ∧ r.row.length = 2 ^ 0 ∧ r.places.length = 2 ^ 0 ∧
    r.places.Nodup ∧ BankFree s 0 (tileAt 1 6) (57344 + 16 * r.places.getD 0 0) :=
  ⟨⟨by decide +kernel, rfl, by decide +kernel, by decide +kernel⟩, by decide +kernel, by decide +kernel, rfl, rfl, by decide,
    by unfold BankFree; decide +kernel⟩
/-- A line that the coalescer holds for the gather, its first word read. -/
theorem witness_GlobalResults_held :
    let e : CoalLine := { key := lineKey 0x400000 false, reqs := [5], words := [(0, 9)] }
    let s := (globState (globReq 0x76)).updTile 0 12 fun tl => { tl with et := { tl.et with coal := [e] } }
    heldLine s 0 12 (globReq 0x76) (lineKey 0x400000 false) = some e ∧ Tbl.find? e.words 0 = some 9 ∧
    heldLine (globState (globReq 0x76)) 0 12 (globReq 0x76) (lineKey 0x400000 false) = none := by decide +kernel
theorem witness_GlobalResults_fault :
    (translate { globState (globReq 0x72) with roots := [] } 0 (some 12) 0x400000 .write 4).1 = .fault cXLATE ∧
    ((globState (globReq 0x72)).tile 0 12).et.reported = false ∧ ((globState (globReq 0x72)).ctx 0 0).reports = [] := by decide +kernel
theorem witness_WaitingRequests :
    let s := fabAt 12 0 [] { reqs := [{ reqOf 0x70 {} 0 0 with id := 2 }, reqOf 0x79 {} 0 0], nextReq := 6 }
    ((memReqs (s.tile 0 12)).any fun q => decide (q.id < 5) && q.st != .performed) = true ∧
    (fabOpc (reqOf 0x79 {} 0 0).word).toNat = 0x79 ∧ (fabOpc (reqOf 0xE4 {} 0 0).word).toNat = 0xE4 := by decide +kernel
theorem witness_WaitingRequests_chapp :
    let s := fun (o : BitVec 8) => fabAt 12 0 [] { reqs := [{ reqOf o {} 0 0 with id := 2, st := .parkedFault 0x20 }, reqOf 0xE4 {} 0 0], nextReq := 6 }
    let chapp := fun (s : State) => (s.tile 0 12).reqs.any fun q => fabOpc q.word == 0xE0 && decide (q.id < 5) && q.st != .performed
    chapp (s 0xE0) = true ∧ ((memReqs ((s 0xE0).tile 0 12)).any fun q => decide (q.id < 5) && q.st != .performed) = false ∧
    chapp (s 0xE3) = false := by decide +kernel
theorem witness_WaitingRequests_alone (opc : BitVec 8) (h : opc = 0x79 ∨ opc = 0x7A ∨ opc = 0xE4) :
    Goes (fabAt 12 0 [] { reqs := [reqOf opc { pd := 2 } 0 0] }) 0 12 (reqOf opc { pd := 2 } 0 0) ∧
    ((fabAt 12 0 [] { reqs := [reqOf opc { pd := 2 } 0 0] }).tile 0 12).outq = [] := by
  obtain rfl | rfl | rfl := h <;>
    exact ⟨⟨by decide +kernel, rfl, by decide +kernel, by decide +kernel⟩, by decide +kernel⟩
theorem witness_WaitingRequests_message :
    let r := { reqOf 0xE3 {} 0 0 with st := .performed, flag := true }
    ((fabAt 12 0 [] { reqs := [r] }).tile 0 12).req r.id = some r ∧ fabOpc r.word = 0xE3 := by decide +kernel
theorem witness_WaitingRequests_parked :
    ((fabAt 12 0 [] { reqs := [{ reqOf 0x70 {} 0 0 with st := .parkedFault 0x20 }] }).tile 0 12).req 5 =
      some { reqOf 0x70 {} 0 0 with st := .parkedFault 0x20 } := by decide +kernel
/-- A token at the link input N.a of tile 13, routed to element input 0. -/
def hopState (arr : Nat) : State :=
  fabAt 13 0 [0xA000] { bufs := [(4, { toks := [{ val := 9, arr := arr }] })] }
theorem witness_TokenEvents_hop :
    ((hopState 9).pad 0).regionAt 13 = some (3, reg3) ∧
    hopRoutes ((((hopState 9).pad 0).cfgAt 13).getD []) 4 = [⟨false, 8, 0, 2, false⟩] ∧
    routeDest 13 ⟨false, 8, 0, 2, false⟩ = some (13, 0) ∧ (((hopState 9).tile 0 13).buf 4).toks = [{ val := 9, arr := 9 }] ∧
    9 < (hopState 9).fc 0 ∧ regionRuns (hopState 9) 0 reg3 = true ∧ (((hopState 9).tile 0 13).buf 0).used < 2 := by decide +kernel
theorem witness_TokenEvents_blocked :
    let s := fabAt 13 0 [0xA000] { bufs := [(0, { used := 2 }), (4, { toks := [{ val := 9, arr := 9 }] })] }
    2 ≤ ((s.tile 0 13).buf 0).used ∧ flushDue s 0 13 0 = false := by decide +kernel
/-- LQ0 waits in CFGA for region 3 to drain; a token is pending at out0. -/
def flushState : State := (fabAt 13 0 [0xE200] { pend := [(0, 1)] }).updCtx 0 0 fun c =>
  { c with regs := [(1, 3)], wait := .poll (seqPack 0x63 { a := 1 }) 0 }
theorem witness_TokenEvents_flush : FlushDue flushState 0 13 0 :=
  ⟨3, reg3, by decide +kernel, rfl, ⟨seqPack 0x63 { a := 1 }, rfl, by decide +kernel, by decide +kernel, by decide +kernel⟩,
    by decide +kernel, by decide +kernel, .inr ⟨by unfold OpsDone NoMatrixWork; decide +kernel, by decide +kernel⟩⟩

/-! ## The matrix class -/

theorem witness_MatrixSettings : ∃ g, mxRow (.manch { sb := 4 }) = some ({ sb := 4 }, 0x82, g) ∧
    (fabAt 13 0 [] {}).fir.tl.mx.pass = none := ⟨_, rfl, by decide +kernel⟩
theorem witness_MatrixSettings_columns :
    (0x10003 : BitVec 32).getLsbD 16 = true ∧ (3 : BitVec 32).getLsbD 16 = false ∧ (127 : Nat) = (127 : BitVec 32).toNat % 128 := by
  decide
theorem test_manch_sets : ∀ g, mxRow (.manch { sb := 4 }) = some ({ sb := 4 }, 0x82, g) →
    (g (fabAt 13 0 [] (locals [(0, 0x3FF)])).fir {}).anchor = 0x3FF := by
  intro g h
  simp only [mxRow, Option.some.injEq, Prod.mk.injEq, true_and] at h
  subst h
  decide +kernel
theorem witness_MatrixLoad :
    let x := (fabAt 13 0 [] { locals [(0, 120), (1, 121), (2, 0xF7C)] with
      bufs := [(0, { toks := [{ dat := true, tag := 2 }] }), (1, { toks := [{ dat := true, tag := 1 }] })] }).fir
    Tag.ofBits (x.tl.head 0).tag = .bf16 ∧ 512 / Tag.bf16.lane (hdrLw x.cfg.hdr) / 16 = 2 ∧
    (x.opB { sb := 6 }).toNat % 128 + 2 ≤ 128 ∧ Tag.ofBits (x.tl.head 1).tag = .fp32 ∧ 128 < 127 + 2 := by decide +kernel
theorem witness_CarryBuffer_adds : (∃ n, addTo { body := [(3, 0x7FFFFFFF)] } 3 1 0 = .made n) ∧
    Tbl.sortedFrom 0 ({ body := [(3, 0x7FFFFFFF)] } : Matrix).carry = true := ⟨⟨_, rfl⟩, rfl⟩
theorem test_carry_out : addTo { body := [(3, 0x7FFFFFFF)] } 3 1 0 =
    .made { body := [(3, 0x80000000)], carry := [(3, 1)] } := by decide +kernel
theorem witness_CarryBuffer_full : addTo { body := [(3, 0x7FFFFFFF)], carryCap := 0 } 3 1 0 = .full := by decide +kernel
theorem witness_CarryBuffer_overflow :
    addTo { body := [(3, 0x7FFFFFFF)], carry := [(3, 0x7FFFFFFF)] } 3 1 0 = .overflow := by decide +kernel
theorem witness_CarryBuffer_pop :
    let s := (fabAt 13 0 [] { mx := { carry := [(3, 7), (9, 1)] } }).updCtx 0 0 fun c => { c with mcsel := 0x11 }
    guardOk s.curCtx {} = true ∧ s.curCtx.mcsel.toNat % 16 = 1 ∧ s.curCtx.mcsel.toNat / 16 = 1 ∧ tileType 13 = .m ∧
    ((s.pad 0).regionAt 13).any (fun r => r.2.owner == s.cur.q) = true ∧ (s.tile 0 13).mx.carry = (3, 7) :: [(9, 1)] := by
  decide +kernel
theorem witness_CarryBuffer_other : (fabAt 13 0 [] {}).curCtx.mcsel.toNat % 16 = 0 ∧ tileType 0 ≠ .m := by decide +kernel
/-- A header whose FMTA is BF16. -/
def hdrBf : BitVec 64 := 0x800000000
theorem witness_PassFires :
    let x := (fabAt 13 hdrBf [] { locals [(0, 2), (1, 0x0F02)] with
      bufs := [(0, { toks := [{ dat := true, tag := 2 }] }), (1, { toks := [{ dat := true, tag := 2, skip := 1 }] })] }).fir
    hdrFmta x.cfg.hdr = .bf16 ∧ (x.opB { sb := 4 }).toNat % 32 = 2 ∧ ((x.tl.rawHead 0).getD {}).skip = 0 ∧
    Tag.ofBits ((x.tl.rawHead 0).getD {}).tag = .bf16 ∧ passPos .bf16 2 ≤ ((x.tl.rawHead 1).getD {}).skip.toNat ∧
    16 < (x.opB { sb := 5 }).toNat / 256 % 16 + 2 := by decide +kernel
/-- A pass of three groups fired in fc 1: two positions, of which one is taken. -/
def pass0 : Pass :=
  { id := 5, word := fabPack 0x81 {}, slot := 0, bank := 0, n := 3, g0 := 0, fmt := 2, pos := 2, zeros := [false], fired := 1
    lastTake := 1, g := 0, c := 0, held := false, everHeld := false, nfp := false, nfsk := false, iter := 0 }
def passState (ps : Pass) (m : Matrix) (tag : BitVec 3) (gen : Bool) : State :=
  fabAt 13 hdrBf [] { bufs := [(0, { toks := [{ dat := true, tag := tag, gen := gen }] })], mx := { m with pass := some ps }
                      reqs := [{ reqOf 0x81 {} 0 0 with st := .performed }] }
theorem witness_PassRuns_position :
    let x := firOf (passState pass0 {} 2 false) 0 13
    x.tl.mx.pass = some pass0 ∧ x.tl.mx.away = none ∧ pass0.zeros.length < pass0.pos ∧ pass0.lastTake < 10 ∧
    x.tl.rawHead (fabFields pass0.word).sa.toNat = some { dat := true, tag := 2 } ∧ x.gen = false ∧ x.tl.stopped = false ∧
    Tag.ofBits 2 = pass0.tagA ∧ Tag.ofBits 1 ≠ pass0.tagA ∧ x.reg.spl = none ∧
    passDue (passState pass0 {} 2 false) 0 13 = none ∧ holdDue (passState pass0 {} 2 false) 0 13 = none ∧
    (firOf (passState pass0 {} 2 true) 0 13).tl.rawHead 0 = some { dat := true, tag := 2, gen := true } := by decide +kernel
theorem witness_PassRuns_complete :
    let ps := { pass0 with n := 2, pos := 1, zeros := [true] }
    let s := passState ps {} 2 false
    ps.held = false ∧ ps.zeros.length = ps.pos ∧ ps.lastTake = ps.fired ∧ (∀ z ∈ ps.zeros, z = true) ∧ ps.fired ≤ s.fc 0 ∧
    posDue s 0 13 = none ∧ (passTry s 0 13 ps).held = none ∧ ((firOf s 0 13).tl.req ps.id).isSome = true ∧
    (firOf s 0 13).tl.badCells = [] ∧ Tbl.sortedFrom 0 (s.tile 0 13).mx.carry = true := by decide +kernel
/-- A pass held at group 0, column 0, whose product 1 × 1 carries. -/
def held0 : Pass := { pass0 with n := 1, pos := 1, zeros := [false], held := true, everHeld := true }
def held0Mx : Matrix := { cell := [(0, 0x3F80)], row := [(0, { code := 0x3F80 })], body := [(0, 0x7FFFFFFF)], carryCap := 0 }
theorem witness_PassRuns_held :
    let s := passState held0 held0Mx 2 false
    held0.held = true ∧ (firOf s 0 13).tl.stopped = false ∧ regionRuns s 0 (firOf s 0 13).reg = true ∧
    (passTry s 0 13 held0).held = some (0, 0, false) ∧ s.fir.tl.mx.tagen = false ∧ (s.pad 0).regionAt 13 ≠ none := by decide +kernel
/-- 16 elements of which the first is 1, the rest 0. -/
def ones : List MOp := oneOp :: List.replicate 15 { int := false, e := -126, v := .fin false 0 1 }
theorem witness_GroupSums : (Tag.ofBits 2).fp = some fpBF16 ∧ (0x7F : BitVec 8) ≠ 0xFF ∧ ones.length = 16 ∧ (128 : Nat) ≤ 128 ∧
    (∀ a ∈ ones, ∀ neg n, a.v ≠ .fin neg n 0) ∧ (∃ x, ratOf (fpBF16.dec 0x3F80) = some x) := by
  refine ⟨rfl, by decide, by decide, le_refl _, ?_, ⟨_, rfl⟩⟩
  intro a ha neg n
  simp only [ones, List.mem_cons, List.mem_replicate] at ha
  obtain rfl | ⟨-, rfl⟩ := ha
  · rw [show oneOp.v = .fin false 1 1 from rfl]; simp
  · simp
/-- The products of these elements and the A-sum's 1: the first is 1, the others 0. -/
theorem witness_GroupSums_products :
    (∀ i, i < 16 → prodClass (ones.getD i oneOp).v oneOp.v = none) ∧ ratOf oneOp.v = some 1 ∧
    (∀ i, i < 16 → 0 < i → ratOf (ones.getD i oneOp).v = some 0) := by
  refine ⟨by decide, by rw [show oneOp.v = .fin false 1 1 from rfl]; norm_num [ratOf], fun i hi h0 => ?_⟩
  obtain ⟨j, rfl⟩ : ∃ j, i = j + 1 := ⟨i - 1, by omega⟩
  have : ones.getD (j + 1) oneOp = { int := false, e := -126, v := .fin false 0 1 } := by
    simp only [ones, List.getD_cons_succ]
    rw [List.getD_eq_getElem _ _ (by simpa using (by omega : j < 15)), List.getElem_replicate]
  rw [this]
  norm_num [ratOf]
def drain0 : Drain :=
  { id := 5, word := fabPack 0x84 { dst := 8 }, slot := 0, desc := 0, fired := 1, body := [], nfc := [], carry := []
    spill := [], spillDone := none, iter := 0, pos := 0 }
def drainState (d : Drain) (gen : Bool) : State :=
  fabAt 13 0 [] { bufs := [(0, { toks := [{ dat := true, eos := true, gen := gen }] })], mx := { drain := some d }
                  reqs := [{ reqOf 0x84 { dst := 8 } 0 0 with st := .performed }] }
theorem witness_Drains :
    let x := firOf (drainState drain0 false) 0 13
    x.tl.mx.drain = some drain0 ∧ x.tl.mx.away = none ∧ drain0.fired < 10 ∧ x.gen = false ∧ x.reg.spl = none ∧ x.tl.stopped = false ∧
    x.tl.rawHead (fabFields drain0.word).sa.toNat = some { dat := true, eos := true } ∧
    (firOf (drainState drain0 true) 0 13).tl.rawHead 0 = some { dat := true, eos := true, gen := true } ∧
    drainDue (drainState drain0 false) 0 13 = none ∧ drain0.fired + 7 ≤ 10 ∧
    spillDue (drainState { drain0 with spillDone := some 1 } false) 0 13 = none ∧
    ((firOf (drainState { drain0 with spillDone := some 1 } false) 0 13).tl.req 5).isSome = true ∧
    (0x8000 : BitVec 32).getLsbD 15 = true ∧ (0x10000 : BitVec 32).getLsbD 16 = true := by decide +kernel
theorem witness_Drains_lane : ratOf (fpFP32.dec ((({} : Matrix).scaleOf 3).toNat)) = some 1 ∧ (drainFmt 0x10).fp.isSome = true ∧
    (Tbl.get .finite drain0.nfc 3 = .finite) := by
  refine ⟨?_, by decide +kernel, rfl⟩
  rw [show fpFP32.dec ((({} : Matrix).scaleOf 3).toNat) = .fin false (2 ^ 23) (2 ^ 23) from by decide +kernel]
  norm_num [ratOf]
theorem witness_CarryReads :
    let x := (fabAt 13 0 [] (locals [(0, 0x100), (1, 5)])).fir
    x.tl.mx.pass = none ∧ (x.opB { sb := 4 }).getLsbD 8 = true ∧ (x.opB { sb := 5 }).getLsbD 8 = false ∧
    x.tl.mx.carry.length < 2 ^ 11 := by decide +kernel
theorem witness_CarryReads_spill : ([(3, 7)] : List (Nat × BitVec 32)).length ≤ 136 ∧
    (∀ e ∈ ([(3, 7)] : List (Nat × BitVec 32)), e.1 ≤ 128) ∧ (spillToks 17 [(3, 7)])[0]?.isSome = true := by decide +kernel
/-- A later token of a gathered row waiting at out0, whose route has room or not. -/
def outState (n : Nat) : State :=
  fabAt 13 0 [0xE200] { outq := [{ id := 5, om := 1, held := 0, tok := some { dat := true }, paced := true }], bufs := [(0, { used := n })] }
theorem witness_CarryReads_token :
    let s := (outState 0).updTile 0 13 fun x => { x with reqs := [{ reqOf 0x87 {} 0 0 with st := .performed }] }
    ((s.tile 0 13).req 5).any (fun r => fabOpc r.word == 0x87) = true ∧ (s.tile 0 13).outq.map (·.paced) = [true] := by decide +kernel
theorem witness_TokenEvents_paced :
    (∀ n, n < 4 → (1 : BitVec 4).getLsbD n = true → outSpace (outState 0) 0 13 (((outState 0).pad 0).cfgAt 13 |>.getD []) n = true) ∧
    pacedReady (outState 2) 0 13 (((outState 2).pad 0).cfgAt 13 |>.getD []) ((outState 2).tile 0 13).outq 0 = none := by
  decide +kernel

/-! ## The vector and format class -/

/-- A V tile under FMTA t (R35), with a BF16 head at in0, an FP32 head at in1, zeros elsewhere. -/
def vecState (t : BitVec 64) (l : Tbl (BitVec 32)) : State :=
  fabAt 17 (t <<< 34) [] { locals l with
    bufs := [(0, { toks := [{ dat := true, tag := 2 }] }), (1, { toks := [{ dat := true, tag := 1 }] }),
             (2, { toks := [{ dat := true, tag := 6 }] }), (3, { toks := [{ dat := true, tag := 7 }] })] }
/-- Sources of vector locals. -/
def vf : FabF := { sa := 12, sb := 13, dst := 8 }
/-- 5/4 lies half way between the neighbours 1 and 3/2 of E2M1; the smallest is 1/2. -/
theorem witness_Rounding : magVal fpE2M1 2 ≤ (5 : ℚ) / 4 ∧ (5 : ℚ) / 4 < magVal fpE2M1 3 ∧ (1 : ℚ) / 4 < magVal fpE2M1 1 := by
  norm_num [magVal, fpE2M1]
theorem witness_Rounding_modes : goesUp { mode := .rup } false 1 (1 / 2) ∧ ¬ goesUp { mode := .rne } false 2 (1 / 2) ∧
    fpE2M1 ≠ fpFP32 := by
  refine ⟨?_, ?_, by decide⟩ <;> simp [goesUp]
theorem test_round_tie : (fpE2M1.round { mode := .rne } (.fin false 5 4)).1 = 2 := by decide +kernel
theorem witness_VectorLanes : ∃ g, lane2Row (.vfma vf) = some (vf, 0xA3, g) ∧
    (let x := (vecState 1 []).fir
     (x.vA vf).wrong x.lf = false ∧ (x.vB vf).wrong x.lf = false ∧ (x.vA { vf with sa := 0 }).wrong x.lf = true ∧
     0 < x.lnL ∧ ((x.vA vf).val x.lw 0).isFin ∧ ((x.vB vf).val x.lw 0).isFin ∧
     (x.lfp.dec (laneOf (x.vD vf) x.lnW 0)).isFin) := ⟨_, rfl, by decide +kernel⟩
theorem witness_VectorLanes_nan : fpFP32.dec 0x7FC00000 = .nan := by decide +kernel
theorem witness_VectorFunctions : ∃ g, lane1Row (.vex2 vf) = some (vf, 0xA8, g) ∧
    (let x := (vecState 1 []).fir
     (x.vB vf).wrong x.lf = false ∧ (x.vB { vf with sb := 0 }).wrong x.lf = true ∧ (x.vA vf).wrong x.lf = false ∧
     ((x.vA vf).val x.lw 0).isFin = true ∧ (fpFP32.dec 0x7F800000).isFin = false) := ⟨_, rfl, by decide +kernel⟩
theorem witness_VectorFunctions_values : ratOf (.fin true 1 2) = some (-1 / 2) ∧ ratOf (.fin false 4 1) = some ((4 : ℚ) ^ (1 : Int)) ∧
    ratOf (.fin false 4 1) = some ((2 : ℚ) ^ (2 : Int)) ∧ ratOf (.fin false 4 1) = some ((4 : Int) : ℚ) ∧ (-1 / 2 : ℚ) < 0 := by
  norm_num [ratOf]
theorem witness_VectorFunctions_scale : (-1000 : Int) ≤ (5 : BitVec 32).toInt ∧ (5 : BitVec 32).toInt ≤ 1000 := by decide
theorem witness_VectorMoves : ∃ m, moveRow (vecState 1 [(1, 0x0103)]) (.vshf { vf with sb := 5 }) =
    some ({ vf with sb := 5 }, m) ∧ ¬ m.trap ∧ ∃ m', moveRow (vecState 1 [(2, 0x0E03)]) (.vshf { vf with sb := 6 }) =
    some ({ vf with sb := 6 }, m') ∧ m'.trap := by
  refine ⟨_, rfl, ?_, _, rfl, ?_⟩ <;> decide +kernel
theorem witness_VectorMoves_compare :
    let x := (vecState 1 []).fir
    (x.vA { vf with sa := 0 }).wrong x.lf = true ∧ (x.vA vf).wrong x.lf = false ∧ (x.vB vf).wrong x.lf = false := by
  decide +kernel
theorem witness_VectorIntegers : ∃ g r, intRow (.viadd { vf with pd := 2 }) = some ({ vf with pd := 2 }, 0xBD, g, r) ∧
    (let x := (vecState 0 []).fir
     (x.vA vf).wrong x.lf = false ∧ (x.vB vf).wrong x.lf = false ∧ (x.vA { vf with sa := 0 }).wrong x.lf = true) :=
  ⟨_, _, rfl, by decide +kernel⟩
theorem witness_VectorConversions_vcvt :
    let x := (vecState 1 [(0, 0x102), (1, 6)]).fir
    Tag.ofBits ((x.opB { vf with sb := 4 }).extractLsb' 0 3) = .bf16 ∧ (x.vA vf).tag = .fp32 ∧
    (x.opB { vf with sb := 5 }).toNat / 2 ^ 8 % 16 * (512 / Tag.e4m3.lane x.lw) < 512 / (x.vA vf).tag.lane x.lw ∧
    512 / (x.vA vf).tag.lane x.lw ≤ (x.opB { vf with sb := 4 }).toNat / 2 ^ 8 % 16 * (512 / Tag.bf16.lane x.lw) ∧
    (Tag.ofBits ((x.opB { vf with sb := 5 }).extractLsb' 0 3) = .q4 ∨ Tag.ofBits ((x.opB { vf with sb := 5 }).extractLsb' 0 3) = .ps8) := by
  decide +kernel
theorem witness_VectorConversions_others :
    let x := (vecState 1 []).fir
    (Tag.ofBits 3).fp.isSome = true ∧ (x.vB { vf with sb := 0 }).wrong .fp32 = true ∧ (x.vB vf).wrong .fp32 = false ∧
    (x.vA { vf with sa := 0 }).wrong .q4 = true ∧ (x.vA vf).wrong .q4 = false ∧ (x.opB vf).toNat % 8 * x.lnL < 128 ∧
    (x.vB { vf with sb := 0 }).wrong .ps8 = true ∧ (x.vB { vf with sb := 3 }).head = true ∧
    (x.vB { vf with sb := 3 }).wrong .ps8 = false ∧ (x.vB vf).head = false ∧ (x.vB vf).tag ≠ .q4 ∧
    64 * 0 < 512 / (x.vB vf).tag.lane x.lw ∧ 512 / (x.vB vf).tag.lane x.lw ≤ 64 * 1 := by decide +kernel
theorem witness_VectorQuantisation :
    let x := (vecState 3 []).fir
    (x.vA vf).wrong .fp32 = false ∧ (x.vB vf).wrong .fp32 = false ∧ (x.vA { vf with sa := 0 }).wrong .fp32 = true := by
  decide +kernel
theorem witness_VectorQuantisation_block : (∀ e ∈ [Ex.fin false 7 1, .fin true 1 2], e.isFin = true) ∧
    (∃ e ∈ [Ex.fin false 7 1, .nan], e = .nan) := by decide
theorem test_quantise_scale :
    (quantise [.fin false 7 1] (fun n d => clog2 n (7 * d)) (fun _ v => toIntLane { mode := .rne } 4 v) (fun g => if g then 8 else 7)).1 =
      127 := by decide +kernel
theorem witness_VectorReductions :
    let x := (vecState 1 []).fir
    (x.vA { vf with sa := 2 }).head = true ∧ (x.vA { vf with sa := 2 }).tag = .q4 ∧ (x.vA vf).tag = .fp32 ∧
    (x.vB vf).tag ≠ .q4 ∧ (Xacc.read (x.vA vf).v).anchor = (Xacc.read (x.vD vf)).anchor ∧
    (Xacc.read (x.vA vf).v).st = .finite ∧ (Xacc.read (1#512 <<< 128)).anchor ≠ (Xacc.read (x.vD vf)).anchor ∧
    (∀ l, l < 16 → ((x.vA vf).val x.lw l).isFin = true) ∧ (∀ l, l < 16 → (((x.vB vf).val x.lw l).isNan = false)) := by
  decide +kernel

/-! ## Fabric chains, messages, stiles, tasks and traps -/

/-- Chain 2 beside an E tile whose locals name it and its block at 0x200000. -/
def fabChain (x : Chain) (mem : List Host.Cell) : State :=
  { ((fabAt 12 0 [] (locals [(0, 2), (1, 0x200000), (2, 0x200004), (3, 17)])).updPad 0 fun y => { y with chains := [(2, x)] }) with
    mem := tables ++ mem }
theorem witness_FabricChains :
    chainOk (fabChain {} blockCells) 2 true ∧ chainOk (fabChain { st := .idle, next := 5, done := 4, tail := 4 } []) 2 false ∧
    chainRefusal (fabChain {} []) 0 0 17 true = some 0x34 ∧ chainRefusal (fabChain { st := .running } []) 0 0 2 false = none ∧
    chainRefusal (fabChain {} []) 0 0 2 false = some 0x35 ∧
    (let x := (fabChain {} []).fir
     (x.opA { sa := 4 }).toNat % 32 = 2 ∧ segAddr x.tl (x.opB { sb := 5 }) = 0x200000 ∧
     (segAddr x.tl (x.opB { sb := 6 })).toNat % 64 ≠ 0 ∧ 16 < (x.opB { sb := 7 }).toNat % 32) ∧
    canonical 0x200000 = true ∧ ((4 : BitVec 64) + (BitVec.setWidth 64 (17 : BitVec 32))).toNat - (4 : BitVec 64).toNat ≤ 32768 := by
  unfold chainOk; decide +kernel
theorem witness_FabricChains_attach :
    (attach (fabChain {} []) 0 0 2 0x200000).1 = .done ∧ Idn (fabChain {} []) :=
  have h : Idn (fabChain {} []) := by constructor <;> decide +kernel
  ⟨by
    have hr := h.readBytes .read 0x200000 64 (by decide)
    unfold attach
    rcases hR : Machine.readBytes (fabChain {} []) 0 .read 0x200000 64 with ⟨y, s'⟩
    rw [hR] at hr
    dsimp only at hr
    subst hr
    have : BitVec.ofNat 64 (natOfBytes ((((fabChain {} []).rdBytes false 0x200000 64).drop (8 * 0)).take 8)) = 0 := by
      decide +kernel
    dsimp only
    rw [if_pos (by exact this)], h⟩
/-- What attaching chain 2 to the block at an address answers. -/
def attachAt (s : State) (va : BitVec 64) : Nat × Nat :=
  match (attach s 0 0 2 va).1 with
  | .done => (0, 0)
  | .refused d => (1, d)
  | .fault c _ _ => (2, c.toNat)
theorem witness_FabricChains_fault : attachAt (fabChain {} []) 0x40000000 = (2, cXLATE.toNat) ∧ cXLATE ≠ cECC_UE ∧
    canonical 0x40000000 = true ∧ (0x40000000 : BitVec 64).toNat % 64 = 0 := by decide +kernel
/-- A block whose first sequence number is 0 is refused. -/
theorem witness_FabricChains_refused : ∃ d u, attach (fabChain {} [(0x200002, 0x30)]) 0 0 2 0x200000 = (.refused d, u) := by
  have h : Idn (fabChain {} [(0x200002, 0x30)]) := by constructor <;> decide +kernel
  have hr := h.readBytes .read 0x200000 64 (by decide)
  unfold attach
  rcases hR : Machine.readBytes (fabChain {} [(0x200002, 0x30)]) 0 .read 0x200000 64 with ⟨y, s'⟩
  rw [hR] at hr
  dsimp only at hr
  subst hr
  let w := fun (i : Nat) => BitVec.ofNat 64 (natOfBytes ((((fabChain {} [(0x200002, 0x30)]).rdBytes false 0x200000 64).drop (8 * i)).take 8))
  have h0 : w 0 ≠ 0 := by decide +kernel
  have h2 : w 2 = 0 := by decide +kernel
  dsimp only
  rw [if_neg (by exact h0), if_pos (.inl (by exact h2))]
  exact ⟨_, _, rfl⟩
theorem witness_FabricChains_tail :
    let s := fabChain { st := .stopped, next := 5, done := 4, tail := 4 } []
    let f : FabF := { sa := 4, sb := 7 }
    chainOk s 2 false ∧ (s.chain 0 2).st = .stopped ∧ (s.chain 0 2).next.toNat ≤ ((4 : BitVec 64) + (17 : BitVec 32).setWidth 64).toNat ∧
    (s.fir.opB f) = 17 ∧ 32768 < ((4 : BitVec 64) + (0x9000 : BitVec 32).setWidth 64).toNat - (4 : BitVec 64).toNat := by
  unfold chainOk; decide +kernel
/-- Label 3 bound to tile 13, whose message port feeds in0. -/
def msgState (b : BitVec 32) (l : BitVec 9) (ms : List Msg) : State :=
  (fabAt 13 0 [0xA340] { locals [(0, b)] with reqs := [reqOf 0xE3 {} 0 0] }).updPad 0 fun x => { x with msgl := [(3, l)], msgs := ms }
/-- A message of two words from tile 13 to tile 13 that is due. -/
def msg0 : Msg := { label := 3, words := [7, 8], eos := true, src := 13, iter := 0, due := 9, req := 5, dest := 13, rid := none }
theorem witness_Messages :
    deliverTile (msgState 3 0x111 []) 0 (((msgState 3 0x111 []).fir.opB { sb := 4 }).toNat % 128) = some 13 ∧
    deliverTile (msgState 4 0x111 []) 0 (((msgState 4 0x111 []).fir.opB { sb := 4 }).toNat % 128) = none := by decide +kernel
theorem witness_Messages_arrive :
    let s := msgState 3 0x111 [msg0]
    (s.pad 0).msgs[0]? = some msg0 ∧ (s.pad 0).msgs[1]? = none ∧ msg0.due ≤ s.fc 0 ∧ (s.pad 0).msgs.take 0 = [] ∧
    (Tbl.get 0 (s.pad 0).msgl msg0.label.toNat).getLsbD 8 = true ∧ (s.pad 0).regionAt msg0.dest ≠ none ∧
    ((s.tile 0 13).buf 0).used + msg0.words.length ≤ 8 ∧ msg0.req ≠ 0 ∧ ((s.tile 0 13).req 5).isSome = true ∧
    (s.pad 0).portRoutes 13 = [⟨false, 8, 13, 2, false⟩] ∧ routeDest 13 ⟨false, 8, 13, 2, false⟩ = some (13, 0) := by
  decide +kernel
theorem witness_Messages_lost : (Tbl.get 0 ((msgState 3 0 [msg0]).pad 0).msgl msg0.label.toNat).getLsbD 8 = false ∧
    ((msgState 3 0 [msg0]).pad 0).regionAt msg0.dest = some (3, reg3) := by decide +kernel
/-- The port's buffer is full, or an earlier message of the same sender to the same label is under way. -/
theorem witness_Messages_wait :
    let s := (msgState 3 0x111 [msg0]).updTile 0 13 fun x => { x with bufs := [(0, { used := 7 })] }
    let u := msgState 3 0x111 [{ msg0 with due := 11 }, msg0]
    8 < ((s.tile 0 13).buf 0).used + msg0.words.length ∧ ¬ ∀ e ∈ (u.pad 0).msgs.take 1, ¬ (e.src = msg0.src ∧ e.label = msg0.label) := by
  decide +kernel
/-- A channel stile to paddock 0 with a token due in fc 9. -/
def stileState (due : Nat) (wait : Nat) : State :=
  { fabAt 13 0 [0xA200] { stileWait := [(0, wait)] } with
    chStiles := [(1, { sp := 1, st := 13, so := 0, rp := 0, rt := 13, flight := [(due, {})], port := [] })] }
theorem witness_StileTokens :
    Tbl.find? base.chStiles 1 = none ∧ (Tbl.find? (stileState 9 0).chStiles 1).any (fun z => z.rp == 0 && z.flight == [(9, {})]) = true ∧
    9 ≤ (stileState 9 0).fc 0 ∧ (stileState 11 0).fc 0 < 11 ∧
    Tbl.get 0 ((stileState 9 0).tile 0 13).stileWait 0 = 0 ∧
    ((stileState 9 60000).pad 0).stiletmo.toNat ≤ 2 ^ 20 ∧
    ((stileState 9 (2 ^ 20)).pad 0).stiletmo.toNat ≤ Tbl.get 0 ((stileState 9 (2 ^ 20)).tile 0 13).stileWait 0 ∧
    ((stileState 9 (2 ^ 20)).pad 0).regionAt 13 = some (3, reg3) ∧ reg3.trap = none := by decide +kernel
/-- The region of tile 13 is task 5's. -/
def fabTask (t : Task) : State :=
  (fabAt 13 0 [] {}).updPad 0 fun x => { x with regions := [(3, { reg3 with task := some 5 })], tasks := [(5, t)] }
theorem witness_TaskAndTrapFabric :
    (fabTask task5).fir.reg.task = some 5 ∧ ((fabTask task5).task 0 5).contpt ≠ 0 ∧ ((fabTask {}).task 0 5).contpt = 0 ∧
    (fabAt 13 0 [] {}).fir.reg.task = none ∧ ((fabTask task5).pad 0).regionAt 13 = some (3, { reg3 with task := some 5 }) ∧
    ({ reg3 with task := some 5 }).trap = none := by decide +kernel

/-! ## Engines -/

/-- An entry's bytes: OP, NDIM 1, elements of one byte; EXT, source and destination. -/
def entBytes (op : Nat) (flags : Nat) (ext : Nat) (src dst : Nat) : List (BitVec 8) :=
  bytesOfNat 8 (1 + op * 2 ^ 16 + flags * 2 ^ 24 + 2 ^ 32) ++ bytesOfNat 8 src ++ bytesOfNat 8 dst ++ bytesOfNat 2 ext ++
    List.replicate 102 0
/-- The entry in progress of a running chain. -/
def entChain (bs : List (BitVec 8)) : Chain := { st := .running, next := 1, tail := 1, cw := 0x600000, entry := some bs, due := 9, curSeq := 1 }
theorem test_entry_parse : (let e := Ent.parse (entBytes 1 0 1 0x400000 0x500000)
    (e.op, e.stamp, e.nd, e.count, e.clean)) = (1, 1, 1, 1, true) := by decide +kernel
theorem witness_EngineElements :
    let s := chainState (entChain (entBytes 1 0 1 0x400000 0x500000)) [] []
    let e := Ent.parse (entBytes 1 0 1 0x400000 0x500000)
    (Instr.copy 0 2, 1) ∈ engRow 0 2 ∧ chainEnt (s.chain 0 2) = some e ∧ (chainEnt ({} : Chain)).isNone = true ∧ e.op = 1 ∧
    e.op ≠ 2 ∧ (s.chain 0 2).held = [] ∧ (s.chain 0 2).wahead = [] ∧ s.badLine false 0x400000 = false :=
  ⟨by simp [engRow], rfl, rfl, by decide +kernel⟩
/-- The one word of an entry of one small element is its first, in whatever order. -/
theorem orderAt_one (seed : Nat) : orderAt seed 1 0 = 0 := by
  unfold orderAt
  rw [dif_pos (by omega)]
  omega
/-- The next word read of a chain of one small element. -/
theorem reads_first (s : State) (e : Ent) (c : Nat) (hr : e.reads = true) (hu : e.units = 1) (h0 : (s.chain 0 c).elem = 0)
    (ha : (s.chain 0 c).ahead = []) (hl : (s.chain 0 c).rline = none) : ReadsNext s 0 c e 0 := by
  unfold ReadsNext
  simp [hr, hu, h0, ha, hl, orderAt_one]
/-- The next word written of such a chain. -/
theorem writes_first (s : State) (e : Ent) (c : Nat) (hr : e.reads = false ∨ (s.chain 0 c).elem = 1) (hu : e.units = 1)
    (h0 : (s.chain 0 c).wrote = 0) (ha : (s.chain 0 c).wahead = []) (hl : (s.chain 0 c).wline = none) :
    WritesNext s 0 c e 1 0 := by
  unfold WritesNext
  simp [h0, ha, hl, orderAt_one]
  exact hr.imp id fun h => by omega
theorem witness_EngineElements_reads :
    let s := chainState (entChain (entBytes 1 0 1 0x400000 0x500000)) [] []
    let e := Ent.parse (entBytes 1 0 1 0x400000 0x500000)
    ReadsNext s 0 2 e 0 ∧ (elemOffsets (afterChoice s) 0 e 0).1.toOption = some (0, 0) ∧ (0 : Nat) / e.words = 0 :=
  ⟨reads_first _ _ _ (by decide +kernel) (by decide +kernel) rfl rfl rfl, by decide +kernel, by decide +kernel⟩
theorem witness_EngineElements_clean :
    CleanAt (chainState (entChain (entBytes 1 0 1 0x400000 0x500000)) [] []) (Ent.parse (entBytes 1 0 1 0x400000 0x500000)) false 0x400000 := by
  intro d h1 h2 _
  have : d = -3 ∨ d = -2 ∨ d = -1 ∨ d = 0 ∨ d = 1 ∨ d = 2 ∨ d = 3 := by omega
  obtain rfl | rfl | rfl | rfl | rfl | rfl | rfl := this <;> decide +kernel
/-- A COPY of one element that is read and to be written. -/
def heldChain : Chain := { entChain (entBytes 1 0 1 0x400000 0x500000) with elem := 1, held := [{ unit := 0, off := 0, val := 7 }] }
theorem witness_EngineElements_writes :
    let e := Ent.parse (entBytes 1 0 1 0x400000 0x500000)
    WritesNext (chainState heldChain [] []) 0 2 e e.units 0 ∧
    heldChain.held.find? (·.unit == 0) = some { unit := 0, off := 0, val := 7 } := by
  refine ⟨?_, rfl⟩
  rw [show (Ent.parse (entBytes 1 0 1 0x400000 0x500000)).units = 1 by decide +kernel]
  exact writes_first _ _ _ (.inr rfl) (by decide +kernel) rfl rfl rfl
theorem witness_EngineElements_dims : ∀ x ∈ ([(2, { ext := 3, ss := 4, ds := -8 })] : List (Nat × Dim)), x.1 < x.2.ext := by decide
/-- Whether n bytes at an address stand in memory at pa. -/
def memAt (s : State) (va : BitVec 64) (k : AccKind) (pa : Nat) (n : Nat := 8) : Bool :=
  match (place s 0 false va 0 n k).1 with
  | .ok (.mem b h) => b == pa && !h
  | _ => false
/-- The cause that an entry's destination meets. -/
def faultAt (s : State) (e : Ent) : BitVec 8 :=
  match (destPlace s 0 e 0).1 with
  | .error x => x.cause
  | _ => 0
def fillState (dst : Nat) : State := chainState (entChain (entBytes 2 0 1 0x3F800000 dst)) [] []
theorem witness_EngineElements_places :
    let e := fun (dst : Nat) => Ent.parse (entBytes 2 0 1 0x3F800000 dst)
    (e 0x500000).reads = false ∧ memAt (afterChoice (fillState 0x500000)) (e 0x500000).dst .write 0x500000 1 = true ∧
    faultAt (afterChoice (fillState 0x40000000)) (e 0x40000000) = cXLATE ∧
    faultAt (afterChoice (fillState 0x500001)) (Ent.parse (entBytes 9 0 1 0x3F800000 0x500001)) = cMISALIGN ∧
    memAt (afterChoice (chainState (entChain (entBytes 1 0 1 0x400000 0x500000)) [] [])) 0x400000 .read 0x400000 1 = true ∧
    (place (afterChoice (fillState 0)) 0 false 0x40000000 0 1 .read).1.toOption.isNone = true := by decide +kernel
/-- A gather whose index cannot be read, and a line in error. -/
theorem witness_EngineElements_faults :
    let s := chainState (entChain (entBytes 1 0 1 0x400000 0x500000)) [] []
    (elemOffsets (afterChoice s) 0 { Ent.parse (entBytes 4 0 1 0x400000 0x500000) with
        recs := List.replicate 8 { ext := 1, ss := 0, ds := 0 } ++ [{ ext := 0, ss := 0x40000000, ds := 0 }] } 0).1.toOption.isNone = true ∧
    (s.updPad 0 fun x => { x with badLines := [0x400000 / 64] }).badLine false 0x400000 = true := by decide +kernel
theorem witness_EngineElements_fill : WritesNext (fillState 0x500000) 0 2 (Ent.parse (entBytes 2 0 1 0x3F800000 0x500000)) 1 0 :=
  writes_first _ _ _ (.inl (by decide +kernel)) (by decide +kernel) rfl rfl rfl
def waitBytes (v : Nat) : List (BitVec 8) := entBytes 10 0 1 0x400000 v
/-- A WAITSEQ with its low half read. -/
def halfSeq (v : Nat) : Chain := { entChain (waitBytes v) with held := [{ unit := 0, off := 0, val := 7 }] }
theorem witness_WaitSequence :
    let s := chainState (entChain (waitBytes 7)) [] [(0x400000, 7)]
    let e := Ent.parse (waitBytes 7)
    chainEnt (s.chain 0 2) = some e ∧ e.op = 10 ∧ memAt s e.src .read 0x400000 = true ∧ (s.chain 0 2).held = [] ∧
    s.badLine false 0x400000 = false ∧ s.badLine false 0x400004 = false ∧
    (halfSeq 7).held = { unit := 0, off := 0, val := 7 } :: [] ∧ chainEnt (halfSeq 7) = some e ∧
    e.dst.toNat ≤ 7 + 2 ^ 32 * s.rdNat false 0x400004 4 ∧
    7 + 2 ^ 32 * s.rdNat false 0x400004 4 < (Ent.parse (waitBytes 8)).dst.toNat ∧
    (place s 0 (Ent.parse (entBytes 10 0 1 0x400004 7)).spSrc (Ent.parse (entBytes 10 0 1 0x400004 7)).src 0 8 .read).1.toOption.isNone = true :=
  ⟨rfl, by decide +kernel, by decide +kernel, rfl, by decide +kernel, by decide +kernel, rfl, rfl, by decide +kernel⟩
theorem witness_WaitSequence_reread :
    let s := chainState { entChain (waitBytes 7) with st := .waitSeq } [] []
    (s.chain 0 2).st = .waitSeq ∧ (s.chain 0 2).due ≤ s.fc 0 ∧ (s.chain 0 2).entry = some (waitBytes 7) := by decide +kernel
/-- Chain 16 of paddock 0 at an AREDUCE of group 9 whose one member it is. -/
def collBytes (h : Nat) : List (BitVec 8) :=
  (entBytes 6 0 1 0x400000 0x500000).take 0x68 ++ bytesOfNat 2 0 ++ bytesOfNat 4 h ++ List.replicate 18 0
def collState (g : Group) (h : Nat) : State :=
  let s := base.updPad 0 fun y => { y with chains := [(16, entChain (collBytes h))] }
  { s with groups := [(9, g)] }
/-- An AREDUCE of one element, one byte of memory to memory, of group 9 at a rank. -/
def roundBytes (rank : Nat) : List (BitVec 8) :=
  (entBytes 6 0 1 0x400000 0x500000).take 0x68 ++ bytesOfNat 2 0 ++ bytesOfNat 4 9 ++ bytesOfNat 4 rank ++ List.replicate 2 0 ++
    bytesOfNat 1 3 ++ List.replicate 11 0
def roundEnt (rank : Nat) : Ent := Ent.parse (roundBytes rank)
def roundState (x : Chain) (g : Group) : State :=
  { base.updPad 0 fun y => { y with chains := [(16, x)] } with groups := [(9, g)] }
theorem witness_Collectives :
    (Instr.areduce 0 16, 6) ∈ collRow 0 ∧ (roundEnt 0).op = 6 ∧ (roundEnt 0).handle = 9 ∧
    (chainEnt ((collState { n := 1, members := [0] } 9).chain 0 16)).isSome = true ∧ (chainEnt (base.chain 0 16)).isNone = true ∧
    Tbl.find? (collState { n := 1, members := [0] } 8).groups (Ent.parse (collBytes 8)).handle = none ∧
    (0 : Fin 32).val ∉ ([1, 2] : List Nat) := ⟨by simp [collRow], by decide +kernel⟩
/-- A round that can begin, one that waits for another paddock's chain, and one that its member has performed. -/
theorem witness_Collectives_goes :
    let s := roundState (entChain (roundBytes 0)) { n := 1, members := [0] }
    (∀ m ∈ ([0] : List Nat), m < 32 → collEnt s m 9 ≠ none) ∧ chainEnt (s.chain 0 16) = some (roundEnt 0) ∧
    collEnt s 1 9 = none ∧ ([0] : List Nat).idxOf 0 ∈ ({ n := 1, members := [0], begun := true, fin := [0] } : Group).fin ∧
    (s.pad 1).gate ≠ .open_ :=
  ⟨by decide +kernel, rfl, by decide +kernel, by decide +kernel, by decide +kernel⟩
/-- An entry whose rank is not its member's; one that agrees with itself. -/
theorem witness_Collectives_agree :
    let e := roundEnt 0
    collEnt (roundState (entChain (roundBytes 1)) { n := 1, members := [0] }) 0 9 = some (roundEnt 1) ∧
    ((roundEnt 1).dim 8).ds ≠ ((0 : Nat) : Int) ∧ collEnt (roundState (entChain (roundBytes 0)) { n := 1, members := [0] }) 0 9 = some e ∧
    (e.dim 8).ds = ((0 : Nat) : Int) ∧ e.op ≠ 7 ∧ (1 : Nat) = ([0] : List Nat).length ∧ (∀ m ∈ ([0] : List Nat), m < 32) :=
  ⟨rfl, by decide +kernel, rfl, by decide +kernel⟩
theorem witness_Collectives_reads :
    let g : Group := { n := 1, members := [0] }
    let s := roundState (entChain (roundBytes 0)) g
    let e := roundEnt 0
    ReadsNext s 0 16 e 0 ∧ (s.chain 0 16).wahead = [] ∧ (s.chain 0 16).wrote < collTotal g e ∧ g.rest.contrib 0 0 = none ∧
    memAt { afterChoice s with groups := Tbl.set s.groups 9 { g.rest with begun := true } } e.src .read 0x400000 1 = true ∧
    (place (afterChoice s) 0 false 0x40000000 0 1 .read).1.toOption.isNone = true ∧ (dimOffsets e.dims 0).1 = 0 :=
  ⟨reads_first _ _ _ (by decide +kernel) (by decide +kernel) rfl rfl rfl, by decide +kernel⟩
theorem witness_Collectives_clean :
    CleanAt (roundState (entChain (roundBytes 0)) { n := 1, members := [0] }) (roundEnt 0) false 0x400000 := by
  intro d h1 h2 _
  have : d = -3 ∨ d = -2 ∨ d = -1 ∨ d = 0 ∨ d = 1 ∨ d = 2 ∨ d = 3 := by omega
  obtain rfl | rfl | rfl | rfl | rfl | rfl | rfl := this <;> decide +kernel
/-- A round in which every element is contributed. -/
def readyGroup : Group := { n := 1, members := [0], begun := true, vals := [{ rank := 0, unit := 0, val := 0x38 }] }
theorem witness_Collectives_writes :
    let s := roundState { entChain (roundBytes 0) with elem := 1 } readyGroup
    let e := roundEnt 0
    WritesNext s 0 16 e (collTotal readyGroup e) 0 ∧ e.remote = false ∧ collUnit readyGroup e 0 0 = (0, 0) ∧
    (∀ m, m < readyGroup.n → readyGroup.contrib m 0 = some 0x38 ∧ 0x38 < 2 ^ (8 * e.sSize)) ∧
    memAt (afterChoice s) e.dst .write 0x500000 e.dSize = true ∧ 0 ∉ readyGroup.fin ∧ (0 : Fin 32).val ∈ readyGroup.members ∧
    (engVal e.fmt 0x38 = .nan ∨ ∃ q, ratOf (engVal e.fmt 0x38) = some q) := by
  refine ⟨?_, by decide +kernel, by decide +kernel, fun m hm => ?_, by decide +kernel, by decide, by decide, .inr ⟨_, rfl⟩⟩
  · rw [show collTotal readyGroup (roundEnt 0) = 1 by decide +kernel]
    exact writes_first _ _ _ (.inr rfl) (by decide +kernel) rfl rfl rfl
  · obtain rfl : m = 0 := by simpa [readyGroup] using hm
    decide +kernel
theorem witness_Collectives_fault :
    faultAt (afterChoice (roundState (entChain (roundBytes 0)) readyGroup)) { roundEnt 0 with dst := 0x40000000 } = cXLATE := by
  decide +kernel
theorem witness_Collectives_sums : ([Ex.fin false 1 1, .inf true] : List Ex).Perm [.inf true, .fin false 1 1] := by
  exact .swap _ _ _
/-- An entry moved and due. -/
def doneState (flags : Nat) : State :=
  chainState { entChain (entBytes 2 flags 1 0x3F800000 0x500000) with moved := true, announced := [(1, .ctx 0)] } [] []
theorem witness_EntryCompletes :
    (base.chain 0 2).entry.isNone = true ∧
    (let x := (doneState 1).chain 0 2
     x.st = .running ∧ x.moved = true ∧ x.due ≤ (doneState 1).fc 0 ∧ x.remoteSent.isNone = true ∧
       x.entry = some (entBytes 2 1 1 0x3F800000 0x500000) ∧ x.announced = [(1, .ctx 0)]) ∧
    (let e := Ent.parse (entBytes 2 1 1 0x3F800000 0x500000)
     e.remote = false ∧ e.token = false ∧ e.tagen = true) ∧ memAt (doneState 1) ((doneState 1).chain 0 2).cw .write 0x600000 = true ∧
    ((doneState 1).chain 0 2).next.toNat ≤ (1 : BitVec 64).toNat ∧
    (Ent.parse (entBytes 2 0x20 1 0x3F800000 0x500000)).remote = true ∧ (Ent.parse (entBytes 2 0x20 1 0x3F800000 0x500000)).count ≠ 0 ∧
    (Ent.parse (entBytes 1 0x20 0 0x400000 0x500000)).count = 0 := by decide +kernel
theorem witness_EntryCompletes_task :
    ([(1, .task 5 2)] : List (BitVec 64 × Announcer)) = (1, .task 5 2) :: [] ∧ (1 : BitVec 64).toNat ≤ (1 : BitVec 64).toNat := ⟨rfl, by decide⟩
/-- A chain that waits for the stamp of entry 1. -/
def stampState (tries : Nat) : State :=
  chainState { st := .stampWait, cur := 0x400000, next := 1, tail := 1, curSeq := 1, due := 9, tries := tries } []
    [(0x400000, 1), (0x400002, 2), (0x400004, 1), (0x400018, 1)]
theorem witness_ChainRereads :
    let s := stampState 3
    let x := s.chain 0 2
    x.st = .stampWait ∧ x.due ≤ s.fc 0 ∧ x.cur.toNat % 128 = 0 ∧ x.curSeq = x.next ∧ x.got = [] ∧ x.entry = none ∧
    x.next.toNat ≤ x.tail.toNat ∧
    (match (memPlace ((afterChoice s).updChain 0 2 fun x => { x with st := .running }) 0 x.cur 4 .read).1 with
     | .ok (.mem pa h) => pa == 0x400000 && !h
     | _ => false) = true ∧
    s.badLine false 0x400000 = false ∧ s.rdNat false 0x400000 4 % 2 ^ 16 = x.next.toNat % 2 ^ 16 := by decide +kernel
/-- A COPY of one byte, and one that has no elements, as memory holds it at 0x400000. -/
def entCells (ext : Nat) : List Host.Cell :=
  ((entBytes 1 0 ext 0x400000 0x500000).zipIdx.map fun b => (0x400000 + b.2, b.1)).filter (·.2 != 0)
/-- A chain with n of its entry's words read, those other than word u first. -/
def gotState (u n ext : Nat) : State :=
  let words := fun (i : Nat) => BitVec.ofNat 32 (natOfBytes (((entBytes 1 0 ext 0x400000 0x500000).drop (4 * i)).take 4))
  chainState { st := .running, cur := 0x400000, next := 1, tail := 1, curSeq := 1
               got := (((List.range 32).filter (· != u)).map fun i => (i, words i)).take n } [] (entCells ext)
/-- The entry that the last word makes whole. -/
def gotEnt (u ext : Nat) : Ent :=
  let s := gotState u 31 ext
  Ent.parse ((List.range 32).flatMap fun i => bytesOfNat 4 (Tbl.get 0 (Tbl.set (s.chain 0 2).got u
    (BitVec.ofNat 32 (s.rdNat false (0x400000 + 4 * u) 4))) i).toNat)
theorem witness_ChainRereads_fetch : ∀ u, u < 32 → 0 < u →
    let s := gotState u 31 1
    (s.chain 0 2).got.length - 1 = 30 ∧ (s.chain 0 2).got ≠ [] ∧ (s.chain 0 2).curSeq = (s.chain 0 2).next ∧
    (s.chain 0 2).cur.toNat % 128 = 0 ∧ s.badLine false (0x400000 + 4 * u) = false ∧
    (match (memPlace s 0 (0x400000 + BitVec.ofNat 64 (4 * u)) 4 .read).1 with
     | .ok (.mem pa h) => pa == 0x400000 + 4 * u && !h
     | _ => false) = true ∧
    entDetail 2 (gotEnt u 1) = none ∧ (gotEnt u 1).op = 1 ∧ (gotEnt u 1).count = 1 ∧ (gotEnt u 0).count = 0 ∧
    ((gotState u 2 1).chain 0 2).got.length - 1 = 1 ∧ ((gotState u 2 1).chain 0 2).got ≠ [] := by decide +kernel
theorem witness_ChainRereads_next (seed n : Nat) (h : n < 31) : orderAt seed 31 n + 1 < 32 := by
  unfold orderAt
  rw [dif_pos h]
  omega
theorem witness_ChainRereads_stale :
    entDetail 2 (Ent.parse (entBytes 11 0 1 0 0)) = some 0x31 ∧ entDetail 2 (Ent.parse (entBytes 1 0 1 0x400000 0x500000)) = none ∧
    (stampState 3).rdNat false 0x400040 4 % 2 ^ 16 ≠ 1 % 2 ^ 16 ∧
    ((stampState 3).chain 0 2).tries < 64 ∧ 64 ≤ ((stampState 64).chain 0 2).tries ∧ (base.chain 0 2).st ≠ .stampWait := by
  decide +kernel
theorem witness_ChainRereads_retry :
    ((chainState { st := .paused, retry := true } [] []).chain 0 2).st = .paused ∧
    ((chainState { st := .paused, retry := true } [] []).chain 0 2).retry = true := by decide +kernel
theorem witness_RemoteWrites :
    let x : Chain := { entChain (entBytes 1 0x20 1 0x400000 0x500000) with moved := true, remoteSent := some 0, due := 2 ^ 21 }
    let s := (chainState x [] []).updPad 0 fun y => { y with fc := 2 ^ 20 }
    (s.chain 0 2).st = .running ∧ (s.chain 0 2).moved = true ∧ (s.chain 0 2).remoteSent = some 0 ∧
    0 + 2 ^ 20 ≤ (s.chain 0 2).due ∧ 0 + 2 ^ 20 ≤ s.fc 0 ∧ (base.chain 0 2).moved = false := by decide +kernel
theorem witness_RemoteWrites_window :
    let s := { base with linkWins := [{ part := 0, srcMod := 5, srcPart := 1, asid := 0 }] }
    (∀ w ∈ s.linkWins, w.srcMod ≠ 6 ∨ w.srcPart ≠ (1 : Fin 32).val) ∧ canonical 0x500000 = true ∧
    (0x500000 : BitVec 64).toNat % 64 + ([7] : List (BitVec 8)).length ≤ 64 ∧
    (xlWalk s 0 0 0x500000 .write ([7] : List (BitVec 8)).length).1 = .ok 0x500000 false := by decide +kernel

/-! ## Asynchronous traps, errors, spares, scrubbers -/

/-- A context with one report. -/
def reported (w : Wait) (inTrap : Bool) : State :=
  baseC fun c => { c with wait := w, inTrap := inTrap, reports := [{ cause := 0x30, tval := 5, tval2 := 6, src := .journal, fc := 1 }] }
theorem witness_AsyncDelivery :
    ((reported (.poll (seqPack 0x73 {}) 0) false).ctx 0 0).halted = false ∧
    ((reported (.poll (seqPack 0x73 {}) 0) false).ctx 0 0).saved = false ∧
    ((reported (.poll (seqPack 0x73 {}) 0) false).ctx 0 0).inTrap = false ∧
    seqOpc (seqPack 0x73 {}) ≠ 0x96 ∧ seqOpc (seqPack 0x73 {}) ≠ 0x97 ∧
    ((reported .ready false).ctx 0 0).reports = { cause := 0x30, tval := 5, tval2 := 6, src := .journal, fc := 1 } :: [] ∧
    ((reported .ready true).ctx 0 0).inTrap = true ∧ (base.ctx 0 0).reports = [] := by decide +kernel
/-- A report that waits behind the one pending, of the same source. -/
theorem witness_AsyncDelivery_behind :
    let r : Report := { cause := 0x30, tval := 5, tval2 := 6, src := .journal, fc := 1 }
    ((base.updPad 0 fun x => { x with behind := [(1, r)] }).pad 0).behind.find? (fun e => e.2.src == r.src) = some (1, r) ∧
    (∀ e ∈ (base.pad 0).behind, e.2.src ≠ r.src) := by decide +kernel
/-- The report of region 3's trap, its record to be written at 0x300000; LQ1 waits at a CTXS of LQ0. -/
def regionReport (stop : Bool) : State :=
  let s := (fabAt 13 0 [] {}).updCtx 0 0 fun c =>
    { c with trbase := 0x300000, reports := [{ cause := 0x20, tval := 0, tval2 := 3, src := .region 3, fc := 1, rec_ := [1, 2] }] }
  if stop then s.updCtx 0 1 fun c => { c with wait := .poll (seqPack 0xA8 { a := 1 }) 0 } else s
theorem witness_AsyncDelivery_record :
    let c := (regionReport false).ctx 0 0
    (∃ r, c.reports = [r] ∧ r.src = .region 3 ∧ (writeSome (regionReport false) 0 c.trbase r.rec_).1 = none) ∧ c.trbase ≠ 0 ∧
    c.wait = .ready ∧ c.saved = false ∧ c.inTrap = false ∧ c.halted = false :=
  have h : Idn (regionReport false) := by constructor <;> decide +kernel
  ⟨⟨_, rfl, rfl, h.writeSome 0x300000 [1, 2] (by decide) (by decide)⟩, by decide +kernel⟩
theorem witness_AsyncDelivery_stopped :
    let s := regionReport true
    (s.ctx 0 1).wait = .poll (seqPack 0xA8 { a := 1 }) 0 ∧ seqOpc (seqPack 0xA8 { a := 1 }) = 0xA8 ∧
    ((s.ctx 0 1).opA (seqFields (seqPack 0xA8 { a := 1 }))).toNat % 4 = 0 := by decide +kernel
/-- Region 3 with an error met in fc t. -/
def errState (r : Region) : State := (fabAt 13 0 [] {}).updPad 0 fun x => { x with regions := [(3, { r with row0 := 1, col0 := 1 })] }
theorem witness_ErrorRecovery :
    (base.region 0 3).alloc = false ∧ ((errState reg3).region 0 3).alloc = true ∧ reg3.recover = none ∧
    inRect 1 1 1 1 13 = true ∧ reg3.committed = false ∧ reg3.replayed = false ∧
    ((errState { reg3 with committed := true }).pad 0).regionAt 13 = some (3, { reg3 with committed := true, row0 := 1, col0 := 1 }) ∧
    reg3.trap = none ∧ recoverDue (errState reg3) 0 { reg3 with recover := some 9 } = false ∧
    recoverDue (errState { reg3 with recover := some 8 }) 0 ((errState { reg3 with recover := some 8 }).region 0 3) = true ∧
    reg3.act = some 0 := by decide +kernel
/-- The spare of row 0 with a comparison due. -/
def spareCmp (same : Bool) : SpareCmp := { tile := 2, slot := 0, due := 9, same := same, elem := 1, spare := 2 }
def spareState (same : Bool) : State :=
  base.updPad 0 fun x => { x with spares := [(0, { col := 2, cmps := [spareCmp same] })], cycle := 2 ^ 26 }
theorem witness_Spares :
    (let x := (spareState true).pad 0
     let sp : Spare := Tbl.get {} x.spares (0 : Fin 12).val
     sp.since + 2 ^ x.spareq.toNat ≤ x.cycle.toNat ∧ sp.cmps = spareCmp true :: [] ∧ (spareCmp true).due ≤ x.fc ∧
       ((spareState true).tile 0 (tileAt 0 ((sp.col + 1 + 0) % 12))).retired = false) ∧
    (spareCmp false).same = false ∧ ¬ (0 + 2 ^ (base.pad 0).spareq.toNat ≤ (base.pad 0).cycle.toNat) := by decide +kernel
/-- Every element of row 0 retired. -/
theorem witness_Spares_none_left :
    let s := base.updPad 0 fun x => { x with tiles := (List.range 12).map fun k => (k, { retired := true }) }
    ∀ d, d < 12 → (s.tile 0 (tileAt 0 ((0 + 1 + d) % 12))).retired = true := by decide +kernel
/-- The spare of row 1 at tile 13. -/
theorem witness_Spares_shadow :
    let s := (fabAt 13 0 [] {}).updPad 0 fun x => { x with spares := [(1, { col := 1 })] }
    (fabOpc 0).toNat < 0x20 ∧ (Tbl.get ({} : Spare) (s.pad s.fir.p).spares (tileRow s.fir.t)).col = tileCol s.fir.t ∧
    s.fir.tl.retired = false ∧ (s.tile s.fir.p s.fir.t).stopped = false ∧ (fabOpc (fabPack 0x60 {})).toNat = 0x60 := by decide +kernel
theorem witness_ErrorRecovery_ends :
    let s := errState { reg3 with recover := some 8 }
    let x := s.region 0 3
    x.alloc = true ∧ x.recover = some 8 ∧ x.trap = none ∧ 8 + 2 ≤ s.fc 0 ∧ workSettled s 0 x = true ∧ x.committed = false ∧
    x.act = some 0 ∧ workSettled (errState { reg3 with recover := some 8 } |>.updTile 0 13 fun tl =>
      { tl with reqs := [{ reqOf 0x60 {} 0 0 with st := .going, due := 99 }] }) 0 x = false := by decide +kernel
/-- A scrub visit of word 9 of the second scratchpad. -/
theorem witness_ErrorControl_scratchpad :
    let n := memLines + 65536 + 9
    let s := base.updPad 0 fun x => { x with scrubAt := n, tiles := [(18, { sp := { soft := [9] } })] }
    n < scrubLines ∧ memLines ≤ n ∧ tileAt ((n - memLines) / 65536) 6 = 18 ∧ (n - memLines) % 65536 ∈ (s.spad 0 18).soft ∧
    (s.pad 0).scrubAt = n ∧ n + 1 < scrubLines ∧ ¬ scrubLines - 1 + 1 < scrubLines := by decide +kernel
theorem witness_ErrorControl : (3 : Nat) < memLines ∧
    3 + (0 : Fin 32).val * memLines ∈ ((base.updPad 0 fun x => { x with softLines := [3] }).pad 0).softLines ∧
    ((base.updPad 0 fun x => { x with scrubAt := 3 }).pad 0).scrubAt = 3 := by decide +kernel
theorem witness_ResetEnds :
    (base.pad 0).resetDue = none ∧ ((base.updPad 0 fun x => { x with resetDue := some (0, true) }).pad 0).resetDue = some (0, true) ∧
    0 ≤ base.now ∧ base.now < 5 := by decide +kernel

/-! ## The host and the start -/

/-- A launch record at 0x200000: one level, one type, entry 0x1000, budgets 100. -/
def launchCells : List Host.Cell := [(0x200000, 1), (0x200002, 1), (0x200019, 0x10), (0x200020, 100), (0x200028, 100)]
def startState (sub : BitVec 57) (halted : Bool) (mem : List Host.Cell) : State :=
  { (baseC fun c => { c with halted := halted, subAddr := sub.setWidth _ }) with mem := tables ++ mem }
theorem witness_StartDoorbell :
    pageCtx base (pageOf 0 0 0) = some (0, 0) ∧ (base.pad 0).up = true ∧ (base.pad 0).gate ≠ .resetting ∧
    (base.ctx 0 0).halted = false ∧ (base.ctx 0 0).wasHalted = false ∧ ((startState 0x200004 true []).ctx 0 0).halted = true ∧
    (((startState 0x200004 true []).ctx 0 0).subAddr.setWidth 57).signExtend 64 = (0x200004 : BitVec 64) ∧
    (0x200004 : BitVec 64).toNat % 64 ≠ 0 ∧ ((baseP fun x => { x with up := false }).pad 0).up = false := by
  decide +kernel
/-- VF 1 of partition 0, enabled by the host, whose second page is LQ1 of paddock 0. -/
theorem witness_StartDoorbell_vf :
    let s := { base with vfs := 1 }
    s.boot.power = true ∧ s.vfs.getLsbD (0 : Fin 32) = true ∧ (s.part 0).exists_ = true ∧ (s.part 0).mask.getLsbD 0 = true ∧
    ((List.range 0).filter fun k => (s.part 0).mask.getLsbD k).length = (0 : Fin 32) ∧
    pageCtx s (pageOf 1 0 1) = some (0, 1) ∧ pageCtx base (pageOf 1 0 1) = none := by decide +kernel
theorem witness_StartDoorbell_record :
    let s := startState 0x200000 true launchCells
    let w := (wakeCtx s 0 0).updPad 0 fun x => { x with gatedF3 := false }
    (readBytes w 0 .read 0x200000 128).1 = .ok (s.rdBytes false 0x200000 128) ∧
    ((s.ctx 0 0).subAddr.setWidth 57).signExtend 64 = (0x200000 : BitVec 64) ∧
    ((LaunchRec.parse (s.rdBytes false 0x200000 128)).map fun r => (r.entry, r.ibud, r.jobj)) = some (0x1000, 100, 0) ∧
    (LaunchRec.parse ((startState 0x200000 true []).rdBytes false 0x200000 128)).isNone = true :=
  have h : Idn ((wakeCtx (startState 0x200000 true launchCells) 0 0).updPad 0 fun x => { x with gatedF3 := false }) := by
    constructor <;> decide +kernel
  ⟨(h.readBytes .read 0x200000 128 (by decide)).trans (by rfl), by decide +kernel, by decide +kernel, by decide +kernel⟩
theorem witness_HostWrites_pages :
    let s := { base with vfs := 1 }
    let g : CtxPage := ⟨1, 0⟩
    pageCtx s g = some ((0 : Fin 32).val, (0 : Fin 4).val) ∧ g.fn.val ≠ 0 ∧ pageCtx base ⟨0, 0⟩ = some ((0 : Fin 32).val, (0 : Fin 4).val) ∧
    ((baseP fun x => { x with gate := .resetting }).pad 0).gate = .resetting := by decide +kernel
theorem witness_HostWrites_doorbell :
    let b := fun (n : Nat) => (Tbl.get 0 ({ base with box := { words := [(0, BitVec.ofNat 64 n)] } } : State).box.words 0).toNat % 256
    b 9 = 9 ∧ b 0 = 0 ∧ 14 < b 15 := by decide +kernel
theorem witness_HostWrites : base.boot.power = true ∧ (base.ctx 0 0).halted = false ∧ 2 ^ 62 ≤ (2 ^ 62 : BitVec 64).toNat ∧
    (7 : BitVec 64).toNat < 2 ^ 62 := by decide +kernel
theorem witness_HostWrites_invalidation :
    let s := baseP fun x => { x with tlb := [{ asid := 0, base := 0x1000, size := 4096, leaf := 0x20BF }] }
    ({ asid := 0, base := 0x1000, size := 4096, leaf := 0x20BF } : TlbEnt) ∈ (s.pad 0).tlb ∧ (0x20BF : BitVec 64).getLsbD 7 = true := by
  decide +kernel
/-- The management window: 1 MiB of host memory at 0. -/
def boxed (mem : List Host.Cell) : State := { base with box := { mwsize := 0x100000 }, host := mem }
theorem witness_SpaceCommands :
    Up base ∧ (base.part 0).exists_ = true ∧ (base.part 7).exists_ = false ∧ (15 : BitVec 64).toNat ≤ 15 ∧
    inWindow (boxed []) 0x1000 16 = true ∧ inWindow base 0x1000 16 = false := ⟨⟨rfl, rfl, rfl⟩, by decide +kernel⟩
theorem witness_ControlCommands : (2 : BitVec 64).toNat = (2 : Fin 32).val ∧ (base.pad 0).up = true ∧
    ((baseC fun c => { c with halted := true }).ctx 0 0).halted = true ∧ 1200 ≤ (1200 : BitVec 64).toNat ∧
    (2200 : BitVec 64).toNat ≤ 2200 ∧ 2200 < (2201 : BitVec 64).toNat ∧ inWindow base 0 64 = false := by decide +kernel
theorem witness_ControlCommands_resetting :
    ((baseP fun x => { x with gate := .resetting, ctxs := halts }).pad 0).gate = .resetting ∧
    ((baseP fun x => { x with gate := .resetting, ctxs := halts }).ctx 0 0).halted = true := by decide +kernel
theorem witness_SpaceCommands_range : 32 ≤ (32 : BitVec 64).toNat ∧ (31 : BitVec 64).toNat < 32 ∧ 15 < (16 : BitVec 64).toNat := by decide
theorem witness_ControlCommands_ring :
    let s := boxed [(0x2001, 0x10)]
    4 ≤ (4 : Nat) ∧ inWindow s 0x2000 64 = true ∧ inWindow s (s.rdNat true 0x2000 8) (32 * 2 ^ 4) = true := by decide +kernel
theorem witness_ControlCommands_propose :
    let s := { boxed [(0x3008, 1)] with parts := [(0, { exists_ := true, mask := 1, bound := true, jr := jr0 })] }
    (base.jr 0).area = none ∧ (s.jr 0).area.isSome = true ∧
    parseRequest (s.rdBytes true 0x3000 64) = some (0, 1, [0, 0, 0, 0]) ∧
    (match (propose (boxWords s 8 {}) 0 0 1 [0, 0, 0, 0] 3).1 with
     | .done q => q == 3
     | _ => false) = true := ⟨rfl, rfl, by decide +kernel, by rfl⟩
theorem witness_TrustCommands : base.boot.stage ≠ 0 ∧ inWindow (boxed []) 0x1000 32 = true ∧ inWindow (boxed []) 0x2000 0x4000 = true ∧
    inWindow base 0x1000 32 = false := by decide +kernel
theorem witness_CommandGates :
    let s := { base with boot := { base.boot with stage := 0 } }
    let t := { base with nv := { base.nv with safe := true } }
    let u := { base with boot := { base.boot with stage := 1 } }
    s.boot.stage = 0 ∧ t.boot.stage ≠ 0 ∧ t.nv.safe = true ∧ u.boot.stage.toNat < 3 ∧ u.nv.safe = false := by decide +kernel
theorem witness_PowerAndReset :
    let late := { State.reset with now := 2 ^ 60 }
    base.boot.power = true ∧ ({ base with boot := { power := false } } : State).boot.power = false ∧ overdue base = false ∧
    overdue late = true := by decide +kernel
/-- A start whose stage n runs. -/
def stage (n : BitVec 2) (pdown : BitVec 32) (safe : Bool) : State :=
  { State.reset with boot := { running := n, pdown := pdown }, nv := { safe := safe } }
theorem witness_StageEnds :
    (stage 1 0 true).boot.power = true ∧ overdue (stage 1 0 true) = false ∧ overdue (stage 2 0 false) = false ∧
    overdue (stage 3 1 false) = false ∧ (stage 3 1 false).boot.pdown ||| 2 ≠ BitVec.allOnes 32 ∧
    (stage 2 0 false).boot.pdown ||| BitVec.allOnes 32 = BitVec.allOnes 32 ∧
    ((stage 3 1 false).boot.pdown ||| 2).getLsbD 1 = true ∧ ((stage 3 1 false).boot.pdown ||| 2).getLsbD 2 = false := by decide +kernel
/-- Spine 1 and channel 250 failed, or every spine, or every channel. -/
theorem witness_StageEnds_faults :
    let f : StageFaults := ⟨2, 1#256 <<< 250, 0⟩
    f.spines ≠ BitVec.allOnes 4 ∧ f.channels ≠ BitVec.allOnes 256 ∧ f.spines.getLsbD (8 / 8) = true ∧ f.spines.getLsbD (16 / 8) = false ∧
    f.channels.getLsbD (8 * 31 + 2) = true ∧ (⟨15, 0, 0⟩ : StageFaults).spines = BitVec.allOnes 4 ∧
    (stage 1 0 false).boot.running = 1 ∧ (stage 1 0 false).nv.safe = false ∧ overdue (stage 1 0 false) = false := by decide +kernel
theorem witness_LinksAndFunctions_ok : 1 ≤ (7 : BitVec 8).toNat ∧ (7 : BitVec 8).toNat ≤ 7 ∧ (16 : BitVec 8).toNat ∈ [1, 2, 4, 8, 16] ∧
    ¬ (8 : BitVec 8).toNat ≤ 7 ∧ (3 : BitVec 8).toNat ∉ [1, 2, 4, 8, 16] := by decide
theorem witness_LinksAndFunctions :
    (Tbl.get {} ({ base with links := [(0, { up := true })] }).links 0 : HostLink).up = true ∧
    (3 : BitVec 8) ∉ (Tbl.get {} ({ base with links := [(0, { up := true })] }).links 0 : HostLink).ide ∧
    (Tbl.get {} base.links 0 : HostLink).up = false ∧ (base.part 3).exists_ = false ∧ (base.part 0).exists_ = true := by decide +kernel

/-! ## Decoding, fetching and steps -/

theorem witness_DecodeAndEncodeAgree : (Instr.ld { d := 1, w := 3 }).wf = true ∧ (encode (.ld { d := 1, w := 3 })).isSome = true ∧
    (decode 0x56A0428200000010).isSome = true := by decide +kernel
theorem witness_StepRunsTheDecodedWord_issue :
    let s := { base with agenda := [.issue 0 0], mem := tables ++ [(0x200007, 0x40), (0x20000C, 1)] }
    let u := { s with agenda := [], cur := { s.cur with p := 0, q := 0 } }
    let v := u.updCtx 0 0 fun c => { c with pc := 0x200000 }
    0 < (v.ctx 0 0).ibud.toInt ∧ 0 < (v.ctx 0 0).tbud.toInt ∧ (checkAddr v 0 0x200000 8 .exec).1 = .ok 0x200000 false ∧
    (checkAddr v 0 0x40000000 8 .exec).1 = .fault cXLATE ∧ v.badLine false 0x200000 = false ∧
    decode 0x4000000000000000 = some (.seqNop {}) ∧ wordKind 0x4000000000000000 = 1 ∧ decode 0 = some (.fabNop { v := false }) ∧ wordKind 0 ≠ 1 := by
  decide +kernel
theorem witness_StepRunsTheDecodedWord_trap :
    ((baseC fun c => { c with tbud := 0 }).ctx 0 0).inTrap = false ∧ ((baseC fun c => { c with tbud := 0 }).ctx 0 0).tbud.toInt ≤ 0 ∧
    ((baseC fun c => { c with tbud := 0, inTrap := true }).ctx 0 0).inTrap = true ∧
    ((baseP fun x => { x with badLines := [0x8000] }).badLine false 0x200000) = true := by decide +kernel
theorem witness_StepRunsTheDecodedWord_fire :
    let s := (State.reset.withFetchWord 64 0x2010C04000136061)
    s.agenda = [.fire 0 1 0] ∧ strayFire { s with agenda := [], cur := { p := 0, q := 0, t := 1, slot := 0 } } = false ∧
    (decode (slotWord s 0 1 0)).isSome = true ∧ wordKind (slotWord s 0 1 0) = 0 := by decide +kernel
theorem witness_IssueSlot :
    let s := { base with agenda := [.phase 10 0] }
    (∀ q : Fin 4, 0 < (Tbl.get 1 (s.pad 0).lqw q.val).toNat) ∧ (∃ q : Fin 4, (s.pad 0).isReady q = true) ∧
    (∀ q : Fin 4, ((baseP fun x => { x with ctxs := halts }).pad 0).isReady q = false) := by decide +kernel
theorem witness_MemoryStaysCanonical : base.memWf = true ∧ ∃ t, step { base with agenda := [.phase 10 0] } = .next t :=
  ⟨by decide, _, rfl⟩
theorem witness_EveryInstructionAnswers : step { State.reset with boot := { power := false }, inputs := [] } = .fault .poweredOff := rfl

end Sys2Proof.Tests
end

/-! ## Every step keeps both memories canonical (R3, R150)

The model writes a memory through `Tbl.put` alone (`State.wrByte`, a paddock reset that loses what L2 had not written
back) and drops entries at a reset, all of which keep the canonical form; every other operation leaves both memories as
they are. One lemma per operation, named `<operation>_memWf`, in the order of the model, says so; its proof follows the
operation's own branches and cites the lemmas of what it calls. `exec_memWf` gathers the instructions and events. -/

section

namespace Sys2Proof.Machine

section Answers

variable {s t : State}

/-! ### What the canonical form says of a state, an outcome and an answer -/

theorem memWf_iff : s.memWf ↔ Memory.wf s.mem ∧ Memory.wf s.host := by simp [State.memWf]

/-- The state an outcome goes on with, if any, has canonical memories. -/
def OutWf : Out → Prop
  | .next t => t.memWf
  | _ => True

/-- The state an attempt answers, if it answers one, has canonical memories. -/
def OptWf : Option State → Prop
  | some t => t.memWf
  | none => True

/-- The state an operation that may be refused answers, if it is not, has canonical memories. -/
def ExcWf {ε : Type*} : Except ε State → Prop
  | .ok t => t.memWf
  | .error _ => True

/-- An update of any fields but the two memories leaves them canonical. -/
theorem memWf_update {pads dram parts roots groups linkWins chStiles mStiles links vfs ats box nv boot plim lowered now
    waiting agenda cur free inputs} (h : s.memWf) :
    ({ s with pads, dram, parts, roots, groups, linkWins, chStiles, mStiles, links, vfs, ats, box, nv, boot, plim,
              lowered, now, waiting, agenda, cur, free, inputs } : State).memWf := h

/-! ### Choices between two results -/

section Choice

variable {α β ε : Type*} {c : Prop} [Decidable c]

theorem memWf_ite (h : s.memWf) (g : t.memWf) : (if c then s else t).memWf := by
  split
  · exact h
  · exact g

theorem sndWf_ite {x y : α × State} (h : x.2.memWf) (g : y.2.memWf) : (if c then x else y).2.memWf := by
  split
  · exact h
  · exact g

theorem thdWf_ite {x y : α × β × State} (h : x.2.2.memWf) (g : y.2.2.memWf) : (if c then x else y).2.2.memWf := by
  split
  · exact h
  · exact g

theorem outWf_ite {x y : Out} (h : OutWf x) (g : OutWf y) : OutWf (if c then x else y) := by
  split
  · exact h
  · exact g

theorem optWf_ite {x y : Option State} (h : OptWf x) (g : OptWf y) : OptWf (if c then x else y) := by
  split
  · exact h
  · exact g

theorem excWf_ite {x y : Except ε State} (h : ExcWf x) (g : ExcWf y) : ExcWf (if c then x else y) := by
  split
  · exact h
  · exact g

end Choice

/-! ### Loops over a list -/

theorem foldl_memWf {α : Type*} {f : State → α → State} {l : List α} (hf : ∀ s a, s.memWf → (f s a).memWf)
    (h : s.memWf) : (l.foldl f s).memWf := by
  induction l generalizing s with
  | nil => exact h
  | cons a l ih => exact ih (hf s a h)

theorem foldl_sndWf {α β : Type*} {f : β × State → α → β × State} {l : List α} {x : β × State}
    (hf : ∀ x a, x.2.memWf → (f x a).2.memWf) (h : x.2.memWf) : (l.foldl f x).2.memWf := by
  induction l generalizing x with
  | nil => exact h
  | cons a l ih => exact ih (hf x a h)

/-! ### The state taken out of an answer -/

theorem memWf_pair {α : Type*} {a : α} (h : t.memWf) : ((a, t) : α × State).2.memWf := h

theorem memWf_of_eq {α : Type*} {x : α × State} {a : α} (e : x = (a, t)) (h : x.2.memWf) : t.memWf := by
  rw [e] at h
  exact h

theorem memWf_of_next {o : Out} (e : o = .next t) (h : OutWf o) : t.memWf := by
  rw [e] at h
  exact h

theorem memWf_of_some {o : Option State} (e : o = some t) (h : OptWf o) : t.memWf := by
  rw [e] at h
  exact h

theorem memWf_of_ok {ε : Type*} {x : Except ε State} (e : x = .ok t) (h : ExcWf x) : t.memWf := by
  rw [e] at h
  exact h

theorem optWf_map {α : Type*} {o : Option α} {f : α → State} (hf : ∀ a, (f a).memWf) : OptWf (o.map f) := by
  cases o with
  | none => trivial
  | some a => exact hf a

/-! ### The two ways a memory changes apart from a write of bytes: an entry put back, entries dropped -/

theorem memWf_put {a : Nat} {v : BitVec 8} (h : s.memWf) : ({ s with mem := Tbl.put 0 s.mem a v } : State).memWf := by
  obtain ⟨hm, hh⟩ := memWf_iff.1 h
  exact memWf_iff.2 ⟨Tbl.put_wf hm, hh⟩

theorem Tbl.sortedFrom_filter {α : Type} {f : Nat × α → Bool} {k : Nat} {l : Tbl α} (h : Tbl.sortedFrom k l) :
    Tbl.sortedFrom k (l.filter f) := by
  induction l generalizing k with
  | nil => exact h
  | cons e l ih =>
    simp only [Tbl.sortedFrom, Bool.and_eq_true, decide_eq_true_eq] at h
    obtain ⟨hk, hl⟩ := h
    rw [List.filter_cons]
    split
    · simp [Tbl.sortedFrom, hk, ih hl]
    · exact Tbl.sortedFrom_mono (by omega) (ih hl)

theorem Memory.wf_filter {l : List Host.Cell} {f : Host.Cell → Bool} (h : Memory.wf l) : Memory.wf (l.filter f) := by
  obtain ⟨hs, hz⟩ := Tbl.wf_iff.1 h
  exact Tbl.wf_iff.2 ⟨Tbl.sortedFrom_filter hs, fun e he => hz e (List.mem_of_mem_filter he)⟩

end Answers

variable {s : State} {p q t n : Nat} {va : BitVec 64}

/-! ### Operations on the state and the memories -/

theorem State.setPad_memWf {x : Paddock} (h : s.memWf) : (s.setPad p x).memWf := memWf_update h

theorem State.updPad_memWf {f : Paddock → Paddock} (h : s.memWf) : (s.updPad p f).memWf := State.setPad_memWf h

theorem State.setCtx_memWf {c : Ctx} (h : s.memWf) : (s.setCtx p q c).memWf := State.setPad_memWf h

theorem State.setTile_memWf {v : Tile} (h : s.memWf) : (s.setTile p t v).memWf := State.setPad_memWf h

theorem State.setRegion_memWf {r : Nat} {v : Region} (h : s.memWf) : (s.setRegion p r v).memWf := State.setPad_memWf h

theorem State.setTask_memWf {k : Nat} {v : Task} (h : s.memWf) : (s.setTask p k v).memWf := State.setPad_memWf h

theorem State.setChain_memWf {c : Nat} {v : Chain} (h : s.memWf) : (s.setChain p c v).memWf := State.setPad_memWf h

theorem State.updCtx_memWf {f : Ctx → Ctx} (h : s.memWf) : (s.updCtx p q f).memWf := State.setCtx_memWf h

theorem State.updTile_memWf {f : Tile → Tile} (h : s.memWf) : (s.updTile p t f).memWf := State.setTile_memWf h

theorem State.updRegion_memWf {r : Nat} {f : Region → Region} (h : s.memWf) : (s.updRegion p r f).memWf :=
  State.setRegion_memWf h

theorem State.updTask_memWf {k : Nat} {f : Task → Task} (h : s.memWf) : (s.updTask p k f).memWf :=
  State.setTask_memWf h

theorem State.updChain_memWf {c : Nat} {f : Chain → Chain} (h : s.memWf) : (s.updChain p c f).memWf :=
  State.setChain_memWf h

theorem State.setCurCtx_memWf {c : Ctx} (h : s.memWf) : (s.setCurCtx c).memWf := State.setCtx_memWf h

theorem State.updPart_memWf {f : Partition → Partition} (h : s.memWf) : (s.updPart n f).memWf := memWf_update h

theorem freeDelay_memWf {lo : Nat} (h : s.memWf) : (freeDelay s lo).2.memWf := memWf_update h

theorem freePart_memWf (h : s.memWf) : (freePart s n).2.memWf := sndWf_ite h (memWf_update h)

theorem freeChoice_memWf (h : s.memWf) : (freeChoice s).2.memWf := memWf_update h

theorem freeWord_memWf (h : s.memWf) : (freeWord s).2.memWf := memWf_update h

theorem changeFreq_memWf {f : Paddock → Paddock} (h : s.memWf) : (changeFreq s p f).memWf := by
  unfold changeFreq
  dsimp only
  exact memWf_ite (State.setPad_memWf h) (State.setPad_memWf (freeDelay_memWf h))

theorem State.fixLine_memWf {host : Bool} {a : Nat} (h : s.memWf) : (s.fixLine host a).memWf :=
  memWf_ite (State.updPad_memWf h) h

theorem State.fixLines_memWf {l : List Nat} (h : s.memWf) : (s.fixLines l).memWf :=
  foldl_memWf (fun _ _ h1 => State.fixLine_memWf h1) h

theorem State.fixWalk_memWf {asid : BitVec 16} (h : s.memWf) : (s.fixWalk asid va).memWf := by
  unfold State.fixWalk
  split
  · exact h
  · exact State.fixLines_memWf h

theorem translate_memWf {tile : Option Nat} {k : AccKind} (h : s.memWf) : (translate s p tile va k n).2.memWf := by
  unfold translate
  dsimp only
  split
  · exact h
  split
  · exact sndWf_ite (freeChoice_memWf h) (State.fixWalk_memWf (freeChoice_memWf h))
  split
  · exact State.fixWalk_memWf h
  split
  · exact State.updPad_memWf (State.fixWalk_memWf h)
  · exact State.updTile_memWf (State.updPad_memWf (State.fixWalk_memWf h))

theorem checkAddr_memWf {bytes : Nat} {k : AccKind} (h : s.memWf) : (checkAddr s p va bytes k).2.memWf :=
  sndWf_ite h (sndWf_ite h (translate_memWf h))

theorem invalidate_memWf {hit : TlbEnt → Bool} (h : s.memWf) : (invalidate s hit).memWf := memWf_update h

theorem readVA_memWf {k : AccKind} {fuel : Nat} (h : s.memWf) : (readVA s p k fuel va n).2.memWf := by
  induction fuel generalizing s va n with
  | zero => exact h
  | succ fuel ih =>
    rw [readVA]
    dsimp only
    split
    · exact h
    split
    · exact h
    split
    · rename_i e
      exact memWf_of_eq e (translate_memWf h)
    rename_i e
    have h3 := memWf_of_eq e (translate_memWf h)
    split
    · exact h3
    split
    all_goals
      rename_i e
      exact memWf_of_eq e (ih (State.fixLine_memWf h3))

theorem writeVA_memWf {fuel : Nat} {bs : List (BitVec 8)} (h : s.memWf) : (writeVA s p fuel va bs).2.memWf := by
  induction fuel generalizing s va bs with
  | zero => exact h
  | succ fuel ih =>
    rw [writeVA]
    dsimp only
    split
    · exact h
    split
    · exact h
    split
    · rename_i e
      exact memWf_of_eq e (translate_memWf h)
    · rename_i e
      exact ih (State.wrBytes_memWf _ _ _ _ (memWf_of_eq e (translate_memWf h)))

theorem placeVA_memWf {fuel : Nat} (h : s.memWf) : (placeVA s p fuel va n).2.memWf := by
  induction fuel generalizing s va n with
  | zero => exact h
  | succ fuel ih =>
    rw [placeVA]
    dsimp only
    split
    · exact h
    split
    · exact h
    split
    · rename_i e
      exact memWf_of_eq e (translate_memWf h)
    rename_i e
    have h3 := memWf_of_eq e (translate_memWf h)
    split
    all_goals
      rename_i e
      exact memWf_of_eq e (ih h3)

theorem State.wrPieces_memWf {l : List (Nat × Bool × Nat)} {bs : List (BitVec 8)} (h : s.memWf) :
    (s.wrPieces l bs).memWf := by
  induction l generalizing s bs with
  | nil => exact h
  | cons e l ih => exact ih (State.wrBytes_memWf _ _ _ _ h)

theorem readBytes_memWf {k : AccKind} (h : s.memWf) : (readBytes s p k va n).2.memWf := readVA_memWf h

theorem writeBytes_memWf {bs : List (BitVec 8)} (h : s.memWf) : (writeBytes s p va bs).2.memWf := by
  unfold writeBytes
  split
  · rename_i e
    exact memWf_of_eq e (placeVA_memWf h)
  · rename_i e
    exact State.wrPieces_memWf (memWf_of_eq e (placeVA_memWf h))

theorem writeSome_memWf {bs : List (BitVec 8)} (h : s.memWf) : (writeSome s p va bs).2.memWf := writeVA_memWf h

theorem wakeCtx_memWf (h : s.memWf) : (wakeCtx s p q).memWf := by
  unfold wakeCtx
  dsimp only
  split
  · exact State.setCtx_memWf (freeDelay_memWf h)
  · exact State.setCtx_memWf h

theorem setTag_memWf (h : s.memWf) : (setTag s p q n).memWf :=
  memWf_ite (wakeCtx_memWf (State.setCtx_memWf h)) (State.setCtx_memWf h)

theorem pendReport_memWf {r : Report} (h : s.memWf) : (pendReport s p q r).memWf := by
  unfold pendReport
  dsimp only
  split
  · exact memWf_ite (State.updCtx_memWf h) (State.updCtx_memWf (freeDelay_memWf (State.updCtx_memWf h)))
  · exact State.updCtx_memWf h

theorem reportWith_memWf {cause : BitVec 8} {tval tval2 : BitVec 64} {src : Source} {rec : List (BitVec 8)}
    (h : s.memWf) :
    (reportWith s p q cause tval tval2 src rec).memWf := memWf_ite (State.updPad_memWf h) (pendReport_memWf h)

theorem nextReport_memWf {src : Source} (h : s.memWf) : (nextReport s p src).memWf := by
  unfold nextReport
  split
  · exact h
  · exact pendReport_memWf (State.updPad_memWf h)

theorem report_memWf {cause : BitVec 8} {tval tval2 : BitVec 64} {src : Source} (h : s.memWf) :
    (report s p q cause tval tval2 src).memWf := reportWith_memWf h

theorem ringPush_memWf {host : Bool} {desc log2n size : Nat} {rec : List (BitVec 8)} (h : s.memWf) :
    (ringPush s host desc log2n rec size).2.memWf := by
  unfold ringPush
  extract_lets base prod cons
  split
  · exact State.wrNat_memWf _ _ _ _ _ h
  · exact State.wrNat_memWf _ _ _ _ _ (State.wrBytes_memWf _ _ _ _ h)

theorem haltCtx_memWf {code : BitVec 8} (h : s.memWf) : (haltCtx s p q code).memWf := by
  unfold haltCtx
  dsimp only
  split
  · exact State.setCtx_memWf h
  · exact memWf_ite (ringPush_memWf (State.setCtx_memWf h)) (State.setCtx_memWf h)

theorem takeTrap_memWf {epc : BitVec 64} {cause : BitVec 8} {tval tval2 : Option (BitVec 64)} (h : s.memWf) :
    (takeTrap s p q epc cause tval tval2).memWf := by
  unfold takeTrap
  split
  rename_i v1 s1 e
  have h1 : s1.memWf := by
    refine memWf_of_eq e ?_
    split
    · exact h
    · exact freeWord_memWf h
  split
  rename_i v2 s2 e
  have h2 : s2.memWf := by
    refine memWf_of_eq e ?_
    split
    · exact h1
    · exact freeWord_memWf h1
  extract_lets c s3
  have h3 : s3.memWf := State.setCtx_memWf h2
  exact memWf_ite (haltCtx_memWf h3) h3

theorem precise_memWf {cause : BitVec 8} {tval tval2 : Option (BitVec 64)} (h : s.memWf) :
    (precise s cause tval tval2).memWf := takeTrap_memWf h

theorem refuse_memWf {a : BitVec 64} {detail : Nat} (h : s.memWf) : (refuse s a detail).memWf := precise_memWf h

theorem addrTrap_memWf {cause : BitVec 8} {k : AccKind} (h : s.memWf) : (addrTrap s cause va k).memWf :=
  precise_memWf h

theorem returnTrap_memWf (h : s.memWf) : (returnTrap s p q).memWf :=
  memWf_ite (takeTrap_memWf (State.setCtx_memWf h)) (State.setCtx_memWf h)

theorem issueWith_memWf {f : SeqF} {perm : Ctx → Bool} {body : State → Out} (h : s.memWf) (hb : OutWf (body s)) :
    OutWf (issueWith f perm s body) := by
  unfold issueWith
  exact outWf_ite (precise_memWf h) (outWf_ite hb (State.setCurCtx_memWf h))

/-! ### A sequencer's memory accesses -/

theorem memIssue_memWf {opc : BitVec 8} {f : SeqF} (h : s.memWf) : OutWf (memIssue opc f s) :=
  issueWith_memWf h (by
    dsimp only
    split
    · rename_i e
      exact addrTrap_memWf (memWf_of_eq e (checkAddr_memWf h))
    · rename_i e
      exact State.setCurCtx_memWf (freeDelay_memWf (memWf_of_eq e (checkAddr_memWf h))))

theorem memWait_memWf {opc : BitVec 8} {f : SeqF} (h : s.memWf) : OutWf (memWait opc f s va) := by
  unfold memWait
  dsimp only
  exact issueWith_memWf h (State.setCurCtx_memWf (freeDelay_memWf h))

theorem uncharge_memWf (h : s.memWf) : (uncharge s p q).memWf := State.updCtx_memWf h

theorem halfFirst_memWf {opc : Nat} (h : s.memWf) : (halfFirst s opc n).2.memWf :=
  sndWf_ite (sndWf_ite (freeChoice_memWf (freeChoice_memWf h)) (freeChoice_memWf h)) h

theorem awaitHalf_memWf {opc pa got : Nat} {f : SeqF} {host high : Bool} (h : s.memWf) :
    (awaitHalf s p q opc f va pa host high got).memWf := by
  unfold awaitHalf
  dsimp only
  exact State.updCtx_memWf (freeDelay_memWf h)

theorem memAccess_memWf {opc : Nat} {f : SeqF} (h : s.memWf) : (memAccess s p q opc f va).memWf := by
  unfold memAccess
  dsimp only
  split
  · rename_i e
    exact addrTrap_memWf (uncharge_memWf (memWf_of_eq e (translate_memWf (memWf_update h))))
  rename_i e
  have h1 := memWf_of_eq e (translate_memWf (memWf_update h))
  split
  · split
    · rename_i e
      exact awaitHalf_memWf (State.wrNat_memWf _ _ _ _ _ (memWf_of_eq e (halfFirst_memWf h1)))
    · rename_i e
      exact State.setCtx_memWf (State.wrNat_memWf _ _ _ _ _ (memWf_of_eq e (halfFirst_memWf h1)))
  split
  · exact precise_memWf (uncharge_memWf h1)
  split
  · exact State.setCtx_memWf (State.wrNat_memWf _ _ _ _ _ (State.fixLine_memWf h1))
  split
  · rename_i e
    exact awaitHalf_memWf (memWf_of_eq e (halfFirst_memWf (State.fixLine_memWf h1)))
  · rename_i e
    exact State.setCtx_memWf (memWf_of_eq e (halfFirst_memWf (State.fixLine_memWf h1)))

theorem memTimeout_memWf (h : s.memWf) : (memTimeout s p q va).memWf :=
  precise_memWf (uncharge_memWf (memWf_update h))

theorem memHalf_memWf {word : BitVec 64} {pa got : Nat} {host high : Bool} (h : s.memWf) :
    (memHalf s p q word va pa host high got).memWf :=
  memWf_ite (State.setCtx_memWf (State.wrNat_memWf _ _ _ _ _ (memWf_update h))) (memWf_ite (memTimeout_memWf
    (memWf_update h)) (by
    split
    · rename_i e
      exact addrTrap_memWf (uncharge_memWf (memWf_of_eq e (translate_memWf (memWf_update h))))
    · rename_i e
      have h1 := memWf_of_eq e (translate_memWf (memWf_update h))
      exact memWf_ite (precise_memWf (uncharge_memWf h1)) (State.setCtx_memWf (State.fixLine_memWf h1))))

theorem prefDone_memWf (h : s.memWf) : (prefDone s p q va).memWf :=
  State.setCtx_memWf (freeChoice_memWf (sndWf_ite (by
    split
    all_goals
      rename_i e
      exact memWf_of_eq e (translate_memWf h)) h))

theorem memComplete_memWf {word : BitVec 64} (h : s.memWf) : (memComplete s p q word va).memWf :=
  memWf_ite (State.setCtx_memWf h) (memWf_ite (prefDone_memWf h) (memAccess_memWf h))

/-! ### Chains and messages -/

theorem attach_memWf {c : Nat} (h : s.memWf) : (attach s p q c va).2.memWf := by
  unfold attach
  dsimp only
  split
  · rename_i e
    exact memWf_of_eq e (readBytes_memWf h)
  rename_i e
  have h1 := memWf_of_eq e (readBytes_memWf h)
  split
  · exact State.updChain_memWf h1
  split
  · exact h1
  split
  · rename_i e
    exact memWf_of_eq e (writeBytes_memWf h1)
  · rename_i e
    exact State.setChain_memWf (memWf_of_eq e (writeBytes_memWf h1))

theorem announce_memWf {c : Nat} {tail : BitVec 64} {who : Announcer} (h : s.memWf) :
    ExcWf (announce s p c tail who) := by
  unfold announce
  exact excWf_ite trivial (State.setChain_memWf h)

theorem postMsg_memWf {m : Msg} (h : s.memWf) : (postMsg s p m).memWf := State.updPad_memWf h

/-! ### Tokens, firings and fabric traps -/

theorem State.updBuf_memWf {f : Buf → Buf} (h : s.memWf) : (s.updBuf p t n f).memWf := State.updTile_memWf h

theorem onDests_memWf {c : Cfg} {f : Route → Buf → Buf} {g : ChanStile → ChanStile} (h : s.memWf) :
    (onDests s p t c n f g).memWf :=
  foldl_memWf (fun _ _ h1 => memWf_update h1) (foldl_memWf (fun _ _ h1 => by
    split
    · exact h1
    · exact State.updBuf_memWf h1) h)

theorem reserveOut_memWf {c : Cfg} (h : s.memWf) : (reserveOut s p t c n).memWf := onDests_memWf h

theorem releaseOut_memWf {c : Cfg} (h : s.memWf) : (releaseOut s p t c n).memWf := onDests_memWf h

theorem commitEpoch_memWf {r : Nat} (h : s.memWf) : (commitEpoch s p r).memWf := memWf_ite (State.setRegion_memWf h) h

theorem commitStile_memWf (h : s.memWf) : (commitStile s p t n).memWf := by
  unfold commitStile
  split
  · exact commitEpoch_memWf h
  · exact h

theorem placeOut_memWf {c : Cfg} {held : Bool} {skip : BitVec 6} {k : Tok} (h : s.memWf) :
    (placeOut s p t c n held skip k).memWf := onDests_memWf (commitStile_memWf h)

theorem emitOut_memWf {held : Bool} {k : Tok} (h : s.memWf) : (emitOut s p t n held k).memWf :=
  memWf_ite (memWf_ite (memWf_ite (releaseOut_memWf (State.setTile_memWf h)) (State.setTile_memWf h)) (placeOut_memWf
    (State.setTile_memWf h))) (placeOut_memWf (State.setTile_memWf h))

theorem sendOut_memWf {k : Tok} (h : s.memWf) : (sendOut s p t n k).memWf :=
  memWf_ite (State.updTile_memWf (reserveOut_memWf h)) (emitOut_memWf h)

theorem drainGo_memWf {l : List Deferred} {blk : BitVec 4} (h : s.memWf) : (drainGo p t l blk s).2.memWf := by
  induction l generalizing s blk with
  | nil => exact h
  | cons e l ih =>
    rw [drainGo]
    exact ih (by
      split
      · exact foldl_memWf (fun _ _ h1 => emitOut_memWf h1) h
      · exact h)

theorem drainOut_memWf (h : s.memWf) : (drainOut s p t).memWf := by
  unfold drainOut
  exact State.updTile_memWf (drainGo_memWf h)

theorem giveToks_memWf {id : Nat} {ks : List Tok} (h : s.memWf) : (giveToks s p t id ks).memWf :=
  drainOut_memWf (State.updTile_memWf h)

theorem emitPaced_memWf (h : s.memWf) : (emitPaced s p t).2.memWf := by
  unfold emitPaced
  dsimp only
  split
  · exact h
  split
  · exact h
  · exact drainOut_memWf (by
      split
      · exact foldl_memWf (fun _ _ h1 => emitOut_memWf h1) (State.setTile_memWf h)
      · exact State.setTile_memWf h)

theorem deqIn_memWf (h : s.memWf) : (deqIn s p t n).2.memWf := by
  unfold deqIn
  dsimp only
  split
  · exact h
  · exact sndWf_ite (State.setTile_memWf h) (State.setTile_memWf h)

theorem deqMask_memWf {dq : BitVec 4} (h : s.memWf) : (deqMask s p t dq).2.memWf :=
  foldl_sndWf (fun _ _ h1 => deqIn_memWf h1) h

theorem chargeRegion_memWf {r ib tb : Nat} (h : s.memWf) : (chargeRegion s p r ib tb).memWf :=
  memWf_ite (State.setRegion_memWf h) h

theorem markBusy_memWf {r : Nat} (h : s.memWf) : (markBusy s p r).memWf := memWf_ite (State.setRegion_memWf h) h

theorem applyEffect_memWf {f : FabF} {e : Effect} (h : s.memWf) : (applyEffect f e s).memWf := by
  unfold applyEffect
  extract_lets x tl1 tl2 s1 s2
  have h2 : s2.memWf := foldl_memWf (fun _ _ h1 => sendOut_memWf h1) (State.setTile_memWf h)
  clear_value s2
  split
  rename_i e
  have h3 := memWf_of_eq e (sndWf_ite (deqMask_memWf h2) h2)
  exact markBusy_memWf (chargeRegion_memWf (memWf_ite h3 (State.updPad_memWf h3)))

theorem fabricTrap_memWf {slot : Nat} {word info0 info1 : BitVec 64} {fired : Bool} {cause : BitVec 8}
    {detail : BitVec 16} (h : s.memWf) :
    (fabricTrap s p t slot word fired cause detail info0 info1).memWf := by
  unfold fabricTrap
  dsimp only
  split
  · exact h
  · exact State.setRegion_memWf (State.setTile_memWf h)

theorem regionTrap_memWf {cause : BitVec 8} {info0 : BitVec 64} (h : s.memWf) :
    (regionTrap s p t cause info0).memWf := fabricTrap_memWf h

theorem trapBefore_memWf {opc cause : BitVec 8} {f : FabF} {detail : BitVec 16} {info0 : BitVec 64} (h : s.memWf) :
    (trapBefore s opc f cause detail info0).memWf := fabricTrap_memWf h

theorem elementTrap_memWf {opc : BitVec 8} {f : FabF} (h : s.memWf) : (elementTrap s opc f).memWf :=
  trapBefore_memWf h

theorem setRegionTag_memWf {rid : Nat} (h : s.memWf) : (setRegionTag s p rid n).memWf := setTag_memWf h

/-! ### Element arithmetic -/

theorem arith_memWf {f : FabF} {fn : Fir → BitVec 32 → BitVec 32 → ResFlag} (h : s.memWf) :
    OutWf (arith f s fn) :=
  applyEffect_memWf h

/-! ### Readiness of a slot -/

theorem strayTrap_memWf (h : s.memWf) : (strayTrap s).memWf := fabricTrap_memWf h

/-! ### Operations on a region -/

theorem dropOut_memWf {which : Deferred → Bool} (h : s.memWf) : (dropOut s p t which).memWf := by
  unfold dropOut
  exact State.updTile_memWf (foldl_memWf (fun _ _ h1 => foldl_memWf (fun _ _ h2 => releaseOut_memWf h2) h1) h)

theorem cancelTile_memWf (h : s.memWf) : (cancelTile s p t).2.memWf := State.setTile_memWf (dropOut_memWf h)

theorem discardAll_memWf {rid : Nat} {pends : Bool} (h : s.memWf) : (discardAll s p rid pends).memWf := by
  unfold discardAll
  extract_lets r
  split
  rename_i s1 e
  have h1 : s1.memWf := by
    refine memWf_of_eq e (foldl_sndWf (fun _ _ h1 => ?_) h)
    split
    rename_i e
    exact memWf_of_eq e (cancelTile_memWf h1)
  split
  rename_i e
  exact State.updRegion_memWf (memWf_of_eq e (foldl_sndWf (fun _ _ h1 => State.setTile_memWf h1) h1))

theorem dropReplay_memWf {r : Region} (h : s.memWf) : (dropReplay s p r).memWf :=
  foldl_memWf (fun _ _ h1 => State.updTile_memWf h1) h

theorem activateRegion_memWf {rid : Nat} {slot : BitVec 2} {full : Bool} (h : s.memWf) :
    (activateRegion s p rid slot full).memWf := by
  unfold activateRegion
  exact State.updRegion_memWf (foldl_memWf (fun _ _ h1 => State.setTile_memWf h1) (dropReplay_memWf h))

theorem flushOut_memWf {o : Nat} (h : s.memWf) : (flushOut s p t o).memWf :=
  memWf_ite (placeOut_memWf (State.setTile_memWf h)) h

theorem flushAll_memWf {rid : Nat} (h : s.memWf) : (flushAll s p rid).memWf :=
  foldl_memWf (fun _ _ h1 => foldl_memWf (fun _ _ h2 => flushOut_memWf h2) h1) h

theorem storeImage_memWf {row0 col0 y5 w slot : Nat} {img : List (BitVec 64)} (h : s.memWf) :
    (storeImage s p row0 col0 y5 w slot img).memWf := foldl_memWf (fun _ _ h1 => State.updTile_memWf h1) h

theorem readImage_memWf {row0 col0 y5 w : Nat} {fold : Option (BitVec 2)} (h : s.memWf) :
    (readImage s p row0 col0 y5 w fold va).2.memWf :=
  sndWf_ite h (sndWf_ite h (by
    dsimp only
    split
    · rename_i e
      exact memWf_of_eq e (readBytes_memWf h)
    rename_i e
    have h1 := memWf_of_eq e (readBytes_memWf h)
    split <;> exact h1))

theorem lateCharges_memWf {rid : Nat} (h : s.memWf) : (lateCharges s p rid).memWf := State.updPad_memWf h

theorem dropMessages_memWf {lost : Msg → Bool} (h : s.memWf) : (dropMessages s p lost).memWf :=
  foldl_memWf (fun _ _ h1 => State.updTile_memWf (by
    split
    · exact State.updRegion_memWf h1
    · exact h1)) (State.setPad_memWf h)

theorem freeTiles_memWf {ts : List Nat} {by_ : Option (Nat × BitVec 14)} (h : s.memWf) :
    (freeTiles s p ts by_).memWf := foldl_memWf (fun _ _ h1 => State.updTile_memWf (dropOut_memWf h1)) h

theorem orphan_memWf {rid : Nat} {r : Region} (h : s.memWf) : (orphan s p rid r).memWf := State.updPad_memWf h

theorem freeRegion_memWf {rid : Nat} {by_ : Option (Nat × BitVec 14)} (h : s.memWf) :
    (freeRegion s p rid by_).memWf := by
  unfold freeRegion
  exact State.updPad_memWf (orphan_memWf (dropMessages_memWf (freeTiles_memWf (lateCharges_memWf h))))

theorem markSaved_memWf {rid : Nat} (h : s.memWf) : (markSaved s p rid).memWf := by
  unfold markSaved
  exact State.updRegion_memWf (foldl_memWf (fun _ _ h1 => State.updTile_memWf h1) h)

theorem readRecs_memWf {r : Region} {fuel : Nat} {acc : List SaveRec} (h : s.memWf) :
    (readRecs s p r fuel n va acc).2.memWf := by
  induction fuel generalizing s n va acc with
  | zero => cases n <;> exact h
  | succ fuel ih =>
    cases n with
    | zero => exact h
    | succ n =>
      rw [readRecs]
      dsimp only
      split
      · rename_i e
        exact memWf_of_eq e (readBytes_memWf h)
      rename_i e
      have h1 := memWf_of_eq e (readBytes_memWf h)
      split
      · rename_i e
        exact memWf_of_eq e (readBytes_memWf h1)
      · rename_i e
        have h2 := memWf_of_eq e (readBytes_memWf h1)
        exact sndWf_ite (ih h2) h2

theorem restoreRegion_memWf {rid : Nat} (h : s.memWf) : (restoreRegion s p rid va).2.memWf := by
  unfold restoreRegion
  dsimp only
  split
  · rename_i e
    exact memWf_of_eq e (readBytes_memWf h)
  rename_i e
  have h1 := memWf_of_eq e (readBytes_memWf h)
  split
  · exact h1
  split
  · rename_i e
    exact memWf_of_eq e (readRecs_memWf h1)
  · rename_i e
    have h3 := memWf_of_eq e (readRecs_memWf h1)
    exact sndWf_ite h3 (dropReplay_memWf (State.updRegion_memWf (foldl_memWf (fun _ _ h3 => foldl_memWf (fun _ _ h4 =>
      foldl_memWf (fun _ _ h5 => State.updBuf_memWf h5) h4) h3) (foldl_memWf (fun _ _ h3 => State.updTile_memWf h3)
      h3))))

/-! ### Admission and placement -/

theorem traceNext_memWf (h : s.memWf) : (traceNext s p).2.memWf := by
  unfold traceNext
  dsimp only
  split
  all_goals
    rename_i e
    exact memWf_of_eq e (readBytes_memWf h)

theorem State.updTrace_memWf {f : Trace → Trace} (h : s.memWf) : (s.updTrace p f).memWf := State.updPad_memWf h

theorem endBinding_memWf {div : Bool} (h : s.memWf) : (endBinding s p div).memWf :=
  State.updPad_memWf (State.updTrace_memWf h)

theorem dispatchEvent_memWf {kind rid ttype row0 col0 ord : Nat} (h : s.memWf) :
    (dispatchEvent s p kind q rid ttype row0 col0 ord).memWf :=
  memWf_ite (memWf_ite h (by
    dsimp only
    split
    all_goals
      rename_i e
      exact State.updTrace_memWf (memWf_of_eq e (writeBytes_memWf h)))) (memWf_ite (by
    split
    · rename_i e
      exact endBinding_memWf (memWf_of_eq e (traceNext_memWf h))
    · rename_i e
      have h1 := memWf_of_eq e (traceNext_memWf h)
      exact memWf_ite (memWf_ite (memWf_ite (endBinding_memWf (State.updPad_memWf (State.updTrace_memWf h1)))
        (State.updPad_memWf (State.updTrace_memWf h1))) (endBinding_memWf h1)) h1) h)

theorem pickBound_memWf (h : s.memWf) : (pickBound s p).2.memWf := by
  unfold pickBound
  dsimp only
  split
  · rename_i e
    exact memWf_of_eq e (traceNext_memWf h)
  rename_i e
  have h1 := memWf_of_eq e (traceNext_memWf h)
  split
  · exact h1
  · exact sndWf_ite h1 (sndWf_ite h1 h1)

theorem pickBid_memWf (h : s.memWf) : (pickBid s p).2.memWf := sndWf_ite h (sndWf_ite (pickBound_memWf h) h)

theorem addBid_memWf {b : Bid} (h : s.memWf) : (addBid s p b).memWf := State.updPad_memWf h

theorem dropBids_memWf {kind : BidKind} (h : s.memWf) : (dropBids s p kind).memWf := State.updPad_memWf h

theorem withdrawBids_memWf (h : s.memWf) : (withdrawBids s p q).memWf := State.updPad_memWf h

theorem takeBid_memWf (h : s.memWf) : (takeBid s p n).memWf := State.updPad_memWf h

theorem newRegion_memWf {id row0 col0 : Nat} {b : Bid} {task : Option Nat} {seed : BitVec 64} {clear : Bool}
    (h : s.memWf) :
    (newRegion s p id b row0 col0 task seed clear).memWf :=
  State.setRegion_memWf (foldl_memWf (fun _ _ h1 => State.updTile_memWf h1) h)

theorem clearL1_memWf (h : s.memWf) : (clearL1 s p).memWf := State.updPad_memWf h

theorem fuse_memWf {k : Nat} {on : Bool} (h : s.memWf) : (fuse s p k on).memWf :=
  memWf_ite (clearL1_memWf (State.updPad_memWf h)) (State.updPad_memWf h)

theorem payLate_memWf {e : Announcer × Charge} (h : s.memWf) : (payLate s p e).memWf := by
  unfold payLate
  split
  · exact State.updCtx_memWf h
  · exact memWf_ite (State.updTask_memWf h) h
  · exact h

theorem payLates_memWf {now : Announcer × Charge → Bool} (h : s.memWf) : (payLates s p now).memWf :=
  foldl_memWf (fun _ _ h1 => payLate_memWf h1) (State.updPad_memWf h)

theorem returnBudget_memWf {k : Nat} (h : s.memWf) : (returnBudget s p k).memWf :=
  State.setTask_memWf (State.updCtx_memWf h)

theorem taskAdmitFault_memWf {k id : Nat} {cause : BitVec 8} {tval tval2 : BitVec 64} (h : s.memWf) :
    (taskAdmitFault s p k id cause tval tval2).memWf :=
  report_memWf (fuse_memWf (State.updTask_memWf (returnBudget_memWf (payLates_memWf (freeRegion_memWf h)))))

theorem taskBid_memWf {k : Nat} (h : s.memWf) : (taskBid s p k).memWf := addBid_memWf h

/-! ### Region instructions, bids and token hops -/

theorem finish_memWf {ib tb : Nat} {upd : Ctx → Ctx} (h : s.memWf) : (finish s p q ib tb upd).memWf :=
  State.setCtx_memWf h

theorem finishCur_memWf {ib tb : Nat} {upd : Ctx → Ctx} (h : s.memWf) : (finishCur s ib tb upd).memWf :=
  finish_memWf h

theorem State.unissue_memWf (h : s.memWf) : (s.unissue p q).memWf := by
  unfold State.unissue
  split
  · exact State.updCtx_memWf h
  · exact h

theorem State.reissue_memWf (h : s.memWf) : (s.reissue p q).memWf := by
  unfold State.reissue
  split
  · exact State.updCtx_memWf h
  · exact h

theorem retry_memWf {r : State → Option State} (h : s.memWf) (hr : ∀ s, s.memWf → OptWf (r s)) :
    (retry s p q r).memWf := by
  unfold retry
  split
  · rename_i e
    exact State.reissue_memWf (memWf_of_some e (hr _ (State.unissue_memWf h)))
  · exact h

theorem pollFor_memWf {opc : BitVec 8} {f : SeqF} {stage : Nat} (h : s.memWf) : (pollFor s opc f stage).memWf :=
  State.reissue_memWf (State.setCurCtx_memWf h)

theorem tryOrPoll_memWf {r : Option State} {opc : BitVec 8} {f : SeqF} {stage : Nat} (h : s.memWf) (hr : OptWf r) :
    (tryOrPoll s r opc f stage).memWf := by
  cases r with
  | none => exact pollFor_memWf h
  | some t => exact State.reissue_memWf hr

theorem regionIns_memWf {f : SeqF} {body : Nat → Region → State → State} (h : s.memWf)
    (hb : ∀ id r, (body id r s).memWf) : OutWf (regionIns f s body) := by
  unfold regionIns
  exact issueWith_memWf h (memWf_ite (refuse_memWf h) (hb _ _))

theorem refuseA_memWf {f : SeqF} {detail : Nat} (h : s.memWf) : (refuseA s f detail).memWf := refuse_memWf h

theorem execRgna_memWf {f : SeqF} (h : s.memWf) : OutWf (execRgna f s) :=
  issueWith_memWf h (by
    split
    · exact refuseA_memWf h
    · exact addBid_memWf (pollFor_memWf h))

theorem tryRgna_memWf {f : SeqF} (h : s.memWf) : OptWf (tryRgna s p q f) :=
  optWf_ite (finish_memWf (withdrawBids_memWf h)) trivial

theorem imgTrap_memWf {e : ImgFault} (h : s.memWf) : (imgTrap s e).memWf := by
  unfold imgTrap
  split
  · exact addrTrap_memWf h
  · exact precise_memWf h

theorem makeResident_memWf {rid slot : Nat} {img : List (BitVec 64)} (h : s.memWf) :
    (makeResident s p rid slot va img).memWf := by
  unfold makeResident
  exact State.updRegion_memWf (storeImage_memWf h)

theorem execCfgl_memWf {f : SeqF} (h : s.memWf) : OutWf (execCfgl f s) :=
  regionIns_memWf h (fun _ _ => memWf_ite (refuseA_memWf h) (memWf_ite (refuseA_memWf h) (by
    split
    · rename_i e
      exact imgTrap_memWf (memWf_of_eq e (readImage_memWf h))
    · rename_i e
      exact finishCur_memWf (makeResident_memWf (memWf_of_eq e (readImage_memWf h))))))

theorem execCfga_memWf {f : SeqF} (h : s.memWf) : OutWf (execCfga f s) :=
  regionIns_memWf h (fun _ _ => memWf_ite (refuseA_memWf h) (by
    split
    · exact memWf_ite (refuseA_memWf h) (pollFor_memWf h)
    · exact memWf_ite (refuseA_memWf h) (memWf_ite (refuseA_memWf h) (memWf_ite (memWf_ite (refuseA_memWf h)
        (pollFor_memWf h)) (memWf_ite (refuseA_memWf h) (pollFor_memWf (State.updRegion_memWf h)))))))

theorem cancelRegion_memWf {rid : Nat} (h : s.memWf) : (cancelRegion s p rid).memWf := by
  unfold cancelRegion
  extract_lets r
  split
  rename_i e
  refine State.updRegion_memWf (memWf_of_eq e (foldl_sndWf (fun _ _ h1 => ?_) h))
  split
  rename_i e
  exact memWf_of_eq e (cancelTile_memWf h1)

theorem tryCfga_memWf {f : SeqF} {stage : Nat} (h : s.memWf) : OptWf (tryCfga s p q f stage) :=
  optWf_ite (optWf_ite (finish_memWf h) trivial) (optWf_ite (optWf_ite (finish_memWf (activateRegion_memWf h))
    trivial) (optWf_ite (optWf_ite (finish_memWf (activateRegion_memWf (discardAll_memWf h))) (memWf_ite (finish_memWf
    (activateRegion_memWf (flushAll_memWf (cancelRegion_memWf h)))) (flushAll_memWf (cancelRegion_memWf h))))
    trivial))

theorem execCfgaActivate_memWf {p : Fin 32} {q : Fin 4} (h : s.memWf) : OutWf (execCfgaActivate p q s) := by
  unfold execCfgaActivate
  split
  · exact retry_memWf h (fun _ h1 => tryCfga_memWf h1)
  · exact h

theorem execRgnf_memWf {f : SeqF} (h : s.memWf) : OutWf (execRgnf f s) :=
  regionIns_memWf h (fun _ _ => memWf_ite (refuseA_memWf h) (memWf_ite (refuseA_memWf h) (pollFor_memWf (memWf_ite
    (State.updRegion_memWf h) h))))

theorem tryRgnf_memWf {f : SeqF} (h : s.memWf) : OptWf (tryRgnf s p q f) :=
  optWf_ite (optWf_ite (finish_memWf (freeRegion_memWf (discardAll_memWf h))) trivial) (optWf_ite (finish_memWf
    (freeRegion_memWf h)) trivial)

theorem execRgnfFree_memWf {p : Fin 32} {q : Fin 4} (h : s.memWf) : OutWf (execRgnfFree p q s) := by
  unfold execRgnfFree
  split
  · exact retry_memWf h (fun _ h1 => tryRgnf_memWf h1)
  · exact h

theorem armSplice_memWf {rid : Nat} {sp : Splice} (h : s.memWf) : (armSplice s p rid sp).memWf := by
  unfold armSplice
  exact State.updRegion_memWf (foldl_memWf (fun _ _ h1 => State.updTile_memWf h1) h)

theorem execSplc_memWf {f : SeqF} (h : s.memWf) : OutWf (execSplc f s) :=
  regionIns_memWf h (fun _ _ => memWf_ite (refuseA_memWf h) (by
    split
    · exact refuseA_memWf h
    split
    · exact refuseA_memWf h
    split
    · exact memWf_ite (refuseA_memWf h) (finishCur_memWf (armSplice_memWf h))
    · exact refuseA_memWf h))

theorem swapTile_memWf {rid : Nat} {sp : Splice} (h : s.memWf) : (swapTile s p rid t sp).memWf := by
  unfold swapTile
  extract_lets c s1 s2 s3 r s4 s5
  have h3 : s3.memWf := State.updRegion_memWf (dropReplay_memWf (State.updTile_memWf h))
  have h5 : s5.memWf := State.updRegion_memWf (foldl_memWf (fun _ _ h1 => State.updTile_memWf h1) h3)
  refine memWf_ite ?_ h3
  split
  · exact setTag_memWf h5
  · exact h5

theorem execSpliceSwap_memWf {p : Fin 32} {t : Fin 144} (h : s.memWf) : OutWf (execSpliceSwap p t s) := by
  unfold execSpliceSwap
  split
  · exact h
  split
  · exact h
  · exact memWf_ite (swapTile_memWf h) h

theorem tryDecb_memWf {f : SeqF} (h : s.memWf) : OptWf (tryDecb s p q f) :=
  optWf_ite trivial (finish_memWf (State.updRegion_memWf h))

theorem execDecb_memWf {f : SeqF} (h : s.memWf) : OutWf (execDecb f s) :=
  regionIns_memWf h (fun _ _ => memWf_ite (refuseA_memWf h) (tryOrPoll_memWf h (tryDecb_memWf h)))

theorem execDecisionSwitch_memWf {p : Fin 32} {r : Fin 16} (h : s.memWf) : OutWf (execDecisionSwitch p r s) := by
  unfold execDecisionSwitch
  split
  · exact markBusy_memWf (activateRegion_memWf h)
  · exact h

theorem execSkipFlushEmit_memWf {p : Fin 32} {t : Fin 144} {o : Fin 4} (h : s.memWf) :
    OutWf (execSkipFlushEmit p t o s) :=
  outWf_ite (by
    split
    · exact markBusy_memWf (flushOut_memWf (memWf_ite (State.updRegion_memWf h) h))
    · exact h) h

theorem foldRegion_memWf {rid hk fac : Nat} {img : List (BitVec 64)} (h : s.memWf) :
    (foldRegion s p rid hk fac va img).memWf := by
  unfold foldRegion
  extract_lets r gone
  split
  rename_i s1 e
  have h1 : s1.memWf := by
    refine memWf_of_eq e (foldl_sndWf (fun _ _ h1 => ?_) h)
    split
    rename_i e
    exact memWf_of_eq e (cancelTile_memWf h1)
  exact dispatchEvent_memWf (State.updPad_memWf (makeResident_memWf (State.updRegion_memWf (freeTiles_memWf h1))))

theorem execRfold_memWf {f : SeqF} (h : s.memWf) : OutWf (execRfold f s) :=
  regionIns_memWf h (fun _ _ => by
    dsimp only
    split
    · exact refuseA_memWf h
    split
    · exact refuseA_memWf h
    split
    · rename_i e
      exact imgTrap_memWf (memWf_of_eq e (readImage_memWf h))
    · rename_i e
      exact finishCur_memWf (foldRegion_memWf (memWf_of_eq e (readImage_memWf h))))

theorem execRfoldUnfold_memWf {f : SeqF} (h : s.memWf) : OutWf (execRfoldUnfold f s) :=
  regionIns_memWf h (fun _ _ => by
    split
    · exact refuseA_memWf h
    · exact addBid_memWf (pollFor_memWf h))

theorem unfoldRegion_memWf {rid : Nat} (h : s.memWf) : (unfoldRegion s p rid).memWf := by
  unfold unfoldRegion
  dsimp only
  split
  · exact memWf_update h
  split
  · rename_i e
    exact imgTrap_memWf (memWf_of_eq e (readImage_memWf (State.unissue_memWf (memWf_update h))))
  · rename_i e
    have h2 := memWf_of_eq e (readImage_memWf (State.unissue_memWf (memWf_update h)))
    exact finish_memWf (makeResident_memWf (State.updRegion_memWf (foldl_memWf (fun _ _ h2 => State.updTile_memWf h2)
      h2)))

theorem execQwait_memWf {f : SeqF} (h : s.memWf) : OutWf (execQwait f s) :=
  regionIns_memWf h (fun _ _ => pollFor_memWf h)

theorem tryQwait_memWf {f : SeqF} (h : s.memWf) : OptWf (tryQwait s p q f) := optWf_map (fun _ => finish_memWf h)

theorem execQwaitReturn_memWf {p : Fin 32} {q : Fin 4} (h : s.memWf) : OutWf (execQwaitReturn p q s) := by
  unfold execQwaitReturn
  split
  · exact retry_memWf h (fun _ h1 => tryQwait_memWf h1)
  · exact h

theorem execToksv_memWf {f : SeqF} (h : s.memWf) : OutWf (execToksv f s) :=
  regionIns_memWf h (fun _ _ => memWf_ite (addrTrap_memWf h) (memWf_ite (addrTrap_memWf h) (pollFor_memWf
    (State.updRegion_memWf h))))

theorem tryToksv_memWf {f : SeqF} {stage : Nat} (h : s.memWf) : OptWf (tryToksv s p q f stage) :=
  optWf_ite (by
    dsimp only
    split
    · rename_i e
      exact addrTrap_memWf (State.updRegion_memWf (memWf_of_eq e (writeBytes_memWf (memWf_update h))))
    · rename_i e
      exact finish_memWf (markSaved_memWf (memWf_of_eq e (writeBytes_memWf (memWf_update h))))) trivial

theorem taskRuns_memWf {r : Region} (h : s.memWf) : (taskRuns s p r).memWf := by
  unfold taskRuns
  split
  · exact memWf_ite (State.updTask_memWf h) h
  · exact h

theorem execTokrs_memWf {f : SeqF} (h : s.memWf) : OutWf (execTokrs f s) :=
  regionIns_memWf h (fun _ _ => memWf_ite (refuseA_memWf h) (by
    split
    · rename_i e
      exact addrTrap_memWf (memWf_of_eq e (restoreRegion_memWf h))
    · rename_i e
      exact refuseA_memWf (memWf_of_eq e (restoreRegion_memWf h))
    · rename_i e
      exact finishCur_memWf (taskRuns_memWf (memWf_of_eq e (restoreRegion_memWf h)))))

theorem execRgns_memWf {f : SeqF} (h : s.memWf) : OutWf (execRgns f s) :=
  regionIns_memWf h (fun _ _ => finishCur_memWf h)

theorem execQnc_memWf {p : Fin 32} {r : Fin 16} (h : s.memWf) : OutWf (execQnc p r s) :=
  outWf_ite (by
    dsimp only
    split
    · exact finish_memWf (State.unissue_memWf (State.updRegion_memWf h))
    · exact outWf_ite (precise_memWf (memWf_update (State.unissue_memWf (State.updRegion_memWf h))))
        (State.updRegion_memWf (fabricTrap_memWf (State.updRegion_memWf h)))) h

theorem admitCtx_memWf {b : Bid} {row0 col0 : Nat} (h : s.memWf) : (admitCtx s p q b row0 col0).memWf := by
  unfold admitCtx
  split
  · exact finish_memWf (State.unissue_memWf (dispatchEvent_memWf (newRegion_memWf h)))
  · exact h

theorem setSegs_memWf {r : Region} {arg : BitVec 48} (h : s.memWf) : (setSegs s p r arg).memWf :=
  foldl_memWf (fun _ _ h1 => State.updTile_memWf h1) h

theorem admitTask_memWf {k row0 col0 : Nat} {b : Bid} (h : s.memWf) : (admitTask s p k b row0 col0).memWf := by
  unfold admitTask
  split
  · exact h
  extract_lets tk cont s1 s2 s3
  have h3 : s3.memWf := dispatchEvent_memWf (State.updRegion_memWf (newRegion_memWf h))
  clear_value s3
  split
  · rename_i e
    exact taskAdmitFault_memWf (memWf_of_eq e (readImage_memWf h3))
  · rename_i e
    exact taskAdmitFault_memWf (memWf_of_eq e (readImage_memWf h3))
  rename_i e
  have h4 := memWf_of_eq e (readImage_memWf h3)
  extract_lets s5 s6 s7 s8 s9 s10
  have h9 : s9.memWf :=
    State.updRegion_memWf (State.setTask_memWf (setSegs_memWf (activateRegion_memWf (makeResident_memWf h4))))
  have h10 : s10.memWf := memWf_ite (fuse_memWf h9) h9
  clear_value s10
  split
  · split
    · rename_i e
      exact State.updTask_memWf (foldl_memWf (fun _ _ h1 => State.updTile_memWf h1) (memWf_of_eq e
        (restoreRegion_memWf h10)))
    · rename_i e
      exact taskAdmitFault_memWf (memWf_of_eq e (restoreRegion_memWf h10))
  · exact h10

theorem execBidAdmit_memWf {p : Fin 32} (h : s.memWf) : OutWf (execBidAdmit p n s) := by
  unfold execBidAdmit
  split
  · exact h
  · rename_i e
    have h1 := memWf_of_eq e (pickBid_memWf h)
    exact memWf_ite (endBinding_memWf h1) h1
  rename_i e
  have h1 := memWf_of_eq e (pickBid_memWf h)
  split
  · exact h1
  split
  · exact h1
  split
  · exact admitCtx_memWf (takeBid_memWf h1)
  · exact admitTask_memWf (takeBid_memWf h1)
  · exact unfoldRegion_memWf (dispatchEvent_memWf (takeBid_memWf h1))

theorem takeHop_memWf {src : Nat} (h : s.memWf) : (takeHop s p t src).memWf :=
  memWf_ite h (memWf_ite (by
    split
    · exact h
    · exact memWf_update h) (State.updBuf_memWf h))

theorem execTokenHop_memWf {p : Fin 32} {t : Fin 144} {src : Fin 20} (h : s.memWf) :
    OutWf (execTokenHop p t src s) := by
  unfold execTokenHop
  extract_lets x
  split
  · exact h
  split
  · exact h
  split
  · extract_lets s2 s3
    have h2 : s2.memWf := foldl_memWf (fun _ _ h1 => by
      split
      · exact h1
      · exact State.updBuf_memWf h1) (takeHop_memWf h)
    exact markBusy_memWf (memWf_ite (commitEpoch_memWf h2) h2)
  · exact h

/-! ### Stream and steering instructions -/

theorem freeNz_memWf {f : FabF} (h : s.memWf) : (freeNz f s).2.memWf := sndWf_ite (freeChoice_memWf h) h

theorem streamDone_memWf {f : FabF} {e : Effect} (h : s.memWf) : OutWf (streamDone f e s) := applyEffect_memWf h

theorem noRes_memWf {f : FabF} {sends : List (Nat × Tok)} {fl deq : Bool} (h : s.memWf) :
    OutWf (noRes f s sends fl deq) := streamDone_memWf (freeNz_memWf h)

theorem updActing_memWf {x : Fir} {g : Tile → Tile} (h : s.memWf) : (updActing x s g).memWf := State.updTile_memWf h

theorem execGate_memWf {f : FabF} (h : s.memWf) : OutWf (execGate f s) :=
  outWf_ite (streamDone_memWf h) (noRes_memWf h)

theorem setRc_memWf {x : Fir} {v : BitVec 32} (h : s.memWf) : (setRc x s v).memWf := updActing_memWf h

theorem execIter_memWf {f : FabF} (h : s.memWf) : OutWf (execIter f s) :=
  outWf_ite (streamDone_memWf (setRc_memWf h)) (streamDone_memWf (setRc_memWf h))

theorem execRepl_memWf {f : FabF} (h : s.memWf) : OutWf (execRepl f s) :=
  outWf_ite (noRes_memWf h) (streamDone_memWf (setRc_memWf h))

theorem execCnte_memWf {f : FabF} (h : s.memWf) : OutWf (execCnte f s) :=
  outWf_ite (streamDone_memWf (setRc_memWf h)) (noRes_memWf (setRc_memWf h))

theorem execSqsh_memWf {f : FabF} (h : s.memWf) : OutWf (execSqsh f s) :=
  outWf_ite (noRes_memWf (updActing_memWf h)) (outWf_ite (streamDone_memWf (updActing_memWf h)) (outWf_ite
    (noRes_memWf (updActing_memWf h)) (streamDone_memWf (updActing_memWf h))))

theorem execDeci_memWf {f : FabF} (h : s.memWf) : OutWf (execDeci f s) :=
  outWf_ite (noRes_memWf h) (outWf_ite (elementTrap_memWf h) (noRes_memWf (State.updRegion_memWf h)))

/-! ### Memory nodes -/

theorem deferFire_memWf {f : FabF} {writes : Bool} {ib tb : Nat} {r : Req} (h : s.memWf) :
    (deferFire f writes n ib tb r s).memWf := by
  unfold deferFire
  exact markBusy_memWf (chargeRegion_memWf (State.updPad_memWf (deqMask_memWf (foldl_memWf (fun _ _ h1 =>
    reserveOut_memWf h1) (State.setTile_memWf h)))))

theorem spadFire_memWf {opc : BitVec 8} {f : FabF} {writes : Bool} (h : s.memWf) :
    OutWf (spadFire opc f writes n s) := by
  unfold spadFire
  dsimp only
  exact outWf_ite (trapBefore_memWf h) (deferFire_memWf (freeDelay_memWf h))

theorem globFire_memWf {opc : BitVec 8} {f : FabF} {writes : Bool} {base : BitVec 64} {align : Nat} (h : s.memWf) :
    OutWf (globFire opc f writes n base va align s) := by
  unfold globFire
  dsimp only
  split
  · exact trapBefore_memWf h
  · exact deferFire_memWf (freeDelay_memWf h)

theorem segFire_memWf {opc : BitVec 8} {f : FabF} {writes : Bool} (h : s.memWf) : OutWf (segFire opc f writes s) :=
  globFire_memWf h

theorem execGath_memWf {f : FabF} (h : s.memWf) : OutWf (execGath f s) :=
  globFire_memWf (memWf_ite (updActing_memWf h) h)

theorem execFabPref_memWf {f : FabF} (h : s.memWf) : OutWf (execFabPref f s) := by
  unfold execFabPref
  dsimp only
  exact deferFire_memWf (freeDelay_memWf h)

theorem execFabFence_memWf {f : FabF} (h : s.memWf) : OutWf (execFabFence f s) := by
  unfold execFabFence
  dsimp only
  exact deferFire_memWf (freeDelay_memWf h)

theorem memFinish_memWf {r : Req} {writes flag : Bool} {res : Option (BitVec 32)} {tb : Nat} {toks : List Tok}
    (h : s.memWf) :
    (memFinish s p t r writes res flag tb toks).memWf := by
  unfold memFinish
  exact markBusy_memWf (chargeRegion_memWf (giveToks_memWf (State.setTile_memWf (by
    split
    · exact h
    · exact freeNz_memWf h))))

theorem finishVal_memWf {r : Req} {v : BitVec 32} {flag : Bool} {tb : Nat} (h : s.memWf) :
    (finishVal s p t r v flag tb).memWf := memFinish_memWf h

theorem finishTok_memWf {r : Req} {flag : Bool} {tb : Nat} (h : s.memWf) : (finishTok s p t r flag tb).memWf :=
  memFinish_memWf h

theorem State.updReq_memWf {id : Nat} {g : Req → Req} (h : s.memWf) : (s.updReq p t id g).memWf :=
  State.updTile_memWf h

theorem reqEcc_memWf {r : Req} {info : BitVec 64} (h : s.memWf) : (reqEcc s p t r info).memWf :=
  fabricTrap_memWf (State.updReq_memWf h)

theorem commitTile_memWf (h : s.memWf) : (commitTile s p t).memWf := commitEpoch_memWf h

theorem replayTake_memWf {r : Req} {addr : BitVec 64} (h : s.memWf) : (replayTake s p t r addr).2.memWf := by
  unfold replayTake
  dsimp only
  split
  · exact h
  split
  · exact h
  · exact sndWf_ite (State.updTile_memWf h) h

theorem replayNote_memWf {r : Req} {addr : BitVec 64} {v : BitVec 512} {side : BitVec 32} (h : s.memWf) :
    (replayNote s p t r addr v side).memWf :=
  memWf_ite h (memWf_ite (commitTile_memWf (State.updTile_memWf h)) (State.updTile_memWf h))

theorem State.updSpad_memWf {g : Spad → Spad} (h : s.memWf) : (s.updSpad p t g).memWf := State.updTile_memWf h

theorem fixWord_memWf (h : s.memWf) : (fixWord s p t n).memWf :=
  memWf_ite (State.updPad_memWf (State.updSpad_memWf h)) h

theorem bankTake_memWf (h : s.memWf) : (bankTake s p t n).2.memWf := sndWf_ite h (State.updSpad_memWf h)

theorem engTake_memWf (h : s.memWf) : (engTake s p t n).2.memWf :=
  sndWf_ite h (sndWf_ite (State.updSpad_memWf h) (sndWf_ite (State.updSpad_memWf h) (State.updSpad_memWf h)))

theorem bankRead_memWf {r : Req} {w : Nat} {k : State → BitVec 32 → State} (h : s.memWf)
    (hk : ∀ s v, s.memWf → (k s v).memWf) : (bankRead s p t r w k).memWf := by
  unfold bankRead
  exact memWf_ite (reqEcc_memWf h) (hk _ _ (replayNote_memWf (fixWord_memWf h)))

theorem fullRead_memWf {r : Req} {w : Nat} (h : s.memWf) : (fullRead s p t r w).memWf :=
  bankRead_memWf h (fun _ _ h1 => finishVal_memWf (memWf_ite (commitTile_memWf (State.updSpad_memWf h1)) h1))

theorem serveOne_memWf {w : Nat} (h : s.memWf) : OptWf (serveOne s p t w) :=
  optWf_ite trivial (optWf_ite (by
    split
    · exact trivial
    split
    · exact State.updSpad_memWf h
    · exact fullRead_memWf (State.updSpad_memWf h)) (by
    split
    · exact trivial
    split
    · exact State.updSpad_memWf h
    · exact finishTok_memWf (commitTile_memWf (State.updSpad_memWf (State.updSpad_memWf h)))))

theorem serveWord_memWf {w : Nat} (h : s.memWf) : (serveWord s p t w n).memWf := by
  induction n generalizing s with
  | zero => exact h
  | succ n ih =>
    rw [serveWord]
    split
    · exact h
    · rename_i e
      exact ih (memWf_of_some e (serveOne_memWf h))

theorem serve_memWf {w : Nat} (h : s.memWf) : (serve s p t w).memWf := serveWord_memWf h

theorem parkReq_memWf {w : Nat} {r : Req} {load : Bool} (h : s.memWf) : (parkReq s p t w r load).memWf :=
  State.updSpad_memWf (State.updReq_memWf h)

theorem replayOr_memWf {r : Req} {addr : BitVec 64} {hit : State → BitVec 512 → BitVec 32 → State}
    {read : State → State}
    (h : s.memWf) (hhit : ∀ s v sd, s.memWf → (hit s v sd).memWf) (hread : ∀ s, s.memWf → (read s).memWf) :
    (replayOr s p t r addr hit read).memWf := by
  unfold replayOr
  split
  · rename_i e
    exact hhit _ _ _ (memWf_of_eq e (replayTake_memWf h))
  · rename_i e
    exact reqEcc_memWf (memWf_of_eq e (replayTake_memWf h))
  · rename_i e
    exact hread _ (memWf_of_eq e (replayTake_memWf h))

theorem spadVec_memWf {r : Req} {store : Bool} (h : s.memWf) : (spadVec s p t r store n).2.memWf := by
  induction n generalizing s r with
  | zero => exact h
  | succ n ih =>
    rw [spadVec]
    split
    · rename_i e
      exact memWf_of_eq e (bankTake_memWf h)
    · rename_i e
      have h1 := memWf_of_eq e (bankTake_memWf h)
      exact sndWf_ite (ih (State.updSpad_memWf h1)) (ih (fixWord_memWf h1))

theorem spadStoreGo_memWf {r : Req} (h : s.memWf) : (spadStoreGo s p t r).memWf := by
  unfold spadStoreGo
  extract_lets n
  split
  rename_i e
  have h1 := memWf_of_eq e (freePart_memWf h)
  split
  rename_i e
  have h2 := memWf_of_eq e (spadVec_memWf h1)
  extract_lets s3
  have h3 : s3.memWf := memWf_ite h2 (commitTile_memWf h2)
  exact memWf_ite (finishTok_memWf h3) (State.updReq_memWf h3)

theorem spadLoadGo_memWf {r : Req} (h : s.memWf) : (spadLoadGo s p t r).memWf := by
  unfold spadLoadGo
  dsimp only
  split
  · exact reqEcc_memWf h
  · exact memWf_ite (memFinish_memWf (replayNote_memWf (spadVec_memWf (freePart_memWf h)))) (State.updReq_memWf
      (spadVec_memWf (freePart_memWf h)))

theorem spadVecGo_memWf {r : Req} {store : Bool} (h : s.memWf) : (spadVecGo s p t r store).memWf :=
  memWf_ite (spadStoreGo_memWf h) (memWf_ite (replayOr_memWf h (fun _ _ _ h1 => memFinish_memWf h1) (fun _ h1 =>
    spadLoadGo_memWf h1)) (spadLoadGo_memWf h))

theorem spadSfe_memWf {r : Req} (h : s.memWf) : (spadSfe s p t r).memWf :=
  finishTok_memWf (foldl_memWf (fun _ _ h1 => serve_memWf (State.updSpad_memWf h1)) (commitTile_memWf h))

theorem waitBehind_memWf {r : Req} {l : List Req} (h : s.memWf) : (waitBehind s p t r l).memWf := by
  unfold waitBehind
  split
  · exact State.updReq_memWf h
  · exact h

theorem spadGo_memWf {r : Req} (h : s.memWf) : (spadGo s p t r).memWf :=
  memWf_ite (waitBehind_memWf h) (memWf_ite (spadVecGo_memWf h) (memWf_ite (spadVecGo_memWf h) (by
    split
    · rename_i e
      exact memWf_of_eq e (bankTake_memWf h)
    rename_i e
    have h1 := memWf_of_eq e (bankTake_memWf h)
    split
    · exact replayOr_memWf h1 (fun _ _ _ h2 => finishVal_memWf h2) (fun _ h2 => bankRead_memWf h2 (fun _ _ h3 =>
        finishVal_memWf h3))
    · exact finishTok_memWf (commitTile_memWf (State.updSpad_memWf h1))
    · exact replayOr_memWf h1 (fun _ _ _ h2 => finishVal_memWf h2) (fun _ h2 => memWf_ite (parkReq_memWf h2)
        (serve_memWf (fullRead_memWf h2)))
    · exact replayOr_memWf h1 (fun _ _ _ h2 => finishVal_memWf h2) (fun _ h2 => memWf_ite (parkReq_memWf h2)
        (serve_memWf (fullRead_memWf h2)))
    · exact serve_memWf (finishTok_memWf (commitTile_memWf (State.updSpad_memWf h1)))
    · exact memWf_ite (parkReq_memWf h1) (serve_memWf (finishTok_memWf (commitTile_memWf (State.updSpad_memWf h1))))
    · exact spadSfe_memWf h1
    · exact memWf_ite (reqEcc_memWf h1) (finishVal_memWf (commitTile_memWf (State.updSpad_memWf (fixWord_memWf
        h1)))))))

theorem State.updL1_memWf {key : Nat} {g : Tbl (BitVec 512) → Tbl (BitVec 512)} (h : s.memWf) :
    (s.updL1 p t key g).memWf := State.updTile_memWf h

theorem l1Use_memWf {key : Nat} (h : s.memWf) : (l1Use s p t key).memWf := State.updTile_memWf h

theorem l1Put_memWf {key : Nat} {v : BitVec 512} (h : s.memWf) : (l1Put s p t key v).memWf := by
  unfold l1Put
  dsimp only
  exact l1Use_memWf (memWf_ite (State.updL1_memWf h) (State.updL1_memWf (freeDelay_memWf h)))

theorem l1Store_memWf {pa : Nat} {host : Bool} {bs : List (BitVec 8)} (h : s.memWf) :
    (l1Store s p t pa host bs).memWf := by
  unfold l1Store
  dsimp only
  split
  · exact h
  · exact State.updL1_memWf h

theorem l1Read_memWf {pa : Nat} {host : Bool} (h : s.memWf) : (l1Read s p t pa host).2.2.memWf := by
  unfold l1Read
  dsimp only
  split
  · exact l1Put_memWf (State.fixLine_memWf h)
  · exact thdWf_ite (freeChoice_memWf (l1Use_memWf h)) (l1Store_memWf (State.fixLine_memWf (freeChoice_memWf
      (l1Use_memWf h))))

theorem l1Drop_memWf {pa : Nat} {host : Bool} (h : s.memWf) : (l1Drop s p t pa host).memWf := State.updL1_memWf h

theorem xlSegs_memWf {k : AccKind} {l : List (BitVec 64 × Nat)} (h : s.memWf) : (xlSegs s p t k l).2.memWf := by
  induction l generalizing s with
  | nil => exact h
  | cons e l ih =>
    rw [xlSegs]
    split
    · exact h
    split
    · rename_i e
      exact memWf_of_eq e (translate_memWf h)
    rename_i e
    have h2 := memWf_of_eq e (translate_memWf h)
    split
    all_goals
      rename_i e
      exact memWf_of_eq e (ih h2)

theorem readWords_memWf {l : List (Nat × Bool)} (h : s.memWf) : (readWords s p t l).2.2.memWf := by
  induction l generalizing s with
  | nil => exact h
  | cons e l ih =>
    rw [readWords]
    exact ih (l1Read_memWf h)

theorem writeWords_memWf {ws : List ((Nat × Bool) × BitVec 32)} (h : s.memWf) : (writeWords s p t ws).memWf :=
  foldl_memWf (fun _ _ h1 => l1Store_memWf (State.wrBytes_memWf _ _ _ _ h1)) h

theorem reqFault_memWf {r : Req} {cause : BitVec 8} {k : AccKind} (h : s.memWf) :
    (reqFault s p t r cause va k).memWf :=
  memWf_ite (State.updReq_memWf h) (memWf_ite (State.updTile_memWf (State.updReq_memWf h)) (report_memWf
    (State.updTile_memWf (State.updReq_memWf h))))

theorem reqStileTmo_memWf {r : Req} (h : s.memWf) : (reqStileTmo s p t r).memWf :=
  fabricTrap_memWf (State.updReq_memWf h)

theorem rowReplay_memWf {r : Req} (h : s.memWf) : (rowReplay s p t r n).2.memWf := by
  induction n generalizing s with
  | zero => exact h
  | succ n ih =>
    rw [rowReplay]
    split
    · rename_i e
      have h1 := memWf_of_eq e (replayTake_memWf h)
      split
      all_goals
        rename_i e
        exact memWf_of_eq e (ih h1)
    · rename_i e
      exact memWf_of_eq e (replayTake_memWf h)

theorem coalWord_memWf {id pa : Nat} {host : Bool} (h : s.memWf) : (coalWord s p t id pa host).2.2.memWf := by
  unfold coalWord
  dsimp only
  split
  · exact State.updTile_memWf (State.fixLine_memWf h)
  split
  · exact h
  · exact State.updTile_memWf (State.fixLine_memWf h)

theorem fetchWords_memWf {id : Nat} {l : List (Nat × Bool)} (h : s.memWf) : (fetchWords s p t id l).2.2.memWf := by
  induction l generalizing s with
  | nil => exact h
  | cons e l ih =>
    rw [fetchWords]
    exact ih (coalWord_memWf h)

theorem coalDone_memWf {id : Nat} (h : s.memWf) : (coalDone s p t id).memWf := State.updTile_memWf h

theorem stageWords_memWf {r : Req} {i : Nat} (h : s.memWf) : (stageWords s p t r i n).2.memWf := by
  induction n generalizing s i with
  | zero => exact h
  | succ n ih =>
    rw [stageWords]
    split
    · rename_i e
      exact memWf_of_eq e (bankTake_memWf h)
    · rename_i e
      exact ih (State.updSpad_memWf (memWf_of_eq e (bankTake_memWf h)))

theorem partGo_memWf {r : Req} {k : AccKind} {go : State → List (Nat × Bool) → Nat → State} (h : s.memWf)
    (hgo : ∀ s ws m, s.memWf → (go s ws m).memWf) : (partGo s p t r k go).memWf := by
  unfold partGo
  split
  · rename_i e
    exact reqFault_memWf (memWf_of_eq e (xlSegs_memWf h))
  rename_i e
  have h1 := memWf_of_eq e (xlSegs_memWf h)
  split
  · exact reqEcc_memWf h1
  · exact hgo _ _ _ (freePart_memWf h1)

theorem partDone_memWf {r : Req} {tb : Nat} (h : s.memWf) : (partDone s p t r tb).memWf :=
  markBusy_memWf (chargeRegion_memWf (State.updReq_memWf h))

theorem gathStage_memWf {r : Req} (h : s.memWf) : (gathStage s p t r).memWf := by
  unfold gathStage
  extract_lets n
  split
  rename_i r1 s1 e
  have h1 : s1.memWf := memWf_of_eq e (sndWf_ite (freeDelay_memWf (lo := 0) h) h)
  split
  rename_i i s2 e2
  have h2 : s2.memWf := memWf_of_eq e2 (stageWords_memWf h1)
  exact memWf_ite (State.updReq_memWf h2) (memFinish_memWf (State.updReq_memWf h2))

theorem gathGo_memWf {r : Req} (h : s.memWf) : (gathGo s p t r).memWf :=
  memWf_ite (replayOr_memWf h (fun _ _ _ h1 => by
    split
    · rename_i e
      exact gathStage_memWf (memWf_of_eq e (rowReplay_memWf h1))
    · rename_i e
      exact reqEcc_memWf (memWf_of_eq e (rowReplay_memWf h1))) (fun _ h1 => partGo_memWf h1 (fun _ _ _ h2 => memWf_ite
        (partDone_memWf (fetchWords_memWf h2)) (gathStage_memWf (coalDone_memWf (foldl_memWf (fun _ _ h3 =>
        replayNote_memWf h3) (partDone_memWf (fetchWords_memWf h2)))))))) (memWf_ite (partGo_memWf h (fun _ _ _ h1 =>
        memWf_ite (partDone_memWf (fetchWords_memWf h1)) (gathStage_memWf (coalDone_memWf (foldl_memWf (fun _ _ h2 =>
        replayNote_memWf h2) (partDone_memWf (fetchWords_memWf h1))))))) (gathStage_memWf h))

theorem loadGo_memWf {r : Req} {vec : Bool} (h : s.memWf) : (loadGo s p t r vec).memWf :=
  memWf_ite (replayOr_memWf h (fun _ _ _ h1 => memWf_ite (memFinish_memWf h1) (finishVal_memWf h1)) (fun _ h1 =>
    partGo_memWf h1 (fun _ _ _ h2 => memWf_ite (partDone_memWf (readWords_memWf h2)) (memWf_ite (memFinish_memWf
    (replayNote_memWf (readWords_memWf h2))) (finishVal_memWf (replayNote_memWf (readWords_memWf h2)))))))
    (partGo_memWf h (fun _ _ _ h1 => memWf_ite (partDone_memWf (readWords_memWf h1)) (memWf_ite (memFinish_memWf
    (replayNote_memWf (readWords_memWf h1))) (finishVal_memWf (replayNote_memWf (readWords_memWf h1))))))

theorem storeGo_memWf {r : Req} (h : s.memWf) : (storeGo s p t r).memWf :=
  partGo_memWf h (fun s1 _ _ h1 => by
    extract_lets part s2 s3 s4 tb
    have h2 : s2.memWf := writeWords_memWf h1
    have h4 : s4.memWf := commitTile_memWf (memWf_ite (State.updTile_memWf h2) h2)
    exact memWf_ite (partDone_memWf h4) (finishTok_memWf h4))

theorem atomGo_memWf {r : Req} (h : s.memWf) : (atomGo s p t r).memWf := by
  unfold atomGo
  split
  · rename_i e
    exact reqFault_memWf (memWf_of_eq e (translate_memWf h))
  · rename_i e
    have h1 := memWf_of_eq e (translate_memWf h)
    exact memWf_ite (reqEcc_memWf h1) (finishVal_memWf (commitTile_memWf (l1Drop_memWf (State.wrNat_memWf _ _ _ _ _
      (State.fixLine_memWf h1)))))

theorem prefGo_memWf {r : Req} (h : s.memWf) : (prefGo s p t r).memWf :=
  memWf_ite (finishTok_memWf h) (by
    split
    · rename_i e
      exact finishTok_memWf (memWf_of_eq e (translate_memWf h))
    · rename_i e
      have h1 := memWf_of_eq e (translate_memWf h)
      exact memWf_ite (finishTok_memWf (freeChoice_memWf h1)) (finishTok_memWf (l1Read_memWf (freeChoice_memWf h1))))

theorem fenceGo_memWf {r : Req} (h : s.memWf) : (fenceGo s p t r).memWf := by
  unfold fenceGo
  extract_lets tl sc fused s1 s2
  have h1 : s1.memWf := memWf_ite h (memWf_ite (memWf_ite (clearL1_memWf h) h) (memWf_ite (State.updTile_memWf h) h))
  exact memWf_ite h (finishTok_memWf (memWf_ite (State.updTile_memWf h1) h1))

theorem globGo_memWf {r : Req} (h : s.memWf) : (globGo s p t r).memWf :=
  memWf_ite (reqStileTmo_memWf h) (memWf_ite (waitBehind_memWf h) (by
    split
    · exact loadGo_memWf h
    · exact loadGo_memWf h
    · exact gathGo_memWf h
    · exact storeGo_memWf h
    · exact storeGo_memWf h
    · exact storeGo_memWf h
    · exact atomGo_memWf h))

theorem chappRefused_memWf {r : Req} {d : Nat} (h : s.memWf) : (chappRefused s p t r d).memWf :=
  fabricTrap_memWf (State.updReq_memWf h)

theorem chappGo_memWf {r : Req} {a : Attach × State} (h : a.2.memWf) : (chappGo p t r a).memWf := by
  unfold chappGo
  split
  · exact finishTok_memWf h
  · exact chappRefused_memWf h
  · exact memWf_ite (reqEcc_memWf h) (reqFault_memWf h)

theorem engReqGo_memWf {r : Req} (h : s.memWf) : (engReqGo s p t r).memWf :=
  memWf_ite (memWf_ite (finishTok_memWf h) (by
    split
    · exact chappRefused_memWf h
    · exact chappGo_memWf (attach_memWf h))) (memWf_ite (memWf_ite h (finishTok_memWf (setTag_memWf h))) (memWf_ite
        (finishTok_memWf h) (memFinish_memWf (State.updTile_memWf (foldl_memWf (fun _ _ h1 => foldl_memWf (fun _ _ h2
        => releaseOut_memWf h2) h1) h)))))

theorem reqGo_memWf {r : Req} (h : s.memWf) : (reqGo s p t r).memWf :=
  memWf_ite (spadGo_memWf h) (memWf_ite (fenceGo_memWf h) (memWf_ite (prefGo_memWf h) (globGo_memWf h)))

theorem execMemNodeComplete_memWf {p : Fin 32} {t : Fin 144} (h : s.memWf) : OutWf (execMemNodeComplete p t n s) := by
  unfold execMemNodeComplete
  split
  · exact h
  · exact outWf_ite (reqGo_memWf h) (outWf_ite (engReqGo_memWf h) (outWf_ite (serve_memWf h) h))

theorem execGathRowTokenEmit_memWf {p : Fin 32} {t : Fin 144} (h : s.memWf) : OutWf (execGathRowTokenEmit p t s) := by
  unfold execGathRowTokenEmit
  split
  rename_i e
  have h1 := memWf_of_eq e (emitPaced_memWf h)
  split
  · exact h1
  · exact markBusy_memWf (State.updTile_memWf h1)

/-! ### The fabric's engine and message instructions -/

theorem commitActing_memWf (h : s.memWf) : (commitActing s).memWf := commitEpoch_memWf h

theorem elementDetail_memWf {opc : BitVec 8} {f : FabF} {d : Nat} (h : s.memWf) : (elementDetail s opc f d).memWf :=
  trapBefore_memWf h

theorem execFabChapp_memWf {f : FabF} (h : s.memWf) : OutWf (execFabChapp f s) := by
  unfold execFabChapp
  extract_lets x c q va
  split
  · exact elementDetail_memWf h
  split
  · exact trapBefore_memWf h
  split
  · rename_i e
    exact elementDetail_memWf (memWf_of_eq e (attach_memWf h))
  · rename_i s1 e
    have h1 : s1.memWf := memWf_of_eq e (attach_memWf h)
    split
    rename_i e
    exact commitActing_memWf (deferFire_memWf (memWf_of_eq e (freeDelay_memWf h1)))
  · rename_i e
    refine chappGo_memWf ?_
    dsimp only
    exact commitActing_memWf (deferFire_memWf (memWf_of_eq e (attach_memWf h)))

theorem execFabChtl_memWf {f : FabF} (h : s.memWf) : OutWf (execFabChtl f s) := by
  unfold execFabChtl
  dsimp only
  split
  · exact elementDetail_memWf h
  split
  · exact elementDetail_memWf h
  · rename_i e
    exact applyEffect_memWf (commitActing_memWf (freeNz_memWf (memWf_of_ok e (announce_memWf h))))

theorem execFabChsq_memWf {f : FabF} (h : s.memWf) : OutWf (execFabChsq f s) :=
  outWf_ite (elementDetail_memWf h) (applyEffect_memWf h)

theorem execMsend_memWf {f : FabF} (h : s.memWf) : OutWf (execMsend f s) := by
  unfold execMsend
  dsimp only
  split
  · exact elementTrap_memWf h
  · exact postMsg_memWf (commitActing_memWf (deferFire_memWf h))

theorem msgSender_memWf {m : Msg} {there : Bool} (h : s.memWf) : (msgSender s p m there).memWf :=
  memWf_ite h (State.updReq_memWf h)

theorem takeMsg_memWf (h : s.memWf) : (takeMsg s p n).memWf := State.updPad_memWf h

theorem execMessageArrive_memWf {p : Fin 32} (h : s.memWf) : OutWf (execMessageArrive p n s) := by
  unfold execMessageArrive
  split
  · exact h
  · exact msgSender_memWf (markBusy_memWf (commitEpoch_memWf (foldl_memWf (fun _ _ h1 => by
      split
      · exact h1
      · exact foldl_memWf (fun _ _ h2 => State.updBuf_memWf h2) h1) (takeMsg_memWf h))))
  · exact msgSender_memWf (by
      split
      · exact State.updRegion_memWf (takeMsg_memWf h)
      · exact takeMsg_memWf h)

/-! ### Matrix tiles -/

theorem updMx_memWf {g : Matrix → Matrix} (h : s.memWf) : (updMx s p t g).memWf := State.updTile_memWf h

theorem mxSimple_memWf {opc ib : Nat} {f : FabF} {flag commit : Bool} {g : Matrix → Matrix} (h : s.memWf) :
    OutWf (mxSimple opc f ib flag commit s g) :=
  applyEffect_memWf (freeNz_memWf (memWf_ite (commitEpoch_memWf (updMx_memWf h)) (updMx_memWf h)))

theorem execMldb_memWf {f : FabF} (h : s.memWf) : OutWf (execMldb f s) :=
  outWf_ite (elementTrap_memWf h) (mxSimple_memWf (updActing_memWf h))

theorem passFire_memWf {opc : BitVec 8} {f : FabF} (h : s.memWf) : OutWf (passFire opc f s) :=
  outWf_ite (elementTrap_memWf h) (commitEpoch_memWf (updMx_memWf (memWf_ite (State.updBuf_memWf (deferFire_memWf h))
    (deferFire_memWf h))))

theorem passTake_memWf (h : s.memWf) : (passTake s p t).memWf := by
  unfold passTake
  dsimp only
  split
  · exact h
  split
  · exact h
  · exact memWf_ite (memWf_ite h (fabricTrap_memWf h)) (memWf_ite (memWf_ite h (fabricTrap_memWf h)) (markBusy_memWf
      (State.updPad_memWf (updMx_memWf (deqIn_memWf h)))))

theorem passDone_memWf {ps : Pass} (h : s.memWf) : (passDone s p t ps).memWf := by
  unfold passDone
  dsimp only
  split
  · exact updMx_memWf h
  · exact memFinish_memWf (updMx_memWf h)

theorem passAdd_memWf {ps : Pass} (h : s.memWf) : (passAdd s p t ps).memWf := by
  unfold passAdd
  extract_lets x fmt gs
  split
  · exact memWf_ite (updMx_memWf h) (fabricTrap_memWf (updMx_memWf h))
  rename_i s2 _ _
  have h2 : s2.memWf := markBusy_memWf (State.updTile_memWf h)
  clear_value s2
  split
  · exact passDone_memWf h2
  extract_lets held s3 info
  have h3 : s3.memWf := updMx_memWf h2
  exact memWf_ite (memWf_ite h3 (fabricTrap_memWf h3)) (memWf_ite (memWf_ite (setRegionTag_memWf h3) h3) (memWf_ite h3
    (fabricTrap_memWf h3)))

theorem execMatrixPassComplete_memWf {p : Fin 32} {t : Fin 144} (h : s.memWf) :
    OutWf (execMatrixPassComplete p t s) := by
  unfold execMatrixPassComplete
  split
  · exact passAdd_memWf h
  · exact h

theorem passFirst_memWf (h : s.memWf) : (passFirst s p t).memWf := by
  unfold passFirst
  dsimp only
  split
  · exact passAdd_memWf (passTake_memWf h)
  · exact passTake_memWf h

theorem execCarryHoldResume_memWf {p : Fin 32} {t : Fin 144} (h : s.memWf) : OutWf (execCarryHoldResume p t s) := by
  unfold execCarryHoldResume
  split
  · exact passAdd_memWf h
  · exact h

theorem execMdrn_memWf {f : FabF} (h : s.memWf) : OutWf (execMdrn f s) :=
  memWf_ite (updMx_memWf (deferFire_memWf h)) (commitEpoch_memWf (updMx_memWf (deferFire_memWf h)))

theorem execMdrnSpillToken_memWf {p : Fin 32} {t : Fin 144} (h : s.memWf) : OutWf (execMdrnSpillToken p t s) := by
  unfold execMdrnSpillToken
  split
  · exact h
  · exact outWf_ite (memWf_ite h (fabricTrap_memWf h)) (markBusy_memWf (State.updPad_memWf (updMx_memWf (deqIn_memWf
      h))))

theorem execMdrnComplete_memWf {p : Fin 32} {t : Fin 144} (h : s.memWf) : OutWf (execMdrnComplete p t s) := by
  unfold execMdrnComplete
  dsimp only
  split
  · exact h
  split
  · exact State.updTile_memWf h
  · exact memFinish_memWf (State.updTile_memWf h)

theorem execMcarryExp_memWf {f : FabF} (h : s.memWf) : OutWf (execMcarryExp f s) :=
  commitEpoch_memWf (giveToks_memWf (State.updTile_memWf (deferFire_memWf (passFirst_memWf h))))

theorem execMcarryExpToken_memWf {p : Fin 32} {t : Fin 144} (h : s.memWf) : OutWf (execMcarryExpToken p t s) := by
  unfold execMcarryExpToken
  split
  rename_i e
  have h1 := memWf_of_eq e (emitPaced_memWf h)
  split
  · exact h1
  · exact markBusy_memWf (chargeRegion_memWf (State.updTile_memWf h1))

/-! ### Vector tiles -/

theorem VSrc.vals_memWf {a : VSrc} {x : Fir} (h : s.memWf) : (a.vals x s).2.memWf := sndWf_ite (memWf_update h) h

theorem vecDone_memWf {f : FabF} {x : Fir} {v : BitVec 512} {flag : Bool} {flags : BitVec 8} (h : s.memWf) :
    OutWf (vecDone f x s v flag flags) := applyEffect_memWf h

theorem scaDone_memWf {f : FabF} {x : Fir} {r : BitVec 32} {flag : Bool} {flags : BitVec 8} (h : s.memWf) :
    OutWf (scaDone f x s r flag flags) := applyEffect_memWf h

theorem fpDone_memWf {f : FabF} {x : Fir} {l : List (Ex × Bool)} (h : s.memWf) : OutWf (fpDone f x s l) :=
  vecDone_memWf h

theorem vfp2_memWf {opc : BitVec 8} {f : FabF} {g : Fir → Nat → Ex → Ex → Ex × Bool} (h : s.memWf) :
    OutWf (vfp2 opc f s g) := outWf_ite (elementTrap_memWf h) (fpDone_memWf h)

theorem vfp1_memWf {opc : BitVec 8} {f : FabF} {g : Ex → Ex × Bool} (h : s.memWf) : OutWf (vfp1 opc f s g) :=
  outWf_ite (elementTrap_memWf h) (fpDone_memWf h)

theorem execVscl_memWf {f : FabF} (h : s.memWf) : OutWf (execVscl f s) :=
  outWf_ite (elementTrap_memWf h) (fpDone_memWf h)

theorem execVcmp_memWf {f : FabF} (h : s.memWf) : OutWf (execVcmp f s) :=
  outWf_ite (elementTrap_memWf h) (scaDone_memWf h)

theorem execVsel_memWf {f : FabF} (h : s.memWf) : OutWf (execVsel f s) :=
  outWf_ite (elementTrap_memWf h) (vecDone_memWf h)

theorem moveDone_memWf {f : FabF} {x : Fir} {v : BitVec 512} (h : s.memWf) : OutWf (moveDone f x s v) :=
  vecDone_memWf h

theorem execVshf_memWf {f : FabF} (h : s.memWf) : OutWf (execVshf f s) :=
  outWf_ite (elementTrap_memWf h) (moveDone_memWf h)

theorem execVpack_memWf {f : FabF} (h : s.memWf) : OutWf (execVpack f s) := by
  unfold execVpack
  dsimp only
  split
  · exact moveDone_memWf h
  · exact elementTrap_memWf h

theorem execVunpk_memWf {f : FabF} (h : s.memWf) : OutWf (execVunpk f s) := by
  unfold execVunpk
  dsimp only
  split
  · exact moveDone_memWf h
  · exact elementTrap_memWf h

theorem vint_memWf {opc : BitVec 8} {f : FabF} {g : Nat → Nat → Nat → Int} {rng : Nat → Option (Int × Int)}
    (h : s.memWf) :
    OutWf (vint opc f s g rng) := outWf_ite (elementTrap_memWf h) (vecDone_memWf h)

theorem execViadd_memWf {f : FabF} (h : s.memWf) : OutWf (execViadd f s) := by
  unfold execViadd
  exact vint_memWf h

theorem execVcvt_memWf {f : FabF} (h : s.memWf) : OutWf (execVcvt f s) :=
  outWf_ite (elementTrap_memWf h) (applyEffect_memWf h)

theorem execVsr_memWf {f : FabF} (h : s.memWf) : OutWf (execVsr f s) := by
  unfold execVsr
  dsimp only
  split
  · exact vecDone_memWf h
  · exact elementTrap_memWf h

theorem execVlut_memWf {f : FabF} (h : s.memWf) : OutWf (execVlut f s) :=
  outWf_ite (elementTrap_memWf h) (fpDone_memWf h)

theorem execVps8Mul_memWf {f : FabF} (h : s.memWf) : OutWf (execVps8Mul f s) :=
  outWf_ite (elementTrap_memWf h) (fpDone_memWf h)

theorem execVps8Enc_memWf {f : FabF} (h : s.memWf) : OutWf (execVps8Enc f s) :=
  outWf_ite (elementTrap_memWf h) (applyEffect_memWf (VSrc.vals_memWf h))

theorem execVmov_memWf {f : FabF} (h : s.memWf) : OutWf (execVmov f s) :=
  applyEffect_memWf (memWf_ite h (updActing_memWf h))

theorem quantDone_memWf {f : FabF} {x : Fir} {w : Nat} {q : Nat × List Nat × BitVec 8} {nonfin mx : Bool} {tag : Tag}
    (h : s.memWf) :
    OutWf (quantDone f x s w q nonfin mx tag) := applyEffect_memWf (updActing_memWf h)

theorem execVqmx_memWf {f : FabF} (h : s.memWf) : OutWf (execVqmx f s) :=
  outWf_ite (elementTrap_memWf h) (quantDone_memWf h)

theorem execVqi4_memWf {f : FabF} (h : s.memWf) : OutWf (execVqi4 f s) :=
  outWf_ite (elementTrap_memWf h) (quantDone_memWf h)

theorem Xacc.norm_memWf {a : Xacc × Bool} (h : s.memWf) : (Xacc.norm a s).2.2.memWf := by
  unfold Xacc.norm
  exact thdWf_ite h (freeWord_memWf (freeWord_memWf h))

theorem sumxDone_memWf {f : FabF} {x : Fir} {v : BitVec 512} {flag : Bool} {fl : BitVec 8} (h : s.memWf) :
    OutWf (sumxDone f x s v flag fl) := applyEffect_memWf h

theorem execVsumxAcc_memWf {f : FabF} (h : s.memWf) : OutWf (execVsumxAcc f s) :=
  outWf_ite (elementTrap_memWf h) (sumxDone_memWf (Xacc.norm_memWf (VSrc.vals_memWf h)))

theorem execVsumxFold_memWf {f : FabF} (h : s.memWf) : OutWf (execVsumxFold f s) :=
  outWf_ite (elementTrap_memWf h) (sumxDone_memWf (Xacc.norm_memWf h))

/-! ### Bulk transfer and collective engines -/

theorem execSeqChapp_memWf {f : SeqF} (h : s.memWf) : OutWf (execSeqChapp f s) :=
  issueWith_memWf h (by
    dsimp only
    split
    · exact refuse_memWf h
    split
    · exact addrTrap_memWf h
    split
    · exact addrTrap_memWf h
    split
    · rename_i e
      exact refuse_memWf (memWf_of_eq e (attach_memWf h))
    · rename_i e
      exact addrTrap_memWf (memWf_of_eq e (attach_memWf h))
    · rename_i e
      exact State.setCurCtx_memWf (freeDelay_memWf (memWf_of_eq e (attach_memWf h))))

theorem execSeqChtl_memWf {f : SeqF} (h : s.memWf) : OutWf (execSeqChtl f s) :=
  issueWith_memWf h (by
    dsimp only
    split
    · exact refuse_memWf h
    split
    · exact refuse_memWf h
    · rename_i e
      exact finishCur_memWf (memWf_of_ok e (announce_memWf h)))

theorem execSeqChsq_memWf {f : SeqF} (h : s.memWf) : OutWf (execSeqChsq f s) :=
  issueWith_memWf h (outWf_ite (refuse_memWf h) (finishCur_memWf h))

theorem execChwt_memWf {f : SeqF} (h : s.memWf) : OutWf (execChwt f s) :=
  issueWith_memWf h (memWf_ite (refuse_memWf h) (pollFor_memWf h))

theorem tryChwt_memWf {f : SeqF} (h : s.memWf) : OptWf (tryChwt s p q f) := optWf_map (fun _ => finish_memWf h)

theorem haltChain_memWf {c detail extra : Nat} {cause : BitVec 8} (h : s.memWf) :
    (haltChain s p c cause detail extra).memWf := report_memWf (State.setChain_memWf h)

theorem chainFault_memWf {c : Nat} {e : EngFault} (h : s.memWf) : (chainFault s p c e).memWf :=
  memWf_ite (report_memWf (State.updChain_memWf h)) (haltChain_memWf h)

theorem memPlace_memWf {k : AccKind} (h : s.memWf) : (memPlace s p va n k).2.memWf := by
  unfold memPlace
  split
  all_goals
    rename_i e
    exact memWf_of_eq e (checkAddr_memWf h)

theorem place_memWf {sp : Bool} {base : BitVec 64} {off : Int} {k : AccKind} (h : s.memWf) :
    (place s p sp base off n k).2.memWf := sndWf_ite (sndWf_ite h (sndWf_ite h h)) (memPlace_memWf h)

theorem readPlace_memWf {a : ElPlace} (h : s.memWf) : (readPlace s p a n).2.memWf := by
  unfold readPlace
  split
  · exact h
  · exact sndWf_ite h (State.fixLine_memWf h)
  · exact sndWf_ite h (foldl_memWf (fun _ _ h1 => fixWord_memWf h1) h)

theorem writePlace_memWf {a : ElPlace} {v : Nat} {full : Bool} (h : s.memWf) : (writePlace s p a n v full).memWf := by
  unfold writePlace
  split
  · exact h
  · exact State.wrNat_memWf _ _ _ _ _ h
  · exact foldl_memWf (fun _ _ h1 => memWf_ite (serve_memWf (State.updSpad_memWf h1)) (State.updSpad_memWf h1)) h

theorem listIndex_memWf {e : Ent} {j : Nat} (h : s.memWf) : (listIndex s p e j).2.memWf := by
  unfold listIndex
  dsimp only
  split
  · rename_i e
    exact memWf_of_eq e (memPlace_memWf h)
  · rename_i e
    exact readPlace_memWf (memWf_of_eq e (memPlace_memWf h))

theorem elemOffsets_memWf {e : Ent} (h : s.memWf) : (elemOffsets s p e n).2.memWf :=
  sndWf_ite (by
    dsimp only
    split
    all_goals
      rename_i e
      exact memWf_of_eq e (listIndex_memWf h)) (sndWf_ite h h)

theorem listReach_memWf {e : Ent} (h : s.memWf) : (listReach s p e n).2.memWf := by
  induction n with
  | zero => exact h
  | succ n ih =>
    rw [listReach]
    split
    · rename_i e
      exact memWf_of_eq e ih
    rename_i e
    have h1 := memWf_of_eq e ih
    split
    all_goals
      rename_i e
      exact memWf_of_eq e (elemOffsets_memWf h1)

theorem destPlace_memWf {e : Ent} {d : Int} (h : s.memWf) : (destPlace s p e d).2.memWf :=
  sndWf_ite (place_memWf h) (sndWf_ite h h)

theorem placeTake_memWf {a : ElPlace} (h : s.memWf) : (placeTake s p a).2.memWf := by
  unfold placeTake
  split
  · exact engTake_memWf h
  · exact h

theorem readUnits_memWf {c : Nat} {e : Ent} (h : s.memWf) : (readUnits s p c e).2.memWf := by
  unfold readUnits
  extract_lets x total u
  refine sndWf_ite h (sndWf_ite (State.updChain_memWf h) ?_)
  split
  split
  · rename_i e
    exact memWf_of_eq e (elemOffsets_memWf h)
  rename_i e
  have h1 := memWf_of_eq e (elemOffsets_memWf h)
  extract_lets line
  refine sndWf_ite h1 ?_
  split
  · rename_i e
    exact memWf_of_eq e (place_memWf h1)
  rename_i e
  have h2 := memWf_of_eq e (place_memWf h1)
  extract_lets a
  split
  · rename_i e
    exact memWf_of_eq e (placeTake_memWf h2)
  rename_i e
  have h3 := memWf_of_eq e (placeTake_memWf h2)
  split
  rename_i e
  have h4 := memWf_of_eq e (foldl_sndWf (fun _ _ h4 => by
    split
    · exact h4
    split
    all_goals
      rename_i e
      exact memWf_of_eq e (readPlace_memWf h4)) h3)
  split
  · exact h4
  · exact State.updChain_memWf h4

theorem writeUnits_memWf {c w : Nat} {e : Ent} {off : Int} {l : List (Int × Nat)} (h : s.memWf) :
    (writeUnits s p c e off w l).2.memWf :=
  sndWf_ite h (by
    dsimp only
    split
    · rename_i e
      exact memWf_of_eq e (destPlace_memWf h)
    rename_i e
    have h1 := memWf_of_eq e (destPlace_memWf h)
    split
    · rename_i e
      exact memWf_of_eq e (placeTake_memWf h1)
    · rename_i e
      exact State.updChain_memWf (foldl_memWf (fun _ _ h3 => writePlace_memWf h3) (memWf_of_eq e (placeTake_memWf
        h1))))

theorem storeNext_memWf {c : Nat} {e : Ent} (h : s.memWf) : (storeNext s p c e).2.memWf :=
  sndWf_ite h (sndWf_ite (State.updChain_memWf h) (by
    dsimp only
    split
    · exact h
    split
    · exact h
    split
    · rename_i e
      exact State.updChain_memWf (memWf_of_eq e (writeUnits_memWf h))
    · exact writeUnits_memWf h))

theorem loadNext_memWf {c : Nat} {e : Ent} (h : s.memWf) : (loadNext s p c e).2.memWf := by
  unfold loadNext
  split
  · rename_i e
    exact memWf_of_eq e (readUnits_memWf h)
  · rename_i e
    exact memWf_of_eq e (readUnits_memWf h)
  · rename_i e
    exact State.updChain_memWf (memWf_of_eq e (readUnits_memWf h))

theorem oneAccess_memWf {load store : State → Except EngFault Bool × State} {c : Nat} (h : s.memWf)
    (hl : ∀ s, s.memWf → (load s).2.memWf) (hs : ∀ s, s.memWf → (store s).2.memWf) :
    (oneAccess load store p c s).memWf := by
  unfold oneAccess
  split
  rename_i first s1 e
  have h1 := memWf_of_eq e (freeChoice_memWf h)
  split
  rename_i a b e
  obtain ⟨ha, hb⟩ : (∀ s, s.memWf → (a s).2.memWf) ∧ ∀ s, s.memWf → (b s).2.memWf := by
    cases first
    · cases e
      exact ⟨hs, hl⟩
    · cases e
      exact ⟨hl, hs⟩
  split
  · rename_i e
    exact chainFault_memWf (memWf_of_eq e (ha _ h1))
  · rename_i e
    exact memWf_of_eq e (ha _ h1)
  · rename_i e
    have h2 := memWf_of_eq e (ha _ h1)
    split
    · rename_i e
      exact chainFault_memWf (memWf_of_eq e (hb _ h2))
    · rename_i e
      exact memWf_of_eq e (hb _ h2)

theorem elemsDone_memWf {c : Nat} {e : Ent} (h : s.memWf) : (elemsDone s p c e).memWf := by
  unfold elemsDone
  dsimp only
  exact memWf_ite (State.setChain_memWf (freeDelay_memWf h)) h

theorem engineTurn_memWf {c op : Nat} (h : s.memWf) : OutWf (engineTurn s p c op) := by
  unfold engineTurn
  split
  · exact h
  · exact outWf_ite (elemsDone_memWf (oneAccess_memWf h (fun _ h1 => loadNext_memWf h1) (fun _ h1 => storeNext_memWf
      h1))) h

theorem waitseqTry_memWf {c : Nat} {e : Ent} (h : s.memWf) : (waitseqTry s p c e).memWf := by
  unfold waitseqTry
  dsimp only
  split
  · rename_i e
    exact chainFault_memWf (memWf_of_eq e (place_memWf h))
  rename_i e
  have h1 := memWf_of_eq e (place_memWf h)
  split
  · rename_i e
    exact memWf_of_eq e (placeTake_memWf (freeChoice_memWf h1))
  rename_i e
  have h2 := memWf_of_eq e (placeTake_memWf (freeChoice_memWf h1))
  split
  · rename_i e
    exact chainFault_memWf (memWf_of_eq e (readPlace_memWf h2))
  · rename_i e
    exact State.updChain_memWf (memWf_of_eq e (readPlace_memWf h2))

theorem execWaitseq_memWf {p : Fin 32} {c : Fin 17} (h : s.memWf) : OutWf (execWaitseq p c s) := by
  unfold execWaitseq
  split
  · exact h
  · exact memWf_ite (waitseqTry_memWf h) h

theorem execWaitseqReread_memWf {p : Fin 32} {c : Fin 17} (h : s.memWf) : OutWf (execWaitseqReread p c s) := by
  unfold execWaitseqReread
  dsimp only
  split
  · exact memWf_ite (waitseqTry_memWf h) h
  · exact h

theorem drawRemote_memWf {y2 u : Nat} {e : Ent} (h : s.memWf) : (drawRemote s y2 e u).memWf := by
  unfold drawRemote
  split
  · exact h
  · exact foldl_memWf (fun _ _ h1 => by
      split
      rename_i e
      have h2 := memWf_of_eq e (freeWord_memWf h1)
      split
      · exact memWf_update h2
      · exact h2) h

theorem collLoad_memWf {y3 r : Nat} {e : Ent} (h : s.memWf) : (collLoad s p y3 r e).2.memWf := by
  unfold collLoad
  split
  · rename_i e
    exact memWf_of_eq e (readUnits_memWf h)
  · rename_i e
    exact memWf_of_eq e (readUnits_memWf h)
  rename_i e
  have h1 := memWf_of_eq e (readUnits_memWf h)
  split
  · exact memWf_update h1
  · exact h1

theorem collStore_memWf {y3 r : Nat} {e : Ent} (h : s.memWf) : (collStore s p y3 r e).2.memWf := by
  unfold collStore
  dsimp only
  split
  · exact h
  split
  · exact h
  split
  · exact State.updChain_memWf h
  split
  · exact foldl_memWf (fun _ _ h1 => drawRemote_memWf h1) h
  split
  · rename_i e
    exact State.updChain_memWf (memWf_of_eq e (writeUnits_memWf (foldl_memWf (fun _ _ h1 => drawRemote_memWf h1) h)))
  · exact writeUnits_memWf (foldl_memWf (fun _ _ h1 => drawRemote_memWf h1) h)

theorem collDone_memWf {y3 r : Nat} {e : Ent} (h : s.memWf) : (collDone s p y3 r e).memWf := by
  unfold collDone
  dsimp only
  split
  · exact h
  · exact memWf_ite (memWf_update (State.setChain_memWf (freeDelay_memWf h))) h

theorem collMismatch_memWf {y2 : Nat} {g : Group} (h : s.memWf) : (collMismatch s y2 g).memWf :=
  foldl_memWf (fun _ _ h1 => memWf_ite (haltChain_memWf h1) h1) (memWf_update h)

theorem collTurn_memWf {op : Nat} (h : s.memWf) : OutWf (collTurn s p op) := by
  unfold collTurn
  split
  · exact h
  refine outWf_ite h ?_
  extract_lets hd
  split
  · exact haltChain_memWf h
  split
  · exact haltChain_memWf h
  refine outWf_ite h (outWf_ite (collMismatch_memWf h) ?_)
  extract_lets far
  split
  rename_i s1 e1
  have h1 : s1.memWf := memWf_of_eq e1 (sndWf_ite (freeChoice_memWf h) h)
  split
  rename_i s2 e2
  have h2 : s2.memWf := memWf_of_eq e2 (sndWf_ite (freeChoice_memWf h1) h1)
  refine outWf_ite h2 (outWf_ite (collMismatch_memWf h2) ?_)
  exact collDone_memWf (oneAccess_memWf (memWf_ite h2 (memWf_update h2)) (fun _ => collLoad_memWf)
    (fun _ => collStore_memWf))

theorem execAreduce_memWf {p : Fin 32} {c : Fin 17} (h : s.memWf) : OutWf (execAreduce p c s) :=
  outWf_ite (collTurn_memWf h) h

theorem execRscat_memWf {p : Fin 32} {c : Fin 17} (h : s.memWf) : OutWf (execRscat p c s) :=
  outWf_ite (collTurn_memWf h) h

theorem execAgath_memWf {p : Fin 32} {c : Fin 17} (h : s.memWf) : OutWf (execAgath p c s) :=
  outWf_ite (collTurn_memWf h) h

theorem entryRead_memWf {c : Nat} {bs : List (BitVec 8)} (h : s.memWf) : (entryRead s p c bs).memWf := by
  unfold entryRead
  dsimp only
  split
  · exact haltChain_memWf h
  split
  · exact chainFault_memWf (sndWf_ite (listReach_memWf h) h)
  · exact State.updChain_memWf (memWf_update (sndWf_ite (listReach_memWf h) h))

theorem fetchWordAt_memWf (h : s.memWf) : (fetchWordAt s p va).2.memWf := by
  unfold fetchWordAt
  split
  · rename_i e
    exact memWf_of_eq e (memPlace_memWf h)
  · rename_i e
    exact readPlace_memWf (memWf_of_eq e (memPlace_memWf h))

theorem fetchLink_memWf {c : Nat} (h : s.memWf) : (fetchLink s p c).memWf := by
  unfold fetchLink
  dsimp only
  split
  · rename_i e
    exact chainFault_memWf (memWf_of_eq e (fetchWordAt_memWf (freeChoice_memWf h)))
  rename_i e
  have h1 := memWf_of_eq e (fetchWordAt_memWf (freeChoice_memWf h))
  split
  · exact memWf_ite (chainFault_memWf (State.updChain_memWf h1)) (State.updChain_memWf h1)
  · exact State.updChain_memWf h1

theorem fetchStamp_memWf {c : Nat} (h : s.memWf) : (fetchStamp s p c).memWf := by
  unfold fetchStamp
  dsimp only
  split
  · rename_i e
    exact chainFault_memWf (memWf_of_eq e (fetchWordAt_memWf h))
  · rename_i e
    have h1 := memWf_of_eq e (fetchWordAt_memWf h)
    exact memWf_ite (State.updChain_memWf (memWf_update h1)) (memWf_ite (haltChain_memWf h1) (State.updChain_memWf
      h1))

theorem fetchRest_memWf {c : Nat} (h : s.memWf) : (fetchRest s p c n).memWf := by
  unfold fetchRest
  dsimp only
  split
  · rename_i e
    exact chainFault_memWf (memWf_of_eq e (fetchWordAt_memWf h))
  · rename_i e
    have h1 := memWf_of_eq e (fetchWordAt_memWf h)
    exact memWf_ite (State.updChain_memWf h1) (entryRead_memWf (State.updChain_memWf h1))

theorem fetchStep_memWf {c : Nat} (h : s.memWf) : (fetchStep s p c).memWf :=
  memWf_ite (fetchLink_memWf h) (memWf_ite (chainFault_memWf h) (memWf_ite (fetchStamp_memWf h) (fetchRest_memWf h)))

theorem fetchGo_memWf {c : Nat} (h : s.memWf) : (fetchGo p c n s).memWf := by
  induction n generalizing s with
  | zero => exact h
  | succ n ih =>
    rw [fetchGo]
    exact memWf_ite (ih (fetchStep_memWf h)) h

theorem fetchEntry_memWf {c : Nat} (h : s.memWf) : (fetchEntry s p c).memWf := by
  unfold fetchEntry
  dsimp only
  exact fetchGo_memWf (freePart_memWf h)

theorem execStampReread_memWf {p : Fin 32} {c : Fin 17} (h : s.memWf) : OutWf (execStampReread p c s) :=
  outWf_ite (fetchEntry_memWf (State.updChain_memWf h)) h

theorem chargeEntry_memWf {c tb : Nat} (h : s.memWf) : (chargeEntry s p c tb).memWf := by
  unfold chargeEntry
  dsimp only
  split
  · exact State.updCtx_memWf h
  · exact chargeRegion_memWf h
  · exact State.updPad_memWf h
  · exact h

theorem entryToken_memWf {c : Nat} {e : Ent} (h : s.memWf) : (entryToken s p c e).memWf := by
  unfold entryToken
  dsimp only
  split
  · exact haltChain_memWf h
  · exact postMsg_memWf (freeDelay_memWf h)

theorem completeEntry_memWf {c : Nat} {e : Ent} (h : s.memWf) : (completeEntry s p c e).memWf := by
  unfold completeEntry
  extract_lets x
  split
  · rename_i e
    exact chainFault_memWf (memWf_of_eq e (memPlace_memWf h))
  rename_i e
  extract_lets s1 s2 s3 s4 s5
  have h3 : s3.memWf := chargeEntry_memWf (State.updChain_memWf (writePlace_memWf (memWf_of_eq e (memPlace_memWf h))))
  have h5 : s5.memWf := State.updChain_memWf (memWf_ite (setTag_memWf h3) h3)
  exact memWf_ite (entryToken_memWf h5) h5

theorem execChainEntryComplete_memWf {p : Fin 32} {c : Fin 17} (h : s.memWf) :
    OutWf (execChainEntryComplete p c s) := by
  unfold execChainEntryComplete
  split
  · exact h
  · exact outWf_ite (memWf_ite (completeEntry_memWf (freeChoice_memWf h)) (haltChain_memWf (freeChoice_memWf h)))
      (completeEntry_memWf h)

theorem execChainTranslationRetry_memWf {p : Fin 32} {c : Fin 17} (h : s.memWf) :
    OutWf (execChainTranslationRetry p c s) := memWf_ite (State.setChain_memWf h) h

theorem execRemoteWriteTimeout_memWf {p : Fin 32} {c : Fin 17} (h : s.memWf) :
    OutWf (execRemoteWriteTimeout p c s) := memWf_ite (haltChain_memWf h) h

theorem remoteGo_memWf {asid : BitVec 16} {bs : List (BitVec 8)} (h : s.memWf) : (remoteGo s p asid n va bs).memWf := by
  induction n generalizing s va bs with
  | zero => exact h
  | succ n ih =>
    rw [remoteGo]
    dsimp only
    split
    · exact h
    split
    · exact h
    split
    · exact h
    · exact ih (State.wrBytes_memWf _ _ _ _ h)

theorem execRemoteWriteReceive_memWf {src : BitVec 20} {part : Fin 32} {bytes : List (BitVec 8)} (h : s.memWf) :
    OutWf (execRemoteWriteReceive src part va bytes s) := by
  unfold execRemoteWriteReceive
  split
  · exact h
  · exact remoteGo_memWf h

/-! ### Tasks -/

theorem launchIn_memWf {f : SeqF} {k : Nat} {r : TaskRec} {e : TypeEnt} (h : s.memWf) :
    (launchIn s p q f k r e).memWf :=
  memWf_ite (precise_memWf (memWf_update h)) (memWf_ite (precise_memWf (memWf_update h)) (taskBid_memWf
    (State.setCtx_memWf (State.setTask_memWf (memWf_update h)))))

theorem execLnch_memWf {f : SeqF} (h : s.memWf) : OutWf (execLnch f s) :=
  issueWith_memWf h (outWf_ite (addrTrap_memWf h) (outWf_ite (addrTrap_memWf h) (by
    split
    · rename_i e
      exact addrTrap_memWf (memWf_of_eq e (readBytes_memWf h))
    rename_i e
    have h1 := memWf_of_eq e (readBytes_memWf h)
    split
    · exact refuse_memWf h1
    split
    · rename_i e
      exact addrTrap_memWf (memWf_of_eq e (readBytes_memWf h1))
    rename_i e
    have h3 := memWf_of_eq e (readBytes_memWf h1)
    split
    · exact refuse_memWf h3
    split
    · exact refuse_memWf h3
    split
    · exact launchIn_memWf h3
    · exact pollFor_memWf h3)))

theorem execLnchSlotAcquire_memWf {p : Fin 32} {q : Fin 4} (h : s.memWf) : OutWf (execLnchSlotAcquire p q s) := by
  unfold execLnchSlotAcquire
  dsimp only
  split
  · split
    · exact launchIn_memWf h
    · exact h
  · exact h

theorem taskIns_memWf {f : SeqF} {perm : Ctx → Bool} {body : Nat → State → State} (h : s.memWf)
    (hb : ∀ k, (body k s).memWf) : OutWf (taskIns f s perm body) := by
  unfold taskIns
  exact issueWith_memWf h (by
    split
    · exact hb _
    · exact refuseA_memWf h)

theorem taskCfgid_memWf {t : Task} (h : s.memWf) : (taskCfgid s p t).2.memWf := by
  unfold taskCfgid
  split
  · exact h
  · exact freeWord_memWf h

theorem execTskq_memWf {f : SeqF} (h : s.memWf) : OutWf (execTskq f s) :=
  issueWith_memWf h (by
    dsimp only
    split
    · exact refuseA_memWf h
    · exact finishCur_memWf h
    · exact finishCur_memWf (by
        split
        · exact h
        · exact h
        · exact h
        · exact taskCfgid_memWf h))

theorem execBrd_memWf {f : SeqF} (h : s.memWf) : OutWf (execBrd f s) := taskIns_memWf h (fun _ => finishCur_memWf h)

theorem addTask_memWf {k : Nat} {tb : Bool} {v : BitVec 64} (h : s.memWf) : (addTask s p k tb v).memWf :=
  State.updTask_memWf h

theorem execBspl_memWf {f : SeqF} (h : s.memWf) : OutWf (execBspl f s) :=
  taskIns_memWf h (fun _ => memWf_ite (refuseA_memWf h) (memWf_ite (precise_memWf h) (addTask_memWf (finishCur_memWf
    h))))

theorem execBtop_memWf {f : SeqF} (h : s.memWf) : OutWf (execBtop f s) :=
  outWf_ite (issueWith_memWf h (outWf_ite (refuse_memWf h) (State.updCtx_memWf (finishCur_memWf h)))) (taskIns_memWf h
    (fun _ => addTask_memWf (finishCur_memWf h)))

theorem tryYld_memWf (h : s.memWf) : OptWf (tryYld s p q) := optWf_ite (finish_memWf h) trivial

theorem execCont_memWf {f : SeqF} (h : s.memWf) : OutWf (execCont f s) :=
  issueWith_memWf h (outWf_ite (precise_memWf h) (finishCur_memWf h))

theorem traceOn_memWf {mode : Nat} {base size : BitVec 64} (h : s.memWf) : (traceOn s mode base size).memWf :=
  State.updPad_memWf h

theorem traceIns_memWf {f : SeqF} {on : Option Nat} {upd : State → State} (h : s.memWf) (hu : (upd s).memWf) :
    OutWf (traceIns f s on upd) := by
  unfold traceIns
  exact issueWith_memWf h (outWf_ite (refuse_memWf h) (finishCur_memWf (by
    split
    · exact traceOn_memWf h
    · exact hu)))

theorem execYielde_memWf {f : FabF} (h : s.memWf) : OutWf (execYielde f s) := by
  unfold execYielde
  dsimp only
  split
  · exact elementTrap_memWf h
  · exact outWf_ite (elementTrap_memWf h) (applyEffect_memWf (commitActing_memWf (freeNz_memWf (memWf_ite h
      (State.updRegion_memWf (State.setTask_memWf h))))))

theorem execBudgetAdderUpdate_memWf {p : Fin 32} {r : Fin 16} (h : s.memWf) : OutWf (execBudgetAdderUpdate p r s) := by
  unfold execBudgetAdderUpdate
  dsimp only
  split
  · exact by
      split
      · exact State.updTask_memWf (State.setRegion_memWf h)
      · exact memWf_ite (State.updCtx_memWf (State.setRegion_memWf h)) (State.setRegion_memWf h)
  · exact State.updRegion_memWf (State.updTask_memWf (by
      split
      · exact State.updTask_memWf (State.setRegion_memWf h)
      · exact memWf_ite (State.updCtx_memWf (State.setRegion_memWf h)) (State.setRegion_memWf h)))

theorem saveTask_memWf {k rid : Nat} (h : s.memWf) : (saveTask s p k rid).2.memWf := by
  unfold saveTask
  dsimp only
  split
  · rename_i e
    exact memWf_of_eq e (writeSome_memWf h)
  · rename_i e
    exact State.updTask_memWf (State.updRegion_memWf (regionTrap_memWf (memWf_of_eq e (writeSome_memWf h))))

theorem yieldTag_memWf {k : Nat} (h : s.memWf) : (yieldTag s p k).memWf := memWf_ite (setTag_memWf h) h

theorem execBudgetFreeze_memWf {p : Fin 32} {r : Fin 16} (h : s.memWf) : OutWf (execBudgetFreeze p r s) := by
  unfold execBudgetFreeze
  dsimp only
  split
  · exact h
  split
  · exact h
  split
  · exact State.updTask_memWf (regionTrap_memWf h)
  split
  · rename_i e
    exact memWf_of_eq e (saveTask_memWf h)
  · rename_i e
    exact yieldTag_memWf (State.updTask_memWf (markSaved_memWf (memWf_of_eq e (saveTask_memWf h))))

theorem execTaskResume_memWf {p : Fin 32} {k : Fin 64} (h : s.memWf) : OutWf (execTaskResume p k s) := by
  unfold execTaskResume
  dsimp only
  split
  · exact h
  split
  · exact h
  split
  · rename_i e
    exact dispatchEvent_memWf (State.updTask_memWf (memWf_of_eq e (restoreRegion_memWf h)))
  · rename_i e
    exact report_memWf (State.updTask_memWf (memWf_of_eq e (restoreRegion_memWf h)))

theorem execYieldRelease_memWf {p : Fin 32} {k : Fin 64} (h : s.memWf) : OutWf (execYieldRelease p k s) := by
  unfold execYieldRelease
  dsimp only
  split
  · exact h
  split
  · exact h
  split
  · rename_i e
    exact memWf_of_eq e (saveTask_memWf h)
  · rename_i e
    exact taskBid_memWf (yieldTag_memWf (State.updTask_memWf (freeRegion_memWf (dispatchEvent_memWf (memWf_of_eq e
      (saveTask_memWf h))))))

theorem execTaskRetire_memWf {p : Fin 32} {k : Fin 64} (h : s.memWf) : OutWf (execTaskRetire p k s) := by
  unfold execTaskRetire
  dsimp only
  split
  · exact h
  · exact outWf_ite h (setTag_memWf (State.setTask_memWf (fuse_memWf (freeRegion_memWf (returnBudget_memWf h)))))

/-! ### The Shape Journal's records and objects -/

theorem State.updJr_memWf {f : Journal → Journal} (h : s.memWf) : (s.updJr n f).memWf := State.updPart_memWf h

theorem flushArea_memWf (h : s.memWf) : (flushArea s n).memWf := by
  unfold flushArea
  split
  · exact h
  · exact State.updJr_memWf (State.wrBytes_memWf _ _ _ _ h)

theorem areaPut_memWf {r : JRec} (h : s.memWf) : (areaPut s n r).memWf := by
  unfold areaPut
  dsimp only
  split
  · exact flushArea_memWf h
  split
  · rename_i e
    have h2 := memWf_of_eq e (placeVA_memWf (flushArea_memWf h))
    exact memWf_ite (State.updJr_memWf (State.wrBytes_memWf _ _ _ _ (freePart_memWf h2))) (State.wrBytes_memWf _ _ _ _
      (freePart_memWf h2))
  · rename_i e
    exact memWf_of_eq e (placeVA_memWf (flushArea_memWf h))
  rename_i e
  have h2 := memWf_of_eq e (placeVA_memWf (flushArea_memWf h))
  split
  · exact State.updJr_memWf h2
  · exact report_memWf (State.updJr_memWf h2)

theorem areaWrite_memWf {r : JRec} (h : s.memWf) : (areaWrite s n r).memWf := memWf_ite h (areaPut_memWf h)

theorem subCopy_memWf {bytes : List (BitVec 8)} {kind : BitVec 4} {i : Nat} (h : s.memWf) :
    (subCopy s n bytes kind i).memWf :=
  memWf_ite h (by
    dsimp only
    split
    · rename_i e
      exact State.updJr_memWf (memWf_of_eq e (readBytes_memWf h))
    rename_i e
    have h1 := memWf_of_eq e (readBytes_memWf h)
    split
    · exact State.updJr_memWf (writeBytes_memWf h1)
    split
    · rename_i e
      exact State.updJr_memWf (memWf_of_eq e (writeBytes_memWf h1))
    rename_i e
    have h3 := memWf_of_eq e (writeBytes_memWf h1)
    split
    · rename_i e
      exact State.updJr_memWf (memWf_of_eq e (writeBytes_memWf (flushArea_memWf h3)))
    · rename_i e
      exact setTag_memWf (memWf_of_eq e (writeBytes_memWf (flushArea_memWf h3))))

theorem putRec_memWf {r : JRec} (h : s.memWf) : (putRec s n r).memWf :=
  foldl_memWf (fun _ _ h1 => subCopy_memWf h1) (areaWrite_memWf (State.updJr_memWf h))

theorem appendRec_memWf {r : JRec} (h : s.memWf) : (appendRec s n r).memWf := by
  unfold appendRec
  exact putRec_memWf (State.updJr_memWf h)

theorem moveRec_memWf {seq : Nat} {st : BitVec 4} {reason : BitVec 8} {upd : JRec → JRec} (h : s.memWf) :
    (moveRec s n seq st reason upd).memWf := by
  unfold moveRec
  split
  · exact h
  · exact putRec_memWf h

theorem rejectDeps_memWf (h : s.memWf) : (rejectDeps s n).memWf :=
  foldl_memWf (fun _ _ h1 => memWf_ite (moveRec_memWf h1) h1) h

theorem rejectRec_memWf {seq : Nat} {reason : BitVec 8} (h : s.memWf) : (rejectRec s n seq reason).memWf :=
  rejectDeps_memWf (moveRec_memWf h)

theorem readTable_memWf {mask : BitVec 32} {addr seed : BitVec 64} (h : s.memWf) :
    (readTable s p mask addr seed).2.memWf :=
  sndWf_ite h (by
    dsimp only
    split
    · rename_i e
      exact memWf_of_eq e (readBytes_memWf h)
    rename_i e
    have h1 := memWf_of_eq e (readBytes_memWf h)
    split
    · exact h1
    split
    · rename_i e
      exact memWf_of_eq e (readBytes_memWf h1)
    · rename_i e
      have h3 := memWf_of_eq e (readBytes_memWf h1)
      exact sndWf_ite h3 h3)

theorem propose_memWf {idx : Nat} {after : BitVec 64} {deps : List Nat} {origin : BitVec 2} (h : s.memWf) :
    (propose s n idx after deps origin).2.memWf := by
  unfold propose
  extract_lets j
  split
  · exact h
  · refine sndWf_ite h (sndWf_ite h (sndWf_ite h (sndWf_ite h (sndWf_ite h ?_))))
    extract_lets s1
    have h1 : s1.memWf := appendRec_memWf h
    clear_value s1
    exact h1

theorem pagesOk_memWf {k : AccKind} {bytes : Nat} (h : s.memWf) : (pagesOk s p k va bytes).2.memWf :=
  foldl_sndWf (fun _ _ h1 => translate_memWf h1) h

theorem rangeOk_memWf {bytes : Nat} (h : s.memWf) : (rangeOk s p va bytes).2.memWf := pagesOk_memWf (pagesOk_memWf h)

theorem saveOk_memWf {bytes : Nat} (h : s.memWf) : (saveOk s p va bytes).2.memWf :=
  sndWf_ite (pagesOk_memWf h) (by
    split
    all_goals
      rename_i e
      exact memWf_of_eq e (placeVA_memWf (pagesOk_memWf h)))

theorem convElem_memWf {d : Desc} {fromT toT k : Nat} {seed : BitVec 64} {a : ConvRes × State} (h : a.2.memWf) :
    (convElem n d fromT toT seed k a).2.memWf := by
  unfold convElem
  dsimp only
  split
  · split
    · rename_i e
      exact memWf_of_eq e (translate_memWf h)
    rename_i e
    have h2 := memWf_of_eq e (translate_memWf h)
    split
    · rename_i e
      exact memWf_of_eq e (translate_memWf (by
        split
        · exact report_memWf (freeWord_memWf (memWf_ite h2 (State.fixLine_memWf h2)))
        · exact memWf_ite h2 (State.fixLine_memWf h2)))
    · rename_i e
      exact State.wrNat_memWf _ _ _ _ _ (memWf_of_eq e (translate_memWf (by
        split
        · exact report_memWf (freeWord_memWf (memWf_ite h2 (State.fixLine_memWf h2)))
        · exact memWf_ite h2 (State.fixLine_memWf h2))))
  · exact h

theorem liveOf_memWf {idx : Nat} {d : Desc} (h : s.memWf) : (liveOf s n idx d).2.memWf := by
  unfold liveOf
  dsimp only
  split
  · rename_i e
    exact memWf_of_eq e (readBytes_memWf h)
  · rename_i e
    exact freeWord_memWf (memWf_of_eq e (readBytes_memWf h))

theorem convert_memWf {idx toT seq : Nat} {d : Desc} (h : s.memWf) : (convert s n idx d toT seq).2.memWf :=
  foldl_sndWf (fun _ _ h1 => convElem_memWf h1) (liveOf_memWf h)

theorem patchList_memWf (h : s.memWf) : (patchList s p va).2.memWf := by
  unfold patchList
  dsimp only
  split
  · rename_i e
    exact memWf_of_eq e (readBytes_memWf h)
  rename_i e
  have h1 := memWf_of_eq e (readBytes_memWf h)
  split
  · exact h1
  split
  all_goals
    rename_i e
    exact memWf_of_eq e (readBytes_memWf h1)

theorem patchWord_memWf {slot i : Nat} {w : BitVec 64} (h : s.memWf) : (patchWord s p t slot i w).memWf := by
  unfold patchWord
  dsimp only
  split
  · exact State.updTile_memWf h
  split
  · exact State.updTile_memWf h
  · exact State.updRegion_memWf (State.updTile_memWf h)

theorem applyPatch_memWf {es : List (BitVec 64 × BitVec 64)} (h : s.memWf) : OptWf (applyPatch s p es) :=
  optWf_ite trivial (optWf_ite (foldl_memWf (fun _ _ h1 => patchWord_memWf h1) h) trivial)

theorem routeTo_memWf {d : Desc} {v : Nat} (h : s.memWf) : (routeTo s d v).2.memWf := by
  unfold routeTo
  dsimp only
  split
  all_goals
    rename_i e
    exact memWf_of_eq e (patchList_memWf h)

theorem areaOf_memWf {k : Nat} (h : s.memWf) : (areaOf s p k).2.memWf :=
  sndWf_ite h (by
    split
    · rename_i e
      exact memWf_of_eq e (readBytes_memWf h)
    rename_i e
    have h1 := memWf_of_eq e (readBytes_memWf h)
    split
    all_goals
      rename_i e
      exact memWf_of_eq e (readBytes_memWf h1))

theorem partSave_memWf {k fac : Nat} (h : s.memWf) : (partSave s p k fac).2.memWf :=
  sndWf_ite h (by
    split
    · rename_i e
      exact memWf_of_eq e (areaOf_memWf h)
    rename_i e
    have h1 := memWf_of_eq e (areaOf_memWf h)
    split
    all_goals
      rename_i e
      exact memWf_of_eq e (writeBytes_memWf h1))

theorem partRelease_memWf {k : Nat} (h : s.memWf) : (partRelease s p k).memWf := by
  unfold partRelease
  extract_lets tk
  split
  · exact h
  extract_lets r s1 s2 s3
  have h3 : s3.memWf := State.updTask_memWf (freeRegion_memWf (dispatchEvent_memWf h))
  exact memWf_ite (yieldTag_memWf h3) h3

theorem moveTask_memWf {k : Nat} {alt : BitVec 64} (h : s.memWf) : (moveTask s p k alt).2.memWf :=
  sndWf_ite h (by
    dsimp only
    split
    · rename_i e
      exact memWf_of_eq e (partSave_memWf h)
    · rename_i e
      exact taskBid_memWf (State.updTask_memWf (dropBids_memWf (partRelease_memWf (memWf_of_eq e (partSave_memWf
        h))))))

theorem setPolicy_memWf {d : Desc} {v : Nat} (h : s.memWf) : (setPolicy s d v).memWf :=
  foldl_memWf (fun _ _ h1 => memWf_ite (State.updPad_memWf h1) (memWf_ite (State.updPad_memWf h1) (memWf_ite
    (State.updPad_memWf h1) (memWf_ite (changeFreq_memWf h1) (foldl_memWf (fun _ _ h2 => memWf_ite (foldl_memWf (fun _
    _ h3 => State.updTile_memWf h3) h2) h2) h1))))) h

theorem canAct_memWf {idx v : Nat} (h : s.memWf) : (canAct s n idx v).2.memWf := by
  unfold canAct
  dsimp only
  split
  · exact h
  split
  · exact rangeOk_memWf h
  split
  · split
    all_goals
      rename_i e
      exact memWf_of_eq e (routeTo_memWf h)
  · exact sndWf_ite (foldl_sndWf (fun _ _ h1 => sndWf_ite h1 (saveOk_memWf h1)) h) h

theorem setCur_memWf {idx v : Nat} (h : s.memWf) : (setCur s n idx v).memWf := writeBytes_memWf (State.updJr_memWf h)

theorem routeTo_fst_memWf {d : Desc} {v : Nat} (h : s.memWf) : OptWf (routeTo s d v).1 := by
  unfold routeTo
  extract_lets p
  split
  · trivial
  · rename_i e
    exact applyPatch_memWf (memWf_of_eq e (patchList_memWf h))

theorem perform_memWf {idx v seq : Nat} (h : s.memWf) : (perform s n idx v seq).2.memWf := by
  unfold perform
  split
  · exact h
  split
  rename_i e
  refine setCur_memWf (memWf_of_eq e ?_)
  refine sndWf_ite (convert_memWf h) (sndWf_ite ?_ (sndWf_ite (foldl_sndWf (fun _ _ h1 => ?_) h) (setPolicy_memWf h)))
  · split
    · rename_i e
      exact memWf_of_some (congrArg Prod.fst e) (routeTo_fst_memWf h)
    · rename_i e
      exact memWf_of_eq e (routeTo_memWf h)
  · split
    rename_i e
    exact memWf_of_eq e (moveTask_memWf h1)

theorem act_memWf {idx v seq : Nat} (h : s.memWf) : (act s n idx v seq).2.memWf := by
  unfold act
  split
  · rename_i e
    exact perform_memWf (memWf_of_eq e (canAct_memWf h))
  · rename_i e
    exact memWf_of_eq e (canAct_memWf h)

theorem pauseMask_memWf {m : BitVec 32} (h : s.memWf) : (pauseMask s m).memWf :=
  foldl_memWf (fun _ _ h1 => State.updPad_memWf h1) h

theorem resumeMask_memWf {m : BitVec 32} (h : s.memWf) : (resumeMask s m).memWf :=
  foldl_memWf (fun _ _ h1 => State.updPad_memWf h1) h

theorem shapeStart_memWf {req : ShapeReq} {m : BitVec 32} {srcs : List (Nat × Nat × Nat)} (h : s.memWf) :
    (shapeStart s n req m srcs).memWf := memWf_ite (pauseMask_memWf (State.updJr_memWf h)) (State.updJr_memWf h)

theorem countWindows_memWf (h : s.memWf) : (countWindows s n).memWf :=
  foldl_memWf (fun _ _ h1 => State.updPad_memWf h1) (State.updJr_memWf h)

theorem baseOf_memWf {idx : Nat} (h : s.memWf) : (baseOf s n idx).2.memWf := sndWf_ite h (freeWord_memWf h)

theorem endTrial_memWf (h : s.memWf) : (endTrial s n).memWf := State.updJr_memWf h

theorem applyNow_memWf {seq : Nat} (h : s.memWf) : (applyNow s n seq).memWf := by
  unfold applyNow
  dsimp only
  split
  · exact h
  split
  · rename_i e
    exact rejectRec_memWf (memWf_of_eq e (act_memWf h))
  · rename_i e
    exact State.updJr_memWf (moveRec_memWf (baseOf_memWf (memWf_of_eq e (act_memWf h))))

theorem refusal_memWf {l : List JRec} (h : s.memWf) : (refusal s n l).2.memWf := by
  induction l generalizing s with
  | nil => exact h
  | cons m l ih =>
    rw [refusal]
    split
    · exact h
    split
    · rename_i e
      exact memWf_of_eq e (canAct_memWf h)
    · rename_i e
      exact ih (memWf_of_eq e (canAct_memWf h))

theorem refuseRevert_memWf {t m : BitVec 48} {inacc : Bool} {origin : BitVec 2} {reason : BitVec 8} (h : s.memWf) :
    (refuseRevert s n t m inacc origin reason).2.memWf := by
  unfold refuseRevert
  rcases e : freeWord s with ⟨w, s1⟩
  exact memWf_pair (appendRec_memWf (memWf_of_eq e (freeWord_memWf h)))

theorem revert_memWf {t : JRec} {origin : BitVec 2} {reason : BitVec 8} {by_ : Option (Nat × Nat)} (h : s.memWf) :
    (revert s n t origin reason by_).2.memWf := by
  unfold revert
  extract_lets ms
  split
  · rename_i m inacc s1 e
    rcases e1 : refuseRevert s1 n t.seq m inacc origin reason with ⟨seq, s2⟩
    exact memWf_of_eq e1 (refuseRevert_memWf (memWf_of_eq e (refusal_memWf h)))
  · rename_i e
    exact shapeStart_memWf (memWf_of_eq e (refusal_memWf h))

theorem leaveTrial_memWf {seqs : List (BitVec 48)} {reason : BitVec 8} (h : s.memWf) :
    (leaveTrial s n seqs reason).memWf := by
  unfold leaveTrial
  split
  · exact h
  · exact memWf_ite (endTrial_memWf (foldl_memWf (fun _ _ h1 => moveRec_memWf h1) h)) h

theorem undoOne_memWf {seq : BitVec 48} {origin : BitVec 2} {reason : BitVec 8} {last : Bool} (h : s.memWf) :
    (undoOne s n seq origin reason last).memWf := by
  unfold undoOne
  split
  · exact h
  · exact moveRec_memWf (appendRec_memWf (perform_memWf h))

theorem revertNow_memWf {seqs : List (BitVec 48)} {origin : BitVec 2} {reason : BitVec 8} (h : s.memWf) :
    (revertNow s n seqs origin reason).memWf :=
  rejectDeps_memWf (foldl_memWf (fun _ _ h1 => memWf_ite (moveRec_memWf h1) h1) (foldl_memWf (fun _ _ h1 =>
    undoOne_memWf h1) (leaveTrial_memWf h)))

theorem verdictRefused_memWf {seqs : List (BitVec 48)} {refused : BitVec 48} {inacc : Bool} (h : s.memWf) :
    (verdictRefused s n seqs refused inacc).memWf := by
  unfold verdictRefused
  dsimp only
  split
  · exact foldl_memWf (fun _ _ h1 => moveRec_memWf h1) h
  · exact report_memWf (foldl_memWf (fun _ _ h1 => moveRec_memWf h1) h)

theorem recordRetired_memWf {row col : Nat} (h : s.memWf) : (recordRetired s p row col).memWf :=
  memWf_ite h (appendRec_memWf (freeWord_memWf (freeWord_memWf (freeWord_memWf h))))

/-! ### Journal instructions and the shape controller -/

theorem jDone_memWf {f : SeqF} {tb code : Nat} {strict : Bool} {seq refused : BitVec 48} (h : s.memWf) :
    (jDone s p q f tb strict code seq refused).memWf := memWf_ite (report_memWf (finish_memWf h)) (finish_memWf h)

theorem areaIns_memWf {f : SeqF} {perm : Ctx → Bool} {tb : Ctx → Nat} {body : Nat → State → State} (h : s.memWf)
    (hb : ∀ n, (body n s).memWf) : OutWf (areaIns f s perm tb body) := by
  unfold areaIns
  exact issueWith_memWf h (memWf_ite (jDone_memWf h) (hb _))

theorem asCtx_memWf (h : s.memWf) : (asCtx s p q).memWf := memWf_update h

theorem execJsub_memWf {f : SeqF} (h : s.memWf) : OutWf (execJsub f s) :=
  issueWith_memWf h (outWf_ite (addrTrap_memWf h) (outWf_ite (refuse_memWf h) (by
    split
    · rename_i e
      exact addrTrap_memWf (memWf_of_eq e (readBytes_memWf h))
    rename_i e
    have h1 := memWf_of_eq e (readBytes_memWf h)
    split
    · exact outWf_ite (refuse_memWf h1) (outWf_ite (refuse_memWf h1) (refuse_memWf h1))
    · exact outWf_ite (refuse_memWf h1) (outWf_ite (refuse_memWf h1) (finishCur_memWf (State.updJr_memWf h1))))))

theorem execJuns_memWf {f : SeqF} (h : s.memWf) : OutWf (execJuns f s) :=
  issueWith_memWf h (outWf_ite (refuseA_memWf h) (finishCur_memWf (State.updJr_memWf h)))

theorem tryJpin_memWf {f : SeqF} (h : s.memWf) : OptWf (tryJpin s p q f) :=
  optWf_ite trivial (optWf_ite (jDone_memWf h) (jDone_memWf (State.updJr_memWf (appendRec_memWf (rejectDeps_memWf
    (foldl_memWf (fun _ _ h1 => memWf_ite (moveRec_memWf h1) h1) h))))))

theorem execJpin_memWf {f : SeqF} (h : s.memWf) : OutWf (execJpin f s) :=
  areaIns_memWf h (fun _ => tryOrPoll_memWf h (tryJpin_memWf h))

theorem execJupn_memWf {f : SeqF} (h : s.memWf) : OutWf (execJupn f s) :=
  areaIns_memWf h (fun _ => by
    dsimp only
    split
    · exact jDone_memWf h
    · exact memWf_ite (refuseA_memWf h) (jDone_memWf (State.updJr_memWf (appendRec_memWf h))))

theorem execJrd_memWf {f : SeqF} (h : s.memWf) : OutWf (execJrd f s) :=
  areaIns_memWf h (fun _ => memWf_ite (refuseA_memWf (flushArea_memWf h)) (memWf_ite (addrTrap_memWf (flushArea_memWf
    h)) (memWf_ite (refuseA_memWf (flushArea_memWf h)) (by
    split
    · rename_i e
      exact addrTrap_memWf (memWf_of_eq e (readBytes_memWf (flushArea_memWf h)))
    rename_i e
    have h1 := memWf_of_eq e (readBytes_memWf (flushArea_memWf h))
    split
    · rename_i e
      exact addrTrap_memWf (memWf_of_eq e (writeBytes_memWf h1))
    · rename_i e
      exact jDone_memWf (memWf_of_eq e (writeBytes_memWf h1))))))

theorem execJprp_memWf {f : SeqF} (h : s.memWf) : OutWf (execJprp f s) :=
  areaIns_memWf h (fun _ => memWf_ite (addrTrap_memWf h) (memWf_ite (refuse_memWf h) (by
    split
    · rename_i e
      exact addrTrap_memWf (memWf_of_eq e (readBytes_memWf h))
    rename_i e
    have h1 := memWf_of_eq e (readBytes_memWf h)
    split
    · exact refuse_memWf h1
    split
    · rename_i e
      exact refuse_memWf (memWf_of_eq e (propose_memWf h1))
    · rename_i e
      exact jDone_memWf (memWf_of_eq e (propose_memWf h1))
    · rename_i e
      exact jDone_memWf (memWf_of_eq e (propose_memWf h1)))))

theorem refusedCode_memWf (h : s.memWf) : (refusedCode s).2.memWf := freeWord_memWf h

theorem revDone_memWf {f : SeqF} {refused : BitVec 48} {inacc : Bool} (h : s.memWf) :
    (revDone s p q f refused inacc).memWf := jDone_memWf (sndWf_ite (refusedCode_memWf h) h)

theorem tryJrev_memWf {f : SeqF} {stage : Nat} (h : s.memWf) : OptWf (tryJrev s p q f stage) :=
  optWf_ite trivial (optWf_ite trivial (by
    split
    · exact refuseA_memWf (asCtx_memWf h)
    split
    · exact refuseA_memWf (asCtx_memWf h)
    split
    · exact jDone_memWf (asCtx_memWf h)
    split
    · exact jDone_memWf (rejectRec_memWf (asCtx_memWf h))
    split
    · exact trivial
    split
    · rename_i e
      exact revDone_memWf (memWf_of_eq e (revert_memWf (asCtx_memWf h)))
    · rename_i e
      exact State.updCtx_memWf (memWf_of_eq e (revert_memWf (asCtx_memWf h)))))

theorem execJrev_memWf {f : SeqF} (h : s.memWf) : OutWf (execJrev f s) :=
  areaIns_memWf h (fun _ => tryOrPoll_memWf h (tryJrev_memWf h))

theorem replayEnd_memWf {map : List (BitVec 48 × BitVec 48)} {by_ : Nat × Nat} (h : s.memWf) :
    (replayEnd s n map by_).memWf := by
  unfold replayEnd
  dsimp only
  split
  · exact jDone_memWf (State.unissue_memWf (appendRec_memWf (freeWord_memWf h)))
  · exact appendRec_memWf (freeWord_memWf h)

theorem replayNext_memWf {recs : List JRec} {map : List (BitVec 48 × BitVec 48)} {by_ : Nat × Nat} (h : s.memWf) :
    (replayNext s n recs map by_).memWf := by
  unfold replayNext
  split
  · exact replayEnd_memWf (State.updJr_memWf h)
  · exact shapeStart_memWf h

theorem tryJrpl_memWf {f : SeqF} {stage : Nat} (h : s.memWf) : OptWf (tryJrpl s p q f stage) :=
  optWf_ite trivial (optWf_ite (addrTrap_memWf (asCtx_memWf h)) (optWf_ite (refuse_memWf (asCtx_memWf h)) (optWf_ite
    (jDone_memWf (asCtx_memWf h)) (by
    dsimp only
    split
    · rename_i e
      exact addrTrap_memWf (memWf_of_eq e (readBytes_memWf (asCtx_memWf h)))
    rename_i e
    have h1 := memWf_of_eq e (readBytes_memWf (asCtx_memWf h))
    split
    · exact jDone_memWf h1
    · exact optWf_ite (jDone_memWf h1) (optWf_ite trivial (State.unissue_memWf (replayNext_memWf (State.reissue_memWf
        (State.updCtx_memWf h1)))))))))

theorem execJrpl_memWf {f : SeqF} (h : s.memWf) : OutWf (execJrpl f s) :=
  areaIns_memWf h (fun _ => tryOrPoll_memWf h (tryJrpl_memWf h))

theorem tryJbase_memWf {f : SeqF} (h : s.memWf) : OptWf (tryJbase s p q f) :=
  optWf_ite trivial (optWf_ite (refuse_memWf (asCtx_memWf h)) (by
    split
    · rename_i e
      exact addrTrap_memWf (memWf_of_eq e (checkAddr_memWf (asCtx_memWf h)))
    · rename_i e
      have h1 := memWf_of_eq e (checkAddr_memWf (asCtx_memWf h))
      exact optWf_ite (jDone_memWf h1) (jDone_memWf (memWf_ite (State.updJr_memWf h1) (foldl_memWf (fun _ _ h2 =>
        areaPut_memWf h2) (State.updJr_memWf h1))))))

theorem tryJver_memWf {f : SeqF} (h : s.memWf) : OptWf (tryJver s p q f) :=
  optWf_ite trivial (finish_memWf (flushArea_memWf h))

theorem shapeAct_memWf {z : ShapePt} (h : s.memWf) : (shapeAct s n z).memWf := by
  unfold shapeAct
  split
  · exact resumeMask_memWf (State.updJr_memWf (applyNow_memWf h))
  · rename_i seqs origin reason by_ _
    extract_lets wait done
    have hdone : ∀ s, s.memWf → (done s).memWf := fun _ h1 => resumeMask_memWf (State.updJr_memWf h1)
    clear_value done
    split
    · rename_i m inacc s1 e
      have h1 := memWf_of_eq e (refusal_memWf h)
      split
      rename_i s2 e2
      have h2 := hdone s2 (memWf_of_eq e2 (refuseRevert_memWf h1))
      clear_value wait
      split
      · exact revDone_memWf (State.unissue_memWf h2)
      · exact memWf_ite (verdictRefused_memWf h2) h2
    · rename_i s1 e
      have h1 := hdone (revertNow s1 n seqs origin reason) (revertNow_memWf (memWf_of_eq e (refusal_memWf h)))
      clear_value wait
      dsimp only
      split
      · exact jDone_memWf (State.unissue_memWf (h1))
      · exact h1
  · split
    · exact replayNext_memWf (resumeMask_memWf h)
    · rename_i map by_ r rest
      extract_lets u deps s1
      have h1 : s1.memWf := appendRec_memWf h
      clear_value s1
      split
      rename_i s2 e
      refine replayNext_memWf (resumeMask_memWf (memWf_of_eq e ?_))
      split
      · rename_i e1
        dsimp only
        exact moveRec_memWf (memWf_of_eq e1 (act_memWf h1))
      · rename_i e1
        dsimp only
        exact rejectRec_memWf (memWf_of_eq e1 (act_memWf h1))

theorem execShapePoint_memWf {p : Fin 32} (h : s.memWf) : OutWf (execShapePoint p s) :=
  outWf_ite h (by
    split
    · split
      · exact shapeStart_memWf h
      · exact rejectRec_memWf h
      · exact h
    · exact outWf_ite (shapeStart_memWf h) (outWf_ite (pauseMask_memWf (State.updJr_memWf h)) (shapeAct_memWf h)))

theorem execBaselineWindowEnd_memWf {p : Fin 32} (h : s.memWf) : OutWf (execBaselineWindowEnd p s) :=
  outWf_ite h (foldl_memWf (fun _ _ h1 => State.updJr_memWf h1) h)

theorem execTrialWindowEnd_memWf {p : Fin 32} (h : s.memWf) : OutWf (execTrialWindowEnd p s) := by
  unfold execTrialWindowEnd
  dsimp only
  split
  · exact State.updJr_memWf h
  · exact h

theorem execTrialVerdict_memWf {p : Fin 32} (h : s.memWf) : OutWf (execTrialVerdict p s) := by
  unfold execTrialVerdict
  dsimp only
  split
  · split
    · exact foldl_memWf (fun _ _ h1 => moveRec_memWf h1) (State.updJr_memWf (endTrial_memWf h))
    split
    · exact State.updJr_memWf (endTrial_memWf h)
    split
    · rename_i e
      exact memWf_of_eq e (revert_memWf (State.updJr_memWf (endTrial_memWf h)))
    · rename_i e
      exact verdictRefused_memWf (memWf_of_eq e (revert_memWf (State.updJr_memWf (endTrial_memWf h))))
  · exact h

theorem execTunerPropose_memWf {p : Fin 32} (h : s.memWf) : OutWf (execTunerPropose p s) := by
  unfold execTunerPropose
  dsimp only
  split
  · split
    · exact h
    · exact State.updJr_memWf (propose_memWf h)
  · exact h

/-! ### Sequencer control -/

theorem branchTo_memWf {target : BitVec 64} {upd : Ctx → Ctx} (h : s.memWf) : OutWf (branchTo s target upd) :=
  outWf_ite (precise_memWf h) (State.setCurCtx_memWf h)

theorem tagWait_memWf {f : SeqF} {all : Bool} (h : s.memWf) : OutWf (tagWait f s all) :=
  issueWith_memWf h (State.setCurCtx_memWf h)

theorem execTagWaitComplete_memWf {p : Fin 32} {q : Fin 4} (h : s.memWf) : OutWf (execTagWaitComplete p q s) := by
  unfold execTagWaitComplete
  dsimp only
  split
  · exact outWf_ite (State.setCtx_memWf h) h
  · exact h

theorem execWake_memWf {f : SeqF} (h : s.memWf) : OutWf (execWake f s) :=
  issueWith_memWf h (foldl_memWf (fun _ _ h1 => memWf_ite (wakeCtx_memWf h1) h1) (State.setCurCtx_memWf h))

theorem commitWfe_memWf (h : s.memWf) : (commitWfe s p q).memWf := by
  unfold commitWfe
  dsimp only
  split
  · exact memWf_ite (State.setCtx_memWf h) h
  · exact h

theorem execWfeWake_memWf {p : Fin 32} {q : Fin 4} (h : s.memWf) : OutWf (execWfeWake p q s) :=
  outWf_ite (by
    split
    · exact State.setCtx_memWf h
    · exact State.updPad_memWf (State.setCtx_memWf h)
    · exact h) h

theorem execPaddockGateF3_memWf {p : Fin 32} (h : s.memWf) : OutWf (execPaddockGateF3 p s) :=
  memWf_ite (State.setPad_memWf h) h

theorem execContextBudgetTrap_memWf (h : s.memWf) : OutWf (execContextBudgetTrap s) := outWf_ite (precise_memWf h) h

/-! ### Traps and their delivery -/

theorem trapRegion_memWf {rid : Nat} (h : s.memWf) : (trapRegion s p rid).memWf := by
  unfold trapRegion
  dsimp only
  split
  · exact h
  · exact reportWith_memWf (State.updRegion_memWf h)

theorem readyReport_memWf {r : Report} (h : s.memWf) : (readyReport s p q r).2.memWf := by
  unfold readyReport
  dsimp only
  split
  · split
    · split
      · exact memWf_ite (State.updTask_memWf h) h
      · exact h
    split
    all_goals
      rename_i e
      have h3 := memWf_of_eq e (writeSome_memWf h)
      split
      · exact memWf_ite (State.updTask_memWf h3) h3
      · exact h3
  · exact h

theorem fireTrap_memWf {opc cause : BitVec 8} {f : FabF} (h : s.memWf) : OutWf (fireTrap opc f s cause) :=
  fabricTrap_memWf (applyEffect_memWf (freeNz_memWf h))

theorem leaveWait_memWf (h : s.memWf) : (leaveWait s p q).memWf :=
  State.updCtx_memWf (by
    split
    · exact State.updPad_memWf (withdrawBids_memWf h)
    · exact withdrawBids_memWf h)

theorem execAsyncTrapDelivery_memWf {p : Fin 32} {q : Fin 4} (h : s.memWf) : OutWf (execAsyncTrapDelivery p q s) :=
  outWf_ite h (by
    dsimp only
    split
    · exact leaveWait_memWf h
    · exact takeTrap_memWf (nextReport_memWf (readyReport_memWf (State.setCtx_memWf (leaveWait_memWf h)))))

theorem resumeRegion_memWf {rid : Nat} (h : s.memWf) : (resumeRegion s p rid).memWf := by
  unfold resumeRegion
  dsimp only
  split
  · exact State.updTask_memWf (State.updRegion_memWf (foldl_memWf (fun _ _ h1 => State.updTile_memWf h1) h))
  · exact State.updRegion_memWf (foldl_memWf (fun _ _ h1 => State.updTile_memWf h1) h)

theorem resumeTrapped_memWf (h : s.memWf) : (resumeTrapped s p q).memWf :=
  foldl_memWf (fun _ _ h1 => memWf_ite (resumeRegion_memWf h1) h1) h

theorem retryParked_memWf (h : s.memWf) : (retryParked s p q).memWf := State.updPad_memWf h

theorem execEret_memWf {f : SeqF} (h : s.memWf) : OutWf (execEret f s) :=
  issueWith_memWf h (returnTrap_memWf (retryParked_memWf (memWf_ite (State.setCurCtx_memWf h) (resumeTrapped_memWf
    (State.setCurCtx_memWf h)))))

theorem regionError_memWf {rid : Nat} {trap : State → State} (h : s.memWf) (ht : (trap s).memWf) :
    (regionError s p rid t trap).memWf := by
  unfold regionError
  exact memWf_ite h (memWf_ite ht (State.updRegion_memWf (State.updTile_memWf h)))

theorem regionEcc_memWf (h : s.memWf) : (regionEcc s p t).memWf := regionTrap_memWf (freeWord_memWf h)

theorem recoverRegion_memWf {rid : Nat} (h : s.memWf) : (recoverRegion s p rid).memWf := by
  unfold recoverRegion
  dsimp only
  split
  · exact State.updRegion_memWf h
  · exact State.updRegion_memWf (foldl_memWf (fun _ _ h1 => State.updTile_memWf h1) (activateRegion_memWf (by
      split
      · exact storeImage_memWf (foldl_memWf (fun _ _ h1 => State.setTile_memWf (dropOut_memWf h1)) h)
      · exact foldl_memWf (fun _ _ h1 => State.setTile_memWf (dropOut_memWf h1)) h)))

theorem execRegionEccRecovery_memWf {p : Fin 32} {r : Fin 16} {t : Fin 144} (h : s.memWf) :
    OutWf (execRegionEccRecovery p r t s) :=
  outWf_ite h (outWf_ite (outWf_ite h (outWf_ite (regionEcc_memWf (State.updRegion_memWf h)) (recoverRegion_memWf h)))
    (outWf_ite (regionError_memWf h (regionEcc_memWf h)) h))

theorem shadowed_memWf {word : BitVec 64} {run : State → Out} (h : s.memWf) (hr : ∀ s, s.memWf → OutWf (run s)) :
    OutWf (shadowed word run s) := by
  unfold shadowed
  dsimp only
  split
  · exact hr _ h
  split
  · rename_i e
    have h2 := memWf_of_next e (hr _ h)
    split
    · exact outWf_ite h2 (State.updPad_memWf h2)
    · exact h2
  · exact hr _ h

theorem execSpareAdvance_memWf {p : Fin 32} {row : Fin 12} (h : s.memWf) : OutWf (execSpareAdvance p row s) :=
  outWf_ite h (State.setPad_memWf h)

theorem execSpareCompare_memWf {p : Fin 32} {row : Fin 12} (h : s.memWf) : OutWf (execSpareCompare p row s) := by
  unfold execSpareCompare
  extract_lets x sp
  split
  · exact h
  extract_lets s1
  split
  · exact State.setPad_memWf h
  rename_i s2 _ s3 _
  have h2 : s2.memWf := State.updTile_memWf (State.setPad_memWf h)
  refine recordRetired_memWf (s := s3) ?_
  unfold s3
  split
  · exact h2
  · exact regionError_memWf h2 (memWf_ite (fabricTrap_memWf h2) (regionEcc_memWf h2))

theorem setDec_memWf {dec : Bool} (h : s.memWf) : (setDec s p dec).memWf := State.updPad_memWf h

theorem execScrubVisit_memWf {p : Fin 32} {line : Nat} (h : s.memWf) : OutWf (execScrubVisit p line s) :=
  State.updPad_memWf (memWf_ite (State.fixLine_memWf h) (fixWord_memWf (State.updSpad_memWf h)))

/-! ### System instructions -/

theorem csrWrite_memWf {v : BitVec 64} (h : s.memWf) : OptWf (csrWrite s p q n v) := by
  unfold csrWrite
  split
  · exact State.updCtx_memWf h
  · exact State.updCtx_memWf h
  · exact State.updCtx_memWf h
  · exact State.updCtx_memWf h
  · exact State.updCtx_memWf h
  · exact State.updCtx_memWf h
  · exact State.updCtx_memWf h
  · exact State.updCtx_memWf h
  · exact State.updCtx_memWf h
  · exact State.updCtx_memWf h
  · exact State.updPad_memWf h
  · exact State.updPad_memWf h
  · exact setDec_memWf (memWf_ite (State.updPad_memWf (State.updPad_memWf h)) (State.updPad_memWf h))
  · exact State.updPad_memWf h
  · exact State.updCtx_memWf h
  · exact optWf_ite (State.updPad_memWf h) (optWf_ite (State.updPad_memWf (memWf_ite h (dropMessages_memWf h)))
      trivial)

theorem execCsrr_memWf {f : SeqF} (h : s.memWf) : OutWf (execCsrr f s) :=
  issueWith_memWf h (by
    split
    · exact finishCur_memWf h
    · exact precise_memWf h)

theorem execCsrw_memWf {f : SeqF} (h : s.memWf) : OutWf (execCsrw f s) :=
  issueWith_memWf h (by
    split
    · rename_i e
      exact finishCur_memWf (memWf_of_some e (csrWrite_memWf h))
    · exact precise_memWf h)

theorem execMcpopRead_memWf {f : SeqF} (h : s.memWf) : OutWf (execMcpopRead f s) :=
  issueWith_memWf h (outWf_ite (precise_memWf h) (finishCur_memWf (State.updTile_memWf h)))

theorem stileTrap_memWf {o : Nat} (h : s.memWf) : (stileTrap s p t o).memWf :=
  fabricTrap_memWf (State.updTile_memWf h)

theorem dropStile_memWf {i : Nat} {z : ChanStile} {far : Bool} (h : s.memWf) : (dropStile s i z far).memWf := by
  unfold dropStile
  extract_lets n s1 s2
  have h2 : s2.memWf := by
    unfold s2
    split
    · exact State.updRegion_memWf (memWf_update h)
    · exact memWf_update h
  exact memWf_ite h2 (stileTrap_memWf h2)

theorem cutWindows_memWf {cut : Nat → BitVec 64 → Bool} (h : s.memWf) : (cutWindows s cut).memWf :=
  foldl_memWf (fun _ _ h1 => foldl_memWf (fun _ _ h2 => foldl_memWf (fun _ _ h3 => memWf_ite (reqStileTmo_memWf h3)
    h3) h2) (foldl_memWf (fun _ _ h2 => by
    split
    · split
      · exact memWf_ite (State.updCtx_memWf h2) h2
      · exact h2
    · exact h2) h1)) h

theorem execStileTokenArrive_memWf {p : Fin 32} (h : s.memWf) : OutWf (execStileTokenArrive p n s) := by
  unfold execStileTokenArrive
  split
  · exact h
  split
  · exact h
  split
  · exact h
  · exact memWf_update h

theorem execStileTmo_memWf {p : Fin 32} {t : Fin 144} {o : Fin 4} (h : s.memWf) : OutWf (execStileTmo p t o s) :=
  memWf_ite (stileTrap_memWf h) h

theorem countStiles_memWf (h : s.memWf) : (countStiles s p).memWf :=
  foldl_memWf (fun _ _ h1 => State.updTile_memWf h1) h

theorem closeGate_memWf {g : Gate} (h : s.memWf) : (closeGate s p g).memWf := by
  unfold closeGate
  exact cutWindows_memWf (foldl_memWf (fun _ _ h1 => dropStile_memWf h1) (State.updPad_memWf h))

theorem resetMemory_memWf {zd : Bool} (h : s.memWf) : (resetMemory s p zd).memWf := by
  unfold resetMemory
  dsimp only
  split
  · obtain ⟨hm, hh⟩ := memWf_iff.1 h
    exact memWf_iff.2 ⟨Memory.wf_filter hm, hh⟩
  · exact foldl_memWf (fun _ _ h1 => memWf_ite (memWf_put (freeChoice_memWf h1)) (freeChoice_memWf h1)) h

theorem resetPaddock_memWf {zd : Bool} (h : s.memWf) : (resetPaddock s p zd).memWf := by
  unfold resetPaddock
  dsimp only
  exact State.updPad_memWf (freeDelay_memWf (State.updJr_memWf (resetMemory_memWf (closeGate_memWf h))))

theorem execPaddockResetDone_memWf {p : Fin 32} (h : s.memWf) : OutWf (execPaddockResetDone p s) := by
  unfold execPaddockResetDone
  dsimp only
  split
  · exact h
  · exact memWf_ite (State.setPad_memWf h) h

theorem gateDone_memWf {f : SeqF} {y5 : Nat} (h : s.memWf) : (gateDone s p q f y5).memWf := finish_memWf h

theorem tryPgate_memWf {f : SeqF} {stage : Nat} (h : s.memWf) : OptWf (tryPgate s p q f stage) :=
  optWf_ite (gateDone_memWf h) trivial

theorem execPgateClose_memWf {f : SeqF} (h : s.memWf) : OutWf (execPgateClose f s) :=
  issueWith_memWf h (outWf_ite (refuseA_memWf h) (tryOrPoll_memWf (memWf_ite (closeGate_memWf h) h) (tryPgate_memWf
    (memWf_ite (closeGate_memWf h) h))))

theorem execPgateOpen_memWf {f : SeqF} (h : s.memWf) : OutWf (execPgateOpen f s) :=
  issueWith_memWf h (outWf_ite (refuseA_memWf h) (gateDone_memWf (State.setPad_memWf h)))

theorem execPgateReset_memWf {f : SeqF} (h : s.memWf) : OutWf (execPgateReset f s) :=
  issueWith_memWf h (outWf_ite (refuseA_memWf h) (outWf_ite (refuseA_memWf h) (pollFor_memWf (resetPaddock_memWf h))))

theorem execPgateFreq_memWf {f : SeqF} (h : s.memWf) : OutWf (execPgateFreq f s) :=
  issueWith_memWf h (outWf_ite (refuseA_memWf h) (tryOrPoll_memWf (changeFreq_memWf h) (tryPgate_memWf
    (changeFreq_memWf h))))

theorem formPart_memWf {mask : BitVec 32} (h : s.memWf) : (formPart s mask n).memWf :=
  State.updPart_memWf (foldl_memWf (fun _ _ h1 => memWf_ite (State.updPad_memWf h1) (memWf_ite (State.updPad_memWf h1)
    h1)) h)

theorem execPgateForm_memWf {f : SeqF} (h : s.memWf) : OutWf (execPgateForm f s) :=
  issueWith_memWf h (outWf_ite (refuseA_memWf h) (outWf_ite (refuseA_memWf h) (gateDone_memWf (formPart_memWf h))))

theorem freeStile_memWf {owner : Nat} (h : s.memWf) : (freeStile s owner).2.memWf := freeWord_memWf h

theorem execStilClose_memWf {f : SeqF} (h : s.memWf) : OutWf (execStilClose f s) :=
  issueWith_memWf h (by
    dsimp only
    split
    · exact finishCur_memWf (memWf_update (dropStile_memWf h))
    · exact finishCur_memWf (memWf_update (cutWindows_memWf h))
    · exact refuseA_memWf h)

theorem execStilChannel_memWf {f : SeqF} (h : s.memWf) : OutWf (execStilChannel f s) :=
  issueWith_memWf h (outWf_ite (refuseA_memWf h) (by
    split
    · rename_i e
      exact refuseA_memWf (memWf_of_eq e (freeStile_memWf h))
    · rename_i e
      exact finishCur_memWf (memWf_update (memWf_of_eq e (freeStile_memWf h)))))

theorem execStilMemory_memWf {f : SeqF} (h : s.memWf) : OutWf (execStilMemory f s) :=
  issueWith_memWf h (outWf_ite (refuseA_memWf h) (by
    split
    · rename_i e
      exact refuseA_memWf (memWf_of_eq e (freeStile_memWf h))
    · rename_i e
      exact finishCur_memWf (memWf_update (memWf_of_eq e (freeStile_memWf h)))))

theorem tryCtxs_memWf {f : SeqF} (h : s.memWf) : OptWf (tryCtxs s p q f) :=
  optWf_ite trivial (by
    dsimp only
    split
    · rename_i e
      exact addrTrap_memWf (memWf_of_eq e (writeBytes_memWf (asCtx_memWf h)))
    · rename_i e
      exact finish_memWf (State.updCtx_memWf (leaveWait_memWf (memWf_of_eq e (writeBytes_memWf (asCtx_memWf h))))))

theorem execCtxs_memWf {f : SeqF} (h : s.memWf) : OutWf (execCtxs f s) :=
  issueWith_memWf h (outWf_ite (refuseA_memWf h) (outWf_ite (addrTrap_memWf h) (outWf_ite (addrTrap_memWf h)
    (tryOrPoll_memWf h (tryCtxs_memWf h)))))

theorem execCtxr_memWf {f : SeqF} (h : s.memWf) : OutWf (execCtxr f s) :=
  issueWith_memWf h (outWf_ite (refuseA_memWf h) (outWf_ite (addrTrap_memWf h) (outWf_ite (addrTrap_memWf h) (by
    split
    · rename_i e
      exact addrTrap_memWf (memWf_of_eq e (readBytes_memWf h))
    · rename_i e
      have h1 := memWf_of_eq e (readBytes_memWf h)
      exact outWf_ite (refuseA_memWf h1) (finishCur_memWf (State.updCtx_memWf h1))))))

theorem clampDown_memWf (h : s.memWf) : (clampDown s p).memWf := changeFreq_memWf h

theorem limitDown_memWf (h : s.memWf) : (limitDown s p).memWf := changeFreq_memWf h

theorem clampUp_memWf (h : s.memWf) : (clampUp s p).memWf := changeFreq_memWf h

theorem execClampStepDown_memWf {p : Fin 32} (h : s.memWf) : OutWf (execClampStepDown p s) :=
  memWf_ite (clampDown_memWf h) h

theorem execClampStepUp_memWf {p : Fin 32} (h : s.memWf) : OutWf (execClampStepUp p s) :=
  memWf_ite (clampUp_memWf h) h

theorem execPlimStepDown_memWf (h : s.memWf) : OutWf (execPlimStepDown s) :=
  outWf_ite h (memWf_update (limitDown_memWf (freeWord_memWf h)))

theorem execPlimStepUp_memWf (h : s.memWf) : OutWf (execPlimStepUp s) := by
  unfold execPlimStepUp
  split
  · exact h
  · exact memWf_update (clampUp_memWf h)

/-! ### Staged start, trust and module power -/

theorem startModule_memWf (h : s.memWf) : (startModule s).memWf := memWf_iff.2 ⟨rfl, (memWf_iff.1 h).2⟩

theorem failStart_memWf {code : BitVec 8} (h : s.memWf) : (failStart s code).memWf :=
  memWf_ite (memWf_update (startModule_memWf (memWf_update h))) (startModule_memWf (memWf_update h))

theorem execPowerOn_memWf (h : s.memWf) : OutWf (execPowerOn s) := memWf_ite h (startModule_memWf (memWf_update h))

theorem execFundamentalReset_memWf (h : s.memWf) : OutWf (execFundamentalReset s) := memWf_ite (startModule_memWf h) h

theorem execStageLimitExpiry_memWf (h : s.memWf) : OutWf (execStageLimitExpiry s) := memWf_ite (failStart_memWf h) h

theorem nextStage_memWf {done run : Nat} (h : s.memWf) : (nextStage s done run).memWf := memWf_update h

theorem stageA_memWf (h : s.memWf) : (stageA s).memWf :=
  memWf_ite (nextStage_memWf h) (by
    dsimp only
    split
    · exact nextStage_memWf (memWf_update h)
    · exact failStart_memWf (freeWord_memWf h))

theorem stageB_memWf {f : StageFaults} (h : s.memWf) : (stageB s f).memWf :=
  memWf_ite (memWf_ite (failStart_memWf (freeChoice_memWf (memWf_update h))) (failStart_memWf (memWf_update h)))
    (memWf_ite (failStart_memWf (memWf_update h)) (nextStage_memWf (memWf_update h)))

theorem startPaddock_memWf (h : s.memWf) : (startPaddock s p).memWf := State.setPad_memWf h

theorem stageC_memWf {down : BitVec 32} (h : s.memWf) : (stageC s down).memWf :=
  memWf_ite (failStart_memWf (memWf_update h)) (foldl_memWf (fun _ _ h1 => startPaddock_memWf h1) (memWf_update
    (nextStage_memWf (memWf_update h))))

theorem execStageComplete_memWf {f : StageFaults} (h : s.memWf) : OutWf (execStageComplete f s) :=
  memWf_ite h (memWf_ite (stageA_memWf h) (memWf_ite (stageB_memWf h) (memWf_ite (stageC_memWf h) h)))

theorem execHostLinkTraining_memWf {link : Fin 2} {flit : Bool} {rate width : BitVec 8} (h : s.memWf) :
    OutWf (execHostLinkTraining link flit rate width s) := memWf_ite (memWf_update h) h

theorem execIdeKm_memWf {link : Fin 2} {stream : BitVec 8} (h : s.memWf) : OutWf (execIdeKm link stream s) :=
  memWf_ite (memWf_update h) h

theorem execVfEnable_memWf {n : Fin 32} {on : Bool} (h : s.memWf) : OutWf (execVfEnable n on s) :=
  memWf_ite (memWf_update h) h

/-! ### The host's side -/

theorem takeTable_memWf {r : LaunchRec} (h : s.memWf) : (takeTable s p r).2.memWf := by
  unfold takeTable
  dsimp only
  split
  · exact h
  split
  · exact h
  split
  · rename_i e
    exact memWf_of_eq e (readTable_memWf h)
  · rename_i e
    exact State.updJr_memWf (memWf_of_eq e (readTable_memWf h))

theorem seedRegions_memWf (h : s.memWf) : (seedRegions s p q).memWf := State.updPad_memWf h

theorem startAt_memWf {vf : Bool} (h : s.memWf) : (startAt p q vf s).memWf :=
  memWf_ite (State.updCtx_memWf h) (memWf_ite (State.updCtx_memWf (State.updPad_memWf (wakeCtx_memWf h))) (memWf_ite
    (State.updCtx_memWf (State.updPad_memWf (wakeCtx_memWf h))) (by
    split
    · rename_i e
      exact State.updCtx_memWf (memWf_of_eq e (readBytes_memWf (State.updPad_memWf (wakeCtx_memWf h))))
    rename_i e
    have h1 := memWf_of_eq e (readBytes_memWf (State.updPad_memWf (wakeCtx_memWf h)))
    split
    · exact State.updCtx_memWf h1
    split
    · rename_i e
      exact State.updCtx_memWf (memWf_of_eq e (takeTable_memWf h1))
    · rename_i e
      exact seedRegions_memWf (State.updCtx_memWf (memWf_of_eq e (takeTable_memWf h1))))))

theorem execStart_memWf {fn : Fin 33} {m : Fin 32} {q : Fin 4} (h : s.memWf) : OutWf (execStart fn m q s) := by
  unfold execStart
  exact by
    split
    · exact h
    · exact startAt_memWf h

theorem execDoorbellWake_memWf {fn : Fin 33} {page : Fin 128} (h : s.memWf) : OutWf (execDoorbellWake fn page s) := by
  unfold execDoorbellWake
  exact by
    split
    · exact h
    · exact memWf_ite (State.updCtx_memWf h) (wakeCtx_memWf h)

theorem topUp_memWf {g : CtxPage} {tb : Bool} {v : BitVec 64} (h : s.memWf) : (topUp s g tb v).memWf := by
  unfold topUp
  split
  · exact h
  · exact memWf_ite (State.updCtx_memWf h) (State.updCtx_memWf h)

theorem boxStatus_memWf {code status detail : Nat} (h : s.memWf) : (boxStatus s code status detail).memWf :=
  memWf_update h

theorem ringBox_memWf (h : s.memWf) : (ringBox s).memWf := by
  unfold ringBox
  dsimp only
  split
  · exact memWf_update h
  · exact boxStatus_memWf h

theorem execRegisterWrite_memWf {l : HostReg} {v : BitVec 64} (h : s.memWf) : OutWf (execRegisterWrite l v s) :=
  memWf_ite h (by
    split
    · split
      · exact h
      · exact State.updCtx_memWf h
    · exact memWf_update h
    · exact ringBox_memWf h
    · exact memWf_update h
    · exact memWf_update h
    · exact h)

theorem boxWords_memWf {code : Nat} {m : Mbox} (h : s.memWf) : (boxWords s code m).memWf := memWf_update h

theorem command_memWf {code : Nat} {m : Mbox} {i : Instr} {body : State → Nat × Nat × State} (h : s.memWf)
    (hb : ∀ s, s.memWf → (body s).2.2.memWf) : OutWf (command s code m i body) := by
  unfold command
  exact memWf_ite h (memWf_ite (boxStatus_memWf (boxWords_memWf h)) (memWf_ite (memWf_update (boxWords_memWf h))
    (boxStatus_memWf (hb _ (boxWords_memWf h)))))

theorem no_memWf (h : s.memWf) : (no s).2.2.memWf := h

theorem yes_memWf (h : s.memWf) : (yes s).2.2.memWf := h

theorem execSetroot_memWf {m : Mbox} (h : s.memWf) : OutWf (execSetroot m s) :=
  command_memWf h (fun _ h1 => yes_memWf (memWf_update h1))

theorem execBindpart_memWf {m : Mbox} (h : s.memWf) : OutWf (execBindpart m s) :=
  command_memWf h (fun _ h1 => thdWf_ite (no_memWf h1) (yes_memWf (State.updPart_memWf h1)))

theorem execInval_memWf {m : Mbox} (h : s.memWf) : OutWf (execInval m s) :=
  command_memWf h (fun _ h1 => yes_memWf (invalidate_memWf h1))

theorem execHostwin_memWf {m : Mbox} (h : s.memWf) : OutWf (execHostwin m s) :=
  command_memWf h (fun _ h1 => thdWf_ite (no_memWf h1) (yes_memWf (State.updPart_memWf h1)))

theorem execGroup_memWf {m : Mbox} (h : s.memWf) : OutWf (execGroup m s) :=
  command_memWf h (fun _ h1 => thdWf_ite (no_memWf h1) (yes_memWf (memWf_update h1)))

theorem execLinkwin_memWf {m : Mbox} (h : s.memWf) : OutWf (execLinkwin m s) :=
  command_memWf h (fun _ h1 => thdWf_ite (no_memWf h1) (yes_memWf (memWf_update h1)))

theorem execRestart_memWf {m : Mbox} (h : s.memWf) : OutWf (execRestart m s) :=
  command_memWf h (fun _ h1 => thdWf_ite (no_memWf h1) (yes_memWf (State.updPad_memWf (State.updCtx_memWf h1))))

theorem boxWord7_memWf {v : BitVec 64} (h : s.memWf) : (boxWord7 s v).memWf := memWf_update h

theorem execPropose_memWf {m : Mbox} (h : s.memWf) : OutWf (execPropose m s) :=
  command_memWf h (fun _ h1 => thdWf_ite (no_memWf h1) (thdWf_ite (boxWord7_memWf h1) (thdWf_ite (boxWord7_memWf h1)
    (by
    split
    · exact boxWord7_memWf h1
    split
    all_goals
      rename_i e
      exact boxWord7_memWf (memWf_of_eq e (propose_memWf h1))))))

theorem execNotice_memWf {m : Mbox} (h : s.memWf) : OutWf (execNotice m s) :=
  command_memWf h (fun _ h1 => thdWf_ite (no_memWf h1) (thdWf_ite (no_memWf h1) (yes_memWf (memWf_update h1))))

theorem execAttest_memWf {m : Mbox} (h : s.memWf) : OutWf (execAttest m s) := by
  unfold execAttest
  dsimp only
  exact command_memWf h (fun _ h1 => thdWf_ite (no_memWf h1) (thdWf_ite (no_memWf h1) (yes_memWf (State.wrBytes_memWf
    _ _ _ _ h1))))

theorem execFwstage_memWf {m : Mbox} (h : s.memWf) : OutWf (execFwstage m s) :=
  command_memWf h (fun _ h1 => thdWf_ite (no_memWf h1) (thdWf_ite (yes_memWf (memWf_update h1)) (no_memWf h1)))

theorem execReboot_memWf {m : Mbox} (h : s.memWf) : OutWf (execReboot m s) :=
  command_memWf h (fun _ h1 => yes_memWf (startModule_memWf (memWf_ite (memWf_update h1) h1)))

theorem execIdent_memWf {m : Mbox} (h : s.memWf) : OutWf (execIdent m s) :=
  command_memWf h (fun _ h1 => thdWf_ite (no_memWf h1) (yes_memWf (State.wrBytes_memWf _ _ _ _ h1)))

theorem execPlimit_memWf {m : Mbox} (h : s.memWf) : OutWf (execPlimit m s) :=
  command_memWf h (fun _ h1 => thdWf_ite (no_memWf h1) (yes_memWf (memWf_update h1)))

/-! ### Completion of a sequencer instruction -/

theorem tryPoll_memWf {word : BitVec 64} {stage : Nat} (h : s.memWf) : OptWf (tryPoll s p q word stage) := by
  unfold tryPoll
  split
  · exact tryRgna_memWf h
  · exact tryToksv_memWf h
  · exact tryDecb_memWf h
  · exact tryChwt_memWf h
  · exact tryYld_memWf h
  · exact tryJpin_memWf h
  · exact tryJrev_memWf h
  · exact tryJrpl_memWf h
  · exact tryJbase_memWf h
  · exact tryJver_memWf h
  · exact tryPgate_memWf h
  · exact tryCtxs_memWf h
  · exact trivial

theorem execSeqOpComplete_memWf {p : Fin 32} {q : Fin 4} (h : s.memWf) : OutWf (execSeqOpComplete p q s) := by
  unfold execSeqOpComplete
  dsimp only
  split
  · split
    · exact h
    split
    · exact State.setCtx_memWf h
    · exact State.setCtx_memWf h
    · exact State.setCtx_memWf h
    · exact memComplete_memWf h
    · exact memTimeout_memWf h
    · exact memHalf_memWf h
  · exact retry_memWf h (fun _ h1 => tryPoll_memWf h1)
  · exact h

/-! ### Scalar sequencer instructions -/

theorem seqWrite_memWf {f : SeqF} {val : Ctx → BitVec 64} (h : s.memWf) : OutWf (seqWrite f s val) :=
  issueWith_memWf h (State.setCurCtx_memWf h)

theorem seqSlow_memWf {f : SeqF} {val : Ctx → BitVec 64} (h : s.memWf) : OutWf (seqSlow f s n val) :=
  issueWith_memWf h (State.setCurCtx_memWf h)

theorem seqPred_memWf {f : SeqF} {val : Ctx → Bool} (h : s.memWf) : OutWf (seqPred f s val) :=
  issueWith_memWf h (State.setCurCtx_memWf h)

theorem execSeqAdd_memWf {f : SeqF} (h : s.memWf) : OutWf (execSeqAdd f s) := seqWrite_memWf h

theorem execSeqSub_memWf {f : SeqF} (h : s.memWf) : OutWf (execSeqSub f s) := seqWrite_memWf h

theorem execSeqAnd_memWf {f : SeqF} (h : s.memWf) : OutWf (execSeqAnd f s) := seqWrite_memWf h

theorem execSeqOr_memWf {f : SeqF} (h : s.memWf) : OutWf (execSeqOr f s) := seqWrite_memWf h

theorem execSeqXor_memWf {f : SeqF} (h : s.memWf) : OutWf (execSeqXor f s) := seqWrite_memWf h

theorem execSeqShl_memWf {f : SeqF} (h : s.memWf) : OutWf (execSeqShl f s) := seqWrite_memWf h

theorem execSeqShr_memWf {f : SeqF} (h : s.memWf) : OutWf (execSeqShr f s) := seqWrite_memWf h

theorem execSeqSra_memWf {f : SeqF} (h : s.memWf) : OutWf (execSeqSra f s) := seqWrite_memWf h

theorem execSeqMin_memWf {f : SeqF} (h : s.memWf) : OutWf (execSeqMin f s) := seqWrite_memWf h

theorem execSeqMax_memWf {f : SeqF} (h : s.memWf) : OutWf (execSeqMax f s) := seqWrite_memWf h

theorem execSeqMinu_memWf {f : SeqF} (h : s.memWf) : OutWf (execSeqMinu f s) := seqWrite_memWf h

theorem execSeqMaxu_memWf {f : SeqF} (h : s.memWf) : OutWf (execSeqMaxu f s) := seqWrite_memWf h

theorem execSeqClz_memWf {f : SeqF} (h : s.memWf) : OutWf (execSeqClz f s) := seqWrite_memWf h

theorem execSeqPopc_memWf {f : SeqF} (h : s.memWf) : OutWf (execSeqPopc f s) := seqWrite_memWf h

theorem execAddi_memWf {f : SeqF} (h : s.memWf) : OutWf (execAddi f s) := seqWrite_memWf h

theorem execAndi_memWf {f : SeqF} (h : s.memWf) : OutWf (execAndi f s) := seqWrite_memWf h

theorem execOri_memWf {f : SeqF} (h : s.memWf) : OutWf (execOri f s) := seqWrite_memWf h

theorem execXori_memWf {f : SeqF} (h : s.memWf) : OutWf (execXori f s) := seqWrite_memWf h

theorem execShli_memWf {f : SeqF} (h : s.memWf) : OutWf (execShli f s) := seqWrite_memWf h

theorem execShri_memWf {f : SeqF} (h : s.memWf) : OutWf (execShri f s) := seqWrite_memWf h

theorem execSrai_memWf {f : SeqF} (h : s.memWf) : OutWf (execSrai f s) := seqWrite_memWf h

theorem execMovi_memWf {f : SeqF} (h : s.memWf) : OutWf (execMovi f s) := seqWrite_memWf h

theorem execMovhi_memWf {f : SeqF} (h : s.memWf) : OutWf (execMovhi f s) := seqWrite_memWf h

theorem execSeqSel_memWf {f : SeqF} (h : s.memWf) : OutWf (execSeqSel f s) := seqWrite_memWf h

/-! ### The phases of a fabric cycle -/

theorem State.owe_memWf {l : List Act} (h : s.memWf) : (s.owe l).memWf := memWf_update h

theorem beginFc_memWf (h : s.memWf) : (beginFc s p).memWf := State.updPad_memWf (memWf_update (State.setPad_memWf h))

theorem trapRegions_memWf (h : s.memWf) : (trapRegions s p).memWf :=
  foldl_memWf (fun _ _ h1 => memWf_ite (trapRegion_memWf h1) h1) h

theorem phaseBegin_memWf (h : s.memWf) : (phaseBegin s p).memWf :=
  State.owe_memWf (memWf_update (trapRegions_memWf (beginFc_memWf (flushArea_memWf h))))

theorem fetchAll_memWf (h : s.memWf) : (fetchAll s p).memWf :=
  foldl_memWf (fun _ _ h1 => memWf_ite (fetchEntry_memWf h1) h1) h

theorem phaseEngines_memWf (h : s.memWf) : (phaseEngines s p).memWf := by
  unfold phaseEngines
  extract_lets s1 x turns s2 a waits
  have h2 : s2.memWf := State.updPad_memWf (fetchAll_memWf h)
  clear_value s2 waits
  split
  rename_i e
  refine State.owe_memWf (memWf_of_eq e (foldl_sndWf (fun l c h1 => ?_) h2))
  split
  · exact freePart_memWf h1
  · exact h1

theorem phaseIssue_memWf (h : s.memWf) : (phaseIssue s p).memWf := by
  unfold phaseIssue
  dsimp only
  split
  · exact State.setPad_memWf h
  · exact State.owe_memWf (State.setPad_memWf h)

theorem phaseScrubLate_memWf (h : s.memWf) : (phaseScrubLate s p).memWf := State.owe_memWf h

theorem phaseScrub_memWf (h : s.memWf) : (phaseScrub s p).memWf := State.owe_memWf (freeChoice_memWf h)

theorem phaseArbiter_memWf (h : s.memWf) : (phaseArbiter s p).memWf :=
  memWf_ite (State.owe_memWf (State.setPad_memWf h)) h

theorem phaseJournal_memWf (h : s.memWf) : (phaseJournal s p).memWf := by
  unfold phaseJournal
  split
  · exact h
  split
  · exact h
  · exact State.owe_memWf (by
      split
      · exact memWf_ite (pauseMask_memWf (countWindows_memWf h)) (countWindows_memWf h)
      · exact countWindows_memWf h)

theorem countQuiet_memWf (h : s.memWf) : (countQuiet s p).memWf :=
  foldl_memWf (fun _ _ h1 => memWf_ite h1 (State.setRegion_memWf h1)) h

theorem phaseEnd_memWf (h : s.memWf) : (phaseEnd s p).memWf :=
  State.owe_memWf (State.updPad_memWf (foldl_memWf (fun _ _ h1 => commitWfe_memWf h1) (countQuiet_memWf h)))

theorem phase_memWf (h : s.memWf) : (phase s n p).memWf := by
  unfold phase
  split
  · exact phaseBegin_memWf h
  · exact State.owe_memWf h
  · exact State.owe_memWf h
  · exact State.owe_memWf h
  · exact State.owe_memWf (countStiles_memWf h)
  · exact State.owe_memWf h
  · exact State.owe_memWf h
  · exact State.owe_memWf h
  · exact phaseEngines_memWf h
  · exact State.owe_memWf h
  · exact phaseIssue_memWf h
  · exact State.owe_memWf (payLates_memWf h)
  · exact State.owe_memWf (phaseScrub_memWf h)
  · exact State.owe_memWf h
  · exact phaseArbiter_memWf h
  · exact phaseJournal_memWf h
  · exact State.owe_memWf h
  · exact State.owe_memWf h
  · exact phaseEnd_memWf h
  · exact phaseScrubLate_memWf h
  · exact State.owe_memWf h
  · exact State.owe_memWf h
  · exact State.owe_memWf h
  · exact State.owe_memWf h
  · exact h

theorem ringF3_memWf (h : s.memWf) : (ringF3 s p).memWf := by
  unfold ringF3
  dsimp only
  exact memWf_ite (State.updPad_memWf (freeDelay_memWf h)) h

theorem applyInput_memWf {i : Input} (h : s.memWf) : (applyInput s i).memWf := by
  unfold applyInput
  split
  · split
    · exact memWf_ite (memWf_update (ringF3_memWf h)) (State.owe_memWf h)
    · exact h
  · exact State.owe_memWf h
  · exact State.updPad_memWf h
  · exact State.updPad_memWf h
  · exact State.updTile_memWf h
  · exact State.updTile_memWf h
  · exact State.updTile_memWf h
  · exact State.updTile_memWf h
  · exact State.updPad_memWf h
  · exact State.wrBytes_memWf _ _ _ _ h
  · exact memWf_update h

theorem advance_memWf (h : s.memWf) : OutWf (advance s) := by
  unfold advance
  split
  · exact outWf_ite h trivial
  split
  · exact applyInput_memWf (memWf_update (memWf_update h))
  · exact State.owe_memWf (memWf_update h)

theorem fetchWord_memWf (h : s.memWf) : (fetchWord s p q).2.memWf := by
  unfold fetchWord
  dsimp only
  split
  · rename_i e
    exact memWf_of_eq e (checkAddr_memWf h)
  · rename_i e
    have h1 := memWf_of_eq e (checkAddr_memWf h)
    exact sndWf_ite h1 (State.fixLine_memWf h1)

theorem issueInstr_memWf (h : s.memWf) : (issueInstr s p q).2.memWf :=
  sndWf_ite (memWf_update h) (by
    split
    · rename_i e
      exact memWf_of_eq e (fetchWord_memWf (memWf_update h))
    rename_i e
    have h1 := memWf_of_eq e (fetchWord_memWf (memWf_update h))
    split <;> exact h1)

/-! ### Instructions, events and steps -/

/-- Every instruction and every event keeps the memories canonical: one arm per row of the dispatch table, rows that
share their meaning in one. -/
theorem exec_memWf {i : Instr} (h : s.memWf) : OutWf (exec i s) := by
  unfold exec
  cases i with
  | seqOpComplete => exact execSeqOpComplete_memWf h
  | tagWaitComplete => exact execTagWaitComplete_memWf h
  | wfeWake => exact execWfeWake_memWf h
  | paddockGateF3 => exact execPaddockGateF3_memWf h
  | illegalWord | fetchFault => exact precise_memWf h
  | contextBudgetTrap => exact execContextBudgetTrap_memWf h
  | lnchSlotAcquire => exact execLnchSlotAcquire_memWf h
  | eccmodeClr => exact State.updPad_memWf h
  | eccmodeDecWrite => exact setDec_memWf h
  | paddockResetDone => exact execPaddockResetDone_memWf h
  | gathRowTokenEmit => exact execGathRowTokenEmit_memWf h
  | memNodeComplete => exact execMemNodeComplete_memWf h
  | parkedRequestRetry => exact State.updTile_memWf h
  | mfirePositionTake => exact passTake_memWf h
  | matrixPassComplete => exact execMatrixPassComplete_memWf h
  | carryHoldResume => exact execCarryHoldResume_memWf h
  | mdrnSpillToken => exact execMdrnSpillToken_memWf h
  | mdrnComplete => exact execMdrnComplete_memWf h
  | mcarryExpToken => exact execMcarryExpToken_memWf h
  | tokenHop => exact execTokenHop_memWf h
  | skipFlushEmit => exact execSkipFlushEmit_memWf h
  | bidAdmit => exact execBidAdmit_memWf h
  | cfgaActivate => exact execCfgaActivate_memWf h
  | rgnfFree => exact execRgnfFree_memWf h
  | qwaitReturn => exact execQwaitReturn_memWf h
  | decisionSwitch => exact execDecisionSwitch_memWf h
  | spliceSwap => exact execSpliceSwap_memWf h
  | qnc => exact execQnc_memWf h
  | taskRetire => exact execTaskRetire_memWf h
  | budgetAdderUpdate => exact execBudgetAdderUpdate_memWf h
  | budgetFreeze => exact execBudgetFreeze_memWf h
  | taskResume => exact execTaskResume_memWf h
  | yieldRelease => exact execYieldRelease_memWf h
  | asyncTrapDelivery => exact execAsyncTrapDelivery_memWf h
  | regionEccRecovery => exact execRegionEccRecovery_memWf h
  | scrubVisit => exact execScrubVisit_memWf h
  | spareAdvance => exact execSpareAdvance_memWf h
  | spareCompare => exact execSpareCompare_memWf h
  | copy | fill | conv | engGath | engScat | signal => exact engineTurn_memWf h
  | areduce => exact execAreduce_memWf h
  | rscat => exact execRscat_memWf h
  | agath => exact execAgath_memWf h
  | waitseq => exact execWaitseq_memWf h
  | waitseqReread => exact execWaitseqReread_memWf h
  | stampReread => exact execStampReread_memWf h
  | chainEntryComplete => exact execChainEntryComplete_memWf h
  | chainTranslationRetry => exact execChainTranslationRetry_memWf h
  | remoteWriteTimeout => exact execRemoteWriteTimeout_memWf h
  | remoteWriteReceive => exact execRemoteWriteReceive_memWf h
  | messageArrive => exact execMessageArrive_memWf h
  | stileTokenArrive => exact execStileTokenArrive_memWf h
  | stileTmo => exact execStileTmo_memWf h
  | shapePoint => exact execShapePoint_memWf h
  | baselineWindowEnd => exact execBaselineWindowEnd_memWf h
  | trialVerdict => exact execTrialVerdict_memWf h
  | tunerPropose => exact execTunerPropose_memWf h
  | clampStepDown => exact execClampStepDown_memWf h
  | clampStepUp => exact execClampStepUp_memWf h
  | plimStepDown => exact execPlimStepDown_memWf h
  | plimStepUp => exact execPlimStepUp_memWf h
  | start => exact execStart_memWf h
  | doorbellWake => exact execDoorbellWake_memWf h
  | topi | topt => exact topUp_memWf h
  | registerWrite => exact execRegisterWrite_memWf h
  | atsInvalidation => exact invalidate_memWf h
  | setroot => exact execSetroot_memWf h
  | bindpart => exact execBindpart_memWf h
  | inval => exact execInval_memWf h
  | hostwin => exact execHostwin_memWf h
  | group => exact execGroup_memWf h
  | linkwin => exact execLinkwin_memWf h
  | restart => exact execRestart_memWf h
  | propose => exact execPropose_memWf h
  | notice => exact execNotice_memWf h
  | attest => exact execAttest_memWf h
  | fwstage => exact execFwstage_memWf h
  | reboot => exact execReboot_memWf h
  | ident => exact execIdent_memWf h
  | plimit => exact execPlimit_memWf h
  | powerOn => exact execPowerOn_memWf h
  | fundamentalReset => exact execFundamentalReset_memWf h
  | stageLimitExpiry => exact execStageLimitExpiry_memWf h
  | stageComplete => exact execStageComplete_memWf h
  | powerOff => exact memWf_update (startModule_memWf h)
  | hostLinkTraining => exact execHostLinkTraining_memWf h
  | ideKm => exact execIdeKm_memWf h
  | vfEnable => exact execVfEnable_memWf h
  | trialWindowEnd => exact execTrialWindowEnd_memWf h
  | seqNop | ffr | tclr | wfe => exact issueWith_memWf h (State.setCurCtx_memWf h)
  | seqAdd => exact execSeqAdd_memWf h
  | seqSub => exact execSeqSub_memWf h
  | seqMul | seqMulh | seqMulhu | divu | remu => exact seqSlow_memWf h
  | seqAnd => exact execSeqAnd_memWf h
  | seqOr => exact execSeqOr_memWf h
  | seqXor => exact execSeqXor_memWf h
  | seqShl => exact execSeqShl_memWf h
  | seqShr => exact execSeqShr_memWf h
  | seqSra => exact execSeqSra_memWf h
  | seqMin => exact execSeqMin_memWf h
  | seqMax => exact execSeqMax_memWf h
  | seqMinu => exact execSeqMinu_memWf h
  | seqMaxu => exact execSeqMaxu_memWf h
  | seqClz => exact execSeqClz_memWf h
  | seqPopc => exact execSeqPopc_memWf h
  | addi => exact execAddi_memWf h
  | andi => exact execAndi_memWf h
  | ori => exact execOri_memWf h
  | xori => exact execXori_memWf h
  | shli => exact execShli_memWf h
  | shri => exact execShri_memWf h
  | srai => exact execSrai_memWf h
  | movi => exact execMovi_memWf h
  | movhi => exact execMovhi_memWf h
  | seqSel => exact execSeqSel_memWf h
  | seqCeq | seqCne | seqClt | seqCltu | seqCle | seqCleu | ceqi | clti | pand | por | pnot => exact seqPred_memWf h
  | br | jmp | call | ret => exact issueWith_memWf h (branchTo_memWf h)
  | wany | wall => exact tagWait_memWf h
  | wake => exact execWake_memWf h
  | ld | lds | st | lda | stl | aadd | aswp | acas | amin | amax | aor | aand => exact memIssue_memWf h
  | seqFence | seqPref => exact memWait_memWf h
  | rgna => exact execRgna_memWf h
  | rgnf => exact execRgnf_memWf h
  | cfgl => exact execCfgl_memWf h
  | cfga => exact execCfga_memWf h
  | splc => exact execSplc_memWf h
  | rfold => exact execRfold_memWf h
  | rfoldUnfold => exact execRfoldUnfold_memWf h
  | qwait => exact execQwait_memWf h
  | toksv => exact execToksv_memWf h
  | tokrs => exact execTokrs_memWf h
  | decb => exact execDecb_memWf h
  | rgns => exact execRgns_memWf h
  | seqChapp => exact execSeqChapp_memWf h
  | seqChtl => exact execSeqChtl_memWf h
  | seqChsq => exact execSeqChsq_memWf h
  | chwt => exact execChwt_memWf h
  | lnch => exact execLnch_memWf h
  | tskq => exact execTskq_memWf h
  | bspl => exact execBspl_memWf h
  | btop => exact execBtop_memWf h
  | brd => exact execBrd_memWf h
  | yld => exact issueWith_memWf h (pollFor_memWf h)
  | cont => exact execCont_memWf h
  | traceOff => exact traceIns_memWf h (State.updTrace_memWf h)
  | traceRecord | traceBind | traceRead => exact traceIns_memWf h h
  | jsub => exact execJsub_memWf h
  | juns => exact execJuns_memWf h
  | jpin => exact execJpin_memWf h
  | jupn => exact execJupn_memWf h
  | jrd => exact execJrd_memWf h
  | jprp => exact execJprp_memWf h
  | jrev => exact execJrev_memWf h
  | jrpl => exact execJrpl_memWf h
  | jbase => exact issueWith_memWf h (tryOrPoll_memWf h (tryJbase_memWf h))
  | jver => exact issueWith_memWf h (tryOrPoll_memWf h (tryJver_memWf h))
  | trap | bkpt => exact issueWith_memWf h (precise_memWf h)
  | eret => exact execEret_memWf h
  | csrr => exact execCsrr_memWf h
  | csrw => exact execCsrw_memWf h
  | mcpopRead => exact execMcpopRead_memWf h
  | halt => exact issueWith_memWf h (haltCtx_memWf (State.setCurCtx_memWf h))
  | pgateStatus => exact issueWith_memWf h (gateDone_memWf h)
  | pgateClose => exact execPgateClose_memWf h
  | pgateOpen => exact execPgateOpen_memWf h
  | pgateReset => exact execPgateReset_memWf h
  | pgateFreq => exact execPgateFreq_memWf h
  | pgateForm => exact execPgateForm_memWf h
  | stilClose => exact execStilClose_memWf h
  | stilChannel => exact execStilChannel_memWf h
  | stilMemory => exact execStilMemory_memWf h
  | ctxs => exact execCtxs_memWf h
  | ctxr => exact execCtxr_memWf h
  | fabNop | mov | addsat | budq => exact applyEffect_memWf h
  | fabAdd | fabSub | fabMul | fabMulh | fabMulhu | fabAnd | fabOr | fabXor | andn | fabShl | fabShr | fabSra | rot |
    fabMin | fabMax | fabMinu | fabMaxu | fabCeq | fabCne | fabClt | fabCltu | fabCle | fabCleu | fabSel | fabClz |
    fabPopc | bfx | bfi | agen => exact arith_memWf h
  | steer | steerd | mrgo | mrga | eosd | infl | plog | fmts | progm => exact streamDone_memWf h
  | gate => exact execGate_memWf h
  | drop | eosg | lexit => exact noRes_memWf h
  | repl => exact execRepl_memWf h
  | iter => exact execIter_memWf h
  | sqsh => exact execSqsh_memWf h
  | cnte => exact execCnte_memWf h
  | deci => exact execDeci_memWf h
  | skipa => exact streamDone_memWf (updActing_memWf h)
  | halte => exact noRes_memWf (updActing_memWf h)
  | sld | sldv | sst | sstv | sldf | slde | sstf | sstw | sfe | saadd | samin | samax | saor | saand | sacas | stas =>
    exact spadFire_memWf h
  | gld | gldv | gst | gstv | gaadd | gacas => exact segFire_memWf h
  | gath => exact execGath_memWf h
  | scat => exact globFire_memWf h
  | ojoin => exact applyEffect_memWf (freeNz_memWf h)
  | fabFence => exact execFabFence_memWf h
  | fabPref => exact execFabPref_memWf h
  | ags => exact applyEffect_memWf (updActing_memWf h)
  | mldb => exact execMldb_memWf h
  | mfire | mswap => exact passFire_memWf h
  | manch | mzero | mscl | mcbk => exact mxSimple_memWf h
  | mdrn => exact execMdrn_memWf h
  | mcarryCfg => exact mxSimple_memWf (passFirst_memWf h)
  | mcarryExp => exact execMcarryExp_memWf h
  | mcarryCnt | mstat => exact applyEffect_memWf (passFirst_memWf h)
  | vadd | vsub | vmul | vfma | vmin | vmax => exact vfp2_memWf h
  | vabs | vneg | vex2 | vlg2 | vrcp | vrsq => exact vfp1_memWf h
  | vscl => exact execVscl_memWf h
  | vcmp => exact execVcmp_memWf h
  | vsel => exact execVsel_memWf h
  | vshf => exact execVshf_memWf h
  | vbcst | vlog => exact moveDone_memWf h
  | vsumxInit | vsumxOut => exact sumxDone_memWf h
  | vsumxAcc => exact execVsumxAcc_memWf h
  | vsumxFold => exact execVsumxFold_memWf h
  | vmaxr | vnf => exact scaDone_memWf (VSrc.vals_memWf h)
  | vcvt => exact execVcvt_memWf h
  | vqmx => exact execVqmx_memWf h
  | vqi4 => exact execVqi4_memWf h
  | vlut => exact execVlut_memWf h
  | vps8Mul => exact execVps8Mul_memWf h
  | vps8Enc => exact execVps8Enc_memWf h
  | vsr => exact execVsr_memWf h
  | vpack => exact execVpack_memWf h
  | vunpk => exact execVunpk_memWf h
  | viadd => exact execViadd_memWf h
  | vimul => exact vint_memWf h
  | vmov => exact execVmov_memWf h
  | fabChapp => exact execFabChapp_memWf h
  | fabChtl => exact execFabChtl_memWf h
  | fabChsq => exact execFabChsq_memWf h
  | msend => exact execMsend_memWf h
  | tagset => exact commitActing_memWf (deferFire_memWf h)
  | yielde => exact execYielde_memWf h
  | trape | brke => exact fireTrap_memWf h

theorem fireStep_memWf {slot : Nat} (h : s.memWf) : OutWf (fireStep s p t slot) :=
  outWf_ite (strayTrap_memWf (memWf_update h)) (by
    split
    · exact shadowed_memWf (memWf_update h) (fun _ h1 => exec_memWf h1)
    · exact memWf_update h)

theorem step_memWf (h : s.memWf) : OutWf (step s) := by
  unfold step
  split
  · exact advance_memWf h
  · exact exec_memWf (memWf_update h)
  · exact exec_memWf (issueInstr_memWf (memWf_update h))
  · exact fireStep_memWf (memWf_update h)
  · exact phase_memWf (memWf_update h)

end Sys2Proof.Machine

end

namespace Sys2Proof

open Machine

/-- Settles O58, by the lemma of what the step takes: time moved on, an instruction or event, an issue, a firing or a
phase. -/
theorem memoryStaysCanonical : Obligations.MemoryStaysCanonical := by
  unfold Obligations.MemoryStaysCanonical
  intro s t h e
  exact memWf_of_next e (step_memWf h)

end Sys2Proof

/-! ## Tokens between tiles (O29)

Sending, hopping and dequeuing write buffers and a few notes of tiles and of regions. `Leaves` says so once for every such
operation; the equations below it say where a token goes on one route, which is all that a statement about a token asks. -/

section

namespace Sys2Proof.Claims

open Sys2Proof.Machine

variable {s t u : State}

/-! ### Operations of the fabric alone -/

theorem FabricOnly.refl (s : State) : FabricOnly s s :=
  ⟨fun _ _ => rfl, fun _ _ => rfl, fun _ _ => rfl, rfl, fun _ _ => rfl⟩

theorem FabricOnly.trans (h : FabricOnly s t) (g : FabricOnly t u) : FabricOnly s u where
  ctx p q := (g.ctx p q).trans (h.ctx p q)
  task p k := (g.task p k).trans (h.task p k)
  chain p c := (g.chain p c).trans (h.chain p c)
  parts := g.parts.trans h.parts
  byte host a := (g.byte host a).trans (h.byte host a)

theorem fabricOnly_setTile (s : State) (p n : Nat) (v : Tile) : FabricOnly s (s.setTile p n v) where
  ctx _ _ := State.ctx_setTile ..
  task _ _ := State.task_setTile ..
  chain _ _ := State.chain_setTile ..
  parts := rfl
  byte _ _ := rfl

theorem fabricOnly_setRegion (s : State) (p n : Nat) (v : Region) : FabricOnly s (s.setRegion p n v) where
  ctx _ _ := State.ctx_setRegion ..
  task _ _ := State.task_setRegion ..
  chain _ _ := State.chain_setRegion ..
  parts := rfl
  byte _ _ := rfl

/-- An operation of the fabric alone after which g of every tile is as before. -/
structure Leaves {α : Type} (g : Tile → α) (s t : State) : Prop where
  fabric : FabricOnly s t
  tile : ∀ h k, g (t.tile h k) = g (s.tile h k)

variable {α : Type} {g : Tile → α}

theorem Leaves.refl (g : Tile → α) (s : State) : Leaves g s s := ⟨.refl s, fun _ _ => rfl⟩

theorem Leaves.trans (h : Leaves g s t) (k : Leaves g t u) : Leaves g s u :=
  ⟨h.fabric.trans k.fabric, fun p n => (k.tile p n).trans (h.tile p n)⟩

theorem Leaves.foldl {β : Type} {f : State → β → State} {l : List β} (hf : ∀ t b, Leaves g t (f t b)) :
    Leaves g s (l.foldl f s) :=
  List.foldlRecOn l f (Leaves.refl g s) fun t h b _ => h.trans (hf t b)

theorem leaves_setTile {p n : Nat} {v : Tile} (hv : g v = g (s.tile p n)) : Leaves g s (s.setTile p n v) where
  fabric := fabricOnly_setTile ..
  tile h k := by
    by_cases e : h = p ∧ k = n
    · obtain ⟨rfl, rfl⟩ := e
      rw [State.tile_setTile_same, hv]
    · by_cases hp : h = p
      · subst hp
        rw [State.tile_setTile_other _ _ _ _ _ fun hk => e ⟨rfl, hk⟩]
      · rw [State.tile_setTile_pad _ _ _ _ _ _ hp]

theorem leaves_setRegion (g : Tile → α) (s : State) (p n : Nat) (v : Region) : Leaves g s (s.setRegion p n v) :=
  ⟨fabricOnly_setRegion .., fun _ _ => by rw [State.tile_setRegion]⟩

theorem leaves_setStiles (g : Tile → α) (s : State) (z : Tbl ChanStile) : Leaves g s { s with chStiles := z } :=
  ⟨⟨fun _ _ => rfl, fun _ _ => rfl, fun _ _ => rfl, rfl, fun _ _ => rfl⟩, fun _ _ => rfl⟩

theorem leaves_commitEpoch (g : Tile → α) (s : State) (p r : Nat) : Leaves g s (commitEpoch s p r) := by
  unfold commitEpoch
  dsimp only
  split
  · exact leaves_setRegion ..
  · exact .refl ..

theorem leaves_commitStile (g : Tile → α) (s : State) (p k n : Nat) : Leaves g s (commitStile s p k n) := by
  unfold commitStile
  split
  · exact leaves_commitEpoch ..
  · exact .refl ..

theorem leaves_markBusy (g : Tile → α) (s : State) (p r : Nat) : Leaves g s (markBusy s p r) := by
  unfold markBusy
  dsimp only
  split
  · exact leaves_setRegion ..
  · exact .refl ..

/-! ### Operations that write buffers -/

section Buffers

variable {p k n : Nat} {c : Cfg} (hg : ∀ tl m b, g (Tile.setBuf tl m b) = g tl)

include hg

theorem leaves_updBuf {f : Buf → Buf} : Leaves g s (s.updBuf p k n f) := leaves_setTile (hg ..)

theorem leaves_onDests {f : Route → Buf → Buf} {z : ChanStile → ChanStile} : Leaves g s (onDests s p k c n f z) := by
  unfold onDests
  refine .trans (.foldl fun t r => ?_) (.foldl fun t e => leaves_setStiles ..)
  split
  · exact .refl ..
  · exact leaves_updBuf hg

theorem leaves_placeOut {held : Bool} {skip : BitVec 6} {d : Tok} : Leaves g s (placeOut s p k c n held skip d) := by
  unfold placeOut
  exact (leaves_commitStile ..).trans (leaves_onDests hg)

end Buffers

theorem outq_setBuf (tl : Tile) (m : Nat) (b : Buf) : (tl.setBuf m b).outq = tl.outq := rfl
theorem pend_setBuf (tl : Tile) (m : Nat) (b : Buf) : (tl.setBuf m b).pend = tl.pend := rfl

theorem outq_noteEosOut (tl : Tile) (r : Region) (n : Nat) (d : Tok) : (noteEosOut tl r n d).outq = tl.outq := by
  unfold noteEosOut
  split
  · rfl
  · split <;> rfl

/-- An emission writes no queue of deferred results. -/
theorem leaves_emitOut (s : State) (p k n : Nat) (held : Bool) (d : Tok) :
    Leaves Tile.outq s (emitOut s p k n held d) := by
  unfold emitOut
  extract_lets x c r tl stoch _ cnt tagged s1 s2
  have queue : tl.outq = (s.tile p k).outq := rfl
  have counted : Leaves Tile.outq s s1 := leaves_setTile queue
  have sent : Leaves Tile.outq s s2 := leaves_setTile ((outq_noteEosOut ..).trans queue)
  split
  · split
    · split
      · exact counted.trans (leaves_onDests outq_setBuf)
      · exact counted
    · exact sent.trans (leaves_placeOut outq_setBuf)
  · exact (leaves_setTile ((outq_noteEosOut ..).trans queue)).trans (leaves_placeOut outq_setBuf)

/-! ### Deferred results and paced tokens -/

theorem outq_gathDone (tl : Tile) : tl.gathDone.outq = tl.outq := rfl

/-- Where no deferred result waits, a drain of them sends nothing and the queue stays empty. -/
theorem drainOut_of_empty {p k : Nat} (h : (s.tile p k).outq = []) :
    FabricOnly s (drainOut s p k) ∧ ((drainOut s p k).tile p k).outq = [] := by
  have e : drainOut s p k = s.updTile p k fun tl => ({ tl with outq := [] } : Tile).gathDone := by
    unfold drainOut
    rw [h]
    rfl
  rw [e]
  exact ⟨fabricOnly_setTile .., by rw [State.updTile, State.tile_setTile_same, outq_gathDone]⟩

/-- The one deferred result of a tile, a paced one whose turn has come, leaves: its id is answered and the queue is
empty. -/
theorem emitPaced_lone {p k : Nat} {e : Deferred} (hq : (s.tile p k).outq = [e])
    (hr : pacedReady s p k (((s.pad p).cfgAt k).getD []) [e] 0 = some 0) :
    (emitPaced s p k).1 = some e.id ∧ FabricOnly s (emitPaced s p k).2 ∧ ((emitPaced s p k).2.tile p k).outq = [] := by
  unfold emitPaced
  dsimp only
  rw [hq, hr]
  dsimp only [List.getElem?_cons_zero, List.eraseIdx_cons_zero]
  refine ⟨rfl, ?_⟩
  have h1 := fabricOnly_setTile s p k { s.tile p k with outq := [] }
  have sent : ∀ v : State, Leaves Tile.outq (s.setTile p k { s.tile p k with outq := [] }) v →
      FabricOnly s (drainOut v p k) ∧ ((drainOut v p k).tile p k).outq = [] := by
    intro v h2
    have hv : (v.tile p k).outq = [] := by rw [h2.tile, State.tile_setTile_same]
    obtain ⟨h3, h4⟩ := drainOut_of_empty hv
    exact ⟨(h1.trans h2.fabric).trans h3, h4⟩
  apply sent
  split
  · exact .foldl fun t n => leaves_emitOut ..
  · exact .refl ..

theorem emitPaced_of_notReady {p k : Nat}
    (h : pacedReady s p k (((s.pad p).cfgAt k).getD []) (s.tile p k).outq 0 = none) : emitPaced s p k = (none, s) := by
  unfold emitPaced
  dsimp only
  rw [h]

/-- A paced entry at the front is ready when its token is known and each of its outputs holds a place for it or has
space. -/
theorem pacedReady_front {p k : Nat} {c : Cfg} {e : Deferred} {es : List Deferred} (hp : e.paced = true)
    (ht : e.tok ≠ none)
    (hs : ∀ n, n < 4 → e.om.getLsbD n = true → e.held.getLsbD n = true ∨ outSpace s p k c n = true) :
    pacedReady s p k c (e :: es) 0 = some 0 := by
  have space : (outsOf (e.om &&& ~~~e.held)).all (outSpace s p k c ·) = true := by
    rw [List.all_eq_true]
    intro n hn
    simp only [outsOf, List.mem_filter, List.mem_range, bitAt, BitVec.getLsbD_and, BitVec.getLsbD_not,
      Bool.and_eq_true, Bool.not_eq_true'] at hn
    obtain ⟨hn4, hom, -, hheld⟩ := hn
    simpa [hheld] using hs n hn4 hom
  rw [pacedReady, if_pos ⟨hp, Option.isSome_iff_ne_none.2 ht, BitVec.and_zero, space⟩]

end Sys2Proof.Claims

namespace Sys2Proof.Machine

variable {s : State} {p q k n : Nat}

/-! ### What a buffer holds after a write to it and to another -/

@[simp] theorem Tile.buf_setBuf_same (tl : Tile) (n : Nat) (b : Buf) : (tl.setBuf n b).buf n = b := Tbl.get_put_same

@[simp] theorem Tile.buf_setBuf_other (tl : Tile) {m n : Nat} (b : Buf) (h : m ≠ n) : (tl.setBuf n b).buf m = tl.buf m :=
  Tbl.get_put_other h

/-- A write of a tile that leaves each buffer of it but number n. -/
theorem buf_setTile_other {v : Tile} (hv : ∀ m, m ≠ n → v.buf m = (s.tile p k).buf m) {h u m : Nat}
    (ne : (h, u, m) ≠ (p, k, n)) : ((s.setTile p k v).tile h u).buf m = (s.tile h u).buf m := by
  by_cases hp : h = p
  · subst hp
    by_cases hu : u = k
    · subst hu
      rw [State.tile_setTile_same, hv m fun hm => ne (by rw [hm])]
    · rw [State.tile_setTile_other _ _ _ _ _ hu]
  · rw [State.tile_setTile_pad _ _ _ _ _ _ hp]

/-- A write of a tile that leaves all its buffers. -/
theorem buf_setTile_keep {v : Tile} (hv : v.bufs = (s.tile p k).bufs) (h u m : Nat) :
    ((s.setTile p k v).tile h u).buf m = (s.tile h u).buf m :=
  congrArg (Tbl.get ({} : Buf) · m) ((Claims.leaves_setTile (g := Tile.bufs) hv).tile h u)

theorem buf_updBuf_same (f : Buf → Buf) : ((s.updBuf p k n f).tile p k).buf n = f ((s.tile p k).buf n) := by
  rw [State.updBuf, State.updTile, State.tile_setTile_same, Tile.buf_setBuf_same]

theorem buf_updBuf_other (f : Buf → Buf) {h u m : Nat} (ne : (h, u, m) ≠ (p, k, n)) :
    ((s.updBuf p k n f).tile h u).buf m = (s.tile h u).buf m :=
  buf_setTile_other (fun _ hm => Tile.buf_setBuf_other _ _ hm) ne

@[simp] theorem State.fc_setTile (v : Tile) : (s.setTile p n v).fc q = s.fc q := by
  by_cases h : q = p <;> simp [State.fc, State.setTile, h]

theorem stilesAt_setTile (s : State) (p n : Nat) (v : Tile) (h u m : Nat) :
    (s.setTile p n v).stilesAt h u m = s.stilesAt h u m := rfl

theorem Buf.push_toks (b : Buf) (held : Bool) (d : Tok) : (b.push held d).toks = b.toks ++ [d] := by
  cases held <;> rfl

theorem bufs_noteEosOut (tl : Tile) (r : Region) (n : Nat) (d : Tok) : (noteEosOut tl r n d).bufs = tl.bufs := by
  unfold noteEosOut
  split
  · rfl
  · split <;> rfl

theorem tile_markBusy (s : State) (p r h u : Nat) : (markBusy s p r).tile h u = s.tile h u :=
  (Claims.leaves_markBusy id s p r).tile h u

/-! ### A token sent on an output (R37, R64) -/

theorem asPlane_arr (data rep : Bool) (d : Tok) (a : Nat) :
    asPlane data rep { d with arr := a } = { asPlane data rep d with arr := a } := by
  unfold asPlane
  dsimp only
  split
  · rfl
  · split <;> rfl

theorem asPlane_eos (data rep : Bool) (d : Tok) : (asPlane data rep d).eos = d.eos := by
  unfold asPlane
  split
  · rfl
  · split <;> rfl

/-- The plane of an output is that of its first route. -/
theorem outPlane_of_from {c : Cfg} {r : Route} {rs : List Route} (h : c.from (8 + n) = r :: rs) :
    c.outPlane n = some r.data := by
  rw [Cfg.outPlane, ← List.head?_filter]
  simp only [Cfg.from] at h
  rw [h]
  rfl

/-- Where an output has one route and no stile is open, one buffer changes. -/
theorem onDests_lone {c : Cfg} {r : Route} {u b : Nat} (hr : c.from (8 + n) = [r]) (hd : routeDest k r = some (u, b))
    (hs : s.stilesAt p k n = []) (f : Route → Buf → Buf) (g : ChanStile → ChanStile) :
    onDests s p k c n f g = s.updBuf p u b (f r) := by
  have stiles : (s.updBuf p u b (f r)).stilesAt p k n = [] := (stilesAt_setTile ..).trans hs
  unfold onDests
  simp only [hr, List.foldl_cons, List.foldl_nil, hd, stiles]

/-- A token placed on a control-plane output of one route, where no stile is open, stands in the one buffer. -/
theorem placeOut_lone {c : Cfg} {r : Route} {u b : Nat} (hr : c.from (8 + n) = [r]) (hd : routeDest k r = some (u, b))
    (hc : r.data = false) (hs : s.stilesAt p k n = []) (held : Bool) (skip : BitVec 6) (d : Tok) :
    placeOut s p k c n held skip d = s.updBuf p u b fun x => x.push held
      { asPlane false r.rep { d with arr := if 8 ≤ r.dest then s.fc p + 1 else s.fc p } with skip := skip } := by
  have commit : commitStile s p k n = s := by rw [commitStile, hs]; rfl
  have plane : (c.outPlane n == some true) = false := by rw [outPlane_of_from hr, hc]; rfl
  unfold placeOut
  rw [commit, onDests_lone hr hd hs]
  congr 2
  funext x
  dsimp only
  rw [plane]
  by_cases own : 8 ≤ r.dest
  · simp only [if_pos own, asPlane_arr]
  · simp only [if_neg own, asPlane_arr]

theorem sendOut_of_free (h : (s.tile p k).blocked n = false) (d : Tok) : sendOut s p k n d = emitOut s p k n false d :=
  if_neg (by simp [h])

section Emission

variable {c : Cfg} (hc : ((s.pad p).cfgAt k).getD [] = c)

include hc

theorem emitOut_control (h : c.outPlane n ≠ some true) (held : Bool) (d : Tok) :
    emitOut s p k n held d =
      placeOut (s.setTile p k (noteEosOut (s.tile p k) ((((s.pad p).regionAt k).map (·.2)).getD {}) n d)) p k c n held 0
        d := by
  subst hc
  exact if_neg h

theorem toks_sendOut_control {r : Route} {u b : Nat} {d : Tok} (hr : c.from (8 + n) = [r])
    (hd : routeDest k r = some (u, b)) (hp : r.data = false) (hs : s.stilesAt p k n = [])
    (hb : (s.tile p k).blocked n = false) :
    (((sendOut s p k n d).tile p u).buf b).toks = ((s.tile p u).buf b).toks ++
      [{ asPlane false r.rep { d with arr := if 8 ≤ r.dest then s.fc p + 1 else s.fc p } with skip := 0 }] := by
  have plane : c.outPlane n ≠ some true := by simp [outPlane_of_from hr, hp]
  rw [sendOut_of_free hb, emitOut_control hc plane, placeOut_lone hr hd hp ((stilesAt_setTile ..).trans hs),
    buf_updBuf_same, Buf.push_toks, buf_setTile_keep (bufs_noteEosOut ..), State.fc_setTile]

/-- An all-zero token without EOS and PRG on a data-plane output under SKIP is counted in place of being sent, while fewer
than 63 are pending (R64). -/
theorem emitOut_counted {d : Tok} {r : Region} (hr : (((s.pad p).regionAt k).map (·.2)).getD {} = r)
    (hp : c.outPlane n = some true) (hu : r.ufc.getD (hdrUfc c.hdr) = false)
    (hz : zeroLanes (hdrLw c.hdr) (asPlane true false d) = true) (he : d.eos = false)
    (hg : (asPlane true false d).prg = false) (hn : (Tbl.get 0 (s.tile p k).pend n).toNat < 63) :
    emitOut s p k n false d = s.setTile p k
      { s.tile p k with
        lastTag := Tbl.put 0 (s.tile p k).lastTag n (asPlane true false d).tag
        pend := Tbl.put 0 (s.tile p k).pend n (Tbl.get 0 (s.tile p k).pend n + 1) } := by
  subst hc hr
  have he' : (asPlane true false d).eos = false := by rw [asPlane_eos, he]
  unfold emitOut
  refine (if_pos hp).trans ((if_pos ?_).trans rfl)
  simp only [hu, hz, he', hg, Bool.not_false, Bool.true_and, decide_eq_true_eq]
  exact hn

end Emission

/-! ### A head dequeued (R65) -/

theorem deqIn_skipped {d : Tok} {ds : List Tok} (h : ((s.tile p k).buf n).toks = d :: ds) (hd : d.dat = true)
    (hk : d.skip ≠ 0) :
    deqIn s p k n = (false, s.setTile p k ((s.tile p k).setBuf n
      { (s.tile p k).buf n with toks := { d with skip := d.skip - 1 } :: ds })) := by
  have h' : (((s.pad p).tile k).buf n).toks = d :: ds := h
  unfold deqIn
  dsimp only
  rw [h']
  exact if_pos (by rw [hd, bne_iff_ne.2 hk]; rfl)

theorem deqIn_taken {d : Tok} {ds : List Tok} (h : ((s.tile p k).buf n).toks = d :: ds)
    (hd : d.dat = false ∨ d.skip = 0) :
    ∃ e, deqIn s p k n = (d.dat && d.prg, s.setTile p k
      { (s.tile p k).setBuf n { (s.tile p k).buf n with toks := ds } with eosIn := e }) := by
  have h' : (((s.pad p).tile k).buf n).toks = d :: ds := h
  unfold deqIn
  dsimp only
  rw [h']
  dsimp only
  rw [if_neg (by rcases hd with hd | hd <;> simp [hd])]
  split
  · split
    · exact ⟨_, rfl⟩
    · exact ⟨_, rfl⟩
  · exact ⟨_, rfl⟩

theorem buf_deqIn_other {d : Tok} {ds : List Tok} (h : ((s.tile p k).buf n).toks = d :: ds) {g u m : Nat}
    (ne : (g, u, m) ≠ (p, k, n)) : ((deqIn s p k n).2.tile g u).buf m = (s.tile g u).buf m := by
  by_cases hd : d.dat = false ∨ d.skip = 0
  · obtain ⟨e, he⟩ := deqIn_taken h hd
    rw [he]
    refine buf_setTile_other (fun m hm => ?_) ne
    exact Tile.buf_setBuf_other (s.tile p k) _ hm
  · obtain ⟨hdat, hskip⟩ := not_or.1 hd
    rw [deqIn_skipped h (by simpa using hdat) hskip]
    exact buf_setTile_other (fun m hm => Tile.buf_setBuf_other _ _ hm) ne

/-! ### A token that hops (R23, R37) -/

theorem hopToken_link {c : Cfg} {src : Nat} {d : Tok} {ds : List Tok} (h4 : 4 ≤ src)
    (h : ((s.tile p k).buf src).toks = d :: ds) (ha : d.arr < s.fc p) : hopToken s p k c src = some d := by
  have head : (s.tile p k).rawHead src = some d := by rw [Tile.rawHead, h]; rfl
  unfold hopToken
  rw [if_neg (by omega), if_neg (by omega), head]
  exact if_pos ha

theorem hopDue_lone {c : Cfg} {src id : Nat} {r : Region} {e : Route} {d : Tok}
    (hc : ((s.pad p).cfgAt k).getD [] = c) (hr : (s.pad p).regionAt k = some (id, r)) (hs : hopRoutes c src = [e])
    (hd : hopToken s p k c src = some d) : hopDue s p k src = (regionRuns s p r && routeSpace s p k e) := by
  subst hc
  unfold hopDue
  simp [hr, hs, hd]

theorem routeSpace_eq {e : Route} {u b : Nat} (h : routeDest k e = some (u, b)) :
    routeSpace s p k e = decide (((s.tile p u).buf b).used < e.depth) := by
  rw [routeSpace, h]

theorem takeHop_link {src : Nat} (h4 : 4 ≤ src) :
    takeHop s p k src = s.updBuf p k src fun b => { b with toks := b.toks.drop 1 } := by
  unfold takeHop
  rw [if_neg (by omega), if_neg (by omega)]

/-- A token stamped with an fc at the tail of a buffer, into a free place. -/
def Buf.receive (e : Route) (fc : Nat) (d : Tok) (b : Buf) : Buf :=
  b.push false { asPlane e.data false d with arr := fc }

theorem Buf.receive_toks (e : Route) (fc : Nat) (d : Tok) (b : Buf) :
    (b.receive e fc d).toks = b.toks ++ [{ asPlane e.data false d with arr := fc }] := Buf.push_toks ..

section Hop

variable {p : Fin 32} {k : Fin 144} {src : Fin 20} {id u b : Nat} {r : Region} {c : Cfg} {e : Route} {d : Tok}
  (hc : ((s.pad p).cfgAt k).getD [] = c) (hr : (s.pad p).regionAt k = some (id, r))
  (hd : hopToken s p k c src = some d)

include hc hr hd

theorem execTokenHop_notDue (h : hopDue s p k src = false) : execTokenHop p k src s = .next s := by
  subst hc
  unfold execTokenHop
  dsimp only
  rw [hr]
  dsimp only
  rw [hd]
  exact if_neg (by simp [h])

theorem execTokenHop_lone (h4 : 4 ≤ src.val) (hs : hopRoutes c src = [e]) (hu : routeDest k e = some (u, b))
    (h : hopDue s p k src = true) :
    execTokenHop p k src s = .next (markBusy
      ((s.updBuf p k src fun b => { b with toks := b.toks.drop 1 }).updBuf p u b (Buf.receive e (s.fc p) d)) p id) := by
  have fc : (s.updBuf p k src fun b => { b with toks := b.toks.drop 1 }).fc p = s.fc p := State.fc_setTile ..
  subst hc
  unfold execTokenHop
  dsimp only
  rw [hr]
  dsimp only
  rw [hd]
  dsimp only
  rw [if_pos h, takeHop_link h4, hs]
  dsimp only [List.foldl_cons, List.foldl_nil]
  rw [hu]
  dsimp only
  rw [fc, if_neg (by omega)]
  rfl

end Hop

/-! ### A region's note that leaves its tiles and configuration -/

/-- What decides which tiles a region has and which configuration is active on them. -/
def Region.place (r : Region) : Bool × (Nat × Nat × Nat × Nat) × Option (BitVec 2) × Option Splice :=
  (r.alloc, (r.row0, r.col0, r.h, r.w), r.act, r.spl)

theorem Tbl.get_of_find? {α : Type} {d w : α} {l : Tbl α} {j : Nat} {P : Nat × α → Bool}
    (h : List.find? P l = some (j, w)) (hp : P (j, get d l j) = true) : get d l j = w := by
  induction l with
  | nil => simp at h
  | cons e l ih =>
    obtain ⟨i, x⟩ := e
    by_cases hi : i = j
    · subst hi
      simp only [get, if_true] at hp ⊢
      simpa [List.find?_cons, hp] using h
    · simp only [get, if_neg hi] at hp ⊢
      refine ih ?_ hp
      rw [List.find?_cons] at h
      split at h
      · simp only [Option.some.injEq, Prod.mk.injEq] at h
        exact absurd h.1 hi
      · exact h

/-- The first entry that meets a condition, after a write to its key of a value that meets it as the old one did: that
entry, or the value written in its place. -/
theorem Tbl.find?_set_of_agree {α : Type} {d v w : α} {l : Tbl α} {j : Nat} {P : Nat × α → Bool}
    (h : List.find? P l = some (j, w)) (hv : P (j, v) = P (j, get d l j)) :
    List.find? P (set l j v) = some (j, w) ∨ (List.find? P (set l j v) = some (j, v) ∧ get d l j = w) := by
  induction l with
  | nil => simp at h
  | cons e l ih =>
    obtain ⟨i, x⟩ := e
    have front : ∀ m : Tbl α, List.find? P m = some (j, w) ∨ P (j, v) = true →
        List.find? P ((j, v) :: m) = some (j, w) ∨
          (List.find? P ((j, v) :: m) = some (j, v) ∧ get d ((i, x) :: l) j = w) := by
      intro m hm
      cases hp : P (j, v) with
      | true => exact .inr ⟨List.find?_cons_of_pos hp, get_of_find? h (hv ▸ hp)⟩
      | false =>
        rw [List.find?_cons_of_neg (by simp [hp])]
        exact .inl (hm.resolve_right (by simp [hp]))
    rw [set]
    split
    · exact front _ (.inl h)
    split
    · rename_i hji
      subst hji
      refine front l ?_
      rw [hv, get, if_pos rfl]
      cases hx : P (j, x) with
      | true => exact .inr rfl
      | false => exact .inl (by simpa [List.find?_cons, hx] using h)
    · rename_i hji
      rw [get, if_neg (Ne.symm hji)] at hv ⊢
      cases hx : P (i, x) with
      | true => simp [hx, Ne.symm hji] at h
      | false =>
        simp only [List.find?_cons, hx] at h ⊢
        exact ih h hv

/-- A region's note changes neither which tiles a region has nor what is active on them. -/
theorem regionAt_updRegion {f : Region → Region} (hf : ∀ r, (f r).place = r.place) {id : Nat} {r : Region}
    (h : (s.pad p).regionAt k = some (id, r)) :
    ∃ v, ((s.updRegion p id f).pad p).regionAt k = some (id, v) ∧ v.place = r.place := by
  have pad : (s.updRegion p id f).pad p = (s.pad p).setRegion id (f (s.region p id)) := State.pad_setPad_same ..
  rw [pad]
  rw [Paddock.regionAt] at h ⊢
  have agree := hf (s.region p id)
  simp only [Region.place, Prod.mk.injEq] at agree
  obtain ⟨alloc, ⟨row, col, height, width⟩, -⟩ := agree
  rcases Tbl.find?_set_of_agree (d := {}) (v := f (s.region p id)) h
    (by rw [alloc, row, col, height, width]; rfl) with hs | ⟨hs, hw⟩
  · exact ⟨r, hs, rfl⟩
  · refine ⟨_, hs, (hf _).trans ?_⟩
    rw [← hw]
    rfl

theorem cfgAt_updRegion {f : Region → Region} (hf : ∀ r, (f r).place = r.place) {id : Nat} {r : Region}
    (h : (s.pad p).regionAt k = some (id, r)) :
    ((s.updRegion p id f).pad p).cfgAt k = (s.pad p).cfgAt k := by
  obtain ⟨v, hv, place⟩ := regionAt_updRegion hf h
  have tile : ((s.updRegion p id f).pad p).tile k = (s.pad p).tile k := State.tile_setRegion ..
  have act : v.actOn ((s.pad p).tile k) = r.actOn ((s.pad p).tile k) := by
    simp only [Region.place, Prod.mk.injEq] at place
    obtain ⟨-, -, act, spl⟩ := place
    rw [Region.actOn, act, spl]
    rfl
  rw [Paddock.cfgAt, hv, tile, Paddock.cfgAt, h]
  dsimp only
  rw [act]

theorem outSpace_updRegion (f : Region → Region) (id o : Nat) (c : Cfg) :
    outSpace (s.updRegion p id f) p k c o = outSpace s p k c o := by
  have gate : ∀ q, ((s.updRegion p id f).pad q).gate = (s.pad q).gate := by
    intro q
    by_cases h : q = p
    · subst h
      rw [State.updRegion, State.setRegion, State.pad_setPad_same, Paddock.setRegion_gate]
    · rw [State.updRegion, State.setRegion, State.pad_setPad_other _ _ _ _ h]
  have space : ∀ r, routeSpace (s.updRegion p id f) p k r = routeSpace s p k r := by
    intro r
    unfold routeSpace
    simp only [State.updRegion, State.tile_setRegion]
  unfold outSpace
  simp only [gate, space]
  rfl

/-! ### Flush tokens (R64, R132) -/

/-- A flush token that has space leaves: its pending count is zero then. -/
theorem pend_flushOut {o : Nat} (hn : Tbl.get 0 (s.tile p k).pend o ≠ 0)
    (hs : outSpace s p k (((s.pad p).cfgAt k).getD []) o = true) :
    Tbl.get 0 ((flushOut s p k o).tile p k).pend o = 0 := by
  unfold flushOut
  dsimp only
  rw [if_pos ⟨hn, hs⟩, (Claims.leaves_placeOut Claims.pend_setBuf).tile, State.tile_setTile_same, Tbl.get_put_same]

theorem fabricOnly_flushOut (s : State) (p k o : Nat) : Claims.FabricOnly s (flushOut s p k o) := by
  unfold flushOut
  dsimp only
  split
  · exact (Claims.fabricOnly_setTile ..).trans (Claims.leaves_placeOut Claims.pend_setBuf).fabric
  · exact .refl s

theorem flushDue_iff {o : Nat} : flushDue s p k o = true ↔ Tbl.get 0 (s.tile p k).pend o ≠ 0 ∧
    flushWaits s p k = true ∧ outSpace s p k (((s.pad p).cfgAt k).getD []) o = true := by
  simp [flushDue, and_assoc]

theorem regionAt_of_flushWaits (h : flushWaits s p k = true) : ∃ id r, (s.pad p).regionAt k = some (id, r) := by
  cases hr : (s.pad p).regionAt k with
  | none => simp [flushWaits, hr] at h
  | some e => exact ⟨e.1, e.2, rfl⟩

theorem execSkipFlushEmit_due {p : Fin 32} {k : Fin 144} {o : Fin 4} (h : flushDue s p k o = true) :
    ∃ t, execSkipFlushEmit p k o s = .next t ∧ Tbl.get 0 (t.tile p k).pend o = 0 ∧ Claims.FabricOnly s t := by
  obtain ⟨hn, hw, hs⟩ := flushDue_iff.1 h
  obtain ⟨id, r, hr⟩ := regionAt_of_flushWaits hw
  unfold execSkipFlushEmit
  rw [if_pos h, hr]
  dsimp only
  refine ⟨_, rfl, ?_, .trans (.trans ?_ (fabricOnly_flushOut ..)) (Claims.leaves_markBusy Tile.pend ..).fabric⟩
  · rw [tile_markBusy]
    split
    · apply pend_flushOut
      · rwa [State.updRegion, State.tile_setRegion]
      · rw [outSpace_updRegion, cfgAt_updRegion ?_ hr]
        · exact hs
        · exact fun _ => rfl
    · exact pend_flushOut hn hs
  · split
    · exact Claims.fabricOnly_setRegion ..
    · exact .refl s

/-! ### A region that drains (R132) -/

variable {id : Nat} {r : Region}

theorem cfgaDrains_of (h : Claims.CfgaDrains s p id) : cfgaDrains s p id = true := by
  obtain ⟨w, wait, opc, named, force⟩ := h
  have polls : pollOf s p (s.region p id).owner 0x63 = some (seqFields w, 0) := by
    rw [pollOf, wait]
    exact if_pos (by rw [opc]; rfl)
  have names : regionId s p (s.region p id).owner (seqFields w) = id := named
  have waits : ownerWaits s p id 0x63 = some (seqFields w, 0) := by
    rw [ownerWaits, polls]
    exact if_pos names
  rw [cfgaDrains, waits]
  dsimp only
  rw [force]
  rfl

theorem tokens_of_empty {tl : Tile} (h : ∀ e ∈ tl.bufs, e.2.toks = []) : tl.tokens = 0 :=
  List.foldlRecOn tl.bufs _ (motive := (· = 0)) rfl fun n hn e he => by rw [hn, h e he]; rfl

theorem tokensHeld_of_empty (h : ∀ j ∈ r.tileList, ∀ e ∈ (s.tile p j).bufs, e.2.toks = []) : tokensHeld s p r = 0 :=
  List.foldlRecOn r.tileList _ (motive := (· = 0)) rfl fun n hn j hj => by rw [hn, tokens_of_empty (h j hj)]

theorem works_of (h : Claims.NoMatrixWork s p k) : (s.tile p k).mx.works (s.fc p) = false := by
  obtain ⟨idle, last⟩ := h
  simp only [Matrix.works, Bool.or_eq_false_iff, beq_eq_false_iff_ne]
  refine ⟨?_, last⟩
  cases away : (s.tile p k).mx.away with
  | some _ => rfl
  | none =>
    obtain ⟨pass, drain⟩ := idle away
    rw [pass, drain]
    rfl

theorem engineWorks_of_opsDone (h : Claims.OpsDone s p id r) : engineWorks s p id = false := by
  obtain ⟨-, engines, -, -⟩ := h
  rw [engineWorks, List.any_eq_false]
  intro e he works
  simp only [Bool.and_eq_true, List.any_eq_true, decide_eq_true_eq] at works
  obtain ⟨live, a, ha, mine, late⟩ := works
  have runs : e.2.st ≠ .detached ∧ e.2.st ≠ .halted ∧ e.2.st ≠ .stopped := by
    refine ⟨?_, ?_, ?_⟩ <;> intro st <;> simp [st] at live
  have done := engines e he runs a ha (by simpa [Option.any_eq_true] using mine)
  omega

theorem crossing_of_opsDone (h : Claims.OpsDone s p id r) : crossing s p r = false := by
  obtain ⟨-, -, stiles, -⟩ := h
  rw [crossing, List.any_eq_false]
  intro e he
  simp only [Bool.and_eq_true, beq_iff_eq, Bool.not_eq_true', not_and, Bool.not_eq_false]
  rintro ⟨hp, hin⟩
  rw [stiles e he hp hin]
  rfl

theorem opsInProgress_of_opsDone (h : Claims.OpsDone s p id r) : opsInProgress s p id r = false := by
  have working : (r.tileList.any fun t => (s.tile p t).working (s.fc p)) = false := by
    rw [List.any_eq_false]
    intro j hj
    obtain ⟨tiles, -⟩ := h
    obtain ⟨reqs, outq, mx⟩ := tiles j hj
    simp [Tile.working, reqs, outq, works_of mx]
  rw [opsInProgress, working, engineWorks_of_opsDone h, crossing_of_opsDone h]
  rfl

theorem messaging_of_opsDone (h : Claims.OpsDone s p id r) : messaging s p id = false := by
  obtain ⟨-, -, -, msgs⟩ := h
  rw [messaging, List.any_eq_false]
  intro m hm
  simpa using msgs m hm

/-- The statement's flush token is the model's: the owner's CFGA waits, and the region is drained but for pending counts or
is leaving them in this fc. -/
theorem flushDue_of {o : Nat} (h : Claims.FlushDue s p k o) : flushDue s p k o = true := by
  obtain ⟨id, r, hr, spl, cfga, pend, space, drained⟩ := h
  refine flushDue_iff.2 ⟨pend, ?_, space⟩
  have now : (drainedBut s p id r || r.flushFc == some (s.fc p)) = true := by
    rcases drained with leaves | ⟨ops, empty⟩
    · simp [leaves]
    · simp [drainedBut, opsInProgress_of_opsDone ops, messaging_of_opsDone ops, tokensHeld_of_empty empty]
  rw [flushWaits, hr]
  dsimp only
  rw [spl]
  dsimp only
  rw [cfgaDrains_of cfga, now]
  rfl

end Sys2Proof.Machine

namespace Sys2Proof.Claims

open Sys2Proof.Machine

/-- Emission and dequeue: a token sent with one destination, one counted under SKIP, a head taken. -/
theorem tokensMove : TokensMove := by
  refine ⟨?_, ?_, ?_⟩
  · intro s p k n u b r d c hr hd hp hs hb
    exact toks_sendOut_control rfl hr hd hp hs hb
  · intro s p k n d c r tl hp hb hu hz he hg hn
    rw [sendOut_of_free hb, emitOut_counted rfl rfl hp hu hz he hg hn]
    constructor
    · rw [State.tile_setTile_same, Tbl.get_put_same]
    · apply buf_setTile_keep
      rfl
  · intro s p k n d ds h b
    refine ⟨fun hd hk => ?_, fun hd => ?_, fun g u m ne => buf_deqIn_other h ne⟩
    · simp only [b, deqIn_skipped h hd hk, State.tile_setTile_same, Tile.buf_setBuf_same, and_self]
    · obtain ⟨e, he⟩ := deqIn_taken h hd
      have kept : b = (((s.tile p k).setBuf n { (s.tile p k).buf n with toks := ds }).buf n).toks := by
        simp only [b, he, State.tile_setTile_same]
        rfl
      exact ⟨by rw [kept, Tile.buf_setBuf_same], by rw [he]⟩

/-- A hop on one route: the source loses its head and the destination gains it, each in a buffer the other's write leaves;
it is due exactly where the region runs and there is space. -/
theorem tokenHop_moves {s : State} {p : Fin 32} {k : Fin 144} {src : Fin 20} {id u b : Nat} {r : Region} {e : Route}
    {d : Tok} {ds : List Tok} (hr : (s.pad p).regionAt k = some (id, r)) (h4 : 4 ≤ src.val)
    (hs : hopRoutes (((s.pad p).cfgAt k).getD []) src = [e]) (hu : routeDest k e = some (u, b))
    (ne : (u, b) ≠ (k.val, src.val)) (ht : ((s.tile p k).buf src).toks = d :: ds) (ha : d.arr < s.fc p) :
    (regionRuns s p r = true → ((s.tile p u).buf b).used < e.depth →
      ∃ t, exec (.tokenHop p k src) s = .next t ∧ ((t.tile p k).buf src).toks = ds ∧
        ((t.tile p u).buf b).toks = ((s.tile p u).buf b).toks ++ [{ asPlane e.data false d with arr := s.fc p }] ∧
        FabricOnly s t) ∧
    (regionRuns s p r = false ∨ e.depth ≤ ((s.tile p u).buf b).used → exec (.tokenHop p k src) s = .next s) := by
  have offered := hopToken_link (c := ((s.pad p).cfgAt k).getD []) h4 ht ha
  have due := hopDue_lone rfl hr hs offered
  rw [routeSpace_eq hu] at due
  have apart : (p.val, u, b) ≠ (p.val, k.val, src.val) := fun h => ne (Prod.mk.inj h).2
  constructor
  · intro runs space
    refine ⟨_, execTokenHop_lone rfl hr offered h4 hs hu (by simp [due, runs, space]), ?_, ?_, ?_⟩
    · rw [tile_markBusy, buf_updBuf_other _ apart.symm, buf_updBuf_same, ht]
      rfl
    · rw [tile_markBusy, buf_updBuf_same, Buf.receive_toks, buf_updBuf_other _ apart]
    · exact (((leaves_updBuf pend_setBuf).trans (leaves_updBuf pend_setBuf)).trans (leaves_markBusy ..)).fabric
  · intro held
    refine execTokenHop_notDue rfl hr offered ?_
    rw [due]
    rcases held with stands | full
    · rw [stands, Bool.false_and]
    · rw [decide_eq_false (by omega), Bool.and_false]

/-- A later token of a gathered row (R173): with no other result in the queue, the drain after it finds nothing to send. -/
theorem gathRowToken_leaves {s : State} {p : Fin 32} {k : Fin 144} {e : Deferred} (hq : (s.tile p k).outq = [e])
    (hp : e.paced = true) (ht : e.tok ≠ none)
    (hs : ∀ n, n < 4 → e.om.getLsbD n = true → e.held.getLsbD n = true ∨
      outSpace s p k (((s.pad p).cfgAt k).getD []) n = true) :
    ∃ t, exec (.gathRowTokenEmit p k) s = .next t ∧ (t.tile p k).outq = [] ∧ FabricOnly s t := by
  obtain ⟨sent, fabric, empty⟩ := emitPaced_lone hq (pacedReady_front hp ht hs)
  have run : exec (.gathRowTokenEmit p k) s = execGathRowTokenEmit p k s := rfl
  rw [run, execGathRowTokenEmit]
  dsimp only
  rw [sent]
  refine ⟨_, rfl, ?_, (fabric.trans (fabricOnly_setTile ..)).trans (leaves_markBusy Tile.outq ..).fabric⟩
  rw [tile_markBusy, State.updTile, State.tile_setTile_same, outq_gathDone, empty]

theorem gathRowToken_waits {s : State} {p : Fin 32} {k : Fin 144}
    (h : pacedReady s p k (((s.pad p).cfgAt k).getD []) (s.tile p k).outq 0 = none) :
    exec (.gathRowTokenEmit p k) s = .next s := by
  have run : exec (.gathRowTokenEmit p k) s = execGathRowTokenEmit p k s := rfl
  rw [run, execGathRowTokenEmit, emitPaced_of_notReady h]

/-- Hops, flush tokens and later tokens of gathered rows. -/
theorem tokenEvents : TokenEvents := by
  refine ⟨?_, fun s p k o => ⟨fun due => ?_, fun waits => ?_⟩, fun s p k => ?_⟩
  · intro s p k src id r e u b d ds hr h4 hs hu ne ht ha
    exact tokenHop_moves hr h4 hs hu ne ht ha
  · exact execSkipFlushEmit_due (due.elim (fun h => h) flushDue_of)
  · exact if_neg (by simp [waits])
  · intro q c
    exact ⟨gathRowToken_waits, fun e hq hp ht hs => gathRowToken_leaves hq hp ht hs⟩

end Sys2Proof.Claims

end

namespace Sys2Proof

open Machine

/-- Settles O29, by the two parts it names: what an emission and a dequeue do to a buffer, and what the three events of
tokens do. -/
theorem tokensMoveAndArrive : Obligations.TokensMoveAndArrive := by
  unfold Obligations.TokensMoveAndArrive
  exact ⟨Claims.tokensMove, Claims.tokenEvents⟩

end Sys2Proof

/-! ## Decoding and encoding (O54, O60)

An instruction's word is packed from its fields and its opcode (`seqPack`, `fabPack`), and a word is packed from its own
(`seqPack_fields`, `fabPack_fields`). What is left is that the opcode maps and the encoder agree row by row. -/

section

namespace Sys2Proof

open Machine

/-! ### From an instruction to its word and back -/

/-- The word of a well-formed instruction decodes to it, whatever the instruction: an event has no word, the rows that have
an opcode of their own are found by it, the others by the field that tells them apart. -/
theorem decode_of_encode (i : Instr) : Laws.RoundTrip.Statement i := by
  cases i with
  | seqOpComplete | tagWaitComplete | wfeWake | paddockGateF3 | illegalWord | fetchFault | contextBudgetTrap |
    lnchSlotAcquire | eccmodeClr | eccmodeDecWrite | paddockResetDone | gathRowTokenEmit | memNodeComplete |
    parkedRequestRetry | mfirePositionTake | matrixPassComplete | carryHoldResume | mdrnSpillToken | mdrnComplete |
    mcarryExpToken | tokenHop | skipFlushEmit | bidAdmit | cfgaActivate | rgnfFree | qwaitReturn | decisionSwitch |
    spliceSwap | qnc | taskRetire | budgetAdderUpdate | budgetFreeze | taskResume | yieldRelease | asyncTrapDelivery |
    regionEccRecovery | scrubVisit | spareAdvance | spareCompare | copy | fill | conv | engGath | engScat | areduce |
    rscat | agath | signal | waitseq | waitseqReread | stampReread | chainEntryComplete | chainTranslationRetry |
    remoteWriteTimeout | remoteWriteReceive | messageArrive | stileTokenArrive | stileTmo | shapePoint |
    baselineWindowEnd | trialVerdict | tunerPropose | clampStepDown | clampStepUp | plimStepDown | plimStepUp | start
    | doorbellWake | topi | topt | registerWrite | atsInvalidation | setroot | bindpart | inval | hostwin | group |
    linkwin | restart | propose | notice | attest | fwstage | reboot | ident | plimit | powerOn | fundamentalReset |
    stageLimitExpiry | stageComplete | powerOff | hostLinkTraining | ideKm | vfEnable | trialWindowEnd =>
    exact Laws.RoundTrip.ofNone rfl
  | seqNop | seqAdd | seqSub | seqMul | seqMulh | seqMulhu | divu | remu | seqAnd | seqOr | seqXor | seqShl | seqShr |
    seqSra | seqMin | seqMax | seqMinu | seqMaxu | seqClz | seqPopc | addi | andi | ori | xori | shli | shri | srai |
    movi | movhi | seqSel | seqCeq | seqCne | seqClt | seqCltu | seqCle | seqCleu | ceqi | clti | pand | por | pnot |
    br | jmp | call | ret | wany | wall | ffr | tclr | wfe | wake | ld | lds | st | lda | stl | aadd | aswp | acas |
    amin | amax | aor | aand | seqFence | seqPref | rgna | rgnf | cfgl | cfga | splc | qwait | toksv | tokrs | decb |
    rgns | seqChapp | seqChtl | seqChsq | chwt | lnch | tskq | bspl | btop | brd | yld | cont | jsub | juns | jpin |
    jupn | jrd | jprp | jrev | jrpl | jbase | jver | trap | eret | csrw | halt | bkpt | ctxs | ctxr =>
    exact Laws.RoundTrip.ofSeq rfl fun _ => rfl
  | fabNop | mov | fabAdd | fabSub | fabMul | fabMulh | fabMulhu | addsat | fabAnd | fabOr | fabXor | andn | fabShl |
    fabShr | fabSra | rot | fabMin | fabMax | fabMinu | fabMaxu | fabCeq | fabCne | fabClt | fabCltu | fabCle |
    fabCleu | fabSel | fabClz | fabPopc | bfx | bfi | agen | steer | steerd | mrgo | mrga | gate | drop | repl | eosg
    | eosd | iter | lexit | sqsh | cnte | infl | deci | plog | skipa | fmts | progm | halte | sld | sldv | sst | sstv
    | sldf | slde | sstf | sstw | sfe | saadd | samin | samax | saor | saand | sacas | stas | gld | gldv | gst | gstv
    | gaadd | gacas | gath | scat | ojoin | fabFence | fabPref | ags | mldb | mfire | manch | mzero | mdrn | mscl |
    mcbk | mstat | mswap | vadd | vsub | vmul | vfma | vmin | vmax | vabs | vneg | vex2 | vlg2 | vrcp | vrsq | vscl |
    vcmp | vsel | vshf | vbcst | vmaxr | vcvt | vqmx | vqi4 | vlut | vsr | vnf | vpack | vunpk | vlog | viadd | vimul
    | vmov | fabChapp | fabChtl | fabChsq | msend | tagset | yielde | budq | trape | brke =>
    exact Laws.RoundTrip.ofFab rfl fun _ => rfl
  | rfold => exact Laws.RoundTrip.rfold _
  | rfoldUnfold => exact Laws.RoundTrip.rfoldUnfold _
  | traceOff => exact Laws.RoundTrip.traceOff _
  | traceRecord => exact Laws.RoundTrip.traceRecord _
  | traceBind => exact Laws.RoundTrip.traceBind _
  | traceRead => exact Laws.RoundTrip.traceRead _
  | csrr => exact Laws.RoundTrip.csrr _
  | mcpopRead => exact Laws.RoundTrip.mcpopRead _
  | pgateStatus => exact Laws.RoundTrip.pgateStatus _
  | pgateClose => exact Laws.RoundTrip.pgateClose _
  | pgateOpen => exact Laws.RoundTrip.pgateOpen _
  | pgateReset => exact Laws.RoundTrip.pgateReset _
  | pgateFreq => exact Laws.RoundTrip.pgateFreq _
  | pgateForm => exact Laws.RoundTrip.pgateForm _
  | stilClose => exact Laws.RoundTrip.stilClose _
  | stilChannel => exact Laws.RoundTrip.stilChannel _
  | stilMemory => exact Laws.RoundTrip.stilMemory _
  | mcarryCfg => exact Laws.RoundTrip.mcarryCfg _
  | mcarryExp => exact Laws.RoundTrip.mcarryExp _
  | mcarryCnt => exact Laws.RoundTrip.mcarryCnt _
  | vsumxInit => exact Laws.RoundTrip.vsumxInit _
  | vsumxAcc => exact Laws.RoundTrip.vsumxAcc _
  | vsumxFold => exact Laws.RoundTrip.vsumxFold _
  | vsumxOut => exact Laws.RoundTrip.vsumxOut _
  | vps8Mul => exact Laws.RoundTrip.vps8Mul _
  | vps8Enc => exact Laws.RoundTrip.vps8Enc _

/-! ### From a word to its instruction and back -/

section Rows

variable {o opc : BitVec 8} {f : SeqF} {g : FabF} {i : Instr} {w : BitVec 64}

theorem seqPack_of_toNat (e : opc.toNat = o.toNat) : some (seqPack o f) = some (seqPack opc f) := by
  rw [BitVec.eq_of_toNat_eq e]

theorem fabPack_of_toNat (e : opc.toNat = o.toNat) : some (fabPack o g) = some (fabPack opc g) := by
  rw [BitVec.eq_of_toNat_eq e]

/-- The row of a sequencer opcode is encoded with that opcode and the fields it was given: one case per row. -/
theorem encode_of_seqRow (h : seqRow opc f = some i) : encode i = some (seqPack opc f) := by
  unfold seqRow at h
  split at h <;> (repeat' split at h) <;> cases h <;> exact seqPack_of_toNat ‹_›

/-- The row of a fabric opcode is encoded with that opcode and the fields it was given: one case per row. -/
theorem encode_of_fabRow (h : fabRow opc g = some i) : encode i = some (fabPack opc g) := by
  unfold fabRow at h
  split at h <;> (repeat' split at h) <;> cases h <;> exact fabPack_of_toNat ‹_›

theorem encode_of_decodeSeq (h : decodeSeq w = some i) : i.wf = true ∧ encode i = some w := by
  unfold decodeSeq at h
  split at h
  · rename_i kind
    split at h
    · rename_i row
      split at h
      · rename_i wf
        obtain rfl := Option.some.inj h
        exact ⟨wf, by rw [encode_of_seqRow row, seqPack_fields w kind]⟩
      · cases h
    · cases h
  · cases h

theorem encode_of_decodeFab (h : decodeFab w = some i) : i.wf = true ∧ encode i = some w := by
  unfold decodeFab at h
  split at h
  · rename_i kind
    split at h
    · rename_i row
      split at h
      · rename_i wf
        obtain rfl := Option.some.inj h
        exact ⟨wf, by rw [encode_of_fabRow row, fabPack_fields w kind]⟩
      · cases h
    · cases h
  · cases h

theorem encode_of_decode (h : decode w = some i) : i.wf = true ∧ encode i = some w := by
  unfold decode at h
  split at h
  · exact encode_of_decodeSeq h
  split at h
  · exact encode_of_decodeFab h
  · cases h

end Rows

/-! ### Words as bytes (R3) -/

/-- Bit n of a word is bit n mod 8 of byte n / 8. -/
theorem getLsbD_wordOfBytes (bs : List (BitVec 8)) {n : Nat} (hn : n < 64) :
    (wordOfBytes bs).getLsbD n = (bs.getD (n / 8) 0).getLsbD (n % 8) := by
  induction bs generalizing n with
  | nil => simp [wordOfBytes]
  | cons b bs ih =>
    rw [wordOfBytes, BitVec.getLsbD_or, BitVec.getLsbD_shiftLeft, BitVec.getLsbD_setWidth]
    by_cases h : n < 8
    · simp [h, hn, Nat.div_eq_of_lt h, Nat.mod_eq_of_lt h]
    · obtain ⟨m, rfl⟩ : ∃ m, n = m + 8 := ⟨n - 8, by omega⟩
      simp [hn, ih (show m < 64 by omega)]

theorem bytesOfWord_eq_map (w : BitVec 64) : bytesOfWord w = (List.range 8).map fun k => w.extractLsb' (8 * k) 8 := rfl

@[simp] theorem wordOfBytes_bytesOfWord (w : BitVec 64) : wordOfBytes (bytesOfWord w) = w := by
  apply BitVec.eq_of_getLsbD_eq
  intro n hn
  have byte : n / 8 < 8 := by omega
  rw [getLsbD_wordOfBytes _ hn, bytesOfWord_eq_map]
  simp [byte, Nat.mod_lt, Nat.div_add_mod]

theorem decodeTableWord_toNat (nbits : Nat) (w : BitVec 64) : decodeTableWord nbits w.toNat = decode w := by
  have all : (bytesOfWord w).take 8 = bytesOfWord w := rfl
  have len : ¬ (bytesOfWord w).length < 8 := Nat.lt_irrefl 8
  rw [decodeTableWord, BitVec.ofNat_toNat, BitVec.setWidth_eq, decodeBytes, if_neg len, all, wordOfBytes_bytesOfWord,
    Option.map_map]
  exact Option.map_id_apply

/-- Settles O54, by the row of an opcode in both directions and the bytes of a word. -/
theorem decodeAndEncodeAgree : Obligations.DecodeAndEncodeAgree := by
  unfold Obligations.DecodeAndEncodeAgree
  refine ⟨fun i w wf e => decode_of_encode i w wf e, fun w i h => encode_of_decode h, fun i nbits w wf e => ?_⟩
  rw [decodeTableWord_toNat]
  exact decode_of_encode i w wf e

/-- Settles O60: each word is the encoding of the instruction its chapter shows, which decodes to it by O54. -/
theorem wordsOfTheSpec : Obligations.WordsOfTheSpec := by
  unfold Obligations.WordsOfTheSpec
  intro e he
  have encoded : e.2.wf = true ∧ encode e.2 = some e.1 := by
    revert e
    decide
  exact decode_of_encode e.2 e.1 encoded.1 encoded.2

end Sys2Proof

end

/-! ## Every instruction answers (O57)

No meaning ends in a fault or a refusal: an operation branches on what it finds, and every branch is a next state. One
lemma per operation that branches says so, in the order of the model; `exec_answers` gathers the instructions and events.
The one fault of the machine is `advance`'s, where nothing is coming and the power is off. -/

section

namespace Sys2Proof.Machine

/-- An outcome is a next state. -/
def Answers (o : Out) : Prop := ∃ t, o = .next t

section Answering

variable {s : State} {p : Fin 32} {q : Fin 4} {k : Fin 144} {r : Fin 16} {c : Fin 17} {j : Fin 64} {row : Fin 12} {e : Fin 20} {n : Nat}
  {src : BitVec 20} {va : BitVec 64} {bs : List (BitVec 8)} {f : SeqF} {g : FabF} {perm : Ctx → Bool} {opc : BitVec 8}

theorem answers_next : Answers (.next s) := ⟨s, rfl⟩

theorem answers_ite {c : Prop} [Decidable c] {x y : Out} (hx : Answers x) (hy : Answers y) :
    Answers (if c then x else y) := by
  split
  · exact hx
  · exact hy

/-! ### Operations that instructions share -/

/-- A word of the sequencer answers where its body does: the trap PRIV and a failing guard are next states (R31, R43). -/
theorem issueWith_answers {body : State → Out} (h : Answers (body s)) : Answers (issueWith f perm s body) :=
  answers_ite answers_next (answers_ite h answers_next)

theorem seqWrite_answers {val : Ctx → BitVec 64} : Answers (seqWrite f s val) := issueWith_answers answers_next

theorem seqSlow_answers {n : Nat} {val : Ctx → BitVec 64} : Answers (seqSlow f s n val) := issueWith_answers answers_next

theorem seqPred_answers {val : Ctx → Bool} : Answers (seqPred f s val) := issueWith_answers answers_next

theorem tagWait_answers {all : Bool} : Answers (tagWait f s all) := issueWith_answers answers_next

theorem branchTo_answers {target : BitVec 64} {upd : Ctx → Ctx} : Answers (branchTo s target upd) :=
  answers_ite answers_next answers_next

theorem memIssue_answers : Answers (memIssue opc f s) := issueWith_answers (by
  dsimp only
  split <;> exact answers_next)

theorem memWait_answers {va : BitVec 64} : Answers (memWait opc f s va) := issueWith_answers answers_next

theorem regionIns_answers {body : Nat → Region → State → State} : Answers (regionIns f s body) :=
  issueWith_answers answers_next

theorem taskIns_answers {body : Nat → State → State} : Answers (taskIns f s perm body) := issueWith_answers (by
  split <;> exact answers_next)

theorem traceIns_answers {on : Option Nat} {upd : State → State} : Answers (traceIns f s on upd) :=
  issueWith_answers (answers_ite answers_next answers_next)

theorem areaIns_answers {tb : Ctx → Nat} {body : Nat → State → State} : Answers (areaIns f s perm tb body) :=
  issueWith_answers answers_next

theorem spadFire_answers {writes : Bool} {n : Nat} : Answers (spadFire opc g writes n s) :=
  answers_ite answers_next answers_next

theorem globFire_answers {writes : Bool} {n align : Nat} {base va : BitVec 64} :
    Answers (globFire opc g writes n base va align s) := by
  unfold globFire
  dsimp only
  split <;> exact answers_next

theorem passFire_answers : Answers (passFire opc g s) := answers_ite answers_next answers_next

theorem vfp1_answers {fn : Ex → Ex × Bool} : Answers (vfp1 opc g s fn) := answers_ite answers_next answers_next

theorem vfp2_answers {fn : Fir → Nat → Ex → Ex → Ex × Bool} : Answers (vfp2 opc g s fn) :=
  answers_ite answers_next answers_next

theorem engineTurn_answers {c op : Nat} : Answers (engineTurn s p c op) := by
  unfold engineTurn
  split
  · exact answers_next
  · exact answers_ite answers_next answers_next

theorem collTurn_answers {op : Nat} : Answers (collTurn s p op) := by
  unfold collTurn
  dsimp only
  (repeat' split) <;> exact answers_next

/-! ### Instructions of the sequencer that branch -/

theorem execRgna_answers : Answers (execRgna f s) := issueWith_answers (by split <;> exact answers_next)

theorem execCsrr_answers : Answers (execCsrr f s) := issueWith_answers (by split <;> exact answers_next)

theorem execCsrw_answers : Answers (execCsrw f s) := issueWith_answers (by split <;> exact answers_next)

theorem execSeqChapp_answers : Answers (execSeqChapp f s) := issueWith_answers (by
  dsimp only
  (repeat' split) <;> exact answers_next)

theorem execSeqChtl_answers : Answers (execSeqChtl f s) := issueWith_answers (by
  dsimp only
  (repeat' split) <;> exact answers_next)

theorem execLnch_answers : Answers (execLnch f s) := issueWith_answers (by
  dsimp only
  (repeat' split) <;> exact answers_next)

theorem execTskq_answers : Answers (execTskq f s) := issueWith_answers (by
  dsimp only
  (repeat' split) <;> exact answers_next)

theorem execJsub_answers : Answers (execJsub f s) := issueWith_answers (by
  dsimp only
  (repeat' split) <;> exact answers_next)

theorem execStilClose_answers : Answers (execStilClose f s) := issueWith_answers (by
  dsimp only
  (repeat' split) <;> exact answers_next)

theorem execCtxr_answers : Answers (execCtxr f s) := issueWith_answers (by
  dsimp only
  (repeat' split) <;> exact answers_next)

theorem execStilChannel_answers : Answers (execStilChannel f s) := issueWith_answers (by
  dsimp only
  (repeat' split) <;> exact answers_next)

theorem execStilMemory_answers : Answers (execStilMemory f s) := issueWith_answers (by
  dsimp only
  (repeat' split) <;> exact answers_next)

theorem execSeqChsq_answers : Answers (execSeqChsq f s) := issueWith_answers (answers_ite answers_next answers_next)

theorem execJuns_answers : Answers (execJuns f s) := issueWith_answers (answers_ite answers_next answers_next)

theorem execCont_answers : Answers (execCont f s) := issueWith_answers (answers_ite answers_next answers_next)

theorem execMcpopRead_answers : Answers (execMcpopRead f s) :=
  issueWith_answers (answers_ite answers_next answers_next)

theorem execPgateClose_answers : Answers (execPgateClose f s) :=
  issueWith_answers (answers_ite answers_next answers_next)

theorem execPgateOpen_answers : Answers (execPgateOpen f s) :=
  issueWith_answers (answers_ite answers_next answers_next)

theorem execPgateFreq_answers : Answers (execPgateFreq f s) :=
  issueWith_answers (answers_ite answers_next answers_next)

theorem execPgateReset_answers : Answers (execPgateReset f s) :=
  issueWith_answers (answers_ite answers_next (answers_ite answers_next answers_next))

theorem execPgateForm_answers : Answers (execPgateForm f s) :=
  issueWith_answers (answers_ite answers_next (answers_ite answers_next answers_next))

theorem execCtxs_answers : Answers (execCtxs f s) :=
  issueWith_answers (answers_ite answers_next (answers_ite answers_next (answers_ite answers_next answers_next)))

theorem execBtop_answers : Answers (execBtop f s) :=
  answers_ite (issueWith_answers (answers_ite answers_next answers_next)) taskIns_answers

/-! ### Instructions of the fabric that branch -/

theorem execSqsh_answers : Answers (execSqsh g s) := by
  unfold execSqsh
  dsimp only
  (repeat' split) <;> exact answers_next

theorem execDeci_answers : Answers (execDeci g s) := by
  unfold execDeci
  dsimp only
  (repeat' split) <;> exact answers_next

theorem execVsr_answers : Answers (execVsr g s) := by
  unfold execVsr
  dsimp only
  split <;> exact answers_next

theorem execVpack_answers : Answers (execVpack g s) := by
  unfold execVpack
  dsimp only
  split <;> exact answers_next

theorem execVunpk_answers : Answers (execVunpk g s) := by
  unfold execVunpk
  dsimp only
  split <;> exact answers_next

theorem execFabChapp_answers : Answers (execFabChapp g s) := by
  unfold execFabChapp
  dsimp only
  (repeat' split) <;> exact answers_next

theorem execFabChtl_answers : Answers (execFabChtl g s) := by
  unfold execFabChtl
  dsimp only
  (repeat' split) <;> exact answers_next

theorem execYielde_answers : Answers (execYielde g s) := by
  unfold execYielde
  dsimp only
  (repeat' split) <;> exact answers_next

theorem execMsend_answers : Answers (execMsend g s) := by
  unfold execMsend
  dsimp only
  split <;> exact answers_next

/-! ### Events that branch -/

theorem execMatrixPassComplete_answers : Answers (execMatrixPassComplete p k s) := by
  unfold execMatrixPassComplete
  split <;> exact answers_next

theorem execCarryHoldResume_answers : Answers (execCarryHoldResume p k s) := by
  unfold execCarryHoldResume
  split <;> exact answers_next

theorem execCfgaActivate_answers : Answers (execCfgaActivate p q s) := by
  unfold execCfgaActivate
  split <;> exact answers_next

theorem execRgnfFree_answers : Answers (execRgnfFree p q s) := by
  unfold execRgnfFree
  split <;> exact answers_next

theorem execQwaitReturn_answers : Answers (execQwaitReturn p q s) := by
  unfold execQwaitReturn
  split <;> exact answers_next

theorem execDecisionSwitch_answers : Answers (execDecisionSwitch p r s) := by
  unfold execDecisionSwitch
  split <;> exact answers_next

theorem execWaitseq_answers : Answers (execWaitseq p c s) := by
  unfold execWaitseq
  split <;> exact answers_next

theorem execRemoteWriteReceive_answers : Answers (execRemoteWriteReceive src p va bs s) := by
  unfold execRemoteWriteReceive
  split <;> exact answers_next

theorem execPlimStepUp_answers : Answers (execPlimStepUp s) := by
  unfold execPlimStepUp
  split <;> exact answers_next

theorem execMessageArrive_answers : Answers (execMessageArrive p n s) := by
  unfold execMessageArrive
  split <;> exact answers_next

theorem execPaddockResetDone_answers : Answers (execPaddockResetDone p s) := by
  unfold execPaddockResetDone
  dsimp only
  split <;> exact answers_next

theorem execGathRowTokenEmit_answers : Answers (execGathRowTokenEmit p k s) := by
  unfold execGathRowTokenEmit
  dsimp only
  split <;> exact answers_next

theorem execMcarryExpToken_answers : Answers (execMcarryExpToken p k s) := by
  unfold execMcarryExpToken
  dsimp only
  split <;> exact answers_next

theorem execBudgetAdderUpdate_answers : Answers (execBudgetAdderUpdate p r s) := by
  unfold execBudgetAdderUpdate
  dsimp only
  split <;> exact answers_next

theorem execWaitseqReread_answers : Answers (execWaitseqReread p c s) := by
  unfold execWaitseqReread
  dsimp only
  split <;> exact answers_next

theorem execTrialWindowEnd_answers : Answers (execTrialWindowEnd p s) := by
  unfold execTrialWindowEnd
  dsimp only
  split <;> exact answers_next

theorem execSeqOpComplete_answers : Answers (execSeqOpComplete p q s) := by
  unfold execSeqOpComplete
  dsimp only
  (repeat' split) <;> exact answers_next

theorem execTagWaitComplete_answers : Answers (execTagWaitComplete p q s) := by
  unfold execTagWaitComplete
  dsimp only
  (repeat' split) <;> exact answers_next

theorem execWfeWake_answers : Answers (execWfeWake p q s) := by
  unfold execWfeWake
  dsimp only
  (repeat' split) <;> exact answers_next

theorem execLnchSlotAcquire_answers : Answers (execLnchSlotAcquire p q s) := by
  unfold execLnchSlotAcquire
  dsimp only
  (repeat' split) <;> exact answers_next

theorem execMdrnSpillToken_answers : Answers (execMdrnSpillToken p k s) := by
  unfold execMdrnSpillToken
  dsimp only
  (repeat' split) <;> exact answers_next

theorem execMdrnComplete_answers : Answers (execMdrnComplete p k s) := by
  unfold execMdrnComplete
  dsimp only
  (repeat' split) <;> exact answers_next

theorem execTokenHop_answers : Answers (execTokenHop p k e s) := by
  unfold execTokenHop
  dsimp only
  (repeat' split) <;> exact answers_next

theorem execSkipFlushEmit_answers : Answers (execSkipFlushEmit p k q s) := by
  unfold execSkipFlushEmit
  dsimp only
  (repeat' split) <;> exact answers_next

theorem execBidAdmit_answers : Answers (execBidAdmit p n s) := by
  unfold execBidAdmit
  dsimp only
  (repeat' split) <;> exact answers_next

theorem execQnc_answers : Answers (execQnc p r s) := by
  unfold execQnc
  dsimp only
  (repeat' split) <;> exact answers_next

theorem execTaskRetire_answers : Answers (execTaskRetire p j s) := by
  unfold execTaskRetire
  dsimp only
  (repeat' split) <;> exact answers_next

theorem execBudgetFreeze_answers : Answers (execBudgetFreeze p r s) := by
  unfold execBudgetFreeze
  dsimp only
  (repeat' split) <;> exact answers_next

theorem execTaskResume_answers : Answers (execTaskResume p j s) := by
  unfold execTaskResume
  dsimp only
  (repeat' split) <;> exact answers_next

theorem execYieldRelease_answers : Answers (execYieldRelease p j s) := by
  unfold execYieldRelease
  dsimp only
  (repeat' split) <;> exact answers_next

theorem execAsyncTrapDelivery_answers : Answers (execAsyncTrapDelivery p q s) := by
  unfold execAsyncTrapDelivery
  dsimp only
  (repeat' split) <;> exact answers_next

theorem execRegionEccRecovery_answers : Answers (execRegionEccRecovery p r k s) := by
  unfold execRegionEccRecovery
  dsimp only
  (repeat' split) <;> exact answers_next

theorem execSpareCompare_answers : Answers (execSpareCompare p row s) := by
  unfold execSpareCompare
  dsimp only
  (repeat' split) <;> exact answers_next

theorem execChainEntryComplete_answers : Answers (execChainEntryComplete p c s) := by
  unfold execChainEntryComplete
  dsimp only
  (repeat' split) <;> exact answers_next

theorem execShapePoint_answers : Answers (execShapePoint p s) := by
  unfold execShapePoint
  dsimp only
  (repeat' split) <;> exact answers_next

theorem execTrialVerdict_answers : Answers (execTrialVerdict p s) := by
  unfold execTrialVerdict
  dsimp only
  (repeat' split) <;> exact answers_next

theorem execTunerPropose_answers : Answers (execTunerPropose p s) := by
  unfold execTunerPropose
  dsimp only
  (repeat' split) <;> exact answers_next

theorem execMemNodeComplete_answers : Answers (execMemNodeComplete p k n s) := by
  unfold execMemNodeComplete
  (repeat' split) <;> exact answers_next

theorem execSpliceSwap_answers : Answers (execSpliceSwap p k s) := by
  unfold execSpliceSwap
  (repeat' split) <;> exact answers_next

theorem execStileTokenArrive_answers : Answers (execStileTokenArrive p n s) := by
  unfold execStileTokenArrive
  (repeat' split) <;> exact answers_next
/-- Every instruction and event answers a next state: rows that share their meaning in one arm. -/
theorem exec_answers (i : Instr) (s : State) : Answers (exec i s) := by
  unfold exec
  cases i with
  | paddockGateF3 | illegalWord | fetchFault | eccmodeClr | eccmodeDecWrite | parkedRequestRetry | mfirePositionTake |
    scrubVisit | chainTranslationRetry | remoteWriteTimeout | stileTmo | clampStepDown | clampStepUp | start |
    doorbellWake | topi | topt | registerWrite | atsInvalidation | setroot | bindpart | inval | hostwin | group |
    linkwin | restart | propose | notice | attest | fwstage | reboot | ident | plimit | powerOn | fundamentalReset |
    stageLimitExpiry | stageComplete | powerOff | hostLinkTraining | ideKm | vfEnable | fabNop | mov | fabAdd | fabSub
    | fabMul | fabMulh | fabMulhu | addsat | fabAnd | fabOr | fabXor | andn | fabShl | fabShr | fabSra | rot | fabMin
    | fabMax | fabMinu | fabMaxu | fabCeq | fabCne | fabClt | fabCltu | fabCle | fabCleu | fabSel | fabClz | fabPopc |
    bfx | bfi | agen | steer | steerd | mrgo | mrga | drop | eosg | eosd | lexit | infl | plog | skipa | fmts | progm
    | halte | ojoin | fabFence | fabPref | ags | manch | mzero | mdrn | mscl | mcbk | mcarryCfg | mcarryExp |
    mcarryCnt | mstat | vbcst | vsumxInit | vsumxOut | vmaxr | vnf | vlog | vmov | tagset | budq | trape | brke =>
    exact answers_next
  | contextBudgetTrap | spareAdvance | stampReread | baselineWindowEnd | plimStepDown | gate | repl | iter | cnte |
    mldb | vscl | vcmp | vsel | vshf | vsumxAcc | vsumxFold | vcvt | vqmx | vqi4 | vlut | vps8Mul | vps8Enc | viadd |
    vimul | fabChsq =>
    exact answers_ite answers_next answers_next
  | seqAdd | seqSub | seqAnd | seqOr | seqXor | seqShl | seqShr | seqSra | seqMin | seqMax | seqMinu | seqMaxu |
    seqClz | seqPopc | addi | andi | ori | xori | shli | shri | srai | movi | movhi | seqSel =>
    exact seqWrite_answers
  | sld | sldv | sst | sstv | sldf | slde | sstf | sstw | sfe | saadd | samin | samax | saor | saand | sacas | stas =>
    exact spadFire_answers
  | seqNop | ffr | tclr | wfe | wake | chwt | yld | jbase | jver | trap | eret | halt | bkpt | pgateStatus =>
    exact issueWith_answers answers_next
  | ld | lds | st | lda | stl | aadd | aswp | acas | amin | amax | aor | aand =>
    exact memIssue_answers
  | seqCeq | seqCne | seqClt | seqCltu | seqCle | seqCleu | ceqi | clti | pand | por | pnot =>
    exact seqPred_answers
  | rgnf | cfgl | cfga | splc | rfold | rfoldUnfold | qwait | toksv | tokrs | decb | rgns =>
    exact regionIns_answers
  | gld | gldv | gst | gstv | gaadd | gacas | gath | scat =>
    exact globFire_answers
  | copy | fill | conv | engGath | engScat | signal =>
    exact engineTurn_answers
  | jpin | jupn | jrd | jprp | jrev | jrpl =>
    exact areaIns_answers
  | vadd | vsub | vmul | vfma | vmin | vmax =>
    exact vfp2_answers
  | vabs | vneg | vex2 | vlg2 | vrcp | vrsq =>
    exact vfp1_answers
  | seqMul | seqMulh | seqMulhu | divu | remu =>
    exact seqSlow_answers
  | br | jmp | call | ret =>
    exact issueWith_answers branchTo_answers
  | traceOff | traceRecord | traceBind | traceRead =>
    exact traceIns_answers
  | areduce | rscat | agath =>
    exact answers_ite collTurn_answers answers_next
  | wany | wall =>
    exact tagWait_answers
  | seqFence | seqPref =>
    exact memWait_answers
  | bspl | brd =>
    exact taskIns_answers
  | mfire | mswap =>
    exact passFire_answers
  | seqOpComplete => exact execSeqOpComplete_answers
  | tagWaitComplete => exact execTagWaitComplete_answers
  | wfeWake => exact execWfeWake_answers
  | lnchSlotAcquire => exact execLnchSlotAcquire_answers
  | paddockResetDone => exact execPaddockResetDone_answers
  | gathRowTokenEmit => exact execGathRowTokenEmit_answers
  | memNodeComplete => exact execMemNodeComplete_answers
  | matrixPassComplete => exact execMatrixPassComplete_answers
  | carryHoldResume => exact execCarryHoldResume_answers
  | mdrnSpillToken => exact execMdrnSpillToken_answers
  | mdrnComplete => exact execMdrnComplete_answers
  | mcarryExpToken => exact execMcarryExpToken_answers
  | tokenHop => exact execTokenHop_answers
  | skipFlushEmit => exact execSkipFlushEmit_answers
  | bidAdmit => exact execBidAdmit_answers
  | cfgaActivate => exact execCfgaActivate_answers
  | rgnfFree => exact execRgnfFree_answers
  | qwaitReturn => exact execQwaitReturn_answers
  | decisionSwitch => exact execDecisionSwitch_answers
  | spliceSwap => exact execSpliceSwap_answers
  | qnc => exact execQnc_answers
  | taskRetire => exact execTaskRetire_answers
  | budgetAdderUpdate => exact execBudgetAdderUpdate_answers
  | budgetFreeze => exact execBudgetFreeze_answers
  | taskResume => exact execTaskResume_answers
  | yieldRelease => exact execYieldRelease_answers
  | asyncTrapDelivery => exact execAsyncTrapDelivery_answers
  | regionEccRecovery => exact execRegionEccRecovery_answers
  | spareCompare => exact execSpareCompare_answers
  | waitseq => exact execWaitseq_answers
  | waitseqReread => exact execWaitseqReread_answers
  | chainEntryComplete => exact execChainEntryComplete_answers
  | remoteWriteReceive => exact execRemoteWriteReceive_answers
  | messageArrive => exact execMessageArrive_answers
  | stileTokenArrive => exact execStileTokenArrive_answers
  | shapePoint => exact execShapePoint_answers
  | trialVerdict => exact execTrialVerdict_answers
  | tunerPropose => exact execTunerPropose_answers
  | plimStepUp => exact execPlimStepUp_answers
  | trialWindowEnd => exact execTrialWindowEnd_answers
  | rgna => exact execRgna_answers
  | seqChapp => exact execSeqChapp_answers
  | seqChtl => exact execSeqChtl_answers
  | seqChsq => exact execSeqChsq_answers
  | lnch => exact execLnch_answers
  | tskq => exact execTskq_answers
  | btop => exact execBtop_answers
  | cont => exact execCont_answers
  | jsub => exact execJsub_answers
  | juns => exact execJuns_answers
  | csrr => exact execCsrr_answers
  | csrw => exact execCsrw_answers
  | mcpopRead => exact execMcpopRead_answers
  | pgateClose => exact execPgateClose_answers
  | pgateOpen => exact execPgateOpen_answers
  | pgateReset => exact execPgateReset_answers
  | pgateFreq => exact execPgateFreq_answers
  | pgateForm => exact execPgateForm_answers
  | stilClose => exact execStilClose_answers
  | stilChannel => exact execStilChannel_answers
  | stilMemory => exact execStilMemory_answers
  | ctxs => exact execCtxs_answers
  | ctxr => exact execCtxr_answers
  | sqsh => exact execSqsh_answers
  | deci => exact execDeci_answers
  | vsr => exact execVsr_answers
  | vpack => exact execVpack_answers
  | vunpk => exact execVunpk_answers
  | fabChapp => exact execFabChapp_answers
  | fabChtl => exact execFabChtl_answers
  | msend => exact execMsend_answers
  | yielde => exact execYielde_answers

/-! ### Steps -/

theorem shadowed_answers {word : BitVec 64} {run : State → Out} (h : ∀ u, Answers (run u)) :
    Answers (shadowed word run s) := by
  unfold shadowed
  obtain ⟨t, ht⟩ := h s
  simp only [ht]
  refine answers_ite answers_next ?_
  split
  · exact answers_ite answers_next answers_next
  · exact answers_next

theorem fireStep_answers {slot : Nat} : Answers (fireStep s p k slot) :=
  answers_ite answers_next (by
    split
    · exact shadowed_answers fun u => exec_answers _ u
    · exact answers_next)

/-- Nothing is first of the turns only where there are none. -/
theorem eq_nil_of_firstTurn {l : List (Nat × Turn)} (h : firstTurn l = none) : l = [] := by
  cases l with
  | nil => rfl
  | cons x rest =>
    unfold firstTurn at h
    split at h
    · cases h
    · split at h <;> cases h

/-- With no turn there is no input. -/
theorem inputs_eq_nil_of_turns (h : turns s = []) : s.inputs = [] := by
  unfold turns at h
  split at h
  · assumption
  · cases h

/-- Time moves on unless the power is off and no input is left (R383; log 13). -/
theorem advance_answers : Answers (advance s) ∨ (advance s = .fault .poweredOff ∧ s.boot.power = false ∧ s.inputs = []) := by
  unfold advance
  split
  · rename_i none
    cases power : s.boot.power with
    | true => exact .inl answers_next
    | false => exact .inr ⟨rfl, rfl, inputs_eq_nil_of_turns (eq_nil_of_firstTurn none)⟩
  · left
    dsimp only
    split <;> exact answers_next

end Answering

end Sys2Proof.Machine

namespace Sys2Proof

open Machine

/-- Settles O57, by the answers of every instruction and event, and by the act a step takes: only where nothing is owed does
it stop. -/
theorem everyInstructionAnswers : Obligations.EveryInstructionAnswers := by
  unfold Obligations.EveryInstructionAnswers
  refine ⟨exec_answers, fun s => ?_⟩
  unfold step
  split
  · rename_i owed
    rcases advance_answers (s := s) with answers | ⟨stops, off, none⟩
    · exact .inl answers
    · exact .inr ⟨stops, owed, off, none⟩
  · exact .inl (exec_answers _ _)
  · exact .inl (exec_answers _ _)
  · exact .inl fireStep_answers
  · exact .inl answers_next

end Sys2Proof

end

/-! ## Guards, permissions and precise traps (O2, O8)

A trap changes its context, the counter of free values, and, where the context halts, the notice ring in host memory
(`takeTrap_frame`). Every word of the sequencer is issued one way (`exec_issuedAs`), whatever it then does. -/

section

namespace Sys2Proof.Machine

variable {s : State} {p q : Nat}

/-! ### A context that halts, and one that takes a trap -/

/-- Host memory alone may differ. -/
def HostOnly (s t : State) : Prop := ∃ h, t = { s with host := h }

theorem HostOnly.trans {s t u : State} (a : HostOnly s t) (b : HostOnly t u) : HostOnly s u := by
  obtain ⟨h, rfl⟩ := a
  obtain ⟨h', rfl⟩ := b
  exact ⟨h', rfl⟩

theorem wrBytes_true_hostOnly (s : State) (a : Nat) (bs : List (BitVec 8)) : HostOnly s (s.wrBytes true a bs) := by
  induction bs generalizing s a with
  | nil => exact ⟨_, rfl⟩
  | cons b bs ih => exact HostOnly.trans ⟨_, rfl⟩ (ih (s.wrByte true a b) (a + 1))

theorem wrNat_true_hostOnly (s : State) (a n v : Nat) : HostOnly s (s.wrNat true a n v) := wrBytes_true_hostOnly s a _

theorem ringPush_true_hostOnly (s : State) (desc log2n : Nat) (rec : List (BitVec 8)) (size : Nat) :
    HostOnly s (ringPush s true desc log2n rec size).2 := by
  unfold ringPush
  extract_lets base prod cons
  split
  · exact wrNat_true_hostOnly ..
  · exact (wrBytes_true_hostOnly ..).trans (wrNat_true_hostOnly ..)

/-- A context that halts (R313): the context halted, and a notice in host memory. -/
theorem haltCtx_hostOnly (s : State) (p q : Nat) (code : BitVec 8) :
    HostOnly (s.setCtx p q { s.ctx p q with halted := true, haltCode := code, wait := .ready }) (haltCtx s p q code) := by
  unfold haltCtx
  dsimp only
  split
  · exact ⟨_, rfl⟩
  split
  · exact ringPush_true_hostOnly ..
  · exact ⟨_, rfl⟩

/-- The context that an exception leaves, before it halts (R77). -/
def Ctx.entered (c : Ctx) (epc : BitVec 64) (cause : BitVec 8) (v1 v2 : BitVec 64) : Ctx :=
  { c with epc := epc, tcause := cause.setWidth 64, tval := v1, tval2 := v2, wait := .ready, inTrap := true, pc := c.tvec }

/-- The context that an exception leaves (R77, R313). -/
def Ctx.trapped (c : Ctx) (epc : BitVec 64) (cause : BitVec 8) (v1 v2 : BitVec 64) : Ctx :=
  let d := c.entered epc cause v1 v2
  if c.tvec = 0 ∨ c.inTrap = true then { d with halted := true, haltCode := cause } else d

theorem takeTrap_some (s : State) (p q : Nat) (epc : BitVec 64) (cause : BitVec 8) (v1 v2 : BitVec 64) :
    takeTrap s p q epc cause (some v1) (some v2) =
      let t := s.setCtx p q ((s.ctx p q).entered epc cause v1 v2)
      if (s.ctx p q).tvec = 0 ∨ (s.ctx p q).inTrap = true then haltCtx t p q cause else t := rfl

/-- An exception whose registers' values are given changes its context; a context that halts leaves a notice in host
memory. -/
theorem takeTrap_some_frame (s : State) (p q : Nat) (epc : BitVec 64) (cause : BitVec 8) (v1 v2 : BitVec 64) :
    ∃ h, takeTrap s p q epc cause (some v1) (some v2) =
        { s.setCtx p q ((s.ctx p q).trapped epc cause v1 v2) with host := h } ∧
      ((s.ctx p q).tvec ≠ 0 → (s.ctx p q).inTrap = false → h = s.host) := by
  rw [takeTrap_some, Ctx.trapped]
  dsimp only
  by_cases halts : (s.ctx p q).tvec = 0 ∨ (s.ctx p q).inTrap = true
  · rw [if_pos halts, if_pos halts]
    obtain ⟨h, e⟩ := haltCtx_hostOnly (s.setCtx p q ((s.ctx p q).entered epc cause v1 v2)) p q cause
    rw [State.ctx_setCtx_same, State.setCtx_setCtx] at e
    exact ⟨h, e, fun runs out => (halts.elim runs (by simp [out])).elim⟩
  · rw [if_neg halts, if_neg halts]
    exact ⟨s.host, rfl, fun _ _ => rfl⟩

/-- An exception changes its context, and takes a free value for a TVAL or TVAL2 that no rule states; a context that halts
leaves a notice in host memory. -/
theorem takeTrap_frame (s : State) (p q : Nat) (epc : BitVec 64) (cause : BitVec 8) (tval tval2 : Option (BitVec 64)) :
    ∃ v1 v2 n h, takeTrap s p q epc cause tval tval2 =
        { s.setCtx p q ((s.ctx p q).trapped epc cause v1 v2) with free := n, host := h } ∧
      (∀ v, tval = some v → v1 = v) ∧ (∀ v, tval2 = some v → v2 = v) ∧
      ((s.ctx p q).tvec ≠ 0 → (s.ctx p q).inTrap = false → h = s.host) := by
  cases tval with
  | none =>
    cases tval2 with
    | none =>
      obtain ⟨h, e, k⟩ := takeTrap_some_frame { s with free := s.free + 2 } p q epc cause (Config.freeWord s.free)
        (Config.freeWord (s.free + 1))
      exact ⟨_, _, s.free + 2, h, e, nofun, nofun, k⟩
    | some w =>
      obtain ⟨h, e, k⟩ := takeTrap_some_frame { s with free := s.free + 1 } p q epc cause (Config.freeWord s.free) w
      exact ⟨_, w, s.free + 1, h, e, nofun, fun _ hw => Option.some.inj hw, k⟩
  | some v =>
    cases tval2 with
    | none =>
      obtain ⟨h, e, k⟩ := takeTrap_some_frame { s with free := s.free + 1 } p q epc cause v (Config.freeWord s.free)
      exact ⟨v, _, s.free + 1, h, e, fun _ hv => Option.some.inj hv, nofun, k⟩
    | some w =>
      obtain ⟨h, e, k⟩ := takeTrap_some_frame s p q epc cause v w
      exact ⟨v, w, s.free, h, e, fun _ hv => Option.some.inj hv, fun _ hw => Option.some.inj hw, k⟩

section Trapped

variable {c : Ctx} {epc v1 v2 : BitVec 64} {cause : BitVec 8}

theorem Ctx.trapped_halts (h : c.tvec = 0 ∨ c.inTrap = true) :
    c.trapped epc cause v1 v2 = { c.entered epc cause v1 v2 with halted := true, haltCode := cause } := if_pos h

theorem Ctx.trapped_runs (hv : c.tvec ≠ 0) (ht : c.inTrap = false) :
    c.trapped epc cause v1 v2 = c.entered epc cause v1 v2 := if_neg fun h => h.elim hv (by simp [ht])

/-- Whether or not it halts, a trapped context differs from the one that entered in HALTR alone. -/
theorem Ctx.trapped_eq : ∃ a b, c.trapped epc cause v1 v2 = { c.entered epc cause v1 v2 with halted := a, haltCode := b } := by
  unfold Ctx.trapped
  dsimp only
  split
  · exact ⟨_, _, rfl⟩
  · exact ⟨c.halted, c.haltCode, rfl⟩

end Trapped

/-- A context other than the one written. -/
theorem ctx_setCtx_ne {p' q' : Nat} {c : Ctx} (ne : (p', q') ≠ (p, q)) : (s.setCtx p q c).ctx p' q' = s.ctx p' q' := by
  by_cases hp : p' = p
  · subst hp
    exact State.ctx_setCtx_other _ _ _ _ _ fun hq => ne (by rw [hq])
  · exact State.ctx_setCtx_pad _ _ _ _ _ _ hp

end Sys2Proof.Machine

namespace Sys2Proof.Claims

open Sys2Proof.Machine

variable {s : State} {p q : Nat} {epc : BitVec 64} {cause : BitVec 8} {tval tval2 : Option (BitVec 64)}

theorem takeTrap_enters : Enters s (takeTrap s p q epc cause tval tval2) p q epc cause tval tval2 := by
  obtain ⟨v1, v2, n, h, e, hv, hw, -⟩ := takeTrap_frame s p q epc cause tval tval2
  have ctx : (takeTrap s p q epc cause tval tval2).ctx p q = (s.ctx p q).trapped epc cause v1 v2 := by
    rw [e]
    exact State.ctx_setCtx_same ..
  obtain ⟨a, b, entered⟩ := Ctx.trapped_eq (c := s.ctx p q) (epc := epc) (cause := cause) (v1 := v1) (v2 := v2)
  rw [e] at *
  exact {
    epcIs := by rw [ctx, entered]; rfl
    causeIs := by rw [ctx, entered]; rfl
    tvalIs := by rw [ctx, entered]; exact hv
    tval2Is := by rw [ctx, entered]; exact hw
    goes := by rw [ctx, entered]; exact ⟨rfl, rfl, rfl⟩
    runs := fun hv ht => by rw [ctx, Ctx.trapped_runs hv ht]; exact ⟨rfl, rfl⟩
    halts := fun ht => by rw [ctx, Ctx.trapped_halts ht]; exact ⟨rfl, rfl⟩
    regs := fun _ => by rw [ctx, entered]; rfl
    keeps := by rw [ctx, entered]; rfl
    others := fun _ _ ne => ctx_setCtx_ne ne
    tile := fun _ _ => State.tile_setCtx ..
    region := fun _ _ => State.region_setCtx ..
    byte := fun _ => rfl }
/-! ### What a sequencer word may issue, and its guard (R31, R43, R76) -/

variable {i : Instr} {f g : SeqF} {o : BitVec 8}

theorem seqWord_of_encode (e : encode i = some (seqPack o g)) : seqWord i = some g := by
  simp [seqWord, e]

theorem wordKind_fabPack_ne {x : FabF} : wordKind (fabPack o x) ≠ 1 := by
  simp

/-- Neither an event nor a word of the fabric is a word of the sequencer. -/
theorem seqWord_ne_some (e : ∀ w, encode i = some w → wordKind w ≠ 1) : seqWord i ≠ some f := by
  unfold seqWord
  split
  · rename_i w ew
    rw [if_neg (e w ew)]
    exact nofun
  · exact nofun

theorem seqWord_inj (e : encode i = some (seqPack o g)) (h : seqWord i = some f) : g = f :=
  Option.some.inj ((seqWord_of_encode e).symm.trans h)

/-- An outcome is that of a word issued: its permission is checked, then its guard, and then it does what it does. -/
def IssuedAs (f : SeqF) (perm : Ctx → Bool) (s : State) (out : Out) : Prop := ∃ body, out = issueWith f perm s body

theorem issueWith_issuedAs {perm : Ctx → Bool} {body : State → Out} : IssuedAs f perm s (issueWith f perm s body) := ⟨body, rfl⟩

theorem seqWrite_issuedAs {val : Ctx → BitVec 64} : IssuedAs f anyone s (seqWrite f s val) := issueWith_issuedAs

theorem seqSlow_issuedAs {n : Nat} {val : Ctx → BitVec 64} : IssuedAs f anyone s (seqSlow f s n val) := issueWith_issuedAs

theorem seqPred_issuedAs {val : Ctx → Bool} : IssuedAs f anyone s (seqPred f s val) := issueWith_issuedAs

theorem tagWait_issuedAs {all : Bool} : IssuedAs f anyone s (tagWait f s all) := issueWith_issuedAs

theorem memIssue_issuedAs : IssuedAs f anyone s (memIssue o f s) := issueWith_issuedAs

theorem memWait_issuedAs {va : BitVec 64} : IssuedAs f anyone s (memWait o f s va) := issueWith_issuedAs

theorem regionIns_issuedAs {body : Nat → Region → State → State} : IssuedAs f anyone s (regionIns f s body) :=
  issueWith_issuedAs

theorem taskIns_issuedAs {perm : Ctx → Bool} {body : Nat → State → State} : IssuedAs f perm s (taskIns f s perm body) :=
  issueWith_issuedAs

theorem traceIns_issuedAs {on : Option Nat} {upd : State → State} : IssuedAs f mayTrace s (traceIns f s on upd) :=
  issueWith_issuedAs

theorem areaIns_issuedAs {perm : Ctx → Bool} {tb : Ctx → Nat} {body : Nat → State → State} :
    IssuedAs f perm s (areaIns f s perm tb body) := issueWith_issuedAs

/-- BTOP checks its permission in both of its forms. -/
theorem execBtop_issuedAs : IssuedAs f mayTopup s (execBtop f s) := by
  unfold execBtop
  split
  · exact issueWith_issuedAs
  · exact taskIns_issuedAs

/-- Every instruction of the sequencer is issued one way. -/
theorem exec_issuedAs (s : State) (h : seqWord i = some f) : IssuedAs f (mayIssue i) s (exec i s) := by
  unfold exec
  cases i with
  | seqNop | br | jmp | call | ret | ffr | tclr | wfe | wake | rgna | seqChapp | seqChtl | seqChsq | chwt | lnch |
    tskq | yld | cont | jsub | juns | jbase | jver | trap | eret | csrr | csrw | mcpopRead | halt | bkpt | pgateStatus
    | pgateClose | pgateOpen | pgateReset | pgateFreq | pgateForm | stilClose | stilChannel | stilMemory | ctxs | ctxr
    =>
    obtain rfl := seqWord_inj rfl h
    exact issueWith_issuedAs
  | seqAdd | seqSub | seqAnd | seqOr | seqXor | seqShl | seqShr | seqSra | seqMin | seqMax | seqMinu | seqMaxu |
    seqClz | seqPopc | addi | andi | ori | xori | shli | shri | srai | movi | movhi | seqSel =>
    obtain rfl := seqWord_inj rfl h
    exact seqWrite_issuedAs
  | seqMul | seqMulh | seqMulhu | divu | remu =>
    obtain rfl := seqWord_inj rfl h
    exact seqSlow_issuedAs
  | seqCeq | seqCne | seqClt | seqCltu | seqCle | seqCleu | ceqi | clti | pand | por | pnot =>
    obtain rfl := seqWord_inj rfl h
    exact seqPred_issuedAs
  | wany | wall =>
    obtain rfl := seqWord_inj rfl h
    exact tagWait_issuedAs
  | ld | lds | st | lda | stl | aadd | aswp | acas | amin | amax | aor | aand =>
    obtain rfl := seqWord_inj rfl h
    exact memIssue_issuedAs
  | seqFence | seqPref =>
    obtain rfl := seqWord_inj rfl h
    exact memWait_issuedAs
  | rgnf | cfgl | cfga | splc | rfold | rfoldUnfold | qwait | toksv | tokrs | decb | rgns =>
    obtain rfl := seqWord_inj rfl h
    exact regionIns_issuedAs
  | bspl | brd =>
    obtain rfl := seqWord_inj rfl h
    exact taskIns_issuedAs
  | btop =>
    obtain rfl := seqWord_inj rfl h
    exact execBtop_issuedAs
  | traceOff | traceRecord | traceBind | traceRead =>
    obtain rfl := seqWord_inj rfl h
    exact traceIns_issuedAs
  | jpin | jupn | jrd | jprp | jrev | jrpl =>
    obtain rfl := seqWord_inj rfl h
    exact areaIns_issuedAs
  | _ => exact (seqWord_ne_some (fun w e => by cases e <;> exact wordKind_fabPack_ne) h).elim

/-- A word that the context may not issue takes PRIV, whether or not its guard passes. -/
theorem exec_enters_of_mayNotIssue (h : seqWord i = some f) (no : mayIssue i s.curCtx = false) :
    ∃ t, exec i s = .next t ∧ Enters s t s.cur.p s.cur.q s.curCtx.pc cPRIV none none := by
  obtain ⟨body, run⟩ := exec_issuedAs s h
  exact ⟨_, run.trans (if_pos (by simp [no])), takeTrap_enters⟩

/-- A word that the context may issue and whose guard fails moves PC on and charges 1. -/
theorem exec_of_guardFails (h : seqWord i = some f) (may : mayIssue i s.curCtx = true) (fails : guardOk s.curCtx f = false) :
    exec i s = .next (s.setCurCtx (s.curCtx.charge 1 0).adv) := by
  obtain ⟨body, run⟩ := exec_issuedAs s h
  exact run.trans ((if_neg (by simp [may])).trans (if_neg (by simp [fails])))

/-- A charge of 1 to IBUD and none to TBUD. -/
theorem charge_one_adv (c : Ctx) : (c.charge 1 0).adv = { c with pc := c.pc + 8, ibud := c.ibud - 1 } := by
  simp [Ctx.charge, Ctx.adv]

end Sys2Proof.Claims

namespace Sys2Proof

open Machine Claims

/-- Settles O2, by the one way in which every word of the sequencer is issued. -/
theorem guardFails : Obligations.GuardFails := by
  unfold Obligations.GuardFails
  refine fun i f s h => ⟨fun may fails => ?_, fun no => exec_enters_of_mayNotIssue h no⟩
  rw [exec_of_guardFails h may fails, charge_one_adv]

/-- Settles O8: each of these words asks for its privilege or right in `mayIssue`, which the context lacks. -/
theorem privilegeChecked : Obligations.PrivilegeChecked := by
  unfold Obligations.PrivilegeChecked
  intro s f
  refine ⟨fun no i hi => ?_, fun no low high => ?_, fun priv debug i hi => ?_, fun no i hi => ?_, fun no => ?_,
    fun no i hi => ?_, fun no => ?_⟩
  · simp only [List.mem_cons, List.not_mem_nil, or_false] at hi
    rcases hi with rfl | rfl | rfl | rfl | rfl | rfl | rfl | rfl | rfl <;>
    exact exec_enters_of_mayNotIssue (seqWord_of_encode rfl) no
  · exact exec_enters_of_mayNotIssue (seqWord_of_encode rfl) (by simp [mayIssue, no, low, high])
  · simp only [List.mem_cons, List.not_mem_nil, or_false] at hi
    rcases hi with rfl | rfl <;>
    exact exec_enters_of_mayNotIssue (seqWord_of_encode rfl) (congrArg₂ or priv debug)
  · simp only [List.mem_cons, List.not_mem_nil, or_false] at hi
    rcases hi with rfl | rfl | rfl | rfl | rfl | rfl <;>
    exact exec_enters_of_mayNotIssue (seqWord_of_encode rfl) no
  · exact exec_enters_of_mayNotIssue (seqWord_of_encode rfl) no
  · simp only [List.mem_cons, List.not_mem_nil, or_false] at hi
    rcases hi with rfl | rfl | rfl | rfl <;>
    exact exec_enters_of_mayNotIssue (seqWord_of_encode rfl) no
  · exact exec_enters_of_mayNotIssue (seqWord_of_encode rfl) no

end Sys2Proof

end

/-! ## Steps (O55) -/

section

namespace Sys2Proof.Machine

variable {s u v : State} {p q : Nat} {w : BitVec 64} {cause : BitVec 8}

/-! ### The word that a context issues (R24, R77, R86) -/

theorem decode_of_kind_one (kind : wordKind w = 1) : decode w = decodeSeq w := if_pos kind

theorem decode_of_kind_zero (kind : wordKind w = 0) : decode w = decodeFab w := by
  unfold decode
  rw [if_neg (by simp [kind]), if_pos kind]

/-- A word of another kind holds no instruction of the sequencer. -/
theorem decodeSeq_eq_none (h : decode w = none ∨ wordKind w ≠ 1) : decodeSeq w = none := by
  by_cases kind : wordKind w = 1
  · rcases h with none | other
    · rw [← decode_of_kind_one kind, none]
    · exact absurd kind other
  · exact if_neg kind

theorem budgetOut_of_exhausted {c : Ctx} (out : c.inTrap = false) (h : c.ibud.toInt ≤ 0 ∨ c.tbud.toInt ≤ 0) :
    budgetOut c = true := by
  simpa [budgetOut, out] using h

theorem not_budgetOut {c : Ctx} (h : c.inTrap = true ∨ (0 < c.ibud.toInt ∧ 0 < c.tbud.toInt)) : budgetOut c = false := by
  rcases h with handler | left
  · simp [budgetOut, handler]
  · simp [budgetOut, left]

section Issue

variable (hu : { s with cur := { s.cur with p := p, q := q } } = u)

include hu

theorem issueInstr_of_budgetOut (out : budgetOut (u.ctx p q) = true) : issueInstr s p q = (.contextBudgetTrap, u) := by
  subst hu
  exact if_pos out

theorem issueInstr_of_fault (left : budgetOut (u.ctx p q) = false) (fetch : fetchWord u p q = (.error cause, v)) :
    issueInstr s p q = (.fetchFault cause, v) := by
  subst hu
  simp [issueInstr, left, fetch]

theorem issueInstr_of_decodes {i : Instr} (left : budgetOut (u.ctx p q) = false) (fetch : fetchWord u p q = (.ok w, v))
    (d : decodeSeq w = some i) : issueInstr s p q = (i, v) := by
  subst hu
  simp [issueInstr, left, fetch, d]

theorem issueInstr_of_illegal (left : budgetOut (u.ctx p q) = false) (fetch : fetchWord u p q = (.ok w, v))
    (d : decodeSeq w = none) : issueInstr s p q = (.illegalWord w, v) := by
  subst hu
  simp [issueInstr, left, fetch, d]

end Issue

theorem fetchWord_of_fault (h : checkAddr s p (s.ctx p q).pc 8 .exec = (.fault cause, v)) :
    fetchWord s p q = (.error cause, v) := by
  simp [fetchWord, h]

theorem fetchWord_of_badLine {pa : Nat} {host : Bool} (h : checkAddr s p (s.ctx p q).pc 8 .exec = (.ok pa host, v))
    (bad : v.badLine host pa = true) : fetchWord s p q = (.error cECC_UE, v) := by
  simp [fetchWord, h, bad]

theorem fetchWord_of_ok {pa : Nat} {host : Bool} (h : checkAddr s p (s.ctx p q).pc 8 .exec = (.ok pa host, v))
    (good : v.badLine host pa = false) :
    fetchWord s p q = (.ok (BitVec.ofNat 64 ((v.fixLine host pa).rdNat host pa 8)), v.fixLine host pa) := by
  simp [fetchWord, h, good]

/-! ### The word that an element fires, beside which its row's spare may act (R106, R135) -/

/-- A firing that goes on does so alike with a spare that shadows it, but for the note the spare keeps. -/
theorem shadowed_next {word : BitVec 64} {run : State → Out} (h : run s = .next v) : ∃ y, shadowed word run s = .next y ∧
    (y = v ∨ ∃ p l, y = v.updPad p fun x => { x with spares := l }) := by
  unfold shadowed
  extract_lets x row sp
  split
  · exact ⟨v, h, .inl rfl⟩
  · rw [h]
    dsimp only
    split
    · split
      · exact ⟨v, rfl, .inl rfl⟩
      · exact ⟨_, rfl, .inr ⟨_, _, rfl⟩⟩
    · exact ⟨v, rfl, .inl rfl⟩

/-- A note of a spare, of the paddock at h. -/
theorem pad_updPad_spares {l : Tbl Spare} (h : Nat) :
    ({ (v.updPad p fun x => { x with spares := l }).pad h with spares := (v.pad h).spares } : Paddock) = v.pad h := by
  by_cases e : h = p
  · subst e
    rw [State.updPad, State.pad_setPad_same]
  · rw [State.updPad, State.pad_setPad_other _ _ _ _ e]

theorem fireStep_of_decodes {t slot : Nat} {i : Instr}
    (hu : { s with cur := { p := p, q := 0, t := t, slot := slot } } = u) (calm : strayFire u = false)
    (d : decodeFab (slotWord u p t slot) = some i) :
    fireStep s p t slot = shadowed (slotWord u p t slot) (exec i) u := by
  subst hu
  simp [fireStep, calm, d]

end Sys2Proof.Machine

namespace Sys2Proof

open Machine

/-- Settles O55: what a step makes of the act it takes, an issue by the cases of the fetch, a firing by the spare that
shadows it. -/
theorem stepRunsTheDecodedWord : Obligations.StepRunsTheDecodedWord := by
  unfold Obligations.StepRunsTheDecodedWord
  refine ⟨fun s i rest h => ?_, fun s p q rest h => ?_, fun s p t slot rest i h => ?_⟩
  · rw [step, h]
  · extract_lets u c
    have issue : ∀ {i : Instr} {v : State}, issueInstr { s with agenda := rest } p q = (i, v) → step s = exec i v := by
      intro i v e
      rw [step, h]
      dsimp only
      rw [e]
    refine ⟨fun out low => ?_, fun may => ⟨fun cause v fault => ?_, fun pa host v ok => ⟨fun bad => ?_, fun good => ?_⟩⟩⟩
    · exact issue (issueInstr_of_budgetOut rfl (budgetOut_of_exhausted out low))
    · exact issue (issueInstr_of_fault rfl (not_budgetOut may) (fetchWord_of_fault fault))
    · exact issue (issueInstr_of_fault rfl (not_budgetOut may) (fetchWord_of_badLine ok bad))
    · have fetch := fetchWord_of_ok ok good
      refine ⟨fun i d kind => ?_, fun none => ?_⟩
      · exact issue (issueInstr_of_decodes rfl (not_budgetOut may) fetch ((decode_of_kind_one kind).symm.trans d))
      · exact issue (issueInstr_of_illegal rfl (not_budgetOut may) fetch (decodeSeq_eq_none none))
  · intro u calm d kind
    have fires : step s = shadowed (slotWord u p t slot) (exec i) u := by
      rw [step, h]
      exact fireStep_of_decodes rfl calm ((decode_of_kind_zero kind).symm.trans d)
    refine ⟨fires, fun v run => ?_⟩
    obtain ⟨y, ey, same | ⟨pn, l, note⟩⟩ := shadowed_next (word := slotWord u p t slot) run
    · subst same
      exact ⟨y, fires.trans ey, rfl, fun _ => rfl⟩
    · subst note
      exact ⟨_, fires.trans ey, rfl, pad_updPad_spares⟩

end Sys2Proof

end

/-! ## Traps in place of an instruction, and reports delivered (O5)

A report is delivered to a context that leaves its wait first, so the record of a fabric trap is written in a state that
differs from the one before in a context, a bid and a clock. `SameReach` names what an access looks at; two states alike in
it make the same of every access (`writeVA_congr`). -/

section

namespace Sys2Proof.Machine

variable {s t u : State} {p q : Nat}

/-! ### What an access looks at (R86, R157 to R160) -/

/-- What an access looks at in a paddock. -/
def Paddock.reach (x : Paddock) : Option Nat × Gate × List TlbEnt × List Nat := (x.part, x.gate, x.tlb, x.softLines)

/-- Two states agree in what an access looks at. -/
structure SameReach (s t : State) : Prop where
  mem : t.mem = s.mem
  host : t.host = s.host
  roots : t.roots = s.roots
  parts : t.parts = s.parts
  links : t.links = s.links
  ats : t.ats = s.ats
  mStiles : t.mStiles = s.mStiles
  free : t.free = s.free
  pad : ∀ h, (t.pad h).reach = (s.pad h).reach

theorem Paddock.reach_eq {x y : Paddock} (h : y.reach = x.reach) :
    y.part = x.part ∧ y.gate = x.gate ∧ y.tlb = x.tlb ∧ y.softLines = x.softLines := by
  simpa [Paddock.reach] using h

namespace SameReach

variable {g : Bool} {a n : Nat} {va : BitVec 64} {k : AccKind} (e : SameReach s t)

include e

theorem part (h : Nat) : (t.pad h).part = (s.pad h).part := (Paddock.reach_eq (e.pad h)).1
theorem gate (h : Nat) : (t.pad h).gate = (s.pad h).gate := (Paddock.reach_eq (e.pad h)).2.1
theorem tlb (h : Nat) : (t.pad h).tlb = (s.pad h).tlb := (Paddock.reach_eq (e.pad h)).2.2.1
theorem softLines (h : Nat) : (t.pad h).softLines = (s.pad h).softLines := (Paddock.reach_eq (e.pad h)).2.2.2

theorem rdByte : t.rdByte g a = s.rdByte g a := by
  simp [State.rdByte, e.mem, e.host]

theorem rdNat : t.rdNat g a n = s.rdNat g a n := by
  simp [State.rdNat, State.rdBytes_congr g a n fun _ => e.rdByte]

/-- One paddock updated alike in what an access looks at. -/
theorem updPad {f f' : Paddock → Paddock} (h : (f' (t.pad p)).reach = (f (s.pad p)).reach) :
    SameReach (s.updPad p f) (t.updPad p f') where
  mem := e.mem
  host := e.host
  roots := e.roots
  parts := e.parts
  links := e.links
  ats := e.ats
  mStiles := e.mStiles
  free := e.free
  pad r := by
    by_cases hr : r = p
    · subst hr
      simpa [State.updPad] using h
    · simpa [State.updPad, hr] using e.pad r

theorem fixLine : SameReach (s.fixLine g a) (t.fixLine g a) := by
  unfold State.fixLine
  dsimp only
  rw [e.softLines]
  split
  · exact e.updPad (by simp [Paddock.reach, e.part, e.gate, e.tlb, e.softLines])
  · exact e

theorem fixLines (l : List Nat) : SameReach (s.fixLines l) (t.fixLines l) := by
  unfold State.fixLines
  induction l generalizing s t with
  | nil => exact e
  | cons a l ih => exact ih e.fixLine

theorem walkReads (v : Nat) (l : List Nat) (tab : Nat) : walkReads t v tab l = Machine.walkReads s v tab l := by
  induction l generalizing tab with
  | nil => rfl
  | cons sh rest ih =>
    unfold Machine.walkReads
    dsimp only
    rw [e.rdNat]
    simp only [ih]

theorem fixWalk (asid : BitVec 16) : SameReach (s.fixWalk asid va) (t.fixWalk asid va) := by
  unfold State.fixWalk
  rw [e.roots]
  split
  · exact e
  · rw [e.walkReads]
    exact e.fixLines _

theorem partition (m : Nat) : t.part m = s.part m := by
  rw [State.part, State.part, e.parts]

theorem spaceOf : t.spaceOf p = s.spaceOf p := by
  rw [State.spaceOf, State.spaceOf, e.part]

theorem asidOf : t.asidOf p = s.asidOf p := by
  unfold State.asidOf
  rw [e.spaceOf, e.partition]

theorem freeChoice : (freeChoice t).1 = (Machine.freeChoice s).1 ∧
    SameReach (Machine.freeChoice s).2 (Machine.freeChoice t).2 :=
  ⟨congrArg Config.choice e.free, { e with free := congrArg (· + 1) e.free }⟩

theorem reachable (pa : Nat) (wr : Bool) : reachable t p pa wr = Machine.reachable s p pa wr := by
  simp [Machine.reachable, e.gate, e.part, e.mStiles]

theorem hostReach (wr : Bool) : hostReach t p a n wr = Machine.hostReach s p a n wr := by
  simp [Machine.hostReach, State.part, State.spaceOf, linkUp, hostPage, e.parts, e.part, e.links, e.ats]

theorem leafAddr (ent : BitVec 64) (base off : Nat) : leafAddr t p ent base off k n = Machine.leafAddr s p ent base off k n := by
  unfold Machine.leafAddr
  dsimp only
  rw [e.hostReach, e.reachable]

theorem xlWalk (asid : BitVec 16) : xlWalk t p asid va k n = Machine.xlWalk s p asid va k n := by
  unfold Machine.xlWalk
  rw [e.roots]
  split
  · rfl
  · dsimp only
    rw [walkFrom_congr fun _ => e.rdByte]
    split
    · rfl
    · rw [e.leafAddr]

theorem xlCached (ent : TlbEnt) (v : Nat) : xlCached t p ent v k n = Machine.xlCached s p ent v k n := e.leafAddr ..

/-- A translation answers alike, and leaves states alike. -/
theorem translate : (translate t p none va k n).1 = (Machine.translate s p none va k n).1 ∧
    SameReach (Machine.translate s p none va k n).2 (Machine.translate t p none va k n).2 := by
  unfold Machine.translate
  rw [e.asidOf]
  split
  · exact ⟨rfl, e⟩
  · rename_i asid _
    dsimp only
    rw [e.tlb]
    split
    · obtain ⟨choice, alike⟩ := e.freeChoice
      rw [choice, alike.xlCached, alike.xlWalk]
      split
      · exact ⟨rfl, alike⟩
      · exact ⟨rfl, alike.fixWalk asid⟩
    · rw [e.xlWalk]
      split
      · exact ⟨rfl, e.fixWalk asid⟩
      · have fixed := e.fixWalk (va := va) asid
        dsimp only
        refine ⟨rfl, fixed.updPad ?_⟩
        simp [Paddock.reach, fixed.part, fixed.gate, fixed.tlb, fixed.softLines]

theorem wrBytes (bs : List (BitVec 8)) : SameReach (s.wrBytes g a bs) (t.wrBytes g a bs) := by
  induction bs generalizing s t a with
  | nil => exact e
  | cons b bs ih =>
    refine ih ?_
    cases g with
    | true => exact { e with host := congrArg (Tbl.put 0 · a b) e.host }
    | false => exact { e with mem := congrArg (Tbl.put 0 · a b) e.mem }

/-- Bytes written meet the same fault, or none, and leave states alike. -/
theorem writeVA (fuel : Nat) (bs : List (BitVec 8)) : (writeVA t p fuel va bs).1 = (Machine.writeVA s p fuel va bs).1 ∧
    SameReach (Machine.writeVA s p fuel va bs).2 (Machine.writeVA t p fuel va bs).2 := by
  induction fuel generalizing s t va bs with
  | zero => exact ⟨rfl, e⟩
  | succ fuel ih =>
    unfold Machine.writeVA
    split
    · exact ⟨rfl, e⟩
    dsimp only
    split
    · exact ⟨rfl, e⟩
    obtain ⟨same, alike⟩ := e.translate (p := p) (va := va) (k := .write) (n := min bs.length (64 - va.toNat % 64))
    generalize Machine.translate s p none va .write (min bs.length (64 - va.toNat % 64)) = x at same alike
    generalize Machine.translate t p none va .write (min bs.length (64 - va.toNat % 64)) = y at same alike
    obtain ⟨x, s⟩ := x
    obtain ⟨y, t⟩ := y
    subst same
    cases y with
    | fault c => exact ⟨rfl, alike⟩
    | ok pa host => exact ih (alike.wrBytes _) _

theorem writeSome (bs : List (BitVec 8)) : (writeSome t p va bs).1 = (Machine.writeSome s p va bs).1 ∧
    SameReach (Machine.writeSome s p va bs).2 (Machine.writeSome t p va bs).2 := e.writeVA _ _

end SameReach

/-! ### What an access leaves (R77) -/

/-- What an access leaves of a paddock. -/
def Paddock.inner (x : Paddock) : Tbl Ctx × Tbl Tile × Tbl Region × List (Nat × Report) :=
  (x.ctxs, x.tiles, x.regions, x.behind)

/-- Contexts, tiles, regions and the reports that wait are as before. -/
def SameInner (s t : State) : Prop := ∀ h, (t.pad h).inner = (s.pad h).inner

theorem SameInner.trans (a : SameInner s t) (b : SameInner t u) : SameInner s u := fun h => (b h).trans (a h)

section Inner

variable (e : SameInner s t)

include e

theorem SameInner.fields (h : Nat) : (t.pad h).ctxs = (s.pad h).ctxs ∧ (t.pad h).tiles = (s.pad h).tiles ∧
    (t.pad h).regions = (s.pad h).regions ∧ (t.pad h).behind = (s.pad h).behind := by
  simpa [Paddock.inner] using e h

theorem SameInner.ctx (h k : Nat) : t.ctx h k = s.ctx h k := by
  rw [State.ctx, State.ctx, Paddock.ctx, Paddock.ctx, (e.fields h).1]

theorem SameInner.tile (h k : Nat) : t.tile h k = s.tile h k := by
  rw [State.tile, State.tile, Paddock.tile, Paddock.tile, (e.fields h).2.1]

theorem SameInner.region (h k : Nat) : t.region h k = s.region h k := by
  rw [State.region, State.region, Paddock.region, Paddock.region, (e.fields h).2.2.1]

theorem SameInner.behind (h : Nat) : (t.pad h).behind = (s.pad h).behind := (e.fields h).2.2.2

end Inner

theorem setPad_sameInner {x : Paddock} (h : x.inner = (s.pad p).inner) : SameInner s (s.setPad p x) := by
  intro r
  by_cases hr : r = p
  · subst hr
    rw [State.pad_setPad_same, h]
  · rw [State.pad_setPad_other _ _ _ _ hr]

theorem updPad_sameInner {f : Paddock → Paddock} (h : (f (s.pad p)).inner = (s.pad p).inner) : SameInner s (s.updPad p f) :=
  setPad_sameInner h

theorem fixLine_sameInner {g : Bool} {a : Nat} : SameInner s (s.fixLine g a) := by
  obtain h | ⟨l, c, h⟩ := fixLine_frame s g a
  · rw [h]
    exact fun _ => rfl
  · rw [h]
    exact updPad_sameInner rfl

theorem fixLines_sameInner (l : List Nat) : SameInner s (s.fixLines l) := by
  induction l generalizing s with
  | nil => exact fun _ => rfl
  | cons a l ih => exact fixLine_sameInner.trans ih

theorem translate_sameInner {va : BitVec 64} {k : AccKind} {n : Nat} : SameInner s (translate s p none va k n).2 := by
  obtain ⟨m, l, tl, h | h⟩ := translate_frame s p va k n
  · rw [h]
    exact fixLines_sameInner (s := { s with free := m }) l
  · rw [h]
    exact (fixLines_sameInner l).trans (updPad_sameInner rfl)

theorem wrBytes_sameInner {g : Bool} {a : Nat} {bs : List (BitVec 8)} : SameInner s (s.wrBytes g a bs) := by
  obtain ⟨m, d, h, e⟩ := s.wrBytes_frame g a bs
  rw [e]
  exact fun _ => rfl

theorem writeVA_sameInner (fuel : Nat) {va : BitVec 64} {bs : List (BitVec 8)} : SameInner s (writeVA s p fuel va bs).2 := by
  induction fuel generalizing s va bs with
  | zero => exact fun _ => rfl
  | succ fuel ih =>
    unfold writeVA
    split
    · exact fun _ => rfl
    dsimp only
    split
    · exact fun _ => rfl
    have placed : SameInner s (translate s p none va .write (min bs.length (64 - va.toNat % 64))).2 := translate_sameInner
    split
    · rename_i c u h
      rw [h] at placed
      exact placed
    · rename_i pa host u h
      rw [h] at placed
      exact placed.trans (wrBytes_sameInner.trans ih)

/-! ### A report as it is delivered (R314, R315) -/

variable {r : Report} {rest : List Report} {rid : Nat}

/-- The record of a fabric trap written at TRBASE, and whether it could not be written whole. -/
def recordAt (s : State) (p : Nat) (base : BitVec 64) (rec_ : List (BitVec 8)) : Bool × State :=
  if base = 0 then (false, s)
  else
    match writeSome s p base rec_ with
    | (none, s) => (false, s)
    | (some _, s) => (true, s)

/-- The task of a trapped region is in STATE 5, but where another report of the region waits. -/
def faultTask (s : State) (p rid : Nat) : State :=
  match (s.region p rid).task with
  | some k =>
    if (s.region p rid).st = .trapped ∧ !(s.pad p).behind.any (·.2.src == .region rid) then
      s.updTask p k fun t => { t with st := .faulted }
    else s
  | none => s

theorem readyReport_region (h : r.src = .region rid) : readyReport s p q r =
    ({ r with
        tval := (s.ctx p q).trbase
        tval2 := r.tval2 ||| BitVec.ofNat 64 ((recordAt s p (s.ctx p q).trbase r.rec_).1.toNat * 2 ^ 62) },
      faultTask (recordAt s p (s.ctx p q).trbase r.rec_).2 p rid) := by
  unfold readyReport
  rw [h]
  rfl

theorem readyReport_other (h : ∀ rid, r.src ≠ .region rid) : readyReport s p q r = (r, s) := by
  unfold readyReport
  split
  · rename_i rid src
    exact absurd src (h rid)
  · rfl

theorem recordAt_sameInner {base : BitVec 64} {bs : List (BitVec 8)} : SameInner s (recordAt s p base bs).2 := by
  unfold recordAt
  split
  · exact fun _ => rfl
  · have written : SameInner s (writeSome s p base bs).2 := writeVA_sameInner _
    split <;> rename_i h <;> rw [h] at written <;> exact written

theorem faultTask_sameInner : SameInner s (faultTask s p rid) := by
  unfold faultTask
  split
  · rename_i k _
    split
    · exact setPad_sameInner (x := (s.pad p).setTask k { s.task p k with st := .faulted }) rfl
    · exact fun _ => rfl
  · exact fun _ => rfl

theorem faultTask_rdByte {g : Bool} {a : Nat} : (faultTask s p rid).rdByte g a = s.rdByte g a := by
  unfold faultTask
  split
  · split <;> rfl
  · rfl

theorem faultTask_task {k : Nat} (task : (s.region p rid).task = some k) (st : (s.region p rid).st = .trapped)
    (alone : ∀ e ∈ (s.pad p).behind, e.2.src ≠ .region rid) : ((faultTask s p rid).task p k).st = .faulted := by
  have none : (s.pad p).behind.any (·.2.src == .region rid) = false := by simpa using alone
  unfold faultTask
  rw [task]
  dsimp only
  rw [if_pos ⟨st, by simp [none]⟩, State.updTask, State.task_setTask_same]

theorem readyReport_sameInner : SameInner s (readyReport s p q r).2 := by
  by_cases h : ∃ rid, r.src = .region rid
  · obtain ⟨rid, src⟩ := h
    rw [readyReport_region src]
    exact recordAt_sameInner.trans faultTask_sameInner
  · rw [readyReport_other fun rid src => h ⟨rid, src⟩]
    exact fun _ => rfl

theorem readyReport_src : (readyReport s p q r).1.src = r.src := by
  unfold readyReport
  split <;> rfl

theorem readyReport_cause : (readyReport s p q r).1.cause = r.cause := by
  unfold readyReport
  split <;> rfl

/-! ### Reports that wait behind one of the same source (R311) -/

theorem nextReport_alone {src : Source} (alone : ∀ e ∈ (s.pad p).behind, e.2.src ≠ src) : nextReport s p src = s := by
  have none : (s.pad p).behind.find? (fun e => e.2.src == src) = none := by simpa using alone
  unfold nextReport
  rw [none]

theorem nextReport_found {src : Source} {e : Nat × Report}
    (found : (s.pad p).behind.find? (fun e => e.2.src == src) = some e) : nextReport s p src =
      pendReport (s.updPad p fun x => { x with behind := x.behind.erase e }) p e.1 e.2 := by
  unfold nextReport
  rw [found]

theorem updCtx_updCtx {f g : Ctx → Ctx} : (s.updCtx p q f).updCtx p q g = s.updCtx p q (g ∘ f) := by
  simp [State.updCtx]

/-- A report pending takes its place in the context; a gated one is woken. -/
theorem pendReport_frame (s : State) (p q : Nat) (r : Report) : ∃ n w, pendReport s p q r =
    ({ s with free := n }).updCtx p q fun c => { c with reports := insertReport { r with fc := s.fc p } c.reports, wait := w } := by
  unfold pendReport
  extract_lets t
  have asIs : ∃ n w, t = ({ s with free := n }).updCtx p q fun c =>
      { c with reports := insertReport { r with fc := s.fc p } c.reports, wait := w } := ⟨s.free, (s.ctx p q).wait, rfl⟩
  split
  · rename_i d _
    split
    · exact asIs
    · exact ⟨s.free + 1, .gated d (some (t.now + (0 + Config.delay t.free) % wakeLimit { t with free := t.free + 1 } p)),
        updCtx_updCtx (s := { s with free := s.free + 1 })
          (f := fun c => { c with reports := insertReport { r with fc := s.fc p } c.reports })⟩
  · exact asIs

theorem mem_insertReport (l : List Report) : r ∈ insertReport r l := by
  induction l with
  | nil => exact List.mem_cons_self
  | cons x xs ih =>
    unfold insertReport
    split
    · exact List.mem_cons_of_mem _ ih
    · exact List.mem_cons_self


/-! ### A report taken (R84, R311) -/

/-- A context that leaves its wait withdraws its bids; a gated one leaves state F3 (R84, R144). -/
theorem leaveWait_frame (s : State) (p q : Nat) : ∃ b g, leaveWait s p q =
    (s.updPad p fun x => { x with bids := b, gatedF3 := g }).setCtx p q { s.ctx p q with wait := .ready } := by
  have left (b : List Bid) (g : Bool) : SameInner s (s.setPad p { s.pad p with bids := b, gatedF3 := g }) := setPad_sameInner rfl
  obtain ⟨b, e⟩ : ∃ b, withdrawBids s p q = s.setPad p { s.pad p with bids := b } := ⟨_, rfl⟩
  unfold leaveWait
  rw [e]
  dsimp only
  split
  · refine ⟨b, false, ?_⟩
    rw [State.updPad, State.pad_setPad_same, State.setPad_setPad]
    unfold State.updCtx
    rw [(left b false).ctx]
    rfl
  · refine ⟨b, (s.pad p).gatedF3, ?_⟩
    unfold State.updCtx
    rw [(left b _).ctx]
    rfl

/-- The state in which a report of a context is delivered: the context has left its wait, and the report is gone. -/
def taken (s : State) (p q : Nat) (r : Report) (rest : List Report) : State :=
  (leaveWait s p q).setCtx p q { (leaveWait s p q).ctx p q with reports := rest, serving := some r.src }

theorem taken_frame (s : State) (p q : Nat) (r : Report) (rest : List Report) : ∃ b g, taken s p q r rest =
    (s.updPad p fun x => { x with bids := b, gatedF3 := g }).setCtx p q
      { s.ctx p q with wait := .ready, reports := rest, serving := some r.src } := by
  obtain ⟨b, g, e⟩ := leaveWait_frame s p q
  refine ⟨b, g, ?_⟩
  rw [taken, e, State.ctx_setCtx_same, State.setCtx_setCtx]

theorem taken_ctx : (taken s p q r rest).ctx p q =
    { s.ctx p q with wait := .ready, reports := rest, serving := some r.src } := by
  obtain ⟨b, g, e⟩ := taken_frame s p q r rest
  rw [e, State.ctx_setCtx_same]

/-- Bids and the gated clock of a paddock hold nothing of the rest of it. -/
theorem updPad_bids_inner (b : List Bid) (g : Bool) : SameInner s (s.updPad p fun x => { x with bids := b, gatedF3 := g }) :=
  updPad_sameInner rfl

theorem taken_other {p' q' : Nat} (ne : (p', q') ≠ (p, q)) : (taken s p q r rest).ctx p' q' = s.ctx p' q' := by
  obtain ⟨b, g, e⟩ := taken_frame s p q r rest
  rw [e, ctx_setCtx_ne ne, (updPad_bids_inner b g).ctx]

theorem taken_tile (h k : Nat) : (taken s p q r rest).tile h k = s.tile h k := by
  obtain ⟨b, g, e⟩ := taken_frame s p q r rest
  rw [e, State.tile_setCtx, (updPad_bids_inner b g).tile]

theorem taken_region (h k : Nat) : (taken s p q r rest).region h k = s.region h k := by
  obtain ⟨b, g, e⟩ := taken_frame s p q r rest
  rw [e, State.region_setCtx, (updPad_bids_inner b g).region]

/-- A paddock written alike in what an access looks at. -/
theorem SameReach.setPad {x : Paddock} (e : SameReach s t) (h : x.reach = (s.pad p).reach) : SameReach s (t.setPad p x) :=
  { e with
    pad := fun r => by
      by_cases hr : r = p
      · subst hr
        rw [State.pad_setPad_same, h]
      · rw [State.pad_setPad_other _ _ _ _ hr]
        exact e.pad r }

theorem taken_sameReach : SameReach s (taken s p q r rest) := by
  obtain ⟨b, g, e⟩ := taken_frame s p q r rest
  have self : SameReach s s := ⟨rfl, rfl, rfl, rfl, rfl, rfl, rfl, rfl, fun _ => rfl⟩
  rw [e]
  refine SameReach.setPad (self.setPad (p := p) rfl) ?_
  rw [State.updPad, State.pad_setPad_same]
  rfl

/-! ### What the delivery of a report leaves (R311) -/

section Trap

variable {epc : BitVec 64} {cause : BitVec 8} {v1 v2 : Option (BitVec 64)}

theorem takeTrap_reports : ((takeTrap s p q epc cause v1 v2).ctx p q).reports = (s.ctx p q).reports := by
  obtain ⟨a, b, n, h, e, -⟩ := takeTrap_frame s p q epc cause v1 v2
  have ctx : (takeTrap s p q epc cause v1 v2).ctx p q = (s.ctx p q).trapped epc cause a b := by
    rw [e]
    exact State.ctx_setCtx_same ..
  obtain ⟨halts, code, trapped⟩ := Ctx.trapped_eq (c := s.ctx p q) (epc := epc) (cause := cause) (v1 := a) (v2 := b)
  rw [ctx, trapped]
  rfl

theorem takeTrap_other {p' q' : Nat} (ne : (p', q') ≠ (p, q)) :
    (takeTrap s p q epc cause v1 v2).ctx p' q' = s.ctx p' q' := by
  obtain ⟨a, b, n, h, e, -⟩ := takeTrap_frame s p q epc cause v1 v2
  rw [e]
  exact ctx_setCtx_ne ne

theorem takeTrap_behind : ((takeTrap s p q epc cause v1 v2).pad p).behind = (s.pad p).behind := by
  obtain ⟨a, b, n, h, e, -⟩ := takeTrap_frame s p q epc cause v1 v2
  have pad : (takeTrap s p q epc cause v1 v2).pad p = (s.pad p).setCtx q ((s.ctx p q).trapped epc cause a b) := by
    rw [e]
    exact State.pad_setPad_same ..
  rw [pad]
  rfl

theorem takeTrap_task (k : Nat) : (takeTrap s p q epc cause v1 v2).task p k = s.task p k := by
  obtain ⟨a, b, n, h, e, -⟩ := takeTrap_frame s p q epc cause v1 v2
  rw [e]
  exact State.task_setCtx ..

/-- A trap writes host memory alone, and only where its context halts (R313). -/
theorem takeTrap_rdByte {g : Bool} {a : Nat} (out : (s.ctx p q).inTrap = false) (h : g = false ∨ (s.ctx p q).tvec ≠ 0) :
    (takeTrap s p q epc cause v1 v2).rdByte g a = s.rdByte g a := by
  obtain ⟨x, y, n, host, e, -, -, same⟩ := takeTrap_frame s p q epc cause v1 v2
  rw [e]
  cases g with
  | false => rfl
  | true =>
    obtain rfl := same (h.resolve_left nofun) out
    rfl

end Trap

/-- The report to deliver, and the state it is delivered from. -/
def delivering (s : State) (p q : Nat) (r : Report) (rest : List Report) : Report × State :=
  readyReport (taken s p q r rest) p q r

theorem delivering_sameInner : SameInner (taken s p q r rest) (delivering s p q r rest).2 := readyReport_sameInner

theorem taken_behind : ((taken s p q r rest).pad p).behind = (s.pad p).behind := by
  obtain ⟨b, g, e⟩ := taken_frame s p q r rest
  rw [e, State.setCtx, State.pad_setPad_same, State.updPad, State.pad_setPad_same]
  rfl

theorem delivering_behind : ((delivering s p q r rest).2.pad p).behind = (s.pad p).behind :=
  (delivering_sameInner.behind p).trans taken_behind

theorem delivering_ctx : (delivering s p q r rest).2.ctx p q =
    { s.ctx p q with wait := .ready, reports := rest, serving := some r.src } :=
  (delivering_sameInner.ctx p q).trans taken_ctx

/-- The oldest report, when it is due, is taken as a trap at the instruction that the context stands at. -/
theorem exec_asyncTrapDelivery {p : Fin 32} {q : Fin 4} (due : asyncDue s p q = true)
    (oldest : (s.ctx p q).reports = r :: rest) : exec (.asyncTrapDelivery p q) s =
      .next (takeTrap (nextReport (delivering s p q r rest).2 p r.src) p q (s.ctx p q).pc r.cause
        (some (delivering s p q r rest).1.tval) (some (delivering s p q r rest).1.tval2)) := by
  have left : (leaveWait s p q).ctx p q = { s.ctx p q with wait := .ready } := by
    obtain ⟨b, g, e⟩ := leaveWait_frame s p q
    rw [e, State.ctx_setCtx_same]
  have reports : ((leaveWait s p q).ctx p q).reports = r :: rest := by rw [left, oldest]
  have pc : ((leaveWait s p q).ctx p q).pc = (s.ctx p q).pc := by rw [left]
  have next : exec (.asyncTrapDelivery p q) s = .next (takeTrap
      (nextReport (delivering s p q r rest).2 p (delivering s p q r rest).1.src) p q ((leaveWait s p q).ctx p q).pc
      (delivering s p q r rest).1.cause (some (delivering s p q r rest).1.tval) (some (delivering s p q r rest).1.tval2)) := by
    show execAsyncTrapDelivery p q s = _
    unfold execAsyncTrapDelivery
    rw [if_neg (by simp [due])]
    dsimp only
    rw [reports]
    rfl
  have src : (delivering s p q r rest).1.src = r.src := readyReport_src
  have cause : (delivering s p q r rest).1.cause = r.cause := readyReport_cause
  rw [next, src, cause, pc]

/-! ### When a report is due (R84, R308, R311, R335) -/

theorem Ctx.atBoundary_iff {c : Ctx} {now : Nat} : c.atBoundary now = true ↔
    (c.wait = .ready ∨ (∃ a m, c.wait = .tags a m) ∨ (∃ n d, c.wait = .wfe n d) ∨
      (∃ d n, c.wait = .gated d (some n) ∧ n ≤ now) ∨
      ∃ w n, c.wait = .poll w n ∧ seqOpc w ≠ 0x96 ∧ seqOpc w ≠ 0x97) := by
  unfold Ctx.atBoundary
  cases c.wait with
  | gated d w => cases w <;> simp
  | _ => simp

theorem heldCtx_iff : (s.pad p).heldCtx q = true ↔ ∃ k w n, k < 4 ∧ k ≠ q ∧ (s.ctx p k).wait = .poll w n ∧
    seqOpc w = 0xA8 ∧ ((s.ctx p k).opA (seqFields w)).toNat % 4 = q := by
  unfold Paddock.heldCtx
  rw [List.any_eq_true]
  refine exists_congr fun k => ?_
  rw [show (s.pad p).ctx k = s.ctx p k from rfl]
  cases (s.ctx p k).wait with
  | poll w n => simp [fld]
  | _ => simp

theorem asyncDue_iff : asyncDue s p q = true ↔ (s.ctx p q).halted = false ∧ (s.ctx p q).saved = false ∧
    (s.ctx p q).inTrap = false ∧ (s.ctx p q).atBoundary s.now = true ∧ ¬ (s.pad p).heldCtx q = true ∧
    (s.ctx p q).reports ≠ [] := by
  unfold asyncDue
  simp only [Bool.and_eq_true, Bool.not_eq_true', Bool.not_eq_true, List.isEmpty_eq_false_iff]
  tauto

end Sys2Proof.Machine

namespace Sys2Proof.Claims

open Sys2Proof.Machine

variable {s t u : State} {p q : Nat} {r : Report} {rest : List Report} {rid : Nat}

/-- A trap entered from where a report is delivered is entered from before: the wait and the reports are no part of it. -/
theorem enters_of_delivering {epc : BitVec 64} {cause : BitVec 8} {v1 v2 : Option (BitVec 64)}
    (bytes : ∀ a, (delivering s p q r rest).2.rdByte false a = s.rdByte false a)
    (h : Enters (delivering s p q r rest).2 t p q epc cause v1 v2) : Enters s t p q epc cause v1 v2 := by
  obtain ⟨epcIs, causeIs, tvalIs, tval2Is, goes, runs, halts, regs, keeps, others, tile, region, byte⟩ := h
  rw [delivering_ctx] at goes runs halts regs keeps
  exact {
    epcIs, causeIs, tvalIs, tval2Is, goes, runs, halts, regs, keeps
    others := fun p' q' ne => (others p' q' ne).trans ((delivering_sameInner.ctx p' q').trans (taken_other ne))
    tile := fun p' k => (tile p' k).trans ((delivering_sameInner.tile p' k).trans (taken_tile p' k))
    region := fun p' k => (region p' k).trans ((delivering_sameInner.region p' k).trans (taken_region p' k))
    byte := fun a => (byte a).trans (bytes a) }

/-! ### The statements of O5 -/

theorem trapsInPlaceOfAnInstruction : TrapsInPlaceOfAnInstruction := by
  intro s
  refine ⟨fun _ => ⟨_, rfl, takeTrap_enters⟩, fun _ => ⟨_, rfl, takeTrap_enters⟩, fun out spent => ?_, fun out left spent => ?_⟩
  · refine ⟨_, if_pos (budgetOut_of_exhausted out (.inl spent)), ?_⟩
    rw [if_pos spent]
    exact takeTrap_enters
  · refine ⟨_, if_pos (budgetOut_of_exhausted out (.inr spent)), ?_⟩
    rw [if_neg (by omega)]
    exact takeTrap_enters

/-- The report of a source that is no region is delivered as it is. -/
theorem delivering_other (other : ∀ rid, r.src ≠ .region rid) : delivering s p q r rest = (r, taken s p q r rest) :=
  readyReport_other other

/-- The report of a region carries TRBASE, and says whether its record could not be written there. -/
theorem delivering_region (src : r.src = .region rid) : delivering s p q r rest =
    ({ r with
        tval := (s.ctx p q).trbase
        tval2 := r.tval2 |||
          BitVec.ofNat 64 ((recordAt (taken s p q r rest) p (s.ctx p q).trbase r.rec_).1.toNat * 2 ^ 62) },
      faultTask (recordAt (taken s p q r rest) p (s.ctx p q).trbase r.rec_).2 p rid) := by
  rw [delivering, readyReport_region src, taken_ctx]

/-- The state that the delivery of a report leaves where none of its source waits behind it. -/
def delivered (s : State) (p q : Nat) (r : Report) (rest : List Report) : State :=
  takeTrap (delivering s p q r rest).2 p q (s.ctx p q).pc r.cause (some (delivering s p q r rest).1.tval)
    (some (delivering s p q r rest).1.tval2)

theorem exec_delivered {p : Fin 32} {q : Fin 4} (due : asyncDue s p q = true) (oldest : (s.ctx p q).reports = r :: rest)
    (alone : ∀ e ∈ (s.pad p).behind, e.2.src ≠ r.src) :
    exec (.asyncTrapDelivery p q) s = .next (delivered s p q r rest) := by
  rw [exec_asyncTrapDelivery due oldest, nextReport_alone (by rwa [delivering_behind]), delivered]

theorem delivered_enters : Enters (delivering s p q r rest).2 (delivered s p q r rest) p q (s.ctx p q).pc r.cause
    (some (delivering s p q r rest).1.tval) (some (delivering s p q r rest).1.tval2) := takeTrap_enters

theorem delivered_reports : ((delivered s p q r rest).ctx p q).reports = rest := by
  rw [delivered, takeTrap_reports, delivering_ctx]

theorem delivered_wait : ((delivered s p q r rest).ctx p q).wait = .ready := delivered_enters.goes.2.2

/-- The task of a region whose trap is delivered is in STATE 5 (R314). -/
theorem delivered_task (alone : ∀ e ∈ (s.pad p).behind, e.2.src ≠ r.src) (src : r.src = .region rid) {k : Nat}
    (task : (s.region p rid).task = some k) (trapped : (s.region p rid).st = .trapped) :
    ((delivered s p q r rest).task p k).st = .faulted := by
  rw [delivered, takeTrap_task, delivering_region src]
  have written : SameInner (taken s p q r rest) (recordAt (taken s p q r rest) p (s.ctx p q).trbase r.rec_).2 :=
    recordAt_sameInner
  have region := (written.region p rid).trans (taken_region p rid)
  have behind := (written.behind p).trans taken_behind
  rw [src] at alone
  exact faultTask_task (by rw [region, task]) (by rw [region, trapped]) (by rwa [behind])

theorem delivered_of_other (other : ∀ rid, r.src ≠ .region rid) :
    Enters s (delivered s p q r rest) p q (s.ctx p q).pc r.cause (some r.tval) (some r.tval2) := by
  have enters := delivered_enters (s := s) (p := p) (q := q) (r := r) (rest := rest)
  rw [delivering_other other] at enters
  refine enters_of_delivering (r := r) (rest := rest) (fun a => ?_) (by rwa [delivering_other other])
  rw [delivering_other other]
  exact taken_sameReach.rdByte

/-- A fabric trap delivered where no record is written. -/
theorem delivered_of_region (src : r.src = .region rid) (none : (s.ctx p q).trbase = 0) :
    Enters s (delivered s p q r rest) p q (s.ctx p q).pc r.cause (some 0) (some r.tval2) := by
  have ready : delivering s p q r rest = ({ r with tval := 0 }, faultTask (taken s p q r rest) p rid) := by
    rw [delivering_region src, none]
    simp [recordAt]
  have enters := delivered_enters (s := s) (p := p) (q := q) (r := r) (rest := rest)
  rw [ready] at enters
  refine enters_of_delivering (r := r) (rest := rest) (fun a => ?_) (by rwa [ready])
  rw [ready]
  exact faultTask_rdByte.trans taken_sameReach.rdByte

theorem behind_setCtx {h k : Nat} {c : Ctx} : ((s.setCtx h k c).pad h).behind = (s.pad h).behind := by
  rw [State.setCtx, State.pad_setPad_same]
  rfl

/-- The report that waited behind the one delivered is pending from then on (R311). -/
theorem delivered_behind {p : Fin 32} {q : Fin 4} {e : Nat × Report} (due : asyncDue s p q = true)
    (oldest : (s.ctx p q).reports = r :: rest) (found : (s.pad p).behind.find? (fun e => e.2.src == r.src) = some e) :
    ∃ t z, exec (.asyncTrapDelivery p q) s = .next t ∧ (t.pad p).behind = (s.pad p).behind.erase e ∧
      z ∈ (t.ctx p e.1).reports ∧ (z.src, z.cause, z.tval, z.tval2) = (r.src, e.2.cause, e.2.tval, e.2.tval2) ∧
      (t.ctx p q).tcause = r.cause.setWidth 64 := by
  have src : e.2.src = r.src := by simpa using List.find?_some found
  let u := (delivering s p q r rest).2.updPad p fun x => { x with behind := x.behind.erase e }
  obtain ⟨n, w, pend⟩ := pendReport_frame u p e.1 e.2
  let z : Report := { e.2 with fc := u.fc p }
  have next : nextReport (delivering s p q r rest).2 p r.src = pendReport u p e.1 e.2 :=
    nextReport_found (by rw [delivering_behind, found])
  have erased : (u.pad p).behind = ((delivering s p q r rest).2.pad p).behind.erase e :=
    congrArg Paddock.behind (State.pad_setPad_same (delivering s p q r rest).2 p _)
  have behind : ((pendReport u p e.1 e.2).pad p).behind = (s.pad p).behind.erase e := by
    rw [pend, State.updCtx, behind_setCtx, show ({ u with free := n } : State).pad p = u.pad p from rfl, erased, delivering_behind]
  have pending : z ∈ ((pendReport u p e.1 e.2).ctx p e.1).reports := by
    rw [pend, State.updCtx, State.ctx_setCtx_same]
    exact mem_insertReport _
  rw [exec_asyncTrapDelivery due oldest, next]
  refine ⟨_, z, rfl, takeTrap_behind.trans behind, ?_, by rw [← src], takeTrap_enters.causeIs⟩
  by_cases same : e.1 = q
  · rw [same, takeTrap_reports, ← same]
    exact pending
  · rw [takeTrap_other fun h => same (congrArg Prod.snd h)]
    exact pending

theorem recordAt_written {base : BitVec 64} {bs : List (BitVec 8)} (h : base ≠ 0) :
    recordAt s p base bs = ((writeSome s p base bs).1.isSome, (writeSome s p base bs).2) := by
  unfold recordAt
  rw [if_neg h]
  split <;> rename_i e <;> rw [e] <;> rfl

section Recorded

variable {o : Option (BitVec 8 × BitVec 64)} (src : r.src = .region rid) (base : (s.ctx p q).trbase ≠ 0)
  (written : writeSome s p (s.ctx p q).trbase r.rec_ = (o, u))

include src base written

/-- The record of a fabric trap is written from the state before as from the one it is delivered in (R315). -/
theorem delivering_recorded : ∃ w, SameReach u w ∧ delivering s p q r rest =
    ({ r with tval := (s.ctx p q).trbase, tval2 := r.tval2 ||| BitVec.ofNat 64 (o.isSome.toNat * 2 ^ 62) },
      faultTask w p rid) := by
  obtain ⟨same, alike⟩ := (taken_sameReach (s := s) (p := p) (q := q) (r := r) (rest := rest)).writeSome (p := p)
    (va := (s.ctx p q).trbase) r.rec_
  rw [written] at same alike
  refine ⟨_, alike, ?_⟩
  rw [delivering_region src, recordAt_written base, same]

theorem delivered_rdByte (out : (s.ctx p q).inTrap = false) {h : Bool} {a : Nat} (runs : h = false ∨ (s.ctx p q).tvec ≠ 0) :
    (delivered s p q r rest).rdByte h a = u.rdByte h a := by
  obtain ⟨w, alike, ready⟩ := delivering_recorded (rest := rest) src base written
  rw [delivered, takeTrap_rdByte (by rw [delivering_ctx]; exact out) (by rw [delivering_ctx]; exact runs), ready]
  exact faultTask_rdByte.trans alike.rdByte

/-- The context that takes a fabric trap whose record was to be written. -/
theorem delivered_ctx_of_record (out : (s.ctx p q).inTrap = false) (runs : (s.ctx p q).halted = false) :
    let d := (delivered s p q r rest).ctx p q
    d.epc = (s.ctx p q).pc ∧ d.tcause = r.cause.setWidth 64 ∧ d.tval = (s.ctx p q).trbase ∧
      d.tval2 = (if o = none then r.tval2 else r.tval2 ||| BitVec.ofNat 64 (2 ^ 62)) ∧ d.pc = (s.ctx p q).tvec ∧
      d.inTrap = true ∧ (∀ n, d.rd n = (s.ctx p q).rd n) ∧ (d.halted = true ↔ (s.ctx p q).tvec = 0) := by
  obtain ⟨w, -, ready⟩ := delivering_recorded (rest := rest) src base written
  obtain ⟨epcIs, causeIs, tvalIs, tval2Is, ⟨pc, inTrap, -⟩, goesOn, halts, regs, -⟩ :=
    delivered_enters (s := s) (p := p) (q := q) (r := r) (rest := rest)
  rw [delivering_ctx] at pc goesOn halts regs
  refine ⟨epcIs, causeIs, ?_, ?_, pc, inTrap, regs, fun h => ?_, fun h => (halts (.inl h)).1⟩
  · exact tvalIs _ (by rw [ready])
  · rw [tval2Is _ rfl, ready]
    cases o <;> simp
  · by_contra ne
    have stays := (goesOn ne out).1
    rw [h, runs] at stays
    exact absurd stays nofun

end Recorded

theorem asyncDelivery : AsyncDelivery := by
  intro s p q c boundary stopped open_ alone
  have due_iff : asyncDue s p q = true ↔ open_ ∧ c.reports ≠ [] := by
    rw [asyncDue_iff, Ctx.atBoundary_iff, heldCtx_iff]
    show _ ∧ _ ∧ _ ∧ boundary ∧ ¬ stopped ∧ _ ↔ (_ ∧ _ ∧ _ ∧ boundary ∧ ¬ stopped) ∧ _
    exact ⟨fun ⟨runs, here, out, bound, free, reported⟩ => ⟨⟨runs, here, out, bound, free⟩, reported⟩,
      fun ⟨⟨runs, here, out, bound, free⟩, reported⟩ => ⟨runs, here, out, bound, free, reported⟩⟩
  have due {r rest} (isOpen : open_) (oldest : c.reports = r :: rest) : asyncDue s p q = true :=
    due_iff.mpr ⟨isOpen, by rw [oldest]; exact nofun⟩
  refine ⟨fun r rest isOpen oldest isAlone quiet => ?_, fun r rest e isOpen oldest found _ => ?_,
    fun r rest rid o u isOpen oldest isAlone src base written => ?_, fun h => ?_⟩
  · refine ⟨_, exec_delivered (due isOpen oldest) oldest isAlone, delivered_reports, delivered_wait, delivered_of_other,
      fun rid src => ⟨delivered_of_region src (quiet.resolve_left fun other => other rid src), ?_⟩⟩
    exact fun k task trapped => delivered_task isAlone src task trapped
  · exact delivered_behind (due isOpen oldest) oldest found
  · have ⟨runs, _, out, _⟩ := isOpen
    obtain ⟨epc, cause, tval, tval2, pc, inTrap, regs, halts⟩ :=
      delivered_ctx_of_record (rest := rest) src base written out runs
    refine ⟨_, exec_delivered (due isOpen oldest) oldest isAlone, fun h a ok => delivered_rdByte src base written out ok,
      delivered_reports, delivered_wait, epc, cause, tval, tval2, pc, inTrap, regs, halts, ?_⟩
    exact fun k task trapped => delivered_task isAlone src task trapped
  · have notDue : ¬ asyncDue s p q = true := fun d => by
      obtain ⟨isOpen, reported⟩ := due_iff.mp d
      exact h.elim (· isOpen) reported
    exact if_pos (by simpa using notDue)

end Sys2Proof.Claims

namespace Sys2Proof

/-- Settles O5: a report is delivered from a state alike in all that its record's bytes and its trap depend on. -/
theorem trapsTaken : Obligations.TrapsTaken := by
  unfold Obligations.TrapsTaken
  exact ⟨Claims.trapsInPlaceOfAnInstruction, Claims.asyncDelivery⟩

end Sys2Proof

end

/-! ## An image loaded, a slot activated (O18)

An image is read, which changes no more than translations and corrected lines (`Reads`); storing it, cancelling requests and
activating a slot write tiles, and the region's own note at the end (`TilesOnly`). -/

section

namespace Sys2Proof.Machine.Tbl

variable {α : Type} {v : α} {t : Tbl α} {k j : Nat}

theorem find?_set_same : find? (set t k v) k = some v := by
  induction t with
  | nil => simp [set, find?]
  | cons e t ih =>
    unfold set
    split
    · simp [find?]
    · split
      · simp [find?]
      · rename_i ne
        simp [find?, ih, Ne.symm ne]

theorem find?_set_other (h : j ≠ k) : find? (set t k v) j = find? t j := by
  induction t with
  | nil => simp [set, find?, Ne.symm h]
  | cons e t ih =>
    unfold set
    split
    · simp [find?, Ne.symm h]
    · split
      · rename_i same
        simp [find?, ← same, Ne.symm h]
      · simp only [find?, ih]

end Sys2Proof.Machine.Tbl

namespace Sys2Proof.Machine

variable {s t u : State} {p q : Nat} {f : SeqF} {id n : Nat}

/-! ### Reading (R40, R86) -/

/-- Contexts, tiles, regions, bytes and the acting context are as before. -/
structure Reads (s t : State) : Prop where
  inner : SameInner s t
  byte : ∀ g a, t.rdByte g a = s.rdByte g a
  cur : t.cur = s.cur

theorem Reads.refl (s : State) : Reads s s := ⟨fun _ => rfl, fun _ _ => rfl, rfl⟩

theorem Reads.trans (a : Reads s t) (b : Reads t u) : Reads s u :=
  ⟨a.inner.trans b.inner, fun g x => (b.byte g x).trans (a.byte g x), b.cur.trans a.cur⟩

theorem fixLine_reads {g : Bool} {a : Nat} : Reads s (s.fixLine g a) := by
  obtain h | ⟨l, c, h⟩ := fixLine_frame s g a
  · rw [h]
    exact .refl s
  · rw [h]
    exact ⟨updPad_sameInner rfl, fun _ _ => rfl, rfl⟩

theorem fixLines_reads (l : List Nat) : Reads s (s.fixLines l) := by
  induction l generalizing s with
  | nil => exact .refl s
  | cons a l ih => exact fixLine_reads.trans ih

theorem translate_reads {va : BitVec 64} {k : AccKind} : Reads s (translate s p none va k n).2 := by
  obtain ⟨m, l, tl, h | h⟩ := translate_frame s p va k n
  · rw [h]
    exact .trans (t := { s with free := m }) ⟨fun _ => rfl, fun _ _ => rfl, rfl⟩ (fixLines_reads l)
  · rw [h]
    exact (fixLines_reads l).trans ⟨updPad_sameInner rfl, fun _ _ => rfl, rfl⟩

theorem readVA_reads (fuel : Nat) {k : AccKind} {va : BitVec 64} : Reads s (readVA s p k fuel va n).2 := by
  induction fuel generalizing s va n with
  | zero => exact .refl s
  | succ fuel ih =>
    unfold readVA
    split
    · exact .refl s
    dsimp only
    split
    · exact .refl s
    have placed : Reads s (translate s p none va k (min n (64 - va.toNat % 64))).2 := translate_reads
    split
    · rename_i c u h
      rw [h] at placed
      exact placed
    rename_i pa host u h
    rw [h] at placed
    split
    · exact placed
    have rest := placed.trans (fixLine_reads.trans (ih (va := va + BitVec.ofNat 64 (min n (64 - va.toNat % 64)))
      (n := n - min n (64 - va.toNat % 64)) (s := u.fixLine host pa)))
    split <;> rename_i e <;> rw [e] at rest <;> exact rest

theorem readImage_reads {row0 col0 h w : Nat} {fold : Option (BitVec 2)} {va : BitVec 64} :
    Reads s (readImage s p row0 col0 h w fold va).2 := by
  unfold readImage
  split
  · exact .refl s
  split
  · exact .refl s
  have read : Reads s (readBytes s p .exec va (264 * h * w)).2 := readVA_reads _
  split
  · rename_i e
    rw [e] at read
    exact read
  · rename_i e
    rw [e] at read
    dsimp only
    split <;> exact read

end Sys2Proof.Machine

namespace Sys2Proof.Claims

open Sys2Proof.Machine

variable {s t u : State} {α : Type} {g : Tile → α} {p n : Nat}

/-! ### Operations on tiles -/

/-- An operation on tiles and stiles, after which g of every tile is as before. -/
structure TilesOnly (g : Tile → α) (s t : State) : Prop where
  leaves : Leaves g s t
  region : ∀ h k, t.region h k = s.region h k
  fc : ∀ h, t.fc h = s.fc h
  cur : t.cur = s.cur

theorem TilesOnly.refl (g : Tile → α) (s : State) : TilesOnly g s s := ⟨.refl g s, fun _ _ => rfl, fun _ => rfl, rfl⟩

theorem TilesOnly.trans (a : TilesOnly g s t) (b : TilesOnly g t u) : TilesOnly g s u :=
  ⟨a.leaves.trans b.leaves, fun h k => (b.region h k).trans (a.region h k), fun h => (b.fc h).trans (a.fc h),
    b.cur.trans a.cur⟩

theorem TilesOnly.foldl {β : Type} {f : State → β → State} {l : List β} (hf : ∀ t b, TilesOnly g t (f t b)) :
    TilesOnly g s (l.foldl f s) :=
  List.foldlRecOn l f (TilesOnly.refl g s) fun t h b _ => h.trans (hf t b)

/-- A fold that also counts. -/
theorem TilesOnly.foldl_snd {β : Type} {f : Nat × State → β → Nat × State} {l : List β} {a : Nat × State}
    (hf : ∀ a b, TilesOnly g a.2 (f a b).2) : TilesOnly g a.2 (l.foldl f a).2 :=
  List.foldlRecOn (motive := fun c => TilesOnly g a.2 c.2) l f (.refl g a.2) fun c h b _ => h.trans (hf c b)

theorem tilesOnly_setTile {v : Tile} (hv : g v = g (s.tile p n)) : TilesOnly g s (s.setTile p n v) :=
  ⟨leaves_setTile hv, fun _ _ => State.region_setTile .., fun _ => State.fc_setTile .., rfl⟩

theorem tilesOnly_setStiles (g : Tile → α) (s : State) (z : Tbl ChanStile) : TilesOnly g s { s with chStiles := z } :=
  ⟨leaves_setStiles g s z, fun _ _ => rfl, fun _ => rfl, rfl⟩

theorem tilesOnly_onDests {k : Nat} {c : Cfg} {f : Route → Buf → Buf} {z : ChanStile → ChanStile}
    (hg : ∀ tl m b, g (Tile.setBuf tl m b) = g tl) : TilesOnly g s (onDests s p k c n f z) := by
  unfold onDests
  refine .trans (.foldl fun t r => ?_) (.foldl fun t e => tilesOnly_setStiles ..)
  split
  · exact .refl ..
  · exact tilesOnly_setTile (hg ..)

/-- Parked requests given up leave the pending counts (R170). -/
theorem tilesOnly_cancelTile {k : Nat} : TilesOnly Tile.pend s (cancelTile s p k).2 := by
  have dropped (which : Deferred → Bool) : TilesOnly Tile.pend s (dropOut s p k which) := by
    unfold dropOut
    exact .trans (.foldl fun t e => .foldl fun t o => tilesOnly_onDests pend_setBuf) (tilesOnly_setTile rfl)
  unfold cancelTile
  exact (dropped _).trans (tilesOnly_setTile rfl)

/-! ### An image made resident (R131) -/

theorem storeImage_tilesOnly {row0 col0 h w slot : Nat} {img : List (BitVec 64)} :
    TilesOnly (fun _ => ()) s (storeImage s p row0 col0 h w slot img) := .foldl fun _ _ => tilesOnly_setTile rfl

/-- The other slots of every tile are as before. -/
theorem storeImage_otherSlot {row0 col0 h w slot m : Nat} {img : List (BitVec 64)} (ne : m ≠ slot) :
    TilesOnly (fun tl => Tbl.find? tl.cfgs m) s (storeImage s p row0 col0 h w slot img) :=
  .foldl fun _ _ => tilesOnly_setTile (Tbl.find?_set_other ne)

/-- One tile written, in a list of them with their positions. -/
def storeTile (p slot : Nat) (img : List (BitVec 64)) (s : State) (e : Nat × Nat) : State :=
  s.updTile p e.1 fun tl => { tl with cfgs := Tbl.set tl.cfgs slot ((img.drop (33 * e.2)).take 33) }

theorem storeTile_same {slot : Nat} {img : List (BitVec 64)} {e : Nat × Nat} :
    Tbl.find? ((storeTile p slot img s e).tile p e.1).cfgs slot = some ((img.drop (33 * e.2)).take 33) := by
  rw [storeTile, State.updTile, State.tile_setTile_same]
  exact Tbl.find?_set_same

/-- After the tiles of a list are written, each of them holds the part of some entry of its own. -/
theorem foldl_storeTile {slot : Nat} {img : List (BitVec 64)} (l : List (Nat × Nat)) {k : Nat} (mem : ∃ j, (k, j) ∈ l) :
    ∃ j, (k, j) ∈ l ∧
      Tbl.find? ((l.foldl (storeTile p slot img) s).tile p k).cfgs slot = some ((img.drop (33 * j)).take 33) := by
  induction l using List.reverseRecOn with
  | nil => simp at mem
  | append_singleton l e ih =>
    rw [List.foldl_append, List.foldl_cons, List.foldl_nil]
    by_cases here : e.1 = k
    · exact ⟨e.2, by simp [← here], by rw [← here]; exact storeTile_same⟩
    · obtain ⟨j, hj⟩ := mem
      have before : (k, j) ∈ l := by
        rcases List.mem_append.mp hj with h | h
        · exact h
        · exact absurd (congrArg Prod.fst (List.mem_singleton.mp h)).symm here
      obtain ⟨i, hi, stored⟩ := ih ⟨j, before⟩
      refine ⟨i, List.mem_append_left _ hi, ?_⟩
      rw [storeTile, State.updTile, State.tile_setTile_other _ _ _ _ _ (Ne.symm here)]
      exact stored

theorem storeImage_stored {row0 col0 h w slot k : Nat} {img : List (BitVec 64)} (mem : k ∈ rectTiles row0 col0 h w) :
    ∃ j, (rectTiles row0 col0 h w)[j]? = some k ∧
      Tbl.find? ((storeImage s p row0 col0 h w slot img).tile p k).cfgs slot = some ((img.drop (33 * j)).take 33) := by
  obtain ⟨j, hj, stored⟩ := foldl_storeTile (s := s) (p := p) (slot := slot) (img := img)
    (rectTiles row0 col0 h w).zipIdx (k := k) (by
      obtain ⟨i, hi⟩ := List.mem_iff_getElem?.mp mem
      exact ⟨i, List.mem_zipIdx_iff_getElem?.mpr hi⟩)
  exact ⟨j, List.mem_zipIdx_iff_getElem?.mp hj, stored⟩

end Sys2Proof.Claims

namespace Sys2Proof.Claims

open Sys2Proof.Machine

variable {s t u : State} {p q : Nat} {f : SeqF} {id : Nat}

/-! ### An instruction that names a region (R125, R143) -/

theorem fld_zero {w : Nat} (x : BitVec w) (n : Nat) : fld x 0 n = x.toNat % 2 ^ n := by
  simp [fld]

theorem issueWith_of_guardOk {body : State → Out} (h : guardOk s.curCtx f = true) : issueWith f anyone s body = body s := by
  simp [issueWith, anyone, h]

theorem regionIns_of_names {p : Fin 32} {q : Fin 4} (h : Names s p q f id) {body : Nat → Region → State → State} :
    regionIns f s body = .next (body id (s.region p id) s) := by
  have named : fld (s.curCtx.opA f) 0 4 = id := (fld_zero ..).trans h.named
  have own : (!(s.region p id).alloc || (s.region p id).owner != s.cur.q) = false := by
    simp [h.isAlloc, h.owns, h.atQ]
  unfold regionIns
  rw [issueWith_of_guardOk h.passes]
  dsimp only
  rw [named, h.atP, own]
  rfl

theorem refused_of_refuseA {i : Instr} {d : Nat} (h : exec i s = .next (refuseA s f d)) : Refused i s (s.curCtx.rd f.a) d :=
  ⟨_, h, by
    unfold refuseA refuse precise
    exact takeTrap_enters⟩

/-- A trap entered after reading is entered from before. -/
theorem enters_of_reads {epc : BitVec 64} {cause : BitVec 8} {v1 v2 : Option (BitVec 64)} (h : Reads s u)
    (e : Enters u t p q epc cause v1 v2) : Enters s t p q epc cause v1 v2 := by
  obtain ⟨epcIs, causeIs, tvalIs, tval2Is, goes, runs, halts, regs, keeps, others, tile, region, byte⟩ := e
  rw [h.inner.ctx] at goes runs halts regs keeps
  exact {
    epcIs, causeIs, tvalIs, tval2Is, goes, runs, halts, regs, keeps
    others := fun p' q' ne => (others p' q' ne).trans (h.inner.ctx p' q')
    tile := fun p' k => (tile p' k).trans (h.inner.tile p' k)
    region := fun p' k => (region p' k).trans (h.inner.region p' k)
    byte := fun a => (byte a).trans (h.byte false a) }

theorem Reads.curCtx (h : Reads s u) : u.curCtx = s.curCtx := by
  rw [State.curCtx, State.curCtx, h.cur, h.inner.ctx]

/-- A precise trap taken after reading. -/
theorem precise_of_reads {cause : BitVec 8} {v1 v2 : Option (BitVec 64)} (h : Reads s u) :
    Enters s (precise u cause v1 v2) s.cur.p s.cur.q s.curCtx.pc cause v1 v2 := by
  unfold precise
  rw [h.cur, Reads.curCtx h]
  exact enters_of_reads h takeTrap_enters

/-! ### An instruction that completes (R76, R270) -/

theorem finish_ctx {ib tb : Nat} : (finish u p q ib tb fun c => c).ctx p q =
    { ((u.ctx p q).charge ib tb).adv with wait := .ready } := State.ctx_setCtx_same ..

theorem finish_completes {ib tb : Nat} (ctx : u.ctx p q = s.ctx p q) :
    Completes s (finish u p q ib tb fun c => c) p q ib tb ∧ NoWrite s (finish u p q ib tb fun c => c) p q := by
  refine ⟨⟨?_, ?_, ?_, ?_⟩, fun r => ?_⟩ <;> rw [finish_ctx, ctx] <;> rfl

theorem region_setRegion_ne {h k : Nat} {r : Region} (ne : (h, k) ≠ (p, id)) :
    (s.setRegion p id r).region h k = s.region h k := by
  by_cases hp : h = p
  · subst hp
    exact State.region_setRegion_other _ _ _ _ _ fun hk => ne (by rw [hk])
  · exact State.region_setRegion_pad _ _ _ _ _ _ hp

/-! ### CFGL (R131, R146) -/

variable {n : Nat} {r : Region}

theorem any_slot_iff {o : Option (BitVec 2)} (h : n < 4) :
    (o.any fun x => x.toNat == n) = true ↔ o = some (BitVec.ofNat 2 n) := by
  cases o with
  | none => simp
  | some x => simp [BitVec.toNat_eq, Nat.mod_eq_of_lt h]

/-- A slot is active, armed or pending (R131). -/
theorem slotTaken_iff (h : n < 4) :
    (r.act.any (·.toNat == n) || r.spl.any (·.succ.toNat == n) || r.dec.any (·.toNat == n)) = true ↔
      r.act = some (BitVec.ofNat 2 n) ∨ (r.spl.map (·.succ)) = some (BitVec.ofNat 2 n) ∨
        r.dec = some (BitVec.ofNat 2 n) := by
  rw [Bool.or_eq_true, Bool.or_eq_true, any_slot_iff h, any_slot_iff h, ← any_slot_iff (o := r.spl.map (·.succ)) h,
    Option.any_map, or_assoc]

/-- What a region's load leaves (R131). -/
theorem makeResident_loads {slot : Nat} {va : BitVec 64} {img : List (BitVec 64)} (h : Reads s u) :
    let t := makeResident u p id slot va img
    (∀ h k, t.ctx h k = s.ctx h k) ∧ t.cur = s.cur ∧
      (∀ k ∈ (s.region p id).tileList, ∃ j : Nat, (s.region p id).tileList[j]? = some k ∧
        Tbl.find? (t.tile p k).cfgs slot = some ((img.drop (33 * j)).take 33)) ∧
      (∀ k m, m ≠ slot → Tbl.find? (t.tile p k).cfgs m = Tbl.find? (s.tile p k).cfgs m) ∧
      (t.region p id).act = (s.region p id).act ∧ (t.region p id).st = (s.region p id).st ∧ OtherRegions s t p id ∧
      SameBytes s t := by
  unfold makeResident
  rw [h.inner.region]
  dsimp only
  have only := storeImage_tilesOnly (s := u) (p := p) (row0 := (s.region p id).row0) (col0 := (s.region p id).col0)
    (h := (s.region p id).h) (w := (s.region p id).w) (slot := slot) (img := img)
  have region (h' k : Nat) := (only.region h' k).trans (h.inner.region h' k)
  refine ⟨fun h' k => ?_, only.cur.trans h.cur, fun k mem => ?_, fun k m ne => ?_, ?_, ?_, fun h' k ne => ?_, fun g a => ?_⟩
  · rw [State.updRegion, State.ctx_setRegion, only.leaves.fabric.ctx, h.inner.ctx]
  · obtain ⟨j, at_, stored⟩ := storeImage_stored (s := u) (p := p) (slot := slot) (img := img) mem
    exact ⟨j, at_, by rw [State.updRegion, State.tile_setRegion]; exact stored⟩
  · rw [State.updRegion, State.tile_setRegion, (storeImage_otherSlot ne).leaves.tile, h.inner.tile]
  · rw [State.updRegion, State.region_setRegion_same, region]
  · rw [State.updRegion, State.region_setRegion_same, region]
  · rw [State.updRegion, region_setRegion_ne ne, region]
  · exact (only.leaves.fabric.byte g a).trans (h.byte g a)

section Cfgl

variable {p : Fin 32} {q : Fin 4}

/-- How CFGL ends, from what its image read as: the image is loaded, or its fault is taken. -/
def cfglEnds (s : State) (f : SeqF) (p id : Nat) : Except ImgFault (List (BitVec 64)) × State → State
  | (.error e, u) => imgTrap u e
  | (.ok img, u) => finishCur (makeResident u p id (f.imm.toNat % 4) (s.curCtx.rd f.b) img) 16
      (lines64 (264 * (s.region p id).h * (s.region p id).w)) fun c => c

theorem execCfgl_of_names (h : Names s p q f id) : exec (.cfgl f) s = .next
    (if (s.region p id).task.isSome = true then refuseA s f 0x12
    else if ((s.region p id).act.any (·.toNat == f.imm.toNat % 4) ||
        (s.region p id).spl.any (·.succ.toNat == f.imm.toNat % 4) ||
        (s.region p id).dec.any (·.toNat == f.imm.toNat % 4)) = true then refuseA s f 0x11
    else cfglEnds s f p id (readImage s p (s.region p id).row0 (s.region p id).col0 (s.region p id).h (s.region p id).w none
      (s.curCtx.rd f.b))) := by
  show execCfgl f s = _
  unfold execCfgl
  rw [regionIns_of_names h]
  dsimp only
  rw [fld_zero, h.atP]
  rfl

end Cfgl

theorem regionLoad : RegionLoad := by
  intro f s p q id names r n b taken
  have step := execCfgl_of_names names
  rw [if_congr Option.isSome_iff_ne_none rfl (if_congr (slotTaken_iff (Nat.mod_lt _ (by decide))) rfl rfl)] at step
  have reads : Reads s (readImage s p r.row0 r.col0 r.h r.w none b).2 := readImage_reads
  have ends (own : r.task = none) (free : ¬ taken) :
      exec (.cfgl f) s = .next (cfglEnds s f p id (readImage s p r.row0 r.col0 r.h r.w none b)) := by
    rw [step, if_neg (not_not_intro own), if_neg free]
  refine ⟨fun task => ?_, fun own busy => ?_, fun own free img u read => ?_, fun own free c va w u read => ?_,
    fun own free c va u read => ?_⟩
  · exact refused_of_refuseA (step.trans (by rw [if_pos task]))
  · exact refused_of_refuseA (step.trans (by rw [if_neg (not_not_intro own), if_pos busy]))
  · rw [read] at reads
    obtain ⟨ctx, cur, stored, others, act, st, regions, bytes⟩ :=
      makeResident_loads (p := p) (id := id) (slot := n) (va := b) (img := img) reads
    rw [ends own free, read, cfglEnds, finishCur, cur, names.atP, names.atQ]
    obtain ⟨done, kept⟩ := finish_completes (ib := 16) (tb := lines64 (264 * r.h * r.w)) (ctx p q)
    refine ⟨_, rfl, done, kept, fun k mem => ?_, fun k m ne => ?_, ?_, ?_, fun h k ne => ?_, bytes⟩
    · obtain ⟨j, at_, part⟩ := stored k mem
      exact ⟨j, at_, by rw [finish, State.tile_setCtx]; exact part⟩
    · rw [finish, State.tile_setCtx]
      exact others k m ne
    · rw [finish, State.region_setCtx]
      exact act
    · rw [finish, State.region_setCtx]
      exact st
    · rw [finish, State.region_setCtx]
      exact regions h k ne
  · rw [read] at reads
    rw [ends own free, read, ← names.atP, ← names.atQ]
    exact ⟨_, rfl, precise_of_reads (u := u) (cause := c) (v1 := some va) (v2 := some w) reads⟩
  · rw [read] at reads
    rw [ends own free, read, ← names.atP, ← names.atQ]
    exact ⟨_, rfl, precise_of_reads (u := u) (cause := c) (v1 := some va) (v2 := some 0) reads⟩

end Sys2Proof.Claims

namespace Sys2Proof.Claims

open Sys2Proof.Machine

variable {s t u : State} {p q : Nat} {f : SeqF} {id n : Nat} {r : Region}

/-! ### CFGA issues (R145) -/

theorem onlyCtx_setCtx {c : Ctx} : OnlyCtx s (s.setCtx p q c) p q where
  ctx _ _ ne := ctx_setCtx_ne ne
  tile _ _ := State.tile_setCtx ..
  region _ _ := State.region_setCtx ..
  task _ _ := State.task_setCtx ..
  chain _ _ := State.chain_setCtx ..
  byte _ _ := rfl
  parts := rfl
  now := rfl

theorem pollCost_cfga : pollCost s p q (seqPack 0x63 f) = (1, 0) := by
  simp [pollCost]

/-- CFGA that waits is charged 1 unit. -/
theorem pollFor_cfga {p : Fin 32} {q : Fin 4} {stage : Nat} (atP : s.cur.p = p) (atQ : s.cur.q = q) : pollFor s 0x63 f stage =
    s.setCtx p q (({ s.ctx p q with wait := .poll (seqPack 0x63 f) stage } : Ctx).charge 1 0) := by
  unfold pollFor State.reissue
  rw [State.setCurCtx, State.curCtx, atP, atQ, State.ctx_setCtx_same]
  dsimp only
  rw [pollCost_cfga, State.updCtx, State.ctx_setCtx_same, State.setCtx_setCtx]

theorem pollFor_cfga_polls {p : Fin 32} {q : Fin 4} {stage : Nat} (atP : u.cur.p = p) (atQ : u.cur.q = q)
    (ctx : u.ctx p q = s.ctx p q) :
    Polls s (pollFor u 0x63 f stage) p q 0x63 f stage 1 0 ∧ NoWrite s (pollFor u 0x63 f stage) p q := by
  rw [pollFor_cfga atP atQ, ctx]
  refine ⟨⟨?_, ?_, ?_, ?_⟩, fun r => ?_⟩ <;> rw [State.ctx_setCtx_same] <;> rfl

/-- What CFGA does as it issues, splice, slot and drain apart. -/
theorem execCfga_of_names {p : Fin 32} {q : Fin 4} (h : Names s p q f id) :
    ((s.region p id).task ≠ none → exec (.cfga f) s = .next (refuseA s f 0x12)) ∧
    (∀ sp, (s.region p id).task = none → (s.region p id).spl = some sp → exec (.cfga f) s = .next
      (if sp.succ.toNat ≠ f.imm.toNat % 4 then refuseA s f 0x15 else pollFor s 0x63 f 1)) ∧
    ((s.region p id).task = none → (s.region p id).spl = none → exec (.cfga f) s = .next
      (if (s.region p id).dec.any (·.toNat != f.imm.toNat % 4) = true then refuseA s f 0x15
      else if (!slotLoaded s p (s.region p id) (f.imm.toNat % 4)) = true then refuseA s f 0x13
      else if (!f.imm.getLsbD 2) = true then
        if (s.region p id).st = .trapped then refuseA s f 0x19 else pollFor s 0x63 f 0
      else if (!(s.region p id).saved && !f.imm.getLsbD 3) = true then refuseA s f 0x16
      else pollFor (s.updRegion p id fun r => { r with st := .frozen }) 0x63 f 0)) := by
  refine ⟨fun task => ?_, fun sp own armed => ?_, fun own plain => ?_⟩
  all_goals
    show execCfga f s = _
    unfold execCfga
    rw [regionIns_of_names h]
    dsimp only
  · rw [if_pos (Option.isSome_iff_ne_none.mpr task)]
  · rw [fld_zero, if_neg (by simp [own]), armed]
    rfl
  · rw [fld_zero, if_neg (by simp [own]), plain, h.atP]
    rfl

theorem any_otherSlot_iff {o : Option (BitVec 2)} :
    (o.any fun x => x.toNat != n) = true ↔ ∃ d, o = some d ∧ d.toNat ≠ n := by
  cases o <;> simp

theorem not_not_eq_true {b : Bool} (h : b = true) : ¬ (!b) = true := by
  simp [h]

theorem not_eq_true_of_false {b : Bool} (h : b = false) : (!b) = true := by
  simp [h]

end Sys2Proof.Claims

namespace Sys2Proof.Machine

variable {s t u : State} {p q : Nat} {f : SeqF} {id n : Nat} {r : Region} {c : Ctx}

/-! ### Drained and settled (R132, R139) -/

theorem foldl_add_eq_zero_iff {α : Type} {g : α → Nat} {l : List α} {m : Nat} :
    l.foldl (fun n e => n + g e) m = 0 ↔ m = 0 ∧ ∀ e ∈ l, g e = 0 := by
  induction l generalizing m with
  | nil => simp
  | cons e l ih =>
    rw [List.foldl_cons, ih, Nat.add_eq_zero_iff, and_assoc, List.forall_mem_cons]

theorem tokensHeld_eq_zero_iff : tokensHeld s p r = 0 ↔ ∀ k ∈ r.tileList, ∀ e ∈ (s.tile p k).bufs, e.2.toks = [] := by
  simp [tokensHeld, Tile.tokens, foldl_add_eq_zero_iff]

theorem Tile.working_eq_false_iff {tl : Tile} {fc : Nat} : tl.working fc = false ↔ tl.reqs = [] ∧ tl.outq = [] ∧
    (tl.mx.away = none → tl.mx.pass = none ∧ tl.mx.drain = none) ∧ tl.mx.last ≠ some fc := by
  simp only [Tile.working, Matrix.works, Bool.or_eq_false_iff, Bool.not_eq_false', List.isEmpty_iff, Bool.and_eq_false_iff,
    Option.isNone_eq_false_iff, Option.isSome_eq_false_iff, Option.isNone_iff_eq_none, beq_eq_false_iff_ne, ne_eq]
  cases tl.mx.away <;> simp <;> tauto

theorem engineWorks_eq_false_iff : engineWorks s p id = false ↔
    ∀ e ∈ (s.pad p).chains, (e.2.st ≠ .detached ∧ e.2.st ≠ .halted ∧ e.2.st ≠ .stopped) →
      ∀ a ∈ e.2.announced, (a.2 = .region id ∨ ∃ k, (s.region p id).task = some k ∧ a.2 = .task k (s.task p k).ser) →
        a.1.toNat ≤ e.2.done.toNat := by
  unfold engineWorks
  simp only [List.any_eq_false]
  refine forall₂_congr fun e _ => ?_
  rw [Bool.and_eq_true, not_and]
  refine imp_congr (by cases e.2.st <;> simp) ?_
  rw [List.any_eq_true]
  push Not
  refine forall₂_congr fun a _ => ?_
  rw [Ne, Bool.and_eq_true, not_and, Bool.or_eq_true, beq_iff_eq, Option.any_eq_true]
  simp

theorem crossing_eq_false_iff : crossing s p r = false ↔
    ∀ e ∈ s.chStiles, e.2.sp = p → inRect r.row0 r.col0 r.h r.w e.2.st = true → e.2.flight = [] := by
  simp [crossing, List.any_eq_false]

theorem messaging_eq_false_iff : messaging s p id = false ↔ ∀ m ∈ (s.pad p).msgs, m.rid ≠ some id := by
  simp [messaging, List.any_eq_false]

theorem Tile.pendZero_iff {tl : Tile} : tl.pendZero = true ↔ ∀ e ∈ tl.pend, e.2 = 0 := by
  simp [Tile.pendZero]

theorem opsInProgress_eq_false_iff : opsInProgress s p id r = false ↔
    (∀ k ∈ r.tileList, (s.tile p k).reqs = [] ∧ (s.tile p k).outq = [] ∧ Claims.NoMatrixWork s p k) ∧
    engineWorks s p id = false ∧ crossing s p r = false := by
  rw [opsInProgress, Bool.or_eq_false_iff, Bool.or_eq_false_iff, List.any_eq_false, and_assoc]
  refine and_congr (forall₂_congr fun k _ => ?_) Iff.rfl
  rw [Bool.not_eq_true, Tile.working_eq_false_iff]
  rfl

theorem drained_iff : drained s p id r = true ↔ Claims.Drained s p id r := by
  have pends : (r.tileList.all fun t => (s.tile p t).pendZero) = true ↔
      ∀ k ∈ r.tileList, ∀ e ∈ (s.tile p k).pend, e.2 = 0 := by
    simp only [List.all_eq_true, Tile.pendZero_iff]
  rw [drained, drainedBut, Bool.and_eq_true, Bool.and_eq_true, Bool.and_eq_true, Bool.and_eq_true, Option.isNone_iff_eq_none,
    beq_iff_eq, Bool.not_eq_true', Bool.not_eq_true', tokensHeld_eq_zero_iff, opsInProgress_eq_false_iff,
    engineWorks_eq_false_iff, crossing_eq_false_iff, messaging_eq_false_iff, pends]
  unfold Claims.Drained Claims.OpsDone
  constructor
  · rintro ⟨⟨recover, ⟨toks, tiles, chains, stiles⟩, msgs⟩, pend⟩
    exact ⟨recover, ⟨tiles, chains, stiles, msgs⟩, fun k mem => ⟨toks k mem, pend k mem⟩⟩
  · rintro ⟨recover, ⟨tiles, chains, stiles, msgs⟩, held⟩
    exact ⟨⟨recover, ⟨fun k mem => (held k mem).1, tiles, chains, stiles⟩, msgs⟩, fun k mem => (held k mem).2⟩

/-! ### What a context is no part of -/

theorem pad_setCtx : (s.setCtx p q c).pad p = (s.pad p).setCtx q c := State.pad_setPad_same ..

theorem gate_setCtx {h : Nat} : ((s.setCtx p q c).pad h).gate = (s.pad h).gate := by
  by_cases hp : h = p
  · subst hp
    rw [pad_setCtx]
    rfl
  · rw [State.setCtx, State.pad_setPad_other _ _ _ _ hp]

theorem drained_setCtx : drained (s.setCtx p q c) p id r = drained s p id r := by
  simp only [drained, drainedBut, tokensHeld, opsInProgress, engineWorks, crossing, messaging, State.tile, State.region,
    State.task, State.fc, pad_setCtx]
  rfl

theorem outSpace_setCtx {k : Nat} {d : Cfg} : outSpace (s.setCtx p q c) p k d n = outSpace s p k d n := by
  unfold outSpace
  simp only [routeSpace, State.tile_setCtx, gate_setCtx]
  rfl

theorem pacedReady_setCtx {k : Nat} {d : Cfg} (l : List Deferred) (b : BitVec 4) :
    pacedReady (s.setCtx p q c) p k d l b = pacedReady s p k d l b := by
  induction l generalizing b with
  | nil => rfl
  | cons e l ih =>
    unfold pacedReady
    simp only [outSpace_setCtx, ih]

theorem firOf_setCtx {k : Nat} : firOf (s.setCtx p q c) p k = firOf s p k := by
  have pad : (({ s.setCtx p q c with cur := { p := p, t := k } } : State).pad p) = (s.pad p).setCtx q c := pad_setCtx
  unfold firOf State.fir
  dsimp only
  rw [pad]
  rfl

theorem reqSettled_setCtx {tl : Tile} {x : Req} : reqSettled (s.setCtx p q c) p tl x = reqSettled s p tl x := by
  unfold reqSettled msgWaits
  simp only [State.fc, pad_setCtx]
  rfl

theorem settled_setCtx : settled (s.setCtx p q c) p r = settled s p r := by
  have cfg (k : Nat) : ((s.setCtx p q c).pad p).cfgAt k = (s.pad p).cfgAt k := by
    rw [pad_setCtx]
    rfl
  unfold settled workSettled
  simp only [State.tile_setCtx, firOf_setCtx, pacedReady_setCtx, cfg]
  have reqs (tl : Tile) : (fun x => reqSettled (s.setCtx p q c) p tl x) = fun x => reqSettled s p tl x :=
    funext fun _ => reqSettled_setCtx
  simp only [reqs]

end Sys2Proof.Machine

namespace Sys2Proof.Claims

open Sys2Proof.Machine

variable {s t u v w : State} {p q : Nat} {f : SeqF} {id n : Nat} {slot : BitVec 2}

/-! ### Requests cancelled, tokens discarded (R64, R145, R170) -/

/-- The rectangle of a region. -/
def rectOf (r : Region) : Nat × Nat × Nat × Nat := (r.row0, r.col0, r.h, r.w)

theorem tileList_of_rect {r r' : Region} (h : rectOf r' = rectOf r) : r'.tileList = r.tileList := by
  obtain ⟨row0, col0, hh, ww⟩ : r'.row0 = r.row0 ∧ r'.col0 = r.col0 ∧ r'.h = r.h ∧ r'.w = r.w := by
    simpa [rectOf] using h
  rw [Region.tileList, Region.tileList, row0, col0, hh, ww]

/-- An operation on a region: of the fabric alone, no other region, the rectangle kept. -/
structure RegionOnly (s t : State) (p id : Nat) : Prop where
  fabric : FabricOnly s t
  others : OtherRegions s t p id
  rect : rectOf (t.region p id) = rectOf (s.region p id)
  fc : ∀ h, t.fc h = s.fc h

theorem RegionOnly.refl (s : State) (p id : Nat) : RegionOnly s s p id := ⟨.refl s, fun _ _ _ => rfl, rfl, fun _ => rfl⟩

theorem RegionOnly.trans (a : RegionOnly s t p id) (b : RegionOnly t u p id) : RegionOnly s u p id :=
  ⟨a.fabric.trans b.fabric, fun h k ne => (b.others h k ne).trans (a.others h k ne), b.rect.trans a.rect,
    fun h => (b.fc h).trans (a.fc h)⟩

theorem TilesOnly.regionOnly {α : Type} {g : Tile → α} (h : TilesOnly g s t) : RegionOnly s t p id :=
  ⟨h.leaves.fabric, fun h' k _ => h.region h' k, by rw [h.region], h.fc⟩

theorem regionOnly_updRegion {g : Region → Region} (h : rectOf (g (s.region p id)) = rectOf (s.region p id)) :
    RegionOnly s (s.updRegion p id g) p id where
  fabric := fabricOnly_setRegion ..
  others _ _ ne := region_setRegion_ne ne
  rect := by rw [State.updRegion, State.region_setRegion_same, h]
  fc h' := by
    by_cases hp : h' = p
    · subst hp
      rw [State.updRegion, State.setRegion, State.fc, State.pad_setPad_same]
      rfl
    · rw [State.updRegion, State.setRegion, State.fc, State.pad_setPad_other _ _ _ _ hp]
      rfl

/-- The parked requests of a list of tiles cancelled, and counted. -/
def cancelTiles (p : Nat) (l : List Nat) (s : State) : Nat × State :=
  l.foldl (fun a t => (a.1 + (cancelTile a.2 p t).1, (cancelTile a.2 p t).2)) (0, s)

theorem cancelTiles_tilesOnly {l : List Nat} : TilesOnly Tile.pend s (cancelTiles p l s).2 :=
  .foldl_snd (a := (0, s)) fun _ _ => tilesOnly_cancelTile

theorem cancelRegion_eq : cancelRegion s p id = (cancelTiles p (s.region p id).tileList s).2.updRegion p id fun r =>
    { r with drop := r.drop + (cancelTiles p (s.region p id).tileList s).1 } := rfl

theorem cancelRegion_regionOnly : RegionOnly s (cancelRegion s p id) p id := by
  rw [cancelRegion_eq]
  exact cancelTiles_tilesOnly.regionOnly.trans (regionOnly_updRegion rfl)

theorem cancelRegion_pend (k : Nat) : ((cancelRegion s p id).tile p k).pend = (s.tile p k).pend := by
  rw [cancelRegion_eq, State.updRegion, State.tile_setRegion]
  exact cancelTiles_tilesOnly.leaves.tile p k

/-- The tokens of a list of tiles discarded, with their pending counts, and counted. -/
def emptyTiles (p : Nat) (l : List Nat) (a : Nat × State) : Nat × State :=
  l.foldl
    (fun a t => (a.1 + (a.2.tile p t).emptied.1 + (a.2.tile p t).emptied.2.pend.foldl (fun x e => x + e.2.toNat) 0,
      a.2.setTile p t { (a.2.tile p t).emptied.2 with pend := [] })) a

theorem emptyTiles_tilesOnly {l : List Nat} {a : Nat × State} : TilesOnly (fun _ => ()) a.2 (emptyTiles p l a).2 :=
  .foldl_snd (a := a) fun _ _ => tilesOnly_setTile rfl

theorem discardAll_eq : discardAll s p id true =
    (emptyTiles p (s.region p id).tileList (cancelTiles p (s.region p id).tileList s)).2.updRegion p id fun r =>
      { r with drop := r.drop + (emptyTiles p (s.region p id).tileList (cancelTiles p (s.region p id).tileList s)).1 } := rfl

theorem discardAll_regionOnly : RegionOnly s (discardAll s p id true) p id := by
  rw [discardAll_eq]
  exact cancelTiles_tilesOnly.regionOnly.trans (emptyTiles_tilesOnly.regionOnly.trans (regionOnly_updRegion rfl))

theorem foldl_fixed {α β : Type} {g : α → β → α} {a : α} {l : List β} (h : ∀ b ∈ l, g a b = a) :
    l.foldl g a = a := by
  induction l with
  | nil => rfl
  | cons b l ih =>
    rw [List.foldl_cons, h b List.mem_cons_self]
    exact ih fun c hc => h c (List.mem_cons_of_mem _ hc)

theorem get_of_all_default {α : Type} {d : α} {l : Tbl α} (h : ∀ e ∈ l, e.2 = d) (k : Nat) : Tbl.get d l k = d := by
  induction l with
  | nil => rfl
  | cons e l ih =>
    unfold Tbl.get
    split
    · exact h e List.mem_cons_self
    · exact ih fun c hc => h c (List.mem_cons_of_mem _ hc)

/-- No flush token leaves a region whose pending counts are zero (R64). -/
theorem flushAll_of_zero (h : ∀ k ∈ (s.region p id).tileList, ∀ e ∈ (s.tile p k).pend, e.2 = 0) : flushAll s p id = s :=
  foldl_fixed fun k mem => foldl_fixed fun o _ => if_neg fun due => due.1 (get_of_all_default (h k mem) o)

/-! ### The activation of a slot (R134) -/

theorem dropReplay_tilesOnly {r : Region} : TilesOnly (fun _ => ()) s (dropReplay s p r) :=
  .foldl fun _ _ => tilesOnly_setTile rfl

/-- A tile activated with what its slot holds. -/
def activateAt (p : Nat) (slot : BitVec 2) (full : Bool) (s : State) (t : Nat) : State :=
  s.setTile p t (activateTile (s.tile p t) ((Tbl.find? (s.tile p t).cfgs slot.toNat).getD []) full)

theorem foldl_activateAt {full : Bool} {l : List Nat} {k : Nat} (mem : k ∈ l) :
    ∃ x c, (l.foldl (activateAt p slot full) s).tile p k = activateTile x c full := by
  induction l using List.reverseRecOn with
  | nil => simp at mem
  | append_singleton l e ih =>
    rw [List.foldl_append, List.foldl_cons, List.foldl_nil, activateAt]
    by_cases here : e = k
    · subst here
      exact ⟨_, _, State.tile_setTile_same ..⟩
    · rw [State.tile_setTile_other _ _ _ _ _ (Ne.symm here)]
      refine ih ?_
      rcases List.mem_append.mp mem with h | h
      · exact h
      · exact absurd (List.mem_singleton.mp h).symm here

/-- The tiles of a region activated. -/
def activateTiles (s : State) (p id : Nat) (slot : BitVec 2) (full : Bool) : State :=
  (s.region p id).tileList.foldl (activateAt p slot full) (dropReplay s p (s.region p id))

theorem activateTiles_tilesOnly {full : Bool} : TilesOnly (fun _ => ()) s (activateTiles s p id slot full) :=
  dropReplay_tilesOnly.trans (.foldl fun _ _ => tilesOnly_setTile rfl)

theorem activateRegion_eq {full : Bool} : activateRegion s p id slot full =
    (activateTiles s p id slot full).updRegion p id fun r => { r with
      act := some slot, st := .running, saved := false, dec := none, spl := none, trap := none, later := none, recover := none,
      quiet := 0, freezeAt := none, owesSave := false, committed := false, replayed := false,
      runFrom := (activateTiles s p id slot full).fc p + 1 } := rfl

theorem activateRegion_regionOnly {full : Bool} : RegionOnly s (activateRegion s p id slot full) p id := by
  rw [activateRegion_eq]
  exact activateTiles_tilesOnly.regionOnly.trans (regionOnly_updRegion rfl)

theorem activateRegion_tile {full : Bool} {k : Nat} (mem : k ∈ (s.region p id).tileList) :
    ∃ x c, (activateRegion s p id slot full).tile p k = activateTile x c full := by
  rw [activateRegion_eq, State.updRegion, State.tile_setRegion]
  exact foldl_activateAt mem

theorem activateRegion_region {full : Bool} :
    let r := (activateRegion s p id slot full).region p id
    r.act = some slot ∧ r.st = .running ∧ r.saved = false ∧ r.dec = none ∧ r.spl = none ∧ r.runFrom = s.fc p + 1 := by
  rw [activateRegion_eq, State.updRegion, State.region_setRegion_same, activateTiles_tilesOnly.fc]
  exact ⟨rfl, rfl, rfl, rfl, rfl, rfl⟩

theorem activateRegion_activated (h : RegionOnly s u p id) :
    Activated s (activateRegion u p id (BitVec.ofNat 2 n) true) p id n true := by
  obtain ⟨act, st, saved, dec, spl, runFrom⟩ := activateRegion_region (s := u) (p := p) (id := id) (slot := BitVec.ofNat 2 n)
    (full := true)
  refine ⟨act, st, saved, dec, spl, runFrom.trans (congrArg (· + 1) (h.fc p)), (h.trans activateRegion_regionOnly).rect,
    fun k mem => ?_⟩
  rw [← tileList_of_rect h.rect] at mem
  obtain ⟨x, c, e⟩ := activateRegion_tile (slot := BitVec.ofNat 2 n) (full := true) mem
  rw [e]
  exact ⟨rfl, rfl, rfl, rfl, rfl, rfl, fun _ _ => ⟨rfl, rfl, rfl, rfl⟩, nofun⟩

/-! ### CFGA_ACTIVATE (R134, R145) -/

/-- The state in which a waiting CFGA is judged again: its charge is taken back. -/
def judged (s : State) (p q : Nat) : State :=
  s.setCtx p q { s.ctx p q with ibud := (s.ctx p q).ibud + 1 }

theorem unissue_cfga {stage : Nat} (h : (s.ctx p q).wait = .poll (seqPack 0x63 f) stage) : s.unissue p q = judged s p q := by
  unfold State.unissue
  rw [h]
  dsimp only
  rw [pollCost_cfga]
  simp [State.updCtx, judged]

theorem reissue_of_ready (h : (s.ctx p q).wait = .ready) : s.reissue p q = s := by
  unfold State.reissue
  rw [h]

/-- CFGA completes with its slot activated. -/
def activates (s : State) (p q id : Nat) (f : SeqF) : State :=
  finish (activateRegion s p id (BitVec.ofNat 2 (f.imm.toNat % 4)) true) p q 1 0 fun c => c

/-- A waiting CFGA without FORCE is judged by its drain; one under FORCE by its work, and by its flush tokens where they are
kept. -/
theorem tryCfga_eq (named : regionId s p q f = id) : tryCfga s p q f 0 =
    if f.imm.getLsbD 2 = true then
      if settled s p (s.region p id) = true then
        if f.imm.getLsbD 3 = true then some (activates (discardAll s p id true) p q id f)
        else
          let u := flushAll (cancelRegion s p id) p id
          some (if pendsZero u p (s.region p id) = true then activates u p q id f else u)
      else none
    else if drained s p id (s.region p id) = true then some (activates s p q id f) else none := by
  unfold tryCfga
  rw [named, fld_zero]
  cases f.imm.getLsbD 2 <;> rfl

theorem PollsOn.tries {p : Fin 32} {q : Fin 4} (h : PollsOn s p q 0x63 f 0 id) : exec (.cfgaActivate p q) s =
    .next ((tryCfga (judged s p q) p q f 0).elim s fun t => t.reissue p q) := by
  have polls : pollOf s p q 0x63 = some (f, 0) := by
    unfold pollOf
    rw [h.waits]
    simp
  show execCfgaActivate p q s = _
  unfold execCfgaActivate retry
  rw [polls, unissue_cfga h.waits]
  dsimp only
  cases tryCfga (judged s p q) p q f 0 <;> rfl

theorem judged_regionId {p : Fin 32} {q : Fin 4} (h : PollsOn s p q 0x63 f 0 id) : regionId (judged s p q) p q f = id := by
  unfold regionId judged
  rw [State.ctx_setCtx_same, fld_zero]
  exact h.named

theorem judged_region {h k : Nat} : (judged s p q).region h k = s.region h k := State.region_setCtx ..

theorem judged_tile {h k : Nat} : (judged s p q).tile h k = s.tile h k := State.tile_setCtx ..

theorem judged_fc {h : Nat} : (judged s p q).fc h = s.fc h := by
  by_cases hp : h = p
  · subst hp
    rw [State.fc, judged, pad_setCtx]
    rfl
  · rw [State.fc, judged, State.setCtx, State.pad_setPad_other _ _ _ _ hp]
    rfl

/-- What an activation leaves, after operations on the region alone. -/
theorem activates_completes (h : RegionOnly (judged s p q) u p id) :
    let t := (activates u p q id f).reissue p q
    Completes s t p q 0 0 ∧ NoWrite s t p q ∧ Activated s t p id (f.imm.toNat % 4) true ∧ SameBytes s t ∧
      OtherRegions s t p id := by
  have only := h.trans (activateRegion_regionOnly (slot := BitVec.ofNat 2 (f.imm.toNat % 4)) (full := true))
  have ctx : (activates u p q id f).ctx p q =
      { (({ s.ctx p q with ibud := (s.ctx p q).ibud + 1 } : Ctx).charge 1 0).adv with wait := .ready } := by
    rw [activates, finish_ctx, only.fabric.ctx, judged, State.ctx_setCtx_same]
  rw [reissue_of_ready (by rw [ctx])]
  refine ⟨⟨?_, ?_, ?_, ?_⟩, fun r => ?_, ?_, fun g a => only.fabric.byte g a, fun h' k ne => ?_⟩
  · rw [ctx]
    rfl
  · rw [ctx]
    simp [Ctx.adv, Ctx.charge]
  · rw [ctx]
    rfl
  · rw [ctx]
  · rw [ctx]
    rfl
  · have activated := activateRegion_activated (n := f.imm.toNat % 4) h
    unfold Activated at activated ⊢
    rw [judged_region, judged_fc] at activated
    simp only [judged_tile] at activated
    rw [activates, finish, State.region_setCtx]
    simp only [State.tile_setCtx]
    exact activated
  · rw [activates, finish, State.region_setCtx]
    exact (only.others h' k ne).trans judged_region

section Tries

variable {p : Fin 32} {q : Fin 4} (h : PollsOn s p q 0x63 f 0 id)

include h

/-- CFGA without FORCE waits for its region to drain (R132). -/
theorem tryCfga_drains (plain : f.imm.getLsbD 2 = false) :
    (Drained s p id (s.region p id) →
      tryCfga (judged s p q) p q f 0 = some (activates (judged s p q) p q id f)) ∧
    (¬ Drained s p id (s.region p id) → tryCfga (judged s p q) p q f 0 = none) := by
  have drains : drained (judged s p q) p id (s.region p id) = true ↔ Drained s p id (s.region p id) := by
    rw [judged, drained_setCtx, drained_iff]
  rw [tryCfga_eq (judged_regionId h), judged_region, plain, if_neg (by decide)]
  exact ⟨fun ready => if_pos (drains.mpr ready), fun no => if_neg (mt drains.mp no)⟩

/-- CFGA under FORCE waits for the work of its region to settle, and where its tokens are kept for its flush tokens (R64,
R139). -/
theorem tryCfga_forced (forced : f.imm.getLsbD 2 = true) :
    (settled s p (s.region p id) = true →
      (f.imm.getLsbD 3 = true ∨ ∀ k ∈ (s.region p id).tileList, ∀ e ∈ (s.tile p k).pend, e.2 = 0) →
      ∃ u, RegionOnly (judged s p q) u p id ∧ tryCfga (judged s p q) p q f 0 = some (activates u p q id f)) ∧
    (¬ settled s p (s.region p id) = true → tryCfga (judged s p q) p q f 0 = none) := by
  have same : settled (judged s p q) p (s.region p id) = settled s p (s.region p id) := settled_setCtx
  rw [tryCfga_eq (judged_regionId h), judged_region, if_pos forced, same]
  refine ⟨fun ready flushed => ?_, fun no => if_neg no⟩
  rw [if_pos ready]
  by_cases disc : f.imm.getLsbD 3 = true
  · exact ⟨_, discardAll_regionOnly, if_pos disc⟩
  · have cancelled := cancelRegion_regionOnly (s := judged s p q) (p := p) (id := id)
    have zero : ∀ k ∈ (s.region p id).tileList, ∀ e ∈ ((cancelRegion (judged s p q) p id).tile p k).pend, e.2 = 0 := by
      intro k mem
      rw [cancelRegion_pend, judged_tile]
      exact flushed.resolve_left disc k mem
    have tiles : ((cancelRegion (judged s p q) p id).region p id).tileList = (s.region p id).tileList := by
      rw [tileList_of_rect cancelled.rect, judged_region]
    have unflushed : flushAll (cancelRegion (judged s p q) p id) p id = cancelRegion (judged s p q) p id :=
      flushAll_of_zero (by rwa [tiles])
    refine ⟨_, cancelled, ?_⟩
    rw [if_neg disc]
    dsimp only
    rw [unflushed, if_pos]
    simpa only [pendsZero, List.all_eq_true, Tile.pendZero_iff] using zero

end Tries

theorem regionActivate : RegionActivate := by
  refine ⟨fun f s p q id names => ?_, fun f s p q id waits => ?_⟩
  rotate_left
  · intro r force ready flushed
    by_cases forced : f.imm.getLsbD 2 = true
    · obtain ⟨completes, waitsOn⟩ := tryCfga_forced waits forced
      have ready_iff : ready ↔ settled s p r = true := iff_of_eq (if_pos forced)
      refine ⟨fun isReady isFlushed => ?_, fun no => ?_⟩
      · have tokens := isFlushed.resolve_left (ne_of_eq_of_ne forced (by decide))
        obtain ⟨u, only, tries⟩ := completes (ready_iff.mp isReady) tokens
        exact ⟨_, waits.tries.trans (by rw [tries]; rfl), activates_completes only⟩
      · rw [waits.tries, waitsOn (mt ready_iff.mpr no)]
        rfl
    · obtain ⟨completes, waitsOn⟩ := tryCfga_drains waits (by simpa using forced)
      have ready_iff : ready ↔ Drained s p id r := iff_of_eq (if_neg forced)
      refine ⟨fun isReady _ => ⟨_, waits.tries.trans (by rw [completes (ready_iff.mp isReady)]; rfl),
        activates_completes (.refl ..)⟩, fun no => ?_⟩
      rw [waits.tries, waitsOn (mt ready_iff.mpr no)]
      rfl
  intro r n a force disc free
  obtain ⟨ofTask, ofSplice, ofPlain⟩ := execCfga_of_names names
  have onlyWaits (stage : Nat) : OnlyWaits s (pollFor s 0x63 f stage) p q 0x63 f stage := by
    obtain ⟨polls, kept⟩ := pollFor_cfga_polls (s := s) (f := f) (stage := stage) names.atP names.atQ rfl
    refine ⟨polls, ?_, kept⟩
    rw [pollFor_cfga names.atP names.atQ]
    exact onlyCtx_setCtx
  have ofFree (h : free) := (ofPlain h.1 h.2.1).trans (by
    rw [if_neg (fun other => (any_otherSlot_iff.mp other).elim fun d hd => hd.2 (h.2.2 d hd.1))])
  refine ⟨fun task => refused_of_refuseA (ofTask task), fun own h => ?_, fun h empty => ?_, fun h loaded plain st => ?_,
    fun h loaded forced saved keep => ?_, fun h loaded plain st => ?_, fun h loaded forced may => ?_,
    fun sp own armed same => ?_⟩
  · rcases h with ⟨sp, armed, other⟩ | ⟨plain, other⟩
    · exact refused_of_refuseA ((ofSplice sp own armed).trans (by rw [if_pos other]))
    · exact refused_of_refuseA ((ofPlain own plain).trans (by rw [if_pos (any_otherSlot_iff.mpr other)]))
  · exact refused_of_refuseA ((ofFree h).trans (by rw [if_pos (not_eq_true_of_false empty)]))
  · exact refused_of_refuseA ((ofFree h).trans (by
      rw [if_neg (not_not_eq_true loaded), if_pos (not_eq_true_of_false plain), if_pos st]))
  · refine refused_of_refuseA ((ofFree h).trans ?_)
    rw [if_neg (not_not_eq_true loaded), if_neg (not_not_eq_true forced), if_pos]
    exact Bool.and_eq_true_iff.mpr ⟨not_eq_true_of_false saved, not_eq_true_of_false keep⟩
  · exact ⟨_, (ofFree h).trans (by
      rw [if_neg (not_not_eq_true loaded), if_pos (not_eq_true_of_false plain), if_neg st]), onlyWaits 0⟩
  · have ready : ¬ (!r.saved && !disc) = true := fun no => by
      obtain ⟨unsaved, kept⟩ := Bool.and_eq_true_iff.mp no
      exact may.elim (not_not_eq_true · unsaved) (not_not_eq_true · kept)
    refine ⟨_, (ofFree h).trans (by
      rw [if_neg (not_not_eq_true loaded), if_neg (not_not_eq_true forced), if_neg ready]), ?_⟩
    obtain ⟨polls, kept⟩ := pollFor_cfga_polls (s := s)
      (u := s.updRegion p id fun r => { r with st := .frozen }) (f := f) (stage := 0) names.atP names.atQ (State.ctx_setRegion ..)
    have frozen := pollFor_cfga (s := s.updRegion p id fun r => { r with st := .frozen }) (f := f) (stage := 0) names.atP
      names.atQ
    refine ⟨polls, ?_, fun h k ne => ?_, kept, fun g x => ?_⟩ <;> rw [frozen]
    · rw [State.region_setCtx, State.updRegion, State.region_setRegion_same]
    · rw [State.region_setCtx, State.updRegion, region_setRegion_ne ne]
    · rfl
  · exact ⟨_, (ofSplice sp own armed).trans (by rw [if_neg (not_not_intro same)]), onlyWaits 1⟩

end Sys2Proof.Claims

namespace Sys2Proof

/-- Settles O18: what CFGL reads, CFGA issues and CFGA_ACTIVATE judges, then the tiles and the region that each writes. -/
theorem regionLoadAndActivation : Obligations.RegionLoadAndActivation := by
  unfold Obligations.RegionLoadAndActivation
  exact ⟨Claims.regionLoad, Claims.regionActivate⟩

end Sys2Proof

end

/-! ## Firings (O28)

A firing writes its own tile once, then sends, dequeues and is charged. `TokensOnly` says once what the sending and the
dequeuing leave, so each part of the statement is read off the tile that was written. -/

section

namespace Sys2Proof.Machine

variable {s : State} {p k : Nat}

/-- A field of every paddock that an update of one paddock leaves. -/
theorem State.setPad_keeps {α : Type} (g : Paddock → α) {y : Paddock} (h : g y = g (s.pad p)) (q : Nat) :
    g ((s.setPad p y).pad q) = g (s.pad q) := by
  by_cases e : q = p
  · subst e
    rw [State.pad_setPad_same, h]
  · rw [State.pad_setPad_other _ _ _ _ e]

theorem tile_setTile_ne {v : Tile} {h u : Nat} (ne : (h, u) ≠ (p, k)) : (s.setTile p k v).tile h u = s.tile h u := by
  by_cases e : h = p
  · subst e
    exact State.tile_setTile_other _ _ _ _ _ fun same => ne (by rw [same])
  · exact State.tile_setTile_pad _ _ _ _ _ _ e

/-! ### A bit set, and predicates updated (Table 3-4) -/

theorem getLsbD_setBit {w m n : Nat} (x : BitVec w) (b : Bool) (h : n < w) :
    (setBit x m b).getLsbD n = if n = m then b else x.getLsbD n := by
  have single : (BitVec.ofNat w (2 ^ m)).getLsbD n = decide (n = m) := by
    rw [BitVec.getLsbD_ofNat, Nat.testBit_two_pow]
    simp [h, eq_comm]
  unfold setBit
  split
  · rw [BitVec.getLsbD_or, single]
    by_cases e : n = m <;> simp [*]
  · rw [BitVec.getLsbD_and, BitVec.getLsbD_not, single]
    by_cases e : n = m <;> simp_all

/-- PU acts on p[PD] alone, as the statement's table has it. -/
theorem getLsbD_puApply (old : BitVec 8) (f : FabF) (nonzero flag : Bool) {n : Nat} (h : n < 8) :
    (puApply old f.pu f.pd nonzero flag).getLsbD n = Claims.predAfter old f nonzero flag n := by
  have code (c : BitVec 3) : f.pu = c ↔ f.pu.toNat = c.toNat := BitVec.toNat_inj.symm
  unfold puApply Claims.predAfter
  split
  case h_7 n1 n2 n3 n4 n5 n6 =>
    simp only [code, BitVec.reduceToNat, if_neg n1, if_neg n2, if_neg n3, if_neg n4, if_neg n5, if_neg n6, ite_self]
  all_goals
    rename_i e
    rw [getLsbD_setBit _ _ h]
    split <;> simp [*]

/-! ### DST written (R101) -/

/-- DST is among the locals and vector locals: nothing else of the tile is written. -/
theorem writeDst_frame (tl : Tile) (d : BitVec 4) (r : Option (BitVec 32)) (v : Option (BitVec 512)) :
    ∃ l w, writeDst tl d r v = { tl with loc := l, vec := w } := by
  unfold writeDst
  dsimp only
  split
  · split
    · exact ⟨_, _, rfl⟩
    · exact ⟨_, _, rfl⟩
  split
  · split
    · exact ⟨_, _, rfl⟩
    · split
      · exact ⟨_, _, rfl⟩
      · exact ⟨_, _, rfl⟩
  · exact ⟨_, _, rfl⟩

theorem lc_writeDst (tl : Tile) (d : BitVec 4) (r : Option (BitVec 32)) (v : Option (BitVec 512)) (n : Nat) :
    (writeDst tl d r v).lc n = if n < 8 ∧ d.toNat = n then r.getD (tl.lc n) else tl.lc n := by
  unfold writeDst
  dsimp only
  by_cases low : d.toNat < 8
  · rw [if_pos low]
    by_cases e : n = d.toNat
    · subst e
      cases r <;> simp [Tile.lc, low]
    · cases r <;> simp [Tile.lc, e, Ne.symm e]
  · rw [if_neg low, if_neg (by omega : ¬(n < 8 ∧ d.toNat = n))]
    split
    · cases v <;> cases r <;> rfl
    · rfl

/-- A vector local takes the 512 bits, or the 32 zero-extended where there are no more. -/
theorem vc_writeDst (tl : Tile) (d : BitVec 4) (r : Option (BitVec 32)) (v : Option (BitVec 512)) (n : Nat) :
    (writeDst tl d r v).vc n =
      if n < 4 ∧ d.toNat = 8 + n then v.getD ((r.map (·.setWidth 512)).getD (tl.vc n)) else tl.vc n := by
  unfold writeDst
  dsimp only
  by_cases vector : 8 ≤ d.toNat ∧ d.toNat < 12
  · rw [if_neg (by omega), if_pos vector.2]
    by_cases e : n = d.toNat - 8
    · rw [if_pos (by omega)]
      subst e
      cases v <;> cases r <;> simp [Tile.vc]
    · rw [if_neg (by omega)]
      cases v <;> cases r <;> simp [Tile.vc, e]
  · rw [if_neg (by omega : ¬(n < 4 ∧ d.toNat = 8 + n))]
    split
    · cases r <;> rfl
    · rw [if_neg (by omega)]

/-! ### The marks of a firing (R62, R95) -/

/-- Marks are the round-robin pointer and POS alone. -/
theorem fireMarks_frame (f : FabF) (x : Fir) (formed : Bool) (tl : Tile) :
    ∃ m l, fireMarks f x formed tl = { tl with rrPtr := m, pos := l } := by
  unfold fireMarks
  dsimp only
  split
  · split
    · exact ⟨_, _, rfl⟩
    · exact ⟨_, _, rfl⟩
  · split
    · exact ⟨_, _, rfl⟩
    · exact ⟨_, _, rfl⟩

theorem pos_fireMarks (f : FabF) (x : Fir) (formed : Bool) (tl : Tile) (n : Nat) :
    Tbl.get 0 (fireMarks f x formed tl).pos n =
      if n = x.slot ∧ formed = true then Tbl.get 0 tl.pos n + 1 else Tbl.get 0 tl.pos n := by
  have pointed : (if f.rr then { tl with rrPtr := x.cfg.rrNext x.slot } else tl).pos = tl.pos := by
    split <;> rfl
  unfold fireMarks
  dsimp only
  cases formed
  · simp [pointed]
  · rw [if_pos rfl]
    by_cases e : n = x.slot
    · subst e
      simp [bumpPos, pointed]
    · simp [bumpPos, pointed, e]

/-! ### The tile that fires -/

/-- The acting tile once DST, predicates, flags and marks are written. -/
def firedTile (f : FabF) (e : Effect) (x : Fir) : Tile :=
  let tl := writeDst x.tl f.dst e.res e.vres
  fireMarks f x e.formed
    { tl with flags := tl.flags ||| e.flags, preds := puApply tl.preds f.pu f.pd e.nonzero e.flag }

section Fired

variable (f : FabF) (e : Effect) (x : Fir)

theorem firedTile_frame : ∃ l w m c, firedTile f e x =
    { x.tl with loc := l, vec := w, rrPtr := m, pos := c, flags := x.tl.flags ||| e.flags,
                preds := puApply x.tl.preds f.pu f.pd e.nonzero e.flag } := by
  obtain ⟨l, w, written⟩ := writeDst_frame x.tl f.dst e.res e.vres
  unfold firedTile
  rw [written]
  obtain ⟨m, c, marked⟩ := fireMarks_frame f x e.formed _
  exact ⟨l, w, m, c, marked⟩

theorem firedTile_lc (n : Nat) : (firedTile f e x).lc n =
    if n < 8 ∧ f.dst.toNat = n then e.res.getD (x.tl.lc n) else x.tl.lc n := by
  rw [← lc_writeDst x.tl f.dst e.res e.vres n]
  unfold firedTile
  obtain ⟨m, c, marked⟩ := fireMarks_frame f x e.formed _
  rw [marked]
  rfl

theorem firedTile_vc (n : Nat) : (firedTile f e x).vc n =
    if n < 4 ∧ f.dst.toNat = 8 + n then e.vres.getD ((e.res.map (·.setWidth 512)).getD (x.tl.vc n))
    else x.tl.vc n := by
  rw [← vc_writeDst x.tl f.dst e.res e.vres n]
  unfold firedTile
  obtain ⟨m, c, marked⟩ := fireMarks_frame f x e.formed _
  rw [marked]
  rfl

theorem firedTile_pos (n : Nat) : Tbl.get 0 (firedTile f e x).pos n =
    if n = x.slot ∧ e.formed = true then Tbl.get 0 x.tl.pos n + 1 else Tbl.get 0 x.tl.pos n := by
  obtain ⟨l, w, written⟩ := writeDst_frame x.tl f.dst e.res e.vres
  unfold firedTile
  rw [pos_fireMarks, written]

end Fired

/-! ### What sending, dequeuing and activity leave (R64, R65, R295) -/

/-- What a tile keeps that only sends, receives or dequeues tokens: the fields of `TileKeeps`. -/
def Tile.kept (tl : Tile) :=
  ((tl.preds, tl.loc, tl.vec, tl.flags, tl.pos, tl.rc, tl.cfgs, tl.halt), (tl.mx, tl.sp, tl.et, tl.reqs))

/-- What decides and receives a charge of a region. -/
def Region.account (r : Region) : Bool × List Charge := (r.alloc, r.charges)

/-- An operation on tokens: of the fabric alone, what tiles keep and the regions' charges as before. -/
structure TokensOnly (s t : State) : Prop where
  leaves : Claims.Leaves Tile.kept s t
  account : ∀ h r, (t.region h r).account = (s.region h r).account
  fc : ∀ h, t.fc h = s.fc h

theorem tileKeeps_iff {a b : Tile} : Claims.TileKeeps a b ↔ b.kept = a.kept := Prod.mk_inj.symm

variable {t u : State} {n : Nat}

theorem TokensOnly.refl (s : State) : TokensOnly s s := ⟨.refl .., fun _ _ => rfl, fun _ => rfl⟩

theorem TokensOnly.trans (a : TokensOnly s t) (b : TokensOnly t u) : TokensOnly s u :=
  ⟨a.leaves.trans b.leaves, fun h r => (b.account h r).trans (a.account h r), fun h => (b.fc h).trans (a.fc h)⟩

theorem TokensOnly.foldl {β : Type} {f : State → β → State} {l : List β} (hf : ∀ t b, TokensOnly t (f t b)) :
    TokensOnly s (l.foldl f s) :=
  List.foldlRecOn l f (.refl s) fun t h b _ => h.trans (hf t b)

theorem tokensOnly_of_tilesOnly (h : Claims.TilesOnly Tile.kept s t) : TokensOnly s t :=
  ⟨h.leaves, fun p r => by rw [h.region], h.fc⟩

theorem tokensOnly_setTile {v : Tile} (h : v.kept = (s.tile p k).kept) : TokensOnly s (s.setTile p k v) :=
  tokensOnly_of_tilesOnly (Claims.tilesOnly_setTile h)

theorem tokensOnly_setRegion {r : Region} (h : r.account = (s.region p n).account) :
    TokensOnly s (s.setRegion p n r) where
  leaves := Claims.leaves_setRegion ..
  account q m := by
    by_cases e : q = p ∧ m = n
    · obtain ⟨rfl, rfl⟩ := e
      rw [State.region_setRegion_same, h]
    · rw [Claims.region_setRegion_ne fun same => e (Prod.mk.inj same)]
  fc := State.setPad_keeps Paddock.fc rfl

theorem tokensOnly_onDests {c : Cfg} {f : Route → Buf → Buf} {z : ChanStile → ChanStile} :
    TokensOnly s (onDests s p k c n f z) := tokensOnly_of_tilesOnly (Claims.tilesOnly_onDests fun _ _ _ => rfl)

theorem tokensOnly_commitEpoch : TokensOnly s (commitEpoch s p n) := by
  unfold commitEpoch
  dsimp only
  split
  · exact tokensOnly_setRegion rfl
  · exact .refl s

theorem tokensOnly_commitStile : TokensOnly s (commitStile s p k n) := by
  unfold commitStile
  split
  · exact tokensOnly_commitEpoch
  · exact .refl s

theorem tokensOnly_markBusy : TokensOnly s (markBusy s p n) := by
  unfold markBusy
  dsimp only
  split
  · exact tokensOnly_setRegion rfl
  · exact .refl s

theorem tokensOnly_placeOut {c : Cfg} {held : Bool} {skip : BitVec 6} {d : Tok} :
    TokensOnly s (placeOut s p k c n held skip d) := by
  unfold placeOut
  exact tokensOnly_commitStile.trans tokensOnly_onDests

theorem kept_noteEosOut (tl : Tile) (r : Region) (n : Nat) (d : Tok) : (noteEosOut tl r n d).kept = tl.kept := by
  unfold noteEosOut
  split
  · rfl
  · split <;> rfl

theorem tokensOnly_emitOut {held : Bool} {d : Tok} : TokensOnly s (emitOut s p k n held d) := by
  unfold emitOut
  extract_lets x c r tl stoch _ cnt tagged s1 s2
  have counted : TokensOnly s s1 := tokensOnly_setTile rfl
  have sent : TokensOnly s s2 := tokensOnly_setTile (kept_noteEosOut ..)
  split
  · split
    · split
      · exact counted.trans tokensOnly_onDests
      · exact counted
    · exact sent.trans tokensOnly_placeOut
  · exact (tokensOnly_setTile (kept_noteEosOut ..)).trans tokensOnly_placeOut

theorem tokensOnly_sendOut {d : Tok} : TokensOnly s (sendOut s p k n d) := by
  unfold sendOut
  dsimp only
  split
  · exact tokensOnly_onDests.trans (tokensOnly_setTile rfl)
  · exact tokensOnly_emitOut

theorem tokensOnly_deqIn : TokensOnly s (deqIn s p k n).2 := by
  unfold deqIn
  dsimp only
  split
  · exact .refl s
  split
  · exact tokensOnly_setTile rfl
  split
  · split
    · exact tokensOnly_setTile rfl
    · exact tokensOnly_setTile rfl
  · exact tokensOnly_setTile rfl

theorem tokensOnly_deqMask {dq : BitVec 4} : TokensOnly s (deqMask s p k dq).2 :=
  List.foldlRecOn (motive := fun a : Nat × State => TokensOnly s a.2) _ _ (.refl s) fun _ h _ _ =>
    h.trans tokensOnly_deqIn

/-- Progress marks retired are a count of the paddock. -/
theorem tokensOnly_retire : TokensOnly s (s.updPad p fun y => { y with prg := y.prg + n }) := by
  have part {α : Type} (g : Paddock → α) (h : ∀ y m, g { y with prg := m } = g y) :=
    State.setPad_keeps g (h (s.pad p) ((s.pad p).prg + n))
  refine ⟨⟨⟨?_, ?_, ?_, rfl, fun _ _ => rfl⟩, ?_⟩, ?_, part Paddock.fc fun _ _ => rfl⟩
  · exact fun h q => part (Paddock.ctx · q) (fun _ _ => rfl) h
  · exact fun h q => part (Paddock.task · q) (fun _ _ => rfl) h
  · exact fun h q => part (Paddock.chain · q) (fun _ _ => rfl) h
  · exact fun h q => congrArg Tile.kept (part (Paddock.tile · q) (fun _ _ => rfl) h)
  · exact fun h q => congrArg Region.account (part (Paddock.region · q) (fun _ _ => rfl) h)

/-! ### The charge of a region (R267) -/

variable {ib tb : Nat}

theorem leaves_chargeRegion {α : Type} (g : Tile → α) : Claims.Leaves g s (chargeRegion s p n ib tb) := by
  unfold chargeRegion
  dsimp only
  split
  · exact Claims.leaves_setRegion ..
  · exact .refl ..

theorem charges_chargeRegion (alloc : (s.region p n).alloc = true) (owed : ib ≠ 0 ∨ tb ≠ 0) :
    ((chargeRegion s p n ib tb).region p n).charges = addCharge (s.fc p) ib tb (s.region p n).charges := by
  unfold chargeRegion
  dsimp only
  rw [if_pos (by simpa [alloc] using owed), State.region_setRegion_same]

/-! ### A firing, stage by stage (R99) -/

/-- The acting tile is written, tokens move, the region is charged and is busy. -/
theorem applyEffect_stages (f : FabF) (e : Effect) (s : State) :
    ∃ u, TokensOnly (s.setTile s.fir.p s.fir.t (firedTile f e s.fir)) u ∧
      TokensOnly (chargeRegion u s.fir.p s.fir.rid e.ib e.tb) (applyEffect f e s) := by
  unfold applyEffect
  extract_lets x tl1 tl2 s1 s2
  have sent : TokensOnly s1 s2 := .foldl fun _ _ => tokensOnly_sendOut
  have dequeued : TokensOnly s2 (if e.deqok then deqMask s2 x.p x.t f.dq else (0, s2)).2 := by
    split
    · exact tokensOnly_deqMask
    · exact .refl _
  generalize (if e.deqok then deqMask s2 x.p x.t f.dq else (0, s2)) = a at dequeued ⊢
  refine ⟨_, (sent.trans dequeued).trans ?_, tokensOnly_markBusy⟩
  split
  · exact .refl _
  · exact tokensOnly_retire

theorem applyEffect_kept (f : FabF) (e : Effect) (s : State) (h k : Nat) : ((applyEffect f e s).tile h k).kept =
    ((s.setTile s.fir.p s.fir.t (firedTile f e s.fir)).tile h k).kept := by
  obtain ⟨u, moved, rest⟩ := applyEffect_stages f e s
  rw [rest.leaves.tile, (leaves_chargeRegion Tile.kept).tile, moved.leaves.tile]

theorem applyEffect_fabric (f : FabF) (e : Effect) (s : State) : Claims.FabricOnly s (applyEffect f e s) := by
  obtain ⟨u, moved, rest⟩ := applyEffect_stages f e s
  exact (((Claims.fabricOnly_setTile ..).trans moved.leaves.fabric).trans
    (leaves_chargeRegion Tile.kept).fabric).trans rest.leaves.fabric

theorem applyEffect_charges (f : FabF) (e : Effect) (s : State) (alloc : (s.region s.fir.p s.fir.rid).alloc = true)
    (owed : e.ib ≠ 0 ∨ e.tb ≠ 0) : ((applyEffect f e s).region s.fir.p s.fir.rid).charges =
      addCharge (s.fc s.fir.p) e.ib e.tb (s.region s.fir.p s.fir.rid).charges := by
  obtain ⟨u, moved, rest⟩ := applyEffect_stages f e s
  obtain ⟨alloc', charges⟩ := Prod.mk.inj (moved.account s.fir.p s.fir.rid)
  rw [State.region_setTile] at alloc' charges
  rw [(Prod.mk.inj (rest.account ..)).2, charges_chargeRegion (alloc'.trans alloc) owed, charges, moved.fc,
    State.fc_setTile]

end Sys2Proof.Machine

end

namespace Sys2Proof

open Machine

/-- Settles O28: the tile is read off the one that the firing writes, which keeps what was written while its tokens
move; a charge finds the region's adder as it was. -/
theorem firingEffect : Obligations.FiringEffect := by
  unfold Obligations.FiringEffect
  intro f e s x t a b
  have own : b.kept = (firedTile f e x).kept := by
    rw [applyEffect_kept, State.tile_setTile_same]
  obtain ⟨l, w, m, c, frame⟩ := firedTile_frame f e x
  simp only [Tile.kept, Prod.mk.injEq] at own
  obtain ⟨⟨preds, loc, vec, flags, pos, rc, cfgs, halt⟩, mx, sp, et, reqs⟩ := own
  refine ⟨fun n => ?_, fun n => ?_, fun n low => ?_, ?_, fun n => ?_, ?_, fun h k ne => ?_, ?_, ?_⟩
  · rw [Tile.lc, loc]
    exact firedTile_lc f e x n
  · rw [Tile.vc, vec]
    exact firedTile_vc f e x n
  · rw [preds, frame]
    exact getLsbD_puApply _ f e.nonzero e.flag low
  · rw [flags, frame]
    rfl
  · rw [pos]
    exact firedTile_pos f e x n
  · rw [mx, sp, et, reqs, cfgs, rc, halt, frame]
    rfl
  · rw [tileKeeps_iff, applyEffect_kept, tile_setTile_ne ne]
  · exact applyEffect_charges f e s
  · exact applyEffect_fabric f e s

end Sys2Proof

/-! ## The state after reset (O59) -/

section

namespace Sys2Proof.Claims

open Sys2Proof.Machine

/-- SSTAT of a context that has no privilege and handles no trap. -/
theorem sstat_empty (p q : Nat) : ({} : Ctx).sstat p q = BitVec.ofNat 64 (p * 256 + q * 16) := by
  simp [Ctx.sstat]

theorem haltr_empty : ({} : Ctx).haltr = 0 := by decide

theorem eccmode_empty : eccmode {} = BitVec.ofNat 64 (26 * 256) := by decide

theorem rgnmap_empty : rgnmap {} = BitVec.ofNat 64 (144 * 65536) := by decide +kernel

/-- After reset each CSR of the list reads as the list has it: no table lists a paddock or a context then. -/
theorem csrRead_reset (p q : Nat) : ∀ e ∈ resetCsrs p q, csrRead State.reset p q e.1 = some (BitVec.ofNat 64 e.2) := by
  simp only [resetCsrs, List.forall_mem_cons, List.not_mem_nil, false_imp_iff, implies_true, and_true]
  exact ⟨congrArg some (sstat_empty p q), rfl, rfl, rfl, rfl, rfl, rfl, rfl, rfl, rfl, rfl, rfl, rfl, rfl,
    congrArg some haltr_empty, rfl, rfl, rfl, rfl, rfl, rfl, rfl, congrArg some eccmode_empty, rfl,
    congrArg some rgnmap_empty⟩

end Sys2Proof.Claims

namespace Sys2Proof

open Machine Claims

/-- Settles O59: nothing is listed after reset, so every part has the value of its definition. -/
theorem resetState : Obligations.ResetState := by
  unfold Obligations.ResetState
  refine ⟨State.memWf_reset, fun p q => ⟨csrRead_reset p q, rfl, fun r => ?_⟩,
    fun _ _ => ⟨rfl, rfl⟩, fun _ => rfl, fun host a => ?_, rfl, rfl, rfl, rfl, rfl, rfl, rfl⟩
  · by_cases h : r = 0
    · exact if_pos h
    · exact if_neg h
  · cases host <;> rfl

end Sys2Proof

end

/-! ## Scalar instructions and branches (O1, O3)

Every one-cycle scalar instruction is `seqWrite` of its table's value (`exec_scalarRow`), every compare `seqPred`
(`exec_predRow`), every slow form `seqSlow` (`exec_slowRow`), every branch `branchTo` its target (`exec_branchRow`). -/

section

namespace Sys2Proof.Machine

variable {f : SeqF} {s : State} {c : Ctx}

/-! ### A context written and read again -/

@[simp] theorem State.curCtx_setCurCtx : (s.setCurCtx c).curCtx = c := State.ctx_setCtx_same ..

theorem Ctx.rd_wr (d e : BitVec 5) (v : BitVec 64) :
    (c.wr d v).rd e = if e = 0 then 0 else if e = d then v else c.rd e := by
  by_cases zero : e = 0
  · rw [if_pos zero, zero, Ctx.rd_zero]
  · rw [if_neg zero]
    by_cases same : e = d
    · rw [if_pos same, same, Ctx.rd_wr_same _ _ _ (same ▸ zero)]
    · rw [if_neg same, Ctx.rd_wr_other _ _ _ _ same]

/-- A register that is written reads as the value, s0 as zero. -/
theorem Ctx.rd_wr_self (d : BitVec 5) (v : BitVec 64) : (c.wr d v).rd d = if d = 0 then 0 else v := by
  rw [Ctx.rd_wr, if_pos rfl]

theorem Ctx.charge_one : c.charge 1 0 = { c with ibud := c.ibud - 1 } := by
  simp [Ctx.charge]

theorem Ctx.pr_setPr {m n : Nat} {b : Bool} (h : n < 8) : (c.setPr m b).pr n = if n = m then b else c.pr n :=
  getLsbD_setBit c.preds b h

theorem Ctx.pr_setPr_other {m n : Nat} {b : Bool} (ne : n ≠ m) : (c.setPr m b).pr n = c.pr n := by
  by_cases h : n < 8
  · rw [Ctx.pr_setPr h, if_neg ne]
  · rw [Ctx.pr, Ctx.pr, BitVec.getLsbD_of_ge _ _ (by omega), BitVec.getLsbD_of_ge _ _ (by omega)]

/-! ### Values (Tables 5-4 and 5-5) -/

variable {a b : BitVec 64} {i : BitVec 32} {n : Nat}

theorem shl64_eq : shl64 a b = BitVec.ofNat 64 (a.toNat * 2 ^ (b.toNat % 64)) := by
  apply BitVec.eq_of_toNat_eq
  simp [shl64, Nat.shiftLeft_eq]

theorem shr64_eq : shr64 a b = BitVec.ofNat 64 (a.toNat / 2 ^ (b.toNat % 64)) := by
  apply BitVec.eq_of_toNat_eq
  have small : a.toNat / 2 ^ (b.toNat % 64) < 2 ^ 64 := Nat.lt_of_le_of_lt (Nat.div_le_self ..) a.isLt
  rw [shr64, BitVec.toNat_ushiftRight, Nat.shiftRight_eq_div_pow, BitVec.toNat_ofNat, Nat.mod_eq_of_lt small]

theorem sra64_eq : sra64 a b = BitVec.ofInt 64 (a.toInt / 2 ^ (b.toNat % 64)) := by
  rw [sra64, BitVec.sshiftRight, Int.shiftRight_eq_div_pow]
  norm_cast

theorem smin_eq : smin a b = BitVec.ofInt 64 (min a.toInt b.toInt) := by
  unfold smin
  simp only [BitVec.slt_iff_toInt_lt]
  split
  · rw [min_eq_right (by omega), BitVec.ofInt_toInt]
  · rw [min_eq_left (by omega), BitVec.ofInt_toInt]

theorem smax_eq : smax a b = BitVec.ofInt 64 (max a.toInt b.toInt) := by
  unfold smax
  simp only [BitVec.slt_iff_toInt_lt]
  split
  · rw [max_eq_right (by omega), BitVec.ofInt_toInt]
  · rw [max_eq_left (by omega), BitVec.ofInt_toInt]

theorem umin_eq : umin a b = BitVec.ofNat 64 (min a.toNat b.toNat) := by
  unfold umin
  simp only [BitVec.ult_iff_lt, BitVec.lt_def]
  split
  · rw [min_eq_right (by omega), BitVec.ofNat_toNat, BitVec.setWidth_eq]
  · rw [min_eq_left (by omega), BitVec.ofNat_toNat, BitVec.setWidth_eq]

theorem umax_eq : umax a b = BitVec.ofNat 64 (max a.toNat b.toNat) := by
  unfold umax
  simp only [BitVec.ult_iff_lt, BitVec.lt_def]
  split
  · rw [max_eq_right (by omega), BitVec.ofNat_toNat, BitVec.setWidth_eq]
  · rw [max_eq_left (by omega), BitVec.ofNat_toNat, BitVec.setWidth_eq]

theorem clz_eq : clz a = if a = 0 then 64 else 63 - Nat.log2 a.toNat := by
  unfold clz
  refine ite_agree ⟨fun h => BitVec.eq_of_toNat_eq h, fun h => by rw [h]; rfl⟩ (fun _ => rfl) fun _ => rfl

/-- A count kept in a fold is the number of the entries that count. -/
theorem foldl_count {α : Type} (p : α → Bool) (l : List α) (m : Nat) :
    l.foldl (fun n i => n + (p i).toNat) m = m + (l.filter p).length := by
  induction l generalizing m with
  | nil => rfl
  | cons x l ih =>
    rw [List.foldl_cons, ih]
    cases h : p x <;> simp [h, Nat.add_assoc, Nat.add_comm 1]

theorem popc_eq : popc a = ((List.range 64).filter fun n => a.getLsbD n).length :=
  (foldl_count ..).trans (Nat.zero_add _)

/-- Shift amounts of an immediate are its low bits. -/
theorem immW_mod : (immW i).toNat % 64 = i.toNat % 64 := by
  rw [immW, BitVec.toNat_signExtend, BitVec.toNat_setWidth]
  split <;> omega

theorem toInt_immW : (immW i).toInt = i.toInt := BitVec.toInt_signExtend_of_le (by decide)

theorem immW_eq : immW i = BitVec.ofInt 64 i.toInt := by
  rw [← toInt_immW, BitVec.ofInt_toInt]

theorem add_immW : a + immW i = BitVec.ofInt 64 (a.toNat + i.toInt) := by
  rw [BitVec.ofInt_add, ← immW_eq, BitVec.ofInt_natCast, BitVec.ofNat_toNat, BitVec.setWidth_eq]

theorem movhi64_eq : movhi64 a i = BitVec.ofNat 64 (i.toNat * 2 ^ 32 + a.toNat % 2 ^ 32) := by
  apply BitVec.eq_of_toNat_eq
  have low : a.toNat % 2 ^ 32 < 2 ^ 32 := Nat.mod_lt _ (by decide)
  have high := i.isLt
  rw [movhi64, BitVec.toNat_append, BitVec.extractLsb'_toNat, Nat.shiftRight_zero, BitVec.toNat_ofNat,
    ← Nat.shiftLeft_add_eq_or_of_lt low, Nat.shiftLeft_eq, Nat.mod_eq_of_lt (b := 2 ^ 64) (by omega)]

theorem mul_eq : a * b = BitVec.ofNat 64 (a.toNat * b.toNat) := by
  apply BitVec.eq_of_toNat_eq
  simp

theorem divu64_eq : divu64 a b = if b = 0 then BitVec.ofNat 64 (2 ^ 64 - 1) else BitVec.ofNat 64 (a.toNat / b.toNat) := by
  unfold divu64
  refine ite_agree .rfl (fun _ => rfl) fun _ => ?_
  rw [← BitVec.toNat_udiv, BitVec.ofNat_toNat, BitVec.setWidth_eq]

theorem remu64_eq : remu64 a b = if b = 0 then a else BitVec.ofNat 64 (a.toNat % b.toNat) := by
  unfold remu64
  refine ite_agree .rfl (fun _ => rfl) fun _ => ?_
  rw [← BitVec.toNat_umod, BitVec.ofNat_toNat, BitVec.setWidth_eq]

/-! ### What each instruction is (Tables 5-4 to 5-6) -/

variable {i : Instr}

/-- A scalar meaning is that of its value. -/
theorem seqWrite_congr {v w : Ctx → BitVec 64} (h : ∀ c, v c = w c) : seqWrite f s v = seqWrite f s w :=
  congrArg (seqWrite f s) (funext h)

/-- A one-cycle scalar instruction writes the value of its row. -/
theorem exec_scalarRow {v : BitVec 64 → BitVec 64 → BitVec 8 → BitVec 64 → BitVec 64}
    (h : Claims.scalarRow i = some (f, v)) :
    exec i s = seqWrite f s fun c => v (c.rd f.a) (c.rd f.b) c.preds c.tags := by
  unfold Claims.scalarRow at h
  split at h <;> cases h
  case h_1 | h_2 | h_3 | h_4 | h_5 | h_16 | h_17 | h_18 | h_22 | h_24 => rfl
  case h_6 => exact (seqWrite_congr fun _ => shl64_eq : execSeqShl f s = _)
  case h_7 => exact (seqWrite_congr fun _ => shr64_eq : execSeqShr f s = _)
  case h_8 => exact (seqWrite_congr fun _ => sra64_eq : execSeqSra f s = _)
  case h_9 => exact (seqWrite_congr fun _ => smin_eq : execSeqMin f s = _)
  case h_10 => exact (seqWrite_congr fun _ => smax_eq : execSeqMax f s = _)
  case h_11 => exact (seqWrite_congr fun _ => umin_eq : execSeqMinu f s = _)
  case h_12 => exact (seqWrite_congr fun _ => umax_eq : execSeqMaxu f s = _)
  case h_13 => exact (seqWrite_congr fun _ => congrArg _ clz_eq : execSeqClz f s = _)
  case h_14 => exact (seqWrite_congr fun _ => congrArg _ popc_eq : execSeqPopc f s = _)
  case h_15 => exact (seqWrite_congr fun _ => add_immW : execAddi f s = _)
  case h_19 => exact (seqWrite_congr fun _ => by rw [shl64_eq, immW_mod] : execShli f s = _)
  case h_20 => exact (seqWrite_congr fun _ => by rw [shr64_eq, immW_mod] : execShri f s = _)
  case h_21 => exact (seqWrite_congr fun _ => by rw [sra64_eq, immW_mod] : execSrai f s = _)
  case h_23 => exact (seqWrite_congr fun _ => movhi64_eq : execMovhi f s = _)

/-- An instruction that occupies its context ends in the value and the fc of its row. -/
theorem exec_slowRow {n : Nat} {v : BitVec 64 → BitVec 64 → BitVec 64} (h : Claims.slowRow i = some (f, n, v)) :
    exec i s = seqSlow f s n fun c => v (c.rd f.a) (c.rd f.b) := by
  have slow_congr {m : Nat} {v w : Ctx → BitVec 64} (h : ∀ c, v c = w c) : seqSlow f s m v = seqSlow f s m w :=
    congrArg (seqSlow f s m) (funext h)
  unfold Claims.slowRow at h
  split at h <;> cases h
  case h_1 => exact (slow_congr fun _ => mul_eq : execSeqMul f s = _)
  case h_2 | h_3 => rfl
  case h_4 => exact (slow_congr fun _ => divu64_eq : execDivu f s = _)
  case h_5 => exact (slow_congr fun _ => remu64_eq : execRemu f s = _)

/-- A compare or predicate instruction writes the predicate of its row. -/
theorem exec_predRow {v : BitVec 64 → BitVec 64 → BitVec 8 → Bool} (h : Claims.predRow i = some (f, v)) :
    exec i s = seqPred f s fun c => v (c.rd f.a) (c.rd f.b) c.preds := by
  have pred_congr {v w : Ctx → Bool} (h : ∀ c, v c = w c) : seqPred f s v = seqPred f s w :=
    congrArg (seqPred f s) (funext h)
  unfold Claims.predRow at h
  split at h <;> cases h
  case h_2 => exact (pred_congr fun _ => decide_not.symm : execSeqCne f s = _)
  case h_8 => exact (pred_congr fun _ => by rw [BitVec.slt, toInt_immW] : execClti f s = _)
  all_goals rfl

/-- The predicate that these instructions write is one of the eight. -/
theorem predRow_lt {v : BitVec 64 → BitVec 64 → BitVec 8 → Bool} (h : Claims.predRow i = some (f, v))
    (wf : i.wf = true) : f.d.toNat < 8 := by
  have dest {o : BitVec 8} {u : SeqUse} (wf : seqWf o f = true) (used : seqUse o = some u) (pred : u.d = .pred) :
      f.d.toNat < 8 := by
    unfold seqWf at wf
    rw [used] at wf
    simp only [pred, RegUse.ok, Bool.and_eq_true, decide_eq_true_eq] at wf
    tauto
  unfold Instr.wf at wf
  unfold Claims.predRow at h
  split at h <;> cases h <;> exact dest wf rfl rfl

/-- What a branch does beside going to its target: CALL writes its link. -/
def linked (i : Instr) (pc : BitVec 64) (c : Ctx) : Ctx :=
  match Claims.linkReg i with
  | some d => c.wr d (pc + 8)
  | none => c

theorem branch_eq {c : Ctx} : c.branch f = BitVec.ofInt 64 (c.pc.toNat + 8 * f.imm.toInt) := by
  have shift : immW f.imm <<< 3 = BitVec.ofInt 64 (8 * f.imm.toInt) := by
    rw [BitVec.shiftLeft_eq_mul_twoPow, immW_eq, Int.mul_comm, BitVec.ofInt_mul]
    rfl
  rw [Ctx.branch, shift, BitVec.ofInt_add, BitVec.ofInt_natCast, BitVec.ofNat_toNat, BitVec.setWidth_eq]

/-- A branch goes to the target of its row. -/
theorem exec_branchRow {g : BitVec 64 → BitVec 64 → BitVec 64} (h : Claims.branchRow i = some (f, g)) :
    exec i s = issueWith f anyone s fun s => branchTo s (g s.curCtx.pc (s.curCtx.rd f.a)) (linked i s.curCtx.pc) := by
  unfold Claims.branchRow at h
  split at h <;> cases h
  case h_1 => exact (congrArg (issueWith f anyone s) (funext fun _ => by rw [branch_eq]) : execBr f s = _)
  case h_2 => exact (congrArg (issueWith f anyone s) (funext fun _ => by rw [branch_eq]) : execCall f s = _)
  case h_3 => exact (congrArg (issueWith f anyone s) (funext fun _ => by rw [Ctx.addr, add_immW]) : execJmp f s = _)
  case h_4 => rfl

end Sys2Proof.Machine

namespace Sys2Proof.Claims

open Sys2Proof.Machine

variable {s t : State} {c d : Ctx} {f : SeqF} {p q : Nat} {reg : BitVec 5 → Prop} {pred : Nat → Prop}

/-! ### What an instruction keeps of its context -/

/-- PC, IBUD and the wait state are no part of what is kept. -/
theorem keepsCtx_issued {pc ib : BitVec 64} {w : Wait} : KeepsCtx c { c with pc := pc, ibud := ib, wait := w } reg pred where
  regs _ _ := rfl
  preds _ _ := rfl
  tags := rfl
  special := rfl
  mode := rfl
  tbud := rfl
  reports := rfl

theorem KeepsCtx.refl (c : Ctx) : KeepsCtx c c reg pred := keepsCtx_issued

theorem KeepsCtx.wr {r : BitVec 5} {v : BitVec 64} (k : KeepsCtx c d reg pred) (listed : reg r) :
    KeepsCtx c (d.wr r v) reg pred where
  regs e ne := (Ctx.rd_wr_other _ _ _ _ fun same => ne (by rw [same]; exact listed)).trans (k.regs e ne)
  preds n ne := by rw [Ctx.pr, Ctx.wr_preds]; exact k.preds n ne
  tags := by rw [Ctx.wr_tags, k.tags]
  special := by simpa using k.special
  mode := by simpa using k.mode
  tbud := by rw [Ctx.wr_tbud, k.tbud]
  reports := by rw [Ctx.wr_reports, k.reports]

theorem KeepsCtx.setPr {n : Nat} {b : Bool} (k : KeepsCtx c d reg pred) (listed : pred n) :
    KeepsCtx c (d.setPr n b) reg pred where
  regs e ne := k.regs e ne
  preds m ne := (Ctx.pr_setPr_other fun same => ne (by rw [same]; exact listed)).trans (k.preds m ne)
  tags := k.tags
  special := k.special
  mode := k.mode
  tbud := k.tbud
  reports := k.reports

theorem KeepsCtx.waits {w : Wait} (k : KeepsCtx c d reg pred) : KeepsCtx c { d with wait := w } reg pred where
  regs := k.regs
  preds := k.preds
  tags := k.tags
  special := k.special
  mode := k.mode
  tbud := k.tbud
  reports := k.reports

/-- An instruction that moves PC on and is charged 1 unit keeps the rest. -/
theorem keepsCtx_charge_adv : KeepsCtx c (c.charge 1 0).adv reg pred := by
  rw [charge_one_adv]
  exact keepsCtx_issued

theorem ibud_charge_adv : (c.charge 1 0).adv.ibud = c.ibud - 1 := by
  rw [charge_one_adv]

/-! ### The statements of O1 -/

theorem scalarResult : ScalarResult := by
  intro i f v s row pass
  rw [exec_scalarRow row, seqWrite, issueWith_of_guardOk pass]
  refine ⟨_, rfl, ?_⟩
  dsimp only
  rw [State.curCtx_setCurCtx]
  refine ⟨rfl, Ctx.rd_wr_self .., ?_, ?_, ?_, keepsCtx_charge_adv.wr rfl, onlyCtx_setCtx⟩
  · exact Ctx.wr_pc ..
  · exact (Ctx.wr_ibud ..).trans ibud_charge_adv
  · exact Ctx.wr_wait ..

theorem seqNopResult : SeqNopResult := by
  intro f s pass
  refine ⟨_, (issueWith_of_guardOk pass : execSeqNop f s = _), ?_⟩
  rw [State.curCtx_setCurCtx]
  exact ⟨rfl, ibud_charge_adv, keepsCtx_charge_adv, onlyCtx_setCtx⟩

theorem predicateResult : PredicateResult := by
  intro i f v s row wf pass
  rw [exec_predRow row, seqPred, issueWith_of_guardOk pass]
  refine ⟨_, rfl, ?_⟩
  dsimp only
  rw [State.curCtx_setCurCtx]
  refine ⟨?_, rfl, ?_, keepsCtx_charge_adv.setPr rfl, onlyCtx_setCtx⟩
  · rw [Ctx.pr_setPr (predRow_lt row wf), if_pos rfl]
  · exact (Ctx.setPr_ibud ..).trans ibud_charge_adv

/-- Before its fc an instruction that occupies its context has no effect (R75). -/
theorem seqOpComplete_early {p : Fin 32} {q : Fin 4} {due : Nat} {op : Pending} (wait : (s.ctx p q).wait = .busy due op)
    (early : s.fc p < due) : exec (.seqOpComplete p q) s = .next s := by
  show execSeqOpComplete p q s = _
  simp [execSeqOpComplete, wait, early]

/-- In its fc it writes its value. -/
theorem seqOpComplete_write {p : Fin 32} {q : Fin 4} {due : Nat} {r : BitVec 5} {v : BitVec 64}
    (wait : (s.ctx p q).wait = .busy due (.write r v)) (isDue : due ≤ s.fc p) :
    exec (.seqOpComplete p q) s = .next (s.setCtx p q { (s.ctx p q).wr r v with wait := .ready }) := by
  show execSeqOpComplete p q s = _
  simp [execSeqOpComplete, wait, Nat.not_lt.mpr isDue]

theorem seqOpComplete_tagIndex {p : Fin 32} {q : Fin 4} {due : Nat} {r : BitVec 5} {m : BitVec 64}
    (wait : (s.ctx p q).wait = .busy due (.tagIndex r m)) (isDue : due ≤ s.fc p) : exec (.seqOpComplete p q) s =
      .next (s.setCtx p q { (s.ctx p q).wr r (tagIndex (s.ctx p q) m) with wait := .ready }) := by
  show execSeqOpComplete p q s = _
  simp [execSeqOpComplete, wait, Nat.not_lt.mpr isDue]

/-- A context whose register is written as its instruction completes. -/
theorem keepsCtx_wr_ready {r : BitVec 5} {v : BitVec 64} :
    KeepsCtx c { c.wr r v with wait := .ready } (· = r) pred :=
  ((KeepsCtx.refl c).wr (reg := (· = r)) rfl).waits

theorem ffrResult : FfrResult := by
  refine ⟨fun f s pass => ⟨_, (issueWith_of_guardOk pass : execFfr f s = _), ?_⟩, fun s p q due r m wait isDue =>
    ⟨_, seqOpComplete_tagIndex wait isDue, ?_⟩⟩
  · rw [State.curCtx_setCurCtx]
    exact ⟨rfl, ibud_charge_adv, rfl, keepsCtx_charge_adv.waits, onlyCtx_setCtx⟩
  · rw [State.ctx_setCtx_same]
    exact ⟨Ctx.rd_wr_self .., rfl, Ctx.wr_pc .., Ctx.wr_ibud .., keepsCtx_wr_ready, onlyCtx_setCtx⟩

theorem slowResult : SlowResult := by
  intro i f n v s p q row pass atP atQ
  rw [exec_slowRow row, seqSlow, issueWith_of_guardOk pass]
  refine ⟨_, rfl, ?_⟩
  rw [State.curCtx_setCurCtx]
  have issued : (s.setCurCtx { (s.curCtx.charge 1 0).adv with
      wait := .busy (s.fc s.cur.p + n - 1) (.write f.d (v (s.curCtx.rd f.a) (s.curCtx.rd f.b))) }).ctx p q =
      { (s.curCtx.charge 1 0).adv with
        wait := .busy (s.fc p + n - 1) (.write f.d (v (s.curCtx.rd f.a) (s.curCtx.rd f.b))) } := by
    rw [State.setCurCtx, atP, atQ, State.ctx_setCtx_same]
  refine ⟨rfl, ibud_charge_adv, nofun, keepsCtx_charge_adv.waits, onlyCtx_setCtx, fun u same early => ?_,
    fun u same isDue => ?_⟩
  all_goals have wait := congrArg Ctx.wait (same.trans issued)
  · exact seqOpComplete_early wait early
  · refine ⟨_, seqOpComplete_write wait isDue, ?_⟩
    rw [State.ctx_setCtx_same]
    exact ⟨Ctx.rd_wr_self .., rfl, keepsCtx_wr_ready, onlyCtx_setCtx⟩

/-! ### The statements of O3 -/

/-- What a branch keeps of its context, its link apart. -/
theorem linked_keeps {i : Instr} {pc : BitVec 64} :
    KeepsCtx c (linked i pc (c.charge 1 0)) (fun r => linkReg i = some r) (fun _ => False) ∧
      (linked i pc (c.charge 1 0)).ibud = c.ibud - 1 ∧ (linked i pc (c.charge 1 0)).wait = c.wait ∧
      ∀ d, linkReg i = some d → (linked i pc (c.charge 1 0)).rd d = if d = 0 then 0 else pc + 8 := by
  rw [Ctx.charge_one]
  unfold linked
  split
  · rename_i d link
    refine ⟨keepsCtx_issued.wr link, Ctx.wr_ibud .., Ctx.wr_wait .., fun e same => ?_⟩
    obtain rfl := Option.some.inj (link.symm.trans same)
    exact Ctx.rd_wr_self ..
  · rename_i none
    exact ⟨keepsCtx_issued, rfl, rfl, fun e same => nomatch none.symm.trans same⟩

theorem branchTaken : BranchTaken := by
  intro i f g s row pass c target aligned
  obtain ⟨keeps, ibud, wait, link⟩ := linked_keeps (c := s.curCtx) (i := i) (pc := s.curCtx.pc)
  rw [exec_branchRow row, issueWith_of_guardOk pass, branchTo, if_neg (by simpa using aligned)]
  refine ⟨_, rfl, ?_⟩
  rw [State.curCtx_setCurCtx]
  exact ⟨rfl, ibud, wait, link, { keeps with }, onlyCtx_setCtx⟩

theorem branchMisaligned : BranchMisaligned := by
  intro i f g s row pass target misaligned
  rw [exec_branchRow row, issueWith_of_guardOk pass, branchTo, if_pos misaligned]
  exact ⟨_, rfl, takeTrap_enters⟩

theorem branchNotTaken : BranchNotTaken := by
  intro i f g s row fails
  rw [exec_branchRow row, ← charge_one_adv]
  exact if_neg (by simp [fails])

end Sys2Proof.Claims

namespace Sys2Proof

open Claims

/-- Settles O1: each instruction is the common meaning of its table's rows, applied to the value of its row. -/
theorem scalarInstructions : Obligations.ScalarInstructions := by
  unfold Obligations.ScalarInstructions
  exact ⟨scalarResult, ffrResult, seqNopResult, predicateResult, slowResult⟩

/-- Settles O3: each branch is one jump to the target of its row. -/
theorem branchesGoOrTrap : Obligations.BranchesGoOrTrap := by
  unfold Obligations.BranchesGoOrTrap
  exact ⟨branchTaken, branchMisaligned, branchNotTaken⟩

end Sys2Proof

end

/-! ## Tags and wake events (O9)

WAKE is a fold of wake events over the contexts of a paddock: each leaves its own context `Awoken` and the others as they
were. -/

section

namespace Sys2Proof.Machine

variable {s t : State} {p q n : Nat} {c : Ctx} {m : BitVec 64}

/-- What an update of a paddock leaves of it reads as before in every paddock. -/
theorem pad_updPad_of {α : Type} {f : Paddock → Paddock} (g : Paddock → α) (hg : g (f (s.pad p)) = g (s.pad p)) (h : Nat) :
    g ((s.updPad p f).pad h) = g (s.pad h) := by
  by_cases e : h = p
  · rw [e, State.updPad, State.pad_setPad_same, hg]
  · rw [State.updPad, State.pad_setPad_other _ _ _ _ e]

/-! ### Waits for tags (R84) -/

theorem tagsMet_iff {all : Bool} : tagsMet c all m = true ↔
    if all then c.tags &&& m = m else m = 0 ∨ c.tags &&& m ≠ 0 := by
  cases all <;> simp [tagsMet]

theorem exec_tagWaitComplete {p : Fin 32} {q : Fin 4} {all : Bool} (wait : (s.ctx p q).wait = .tags all m) :
    exec (.tagWaitComplete p q) s = if tagsMet (s.ctx p q) all m then .next (s.setCtx p q { (s.ctx p q).adv with wait := .ready })
      else .next s := by
  show execTagWaitComplete p q s = _
  simp [execTagWaitComplete, wait]

/-! ### WFE and its end (R85) -/

/-- The context that WFE leaves when it ends. -/
def Ctx.woken (c : Ctx) (d : BitVec 5) (v : BitVec 64) : Ctx := { c.adv.wr d v with wait := .ready, latch := false }

theorem exec_wfeWake_of_wfe {p : Fin 32} {q : Fin 4} {d : BitVec 5} (wait : (s.ctx p q).wait = .wfe n d) :
    exec (.wfeWake p q) s = if n + 3 ≤ s.fc p ∧ (s.ctx p q).latch = true then .next (s.setCtx p q ((s.ctx p q).woken d 1))
      else .next s := by
  show execWfeWake p q s = _
  simp [execWfeWake, wfeEnds, wait, Ctx.woken]

theorem exec_wfeWake_of_gated {p : Fin 32} {q : Fin 4} {d : BitVec 5} (wait : (s.ctx p q).wait = .gated d (some n))
    (latch : (s.ctx p q).latch = true) (here : n ≤ s.now) : exec (.wfeWake p q) s =
      .next ((s.setCtx p q ((s.ctx p q).woken d 0)).updPad p fun x => { x with gatedF3 := false }) := by
  show execWfeWake p q s = _
  simp [execWfeWake, wfeEnds, wait, latch, here, Ctx.woken]

/-! ### WAKE (R85) -/

/-- What a wake event under a mask leaves of context n: its latch is set where the mask names it, and where it was gated it
wakes within 2 µs. -/
def Awoken (m : BitVec 64) (now n : Nat) (c e : Ctx) : Prop :=
  ∃ w, e = { c with latch := c.latch || m.getLsbD n, wait := w } ∧ ((∀ d, c.wait ≠ .gated d none) → w = c.wait) ∧
    ∀ d, c.wait = .gated d none → m.getLsbD n = true → ∃ k, w = .gated d (some k) ∧ now ≤ k ∧ k < now + 4800

theorem wakeLimit_bounds : 0 < wakeLimit s p ∧ wakeLimit s p ≤ 4780 := by
  unfold wakeLimit wakeTicks
  split <;> omega

/-- A wake event writes its context, and takes a free value where the context is gated. -/
theorem wakeCtx_frame : ∃ w k, wakeCtx s p q =
      { s.setCtx p q { s.ctx p q with latch := true, wait := w } with free := k } ∧
    ((∀ d, (s.ctx p q).wait ≠ .gated d none) → w = (s.ctx p q).wait) ∧
    ∀ d, (s.ctx p q).wait = .gated d none → ∃ k, w = .gated d (some k) ∧ s.now ≤ k ∧ k < s.now + 4800 := by
  unfold wakeCtx
  dsimp only
  split
  · rename_i d wait
    obtain ⟨pos, top⟩ := wakeLimit_bounds (s := (freeDelay s 0).2) (p := p)
    refine ⟨_, _, rfl, fun other => absurd wait (other d), fun e same => ?_⟩
    obtain rfl : d = e := by
      rw [wait] at same
      injection same
    have below := Nat.mod_lt (freeDelay s 0).1 pos
    exact ⟨_, rfl, Nat.le_add_right .., Nat.add_lt_add_left (by omega) s.now⟩
  · rename_i other
    exact ⟨(s.ctx p q).wait, s.free, rfl, fun _ => rfl, fun d same => absurd same (other d)⟩

/-- One context of those that WAKE looks at. -/
def wakeNamed (m : BitVec 64) (s : State) (n : Nat) : State := if m.getLsbD n then wakeCtx s s.cur.p n else s

/-- WAKE leaves the contexts that are not in the list it looks at, every byte, the acting context and the time. -/
structure WakesIn (p : Nat) (l : List Nat) (s t : State) : Prop where
  ctx : ∀ k, k ∉ l → t.ctx p k = s.ctx p k
  bytes : ∀ host a, t.rdByte host a = s.rdByte host a
  cur : t.cur = s.cur
  now : t.now = s.now

theorem wakeNamed_wakes (atP : s.cur.p = p) :
    WakesIn p [n] s (wakeNamed m s n) ∧ Awoken m s.now n (s.ctx p n) ((wakeNamed m s n).ctx p n) := by
  unfold wakeNamed Awoken
  rw [atP]
  by_cases named : m.getLsbD n = true
  · obtain ⟨w, k, e, other, gated⟩ := wakeCtx_frame (s := s) (p := p) (q := n)
    rw [if_pos named, e]
    refine ⟨⟨fun k ne => ?_, fun _ _ => rfl, rfl, rfl⟩, w, ?_, other, fun d wait _ => gated d wait⟩
    · exact State.ctx_setCtx_other _ _ _ _ _ (by simpa using ne)
    · rw [named, Bool.or_true]
      exact State.ctx_setCtx_same ..
  · rw [if_neg named]
    refine ⟨⟨fun _ _ => rfl, fun _ _ => rfl, rfl, rfl⟩, (s.ctx p n).wait, ?_, fun _ => rfl, fun _ _ h => absurd h named⟩
    rw [Bool.eq_false_iff.mpr named, Bool.or_false]

theorem foldl_wakeNamed (l : List Nat) (once : l.Nodup) (atP : s.cur.p = p) : WakesIn p l s (l.foldl (wakeNamed m) s) ∧
    ∀ n ∈ l, Awoken m s.now n (s.ctx p n) ((l.foldl (wakeNamed m) s).ctx p n) := by
  induction l generalizing s with
  | nil => exact ⟨⟨fun _ _ => rfl, fun _ _ => rfl, rfl, rfl⟩, nofun⟩
  | cons k l ih =>
    obtain ⟨fresh, once⟩ := List.nodup_cons.mp once
    obtain ⟨first, woken⟩ := wakeNamed_wakes (m := m) (n := k) atP
    obtain ⟨rest, others⟩ := ih (s := wakeNamed m s k) once (by rw [first.cur, atP])
    rw [first.now] at others
    refine ⟨⟨fun n out => ?_, fun h a => (rest.bytes h a).trans (first.bytes h a), rest.cur.trans first.cur,
      rest.now.trans first.now⟩, fun n mem => ?_⟩
    · rw [List.mem_cons, not_or] at out
      exact (rest.ctx n out.2).trans (first.ctx n (by simpa using out.1))
    · rw [List.foldl_cons]
      rcases List.mem_cons.mp mem with rfl | mem
      · rw [rest.ctx n fresh]
        exact woken
      · rw [← first.ctx n (by simpa using fun h : n = k => fresh (h ▸ mem))]
        exact others n mem

/-- Of any context a wake event changes the latch and the wait alone. -/
theorem ctx_foldl_wakeNamed (l : List Nat) (once : l.Nodup) (atP : s.cur.p = p) (k : Nat) :
    ∃ b w, (l.foldl (wakeNamed m) s).ctx p k = { s.ctx p k with latch := b, wait := w } := by
  obtain ⟨rest, woken⟩ := foldl_wakeNamed (m := m) l once atP
  by_cases mem : k ∈ l
  · obtain ⟨w, e, -⟩ := woken k mem
    exact ⟨_, w, e⟩
  · exact ⟨_, _, rest.ctx k mem⟩

/-! ### A paddock placed in F3 (R85) -/

theorem asleep_iff : c.asleep = true ↔ c.halted = true ∨ ∃ d, c.wait = .gated d none := by
  unfold Ctx.asleep
  cases c.wait with
  | gated d w => cases w <;> simp
  | _ => simp

theorem enginesIdle_iff {x : Paddock} : x.enginesIdle = true ↔
    ∀ e ∈ x.chains, e.2.st ≠ .running ∧ e.2.st ≠ .stampWait ∧ e.2.st ≠ .waitSeq := by
  unfold Paddock.enginesIdle
  rw [List.all_eq_true]
  refine forall₂_congr fun e _ => ?_
  cases e.2.st <;> simp

end Sys2Proof.Machine

namespace Sys2Proof.Claims

open Sys2Proof.Machine

variable {s t : State} {p q : Nat} {c : Ctx} {reg : BitVec 5 → Prop} {pred : Nat → Prop}

/-! ### The statements of O9 -/

theorem tagWaits : TagWaits := by
  constructor
  · intro f s all pass
    have run : exec (if all then .wall f else .wany f) s = tagWait f s all := by cases all <;> rfl
    refine ⟨_, run.trans (issueWith_of_guardOk pass), ?_⟩
    rw [State.curCtx_setCurCtx, Ctx.charge_one]
    exact ⟨rfl, rfl, rfl, keepsCtx_issued, onlyCtx_setCtx⟩
  · intro s p q all m wait met
    refine ⟨fun holds => ⟨_, (exec_tagWaitComplete wait).trans (if_pos (tagsMet_iff.mpr holds)), ?_⟩, fun fails =>
      (exec_tagWaitComplete wait).trans (if_neg (mt tagsMet_iff.mp fails))⟩
    rw [State.ctx_setCtx_same]
    exact ⟨rfl, rfl, rfl, keepsCtx_issued, onlyCtx_setCtx⟩

theorem tagClear : TagClear := by
  intro f s pass
  refine ⟨_, (issueWith_of_guardOk pass : execTclr f s = _), ?_⟩
  rw [State.curCtx_setCurCtx]
  refine ⟨rfl, ibud_charge_adv, fun n low => ?_, fun r => ?_, onlyCtx_setCtx⟩
  · simp [Ctx.putTags, Ctx.opA, low, Bool.and_or_distrib_left]
  · rw [State.setCurCtx, State.ctx_setCtx_same]
    rfl

theorem woken_writes {d : BitVec 5} {v : BitVec 64} (ctx : t.ctx p q = (s.ctx p q).woken d v) : Writes s t p q d v := by
  intro r
  rw [ctx]
  exact Ctx.rd_wr ..

/-- A paddock leaves F3 as one of its contexts is written. -/
theorem onlyCtx_leaveF3 {c : Ctx} : OnlyCtx s ((s.setCtx p q c).updPad p fun x => { x with gatedF3 := false }) p q := by
  have only := onlyCtx_setCtx (s := s) (p := p) (q := q) (c := c)
  have leaves {α : Type} (g : Paddock → α) (hg : ∀ x : Paddock, g { x with gatedF3 := false } = g x) (h : Nat) :=
    pad_updPad_of (s := s.setCtx p q c) (p := p) (f := fun x => { x with gatedF3 := false }) g (hg _) h
  exact { only with
    ctx := fun h k ne => (leaves (·.ctx k) (fun _ => rfl) h).trans (only.ctx h k ne)
    tile := fun h k => (leaves (·.tile k) (fun _ => rfl) h).trans (only.tile h k)
    region := fun h k => (leaves (·.region k) (fun _ => rfl) h).trans (only.region h k)
    task := fun h k => (leaves (·.task k) (fun _ => rfl) h).trans (only.task h k)
    chain := fun h k => (leaves (·.chain k) (fun _ => rfl) h).trans (only.chain h k) }

theorem wfeWaits {f : SeqF} (pass : guardOk s.curCtx f = true) : ∃ t, exec (.wfe f) s = .next t ∧
    t.curCtx.pc = s.curCtx.pc ∧ t.curCtx.ibud = s.curCtx.ibud - 1 ∧ t.curCtx.wait = .wfe (s.fc s.cur.p) f.d ∧
      KeepsCtx s.curCtx t.curCtx (fun _ => False) (fun _ => False) ∧ OnlyCtx s t s.cur.p s.cur.q := by
  refine ⟨_, (issueWith_of_guardOk pass : execWfe f s = _), ?_⟩
  rw [State.curCtx_setCurCtx, Ctx.charge_one]
  exact ⟨rfl, rfl, rfl, keepsCtx_issued, onlyCtx_setCtx⟩

theorem execWake_eq {f : SeqF} (pass : guardOk s.curCtx f = true) : exec (.wake f) s =
    .next ([0, 1, 2, 3].foldl (wakeNamed (s.curCtx.rd f.a)) (s.setCurCtx (s.curCtx.charge 1 0).adv)) :=
  (issueWith_of_guardOk pass : execWake f s = _)

/-- Of a context a charge and the move of PC leave what a wake event looks at. -/
theorem charged_ctx (n : Nat) : ∃ pc ib, (s.setCurCtx (s.curCtx.charge 1 0).adv).ctx s.cur.p n =
    { s.ctx s.cur.p n with pc := pc, ibud := ib } ∧ (n ≠ s.cur.q → pc = (s.ctx s.cur.p n).pc) := by
  by_cases own : n = s.cur.q
  · rw [own, State.setCurCtx, State.ctx_setCtx_same, charge_one_adv]
    exact ⟨_, _, rfl, fun ne => absurd rfl ne⟩
  · rw [State.setCurCtx, State.ctx_setCtx_other _ _ _ _ _ own]
    exact ⟨_, _, rfl, fun _ => rfl⟩

theorem wakeWakes {f : SeqF} (pass : guardOk s.curCtx f = true) :
    ∃ t, exec (.wake f) s = .next t ∧ t.curCtx.pc = s.curCtx.pc + 8 ∧ t.curCtx.ibud = s.curCtx.ibud - 1 ∧
      NoWrite s t s.cur.p s.cur.q ∧ SameBytes s t ∧
      ∀ n : Fin 4,
        let c := s.ctx s.cur.p n
        let e := t.ctx s.cur.p n
        e.latch = (c.latch || (s.curCtx.rd f.a).getLsbD n) ∧ e.halted = c.halted ∧ (n.val ≠ s.cur.q → e.pc = c.pc) ∧
          ((∀ d, c.wait ≠ .gated d none) → e.wait = c.wait) ∧
          (∀ d, c.wait = .gated d none → (s.curCtx.rd f.a).getLsbD n = true →
            ∃ k, e.wait = .gated d (some k) ∧ s.now ≤ k ∧ k < s.now + 4800) := by
  have once : [0, 1, 2, 3].Nodup := by decide
  have atP : (s.setCurCtx (s.curCtx.charge 1 0).adv).cur.p = s.cur.p := rfl
  obtain ⟨rest, woken⟩ := foldl_wakeNamed (m := s.curCtx.rd f.a) [0, 1, 2, 3] once atP
  obtain ⟨b, w, own⟩ := ctx_foldl_wakeNamed (m := s.curCtx.rd f.a) [0, 1, 2, 3] once atP s.cur.q
  refine ⟨_, execWake_eq pass, ?_⟩
  generalize [0, 1, 2, 3].foldl _ _ = t at rest woken own
  rw [State.setCurCtx, State.ctx_setCtx_same, charge_one_adv] at own
  have cur : t.curCtx = t.ctx s.cur.p s.cur.q := by rw [State.curCtx, rest.cur]; rfl
  refine ⟨by rw [cur, own], by rw [cur, own], fun r => by rw [own]; rfl, rest.bytes, fun n => ?_⟩
  obtain ⟨w, e, other, gated⟩ := woken n (by fin_cases n <;> simp)
  obtain ⟨pc, ib, charged, stays⟩ := charged_ctx (s := s) n
  rw [charged] at e other gated
  dsimp only
  rw [e]
  exact ⟨rfl, rfl, stays, other, gated⟩

theorem wfeWakeEnds {p : Fin 32} {q : Fin 4} {n : Nat} {d : BitVec 5} (wait : (s.ctx p q).wait = .wfe n d) :
    ((s.ctx p q).latch = true → n + 3 ≤ s.fc p →
      ∃ t, exec (.wfeWake p q) s = .next t ∧ (t.ctx p q).wait = .ready ∧ (t.ctx p q).latch = false ∧
        (t.ctx p q).pc = (s.ctx p q).pc + 8 ∧ (t.ctx p q).ibud = (s.ctx p q).ibud ∧ Writes s t p q d 1 ∧
        OnlyCtx s t p q) ∧
    ((s.ctx p q).latch = false ∨ s.fc p < n + 3 → exec (.wfeWake p q) s = .next s) := by
  rw [exec_wfeWake_of_wfe wait]
  refine ⟨fun latch late => ⟨_, if_pos ⟨late, latch⟩, ?_⟩, fun not => if_neg ?_⟩
  · have writes := woken_writes (State.ctx_setCtx_same s p q ((s.ctx p q).woken d 1))
    rw [State.ctx_setCtx_same]
    exact ⟨rfl, rfl, Ctx.wr_pc .., Ctx.wr_ibud .., writes, onlyCtx_setCtx⟩
  · rintro ⟨late, latch⟩
    exact not.elim (fun clear => by simp [latch] at clear) (fun early => by omega)

theorem gatedWakes {p : Fin 32} {q : Fin 4} {d : BitVec 5} {n : Nat} (wait : (s.ctx p q).wait = .gated d (some n))
    (latch : (s.ctx p q).latch = true) (here : n ≤ s.now) :
    ∃ t, exec (.wfeWake p q) s = .next t ∧ (t.ctx p q).wait = .ready ∧ (t.ctx p q).latch = false ∧
      (t.ctx p q).pc = (s.ctx p q).pc + 8 ∧ Writes s t p q d 0 ∧ (t.pad p).gatedF3 = false ∧ OnlyCtx s t p q := by
  refine ⟨_, exec_wfeWake_of_gated wait latch here, ?_⟩
  have ctx : ((s.setCtx p q ((s.ctx p q).woken d 0)).updPad p fun x => { x with gatedF3 := false }).ctx p q =
      (s.ctx p q).woken d 0 := (pad_updPad_of (·.ctx q) rfl p).trans (State.ctx_setCtx_same ..)
  refine ⟨by rw [ctx]; rfl, by rw [ctx]; rfl, by rw [ctx]; exact Ctx.wr_pc .., woken_writes ctx, ?_, onlyCtx_leaveF3⟩
  rw [State.updPad, State.pad_setPad_same]

theorem paddockSleeps {p : Fin 32} (asleep : ∀ q, q < 4 → (s.ctx p q).halted = true ∨ ∃ d, (s.ctx p q).wait = .gated d none)
    (noRegion : ∀ e ∈ (s.pad p).regions, e.2.alloc = false)
    (noChain : ∀ e ∈ (s.pad p).chains, e.2.st ≠ .running ∧ e.2.st ≠ .stampWait ∧ e.2.st ≠ .waitSeq) :
    ∃ t, exec (.paddockGateF3 p) s = .next t ∧ (t.pad p).freq = .f3 ∧ (∀ k, t.ctx p k = s.ctx p k) ∧
      (∀ k, k ≠ p.val → t.pad k = s.pad k) ∧ SameBytes s t := by
  have idle : (s.pad p).idle = true := by
    simp only [Paddock.idle, Bool.and_eq_true, List.all_eq_true, Bool.not_eq_true', List.mem_range]
    exact ⟨⟨fun q low => asleep_iff.mpr (asleep q low), noRegion⟩, enginesIdle_iff.mpr noChain⟩
  refine ⟨_, congrArg Host.Outcome.next (if_pos idle), ?_, fun k => ?_, fun k ne => ?_, fun _ _ => rfl⟩
  · rw [State.pad_setPad_same]
    rfl
  · exact pad_updPad_of (f := fun x => { x with gatedF3 := true }) (·.ctx k) rfl p
  · exact State.pad_setPad_other _ _ _ _ ne

theorem wfeAndWake : WfeAndWake :=
  ⟨fun _ _ pass => wfeWaits pass, fun _ _ _ _ _ wait => wfeWakeEnds wait,
    fun _ _ _ _ _ wait latch here => gatedWakes wait latch here, fun _ _ pass => wakeWakes pass,
    fun _ _ asleep noRegion noChain => paddockSleeps asleep noRegion noChain⟩

end Sys2Proof.Claims

namespace Sys2Proof

open Claims

/-- Settles O9: a wait ends on its condition, and WAKE is a fold of wake events over the contexts of the paddock. -/
theorem tagsAndWake : Obligations.TagsAndWake := by
  unfold Obligations.TagsAndWake
  exact ⟨tagWaits, tagClear, wfeAndWake⟩

end Sys2Proof

end

/-! ## The issue slot (O56)

Settling the deficits writes nothing but deficits, so who is ready stays the same (`SameButDeficit`); the rounds added are
the fewest after which a ready context stands above zero (`topDeficits_settles`). -/

section

namespace Sys2Proof.Machine

variable {x y : Paddock} {q : Nat}

/-! ### Deficits written -/

/-- Two paddocks agree in weights and contexts, deficits apart. -/
structure SameButDeficit (x y : Paddock) : Prop where
  lqw : y.lqw = x.lqw
  ctx : ∀ q, ({ y.ctx q with deficit := 0 } : Ctx) = { x.ctx q with deficit := 0 }

theorem SameButDeficit.refl (x : Paddock) : SameButDeficit x x := ⟨rfl, fun _ => rfl⟩

/-- What does not look at the deficit of a context reads alike. -/
theorem SameButDeficit.of {α : Type} (h : SameButDeficit x y) (g : Ctx → α) (hg : ∀ c : Ctx, g { c with deficit := 0 } = g c)
    (q : Nat) : g (y.ctx q) = g (x.ctx q) := by
  rw [← hg (y.ctx q), h.ctx, hg]

theorem SameButDeficit.weight (h : SameButDeficit x y) (q : Nat) : weight y q = weight x q := by
  rw [Machine.weight, Machine.weight, h.lqw]

theorem SameButDeficit.heldCtx (h : SameButDeficit x y) (q : Nat) : y.heldCtx q = x.heldCtx q := by
  unfold Paddock.heldCtx
  refine congrArg (List.any _) (funext fun k => ?_)
  exact h.of (fun c => k != q && (match c.wait with
    | .poll w _ => seqOpc w == 0xA8 && fld (c.opA (seqFields w)) 0 2 == q
    | _ => false)) (fun _ => rfl) k

theorem SameButDeficit.isReady (h : SameButDeficit x y) (q : Nat) : y.isReady q = x.isReady q := by
  have own := h.of (fun c => !c.halted && !c.saved && c.wait == .ready) (fun _ => rfl) q
  unfold Paddock.isReady
  rw [h.heldCtx]
  exact congrArg (· && !x.heldCtx q) own

/-- A deficit of a context written. -/
def Paddock.setDeficit (x : Paddock) (q : Nat) (d : Int) : Paddock := x.setCtx q { x.ctx q with deficit := d }

theorem ctx_setDeficit (d : Int) (k : Nat) :
    (x.setDeficit q d).ctx k = if k = q then { x.ctx k with deficit := d } else x.ctx k := by
  by_cases e : k = q
  · rw [if_pos e, e]
    exact Paddock.ctx_setCtx_same ..
  · rw [if_neg e]
    exact Paddock.ctx_setCtx_other _ _ _ _ e

theorem deficit_setDeficit (d : Int) (k : Nat) :
    ((x.setDeficit q d).ctx k).deficit = if k = q then d else (x.ctx k).deficit := by
  rw [ctx_setDeficit]
  split <;> rfl

theorem SameButDeficit.setDeficit (h : SameButDeficit x y) (q : Nat) (d : Int) : SameButDeficit x (y.setDeficit q d) where
  lqw := h.lqw
  ctx k := by
    rw [ctx_setDeficit]
    split <;> exact h.ctx k

/-- A fold that gives each context of a list its deficit by its own part of the paddock alone. -/
theorem foldl_deficits {step : Paddock → Nat → Paddock} {d : Nat → Int} (l : List Nat) (once : l.Nodup)
    (hy : SameButDeficit x y)
    (hstep : ∀ z, SameButDeficit x z → ∀ q ∈ l, (z.ctx q).deficit = (y.ctx q).deficit →
      SameButDeficit x (step z q) ∧ ∀ k, ((step z q).ctx k).deficit = if k = q then d q else (z.ctx k).deficit) :
    SameButDeficit x (l.foldl step y) ∧
      ∀ k, ((l.foldl step y).ctx k).deficit = if k ∈ l then d k else (y.ctx k).deficit := by
  induction l generalizing y with
  | nil => exact ⟨hy, fun k => by simp⟩
  | cons a l ih =>
    obtain ⟨fresh, once⟩ := List.nodup_cons.mp once
    obtain ⟨same, first⟩ := hstep y hy a (by simp) rfl
    obtain ⟨same, rest⟩ := ih once same fun z hz q mem e => hstep z hz q (by simp [mem]) (by
      rw [e, first, if_neg fun h : q = a => fresh (h ▸ mem)])
    refine ⟨same, fun k => ?_⟩
    rw [List.foldl_cons, rest, first]
    by_cases here : k = a
    · subst here
      simp [fresh]
    · simp [here]

/-! ### Rounds of weights (R74) -/

/-- What a deficit becomes before the choice, k rounds of weights added to the ready contexts. -/
def afterRounds (x : Paddock) (k q : Nat) : Int :=
  if x.isReady q then (x.ctx q).deficit + k * weight x q else min (x.ctx q).deficit (weight x q)

theorem afterRounds_ready {k : Nat} (r : x.isReady q = true) : afterRounds x k q = (x.ctx q).deficit + k * weight x q := if_pos r

theorem afterRounds_zero (r : x.isReady q = true) : afterRounds x 0 q = (x.ctx q).deficit := by
  simp [afterRounds_ready r]

/-- The rounds after which a deficit stands above zero. -/
def need (x : Paddock) (q : Nat) : Nat := (-(x.ctx q).deficit).toNat / weight x q + 1

/-- A deficit that is not above zero is so after as many rounds as it needs, and not before. -/
theorem afterRounds_pos_iff {k : Nat} (pos : 0 < weight x q) (r : x.isReady q = true) (low : (x.ctx q).deficit ≤ 0) :
    0 < afterRounds x k q ↔ need x q ≤ k := by
  obtain ⟨n, hn⟩ : ∃ n : Nat, (x.ctx q).deficit = -n := ⟨(-(x.ctx q).deficit).toNat, by omega⟩
  rw [afterRounds_ready r, need, hn, Int.neg_neg, Int.toNat_natCast, Nat.succ_le_iff, Nat.div_lt_iff_lt_mul pos, ← Nat.cast_mul]
  omega

/-- The least of the values at a list's entries and a first one is one of them. -/
theorem foldl_min_spec (g : Nat → Nat) (l : List Nat) (m : Nat) :
    (∀ q ∈ l, l.foldl (fun m q => min m (g q)) m ≤ g q) ∧ l.foldl (fun m q => min m (g q)) m ≤ m ∧
      (l.foldl (fun m q => min m (g q)) m = m ∨ ∃ q ∈ l, l.foldl (fun m q => min m (g q)) m = g q) := by
  induction l generalizing m with
  | nil => exact ⟨nofun, le_refl m, .inl rfl⟩
  | cons a l ih =>
    obtain ⟨below, first, one⟩ := ih (min m (g a))
    refine ⟨fun q mem => ?_, first.trans (min_le_left ..), ?_⟩
    · rcases List.mem_cons.mp mem with rfl | mem
      · exact first.trans (min_le_right ..)
      · exact below q mem
    · rcases one with e | ⟨q, mem, e⟩
      · rcases min_choice m (g a) with c | c
        · exact .inl (e.trans c)
        · exact .inr ⟨a, by simp, e.trans c⟩
      · exact .inr ⟨q, by simp [mem], e⟩

/-- The contexts that are ready, of the four. -/
def readyOf (x : Paddock) : List Nat := [0, 1, 2, 3].filter fun q => x.isReady q

theorem mem_readyOf : q ∈ readyOf x ↔ q < 4 ∧ x.isReady q = true := by
  rw [readyOf, List.mem_filter, show q ∈ [0, 1, 2, 3] ↔ q < 4 by simp; omega]

theorem readyOf_nodup : (readyOf x).Nodup := List.Nodup.filter _ (by decide)

/-- The least rounds after which some ready context stands above zero. -/
def rounds (x : Paddock) : Nat := (readyOf x).foldl (fun m q => min m (need x q)) (need x ((readyOf x).headD 0))

theorem rounds_spec (some : ∃ q, q ∈ readyOf x) :
    (∀ q ∈ readyOf x, rounds x ≤ need x q) ∧ ∃ q ∈ readyOf x, rounds x = need x q := by
  have head : (readyOf x).headD 0 ∈ readyOf x := by
    obtain ⟨q, mem⟩ := some
    cases h : readyOf x with
    | nil => rw [h] at mem; cases mem
    | cons a l => simp
  obtain ⟨below, -, one⟩ := foldl_min_spec (need x) (readyOf x) (need x ((readyOf x).headD 0))
  exact ⟨below, one.elim (fun e => ⟨_, head, e⟩) id⟩

/-- The deficits of contexts that are not ready, capped. -/
def capped (x : Paddock) : Paddock :=
  [0, 1, 2, 3].foldl (fun x q => if x.isReady q then x else x.setDeficit q (min (x.ctx q).deficit (weight x q))) x

theorem capped_spec : SameButDeficit x (capped x) ∧ ∀ k, k < 4 → ((capped x).ctx k).deficit = afterRounds x 0 k := by
  have fold := foldl_deficits (x := x) (y := x) (d := afterRounds x 0)
    (step := fun x q => if x.isReady q then x else x.setDeficit q (min (x.ctx q).deficit (weight x q))) [0, 1, 2, 3]
    (by decide) (.refl x) fun z hz q _ e => ?_
  · refine ⟨fold.1, fun k low => ?_⟩
    rw [capped, fold.2, if_pos (by simp; omega)]
  · rw [hz.isReady, hz.weight, e]
    by_cases r : x.isReady q = true
    · rw [if_pos r]
      refine ⟨hz, fun k => ?_⟩
      split
      · rename_i own
        rw [own, afterRounds_zero r, e]
      · rfl
    · rw [if_neg r]
      refine ⟨hz.setDeficit .., fun k => ?_⟩
      rw [deficit_setDeficit, afterRounds, if_neg r]

/-- The deficits of the ready contexts, raised by k rounds of weights. -/
def raised (x : Paddock) (k : Nat) : Paddock :=
  (readyOf x).foldl (fun x q => x.setDeficit q ((x.ctx q).deficit + (k * weight x q : Nat))) x

theorem raised_spec {k : Nat} : SameButDeficit x (raised x k) ∧
    ∀ q, ((raised x k).ctx q).deficit = if q ∈ readyOf x then (x.ctx q).deficit + k * weight x q else (x.ctx q).deficit := by
  refine foldl_deficits (d := fun q => (x.ctx q).deficit + k * weight x q) (readyOf x) readyOf_nodup (.refl x)
    fun z hz q _ e => ⟨hz.setDeficit .., fun j => ?_⟩
  rw [ctx_setDeficit, hz.weight, e, Nat.cast_mul]
  split
  · rename_i own
    rw [own]
  · rfl

theorem topDeficits_eq : topDeficits x = if (readyOf (capped x)).isEmpty ||
    (readyOf (capped x)).any (fun q => decide (0 < ((capped x).ctx q).deficit)) then capped x
    else raised (capped x) (rounds (capped x)) := rfl

theorem SameButDeficit.trans {z : Paddock} (a : SameButDeficit x y) (b : SameButDeficit y z) : SameButDeficit x z :=
  ⟨b.lqw.trans a.lqw, fun q => (b.ctx q).trans (a.ctx q)⟩

theorem mem_readyOf_capped : q ∈ readyOf (capped x) ↔ q < 4 ∧ x.isReady q = true := by
  rw [mem_readyOf, capped_spec.1.isReady]

theorem deficit_capped (low : q < 4) (r : x.isReady q = true) : ((capped x).ctx q).deficit = (x.ctx q).deficit := by
  rw [capped_spec.2 q low, afterRounds_zero r]

/-- Settling leaves each context with its deficit after some rounds: none where a ready one stands above zero, else the
fewest after which one does. -/
theorem topDeficits_settles (pos : ∀ q, q < 4 → 0 < weight x q) : SameButDeficit x (topDeficits x) ∧
    ∃ k, (∀ q, q < 4 → ((topDeficits x).ctx q).deficit = afterRounds x k q) ∧
      ((∃ q, q < 4 ∧ x.isReady q = true) → (∃ q, q < 4 ∧ x.isReady q = true ∧ 0 < afterRounds x k q) ∧
        ∀ j < k, ∀ q, q < 4 → x.isReady q = true → afterRounds x j q ≤ 0) := by
  obtain ⟨same, deficit⟩ := capped_spec (x := x)
  rw [topDeficits_eq]
  split
  · rename_i above
    refine ⟨same, 0, deficit, fun ⟨q, low, r⟩ => ⟨?_, nofun⟩⟩
    have mem : q ∈ readyOf (capped x) := mem_readyOf_capped.mpr ⟨low, r⟩
    rw [Bool.or_eq_true, List.isEmpty_iff, List.any_eq_true] at above
    rcases above with none | ⟨j, mem, up⟩
    · rw [none] at mem
      cases mem
    · obtain ⟨low, r⟩ := mem_readyOf_capped.mp mem
      exact ⟨j, low, r, by rw [← deficit j low]; simpa using up⟩
  · rename_i below
    rw [Bool.or_eq_true, not_or, List.isEmpty_iff] at below
    obtain ⟨some, below⟩ := below
    have down (q : Nat) (low : q < 4) (r : x.isReady q = true) : (x.ctx q).deficit ≤ 0 := by
      by_contra up
      exact below (List.any_eq_true.mpr ⟨q, mem_readyOf_capped.mpr ⟨low, r⟩, by simpa [deficit_capped low r] using up⟩)
    have needs (q : Nat) (low : q < 4) (r : x.isReady q = true) : need (capped x) q = need x q := by
      rw [need, deficit_capped low r, same.weight, need]
    obtain ⟨least, q, mem, attained⟩ := rounds_spec (List.exists_mem_of_ne_nil _ some)
    obtain ⟨raise, raisedBy⟩ := raised_spec (x := capped x) (k := rounds (capped x))
    refine ⟨same.trans raise, rounds (capped x), fun q low => ?_, fun _ => ⟨?_, fun j less q low r => ?_⟩⟩
    · rw [raisedBy, same.weight]
      by_cases r : x.isReady q = true
      · rw [if_pos (mem_readyOf_capped.mpr ⟨low, r⟩), deficit_capped low r, afterRounds_ready r]
      · rw [if_neg fun h => r (mem_readyOf_capped.mp h).2, deficit q low, afterRounds, afterRounds, if_neg r, if_neg r]
    · obtain ⟨low, r⟩ := mem_readyOf_capped.mp mem
      exact ⟨q, low, r, (afterRounds_pos_iff (pos q low) r (down q low r)).mpr (by rw [attained, needs q low r])⟩
    · have early : ¬ need x q ≤ j := by
        rw [← needs q low r]
        have := least q (mem_readyOf_capped.mpr ⟨low, r⟩)
        omega
      exact not_lt.mp fun up => early ((afterRounds_pos_iff (pos q low) r (down q low r)).mp up)

/-! ### The choice (R73) -/

/-- What a choice from a list is: none where none is ready, else the ready one with the largest deficit, the lowest on a
tie. -/
def Chosen (x : Paddock) (l : List Nat) : Option Nat → Prop
  | none => ∀ q ∈ l, x.isReady q = false
  | some w => w ∈ l ∧ x.isReady w = true ∧ ∀ q ∈ l, x.isReady q = true →
      (x.ctx q).deficit < (x.ctx w).deficit ∨ ((x.ctx q).deficit = (x.ctx w).deficit ∧ w ≤ q)

/-- The choice so far, against one more context. -/
def challenge (x : Paddock) (w : Option Nat) (q : Nat) : Option Nat :=
  if !x.isReady q then w
  else
    match w with
    | none => some q
    | some v => if (x.ctx v).deficit < (x.ctx q).deficit then some q else w

theorem challenge_chosen {l : List Nat} {w : Option Nat} (above : ∀ k ∈ l, k < q) (h : Chosen x l w) :
    Chosen x (l ++ [q]) (challenge x w q) := by
  unfold challenge
  by_cases r : x.isReady q = true
  · rw [if_neg (by simp [r])]
    cases w with
    | none =>
      refine ⟨by simp, r, fun k mem rk => ?_⟩
      rcases List.mem_append.mp mem with mem | mem
      · rw [h k mem] at rk
        cases rk
      · rw [List.mem_singleton.mp mem]
        exact .inr ⟨rfl, le_refl q⟩
    | some v =>
      obtain ⟨mem, rv, best⟩ := h
      dsimp only
      split
      · rename_i more
        refine ⟨by simp, r, fun k memk rk => ?_⟩
        rcases List.mem_append.mp memk with memk | memk
        · rcases best k memk rk with less | ⟨e, -⟩
          · exact .inl (less.trans more)
          · exact .inl (e ▸ more)
        · rw [List.mem_singleton.mp memk]
          exact .inr ⟨rfl, le_refl q⟩
      · rename_i notMore
        refine ⟨by simp [mem], rv, fun k memk rk => ?_⟩
        rcases List.mem_append.mp memk with memk | memk
        · exact best k memk rk
        · rw [List.mem_singleton.mp memk]
          have := above v mem
          omega
  · rw [if_pos (by simp [r])]
    cases w with
    | none =>
      intro k mem
      rcases List.mem_append.mp mem with mem | mem
      · exact h k mem
      · rw [List.mem_singleton.mp mem]
        simpa using r
    | some v =>
      obtain ⟨mem, rv, best⟩ := h
      refine ⟨by simp [mem], rv, fun k memk rk => ?_⟩
      rcases List.mem_append.mp memk with memk | memk
      · exact best k memk rk
      · rw [List.mem_singleton.mp memk] at rk
        exact absurd rk r

theorem foldl_challenge_chosen (l : List Nat) (rising : l.Pairwise (· < ·)) : Chosen x l (l.foldl (challenge x) none) := by
  induction l using List.reverseRecOn with
  | nil => exact nofun
  | append_singleton l q ih =>
    obtain ⟨rising, -, above⟩ := List.pairwise_append.mp rising
    rw [List.foldl_append]
    exact challenge_chosen (fun k mem => above k mem q (by simp)) (ih rising)

theorem pickIssue_chosen : Chosen x [0, 1, 2, 3] (pickIssue x) := foldl_challenge_chosen _ (by decide)

/-! ### The issue slot (R73) -/

variable {s : State} {p : Nat}

theorem padFin_val (p : Fin 32) : padFin p = p := Fin.ext (Nat.mod_eq_of_lt p.isLt)

theorem phaseIssue_of_none (hx : s.pad p = x) (none : pickIssue (topDeficits x) = none) :
    phaseIssue s p = s.setPad p (topDeficits x) := by
  subst hx
  unfold phaseIssue
  dsimp only
  rw [none]

theorem phaseIssue_of_some {w : Nat} (hx : s.pad p = x) (some : pickIssue (topDeficits x) = some w) :
    phaseIssue s p = (s.setPad p ((topDeficits x).setDeficit w (((topDeficits x).ctx w).deficit - 256))).owe
      [.issue (padFin p) (ctxFin w)] := by
  subst hx
  unfold phaseIssue
  dsimp only
  rw [some]
  rfl

end Sys2Proof.Machine

namespace Sys2Proof

open Machine Claims

/-- Settles O56: the deficits are settled by the fewest rounds, and the choice is a fold over the four contexts. -/
theorem issueSlot : Obligations.IssueSlot := by
  unfold Obligations.IssueSlot
  intro s p rest owed pos x
  have run : step s = .next (phaseIssue { s with agenda := rest } p) := by
    rw [step, owed]
    rfl
  obtain ⟨same, k, deficit, fewest⟩ := topDeficits_settles (x := x) fun q low => Nat.mul_pos (by decide) (pos ⟨q, low⟩)
  have chosen := pickIssue_chosen (x := topDeficits x)
  rw [run]
  cases pick : pickIssue (topDeficits x) with
  | none =>
    rw [pick] at chosen
    have idle (q : Fin 4) : x.isReady q = false := by
      rw [← same.isReady]
      exact chosen q (by fin_cases q <;> simp)
    rw [phaseIssue_of_none (s := { s with agenda := rest }) (x := x) rfl pick]
    refine ⟨_, rfl, fun h ne => State.pad_setPad_other _ _ _ _ ne, fun _ _ => rfl, ?_⟩
    rw [State.pad_setPad_same]
    refine ⟨fun q => same.ctx q, fun _ => ⟨rfl, fun q => (deficit q q.isLt).trans ?_⟩, fun ⟨q, r⟩ => ?_⟩
    · simp [afterRounds, deficitOf, idle q, weight]
    · rw [idle q] at r
      cases r
  | some w =>
    rw [pick] at chosen
    obtain ⟨mem, ready, best⟩ := chosen
    have low : w < 4 := by simp at mem; omega
    rw [same.isReady] at ready
    rw [phaseIssue_of_some (s := { s with agenda := rest }) (x := x) rfl pick]
    have issued (t : State) (z : Paddock) (l : List Act) : ((t.setPad p z).owe l).pad p = z := State.pad_setPad_same ..
    refine ⟨_, rfl, fun h ne => State.pad_setPad_other _ _ _ _ ne, fun _ _ => rfl, ?_⟩
    rw [issued]
    refine ⟨fun q => (same.setDeficit ..).ctx q, fun idle => ?_, fun _ => ⟨⟨w, low⟩, k, ?_, ready, ?_, ?_, ?_, ?_⟩⟩
    · rw [idle ⟨w, low⟩] at ready
      cases ready
    · rw [padFin_val]
      exact congrArg (fun q => Act.issue p q :: rest) (Fin.ext (Nat.mod_eq_of_lt low))
    · obtain ⟨⟨q, lowq, r, up⟩, -⟩ := fewest ⟨w, low, ready⟩
      exact ⟨⟨q, lowq⟩, r, up⟩
    · exact fun j less q r => (fewest ⟨w, low, ready⟩).2 j less q q.isLt r
    · intro q r
      have beaten := best q (by fin_cases q <;> simp) (by rw [same.isReady, r])
      rw [deficit q q.isLt, deficit w low] at beaten
      exact beaten
    · intro q
      rw [deficit_setDeficit, deficit w low]
      by_cases own : q = ⟨w, low⟩
      · rw [if_pos own, own, if_pos rfl]
        rfl
      · rw [if_neg own, if_neg fun h => own (Fin.ext h)]
        exact deficit q q.isLt

end Sys2Proof

end

/-! ## The sequencer's accesses to memory (O10 to O12)

An access is checked as it issues and translated again as it performs, which reads and no more (`Reads`); what it then does
is `performed`, by its kind and by what the line holds. -/

section

namespace Sys2Proof.Machine

variable {s t u : State} {p q n a b v : Nat} {host : Bool}

/-! ### Numbers as bytes (R3) -/

@[simp] theorem length_bytesOfNat : (bytesOfNat n v).length = n := by
  induction n generalizing v with
  | zero => rfl
  | succ n ih => rw [bytesOfNat, List.length_cons, ih]

theorem getD_bytesOfNat {i : Nat} (h : i < n) : (bytesOfNat n v).getD i 0 = BitVec.ofNat 8 (v / 256 ^ i) := by
  induction n generalizing v i with
  | zero => cases h
  | succ n ih =>
    cases i with
    | zero => simp [bytesOfNat]
    | succ i =>
      rw [bytesOfNat, List.getD_cons_succ, ih (by omega), Nat.div_div_eq_div_mul, Nat.pow_succ']

/-- Bytes written read as written, the others as before. -/
theorem rdByte_wrBytes (g : Bool) (bs : List (BitVec 8)) : (s.wrBytes host a bs).rdByte g b =
    if g = host ∧ a ≤ b ∧ b < a + bs.length then bs.getD (b - a) 0 else s.rdByte g b := by
  induction bs generalizing s a with
  | nil => rw [if_neg (by simp)]; rfl
  | cons x bs ih =>
    rw [State.wrBytes, ih, List.length_cons]
    by_cases here : g = host ∧ b = a
    · obtain ⟨rfl, rfl⟩ := here
      rw [if_neg (by omega), if_pos ⟨rfl, by omega⟩, State.rdByte_wrByte_same, Nat.sub_self, List.getD_cons_zero]
    · rw [State.rdByte_wrByte_other _ _ _ _ _ _ fun e => here (Prod.mk.inj e)]
      by_cases inside : g = host ∧ a + 1 ≤ b ∧ b < a + 1 + bs.length
      · rw [if_pos inside, if_pos ⟨inside.1, by omega⟩, show b - a = b - (a + 1) + 1 by omega, List.getD_cons_succ]
      · rw [if_neg inside, if_neg fun h => inside ⟨h.1, by
          have : b ≠ a := fun e => here ⟨h.1, e⟩
          omega⟩]

theorem natOfBytes_append (l m : List (BitVec 8)) : natOfBytes (l ++ m) = natOfBytes l + 256 ^ l.length * natOfBytes m := by
  induction l with
  | nil => simp [natOfBytes]
  | cons x l ih =>
    rw [List.cons_append, natOfBytes, natOfBytes, ih, List.length_cons, Nat.pow_succ']
    ring

theorem natOfBytes_lt (l : List (BitVec 8)) : natOfBytes l < 256 ^ l.length := by
  induction l with
  | nil => simp [natOfBytes]
  | cons x l ih =>
    have := x.isLt
    rw [natOfBytes, List.length_cons, Nat.pow_succ']
    omega

theorem rdBytes_add (m : Nat) : s.rdBytes host a (n + m) = s.rdBytes host a n ++ s.rdBytes host (a + n) m := by
  induction n generalizing a with
  | zero => simp [State.rdBytes]
  | succ n ih => rw [Nat.succ_add, State.rdBytes, ih, State.rdBytes, List.cons_append, Nat.add_assoc a 1 n, Nat.add_comm 1 n]

theorem accBytes_le (f : SeqF) : accBytes f ≤ 8 := by
  have small : f.w.toNat ≤ 3 := by have := f.w.isLt; omega
  exact (Nat.pow_le_pow_right (n := 2) (by decide) small)

theorem rdNat_lt : s.rdNat host a n < 256 ^ n := by
  have := natOfBytes_lt (s.rdBytes host a n)
  rwa [State.rdBytes_length] at this

theorem rdNat_accBytes {f : SeqF} : s.rdNat host a (accBytes f) < 2 ^ 64 := by
  have wide : 256 ^ accBytes f ≤ 256 ^ 8 := Nat.pow_le_pow_right (by decide) (accBytes_le f)
  have := rdNat_lt (s := s) (host := host) (a := a) (n := accBytes f)
  omega

theorem toNat_ofNat_rdNat {f : SeqF} :
    (BitVec.ofNat 64 (s.rdNat host a (accBytes f))).toNat = s.rdNat host a (accBytes f) :=
  (BitVec.toNat_ofNat ..).trans (Nat.mod_eq_of_lt rdNat_accBytes)

theorem rdNat_add (m : Nat) : s.rdNat host a (n + m) = s.rdNat host a n + 256 ^ n * s.rdNat host (a + n) m := by
  rw [State.rdNat, rdBytes_add, natOfBytes_append, State.rdBytes_length]
  rfl

theorem rdNat_of_rdByte (h : ∀ b, t.rdByte host b = s.rdByte host b) : t.rdNat host a n = s.rdNat host a n :=
  congrArg natOfBytes (State.rdBytes_congr host a n h)

/-- A half of a 64-bit number in memory is the number at the half's place (R185). -/
theorem halfOf_rdNat (high : Bool) :
    halfOf high (BitVec.ofNat 64 (s.rdNat host a 8)) = s.rdNat host (a + halfAt high) 4 := by
  have low := rdNat_lt (s := s) (host := host) (a := a) (n := 4)
  have up := rdNat_lt (s := s) (host := host) (a := a + 4) (n := 4)
  have whole := rdNat_add (s := s) (host := host) (a := a) (n := 4) 4
  norm_num at low up whole
  rw [halfOf, BitVec.toNat_ofNat]
  cases high <;> norm_num [halfAt] <;> omega

end Sys2Proof.Machine

namespace Sys2Proof.Claims

open Sys2Proof.Machine

variable {s t u : State} {p q n a b v : Nat} {host : Bool}

theorem stored_wrNat : Stored s (s.wrNat host a n v) host a n v := by
  intro g b
  rw [State.wrNat, rdByte_wrBytes, length_bytesOfNat]
  refine ite_agree .rfl (fun inside => getD_bytesOfNat (by omega)) fun _ => rfl

/-- The bytes of a number are those of its remainder. -/
theorem Stored.of_mod (h : Stored s t host a n (v % 256 ^ n)) : Stored s t host a n v := by
  intro g b
  rw [h g b]
  refine ite_agree .rfl (fun inside => ?_) fun _ => rfl
  apply BitVec.eq_of_toNat_eq
  have split : 256 ^ n = 256 ^ (b - a) * 256 ^ (n - (b - a)) := by rw [← Nat.pow_add]; congr 1; omega
  have more : 256 ∣ 256 ^ (n - (b - a)) := dvd_pow_self _ (by omega)
  rw [BitVec.toNat_ofNat, BitVec.toNat_ofNat, split, Nat.mod_mul_right_div_self]
  exact Nat.mod_mod_of_dvd _ more

theorem Stored.of_bytes (h : SameBytes s u) (stored : Stored u t host a n v) : Stored s t host a n v := fun g b => by
  rw [stored g b, h]

/-- A half of a register is stored from the byte of the register at which the half begins. -/
theorem Stored.of_half {high : Bool} {w : BitVec 64} (h : Stored s t host a 4 (halfOf high w)) :
    Stored s t host a 4 (w.toNat / 256 ^ halfByte high) := by
  refine Stored.of_mod ?_
  have place : halfOf high w = w.toNat / 256 ^ halfByte high % 256 ^ 4 := by cases high <;> rfl
  rwa [← place]

end Sys2Proof.Claims

namespace Sys2Proof.Machine

variable {s t u v : State} {p q n pa due : Nat} {opc o : BitVec 8} {f : SeqF} {va w : BitVec 64} {host : Bool} {k : AccKind}
  {cause : BitVec 8} {i : Instr}

/-! ### The memory instructions (Table 5-10) -/

/-- A memory instruction: its opcode, and the kind of its access. -/
structure AccessAs (i : Instr) (f : SeqF) (k : AccKind) (opc : BitVec 8) : Prop where
  run : ∀ s, exec i s = memIssue opc f s
  word : encode i = some (seqPack opc f)
  kind : memKind opc.toNat = k
  moves : opc.toNat ≠ 0x5C ∧ opc.toNat ≠ 0x5D

theorem accessRow_as (h : Claims.accessRow i = some (f, k)) : ∃ opc, AccessAs i f k opc := by
  unfold Claims.accessRow at h
  split at h <;> cases h <;> exact ⟨_, fun _ => rfl, rfl, rfl, by decide⟩

theorem loadRow_as {signed : Bool} (h : Claims.loadRow i = some (f, signed)) :
    ∃ opc, AccessAs i f .read opc ∧ (opc.toNat = 0x51 ↔ signed = true) := by
  unfold Claims.loadRow at h
  split at h <;> cases h <;> exact ⟨_, ⟨fun _ => rfl, rfl, rfl, by decide⟩, by decide⟩

theorem storeRow_as (h : Claims.storeRow i = some f) : ∃ opc, AccessAs i f .write opc := by
  unfold Claims.storeRow at h
  split at h <;> cases h <;> exact ⟨_, fun _ => rfl, rfl, rfl, by decide⟩

/-! ### The new value of an atomic (Table 5-11) -/

theorem and_ones {x : BitVec 64} (h : n ≤ 64) : (x &&& BitVec.ofNat 64 (2 ^ n - 1)).toNat = x.toNat % 2 ^ n := by
  have small : 2 ^ n - 1 < 2 ^ 64 := by
    have := Nat.pow_le_pow_right (n := 2) (by decide) h
    have := Nat.two_pow_pos n
    omega
  rw [BitVec.toNat_and, BitVec.toNat_ofNat, Nat.mod_eq_of_lt small, Nat.and_two_pow_sub_one_eq_mod]

theorem sext_mod (x : Nat) : sext (x % 2 ^ n) n = sext x n := by
  unfold sext
  rw [Nat.mod_mod]

theorem atomicRow_as {g : Nat → Nat → Nat → Nat → Nat} (h : Claims.atomicRow i = some (f, g)) :
    ∃ opc, AccessAs i f .atomic opc ∧ ∀ (n : Nat) (old b d : BitVec 64), n ≤ 64 → old.toNat < 2 ^ n →
      (atomicNew opc.toNat n old b d).toNat = g n old.toNat b.toNat d.toNat := by
  unfold Claims.atomicRow at h
  split at h <;> cases h
  case h_1 =>
    refine ⟨0x55, ⟨fun _ => rfl, rfl, rfl, by decide⟩, fun n old b d low _ => (and_ones low).trans ?_⟩
    rw [BitVec.toNat_add, Nat.mod_mod_of_dvd _ (Nat.pow_dvd_pow 2 low)]
  case h_2 => exact ⟨0x56, ⟨fun _ => rfl, rfl, rfl, by decide⟩, fun n old b d low _ => and_ones low⟩
  case h_3 =>
    refine ⟨0x57, ⟨fun _ => rfl, rfl, rfl, by decide⟩, fun n old b d low _ => (apply_ite BitVec.toNat ..).trans ?_⟩
    exact ite_agree (by rw [BitVec.toNat_eq, and_ones low]) (fun _ => and_ones low) fun _ => rfl
  case h_4 =>
    refine ⟨0x58, ⟨fun _ => rfl, rfl, rfl, by decide⟩, fun n old b d low _ => (apply_ite BitVec.toNat ..).trans ?_⟩
    exact ite_agree (by rw [sext_mod]) (fun _ => and_ones low) fun _ => rfl
  case h_5 =>
    refine ⟨0x59, ⟨fun _ => rfl, rfl, rfl, by decide⟩, fun n old b d low _ => (apply_ite BitVec.toNat ..).trans ?_⟩
    exact ite_agree (by rw [sext_mod]) (fun _ => and_ones low) fun _ => rfl
  case h_6 =>
    refine ⟨0x5A, ⟨fun _ => rfl, rfl, rfl, by decide⟩, fun n old b d low _ => (BitVec.toNat_or ..).trans ?_⟩
    rw [and_ones low]
  case h_7 =>
    refine ⟨0x5B, ⟨fun _ => rfl, rfl, rfl, by decide⟩, fun n old b d low small => (BitVec.toNat_and ..).trans ?_⟩
    dsimp only
    rw [← Nat.and_two_pow_sub_one_eq_mod, Nat.and_comm b.toNat, ← Nat.and_assoc, Nat.and_two_pow_sub_one_eq_mod,
      Nat.mod_eq_of_lt small]

/-! ### An access as issued (R75, R86, R325) -/

theorem addr_eq (c : Ctx) : c.addr f = Claims.seqVa c f := add_immW

theorem checkAddr_reads : Reads s (checkAddr s p va n k).2 := by
  unfold checkAddr
  split
  · exact .refl s
  split
  · exact .refl s
  · exact translate_reads

theorem memIssue_of_fault (pass : guardOk s.curCtx f = true)
    (h : checkAddr s s.cur.p (Claims.seqVa s.curCtx f) (2 ^ f.w.toNat) (memKind opc.toNat) = (.fault cause, u)) :
    memIssue opc f s = .next (addrTrap u cause (Claims.seqVa s.curCtx f) (memKind opc.toNat)) := by
  rw [memIssue, Claims.issueWith_of_guardOk pass]
  dsimp only
  rw [addr_eq, accBytes, h]

/-- An access that passes its checks is under way, or is one that will time out at a memory stile. -/
theorem memIssue_of_ok (pass : guardOk s.curCtx f = true)
    (h : checkAddr s s.cur.p (Claims.seqVa s.curCtx f) (2 ^ f.w.toNat) (memKind opc.toNat) = (.ok pa host, u)) :
    ∃ t w n, memIssue opc f s = .next t ∧ t = { u with free := n }.setCurCtx
        { u.curCtx.charge 1 1 with wait := w, since := u.fc s.cur.p } ∧ ∃ due op, w = .busy due op ∧
      (op = .timeout (Claims.seqVa s.curCtx f) ∨ op = .access (seqPack opc f) (Claims.seqVa s.curCtx f)) := by
  rw [memIssue, Claims.issueWith_of_guardOk pass]
  dsimp only
  rw [addr_eq, accBytes, h]
  refine ⟨_, _, u.free + 1, rfl, rfl, ?_⟩
  split
  · exact ⟨_, _, rfl, .inl rfl⟩
  · exact ⟨_, _, rfl, .inr rfl⟩

/-! ### An access that performs (R86 to R88, R160, R185) -/

theorem seqOpComplete_access {p : Fin 32} {q : Fin 4} (wait : (s.ctx p q).wait = .busy due (.access w va))
    (isDue : due ≤ s.fc p) : exec (.seqOpComplete p q) s = .next (memComplete s p q w va) := by
  show execSeqOpComplete p q s = _
  simp [execSeqOpComplete, wait, Nat.not_lt.mpr isDue]

theorem seqOpComplete_timeout {p : Fin 32} {q : Fin 4} (wait : (s.ctx p q).wait = .busy due (.timeout va))
    (isDue : due ≤ s.fc p) : exec (.seqOpComplete p q) s = .next (memTimeout s p q va) := by
  show execSeqOpComplete p q s = _
  simp [execSeqOpComplete, wait, Nat.not_lt.mpr isDue]

theorem seqOpComplete_half {p : Fin 32} {q : Fin 4} {high : Bool} {got : Nat}
    (wait : (s.ctx p q).wait = .busy due (.half w va pa host high got)) (isDue : due ≤ s.fc p) :
    exec (.seqOpComplete p q) s = .next (memHalf s p q w va pa host high got) := by
  show execSeqOpComplete p q s = _
  simp [execSeqOpComplete, wait, Nat.not_lt.mpr isDue]

theorem AccessAs.memComplete (h : AccessAs i f k opc) :
    memComplete s p q (seqPack opc f) va = memAccess s p q opc.toNat f va := by
  unfold Machine.memComplete
  dsimp only
  rw [seqOpc_seqPack, seqFields_seqPack, if_neg h.moves.1, if_neg h.moves.2]

/-- The word kept for an access's other half names the access. -/
theorem AccessAs.half (h : AccessAs i f k opc) : let word := seqPack (BitVec.ofNat 8 opc.toNat) f
    memKind (seqOpc word).toNat = k ∧ seqFields word = f := by
  intro word
  refine ⟨?_, seqFields_seqPack _ f⟩
  rw [seqOpc_seqPack, BitVec.ofNat_toNat, BitVec.setWidth_eq]
  exact h.kind

theorem Reads.free (h : Reads s u) : Reads s { u with free := n } := ⟨h.inner, h.byte, h.cur⟩

/-- The state in which a context acts. -/
def acting (s : State) (p q : Nat) : State := { s with cur := { s.cur with p := p, q := q } }

theorem acting_sameReach : SameReach s (acting s p q) := ⟨rfl, rfl, rfl, rfl, rfl, rfl, rfl, rfl, fun _ => rfl⟩

theorem fixLine_badLine {g h : Bool} {a b : Nat} : (s.fixLine g a).badLine h b = s.badLine h b := by
  obtain e | ⟨l, c, e⟩ := fixLine_frame s g a
  · rw [e]
  · rw [e]
    exact congrArg (!h && List.contains · (b / 64)) (pad_updPad_of (·.badLines) rfl _)

theorem fixLines_badLine (l : List Nat) {h : Bool} {b : Nat} : (s.fixLines l).badLine h b = s.badLine h b := by
  induction l generalizing s with
  | nil => rfl
  | cons a l ih => exact (ih (s := s.fixLine false a)).trans fixLine_badLine

/-- A translation leaves the lines that hold uncorrectable errors. -/
theorem translate_badLine {h : Bool} {b : Nat} : (translate s p none va k n).2.badLine h b = s.badLine h b := by
  obtain ⟨m, l, tl, e | e⟩ := translate_frame s p va k n
  · rw [e]
    exact fixLines_badLine (s := { s with free := m }) l
  · rw [e]
    exact (congrArg (!h && List.contains · (b / 64)) (pad_updPad_of (·.badLines) rfl _)).trans (fixLines_badLine l)

/-- What translates, translates alike for the context that acts. -/
theorem translate_acting {x : Xl} (h : translate s p none va k n = (x, u)) :
    ∃ v, translate (acting s p q) p none va k n = (x, v) ∧ Reads (acting s p q) v ∧
      ∀ g b, v.badLine g b = u.badLine g b := by
  refine ⟨(translate (acting s p q) p none va k n).2, ?_, translate_reads, fun g b => ?_⟩
  · rw [show x = (translate s p none va k n).1 by rw [h], ← (acting_sameReach.translate).1]
  · rw [show u = (translate s p none va k n).2 by rw [h], translate_badLine, translate_badLine]
    rfl

/-- An access that is translated, performed (R86 to R88). -/
def performed (s : State) (p q opc : Nat) (f : SeqF) (va : BitVec 64) (pa : Nat) (host : Bool) : State :=
  let k := memKind opc
  let n := accBytes f
  let c := s.ctx p q
  if k == .write then
    match halfFirst s opc n with
    | (some high, s) =>
      awaitHalf (s.wrNat host (pa + halfAt high) 4 (halfOf high (c.opB f))) p q opc f va pa host high 0
    | (none, s) =>
      let s := s.wrNat host pa n (c.opB f).toNat
      s.setCtx p q { memDone c 0 id with hostWrite := if host then some va else c.hostWrite }
  else if s.badLine host pa then precise (uncharge s p q) cECC_UE (some va) none
  else
    let s := s.fixLine host pa
    let old := BitVec.ofNat 64 (s.rdNat host pa n)
    if k == .atomic then
      let s := s.wrNat host pa n (atomicNew opc (8 * n) old (c.opB f) (c.rd f.d)).toNat
      s.setCtx p q (memDone c 0 (·.wr f.d old))
    else
      match halfFirst s opc n with
      | (some high, s) => awaitHalf s p q opc f va pa host high (halfOf high old)
      | (none, s) =>
        let v := if opc = 0x51 then wrap64 (sext old.toNat (8 * n)) else old
        s.setCtx p q (memDone c 0 (·.wr f.d v))

theorem memAccess_of_ok {opc : Nat}
    (h : translate (acting s p q) p none va (memKind opc) (2 ^ f.w.toNat) = (.ok pa host, v)) :
    memAccess s p q opc f va = performed v p q opc f va pa host := by
  unfold memAccess
  dsimp only
  rw [← accBytes] at h
  rw [show ({ s with cur := { s.cur with p := p, q := q } } : State) = acting s p q from rfl, h]
  rfl

theorem memAccess_of_fault {opc : Nat}
    (h : translate (acting s p q) p none va (memKind opc) (2 ^ f.w.toNat) = (.fault cause, v)) :
    memAccess s p q opc f va = addrTrap (uncharge v p q) cause va (memKind opc) := by
  unfold memAccess
  dsimp only
  rw [← accBytes] at h
  rw [show ({ s with cur := { s.cur with p := p, q := q } } : State) = acting s p q from rfl, h]

/-- Which half comes first, if one does, is a free choice of a 64-bit access. -/
theorem halfFirst_frame {opc : Nat} : ∃ m, (halfFirst s opc n).2 = { s with free := m } ∧
    ∀ high, (halfFirst s opc n).1 = some high → n = 8 := by
  unfold halfFirst
  split
  · rename_i wide
    dsimp only
    split
    · exact ⟨_, rfl, fun _ _ => wide.1⟩
    · exact ⟨_, rfl, nofun⟩
  · exact ⟨s.free, rfl, nofun⟩

/-- A context that waits for the other half of its access. -/
theorem awaitHalf_frame {opc got : Nat} {high : Bool} : ∃ m due, awaitHalf s p q opc f va pa host high got =
    ({ s with free := m } : State).setCtx p q { s.ctx p q with
      wait := .busy due (.half (seqPack (BitVec.ofNat 8 opc) f) va pa host high got) } := ⟨_, _, rfl⟩

/-- One context written alike. -/
theorem SameInner.updCtx {f : Ctx → Ctx} (e : SameInner s t) : SameInner (s.updCtx p q f) (t.updCtx p q f) := by
  intro h
  obtain ⟨ctxs, tiles, regions, behind⟩ := e.fields h
  by_cases at_ : h = p
  · subst at_
    rw [State.updCtx, State.updCtx, State.setCtx, State.setCtx, State.pad_setPad_same, State.pad_setPad_same, e.ctx]
    simp only [Paddock.inner, Paddock.setCtx, ctxs, tiles, regions, behind]
  · exact (congrArg Paddock.inner (State.pad_setPad_other _ _ _ _ at_)).trans
      ((e h).trans (congrArg Paddock.inner (State.pad_setPad_other _ _ _ _ at_)).symm)

/-- Whether a load's other half is late, the acting context does not say. -/
theorem halfLate_acting : halfLate (acting s p q) p q va = halfLate s p q va := by
  have walk : walkPa (acting s p q) p va = walkPa s p va := by
    unfold walkPa
    rw [acting_sameReach.asidOf]
    simp only [acting_sameReach.xlWalk]
  unfold halfLate viaStile
  rw [walk]
  rfl

end Sys2Proof.Machine

namespace Sys2Proof.Claims

open Sys2Proof.Machine

variable {s t u v : State} {p q n pa due opc got : Nat} {o : BitVec 8} {f : SeqF} {va w : BitVec 64} {host high : Bool}
  {k : AccKind} {cause : BitVec 8} {i : Instr}

/-! ### What an access leaves -/

/-- The acting context is no part of what a trap leaves. -/
theorem enters_of_acting {epc : BitVec 64} {v1 v2 : Option (BitVec 64)} (h : Enters (acting s p q) t p q epc cause v1 v2) :
    Enters s t p q epc cause v1 v2 := { h with }

/-! What is done from a state with the same context, or the same bytes, is done from the state itself. -/

theorem Completes.of_ctx {ib tb : Nat} (h : u.ctx p q = s.ctx p q) (c : Completes u t p q ib tb) :
    Completes s t p q ib tb := by
  obtain ⟨pc, ibud, tbud, wait⟩ := c
  rw [h] at pc ibud tbud
  exact ⟨pc, ibud, tbud, wait⟩

theorem NoWrite.of_ctx (h : u.ctx p q = s.ctx p q) (c : NoWrite u t p q) : NoWrite s t p q := fun r => by
  rw [c r, h]

theorem Writes.of_ctx {r : BitVec 5} (h : u.ctx p q = s.ctx p q) (c : Writes u t p q r w) : Writes s t p q r w := fun e => by
  rw [c e, h]

theorem SameBytes.of_bytes (h : SameBytes s u) (c : SameBytes u t) : SameBytes s t := fun g b => (c g b).trans (h g b)

theorem wrNat_ctx {a m b h k : Nat} : (s.wrNat host a m b).ctx h k = s.ctx h k := wrBytes_sameInner.ctx h k

/-- An instruction is done that writes no register. -/
theorem completes_of_memDone {tb : Nat} {x : Option (BitVec 64)}
    (ctx : t.ctx p q = { memDone (s.ctx p q) tb id with hostWrite := x }) : Completes s t p q 0 tb ∧ NoWrite s t p q := by
  refine ⟨⟨?_, ?_, ?_, ?_⟩, fun r => ?_⟩ <;> rw [ctx]
  all_goals rfl

/-- An instruction is done that writes a register. -/
theorem completes_of_memDone_wr {r : BitVec 5} (ctx : t.ctx p q = memDone (s.ctx p q) 0 (·.wr r w)) :
    Completes s t p q 0 0 ∧ Writes s t p q r w := by
  refine ⟨⟨?_, ?_, ?_, ?_⟩, fun e => ?_⟩ <;> rw [ctx]
  · exact Ctx.wr_pc ..
  · exact Ctx.wr_ibud ..
  · exact Ctx.wr_tbud ..
  · rfl
  · exact Ctx.rd_wr ..

/-! ### An access performed -/

/-- A half of an access performed: the context waits for the other. -/
theorem awaitHalf_waits (z : s.ctx p q = u.ctx p q) : let t := awaitHalf s p q opc f va pa host high got
    NoWrite u t p q ∧ (t.ctx p q).pc = (u.ctx p q).pc ∧
      (∃ due, (t.ctx p q).wait = .busy due (.half (seqPack (BitVec.ofNat 8 opc) f) va pa host high got)) ∧
      SameBytes s t := by
  intro t
  obtain ⟨m, due, e⟩ := awaitHalf_frame (s := s) (p := p) (q := q) (opc := opc) (f := f) (va := va) (pa := pa)
    (host := host) (high := high) (got := got)
  have ctx : t.ctx p q = { u.ctx p q with
      wait := .busy due (.half (seqPack (BitVec.ofNat 8 opc) f) va pa host high got) } := by
    rw [← z]
    exact (congrArg (·.ctx p q) e).trans (State.ctx_setCtx_same ..)
  refine ⟨fun r => ?_, ?_, ⟨due, ?_⟩, fun g b => congrArg (·.rdByte g b) e⟩
  · rw [ctx]
    rfl
  · rw [ctx]
  · rw [ctx]

/-- A store writes its bytes, or a half of them and waits for the other. -/
theorem performed_store (kind : memKind opc = .write) : let t := performed s p q opc f va pa host
    NoWrite s t p q ∧
      ((Completes s t p q 0 0 ∧ Stored s t host pa (2 ^ f.w.toNat) ((s.ctx p q).rd f.b).toNat) ∨
      2 ^ f.w.toNat = 8 ∧ (t.ctx p q).pc = (s.ctx p q).pc ∧ ∃ due high,
        (t.ctx p q).wait = .busy due (.half (seqPack (BitVec.ofNat 8 opc) f) va pa host high 0) ∧
        Stored s t host (pa + halfByte high) 4 (((s.ctx p q).rd f.b).toNat / 256 ^ halfByte high)) := by
  obtain ⟨m, state, wide⟩ := halfFirst_frame (s := s) (n := accBytes f) (opc := opc)
  unfold performed
  dsimp only
  rw [if_pos (by rw [kind]; rfl)]
  generalize halfFirst s opc (accBytes f) = x at state wide
  obtain ⟨o, x⟩ := x
  dsimp only at state wide
  subst state
  cases o with
  | some high =>
    obtain ⟨regs, pc, ⟨due, wait⟩, bytes⟩ := awaitHalf_waits (u := s) (p := p) (q := q) (opc := opc) (f := f)
      (va := va) (pa := pa) (host := host) (high := high) (got := 0) (s := ({ s with free := m } : State).wrNat host
        (pa + halfAt high) 4 (halfOf high ((s.ctx p q).opB f))) wrNat_ctx
    refine ⟨regs, .inr ⟨wide high rfl, pc, due, high, wait, fun g b => ?_⟩⟩
    exact (bytes g b).trans (Stored.of_half (s := { s with free := m }) stored_wrNat g b)
  | none =>
    obtain ⟨done, regs⟩ := completes_of_memDone (s := s) (p := p) (q := q) (tb := 0)
      (x := if host then some va else (s.ctx p q).hostWrite) (State.ctx_setCtx_same
        (({ s with free := m } : State).wrNat host pa (accBytes f) ((s.ctx p q).opB f).toNat) p q _)
    exact ⟨regs, .inl ⟨done, fun g b => stored_wrNat (s := { s with free := m }) g b⟩⟩

/-- A load whose line is good writes its register, or reads a half and waits for the other. -/
theorem performed_load (kind : memKind opc = .read) (good : s.badLine host pa = false) :
    let t := performed s p q opc f va pa host
    let n := 2 ^ f.w.toNat
    SameBytes s t ∧ (Completes s t p q 0 0 ∧ Writes s t p q f.d
        (if opc = 0x51 then BitVec.ofInt 64 (sext (s.rdNat host pa n) (8 * n)) else BitVec.ofNat 64 (s.rdNat host pa n)) ∨
      n = 8 ∧ NoWrite s t p q ∧ (t.ctx p q).pc = (s.ctx p q).pc ∧ ∃ due high, (t.ctx p q).wait =
        .busy due (.half (seqPack (BitVec.ofNat 8 opc) f) va pa host high (s.rdNat host (pa + halfByte high) 4))) := by
  have fixed : Reads s (s.fixLine host pa) := fixLine_reads
  have num (a n : Nat) : (s.fixLine host pa).rdNat host a n = s.rdNat host a n := rdNat_of_rdByte fun b => fixed.byte host b
  obtain ⟨m, state, wide⟩ := halfFirst_frame (s := s.fixLine host pa) (n := accBytes f) (opc := opc)
  unfold performed
  dsimp only
  rw [if_neg (by rw [kind]; decide), if_neg (by simp [good]), if_neg (by rw [kind]; decide), num]
  generalize halfFirst (s.fixLine host pa) opc (accBytes f) = x at state wide
  obtain ⟨o, x⟩ := x
  dsimp only at state wide
  subst state
  cases o with
  | some high =>
    obtain ⟨regs, pc, ⟨due, wait⟩, bytes⟩ := awaitHalf_waits (u := s) (p := p) (q := q) (opc := opc) (f := f)
      (va := va) (pa := pa) (host := host) (high := high)
      (got := halfOf high (BitVec.ofNat 64 (s.rdNat host pa (accBytes f)))) (s := { s.fixLine host pa with free := m })
      (fixed.inner.ctx p q)
    have eight : accBytes f = 8 := wide high rfl
    refine ⟨fun g b => (bytes g b).trans (fixed.byte g b), .inr ⟨eight, regs, pc, due, high, wait.trans ?_⟩⟩
    rw [eight, halfOf_rdNat]
    rfl
  | none =>
    rw [toNat_ofNat_rdNat]
    obtain ⟨done, writes⟩ := completes_of_memDone_wr (State.ctx_setCtx_same ({ s.fixLine host pa with free := m }) p q
      (memDone (s.ctx p q) 0 (·.wr f.d _)))
    exact ⟨fixed.byte, .inl ⟨done, writes⟩⟩

/-- An atomic whose line is good writes the old value into its register, and the new one at its place (R88). -/
theorem performed_atomic (kind : memKind opc = .atomic) (good : s.badLine host pa = false) :
    let t := performed s p q opc f va pa host
    let n := 2 ^ f.w.toNat
    let old := BitVec.ofNat 64 (s.rdNat host pa n)
    Completes s t p q 0 0 ∧ Writes s t p q f.d old ∧
      Stored s t host pa n (atomicNew opc (8 * n) old ((s.ctx p q).rd f.b) ((s.ctx p q).rd f.d)).toNat := by
  have fixed : Reads s (s.fixLine host pa) := fixLine_reads
  have num (a n : Nat) : (s.fixLine host pa).rdNat host a n = s.rdNat host a n := rdNat_of_rdByte fun b => fixed.byte host b
  unfold performed
  dsimp only
  rw [if_neg (by rw [kind]; decide), if_neg (by simp [good]), if_pos (by rw [kind]; rfl), num]
  obtain ⟨done, writes⟩ := completes_of_memDone_wr (State.ctx_setCtx_same _ p q
    (memDone (s.ctx p q) 0 (·.wr f.d (BitVec.ofNat 64 (s.rdNat host pa (accBytes f))))))
  exact ⟨done, writes, fun g b => Stored.of_bytes fixed.byte stored_wrNat g b⟩

/-! ### An access that traps as it performs (R76, R160) -/

/-- A precise trap of an access that performs: what its issue charged is given back (R76; log 32). -/
theorem precise_uncharge_enters {v1 v2 : Option (BitVec 64)} (h : Reads (acting s p q) v) :
    Enters (refunded s p q) (precise (uncharge v p q) cause v1 v2) p q (s.ctx p q).pc cause v1 v2 := by
  have back : Reads (acting (refunded s p q) p q) (uncharge v p q) :=
    ⟨h.inner.updCtx (p := p) (q := q) (f := fun c => { c with ibud := c.ibud + 1, tbud := c.tbud + 1 }), h.byte, h.cur⟩
  have pc : (acting (refunded s p q) p q).curCtx.pc = (s.ctx p q).pc := by
    show ((refunded s p q).ctx p q).pc = _
    rw [refunded, State.updCtx, State.ctx_setCtx_same]
  rw [← pc]
  exact enters_of_acting (precise_of_reads back)

/-- An access whose translation fails as it performs takes the fault. -/
theorem memAccess_fault_enters {x : State} (h : translate s p none va (memKind opc) (2 ^ f.w.toNat) = (.fault cause, x)) :
    Enters (refunded s p q) (memAccess s p q opc f va) p q (s.ctx p q).pc cause (some va)
      (some (BitVec.ofNat 64 (memKind opc).code)) := by
  obtain ⟨v, again, reads, -⟩ := translate_acting h
  rw [memAccess_of_fault again]
  exact precise_uncharge_enters reads

/-- An access that is translated is performed in a state reached by reading. -/
theorem memAccess_performs {x : State} (h : translate s p none va (memKind opc) (2 ^ f.w.toNat) = (.ok pa host, x)) :
    ∃ v, memAccess s p q opc f va = performed v p q opc f va pa host ∧ v.ctx p q = s.ctx p q ∧
      SameBytes s v ∧ v.badLine host pa = x.badLine host pa := by
  obtain ⟨v, again, reads, line⟩ := translate_acting h
  exact ⟨v, memAccess_of_ok again, reads.inner.ctx p q, reads.byte, line host pa⟩

/-- A load or an atomic of a line with an uncorrectable error takes ECC_UE (R160). -/
theorem memAccess_bad_enters {x : State} (h : translate s p none va (memKind opc) (2 ^ f.w.toNat) = (.ok pa host, x))
    (reading : memKind opc ≠ .write) (bad : x.badLine host pa = true) :
    Enters (refunded s p q) (memAccess s p q opc f va) p q (s.ctx p q).pc cECC_UE (some va) none := by
  obtain ⟨v, again, reads, line⟩ := translate_acting h
  rw [memAccess_of_ok again]
  unfold performed
  dsimp only
  rw [if_neg (by simpa using reading), if_pos ((line ..).trans bad)]
  exact precise_uncharge_enters reads

/-! ### The other half of an access (R185) -/

/-- A store's other half is written at the place of the first. -/
theorem memHalf_store (kind : memKind (seqOpc w).toNat = .write) : let t := memHalf s p q w va pa host high got
    Completes s t p q 0 0 ∧ NoWrite s t p q ∧ Stored s t host (pa + halfByte !high) 4
      (((s.ctx p q).rd (seqFields w).b).toNat / 256 ^ halfByte !high) := by
  unfold memHalf
  dsimp only
  rw [if_pos (by rw [kind]; rfl)]
  obtain ⟨done, regs⟩ := completes_of_memDone (s := s) (p := p) (q := q) (tb := 0)
    (x := if host then some va else (s.ctx p q).hostWrite) (State.ctx_setCtx_same
      ((acting s p q).wrNat host (pa + halfAt !high) 4 (halfOf (!high) ((s.ctx p q).opB (seqFields w)))) p q _)
  exact ⟨done, regs, fun g b => Stored.of_half (s := acting s p q) stored_wrNat g b⟩

/-- A load's other half in time is translated as it performs. -/
def halfRead (s : State) (p q : Nat) (f : SeqF) (va : BitVec 64) (pa : Nat) (host high : Bool) (got : Nat) : State :=
  if s.badLine host pa then precise (uncharge s p q) cECC_UE (some va) none
  else
    let s := s.fixLine host pa
    let rest := s.rdNat host (pa + halfAt !high) 4
    let v := if high then got * 2 ^ 32 + rest else rest * 2 ^ 32 + got
    s.setCtx p q (memDone (s.ctx p q) 0 (·.wr f.d (BitVec.ofNat 64 v)))

theorem memHalf_read (kind : memKind (seqOpc w).toNat = .read) : memHalf s p q w va pa host high got =
    if halfLate s p q va then memTimeout s p q va else match translate (acting s p q) p none va .read 8 with
      | (.fault c, s) => addrTrap (uncharge s p q) c va .read
      | (.ok pa host, s) => halfRead s p q (seqFields w) va pa host high got := by
  unfold memHalf
  dsimp only
  rw [if_neg (by rw [kind]; decide), ← halfLate_acting (s := s)]
  rfl

/-- A request that timed out takes STILE_TMO (R325). -/
theorem memTimeout_enters :
    Enters (refunded s p q) (memTimeout s p q va) p q (s.ctx p q).pc cSTILE_TMO (some va) none :=
  precise_uncharge_enters (.refl _)

theorem memHalf_fault_enters {x : State} (kind : memKind (seqOpc w).toNat = .read) (soon : halfLate s p q va = false)
    (h : translate s p none va .read 8 = (.fault cause, x)) :
    Enters (refunded s p q) (memHalf s p q w va pa host high got) p q (s.ctx p q).pc cause (some va)
      (some (BitVec.ofNat 64 AccKind.read.code)) := by
  obtain ⟨v, again, reads, -⟩ := translate_acting (q := q) h
  rw [memHalf_read kind, soon, if_neg Bool.false_ne_true, again]
  exact precise_uncharge_enters reads

theorem memHalf_bad_enters {x : State} {pb : Nat} {hb : Bool} (kind : memKind (seqOpc w).toNat = .read)
    (soon : halfLate s p q va = false) (h : translate s p none va .read 8 = (.ok pb hb, x)) (bad : x.badLine hb pb = true) :
    Enters (refunded s p q) (memHalf s p q w va pa host high got) p q (s.ctx p q).pc cECC_UE (some va) none := by
  obtain ⟨v, again, reads, line⟩ := translate_acting (q := q) h
  rw [memHalf_read kind, soon, if_neg Bool.false_ne_true, again]
  dsimp only
  rw [halfRead, if_pos ((line ..).trans bad)]
  exact precise_uncharge_enters reads

theorem memHalf_load {x : State} {pb : Nat} {hb : Bool} (kind : memKind (seqOpc w).toNat = .read)
    (soon : halfLate s p q va = false) (h : translate s p none va .read 8 = (.ok pb hb, x)) (good : x.badLine hb pb = false) :
    let t := memHalf s p q w va pa host high got
    let rest := s.rdNat hb (pb + halfByte !high) 4
    Completes s t p q 0 0 ∧ SameBytes s t ∧ Writes s t p q (seqFields w).d
      (BitVec.ofNat 64 (if high then got * 2 ^ 32 + rest else rest * 2 ^ 32 + got)) := by
  obtain ⟨v, again, reads, line⟩ := translate_acting (q := q) h
  rw [memHalf_read kind, soon, if_neg Bool.false_ne_true, again]
  dsimp only
  have fixed : Reads (acting s p q) (v.fixLine hb pb) := reads.trans fixLine_reads
  have num : (v.fixLine hb pb).rdNat hb (pb + halfAt !high) 4 = s.rdNat hb (pb + halfByte !high) 4 :=
    rdNat_of_rdByte (s := acting s p q) fun b => fixed.byte hb b
  rw [halfRead, if_neg (by simp [line, good])]
  dsimp only
  rw [num, fixed.inner.ctx]
  obtain ⟨done, writes⟩ := completes_of_memDone_wr (State.ctx_setCtx_same (v.fixLine hb pb) p q
    (memDone ((acting s p q).ctx p q) 0 (·.wr (seqFields w).d _)))
  exact ⟨.of_ctx (u := acting s p q) rfl done, fixed.byte, writes⟩

end Sys2Proof.Claims

namespace Sys2Proof.Claims

open Sys2Proof.Machine

variable {s t u v : State} {n pa due ib tb since : Nat} {opc : BitVec 8} {f : SeqF} {va : BitVec 64} {host high : Bool}
  {k : AccKind} {cause : BitVec 8} {i : Instr} {p : Fin 32} {q : Fin 4}

/-! ### FENCE and PREF (R89, R90) -/

/-- PREF reads, then is done; the line it moves is charged. -/
theorem prefDone_frame {p q : Nat} : ∃ u tb, Reads s u ∧ tb ≤ 1 ∧
    prefDone s p q va = u.setCtx p q (memDone (u.ctx p q) tb id) := by
  have bit (b : Bool) : b.toNat ≤ 1 := Bool.toNat_le b
  unfold prefDone
  split
  rename_i ok x h
  suffices Reads s x from ⟨_, _, this.free, bit _, rfl⟩
  split at h
  · have reads : Reads s (translate s p none va .pref).2 := translate_reads
    split at h <;> rename_i e <;> cases h <;> rw [e] at reads <;> exact reads
  · cases h
    exact .refl s

/-- What is issued after reading: the context waits at its word, charged. -/
theorem issued_of_reads {w : Wait} (h : Reads s u) (atP : s.cur.p = p) (atQ : s.cur.q = q) (busy : w ≠ .ready) :
    let t := u.setCurCtx { u.curCtx.charge ib tb with wait := w, since := since }
    Issued s t p q ib tb ∧ (t.ctx p q).wait = w := by
  intro t
  have ctx : t.ctx p q = { (s.ctx p q).charge ib tb with wait := w, since := since } := by
    have before : u.curCtx = s.ctx p q := by rw [Reads.curCtx h, State.curCtx, atP, atQ]
    rw [← before, ← atP, ← atQ, ← h.cur]
    exact State.ctx_setCtx_same ..
  refine ⟨⟨?_, ?_, ?_, ?_, fun r => ?_, h.byte⟩, ?_⟩ <;> rw [ctx]
  · exact busy
  all_goals rfl

/-- An access that is due, and that an issue left waiting for op, completes as the access that op is. -/
theorem completes_of_due {op : Pending} (wait : (t.ctx p q).wait = .busy due op) (h : AccessDue t u p q) :
    ∃ w va, op = .access w va ∧ exec (.seqOpComplete p q) u = .next (memComplete u p q w va) := by
  obtain ⟨same, _, w, va, held, isDue⟩ := h
  have both := held
  rw [same, wait] at both
  cases both
  exact ⟨w, va, rfl, seqOpComplete_access held isDue⟩

theorem memWait_issued (pass : guardOk s.curCtx f = true) (atP : s.cur.p = p) (atQ : s.cur.q = q) :
    ∃ t, memWait opc f s va = .next t ∧ Issued s t p q 1 0 ∧ ∀ u, AccessDue t u p q →
      exec (.seqOpComplete p q) u = .next (memComplete u p q (seqPack opc f) va) := by
  obtain ⟨issued, wait⟩ := issued_of_reads (ib := 1) (tb := 0) (since := s.curCtx.since)
    (Reads.free (n := s.free + 1) (.refl s)) atP atQ
    (w := .busy (s.fc s.cur.p + (freeDelay s 0).1) (.access (seqPack opc f) va)) nofun
  refine ⟨_, issueWith_of_guardOk pass, issued, fun u held => ?_⟩
  obtain ⟨w, a, e, done⟩ := completes_of_due wait held
  cases e
  exact done

theorem fenceAndPrefComplete : FenceAndPrefComplete := by
  intro f s p q i isRow pass atP atQ
  obtain rfl | rfl := isRow
  · obtain ⟨t, run, issued, done⟩ := memWait_issued (opc := 0x5C) (va := 0) pass atP atQ
    refine ⟨t, run, issued, fun u due => ⟨_, 0, done u due, by decide, fun _ => rfl, ?_⟩⟩
    obtain ⟨completes, regs⟩ := completes_of_memDone (State.ctx_setCtx_same u p q
      { memDone (u.ctx p q) 0 id with hostWrite := if f.imm.toNat = 5 then none else (u.ctx p q).hostWrite })
    rw [memComplete, seqOpc_seqPack, seqFields_seqPack]
    exact ⟨completes, regs, fun _ _ => rfl⟩
  · obtain ⟨t, run, issued, done⟩ := memWait_issued (opc := 0x5D) (va := s.curCtx.addr f) pass atP atQ
    refine ⟨t, run, issued, fun u due => ?_⟩
    obtain ⟨x, tb, reads, small, pref⟩ := prefDone_frame (s := u) (va := s.curCtx.addr f) (p := p) (q := q)
    have run : memComplete u p q (seqPack 0x5D f) (s.curCtx.addr f) = x.setCtx p q (memDone (x.ctx p q) tb id) := by
      rw [memComplete, seqOpc_seqPack, seqFields_seqPack]
      exact pref
    obtain ⟨completes, regs⟩ := completes_of_memDone (x := (x.ctx p q).hostWrite) (State.ctx_setCtx_same x p q
      (memDone (x.ctx p q) tb id))
    have same : x.ctx p q = u.ctx p q := reads.inner.ctx ..
    exact ⟨_, tb, (done u due).trans (congrArg _ run), small, nofun, completes.of_ctx same, regs.of_ctx same,
      reads.byte⟩

/-! ### An access from its issue on (R75, R86) -/

theorem access_issued (row : AccessAs i f k opc) (pass : guardOk s.curCtx f = true) (atP : s.cur.p = p) (atQ : s.cur.q = q)
    (h : checkAddr s p (seqVa s.curCtx f) (2 ^ f.w.toNat) k = (.ok pa host, u)) : ∃ t, exec i s = .next t ∧
      Issued s t p q 1 1 ∧ ∀ u, AccessDue t u p q →
        exec (.seqOpComplete p q) u = .next (memAccess u p q opc.toNat f (seqVa s.curCtx f)) := by
  have reads : Reads s u := by
    rw [show u = (checkAddr s p (seqVa s.curCtx f) (2 ^ f.w.toNat) k).2 by rw [h]]
    exact checkAddr_reads
  rw [← atP, ← row.kind] at h
  obtain ⟨t, w, n, run, state, due, op, busy, kind⟩ := memIssue_of_ok pass h
  subst state
  obtain ⟨issued, wait⟩ := issued_of_reads (ib := 1) (tb := 1) (since := u.fc s.cur.p) (w := w)
    (reads.free (n := n)) atP atQ
    (by rw [busy]; nofun)
  refine ⟨_, (row.run s).trans run, issued, fun v held => ?_⟩
  obtain ⟨word, a, e, done⟩ := completes_of_due (wait.trans busy) held
  obtain late | access := kind
  · cases e.symm.trans late
  · cases e.symm.trans access
    rw [done, row.memComplete]

theorem loadResult : LoadResult := by
  refine ⟨fun i f signed s p q pa host x isRow pass atP atQ ok => ?_, fun s x p q due word va pa pb host hb high got wait
    kind isDue soon ok good => ?_⟩
  · obtain ⟨opc, row, ext⟩ := loadRow_as isRow
    obtain ⟨t, run, issued, done⟩ := access_issued row pass atP atQ ok
    refine ⟨t, run, issued, fun u x pb hb due ok good => ⟨_, done u due, ?_⟩⟩
    rw [← row.kind] at ok
    obtain ⟨v, run, ctx, bytes, line⟩ := memAccess_performs (p := p) (q := q) ok
    have num (a n : Nat) : v.rdNat hb a n = u.rdNat hb a n := rdNat_of_rdByte fun b => bytes hb b
    obtain ⟨keeps, ends⟩ := performed_load (s := v) (p := p) (q := q) (f := f) (va := seqVa s.curCtx f) row.kind
      (line.trans good)
    rw [run]
    simp only [num, ext] at ends
    refine ⟨.of_bytes bytes keeps, ?_⟩
    obtain ⟨completes, writes⟩ | ⟨wide, regs, pc, due, high, wait⟩ := ends
    · exact .inl ⟨completes.of_ctx ctx, writes.of_ctx ctx⟩
    · exact .inr ⟨wide, regs.of_ctx ctx, pc.trans (congrArg Ctx.pc ctx), due, _, high, wait, row.half⟩
  · obtain ⟨completes, bytes, writes⟩ := memHalf_load (host := host) (pa := pa) (high := high) (got := got) kind soon ok
      good
    exact ⟨_, seqOpComplete_half wait isDue, completes, bytes, writes⟩

theorem storeResult : StoreResult := by
  refine ⟨fun i f s p q pa host x isRow pass atP atQ ok => ?_, fun s p q due word va pa host high got wait kind isDue =>
    ⟨_, seqOpComplete_half wait isDue, memHalf_store kind⟩⟩
  obtain ⟨opc, row⟩ := storeRow_as isRow
  obtain ⟨t, run, issued, done⟩ := access_issued row pass atP atQ ok
  refine ⟨t, run, issued, fun u x pb hb due ok => ⟨_, done u due, ?_⟩⟩
  rw [← row.kind] at ok
  obtain ⟨v, run, ctx, bytes, -⟩ := memAccess_performs (p := p) (q := q) ok
  obtain ⟨regs, ends⟩ := performed_store (s := v) (p := p) (q := q) (f := f) (va := seqVa s.curCtx f)
    (pa := pb) (host := hb) row.kind
  rw [run]
  rw [ctx] at ends
  refine ⟨regs.of_ctx ctx, ?_⟩
  obtain ⟨completes, stored⟩ | ⟨wide, pc, due, high, wait, stored⟩ := ends
  · exact .inl ⟨completes.of_ctx ctx, stored.of_bytes bytes⟩
  · obtain ⟨kind, fields⟩ := row.half
    exact .inr ⟨wide, pc, due, _, high, wait, kind, fields, stored.of_bytes bytes⟩

theorem atomicResult : AtomicResult := by
  refine fun i f g s p q pa host x isRow _ pass atP atQ ok => ?_
  obtain ⟨opc, row, value⟩ := atomicRow_as isRow
  obtain ⟨t, run, issued, done⟩ := access_issued row pass atP atQ ok
  refine ⟨t, run, issued, fun u x pb hb due ok good => ⟨_, done u due, ?_⟩⟩
  rw [← row.kind] at ok
  obtain ⟨v, run, ctx, bytes, line⟩ := memAccess_performs (p := p) (q := q) ok
  obtain ⟨completes, writes, stored⟩ := performed_atomic (s := v) (p := p) (q := q) (f := f) (va := seqVa s.curCtx f)
    row.kind (line.trans good)
  have num : v.rdNat hb pb (2 ^ f.w.toNat) = u.rdNat hb pb (2 ^ f.w.toNat) := rdNat_of_rdByte fun b => bytes hb b
  have same : (BitVec.ofNat 64 (u.rdNat hb pb (2 ^ f.w.toNat))).toNat = u.rdNat hb pb (2 ^ f.w.toNat) :=
    toNat_ofNat_rdNat (f := f)
  have wide : 8 * 2 ^ f.w.toNat ≤ 64 := Nat.mul_le_mul_left 8 (accBytes_le f)
  have small : u.rdNat hb pb (2 ^ f.w.toNat) < 2 ^ (8 * 2 ^ f.w.toNat) := by
    rw [Nat.pow_mul]
    exact rdNat_lt
  have value := value _ _ ((u.ctx p q).rd f.b) ((u.ctx p q).rd f.d) wide (same.trans_lt small)
  rw [num, ctx, value, same] at stored
  rw [num] at writes
  rw [run]
  exact ⟨completes.of_ctx ctx, writes.of_ctx ctx, stored.of_bytes bytes⟩

/-! ### Faults (R86, R160, R325) -/

/-- An access whose checks fault as it issues takes the fault. -/
theorem access_faults (row : AccessAs i f k opc) (pass : guardOk s.curCtx f = true)
    (h : checkAddr s s.cur.p (seqVa s.curCtx f) (2 ^ f.w.toNat) k = (.fault cause, u)) : ∃ t, exec i s = .next t ∧
      Enters s t s.cur.p s.cur.q s.curCtx.pc cause (some (seqVa s.curCtx f)) (some (BitVec.ofNat 64 k.code)) := by
  have reads : Reads s u := by
    rw [show u = (checkAddr s s.cur.p (seqVa s.curCtx f) (2 ^ f.w.toNat) k).2 by rw [h]]
    exact checkAddr_reads
  rw [← row.kind] at h ⊢
  exact ⟨_, (row.run s).trans (memIssue_of_fault pass h), precise_of_reads reads⟩

theorem checkAddr_of_not_canonical {p : Nat} (h : canonical va = false) : checkAddr s p va n k = (.fault cXLATE, s) := by
  simp [checkAddr, h]

theorem checkAddr_of_misaligned {p : Nat} (h : canonical va = true) (odd : va.toNat % n ≠ 0) :
    checkAddr s p va n k = (.fault cMISALIGN, s) := by
  simp [checkAddr, h, odd]

/-- An access that is due performs. -/
theorem access_performs {w : BitVec 64} (row : AccessAs i f k opc) (word : encode i = some w)
    (wait : (s.ctx p q).wait = .busy due (.access w va)) (isDue : due ≤ s.fc p) :
    exec (.seqOpComplete p q) s = .next (memAccess s p q opc.toNat f va) := by
  cases Option.some.inj (word.symm.trans row.word)
  rw [seqOpComplete_access wait isDue, row.memComplete]

end Sys2Proof.Claims

namespace Sys2Proof

open Sys2Proof.Machine Sys2Proof.Claims

/-- Settles O10: an access that is due is translated again, which only reads, and is performed there whole or by halves. -/
theorem loadsAndStores : Obligations.LoadsAndStores := ⟨loadResult, storeResult⟩

/-- Settles O11: an atomic is performed as a load and a store of one place; FENCE and PREF read and are done. -/
theorem atomicsAndFences : Obligations.AtomicsAndFences := ⟨atomicResult, fenceAndPrefComplete⟩

/-- Settles O12: a fault met as an access issues is taken in a state reached by reading, one met as it performs in such a
state with the charge given back. -/
theorem addressFaults : Obligations.AddressFaults := by
  refine ⟨fun i f k s isRow pass => ?_, fun i f k s x p q due w va pa host isRow word wait isDue ok reading bad => ?_,
    fun i f k s x p q due w va c isRow word wait isDue fault => ?_,
    fun s p q due word va pa host high got wait kind isDue => ?_,
    fun s p q due va wait isDue => ⟨_, seqOpComplete_timeout wait isDue, memTimeout_enters⟩⟩
  · obtain ⟨opc, row⟩ := accessRow_as isRow
    exact ⟨fun out => access_faults row pass (checkAddr_of_not_canonical out),
      fun inside odd => access_faults row pass (checkAddr_of_misaligned inside odd),
      fun c x fault => access_faults row pass fault⟩
  · obtain ⟨opc, row⟩ := accessRow_as isRow
    rw [← row.kind] at ok reading
    exact ⟨_, access_performs row word wait isDue, memAccess_bad_enters ok reading bad⟩
  · obtain ⟨opc, row⟩ := accessRow_as isRow
    rw [← row.kind] at fault ⊢
    exact ⟨_, access_performs row word wait isDue, memAccess_fault_enters fault⟩
  · have run := seqOpComplete_half wait isDue
    refine ⟨fun late => ⟨_, run, ?_⟩, fun soon => ⟨fun c x fault => ⟨_, run, memHalf_fault_enters kind soon fault⟩,
      fun pb hb x ok bad => ⟨_, run, memHalf_bad_enters kind soon ok bad⟩⟩⟩
    rw [memHalf_read kind, late, if_pos rfl]
    exact memTimeout_enters

end Sys2Proof

end

/-! ## Element arithmetic (O30)

Each function of the model is the value of its row in Table 6-4 (`fAdd_eq` to `fAgen_eq`), so each instruction fires with
it (`exec_arithRow`); MOV fires with its source (`exec_mov`), which its operand code alone decides. -/

section

namespace Sys2Proof.Machine

variable {a b d r : BitVec 32}

/-! ### Results and flags -/

theorem bne_eq_decide_ne : (a != b) = decide (a ≠ b) := by
  rw [bne, decide_not]
  rfl

theorem nz_eq : nz r = Claims.orNz r := Prod.ext rfl bne_eq_decide_ne

theorem truth_eq (t : Bool) : truth t = Claims.truthOf t := by
  cases t <;> rfl

theorem pick_eq {m : BitVec 32 → BitVec 32 → BitVec 32} (h : m a b = r) : pick m a b = Claims.chosen r a b := by
  subst h
  exact Prod.ext rfl (congrArg (· && _) bne_eq_decide_ne)

/-! ### Values (Table 6-4) -/

theorem shiftLeft_eq_ofNat {w : Nat} (x : BitVec w) (n : Nat) : x <<< n = BitVec.ofNat w (x.toNat * 2 ^ n) := by
  apply BitVec.eq_of_toNat_eq
  rw [BitVec.toNat_shiftLeft, Nat.shiftLeft_eq, BitVec.toNat_ofNat]

theorem ushiftRight_eq_ofNat {w : Nat} (x : BitVec w) (n : Nat) : x >>> n = BitVec.ofNat w (x.toNat / 2 ^ n) := by
  apply BitVec.eq_of_toNat_eq
  have small : x.toNat / 2 ^ n < 2 ^ w := Nat.lt_of_le_of_lt (Nat.div_le_self ..) x.isLt
  rw [BitVec.toNat_ushiftRight, Nat.shiftRight_eq_div_pow, BitVec.toNat_ofNat, Nat.mod_eq_of_lt small]

/-- A rotation is the sum of its two parts, which share no bit. -/
theorem rotateLeft_eq_ofNat {n : Nat} (h : n < 32) :
    a.rotateLeft n = BitVec.ofNat 32 (a.toNat * 2 ^ n + a.toNat / 2 ^ (32 - n)) := by
  rw [BitVec.rotateLeft_eq_rotateLeftAux_of_lt h, BitVec.rotateLeftAux, BitVec.ofNat_add, ← shiftLeft_eq_ofNat,
    ← ushiftRight_eq_ofNat]
  refine (BitVec.add_eq_or_of_and_eq_zero _ _ (BitVec.eq_of_getLsbD_eq fun i _ => ?_)).symm
  rw [BitVec.getLsbD_and, BitVec.getLsbD_shiftLeft, BitVec.getLsbD_ushiftRight, BitVec.getLsbD_zero]
  by_cases low : i < n
  · simp [low]
  · rw [BitVec.getLsbD_of_ge a (32 - n + i) (by omega), Bool.and_false]

theorem fld_eq {w : Nat} (x : BitVec w) (lo n : Nat) : fld x lo n = x.toNat / 2 ^ lo % 2 ^ n := by
  rw [fld, Nat.shiftRight_eq_div_pow]

theorem bfPos_eq : bfPos b = b.toNat % 32 := Claims.fld_zero b 5

theorem bfLen_eq : bfLen b = b.toNat / 32 % 32 + 1 := congrArg (· + 1) (fld_eq b 5 5)

/-- A clamped integer lies between the bounds, and is clamped where it lay outside. -/
theorem clampInt_eq {lo hi v : Int} (h : lo ≤ hi) :
    clampInt lo hi v = (max lo (min hi v), decide (v < lo ∨ hi < v)) := by
  unfold clampInt
  split
  next low => rw [min_eq_right (by omega), max_eq_left (by omega), decide_eq_true (.inl low)]
  next low =>
    split
    next high => rw [min_eq_left (by omega), max_eq_right h, decide_eq_true (.inr high)]
    next high =>
      rw [min_eq_right (by omega), max_eq_right (by omega), decide_eq_false (not_or.2 ⟨low, high⟩)]

theorem fAdd_eq : fAdd a b = (BitVec.ofNat 32 (a.toNat + b.toNat), decide (2 ^ 32 ≤ a.toNat + b.toNat)) := by
  rw [fAdd, BitVec.ofNat_add, BitVec.ofNat_toNat, BitVec.ofNat_toNat, BitVec.setWidth_eq, BitVec.setWidth_eq]

theorem fSub_eq : fSub a b = (BitVec.ofInt 32 (a.toNat - b.toNat), decide (a.toNat < b.toNat)) := by
  refine Prod.ext (BitVec.eq_of_toNat_eq ?_) rfl
  rw [fSub, BitVec.toNat_sub, BitVec.toNat_ofInt]
  omega

theorem fMul_eq : fMul a b = (BitVec.ofInt 32 (a.toInt * b.toInt),
    decide (a.toInt * b.toInt < -2 ^ 31 ∨ 2 ^ 31 - 1 < a.toInt * b.toInt)) := by
  rw [Bool.decide_or, BitVec.ofInt_mul, BitVec.ofInt_toInt, BitVec.ofInt_toInt]
  rfl

theorem fAddsat_eq : fAddsat a b = (BitVec.ofInt 32 (max (-2 ^ 31) (min (2 ^ 31 - 1) (a.toInt + b.toInt))),
    decide (a.toInt + b.toInt < -2 ^ 31 ∨ 2 ^ 31 - 1 < a.toInt + b.toInt)) := by
  rw [fAddsat, clampInt_eq (by decide)]

theorem fShl_eq : fShl a b = (BitVec.ofNat 32 (a.toNat * 2 ^ (b.toNat % 32)),
    decide (0 < b.toNat % 32) && a.getLsbD (32 - b.toNat % 32)) :=
  Prod.ext (shiftLeft_eq_ofNat a _) rfl

theorem fShr_eq : fShr a b = (BitVec.ofNat 32 (a.toNat / 2 ^ (b.toNat % 32)),
    decide (0 < b.toNat % 32) && a.getLsbD (b.toNat % 32 - 1)) :=
  Prod.ext (ushiftRight_eq_ofNat a _) rfl

theorem fSra_eq : fSra a b = (BitVec.ofInt 32 (a.toInt / 2 ^ (b.toNat % 32)),
    decide (0 < b.toNat % 32) && a.getLsbD (b.toNat % 32 - 1)) := by
  refine Prod.ext ?_ rfl
  rw [fSra, shAmt, BitVec.sshiftRight, Int.shiftRight_eq_div_pow]
  norm_cast

theorem fRot_eq : fRot a b =
    (let r := BitVec.ofNat 32 (a.toNat * 2 ^ (b.toNat % 32) + a.toNat / 2 ^ (32 - b.toNat % 32))
     (r, r.getLsbD 0)) := by
  rw [fRot, shAmt, rotateLeft_eq_ofNat (Nat.mod_lt _ (by decide))]

theorem fMin_eq : fMin a b = Claims.chosen (if b.toInt < a.toInt then b else a) a b :=
  pick_eq (ite_agree BitVec.slt_iff_toInt_lt (fun _ => rfl) fun _ => rfl)

theorem fMax_eq : fMax a b = Claims.chosen (if a.toInt < b.toInt then b else a) a b :=
  pick_eq (ite_agree BitVec.slt_iff_toInt_lt (fun _ => rfl) fun _ => rfl)

theorem fMinu_eq : fMinu a b = Claims.chosen (if b.toNat < a.toNat then b else a) a b :=
  pick_eq (ite_agree BitVec.ult_iff_lt (fun _ => rfl) fun _ => rfl)

theorem fMaxu_eq : fMaxu a b = Claims.chosen (if a.toNat < b.toNat then b else a) a b :=
  pick_eq (ite_agree BitVec.ult_iff_lt (fun _ => rfl) fun _ => rfl)

theorem fCne_eq : fCne a b = Claims.truthOf (a ≠ b) := (truth_eq _).trans (congrArg _ bne_eq_decide_ne)

theorem fClz_eq : fClz b = (BitVec.ofNat 32 (if b = 0 then 32 else 31 - Nat.log2 b.toNat), decide (b = 0)) := by
  refine Prod.ext (congrArg (BitVec.ofNat 32) ?_) rfl
  exact ite_agree ⟨fun h => BitVec.eq_of_toNat_eq h, fun h => by rw [h]; rfl⟩ (fun _ => rfl) fun _ => rfl

theorem fPopc_eq : fPopc b =
    (let r := BitVec.ofNat 32 ((List.range 32).filter fun n => b.getLsbD n).length
     (r, r.getLsbD 0)) := by
  have count : popc b = ((List.range 32).filter fun n => b.getLsbD n).length :=
    (foldl_count ..).trans (Nat.zero_add _)
  rw [fPopc, count]

theorem fBfx_eq : fBfx a b =
    Claims.orNz (BitVec.ofNat 32 (a.toNat / 2 ^ (b.toNat % 32) % 2 ^ (b.toNat / 32 % 32 + 1))) := by
  rw [fBfx, nz_eq, bfPos_eq, bfLen_eq]

theorem fBfi_eq : fBfi d a b =
    (let m : BitVec 32 := BitVec.ofNat 32 ((2 ^ (b.toNat / 32 % 32 + 1) - 1) * 2 ^ (b.toNat % 32))
     Claims.orNz ((d &&& ~~~m) ||| (BitVec.ofNat 32 (a.toNat * 2 ^ (b.toNat % 32)) &&& m))) := by
  rw [fBfi, nz_eq, bfPos_eq, bfLen_eq, shiftLeft_eq_ofNat]

theorem fAgen_eq (pd : BitVec 3) :
    fAgen pd a b = (BitVec.ofNat 32 (a.toNat + b.toNat * 2 ^ pd.toNat), false) := by
  rw [fAgen, BitVec.ofNat_add, ← shiftLeft_eq_ofNat, BitVec.ofNat_toNat, BitVec.setWidth_eq]

/-! ### What each instruction is (R99, R100) -/

variable {f : FabF} {s : State} {i : Instr}

/-- The firing of an element arithmetic instruction with a result, its flag and the numeric flags it sets. -/
def arithFire (f : FabF) (s : State) (v : ResFlag) (flags : BitVec 8) : Out :=
  .next (applyEffect f { resEffect f s.fir v.1 v.2 with flags := flags } s)

/-- The common effect of R99 is a firing that sets no numeric flag. -/
theorem arith_eq {g v : Fir → BitVec 32 → BitVec 32 → ResFlag} (h : ∀ x a b, g x a b = v x a b) :
    arith f s g = arithFire f s (v s.fir (s.fir.opA f) (s.fir.opB f)) 0 :=
  congrArg (arithFire f s · 0) (h ..)

theorem arithFlags_addsat (clamped : Bool) : Claims.arithFlags (.addsat f) clamped = flagIf clamped flSAT := by
  cases clamped <;> rfl

theorem execAddsat_eq {v : ResFlag} (h : fAddsat (s.fir.opA f) (s.fir.opB f) = v) :
    execAddsat f s = arithFire f s v (Claims.arithFlags (.addsat f) v.2) := by
  rw [arithFlags_addsat, ← h]
  rfl

/-- An element arithmetic instruction fires with the result and flag of its row. -/
theorem exec_arithRow {v : Fir → BitVec 32 → BitVec 32 → ResFlag} (h : Claims.arithRow i = some (f, v)) :
    exec i s = arithFire f s (v s.fir (s.fir.opA f) (s.fir.opB f))
      (Claims.arithFlags i (v s.fir (s.fir.opA f) (s.fir.opB f)).2) := by
  unfold Claims.arithRow at h
  split at h <;> cases h
  case h_1 => exact (arith_eq fun _ _ _ => fAdd_eq : execFabAdd f s = _)
  case h_2 => exact (arith_eq fun _ _ _ => fSub_eq : execFabSub f s = _)
  case h_3 => exact (arith_eq fun _ _ _ => fMul_eq : execFabMul f s = _)
  case h_4 => exact (arith_eq fun _ _ _ => nz_eq : execFabMulh f s = _)
  case h_5 => exact (arith_eq fun _ _ _ => nz_eq : execFabMulhu f s = _)
  case h_6 => exact execAddsat_eq fAddsat_eq
  case h_7 => exact (arith_eq fun _ _ _ => nz_eq : execFabAnd f s = _)
  case h_8 => exact (arith_eq fun _ _ _ => nz_eq : execFabOr f s = _)
  case h_9 => exact (arith_eq fun _ _ _ => nz_eq : execFabXor f s = _)
  case h_10 => exact (arith_eq fun _ _ _ => nz_eq : execAndn f s = _)
  case h_11 => exact (arith_eq fun _ _ _ => fShl_eq : execFabShl f s = _)
  case h_12 => exact (arith_eq fun _ _ _ => fShr_eq : execFabShr f s = _)
  case h_13 => exact (arith_eq fun _ _ _ => fSra_eq : execFabSra f s = _)
  case h_14 => exact (arith_eq fun _ _ _ => fRot_eq : execRot f s = _)
  case h_15 => exact (arith_eq fun _ _ _ => fMin_eq : execFabMin f s = _)
  case h_16 => exact (arith_eq fun _ _ _ => fMax_eq : execFabMax f s = _)
  case h_17 => exact (arith_eq fun _ _ _ => fMinu_eq : execFabMinu f s = _)
  case h_18 => exact (arith_eq fun _ _ _ => fMaxu_eq : execFabMaxu f s = _)
  case h_19 => exact (arith_eq fun _ _ _ => truth_eq _ : execFabCeq f s = _)
  case h_20 => exact (arith_eq fun _ _ _ => fCne_eq : execFabCne f s = _)
  case h_21 => exact (arith_eq fun _ _ _ => truth_eq _ : execFabClt f s = _)
  case h_22 => exact (arith_eq fun _ _ _ => truth_eq _ : execFabCltu f s = _)
  case h_23 => exact (arith_eq fun _ _ _ => truth_eq _ : execFabCle f s = _)
  case h_24 => exact (arith_eq fun _ _ _ => truth_eq _ : execFabCleu f s = _)
  case h_25 => rfl
  case h_26 => exact (arith_eq fun _ _ _ => fClz_eq : execFabClz f s = _)
  case h_27 => exact (arith_eq fun _ _ _ => fPopc_eq : execFabPopc f s = _)
  case h_28 => exact (arith_eq fun _ _ _ => fBfx_eq : execBfx f s = _)
  case h_29 => exact (arith_eq fun _ _ _ => fBfi_eq : execBfi f s = _)
  case h_30 => exact (arith_eq fun _ _ _ => fAgen_eq _ : execAgen f s = _)

/-! ### MOV (R101, Table 6-5) -/

/-- The firing of a MOV from what it reads. -/
def movEffect (f : FabF) (m : BitVec 32 × Option (BitVec 512) × Tok) : Effect :=
  { res := some m.1, vres := m.2.1, sends := toAll f.om m.2.2, nonzero := (m.2.1.map (· != 0)).getD (m.1 != 0),
    flag := m.1 != 0 }

theorem exec_mov : exec (.mov f) s = .next (applyEffect f (movEffect f (movSource s.fir f)) s) := rfl

theorem getD_map_ite {α β : Type} (c : Prop) [Decidable c] (v : α) (g : α → β) (z : β) :
    ((if c then some v else none).map g).getD z = if c then g v else z := by
  split <;> rfl

variable {x : Fir}

theorem movSource_vector (k : f.k = false) (vec : 12 ≤ f.sb.toNat) :
    movSource x f = (x.opB f, some (x.tl.vc (f.sb.toNat - 12)),
      x.vecTok f (hdrFmta x.cfg.hdr) (x.tl.vc (f.sb.toNat - 12))) := by
  simp [movSource, k, vec]

theorem movSource_channel (k : f.k = false) (chan : f.sb.toNat < 4) :
    movSource x f = (x.opB f, if (x.tl.head f.sb.toNat).dat then some (x.tl.head f.sb.toNat).val else none,
      x.passTok (x.tl.head f.sb.toNat)) := by
  have notVec : ¬ 12 ≤ f.sb.toNat := by omega
  simp [movSource, Fir.chan?, k, chan, notVec]

theorem movSource_scalar (h : f.k = true ∨ (4 ≤ f.sb.toNat ∧ f.sb.toNat < 12)) :
    movSource x f = (x.opB f, none, x.fresh f (x.opB f)) := by
  obtain k | ⟨low, high⟩ := h
  · simp [movSource, Fir.chan?, k]
  · simp [movSource, Fir.chan?, Nat.not_lt.2 low, Nat.not_le.2 high]

end Sys2Proof.Machine

namespace Sys2Proof.Claims

open Sys2Proof.Machine

/-- Every row fires with its result, its flag and, for ADDSAT, SAT. -/
theorem elementArithmetic : ElementArithmetic := by
  intro i f v s row
  have run := exec_arithRow (s := s) row
  rw [arithFire, resEffect, bne_eq_decide_ne] at run
  exact run

/-- FAB_NOP is a firing without a result; MOV fires with what its operand code names. -/
theorem nopAndMov : NopAndMov := by
  intro f s
  refine ⟨rfl, fun k vec => ?_, fun k chan => ?_, fun scalar => ?_⟩
  · rw [Fired, exec_mov, movSource_vector k vec]
    rfl
  · rw [Fired, exec_mov, movSource_channel k chan, movEffect, getD_map_ite]
    rfl
  · rw [Fired, exec_mov, movSource_scalar scalar]
    rfl

end Sys2Proof.Claims

namespace Sys2Proof

open Sys2Proof.Claims

/-- Settles O30: each function of the element is the value of its row in Table 6-4, and MOV's source is one of three. -/
theorem elementInstructions : Obligations.ElementInstructions := ⟨elementArithmetic, nopAndMov⟩

end Sys2Proof

end

/-! ## Stream instructions (O31)

A stream instruction either fires with an effect that its table gives, or ends in `noRes`, where the zero test of an
undefined result takes a free choice (log 16). `firedFree_silent` and `firedFree_sends` say once what `noRes` is, so each row
is the branch that its condition picks. -/

section

namespace Sys2Proof.Machine

variable {f : FabF} {s : State}

/-! ### A firing without a result -/

/-- The zero test of an undefined result takes at most a free choice. -/
theorem freeNz_eq : ∃ n fr, freeNz f s = (n, { s with free := fr }) := by
  unfold freeNz
  split
  · exact ⟨_, _, rfl⟩
  · exact ⟨_, s.free, rfl⟩

theorem noRes_eq (sends : List (Nat × Tok)) (fl deq : Bool) : ∃ n fr, noRes f s sends fl deq =
    .next (applyEffect f { sends := sends, nonzero := n, flag := fl, deqok := deq, formed := !sends.isEmpty }
      { s with free := fr }) := by
  obtain ⟨n, fr, tested⟩ := freeNz_eq (f := f) (s := s)
  refine ⟨n, fr, ?_⟩
  rw [noRes, tested]
  rfl

theorem isEmpty_outsOf {om : BitVec 4} (h : om ≠ 0) : (outsOf om).isEmpty = false := by
  revert om
  decide

variable {i : Instr} {fl : Bool}

/-- With no tokens a firing without a result forms nothing. What prepares its state reads no free choice. -/
theorem firedFree_silent {u : State → State} (hu : ∀ fr, { u s with free := fr } = u { s with free := fr })
    (run : exec i s = noRes f (u s) [] fl true) : Claims.FiredFree i s f { flag := fl, formed := false } u := by
  obtain ⟨n, fr, fired⟩ := noRes_eq (f := f) (s := u s) [] fl true
  rw [hu] at fired
  exact ⟨n, fr, run.trans fired⟩

/-- With tokens on its outputs a firing without a result counts as one that formed a result. -/
theorem firedFree_sends {tok : Nat → Tok} (om : f.om ≠ 0)
    (run : exec i s = noRes f s ((outsOf f.om).map fun n => (n, tok n)) fl true) :
    Claims.FiredFree i s f { sends := (outsOf f.om).map fun n => (n, tok n), flag := fl } id := by
  obtain ⟨n, fr, fired⟩ := noRes_eq (f := f) (s := s) ((outsOf f.om).map fun n => (n, tok n)) fl true
  rw [List.isEmpty_map, isEmpty_outsOf om] at fired
  exact ⟨n, fr, run.trans fired⟩

/-! ### What the branching instructions are (Table 7-3) -/

theorem setWidth_ofBool (c : Bool) : (BitVec.ofBool c).setWidth 32 = if c then 1 else 0 := by
  cases c <;> rfl

theorem updTile_congr {p t : Nat} {g g' : Tile → Tile} (h : g (s.tile p t) = g' (s.tile p t)) :
    s.updTile p t g = s.updTile p t g' :=
  congrArg (s.setTile p t) h

/-- SKIPA's result is the count of the raw head, which it clears. -/
theorem exec_skipa {k : Tok} {ks : List Tok} (toks : (s.fir.tl.buf f.sb.toNat).toks = k :: ks) : exec (.skipa f) s =
    streamDone f (resEffect f s.fir (k.skip.setWidth 32) (k.skip.setWidth 32 != 0))
      (s.updTile s.fir.p s.fir.t fun tl =>
        tl.setBuf f.sb.toNat { tl.buf f.sb.toNat with toks := { k with skip := 0 } :: ks }) := by
  have own : ((s.tile s.fir.p s.fir.t).buf f.sb.toNat).toks = k :: ks := toks
  have read : s.fir.tl.rawHead f.sb.toNat = some k := congrArg List.head? toks
  have run : exec (.skipa f) s = execSkipa f s := rfl
  rw [run, execSkipa]
  dsimp only
  rw [read]
  refine congrArg (streamDone f _) (updTile_congr ?_)
  rw [own]

/-- REPL passes its source and counts, and dequeues and starts again with the last copy. -/
theorem exec_repl {last : Bool} (copies : s.fir.opA f ≠ 0) (h : (s.fir.rc + 1 == s.fir.opA f) = last) :
    exec (.repl f) s = streamDone f { passAll f s.fir last (fun k => k) with deqok := last }
      (setRc s.fir s (if last then 0 else s.fir.rc + 1)) := by
  subst h
  exact if_neg copies

/-- LEXIT leaves the loop where b is not 0. -/
theorem exec_lexit_exits (exit : s.fir.opB f ≠ 0) :
    exec (.lexit f) s = noRes f s (toAll f.om (s.fir.dec f (s.fir.opA f) false)) true true := by
  have run : exec (.lexit f) s = execLexit f s := rfl
  rw [run, execLexit, if_pos exit, bne_iff_ne.2 exit]

theorem exec_lexit_stays (stay : s.fir.opB f = 0) : exec (.lexit f) s = noRes f s [] false true := by
  have run : exec (.lexit f) s = execLexit f s := rfl
  rw [run, execLexit, if_neg (not_not.2 stay), stay]
  rfl

/-- SQSH's test for a decision token, which sets its limit. -/
theorem isDecision_iff {h : Tok} : (!h.dat && h.kind == 2) = true ↔ h.dat = false ∧ h.kind = 2 := by
  simp

theorem not_isDecision {h : Tok} (plain : h.dat = true ∨ h.kind ≠ 2) : ¬ (!h.dat && h.kind == 2) = true := by
  rw [isDecision_iff]
  rintro ⟨control, kind⟩
  exact plain.elim (Bool.eq_false_iff.1 control) fun other => other kind

/-- SQSH moves its count on by the iterations since the last value, and squashes the value past an armed limit. -/
theorem exec_sqsh_value (plain : (s.fir.tl.head f.sb.toNat).dat = true ∨ (s.fir.tl.head f.sb.toNat).kind ≠ 2)
    (eos : (s.fir.tl.head f.sb.toNat).eos = false) : exec (.sqsh f) s =
    (let x := s.fir
     let h := x.tl.head f.sb.toNat
     let acc := x.tl.a + (h.iter - x.tl.l).setWidth 33
     let u := updActing x s fun tl => { tl with a := acc, l := h.iter }
     if x.tl.arm && decide (x.tl.x.toInt < acc.toInt) then noRes f u [] true true
     else streamDone f (passAll f x false fun k => k) u) :=
  (if_neg (not_isDecision plain)).trans (if_neg (Bool.eq_false_iff.1 eos))

/-- DECI without outputs decides for its region, where the slot that b names is loaded. -/
theorem exec_deci_region (om : f.om = 0) : exec (.deci f) s =
    (let x := s.fir
     let b := x.opB f
     if slotLoaded s x.p x.reg (b.toNat % 4) then
       noRes f (s.updRegion x.p x.rid fun r => { r with dec := some (b.setWidth 2), committed := true }) []
         (b.getLsbD 0) true
     else .next (elementTrap s 0x4E f)) := by
  have run : exec (.deci f) s = execDeci f s := rfl
  rw [run, execDeci]
  dsimp only
  rw [if_neg (not_not.2 om), Claims.fld_zero]
  cases slotLoaded s s.fir.p s.fir.reg ((s.fir.opB f).toNat % 4) <;> rfl

end Sys2Proof.Machine

namespace Sys2Proof.Claims

open Sys2Proof.Machine

/-! ### Passing, steering and marking (Table 7-3, R110 to R114, R117) -/

theorem streamSteering : StreamSteering := by
  intro f s x a b pa pb c dec
  refine ⟨?steer, rfl, rfl, rfl, fun holds => ?gateOpen, fun shut => ?gateShut, ?drop, fun om => ?eosg, rfl, rfl, rfl,
    rfl, fun k ks toks => ?skipa, ?halte⟩
  case steer =>
    have run : exec (.steer f) s = execSteer f s := rfl
    rw [Fired, run, execSteer, setWidth_ofBool, bne_eq_decide_ne]
    rfl
  case gateOpen => exact if_pos holds
  case gateShut => exact firedFree_silent (fun _ => rfl) (if_neg (not_not.2 shut))
  case drop => exact firedFree_silent (fun _ => rfl) rfl
  case eosg => exact firedFree_sends om rfl
  case skipa => exact ⟨_, exec_skipa toks, rfl⟩
  case halte => exact firedFree_silent (fun _ => rfl) rfl

/-! ### Counting, loops and decisions (R115, R118, R119, R121, R122) -/

theorem streamCounting : StreamCounting := by
  intro f s x a b rc pb withRc then_
  refine ⟨fun below => ?iterNext, fun reached => ?iterLast, fun zero => ?replNone, fun copies more => ?replNext,
    fun copies last => ?replLast, fun eos => ?cnteEnd, fun eos => ?cnteNext, fun exit om => ?lexitGoes,
    fun stay => ?lexitStays, ⟨fun control kind => ?sqshLimit, fun plain eos => ?sqshEnd,
    fun plain eos armed past => ?sqshPast, fun plain eos within => ?sqshWithin⟩, ?infl, fun om => ?deciSends,
    fun om loaded => ?deciBroadcast, fun om absent => ?deciTraps⟩
  case iterNext => exact if_pos (decide_eq_true below)
  case iterLast => exact if_neg (decide_eq_true_iff.not.2 (Nat.not_lt.2 reached))
  case replNone => exact firedFree_silent (fun _ => rfl) (if_pos zero)
  case replNext => exact exec_repl copies (beq_eq_false_iff_ne.2 more)
  case replLast => exact exec_repl copies (beq_iff_eq.2 last)
  case cnteEnd => exact if_pos eos
  case cnteNext => exact firedFree_silent (fun _ => rfl) (if_neg (Bool.eq_false_iff.1 eos))
  case lexitGoes => exact firedFree_sends (tok := fun _ => x.dec f a false) om (exec_lexit_exits exit)
  case lexitStays => exact firedFree_silent (fun _ => rfl) (exec_lexit_stays stay)
  case sqshLimit => exact firedFree_silent (fun _ => rfl) (if_pos (isDecision_iff.2 ⟨control, kind⟩))
  case sqshEnd => exact (if_neg (not_isDecision plain)).trans (if_pos eos)
  case sqshPast =>
    refine firedFree_silent (fun _ => rfl) ((exec_sqsh_value plain eos).trans (if_pos ?_))
    exact Bool.and_eq_true_iff.2 ⟨armed, decide_eq_true past⟩
  case sqshWithin =>
    refine (exec_sqsh_value plain eos).trans (if_neg ?_)
    rw [Bool.and_eq_true_iff, decide_eq_true_iff]
    rintro ⟨armed, past⟩
    exact within.elim (fun off => Bool.false_ne_true (off.symm.trans armed)) (Int.not_le.2 past)
  case infl =>
    have run : exec (.infl f) s = execInfl f s := rfl
    rw [Fired, run, execInfl]
    simp only [beq_iff_eq]
    rfl
  case deciSends => exact firedFree_sends (tok := fun _ => x.dec f b false) om (if_pos om)
  case deciBroadcast => exact firedFree_silent (fun _ => rfl) ((exec_deci_region om).trans (if_pos loaded))
  case deciTraps => exact (exec_deci_region om).trans (if_neg (Bool.eq_false_iff.1 absent))

end Sys2Proof.Claims

namespace Sys2Proof

open Sys2Proof.Claims

/-- Settles O31: each row of Table 7-3 is one branch of its instruction, with or without a result. -/
theorem streamInstructions : Obligations.StreamInstructions := ⟨streamSteering, streamCounting⟩

end Sys2Proof

end

/-! ## Regions that share a tile (O16)

A message to a tile of a region that is freed is counted as dropped by the region that the paddock finds at that tile (R254).
Nothing in the statement keeps regions apart, and where two hold one tile that is not the region which is freed. -/

section

namespace Sys2Proof.Claims

open Sys2Proof.Machine

/-- A running region of one tile, at row 0 and column 0. -/
def cornerRegion (owner : Nat) : Region := { alloc := true, owner := owner, h := 1, w := 1, st := .running }

/-- RGNF, without DISCARD, of the region that s1 names. -/
def rgnfWord : SeqF := { a := 1 }

/-- Regions 0, of LQ1, and 1, of LQ0, hold one and the same tile, to which a message of no region is on its way; LQ0 waits in
RGNF of region 1. -/
def sharedTile : State :=
  { pads := [(0,
      { ctxs := [(0, { regs := [(1, 1)], wait := .poll (seqPack 0x61 rgnfWord) 0 })]
        regions := [(0, cornerRegion 1), (1, cornerRegion 0)]
        msgs := [{ label := 0, words := [], eos := false, src := 0, iter := 0, due := 0, req := 0, dest := 0, rid := none }] })] }

theorem sharedTile_pollsOn : PollsOn sharedTile 0 0 0x61 rgnfWord 0 1 := ⟨rfl, rfl, rfl, rfl⟩

theorem sharedTile_drained : Drained sharedTile 0 1 (sharedTile.region 0 1) := drained_iff.1 (by decide)

/-- Region 1 is freed, and region 0 counts the message. -/
theorem sharedTile_frees : ∃ t, exec (.rgnfFree 0 0) sharedTile = .next t ∧ (t.region 0 0).drop = 1 :=
  ⟨_, rfl, by decide⟩

theorem not_regionEndAndQuery : ¬ RegionEndAndQuery := by
  rintro ⟨-, frees, -⟩
  obtain ⟨free, -⟩ := frees rgnfWord sharedTile 0 0 1 sharedTile_pollsOn
  obtain ⟨t, run, -, -, -, -, others, -⟩ := free (by exact sharedTile_drained)
  obtain ⟨u, run', dropped⟩ := sharedTile_frees
  obtain rfl : u = t := by simpa using run'.symm.trans run
  rw [others 0 0 (by decide)] at dropped
  exact absurd dropped (by decide)

end Sys2Proof.Claims

namespace Sys2Proof

/-- Refutes O16: RGNF_FREE of a region that shares a tile with another changes the other's DROP count. -/
theorem not_regionOwners : ¬ Obligations.RegionOwners := fun h => Claims.not_regionEndAndQuery h.2

end Sys2Proof

end

/-! ## What an access to memory leaves (R86, R158, R160)

An access writes, beside bytes, cached translations and the counts of corrected lines; `Accessed` says so once. Two states alike
in what an access looks at (`SameReach`) and in their lines with errors make the same of a read, and of a write. -/

section

namespace Sys2Proof.Machine

variable {s t u : State} {p : Nat}

/-! ### Frames -/

/-- A paddock but for cached translations and corrected lines. -/
def Paddock.still (x : Paddock) : Paddock := { x with tlb := [], softLines := [], cecnt := 0 }

/-- An access to memory: no paddock differs but in cached translations and corrected lines. -/
structure Accessed (s t : State) : Prop where
  pad : ∀ h, (t.pad h).still = (s.pad h).still
  cur : t.cur = s.cur

theorem Accessed.refl (s : State) : Accessed s s := ⟨fun _ => rfl, rfl⟩

theorem Accessed.trans (a : Accessed s t) (b : Accessed t u) : Accessed s u :=
  ⟨fun h => (b.pad h).trans (a.pad h), b.cur.trans a.cur⟩

theorem accessed_of_pads (pads : t.pads = s.pads) (cur : t.cur = s.cur) : Accessed s t :=
  ⟨fun h => by rw [State.pad, pads, State.pad], cur⟩

theorem accessed_updPad {f : Paddock → Paddock} (h : (f (s.pad p)).still = (s.pad p).still) :
    Accessed s (s.updPad p f) where
  pad r := by
    by_cases hr : r = p
    · subst hr
      rw [State.updPad, State.pad_setPad_same, h]
    · rw [State.updPad, State.pad_setPad_other _ _ _ _ hr]
  cur := rfl

theorem fixLine_accessed {g : Bool} {a : Nat} : Accessed s (s.fixLine g a) := by
  obtain h | ⟨l, c, h⟩ := fixLine_frame s g a
  · rw [h]
    exact .refl s
  · rw [h]
    exact accessed_updPad rfl

theorem fixLines_accessed (l : List Nat) : Accessed s (s.fixLines l) :=
  List.foldlRecOn l _ (Accessed.refl s) fun _ h _ _ => h.trans fixLine_accessed

theorem translate_accessed {va : BitVec 64} {k : AccKind} {n : Nat} : Accessed s (translate s p none va k n).2 := by
  obtain ⟨m, l, tl, h | h⟩ := translate_frame s p va k n
  · rw [h]
    exact .trans (t := { s with free := m }) (accessed_of_pads rfl rfl) (fixLines_accessed l)
  · rw [h]
    exact (fixLines_accessed l).trans (accessed_updPad rfl)

theorem readVA_accessed (fuel : Nat) {k : AccKind} {va : BitVec 64} {n : Nat} :
    Accessed s (readVA s p k fuel va n).2 := by
  induction fuel generalizing s va n with
  | zero => exact .refl s
  | succ fuel ih =>
    unfold readVA
    split
    · exact .refl s
    dsimp only
    split
    · exact .refl s
    have placed : Accessed s (translate s p none va k (min n (64 - va.toNat % 64))).2 := translate_accessed
    split
    · rename_i c u h
      rw [h] at placed
      exact placed
    rename_i pa host u h
    rw [h] at placed
    split
    · exact placed
    have rest := placed.trans (fixLine_accessed.trans (ih (va := va + BitVec.ofNat 64 (min n (64 - va.toNat % 64)))
      (n := n - min n (64 - va.toNat % 64)) (s := u.fixLine host pa)))
    split <;> rename_i e <;> rw [e] at rest <;> exact rest

theorem readBytes_accessed {k : AccKind} {va : BitVec 64} {n : Nat} : Accessed s (readBytes s p k va n).2 :=
  readVA_accessed _

theorem readImage_accessed {row0 col0 h w : Nat} {fold : Option (BitVec 2)} {va : BitVec 64} :
    Accessed s (readImage s p row0 col0 h w fold va).2 := by
  unfold readImage
  split
  · exact .refl s
  split
  · exact .refl s
  have read : Accessed s (readBytes s p .exec va (264 * h * w)).2 := readBytes_accessed
  split
  · rename_i e
    rw [e] at read
    exact read
  · rename_i e
    rw [e] at read
    dsimp only
    split <;> exact read

theorem wrBytes_accessed {g : Bool} {a : Nat} {bs : List (BitVec 8)} : Accessed s (s.wrBytes g a bs) := by
  obtain ⟨m, d, h, e⟩ := s.wrBytes_frame g a bs
  rw [e]
  exact accessed_of_pads rfl rfl

theorem writeVA_accessed (fuel : Nat) {va : BitVec 64} {bs : List (BitVec 8)} :
    Accessed s (writeVA s p fuel va bs).2 := by
  induction fuel generalizing s va bs with
  | zero => exact .refl s
  | succ fuel ih =>
    unfold writeVA
    split
    · exact .refl s
    dsimp only
    split
    · exact .refl s
    have placed : Accessed s (translate s p none va .write (min bs.length (64 - va.toNat % 64))).2 := translate_accessed
    split
    · rename_i c u h
      rw [h] at placed
      exact placed
    · rename_i pa host u h
      rw [h] at placed
      exact placed.trans (wrBytes_accessed.trans ih)

theorem writeSome_accessed {va : BitVec 64} {bs : List (BitVec 8)} : Accessed s (writeSome s p va bs).2 :=
  writeVA_accessed _

/-- Finding the places of a write changes no byte. -/
theorem placeVA_leaves (fuel : Nat) {va : BitVec 64} {n : Nat} :
    Accessed s (placeVA s p fuel va n).2 ∧ ∀ g a, (placeVA s p fuel va n).2.rdByte g a = s.rdByte g a := by
  induction fuel generalizing s va n with
  | zero => exact ⟨.refl s, fun _ _ => rfl⟩
  | succ fuel ih =>
    unfold placeVA
    split
    · exact ⟨.refl s, fun _ _ => rfl⟩
    dsimp only
    split
    · exact ⟨.refl s, fun _ _ => rfl⟩
    have placed : Accessed s (translate s p none va .write (min n (64 - va.toNat % 64))).2 := translate_accessed
    have byte := (translate_reads (s := s) (p := p) (va := va) (k := .write) (n := min n (64 - va.toNat % 64))).byte
    split
    · rename_i c u h
      rw [h] at placed byte
      exact ⟨placed, byte⟩
    rename_i pa host u h
    rw [h] at placed byte
    obtain ⟨rest, kept⟩ := ih (va := va + BitVec.ofNat 64 (min n (64 - va.toNat % 64)))
      (n := n - min n (64 - va.toNat % 64)) (s := u)
    split <;> rename_i e <;> rw [e] at rest kept <;>
      exact ⟨placed.trans rest, fun g a => (kept g a).trans (byte g a)⟩

theorem wrPieces_accessed (l : List (Nat × Bool × Nat)) {bs : List (BitVec 8)} : Accessed s (s.wrPieces l bs) := by
  induction l generalizing s bs with
  | nil => exact .refl s
  | cons e l ih => exact wrBytes_accessed.trans ih

theorem writeBytes_accessed {va : BitVec 64} {bs : List (BitVec 8)} : Accessed s (writeBytes s p va bs).2 := by
  unfold writeBytes
  obtain ⟨placed, -⟩ := placeVA_leaves (s := s) (p := p) (bs.length / 32 + 2) (va := va) (n := bs.length)
  split <;> rename_i e <;> rw [e] at placed
  · exact placed
  · exact placed.trans (wrPieces_accessed _)

/-- A write that faults changes no byte (R77). -/
theorem writeBytes_fault {va : BitVec 64} {bs : List (BitVec 8)} {c : BitVec 8} {a : BitVec 64}
    (h : writeBytes s p va bs = (some (c, a), t)) : ∀ g x, t.rdByte g x = s.rdByte g x := by
  unfold writeBytes at h
  obtain ⟨-, byte⟩ := placeVA_leaves (s := s) (p := p) (bs.length / 32 + 2) (va := va) (n := bs.length)
  split at h <;> rename_i e <;> rw [e] at byte
  · obtain ⟨-, rfl⟩ := Prod.mk.inj h
    exact byte
  · exact nomatch (Prod.mk.inj h).1

/-! ### What is left of a paddock -/

section Accessed

variable (e : Accessed s t)

include e

theorem Accessed.part {α : Type} {g : Paddock → α} (hg : ∀ x, g x.still = g x) (h : Nat) : g (t.pad h) = g (s.pad h) := by
  rw [← hg, e.pad, hg]

theorem Accessed.inner : SameInner s t := e.part fun _ => rfl
theorem Accessed.ctx (h k : Nat) : t.ctx h k = s.ctx h k := e.inner.ctx h k
theorem Accessed.tile (h k : Nat) : t.tile h k = s.tile h k := e.inner.tile h k
theorem Accessed.region (h k : Nat) : t.region h k = s.region h k := e.inner.region h k
theorem Accessed.badLines (h : Nat) : (t.pad h).badLines = (s.pad h).badLines := e.part (fun _ => rfl) h
theorem Accessed.regions (h : Nat) : (t.pad h).regions = (s.pad h).regions := e.part (fun _ => rfl) h
theorem Accessed.curCtx : t.curCtx = s.curCtx := by rw [State.curCtx, State.curCtx, e.cur, e.ctx]

end Accessed

/-! ### Alike in two states -/

/-- Two states agree in what a read looks at. -/
structure SameRead (s t : State) : Prop where
  reach : SameReach s t
  bad : ∀ h, (t.pad h).badLines = (s.pad h).badLines

theorem SameRead.badLine (e : SameRead s t) (g : Bool) (a : Nat) : t.badLine g a = s.badLine g a := by
  rw [State.badLine, State.badLine, e.bad]

theorem SameRead.accessed {s' t' : State} (e : SameRead s t) (hs : Accessed s s') (ht : Accessed t t')
    (reach : SameReach s' t') : SameRead s' t' :=
  ⟨reach, fun h => by rw [ht.badLines, hs.badLines, e.bad]⟩

/-- A read answers alike. -/
theorem SameRead.readVA (e : SameRead s t) (fuel : Nat) {k : AccKind} {va : BitVec 64} {n : Nat} :
    (readVA t p k fuel va n).1 = (Machine.readVA s p k fuel va n).1 := by
  induction fuel generalizing s t va n with
  | zero => rfl
  | succ fuel ih =>
    unfold Machine.readVA
    split
    · rfl
    dsimp only
    split
    · rfl
    obtain ⟨same, alike⟩ := e.reach.translate (p := p) (va := va) (k := k) (n := min n (64 - va.toNat % 64))
    have both := e.accessed (translate_accessed (p := p) (va := va) (k := k) (n := min n (64 - va.toNat % 64)))
      translate_accessed alike
    generalize Machine.translate s p none va k (min n (64 - va.toNat % 64)) = x at same both
    generalize Machine.translate t p none va k (min n (64 - va.toNat % 64)) = y at same both
    obtain ⟨x, s⟩ := x
    obtain ⟨y, t⟩ := y
    subst same
    cases y with
    | fault c => rfl
    | ok pa host =>
      dsimp only
      rw [both.badLine]
      split
      · rfl
      have fixed : SameRead (s.fixLine host pa) (t.fixLine host pa) :=
        both.accessed fixLine_accessed fixLine_accessed both.reach.fixLine
      have rest := ih fixed (va := va + BitVec.ofNat 64 (min n (64 - va.toNat % 64))) (n := n - min n (64 - va.toNat % 64))
      have bytes := State.rdBytes_congr host pa (min n (64 - va.toNat % 64)) fun _ => fixed.reach.rdByte
      generalize Machine.readVA (s.fixLine host pa) p k fuel _ _ = x at rest
      generalize Machine.readVA (t.fixLine host pa) p k fuel _ _ = y at rest
      obtain ⟨x, _⟩ := x
      obtain ⟨y, _⟩ := y
      subst rest
      cases y with
      | error c => rfl
      | ok bs =>
        dsimp only
        rw [bytes]

theorem SameRead.readImage (e : SameRead s t) {row0 col0 h w : Nat} {fold : Option (BitVec 2)} {va : BitVec 64} :
    (readImage t p row0 col0 h w fold va).1 = (Machine.readImage s p row0 col0 h w fold va).1 := by
  unfold Machine.readImage
  split
  · rfl
  split
  · rfl
  have same : (readBytes t p .exec va (264 * h * w)).1 = (readBytes s p .exec va (264 * h * w)).1 := e.readVA _
  generalize readBytes s p .exec va (264 * h * w) = x at same
  generalize readBytes t p .exec va (264 * h * w) = y at same
  obtain ⟨x, _⟩ := x
  obtain ⟨y, _⟩ := y
  subst same
  cases y with
  | error c => rfl
  | ok bs =>
    dsimp only
    split <;> rfl

theorem SameReach.placeVA (e : SameReach s t) (fuel : Nat) {va : BitVec 64} {n : Nat} :
    (placeVA t p fuel va n).1 = (Machine.placeVA s p fuel va n).1 ∧
      SameReach (Machine.placeVA s p fuel va n).2 (Machine.placeVA t p fuel va n).2 := by
  induction fuel generalizing s t va n with
  | zero => exact ⟨rfl, e⟩
  | succ fuel ih =>
    unfold Machine.placeVA
    split
    · exact ⟨rfl, e⟩
    dsimp only
    split
    · exact ⟨rfl, e⟩
    obtain ⟨same, alike⟩ := e.translate (p := p) (va := va) (k := .write) (n := min n (64 - va.toNat % 64))
    generalize Machine.translate s p none va .write (min n (64 - va.toNat % 64)) = x at same alike
    generalize Machine.translate t p none va .write (min n (64 - va.toNat % 64)) = y at same alike
    obtain ⟨x, s⟩ := x
    obtain ⟨y, t⟩ := y
    subst same
    cases y with
    | fault c => exact ⟨rfl, alike⟩
    | ok pa host =>
      dsimp only
      obtain ⟨same, rest⟩ := ih alike (va := va + BitVec.ofNat 64 (min n (64 - va.toNat % 64)))
        (n := n - min n (64 - va.toNat % 64))
      generalize Machine.placeVA s p fuel _ _ = x at same rest
      generalize Machine.placeVA t p fuel _ _ = y at same rest
      obtain ⟨x, _⟩ := x
      obtain ⟨y, _⟩ := y
      subst same
      cases y <;> exact ⟨rfl, rest⟩

theorem SameReach.wrPieces (e : SameReach s t) (l : List (Nat × Bool × Nat)) {bs : List (BitVec 8)} :
    SameReach (s.wrPieces l bs) (t.wrPieces l bs) := by
  induction l generalizing s t bs with
  | nil => exact e
  | cons x l ih => exact ih (e.wrBytes _)

/-- A write of all bytes or none answers alike, and leaves states alike. -/
theorem SameReach.writeBytes (e : SameReach s t) {va : BitVec 64} {bs : List (BitVec 8)} :
    (writeBytes t p va bs).1 = (Machine.writeBytes s p va bs).1 ∧
      SameReach (Machine.writeBytes s p va bs).2 (Machine.writeBytes t p va bs).2 := by
  unfold Machine.writeBytes
  obtain ⟨same, alike⟩ := e.placeVA (p := p) (bs.length / 32 + 2) (va := va) (n := bs.length)
  generalize Machine.placeVA s p (bs.length / 32 + 2) va bs.length = x at same alike
  generalize Machine.placeVA t p (bs.length / 32 + 2) va bs.length = y at same alike
  obtain ⟨x, _⟩ := x
  obtain ⟨y, _⟩ := y
  subst same
  cases y with
  | error c => exact ⟨rfl, alike⟩
  | ok ps => exact ⟨rfl, alike.wrPieces ps⟩

theorem sameRead_refl (s : State) : SameRead s s := ⟨⟨rfl, rfl, rfl, rfl, rfl, rfl, rfl, rfl, fun _ => rfl⟩, fun _ => rfl⟩

/-- A context, and which unit acts, are nothing a read looks at. -/
theorem sameRead_setCtx {q : Nat} {c : Ctx} (a : Actor) : SameRead s { s.setCtx p q c with cur := a } where
  reach :=
    have e := SameReach.setPad (p := p) (x := (s.pad p).setCtx q c) (sameRead_refl s).reach rfl
    { e with pad := e.pad }
  bad h := by
    by_cases hp : h = p
    · subst hp
      show ((s.setCtx h q c).pad h).badLines = _
      rw [State.setCtx, State.pad_setPad_same]
      rfl
    · show ((s.setCtx p q c).pad h).badLines = _
      rw [State.setCtx, State.pad_setPad_other _ _ _ _ hp]

end Sys2Proof.Machine

end

/-! ## What work on tiles and regions leaves

Contexts, tasks, bids, the trace and reports are a paddock's `desk`; an operation that writes tiles, regions, chains or messages
leaves it, and `Work` says so once. `TileWork` adds the regions and a part of every tile, `RegionWork` the other regions. -/

section

namespace Sys2Proof.Claims

open Sys2Proof.Machine

variable {s t u : State} {p id n : Nat} {α : Type} {g : Tile → α}

/-- What a paddock holds beside its tiles, regions, chains, messages and memory. -/
def desk (x : Paddock) : (Tbl Ctx × Tbl Task × List Bid × Trace) × List (Announcer × Charge) × List (Nat × Report) × Nat :=
  ((x.ctxs, x.tasks, x.bids, x.trace), x.late, x.behind, x.fc)

/-- An operation that leaves every desk, every byte and the acting unit. -/
structure Work (s t : State) : Prop where
  desk : ∀ h, desk (t.pad h) = desk (s.pad h)
  byte : SameBytes s t
  cur : t.cur = s.cur

theorem Work.refl (s : State) : Work s s := ⟨fun _ => rfl, fun _ _ => rfl, rfl⟩

theorem Work.trans (a : Work s t) (b : Work t u) : Work s u :=
  ⟨fun h => (b.desk h).trans (a.desk h), fun g x => (b.byte g x).trans (a.byte g x), b.cur.trans a.cur⟩

section Desk

variable (e : Work s t)

include e

theorem Work.fields (h : Nat) : ((t.pad h).ctxs = (s.pad h).ctxs ∧ (t.pad h).tasks = (s.pad h).tasks ∧
    (t.pad h).bids = (s.pad h).bids ∧ (t.pad h).trace = (s.pad h).trace) ∧ (t.pad h).late = (s.pad h).late ∧
    (t.pad h).behind = (s.pad h).behind ∧ (t.pad h).fc = (s.pad h).fc := by
  simpa [Claims.desk] using e.desk h

theorem Work.ctx (h k : Nat) : t.ctx h k = s.ctx h k := by
  rw [State.ctx, State.ctx, Paddock.ctx, Paddock.ctx, (e.fields h).1.1]

theorem Work.task (h k : Nat) : t.task h k = s.task h k := by
  rw [State.task, State.task, Paddock.task, Paddock.task, (e.fields h).1.2.1]

theorem Work.bids (h : Nat) : (t.pad h).bids = (s.pad h).bids := (e.fields h).1.2.2.1
theorem Work.trace (h : Nat) : (t.pad h).trace = (s.pad h).trace := (e.fields h).1.2.2.2
theorem Work.late (h : Nat) : (t.pad h).late = (s.pad h).late := (e.fields h).2.1
theorem Work.behind (h : Nat) : (t.pad h).behind = (s.pad h).behind := (e.fields h).2.2.1
theorem Work.fc (h : Nat) : t.fc h = s.fc h := (e.fields h).2.2.2

end Desk

theorem work_setPad {x : Paddock} (h : desk x = desk (s.pad p)) : Work s (s.setPad p x) where
  desk r := by
    by_cases hr : r = p
    · subst hr
      rw [State.pad_setPad_same, h]
    · rw [State.pad_setPad_other _ _ _ _ hr]
  byte _ _ := rfl
  cur := rfl

theorem work_setStiles (s : State) (z : Tbl ChanStile) : Work s { s with chStiles := z } :=
  ⟨fun _ => rfl, fun _ _ => rfl, rfl⟩

theorem work_setRegion (s : State) (p n : Nat) (r : Region) : Work s (s.setRegion p n r) := work_setPad rfl

theorem Work.foldl {β : Type} {f : State → β → State} {l : List β} (hf : ∀ t b, Work t (f t b)) : Work s (l.foldl f s) :=
  List.foldlRecOn l f (Work.refl s) fun t h b _ => h.trans (hf t b)

/-- An access that changes no byte. -/
theorem work_of_accessed (e : Accessed s t) (byte : SameBytes s t) : Work s t :=
  ⟨e.part fun _ => rfl, byte, e.cur⟩

theorem readImage_work {row0 col0 h w : Nat} {fold : Option (BitVec 2)} {va : BitVec 64} :
    Work s (readImage s p row0 col0 h w fold va).2 := work_of_accessed readImage_accessed readImage_reads.byte

/-! ### Tiles -/

/-- Work after which no region and no g of a tile is changed. -/
structure TileWork (g : Tile → α) (s t : State) : Prop where
  work : Work s t
  region : ∀ h k, t.region h k = s.region h k
  tile : ∀ h k, g (t.tile h k) = g (s.tile h k)

theorem TileWork.refl (g : Tile → α) (s : State) : TileWork g s s := ⟨.refl s, fun _ _ => rfl, fun _ _ => rfl⟩

theorem TileWork.trans (a : TileWork g s t) (b : TileWork g t u) : TileWork g s u :=
  ⟨a.work.trans b.work, fun h k => (b.region h k).trans (a.region h k), fun h k => (b.tile h k).trans (a.tile h k)⟩

theorem TileWork.foldl {β : Type} {f : State → β → State} {l : List β} (hf : ∀ t b, TileWork g t (f t b)) :
    TileWork g s (l.foldl f s) :=
  List.foldlRecOn l f (TileWork.refl g s) fun t h b _ => h.trans (hf t b)

theorem tileWork_setTile {v : Tile} (hv : g v = g (s.tile p n)) : TileWork g s (s.setTile p n v) :=
  ⟨work_setPad rfl, fun _ _ => State.region_setTile .., (leaves_setTile hv).tile⟩

theorem tileWork_updTile {f : Tile → Tile} (hf : ∀ tl, g (f tl) = g tl) : TileWork g s (s.updTile p n f) :=
  tileWork_setTile (hf _)

theorem tileWork_of_accessed (g : Tile → α) (e : Accessed s t) (byte : SameBytes s t) : TileWork g s t :=
  ⟨work_of_accessed e byte, e.region, fun h k => congrArg g (e.tile h k)⟩

theorem tileWork_onDests {k : Nat} {c : Cfg} {f : Route → Buf → Buf} {z : ChanStile → ChanStile}
    (hg : ∀ tl m b, g (Tile.setBuf tl m b) = g tl) : TileWork g s (onDests s p k c n f z) := by
  unfold onDests
  refine .trans (.foldl fun _ r => ?_) (.foldl fun _ _ => ⟨work_setStiles .., fun _ _ => rfl, fun _ _ => rfl⟩)
  split
  · exact .refl ..
  · exact tileWork_updTile fun _ => hg ..

/-- Deferred results given up: queues of results, and the places reserved in buffers. -/
theorem tileWork_dropOut {k : Nat} {which : Deferred → Bool} (hb : ∀ tl m b, g (Tile.setBuf tl m b) = g tl)
    (hq : ∀ tl q, g { tl with outq := q } = g tl) : TileWork g s (dropOut s p k which) := by
  unfold dropOut
  exact .trans (.foldl fun _ _ => .foldl fun _ _ => tileWork_onDests hb) (tileWork_updTile fun _ => hq ..)

theorem tileWork_dropReplay {r : Region} (hg : ∀ tl a b, g { tl with et := { tl.et with replay := a, served := b } } = g tl) :
    TileWork g s (dropReplay s p r) := .foldl fun _ _ => tileWork_updTile fun _ => hg ..

theorem tileWork_storeImage {row0 col0 h w slot : Nat} {img : List (BitVec 64)}
    (hg : ∀ tl c, g { tl with cfgs := Tbl.set tl.cfgs slot c } = g tl) :
    TileWork g s (storeImage s p row0 col0 h w slot img) := .foldl fun _ _ => tileWork_updTile fun _ => hg ..

/-! ### Regions -/

/-- Work after which no region but one is changed. -/
structure RegionWork (p id : Nat) (s t : State) : Prop where
  work : Work s t
  others : OtherRegions s t p id

theorem RegionWork.trans (a : RegionWork p id s t) (b : RegionWork p id t u) : RegionWork p id s u :=
  ⟨a.work.trans b.work, fun h k ne => (b.others h k ne).trans (a.others h k ne)⟩

theorem TileWork.regionWork (e : TileWork g s t) : RegionWork p id s t := ⟨e.work, fun h k _ => e.region h k⟩

theorem regionWork_setRegion {r : Region} : RegionWork p id s (s.setRegion p id r) :=
  ⟨work_setRegion .., fun _ _ ne => region_setRegion_ne ne⟩

theorem regionWork_updRegion {f : Region → Region} : RegionWork p id s (s.updRegion p id f) := regionWork_setRegion

theorem region_updRegion {f : Region → Region} : (s.updRegion p id f).region p id = f (s.region p id) :=
  State.region_setRegion_same ..

theorem tile_updRegion {f : Region → Region} {h k : Nat} : (s.updRegion p id f).tile h k = s.tile h k :=
  State.tile_setRegion ..

/-- An image made resident in a slot of a region: what the tiles keep, and the region's note of what it read. -/
theorem makeResident_work {slot : Nat} {va : BitVec 64} {img : List (BitVec 64)} :
    RegionWork p id s (makeResident s p id slot va img) := by
  unfold makeResident
  exact (tileWork_storeImage (g := fun _ => ()) fun _ _ => rfl).regionWork.trans regionWork_updRegion

theorem makeResident_region {slot : Nat} {va : BitVec 64} {img : List (BitVec 64)} :
    (makeResident s p id slot va img).region p id =
      { s.region p id with images := Tbl.set (s.region p id).images slot (va, img)
                           asRead := Tbl.set (s.region p id).asRead slot img } := by
  have kept := (tileWork_storeImage (s := s) (p := p) (row0 := (s.region p id).row0) (col0 := (s.region p id).col0)
    (h := (s.region p id).h) (w := (s.region p id).w) (slot := slot) (img := img) (g := fun _ => ()) fun _ _ => rfl).region p id
  unfold makeResident
  rw [region_updRegion, kept]

theorem makeResident_tile {slot : Nat} {va : BitVec 64} {img : List (BitVec 64)}
    (hg : ∀ tl c, g { tl with cfgs := Tbl.set tl.cfgs slot c } = g tl) (h k : Nat) :
    g ((makeResident s p id slot va img).tile h k) = g (s.tile h k) := by
  unfold makeResident
  rw [tile_updRegion]
  exact (tileWork_storeImage hg).tile h k

theorem makeResident_stored {slot k : Nat} {va : BitVec 64} {img : List (BitVec 64)} (mem : k ∈ (s.region p id).tileList) :
    ∃ j : Nat, (s.region p id).tileList[j]? = some k ∧
      Tbl.find? ((makeResident s p id slot va img).tile p k).cfgs slot = some ((img.drop (33 * j)).take 33) := by
  obtain ⟨j, at_, stored⟩ := storeImage_stored (s := s) (p := p) (slot := slot) (img := img) mem
  exact ⟨j, at_, by unfold makeResident; rw [tile_updRegion]; exact stored⟩

/-! ### Activation (R134) -/

theorem tileWork_activateTiles {slot : BitVec 2} {full : Bool}
    (hr : ∀ tl a b, g { tl with et := { tl.et with replay := a, served := b } } = g tl)
    (ha : ∀ tl c, g (activateTile tl c full) = g tl) : TileWork g s (activateTiles s p id slot full) :=
  (tileWork_dropReplay hr).trans (.foldl fun _ _ => tileWork_setTile (ha ..))

theorem activateRegion_work {slot : BitVec 2} {full : Bool} : RegionWork p id s (activateRegion s p id slot full) := by
  rw [activateRegion_eq]
  exact (tileWork_activateTiles (g := fun _ => ()) (fun _ _ _ => rfl) fun _ _ => rfl).regionWork.trans regionWork_updRegion

theorem activateRegion_keepsTile {slot : BitVec 2} {full : Bool} (hr : ∀ tl a b, g { tl with et := { tl.et with replay := a, served := b } } = g tl)
    (ha : ∀ tl c, g (activateTile tl c full) = g tl) (h k : Nat) :
    g ((activateRegion s p id slot full).tile h k) = g (s.tile h k) := by
  rw [activateRegion_eq, tile_updRegion]
  exact (tileWork_activateTiles hr ha).tile h k

end Sys2Proof.Claims

end

/-! ## Instructions that wait, and complete (R76, R143, R270)

One that waits has been charged; where it is judged again the charge is taken back first (`unissue`), so that it completes with
the charge of its issue or traps with none. -/

section

namespace Sys2Proof.Claims

open Sys2Proof.Machine

variable {s t u : State} {p q : Nat} {f : SeqF} {opc : BitVec 8} {stage ib tb n m : Nat} {d : BitVec 5} {v : BitVec 64}

/-- What a waiting instruction was charged depends on its context's registers and on its region. -/
theorem pollCost_congr {w : BitVec 64} (regs : (u.ctx p q).regs = (s.ctx p q).regs)
    (region : ∀ id, ((u.region p id).fullH, (u.region p id).w) = ((s.region p id).fullH, (s.region p id).w)) :
    pollCost u p q w = pollCost s p q w := by
  have rd (r : BitVec 5) : (u.ctx p q).rd r = (s.ctx p q).rd r := by rw [Ctx.rd, Ctx.rd, regs]
  have size (id : Nat) := Prod.mk.inj (region id)
  unfold pollCost regionId Ctx.opA Ctx.opB
  simp only [rd, (size _).1, (size _).2]

/-- All but LNCH, RFOLD, JRPL and CTXS are charged 1 unit. -/
theorem pollCost_one (h : opc ≠ 0x80 ∧ opc ≠ 0x65 ∧ opc ≠ 0x97 ∧ opc ≠ 0xA8) : pollCost s p q (seqPack opc f) = (1, 0) := by
  have ne (x : BitVec 8) (hx : opc ≠ x) : opc.toNat ≠ x.toNat := fun e => hx (BitVec.eq_of_toNat_eq e)
  obtain ⟨lnch, rfold, jrpl, ctxs⟩ := h
  unfold pollCost
  rw [seqOpc_seqPack]
  dsimp only
  split
  · exact absurd ‹_› (ne _ lnch)
  · exact absurd ‹_› (ne _ rfold)
  · exact absurd ‹_› (ne _ jrpl)
  · exact absurd ‹_› (ne _ ctxs)
  · rfl

theorem pollFor_eq (atP : s.cur.p = p) (atQ : s.cur.q = q) : pollFor s opc f stage =
    s.setCtx p q (({ s.ctx p q with wait := .poll (seqPack opc f) stage } : Ctx).charge
      (pollCost s p q (seqPack opc f)).1 (pollCost s p q (seqPack opc f)).2) := by
  have cost : pollCost (s.setCtx p q { s.ctx p q with wait := .poll (seqPack opc f) stage }) p q (seqPack opc f) =
      pollCost s p q (seqPack opc f) :=
    pollCost_congr (by rw [State.ctx_setCtx_same]) fun id => by rw [State.region_setCtx]
  unfold pollFor State.reissue
  rw [State.setCurCtx, State.curCtx, atP, atQ, State.ctx_setCtx_same]
  dsimp only
  rw [cost, State.updCtx, State.ctx_setCtx_same, State.setCtx_setCtx]

theorem pollFor_polls (atP : u.cur.p = p) (atQ : u.cur.q = q) (ctx : u.ctx p q = s.ctx p q)
    (cost : pollCost u p q (seqPack opc f) = (ib, tb)) :
    Polls s (pollFor u opc f stage) p q opc f stage ib tb ∧ NoWrite s (pollFor u opc f stage) p q := by
  rw [pollFor_eq atP atQ, ctx, cost]
  refine ⟨⟨?_, ?_, ?_, ?_⟩, fun r => ?_⟩ <;> rw [State.ctx_setCtx_same] <;> rfl

theorem pollFor_onlyWaits (atP : s.cur.p = p) (atQ : s.cur.q = q)
    (h : opc ≠ 0x80 ∧ opc ≠ 0x65 ∧ opc ≠ 0x97 ∧ opc ≠ 0xA8) : OnlyWaits s (pollFor s opc f stage) p q opc f stage := by
  obtain ⟨polls, kept⟩ := pollFor_polls (s := s) (stage := stage) atP atQ rfl (pollCost_one (f := f) h)
  refine ⟨polls, ?_, kept⟩
  rw [pollFor_eq atP atQ]
  exact onlyCtx_setCtx

theorem unissue_eq {w : BitVec 64} (h : (s.ctx p q).wait = .poll w stage) : s.unissue p q = s.setCtx p q
    { s.ctx p q with ibud := (s.ctx p q).ibud + BitVec.ofNat 64 (pollCost s p q w).1
                     tbud := (s.ctx p q).tbud + BitVec.ofNat 64 (pollCost s p q w).2 } := by
  unfold State.unissue
  rw [h]
  rfl

theorem unissue_ctx {w : BitVec 64} (h : (s.ctx p q).wait = .poll w stage) : (s.unissue p q).ctx p q =
    { s.ctx p q with ibud := (s.ctx p q).ibud + BitVec.ofNat 64 (pollCost s p q w).1
                     tbud := (s.ctx p q).tbud + BitVec.ofNat 64 (pollCost s p q w).2 } := by
  rw [unissue_eq h, State.ctx_setCtx_same]

theorem unissue_one {w : BitVec 64} (h : (s.ctx p q).wait = .poll w stage) (cost : pollCost s p q w = (1, 0)) :
    s.unissue p q = judged s p q := by
  rw [unissue_eq h, cost]
  simp [judged]

theorem finish_wr_ctx : (finish u p q ib tb fun c => c.wr d v).ctx p q =
    { (((u.ctx p q).charge ib tb).adv).wr d v with wait := .ready } := State.ctx_setCtx_same ..

theorem rd_wr (c : Ctx) (r : BitVec 5) : (c.wr d v).rd r = if r = 0 then 0 else if r = d then v else c.rd r := by
  by_cases zero : r = 0
  · rw [if_pos zero, zero]
    rfl
  · rw [if_neg zero]
    by_cases same : r = d
    · subst same
      rw [if_pos rfl, Ctx.rd_wr_same _ _ _ zero]
    · rw [if_neg same, Ctx.rd_wr_other _ _ _ _ same]

/-- An instruction that completes from a state whose context differs in its counters alone. -/
theorem finish_wr (regs : (u.ctx p q).regs = (s.ctx p q).regs) (pc : (u.ctx p q).pc = (s.ctx p q).pc)
    (ibud : (u.ctx p q).ibud - BitVec.ofNat 64 ib = (s.ctx p q).ibud - BitVec.ofNat 64 n)
    (tbud : (u.ctx p q).tbud - BitVec.ofNat 64 tb = (s.ctx p q).tbud - BitVec.ofNat 64 m) :
    Completes s (finish u p q ib tb fun c => c.wr d v) p q n m ∧
      Writes s (finish u p q ib tb fun c => c.wr d v) p q d v := by
  refine ⟨⟨?_, ?_, ?_, ?_⟩, fun r => ?_⟩ <;> rw [finish_wr_ctx]
  · rw [← pc]
    exact Ctx.wr_pc ..
  · rw [← ibud]
    exact Ctx.wr_ibud ..
  · rw [← tbud]
    exact Ctx.wr_tbud ..
  · rw [← show (u.ctx p q).rd r = (s.ctx p q).rd r by rw [Ctx.rd, Ctx.rd, regs]]
    exact rd_wr ..

theorem noWrite_of_writes_zero (h : Writes s t p q 0 v) : NoWrite s t p q := fun r => by
  rw [h r]
  by_cases zero : r = 0
  · rw [if_pos zero, zero]
    rfl
  · rw [if_neg zero, if_neg zero]

/-- An instruction that completes where it is judged again, charged as it was at its issue. -/
theorem finish_unissued {w : BitVec 64} (wait : (s.ctx p q).wait = .poll w stage) (cost : pollCost s p q w = (ib, tb))
    (ctx : u.ctx p q = (s.unissue p q).ctx p q) :
    Completes s (finish u p q ib tb fun c => c.wr d v) p q 0 0 ∧
      Writes s (finish u p q ib tb fun c => c.wr d v) p q d v := by
  rw [unissue_ctx wait, cost] at ctx
  refine finish_wr ?_ ?_ ?_ ?_ <;> rw [ctx]
  · simp
  · simp

theorem finish_reissue {upd : Ctx → Ctx} : (finish u p q ib tb upd).reissue p q = finish u p q ib tb upd :=
  reissue_of_ready (by rw [finish, State.ctx_setCtx_same])

/-- A waiting instruction that SEQ_OP_COMPLETE judges. -/
theorem exec_seqOpComplete {p : Fin 32} {q : Fin 4} {w : BitVec 64} (wait : (s.ctx p q).wait = .poll w stage) :
    exec (.seqOpComplete p q) s = .next ((tryPoll (s.unissue p q) p q w stage).elim s fun t => t.reissue p q) := by
  show execSeqOpComplete p q s = _
  unfold execSeqOpComplete
  dsimp only
  rw [wait]
  dsimp only
  rw [retry]
  cases tryPoll (s.unissue p q) p q w stage <;> rfl

theorem pollOf_eq (wait : (s.ctx p q).wait = .poll (seqPack opc f) stage) : pollOf s p q opc.toNat = some (f, stage) := by
  unfold pollOf
  rw [wait]
  simp

end Sys2Proof.Claims

end

/-! ## Bids (O17)

The ranked bids are a list in which no later one outranks an earlier (`ranked_pairwise`), so the first that fits is outranked by
none that fits. A bid admitted is taken out of the queue, a region is made, and RGNA completes. -/

section

namespace Sys2Proof.Claims

open Sys2Proof.Machine

/-! ### The ranking (R129) -/

theorem outranks_iff {a b : Bid} : outranks a b = true ↔
    b.prio < a.prio ∨ a.prio = b.prio ∧ (a.arr < b.arr ∨ a.arr = b.arr ∧ a.q < b.q) := by
  simp [outranks]

theorem outranks_irrefl (a : Bid) : outranks a a = false := by
  simp [outranks]

theorem outranks_trans {a b c : Bid} (h : outranks a b = true) (k : outranks b c = true) : outranks a c = true := by
  rw [outranks_iff] at *
  omega

/-- Of two bids in the order of the ranking the later does not outrank the earlier. -/
def Ordered (a b : Nat × Bid) : Prop := outranks b.2 a.2 = false

theorem rankIn_perm (b : Nat × Bid) (l : List (Nat × Bid)) : (rankIn b l).Perm (b :: l) := by
  induction l with
  | nil => exact .refl _
  | cons c cs ih =>
    unfold rankIn
    split
    · exact .refl _
    · exact (ih.cons c).trans (.swap b c cs)

theorem rankIn_pairwise {b : Nat × Bid} {l : List (Nat × Bid)} (h : l.Pairwise Ordered) :
    (rankIn b l).Pairwise Ordered := by
  induction l with
  | nil => exact List.pairwise_singleton ..
  | cons c cs ih =>
    obtain ⟨first, rest⟩ := List.pairwise_cons.1 h
    unfold rankIn
    split
    · rename_i higher
      refine List.pairwise_cons.2 ⟨fun x mem => Bool.eq_false_iff.2 fun up => ?_, h⟩
      have upC : outranks x.2 c.2 = true := outranks_trans up higher
      rcases List.mem_cons.1 mem with rfl | mem
      · exact Bool.eq_false_iff.1 (outranks_irrefl _) upC
      · exact Bool.eq_false_iff.1 (first x mem) upC
    · rename_i lower
      refine List.pairwise_cons.2 ⟨fun x mem => ?_, ih rest⟩
      rcases List.mem_cons.1 ((rankIn_perm b cs).mem_iff.1 mem) with rfl | mem
      · exact Bool.eq_false_iff.2 lower
      · exact first x mem

theorem ranked_pairwise (l : List (Nat × Bid)) : (ranked l).Pairwise Ordered :=
  List.foldlRecOn (motive := fun m => List.Pairwise Ordered m) l _ .nil fun _ h _ _ => rankIn_pairwise h

theorem ranked_perm (l : List (Nat × Bid)) : (ranked l).Perm l := by
  have step (l m : List (Nat × Bid)) : (l.foldl (fun l b => rankIn b l) m).Perm (m ++ l) := by
    induction l generalizing m with
    | nil => rw [List.foldl_nil, List.append_nil]
    | cons b l ih => exact (ih _).trans (((rankIn_perm b m).append_right l).trans List.perm_middle.symm)
  exact step l []

theorem mem_numbered {bs : List Bid} {n : Nat} {b : Bid} : (n, b) ∈ numbered bs ↔ bs[n]? = some b := by
  rw [numbered, List.mem_map]
  constructor
  · rintro ⟨e, mem, same⟩
    obtain ⟨rfl, rfl⟩ := Prod.mk.inj same
    exact List.mem_zipIdx_iff_getElem?.1 mem
  · exact fun h => ⟨(b, n), List.mem_zipIdx_iff_getElem?.2 h, rfl⟩

theorem holBid_of_none {bs : List Bid} (h : ∀ b ∈ bs, b.hol = none) : holBid bs = none := by
  refine List.foldlRecOn (motive := (· = none)) (numbered bs) _ rfl fun m hm e mem => ?_
  have hol : e.2.hol = none := h e.2 (List.mem_of_getElem? (mem_numbered (n := e.1).1 mem))
  rw [hol, hm]

theorem placeBid_eq_some {x : Paddock} {b : Bid} {o : Nat × Nat} (h : placeBid x b = some o) :
    o ∈ bidOrigins b ∧ rectFree x o.1 o.2 b.h b.w = true := by
  unfold placeBid at h
  split at h
  · exact ⟨List.mem_of_find?_eq_some h, List.find?_some (p := fun o : Nat × Nat => rectFree x o.1 o.2 b.h b.w) h⟩
  · exact nomatch h

theorem inFabric_of_origin {b : Bid} {o : Nat × Nat} (h : o ∈ bidOrigins b) : o.1 + b.h ≤ 12 ∧ o.2 + b.w ≤ 12 := by
  have inside := (List.mem_filter.1 h).2
  simpa [inFabric] using inside

theorem arbiterChoice : ArbiterChoice := by
  intro x n row0 col0 noHol pick
  unfold pickRanked at pick
  rw [holBid_of_none noHol] at pick
  dsimp only at pick
  split at pick
  · rename_i m r c found
    obtain ⟨rfl, rfl, rfl⟩ : m = n ∧ r = row0 ∧ c = col0 := by simpa using pick
    obtain ⟨before, e, after, order, placed, unplaced⟩ := List.findSome?_eq_some_iff.1 found
    obtain ⟨o, place, same⟩ := Option.map_eq_some_iff.1 placed
    obtain ⟨rfl, rfl⟩ := Prod.mk.inj same
    obtain ⟨origin, free⟩ := placeBid_eq_some place
    obtain ⟨rows, cols⟩ := inFabric_of_origin origin
    have mem (y : Nat × Bid) : y ∈ ranked (numbered x.bids) ↔ x.bids[y.1]? = some y.2 :=
      (ranked_perm _).mem_iff.trans mem_numbered
    have sorted := ranked_pairwise (numbered x.bids)
    rw [order] at mem sorted
    refine ⟨e.2, (mem e).1 (by simp), origin, rows, cols, by simpa [rectFree] using free, fun m c at_ fits => ?_⟩
    rcases List.mem_append.1 ((mem (m, c)).2 at_) with early | late
    · have none := unplaced _ early
      exact absurd (Option.map_eq_none_iff.1 none) fits
    · rcases List.mem_cons.1 late with rfl | later
      · exact outranks_irrefl _
      · exact (List.pairwise_cons.1 (List.pairwise_append.1 sorted).2.1).1 _ later
  · exact nomatch pick

/-! ### A lone bid is placed (R128, R129) -/

variable {s t u : State} {p q n : Nat} {f : SeqF} {id row0 col0 : Nat} {b : Bid}

theorem bidOrigins_fixed (mode : b.mode = 0) (rows : b.row0 + b.h ≤ 12) (cols : b.col0 + b.w ≤ 12) :
    bidOrigins b = [(b.row0, b.col0)] := by
  simp [bidOrigins, bidCols, inFabric, mode, rows, cols]

theorem freeId_eq_some_iff {x : Paddock} : x.freeId = some id ↔
    id < 16 ∧ (x.region id).alloc = false ∧ ∀ j, j < id → (x.region j).alloc = true := by
  rw [Paddock.freeId, List.find?_range_eq_some]
  simp only [List.mem_range, Bool.not_eq_true', Bool.not_not]
  tauto

theorem holBid_lone : holBid [b] = none ∨ holBid [b] = some (0, b) := by
  cases h : b.hol with
  | none => exact .inl (holBid_of_none (by simp [h]))
  | some k => exact .inr (by simp [holBid, numbered, h])

theorem pickRanked_lone {x : Paddock} (bids : x.bids = [b]) {o : Nat × Nat} (place : placeBid x b = some o) :
    pickRanked x = .grant 0 o.1 o.2 := by
  unfold pickRanked
  rw [bids]
  rcases holBid_lone (b := b) with hol | hol <;> simp [hol, numbered, ranked, rankIn, place]

/-! ### A bid taken out, a region made (R126, R129) -/

/-- Bids that join the head-of-line order stay in their places. -/
theorem length_joinHol (l : List (Nat × Bid)) (a : List Bid × Nat) :
    (l.foldl (fun a e => (a.1.modify e.1 fun b => { b with hol := some a.2 }, a.2 + 1)) a).1.length = a.1.length :=
  List.foldlRecOn (motive := fun c : List Bid × Nat => c.1.length = a.1.length) l _ rfl fun c h e _ => by rw [List.length_modify, h]

/-- An admission takes one bid out of the queue. -/
theorem takeBid_frame (at_ : (s.pad p).bids[n]? = some b) : ∃ bs hol, takeBid s p n =
    s.setPad p { s.pad p with bids := bs, holNext := hol } ∧ bs.length + 1 = (s.pad p).bids.length := by
  have inside : n < (s.pad p).bids.length := (List.getElem?_eq_some_iff.1 at_).1
  refine ⟨_, _, rfl, ?_⟩
  rw [length_joinHol, List.length_map, List.length_eraseIdx_of_lt inside]
  omega

theorem takeBid_ctx (h k : Nat) : (takeBid s p n).ctx h k = s.ctx h k := by
  by_cases hp : h = p
  · subst hp
    rw [State.ctx, takeBid, State.updPad, State.pad_setPad_same]
    rfl
  · rw [State.ctx, takeBid, State.updPad, State.pad_setPad_other _ _ _ _ hp]
    rfl

theorem takeBid_region (h k : Nat) : (takeBid s p n).region h k = s.region h k := by
  by_cases hp : h = p
  · subst hp
    rw [State.region, takeBid, State.updPad, State.pad_setPad_same]
    rfl
  · rw [State.region, takeBid, State.updPad, State.pad_setPad_other _ _ _ _ hp]
    rfl

theorem takeBid_trace : ((takeBid s p n).pad p).trace = (s.pad p).trace := by
  rw [takeBid, State.updPad, State.pad_setPad_same]

theorem takeBid_freeId : ((takeBid s p n).pad p).freeId = (s.pad p).freeId := by
  rw [takeBid, State.updPad, State.pad_setPad_same]
  rfl

/-- A region as it is made (R126). -/
def madeRegion (b : Bid) (row0 col0 : Nat) (task : Option Nat) (seed : BitVec 64) : Region :=
  { alloc := true, owner := b.q, row0 := row0, col0 := col0, h := b.h, w := b.w, prio := b.prio, task := task,
    seed := seed, fullH := b.h, ord := b.ord }

/-- A region made: no other region changes. -/
theorem newRegion_work {task : Option Nat} {seed : BitVec 64} {clear : Bool} :
    RegionWork p id s (newRegion s p id b row0 col0 task seed clear) := by
  unfold newRegion
  exact (TileWork.foldl (g := fun _ => ()) fun _ _ => tileWork_updTile fun _ => rfl).regionWork.trans regionWork_setRegion

theorem newRegion_region {task : Option Nat} {seed : BitVec 64} {clear : Bool} :
    (newRegion s p id b row0 col0 task seed clear).region p id = madeRegion b row0 col0 task seed := State.region_setRegion_same ..

/-- Nothing is recorded while no dispatch trace is on (R274). -/
theorem dispatchEvent_off {kind rid ttype ord : Nat} (off : (s.pad p).trace.mode = 0) :
    dispatchEvent s p kind q rid ttype row0 col0 ord = s := by
  unfold dispatchEvent
  dsimp only
  rw [off, if_neg (by decide), if_neg (by decide)]

/-! ### A context's bid admitted (R126, R144) -/

/-- A write of a context leaves the rest of the state. -/
theorem finish_unissue_eq {ib tb : Nat} {upd : Ctx → Ctx} : ∃ c, finish (s.unissue p q) p q ib tb upd = s.setCtx p q c := by
  unfold State.unissue
  split
  · exact ⟨_, by rw [finish, State.updCtx, State.ctx_setCtx_same, State.setCtx_setCtx]⟩
  · exact ⟨_, rfl⟩

theorem exec_bidAdmit {p : Fin 32} (pick : pickBid s p = (.grant n row0 col0, s)) (at_ : (s.pad p).bids[n]? = some b)
    (kind : b.kind = .ctx q) : exec (.bidAdmit p n) s = .next (admitCtx (takeBid s p n) p q b row0 col0) := by
  show execBidAdmit p n s = _
  unfold execBidAdmit
  rw [pick]
  dsimp only
  rw [if_neg (by simp), at_]
  dsimp only
  rw [kind]

/-- A granted bid of a context: its region is made, and its RGNA completes. -/
theorem bidAdmit_ctx {p : Fin 32} {st : Nat} (pick : pickBid s p = (.grant n row0 col0, s))
    (at_ : (s.pad p).bids[n]? = some b) (kind : b.kind = .ctx q) (free : (s.pad p).freeId = some id)
    (wait : (s.ctx p q).wait = .poll (seqPack 0x60 f) st) (off : (s.pad p).trace.mode = 0) :
    ∃ t, exec (.bidAdmit p n) s = .next t ∧
      (∃ seed, t.region p id = madeRegion b row0 col0 none seed) ∧
      Completes s t p q 0 0 ∧ Writes s t p q f.d (BitVec.ofNat 64 (id + 256 * row0 + 4096 * col0)) ∧
      (t.pad p).bids.length + 1 = (s.pad p).bids.length ∧ OtherRegions s t p id ∧ SameBytes s t := by
  obtain ⟨bs, hol, taken, length⟩ := takeBid_frame at_
  have made := newRegion_work (s := takeBid s p n) (p := p) (id := id) (b := b) (row0 := row0) (col0 := col0) (task := none)
    (seed := ((takeBid s p n).ctx p q).launch.seed) (clear := true)
  generalize region : newRegion (takeBid s p n) p id b row0 col0 none ((takeBid s p n).ctx p q).launch.seed true = u at made
  have ctx : u.ctx p q = s.ctx p q := (made.work.ctx p q).trans (takeBid_ctx p q)
  have waits : (u.ctx p q).wait = .poll (seqPack 0x60 f) st := by rw [ctx, wait]
  have polls : pollOf (takeBid s p n) p q 0x60 = some (f, st) := pollOf_eq (opc := 0x60) (by rw [takeBid_ctx, wait])
  have untraced : (u.pad p).trace.mode = 0 := by rw [made.work.trace, takeBid_trace, off]
  have run : exec (.bidAdmit p n) s = .next (finish (u.unissue p q) p q 1 0 fun c =>
      c.wr f.d (BitVec.ofNat 64 (id + 256 * row0 + 4096 * col0))) := by
    rw [exec_bidAdmit pick at_ kind, admitCtx, takeBid_freeId, free, polls]
    dsimp only
    rw [region, dispatchEvent_off untraced]
  obtain ⟨done, wrote⟩ := finish_unissued (d := f.d) (v := BitVec.ofNat 64 (id + 256 * row0 + 4096 * col0)) (w := seqPack 0x60 f)
    waits (pollCost_one (by decide)) rfl
  obtain ⟨c, frame⟩ := finish_unissue_eq (s := u) (p := p) (q := q) (ib := 1) (tb := 0)
    (upd := fun c => c.wr f.d (BitVec.ofNat 64 (id + 256 * row0 + 4096 * col0)))
  refine ⟨_, run, ⟨((takeBid s p n).ctx p q).launch.seed, ?_⟩, done.of_ctx ctx, wrote.of_ctx ctx, ?_, fun h k ne => ?_, fun g a => ?_⟩ <;>
    rw [frame]
  · rw [State.region_setCtx, ← region]
    exact newRegion_region
  · rw [pad_setCtx, Paddock.setCtx_bids, made.work.bids, taken, State.pad_setPad_same, length]
  · rw [State.region_setCtx, made.others h k ne, takeBid_region]
  · exact made.work.byte g a

/-! ### RGNA (R144) -/

theorem descBid_eq {a : BitVec 64} : descBid q a =
    if (a.toNat % 16 + (a.toNat / 256 % 16 + 1) ≤ 12 ∧ a.toNat / 16 % 16 + (a.toNat / 4096 % 16 + 1) ≤ 12) ∧
      a.toNat / 2 ^ 16 % 4 ≤ 2 then
      some { kind := .ctx q, row0 := a.toNat % 16, col0 := a.toNat / 16 % 16, h := a.toNat / 256 % 16 + 1,
             w := a.toNat / 4096 % 16 + 1, mode := a.toNat / 2 ^ 16 % 4, prio := a.toNat / 2 ^ 18 % 8, q := q, arr := 0 }
    else none := by
  simp [descBid, inFabric, fld, Nat.shiftRight_eq_div_pow]

theorem execRgna_of_guardOk (guard : guardOk s.curCtx f = true) : exec (.rgna f) s = .next
    (match descBid s.cur.q (s.curCtx.opA f) with
    | none => refuseA s f 0x1B
    | some b => addBid (pollFor s 0x60 f 0) s.cur.p b) := by
  show execRgna f s = _
  rw [execRgna, issueWith_of_guardOk guard]
  cases descBid s.cur.q (s.curCtx.opA f) <;> rfl

/-- A bid placed stands last in its paddock's queue. -/
theorem addBid_ctx (h k : Nat) : (addBid s p b).ctx h k = s.ctx h k := by
  by_cases hp : h = p
  · subst hp
    rw [State.ctx, addBid, State.updPad, State.pad_setPad_same]
    rfl
  · rw [State.ctx, addBid, State.updPad, State.pad_setPad_other _ _ _ _ hp]
    rfl

theorem addBid_bids : ((addBid s p b).pad p).bids =
    (s.pad p).bids ++ [{ b with arr := s.fc p, ord := (s.pad p).nextOrd b.q }] := by
  rw [addBid, State.updPad, State.pad_setPad_same]
  rfl

theorem polls_of_ctx {opc : BitVec 8} {stage ib tb : Nat} (ctx : u.ctx p q = t.ctx p q) (h : Polls s t p q opc f stage ib tb) :
    Polls s u p q opc f stage ib tb := by
  unfold Polls
  rw [ctx]
  exact h

theorem pollFor_frame {opc : BitVec 8} {stage : Nat} (atP : s.cur.p = p) (atQ : s.cur.q = q) :
    ∃ c, pollFor s opc f stage = s.setCtx p q c := ⟨_, pollFor_eq atP atQ⟩

theorem fc_setCtx {c : Ctx} : (s.setCtx p q c).fc p = s.fc p := by
  rw [State.fc, pad_setCtx]
  rfl

theorem withdrawBids_ctx : (withdrawBids s p q).ctx p q = s.ctx p q := by
  rw [State.ctx, withdrawBids, State.updPad, State.pad_setPad_same]
  rfl

/-- No bid of a context stands once its bids are withdrawn (R143). -/
theorem withdrawBids_own (mem : b ∈ ((withdrawBids s p q).pad p).bids) : b.kind ≠ .ctx q := by
  rw [withdrawBids, State.updPad, State.pad_setPad_same] at mem
  intro kind
  have stays := (List.mem_filter.1 mem).2
  rw [kind] at stays
  simp at stays

theorem regionAdmission : RegionAdmission := by
  refine ⟨fun f s guard => ?_, fun f s p q st wait try_ => ?_, ?_, ?_⟩
  · dsimp only
    have run := execRgna_of_guardOk guard
    rw [descBid_eq, Ctx.opA] at run
    refine ⟨fun ⟨rows, cols, modes⟩ => ?_, fun bad => ?_⟩
    · rw [if_pos ⟨⟨rows, cols⟩, modes⟩] at run
      obtain ⟨polls, -⟩ := pollFor_polls (s := s) (u := s) (stage := 0) rfl rfl rfl (pollCost_one (opc := 0x60) (f := f) (by decide))
      obtain ⟨c, frame⟩ := pollFor_frame (s := s) (f := f) (opc := 0x60) (stage := 0) rfl rfl
      refine ⟨_, _, run, polls_of_ctx (addBid_ctx ..) polls, fun g x => by rw [frame]; rfl,
        by rw [addBid_bids, frame, pad_setCtx, Paddock.setCtx_bids], rfl, rfl, rfl, rfl, fc_setCtx, rfl⟩
    · rw [if_neg (fun ok => by rcases bad with bad | bad | bad <;> omega)] at run
      exact refused_of_refuseA run
  · have cost : pollCost s p q (seqPack 0x60 f) = (1, 0) := pollCost_one (by decide)
    have ctx : ((withdrawBids (s.unissue p q) p q).ctx p q) = (s.unissue p q).ctx p q := withdrawBids_ctx
    have tries : tryPoll (s.unissue p q) p q (seqPack 0x60 f) st =
        some (finish (withdrawBids (s.unissue p q) p q) p q 1 0 fun c => c.wr f.d (-1)) := by
      simp [tryPoll, tryRgna, try_]
    obtain ⟨done, wrote⟩ := finish_unissued (d := f.d) (v := -1) wait cost ctx
    refine ⟨_, (exec_seqOpComplete wait).trans (by rw [tries, Option.elim_some, finish_reissue]), done, wrote, ?_⟩
    intro b mem
    rw [finish, pad_setCtx, Paddock.setCtx_bids] at mem
    exact withdrawBids_own mem
  · intro f s p q id b st bids kind own mode rows cols free low noAlloc lower wait off till
    have freeId : (s.pad p).freeId = some id := freeId_eq_some_iff.2 ⟨low, noAlloc, lower⟩
    have place : placeBid (s.pad p) b = some (b.row0, b.col0) := by
      have id : idOk (s.pad p) b = true := by rw [idOk, kind, freeId]; rfl
      rw [placeBid, if_pos id, bidOrigins_fixed mode rows cols]
      have clear : rectFree (s.pad p) b.row0 b.col0 b.h b.w = true := by simpa [rectFree, Paddock.tileFree] using free
      simp [clear]
    have pick : pickBid s p = (.grant 0 b.row0 b.col0, s) := by
      unfold pickBid
      dsimp only
      rw [if_neg (by omega), if_neg (by rw [off]; decide), pickRanked_lone bids place]
    have at_ : (s.pad p).bids[0]? = some b := by rw [bids]; rfl
    obtain ⟨t, run, ⟨seed, region⟩, done, wrote, length, others, bytes⟩ := bidAdmit_ctx pick at_ kind freeId wait off
    rw [bids] at length
    refine ⟨t, run, ?_, ?_, ?_, done, wrote, List.length_eq_zero_iff.1 (Nat.succ.inj length), others, bytes⟩ <;> rw [region]
    · rfl
    · exact own
    · rfl
  · intro f s p q n row0 col0 id b st pick at_ kind own freeId wait off
    obtain ⟨t, run, ⟨seed, region⟩, done, wrote, length, others, bytes⟩ := bidAdmit_ctx pick at_ kind freeId wait off
    obtain ⟨-, noAlloc, -⟩ := freeId_eq_some_iff.1 freeId
    refine ⟨t, run, noAlloc, ?_, done, wrote, length, others, bytes⟩
    rw [region]
    exact ⟨rfl, own, rfl, rfl, rfl, rfl⟩

end Sys2Proof.Claims

namespace Sys2Proof

/-- Settles O17: a bid is placed, withdrawn or granted, and the choice is the first bid of a sorted list that fits. -/
theorem regionBids : Obligations.RegionBids := ⟨Claims.regionAdmission, Claims.arbiterChoice⟩

end Sys2Proof

end

/-! ## Splices and decisions (O19)

SPLC writes every tile's flag and arms; a swap writes its own tile, then its region, and with the last tile ends the splice. DECB
notes its slot, and the switch of a drained region is an activation that keeps locals. -/

section

namespace Sys2Proof.Claims

open Sys2Proof.Machine

variable {s t u : State} {p q id k n : Nat} {f : SeqF} {r : Region} {sp : Splice}

/-! ### A tag set (R83, R85) -/

/-- A completion sets its tag in its context, which may take a free value as it wakes. -/
theorem setTag_frame : ∃ m l w, setTag s p q n = { s.setCtx p q { s.ctx p q with
    tags := (s.ctx p q).tags ||| BitVec.ofNat 64 (2 ^ n), setNow := (s.ctx p q).setNow ||| BitVec.ofNat 64 (2 ^ n),
    latch := l, wait := w } with free := m } := by
  unfold setTag
  dsimp only
  split
  · obtain ⟨w, m, wakes, -, -⟩ := wakeCtx_frame (s := s.setCtx p q { s.ctx p q with
      tags := (s.ctx p q).tags ||| BitVec.ofNat 64 (2 ^ n), setNow := (s.ctx p q).setNow ||| BitVec.ofNat 64 (2 ^ n) })
      (p := p) (q := q)
    exact ⟨m, true, w, wakes.trans (by rw [State.setCtx_setCtx, State.ctx_setCtx_same])⟩
  · exact ⟨s.free, (s.ctx p q).latch, (s.ctx p q).wait, rfl⟩

theorem getLsbD_tags (x : BitVec 64) (g : BitVec 6) : (x ||| BitVec.ofNat 64 (2 ^ g.toNat)).getLsbD g.toNat = true := by
  have low : g.toNat < 64 := g.isLt
  rw [BitVec.getLsbD_or, BitVec.getLsbD_ofNat, Nat.testBit_two_pow_self, decide_eq_true low, Bool.and_true, Bool.or_true]

/-! ### SPLC (R137, R146) -/

/-- Every tile of a list is written. -/
theorem foldl_updTile_mem {P : Tile → Prop} {g : Tile → Tile} (hg : ∀ tl, P (g tl)) {l : List Nat} (mem : k ∈ l) :
    P ((l.foldl (fun s j => s.updTile p j g) s).tile p k) := by
  induction l using List.reverseRecOn with
  | nil => simp at mem
  | append_singleton l e ih =>
    rw [List.foldl_append, List.foldl_cons, List.foldl_nil, State.updTile]
    by_cases here : k = e
    · subst here
      rw [State.tile_setTile_same]
      exact hg _
    · rw [State.tile_setTile_other _ _ _ _ _ here]
      exact ih ((List.mem_append.mp mem).resolve_right fun h => here (List.mem_singleton.mp h))

theorem armSplice_work : RegionWork p id s (armSplice s p id sp) := by
  unfold armSplice
  exact (TileWork.foldl (g := fun _ => ()) fun _ _ => tileWork_updTile fun _ => rfl).regionWork.trans regionWork_updRegion

theorem armSplice_region : (armSplice s p id sp).region p id = { s.region p id with spl := some sp } := by
  unfold armSplice
  dsimp only
  rw [region_updRegion, (TileWork.foldl (g := fun _ => ()) fun _ _ => tileWork_updTile fun _ => rfl).region]

theorem armSplice_swapped (mem : k ∈ (s.region p id).tileList) : ((armSplice s p id sp).tile p k).swapped = false := by
  unfold armSplice
  dsimp only
  rw [tile_updRegion]
  exact foldl_updTile_mem (P := fun tl => tl.swapped = false) (fun _ => rfl) mem

/-- A splice armed, and its instruction complete. -/
theorem armSplice_completes (at_ : s.region p id = r) (sp : Splice) :
    let t := finish (armSplice s p id sp) p q 1 0 fun c => c
    Completes s t p q 1 0 ∧ NoWrite s t p q ∧ (t.region p id).spl = some sp ∧ (t.region p id).act = r.act ∧
      (∀ k ∈ r.tileList, (t.tile p k).swapped = false) ∧ OtherRegions s t p id ∧ SameBytes s t := by
  subst at_
  obtain ⟨work, others⟩ := armSplice_work (s := s) (p := p) (id := id) (sp := sp)
  obtain ⟨done, regs⟩ := finish_completes (ib := 1) (tb := 0) (work.ctx p q)
  refine ⟨done, regs, ?_, ?_, fun k mem => ?_, fun h k ne => ?_, fun g x => work.byte g x⟩
  · rw [finish, State.region_setCtx, armSplice_region]
  · rw [finish, State.region_setCtx, armSplice_region]
  · rw [finish, State.tile_setCtx]
    exact armSplice_swapped mem
  · rw [finish, State.region_setCtx]
    exact others h k ne

theorem cfgIn_of_slotLoaded (h : slotLoaded s p r n = false) : r.cfgIn s p n = none := by
  simpa [slotLoaded] using h

/-! ### SPLICE_SWAP (R137) -/

theorem accessing_eq_false {tl : Tile} {fc : Nat} (reqs : ∀ x ∈ tl.reqs, 0x89 < (fabOpc x.word).toNat)
    (mx : tl.mx.works fc = false) : tl.accessing fc = false := by
  rw [Tile.accessing, mx, Bool.or_false, List.any_eq_false]
  intro x mem
  have := reqs x mem
  simpa using this

/-- The statement's four conditions are the model's. -/
theorem swapReady_of_conditions (h : SwapConditions s p k r sp) :
    swapReady s p k r sp = true ∧ (s.tile p k).pendZero = true := by
  obtain ⟨st, unswapped, reqs, mx, inputs, outputs, pend⟩ := h
  refine ⟨?_, Tile.pendZero_iff.2 pend⟩
  unfold swapReady
  dsimp only
  rw [unswapped, accessing_eq_false reqs (works_of mx), st]
  simp only [Bool.not_false, Bool.true_and, beq_self_eq_true, Bool.and_true, Bool.and_eq_true, List.all_eq_true, List.mem_range,
    Bool.or_eq_true, Bool.not_eq_true', Option.isSome_eq_false_iff, Option.isNone_iff_eq_none, List.any_eq_false, beq_iff_eq]
  refine ⟨fun n low => ?_, fun n low => ?_⟩
  · exact or_iff_not_imp_left.2 (inputs n low)
  · rw [or_assoc]
    exact or_iff_not_imp_left.2 (outputs n low)

/-- What a swap leaves of a tile that the splice's end clears no part of. -/
def swapPart (tl : Tile) : Bool × BitVec 8 × (Nat → BitVec 32) := (tl.swapped, tl.preds, tl.lc)

/-- A tile swapped, with its region's note of it, before the splice may end. -/
def swapOne (s : State) (p id k : Nat) (sp : Splice) : State :=
  let s := s.updTile p k fun tl =>
    { activateTile tl ((Tbl.find? (s.tile p k).cfgs sp.succ.toNat).getD []) false with swapped := true }
  (dropReplay s p (s.region p id)).updRegion p id fun r => { r with busy := true, committed := false, replayed := false }

/-- A splice ended. -/
def endSplice (s : State) (p id : Nat) (sp : Splice) : State :=
  let s := ((s.region p id).tileList.foldl (fun s u => s.updTile p u fun tl => { tl with eosIn := 0, eosOut := 0 }) s).updRegion
    p id fun r => { r with act := some sp.succ, spl := none }
  match sp.tag with
  | some n => setTag s p sp.q n.toNat
  | none => s

theorem swapTile_eq : swapTile s p id k sp =
    if ((swapOne s p id k sp).region p id).tileList.all fun j => ((swapOne s p id k sp).tile p j).swapped then
      endSplice (swapOne s p id k sp) p id sp
    else swapOne s p id k sp := rfl

theorem swapOne_leaves : SameBytes s (swapOne s p id k sp) ∧
    (swapOne s p id k sp).region p id = { s.region p id with busy := true, committed := false, replayed := false } ∧
    swapPart ((swapOne s p id k sp).tile p k) = (true, 0, (s.tile p k).lc) ∧
    ∀ j, j ≠ k → swapPart ((swapOne s p id k sp).tile p j) = swapPart (s.tile p j) := by
  unfold swapOne
  dsimp only
  generalize written : (s.updTile p k fun tl =>
    { activateTile tl ((Tbl.find? (s.tile p k).cfgs sp.succ.toNat).getD []) false with swapped := true }) = w
  have tiles : TileWork (fun _ => ()) s w := written ▸ tileWork_updTile fun _ => rfl
  have drops : TileWork swapPart w (dropReplay w p (w.region p id)) := tileWork_dropReplay fun _ _ _ => rfl
  refine ⟨(tiles.work.trans (drops.work.trans (work_setRegion ..))).byte, ?_, ?_, fun j ne => ?_⟩
  · rw [region_updRegion, drops.region, tiles.region]
  · rw [tile_updRegion, drops.tile, ← written, State.updTile, State.tile_setTile_same]
    rfl
  · rw [tile_updRegion, drops.tile, ← written, State.updTile, State.tile_setTile_other _ _ _ _ _ ne]

theorem endSplice_leaves : let t := endSplice s p id sp
    SameBytes s t ∧ (t.region p id).act = some sp.succ ∧ (t.region p id).spl = none ∧
      (∀ j, swapPart (t.tile p j) = swapPart (s.tile p j)) ∧
      ∀ g : BitVec 6, sp.tag = some g → (t.ctx p sp.q).tags.getLsbD g.toNat = true := by
  unfold endSplice
  dsimp only
  have tiles : TileWork swapPart s ((s.region p id).tileList.foldl
      (fun s u => s.updTile p u fun tl => { tl with eosIn := 0, eosOut := 0 }) s) :=
    .foldl fun _ _ => tileWork_updTile fun _ => rfl
  generalize (s.region p id).tileList.foldl (fun s u => s.updTile p u fun tl => { tl with eosIn := 0, eosOut := 0 }) s = v
    at tiles
  have byte := (tiles.work.trans (work_setRegion v p id { v.region p id with act := some sp.succ, spl := none })).byte
  have tile (j : Nat) : swapPart ((v.updRegion p id fun r => { r with act := some sp.succ, spl := none }).tile p j) =
      swapPart (s.tile p j) := by
    rw [tile_updRegion]
    exact tiles.tile p j
  split
  · rename_i n tagged
    obtain ⟨m, l, w, sets⟩ := setTag_frame (s := v.updRegion p id fun r => { r with act := some sp.succ, spl := none })
      (p := p) (q := sp.q) (n := n.toNat)
    have region : (setTag (v.updRegion p id fun r => { r with act := some sp.succ, spl := none }) p sp.q n.toNat).region p id =
        { v.region p id with act := some sp.succ, spl := none } := by
      rw [sets]
      exact (State.region_setCtx ..).trans region_updRegion
    refine ⟨fun g a => ?_, ?_, ?_, fun j => ?_, fun g same => ?_⟩
    · rw [sets]
      exact byte g a
    · rw [region]
    · rw [region]
    · rw [sets]
      exact (congrArg swapPart (State.tile_setCtx ..)).trans (tile j)
    · obtain rfl : g = n := Option.some.inj (same.symm.trans tagged)
      rw [sets]
      show ((State.setCtx _ p sp.q _).ctx p sp.q).tags.getLsbD g.toNat = true
      rw [State.ctx_setCtx_same]
      exact getLsbD_tags ..
  · rename_i untagged
    refine ⟨byte, ?_, ?_, tile, fun g same => nomatch same.symm.trans untagged⟩ <;> rw [region_updRegion]

/-- With the last tile the splice ends; before, it stays armed. -/
theorem swapTile_leaves (at_ : s.region p id = r) (armed : r.spl = some sp) (mem : k ∈ r.tileList) :
    let t := swapTile s p id k sp
    let last := ∀ j ∈ r.tileList, j ≠ k → (s.tile p j).swapped = true
    (t.tile p k).swapped = true ∧ (t.tile p k).preds = 0 ∧ (∀ j, (t.tile p k).lc j = (s.tile p k).lc j) ∧
      (last → (t.region p id).act = some sp.succ ∧ (t.region p id).spl = none ∧
        ∀ g : BitVec 6, sp.tag = some g → (t.ctx p sp.q).tags.getLsbD g.toNat = true) ∧
      (¬ last → (t.region p id).act = r.act ∧ (t.region p id).spl = some sp) ∧ SameBytes s t := by
  intro t last
  obtain ⟨byte, region, mine, others⟩ := swapOne_leaves (s := s) (p := p) (id := id) (k := k) (sp := sp)
  have all : (((swapOne s p id k sp).region p id).tileList.all fun j => ((swapOne s p id k sp).tile p j).swapped) = true ↔ last := by
    have tiles : ((swapOne s p id k sp).region p id).tileList = r.tileList := by
      rw [region, at_]
      rfl
    rw [tiles, List.all_eq_true]
    refine forall₂_congr fun j _ => ?_
    by_cases here : j = k
    · subst here
      exact ⟨fun _ no => absurd rfl no, fun _ => congrArg (·.1) mine⟩
    · have same : ((swapOne s p id k sp).tile p j).swapped = (s.tile p j).swapped := congrArg (·.1) (others j here)
      rw [same]
      exact ⟨fun h _ => h, fun h => h here⟩
  have eq : t = if last then endSplice (swapOne s p id k sp) p id sp else swapOne s p id k sp :=
    swapTile_eq.trans (if_congr all rfl rfl)
  have parts (h : swapPart (t.tile p k) = (true, 0, (s.tile p k).lc)) :
      (t.tile p k).swapped = true ∧ (t.tile p k).preds = 0 ∧ ∀ j, (t.tile p k).lc j = (s.tile p k).lc j := by
    simp only [swapPart, Prod.mk.injEq] at h
    obtain ⟨swapped, preds, lc⟩ := h
    exact ⟨swapped, preds, fun j => congrFun lc j⟩
  by_cases isLast : last
  · rw [if_pos isLast] at eq
    obtain ⟨ends, act, spl, tile, tags⟩ := endSplice_leaves (s := swapOne s p id k sp) (p := p) (id := id) (sp := sp)
    rw [← eq] at ends act spl tile tags
    obtain ⟨swapped, preds, lc⟩ := parts ((tile k).trans mine)
    exact ⟨swapped, preds, lc, fun _ => ⟨act, spl, tags⟩, fun no => absurd isLast no, fun g a => (ends g a).trans (byte g a)⟩
  · rw [if_neg isLast] at eq
    rw [← eq] at byte region mine
    obtain ⟨swapped, preds, lc⟩ := parts mine
    rw [region, at_]
    exact ⟨swapped, preds, lc, fun yes => absurd yes isLast, fun _ => ⟨rfl, armed⟩, byte⟩

theorem exec_spliceSwap {p : Fin 32} {k : Fin 144} (at_ : (s.pad p).regionAt k = some (id, r)) (armed : r.spl = some sp)
    (ready : SwapConditions s p k r sp) : exec (.spliceSwap p k) s = .next (swapTile s p id k sp) := by
  obtain ⟨conditions, pend⟩ := swapReady_of_conditions ready
  show execSpliceSwap p k s = _
  unfold execSpliceSwap
  rw [at_]
  dsimp only
  rw [armed]
  dsimp only
  rw [conditions, pend]
  rfl

theorem spliceArmsAndSwaps : SpliceArmsAndSwaps := by
  refine ⟨fun f s p q id names => ?_, fun s p k id r sp at_ is armed ready mem => ?_⟩
  · have slot : fld f.imm 0 2 = f.imm.toNat % 4 := fld_zero ..
    have step : exec (.splc f) s = _ := (show exec (.splc f) s = execSplc f s from rfl).trans (regionIns_of_names names)
    dsimp only at step ⊢
    rw [slot, names.atP, names.atQ] at step
    generalize at_ : s.region p id = r at step ⊢
    refine ⟨fun task => refused_of_refuseA (step.trans ?_), fun own act => refused_of_refuseA (step.trans ?_),
      fun own act busy => refused_of_refuseA (step.trans ?_), fun own act spl dec empty => refused_of_refuseA (step.trans ?_),
      fun o c d own act spl dec new old => ⟨fun same => refused_of_refuseA (step.trans ?_), fun other gen => ?_⟩⟩
    · rw [if_pos (Option.isSome_iff_ne_none.2 task)]
    · simp [own, act]
    · obtain ⟨o, act⟩ := Option.ne_none_iff_exists'.1 act
      have pending : (r.spl.isSome || r.dec.isSome) = true := by
        simpa [Option.isSome_iff_ne_none] using busy
      simp [own, act, pending]
    · obtain ⟨o, act⟩ := Option.ne_none_iff_exists'.1 act
      simp [own, act, spl, dec, cfgIn_of_slotLoaded empty]
    · simp [own, act, spl, dec, new, old, same]
    · have armed := armSplice_completes (p := p) (q := q) at_
        { succ := BitVec.ofNat 2 (f.imm.toNat % 4), q := q,
          tag := if f.imm.getLsbD 2 then some (f.imm.extractLsb' 3 6) else none, oldGen := hdrGen d.hdr }
      refine ⟨_, step.trans ?_, armed⟩
      simp [own, act, spl, dec, new, old, other, gen, finishCur, armSplice_work.work.cur, names.atP, names.atQ]
  · intro last
    exact ⟨_, exec_spliceSwap at_ armed ready, swapTile_leaves is armed mem⟩

/-! ### DECB (R136, R146, R318) -/

/-- A broadcast placed, and its instruction complete. -/
def placesDecision (s : State) (p q id n : Nat) : State :=
  finish (s.updRegion p id fun r => { r with dec := some (BitVec.ofNat 2 n), committed := true }) p q 1 0 fun c => c

theorem execDecb_of_names {p : Fin 32} {q : Fin 4} (names : Names s p q f id) : exec (.decb f) s = .next
    (if slotLoaded s p (s.region p id) ((s.curCtx.rd f.b).toNat % 4) = true then
      if (s.region p id).dec = none then placesDecision s p q id ((s.curCtx.rd f.b).toNat % 4) else pollFor s 0x69 f 0
    else refuseA s f 0x13) := by
  have named : regionId s p q f = id := (fld_zero ..).trans (by
    rw [← names.named, State.curCtx, names.atP, names.atQ]
    rfl)
  have operand : fld ((s.ctx p q).opB f) 0 2 = (s.curCtx.rd f.b).toNat % 4 := by
    rw [fld_zero, State.curCtx, names.atP, names.atQ]
    rfl
  have step : exec (.decb f) s = _ := (show exec (.decb f) s = execDecb f s from rfl).trans (regionIns_of_names names)
  dsimp only at step
  unfold tryOrPoll tryDecb at step
  rw [names.atP, names.atQ, named, operand, show fld (s.curCtx.opB f) 0 2 = (s.curCtx.rd f.b).toNat % 4 from fld_zero ..] at step
  rw [step]
  cases slotLoaded s p (s.region p id) ((s.curCtx.rd f.b).toNat % 4)
  · rfl
  · cases dec : (s.region p id).dec with
    | none => exact congrArg Host.Outcome.next (by simp only [dec]; exact finish_reissue)
    | some _ => simp [dec]

theorem placesDecision_completes : let t := placesDecision s p q id n
    Completes s t p q 1 0 ∧ NoWrite s t p q ∧
      t.region p id = { s.region p id with dec := some (BitVec.ofNat 2 n), committed := true } ∧ OtherRegions s t p id ∧
      SameBytes s t := by
  obtain ⟨done, regs⟩ := finish_completes (s := s) (u := s.updRegion p id fun r =>
    { r with dec := some (BitVec.ofNat 2 n), committed := true }) (p := p) (q := q) (ib := 1) (tb := 0) (State.ctx_setRegion ..)
  refine ⟨done, regs, ?_, fun h k ne => ?_, fun _ _ => rfl⟩
  · rw [placesDecision, finish, State.region_setCtx, region_updRegion]
  · rw [placesDecision, finish, State.region_setCtx]
    exact region_setRegion_ne ne

/-! ### DECISION_SWITCH (R136, R134) -/

theorem pollOf_eq_some {opc stage : Nat} (h : pollOf s p q opc = some (f, stage)) :
    ∃ w, (s.ctx p q).wait = .poll w stage ∧ (seqOpc w).toNat = opc ∧ seqFields w = f := by
  unfold pollOf at h
  split at h
  · rename_i w st wait
    split at h
    · rename_i same
      obtain ⟨rfl, rfl⟩ := Prod.mk.inj (Option.some.inj h)
      exact ⟨w, wait, same, rfl⟩
    · exact nomatch h
  · exact nomatch h

theorem ownerWaits_eq_some {opc stage : Nat} (h : ownerWaits s p id opc = some (f, stage)) :
    pollOf s p (s.region p id).owner opc = some (f, stage) ∧ regionId s p (s.region p id).owner f = id := by
  unfold ownerWaits at h
  dsimp only at h
  split at h
  · rename_i e polls
    split at h
    · rename_i named
      obtain ⟨rfl, rfl⟩ := Prod.mk.inj (Option.some.inj h)
      exact ⟨polls, named⟩
    · exact nomatch h
  · exact nomatch h

/-- The model's waiting CFGA is the statement's. -/
theorem cfgaDrains_iff : cfgaDrains s p id = true ↔ CfgaDrains s p id := by
  refine ⟨fun drains => ?_, cfgaDrains_of⟩
  unfold cfgaDrains at drains
  split at drains
  · rename_i f stage waits
    obtain ⟨polls, named⟩ := ownerWaits_eq_some waits
    obtain ⟨w, wait, opc, rfl⟩ := pollOf_eq_some polls
    simp only [Bool.and_eq_true, beq_iff_eq, Bool.not_eq_true'] at drains
    obtain ⟨rfl, plain⟩ := drains
    exact ⟨w, wait, BitVec.eq_of_toNat_eq opc, (fld_zero ..).symm.trans named, plain⟩
  · exact nomatch drains

theorem switchDue_eq {n : BitVec 2} (dec : (s.region p id).dec = some n) (alloc : (s.region p id).alloc = true)
    (st : (s.region p id).st = .running ∨ (s.region p id).st = .noConfig) (spl : (s.region p id).spl = none)
    (trap : (s.region p id).trap = none) (paused : (s.region p id).paused = false) (cfga : ¬ CfgaDrains s p id)
    (drains : Drained s p id (s.region p id)) : switchDue s p id = some n := by
  unfold switchDue
  dsimp only
  rw [dec]
  dsimp only
  rw [if_pos]
  refine ⟨alloc, st, spl, trap, not_eq_true_of_false paused, ?_, drained_iff.2 drains⟩
  exact not_eq_true_of_false (Bool.eq_false_iff.2 (mt cfgaDrains_iff.1 cfga))

theorem markBusy_work : RegionWork p id s (markBusy s p id) := by
  unfold markBusy
  dsimp only
  split
  · exact regionWork_setRegion
  · exact ⟨.refl s, fun _ _ _ => rfl⟩

/-- A region noted busy is otherwise as it was. -/
theorem markBusy_region : ∃ b, (markBusy s p id).region p id = { s.region p id with busy := b } := by
  unfold markBusy
  dsimp only
  split
  · exact ⟨true, State.region_setRegion_same ..⟩
  · exact ⟨(s.region p id).busy, rfl⟩

/-- A switch activates and keeps locals, vector registers, scales and zero points. -/
theorem switch_activated {n : BitVec 2} : Activated s (markBusy (activateRegion s p id n false) p id) p id n.toNat false := by
  obtain ⟨act, st, saved, dec, spl, runFrom⟩ := activateRegion_region (s := s) (p := p) (id := id) (slot := n) (full := false)
  obtain ⟨b, region⟩ := markBusy_region (s := activateRegion s p id n false) (p := p) (id := id)
  have rect := (activateRegion_regionOnly (s := s) (p := p) (id := id) (slot := n) (full := false)).rect
  unfold Activated
  dsimp only
  simp only [region, tile_markBusy]
  refine ⟨by rw [act, BitVec.ofNat_toNat, BitVec.setWidth_eq], st, saved, dec, spl, runFrom, rect, fun k mem => ?_⟩
  obtain ⟨lc, mx⟩ := Prod.mk.inj (activateRegion_keepsTile (s := s) (p := p) (id := id) (slot := n) (full := false)
    (g := fun tl => (tl.lc, tl.mx)) (fun _ _ _ => rfl) (fun _ _ => rfl) p k)
  obtain ⟨x, c, e⟩ := activateRegion_tile (slot := n) (full := false) mem
  rw [e] at lc mx ⊢
  exact ⟨rfl, rfl, rfl, rfl, rfl, rfl, nofun, fun _ => ⟨fun j => congrFun lc j, mx⟩⟩

theorem decisionBroadcast : DecisionBroadcast := by
  refine ⟨fun f s p q id names => ?_, fun s p id n => ?_⟩
  · have step := execDecb_of_names names
    refine ⟨fun empty => refused_of_refuseA (step.trans (by rw [if_neg (by simp [empty])])), fun loaded pending => ?_,
      fun loaded free => ?_⟩
    · rw [if_pos loaded, if_neg pending] at step
      exact ⟨_, step, pollFor_onlyWaits names.atP names.atQ (by decide)⟩
    · rw [if_pos loaded, if_pos free] at step
      exact ⟨_, step, placesDecision_completes⟩
  · intro r dec alloc st spl trap paused cfga drains
    have due := switchDue_eq dec alloc st spl trap paused cfga drains
    have run : exec (.decisionSwitch p id) s = .next (markBusy (activateRegion s p id n false) p id) := by
      show execDecisionSwitch p id s = _
      rw [execDecisionSwitch, due]
    have work := (activateRegion_work (s := s) (p := p) (id := id) (slot := n) (full := false)).trans markBusy_work
    exact ⟨_, run, switch_activated, work.others, work.work.byte, work.work.ctx⟩

end Sys2Proof.Claims

namespace Sys2Proof

/-- Settles O19: SPLC's branches, a swap as one tile's write and the splice's end, and DECB and its switch as an activation. -/
theorem spliceAndDecision : Obligations.SpliceAndDecision := ⟨Claims.spliceArmsAndSwaps, Claims.decisionBroadcast⟩

end Sys2Proof

end

/-! ## The save area (O20)

A save area is parts one after another, each a number's bytes or a list of them; a word of it is found by walking past the parts
before it. What TOKRS reads back of a block are the words that TOKSV wrote. -/

section

namespace Sys2Proof.Machine

variable {n m v off len size i j : Nat} {a b bs : List (BitVec 8)}

/-! ### Parts of a list of bytes -/

/-- The bytes from an offset on. -/
def partOf (bs : List (BitVec 8)) (off len : Nat) : List (BitVec 8) := (bs.drop off).take len

theorem partOf_append_left (h : off + len ≤ a.length) : partOf (a ++ b) off len = partOf a off len := by
  rw [partOf, partOf, List.drop_append_of_le_length (by omega), List.take_append_of_le_length (by rw [List.length_drop]; omega)]

theorem partOf_append_right (h : a.length = m) : partOf (a ++ b) (m + off) len = partOf b off len := by
  rw [partOf, partOf, ← h, List.drop_append, List.drop_eq_nil_of_le (Nat.le_add_right ..), List.nil_append, Nat.add_sub_cancel_left]

theorem partOf_append_past (h : a.length = m) (past : m ≤ off) : partOf (a ++ b) off len = partOf b (off - m) len := by
  obtain ⟨k, rfl⟩ := Nat.le.dest past
  rw [partOf_append_right h, Nat.add_sub_cancel_left]

theorem partOf_append_first (h : a.length = len) : partOf (a ++ b) 0 len = a := by
  rw [partOf, List.drop_zero, ← h, List.take_left]

theorem drop_bytesOfNat : (bytesOfNat n v).drop m = bytesOfNat (n - m) (v / 256 ^ m) := by
  induction m generalizing n v with
  | zero => simp
  | succ m ih =>
    cases n with
    | zero => simp [bytesOfNat]
    | succ n => rw [bytesOfNat, List.drop_succ_cons, ih, Nat.div_div_eq_div_mul, Nat.pow_succ', Nat.add_sub_add_right]

theorem take_bytesOfNat (h : m ≤ n) : (bytesOfNat n v).take m = bytesOfNat m v := by
  induction m generalizing n v with
  | zero => rfl
  | succ m ih =>
    cases n with
    | zero => omega
    | succ n => rw [bytesOfNat, List.take_succ_cons, ih (by omega), bytesOfNat]

theorem natOfBytes_bytesOfNat : natOfBytes (bytesOfNat n v) = v % 256 ^ n := by
  induction n generalizing v with
  | zero => rw [bytesOfNat, natOfBytes, Nat.pow_zero, Nat.mod_one]
  | succ n ih => rw [bytesOfNat, natOfBytes, ih, BitVec.toNat_ofNat, Nat.pow_succ' (n := n), Nat.mod_mul]

theorem natOfBytes_bytesOfNat_of_lt (h : v < 256 ^ n) : natOfBytes (bytesOfNat n v) = v := by
  rw [natOfBytes_bytesOfNat, Nat.mod_eq_of_lt h]

/-- A word inside the bytes of a number. -/
theorem natOfBytes_partOf (h : off + len ≤ n) : natOfBytes (partOf (bytesOfNat n v) off len) = v / 256 ^ off % 256 ^ len := by
  rw [partOf, drop_bytesOfNat, take_bytesOfNat (by omega), natOfBytes_bytesOfNat]

/-! ### Lists of equal parts -/

theorem length_flatMap_of_length {α : Type} {l : List α} {f : α → List (BitVec 8)} (h : ∀ x, (f x).length = size) :
    (l.flatMap f).length = size * l.length := by
  induction l with
  | nil => rfl
  | cons x l ih => rw [List.flatMap_cons, List.length_append, ih, h, List.length_cons]; ring

theorem partOf_flatMap {α : Type} {l : List α} {f : α → List (BitVec 8)} {x : α} (h : ∀ x, (f x).length = size)
    (at_ : l[j]? = some x) : partOf (l.flatMap f) (size * j) size = f x := by
  induction l generalizing j with
  | nil => exact nomatch at_
  | cons y l ih =>
    rw [List.flatMap_cons]
    cases j with
    | zero =>
      obtain rfl : y = x := Option.some.inj at_
      exact partOf_append_first (h y)
    | succ j =>
      rw [Nat.mul_succ, Nat.add_comm, partOf_append_right (h y)]
      exact ih at_

/-- The bytes of n words. -/
def wordBytes (size n : Nat) (f : Nat → Nat) : List (BitVec 8) := (List.range n).flatMap fun i => bytesOfNat size (f i)

@[simp] theorem length_wordBytes {f : Nat → Nat} : (wordBytes size n f).length = size * n := by
  rw [wordBytes, length_flatMap_of_length fun _ => length_bytesOfNat, List.length_range]

theorem partOf_wordBytes {f : Nat → Nat} (h : i < n) : partOf (wordBytes size n f) (size * i) size = bytesOfNat size (f i) :=
  partOf_flatMap (fun _ => length_bytesOfNat) (List.getElem?_range h)

theorem natOfBytes_toNat {w : Nat} (x : BitVec w) (h : w ≤ 8 * n) : natOfBytes (bytesOfNat n x.toNat) = x.toNat :=
  natOfBytes_bytesOfNat_of_lt (Nat.lt_of_lt_of_le x.isLt (by
    rw [show 256 = 2 ^ 8 from rfl, ← Nat.pow_mul]
    exact Nat.pow_le_pow_right (by decide) h))

/-! ### The block of a tile (Table 8-5) -/

/-- The first word of a block. -/
def blockWord (tl : Tile) : Nat :=
  tl.preds.toNat + (tl.rrPtr % 16) * 2 ^ 8 + tl.halt.toNat * 2 ^ 12 + tl.arm.toNat * 2 ^ 13 + tl.l.toNat * 2 ^ 16 +
    tl.flags.toNat * 2 ^ 24 + (Tbl.get 0 tl.pend 0).toNat * 2 ^ 32 + (Tbl.get 0 tl.pend 1).toNat * 2 ^ 40 +
    (Tbl.get 0 tl.pend 2).toNat * 2 ^ 48 + (Tbl.get 0 tl.pend 3).toNat * 2 ^ 56

/-- The vector registers of a tile that has them. -/
def vectorBytes (tl : Tile) (k : Nat) : List (BitVec 8) :=
  wordBytes 64 4 fun i => if tileType k = .m ∨ tileType k = .v then (tl.vc i).toNat else 0

theorem bytesOfNat_zero : bytesOfNat n 0 = List.replicate n 0 := by
  induction n with
  | zero => rfl
  | succ n ih => rw [bytesOfNat, Nat.zero_div, ih, List.replicate_succ]; rfl

theorem foldl_range_four (f : Nat → Nat) : (List.range 4).foldl (fun n o => n + f o) 0 = 0 + f 0 + f 1 + f 2 + f 3 := rfl

theorem blockWord_eq (tl : Tile) : blockWord tl = tl.preds.toNat + (tl.rrPtr % 16) * 2 ^ 8 + tl.halt.toNat * 2 ^ 12 +
    tl.arm.toNat * 2 ^ 13 + tl.l.toNat * 2 ^ 16 + tl.flags.toNat * 2 ^ 24 +
      (List.range 4).foldl (fun n o => n + (Tbl.get 0 tl.pend o).toNat * 2 ^ (32 + 8 * o)) 0 := by
  have pends := foldl_range_four fun o => (Tbl.get 0 tl.pend o).toNat * 2 ^ (32 + 8 * o)
  rw [pends, blockWord]
  omega

theorem blockBytes_eq (tl : Tile) (k : Nat) : blockBytes tl k =
    bytesOfNat 8 (blockWord tl) ++ (bytesOfNat 8 (tl.x.signExtend 64).toNat ++ (bytesOfNat 8 (tl.a.signExtend 64).toNat ++
      (bytesOfNat 8 tl.swapped.toNat ++ (wordBytes 4 8 (fun i => (tl.lc i).toNat) ++
        (wordBytes 4 16 (fun i => (Tbl.get 0 tl.rc i).toNat) ++ (wordBytes 4 16 (fun i => (Tbl.get 0 tl.pos i).toNat) ++
          (List.replicate 64 0 ++ vectorBytes tl k))))))) := by
  have zeros : wordBytes 64 4 (fun _ => 0) = List.replicate 256 0 := by
    rw [wordBytes, show List.range 4 = [0, 1, 2, 3] from rfl]
    simp only [bytesOfNat_zero, List.flatMap_cons, List.flatMap_nil, List.append_nil, List.replicate_append_replicate, Nat.reduceAdd]
  unfold blockBytes vectorBytes
  dsimp only
  rw [← blockWord_eq]
  cases tileType k <;>
    simp only [wordBytes, List.append_assoc, true_or, or_true, if_true, reduceCtorEq, or_self, if_false, ← zeros]

@[simp] theorem length_vectorBytes (tl : Tile) (k : Nat) : (vectorBytes tl k).length = 256 := by
  rw [vectorBytes, length_wordBytes]

@[simp] theorem length_blockBytes (tl : Tile) (k : Nat) : (blockBytes tl k).length = 512 := by
  rw [blockBytes_eq]
  simp

/-- The fields of a block's first word fit their places. -/
theorem blockWord_fields (tl : Tile) : ∃ preds rr halt arm l flags p0 p1 p2 p3 : Nat,
    (preds < 256 ∧ rr < 16 ∧ halt < 2 ∧ arm < 2 ∧ l < 16 ∧ flags < 256) ∧ (p0 < 64 ∧ p1 < 64 ∧ p2 < 64 ∧ p3 < 64) ∧
    (preds = tl.preds.toNat ∧ rr = tl.rrPtr % 16 ∧ halt = tl.halt.toNat ∧ arm = tl.arm.toNat ∧ l = tl.l.toNat ∧
      flags = tl.flags.toNat) ∧
    (p0 = (Tbl.get 0 tl.pend 0).toNat ∧ p1 = (Tbl.get 0 tl.pend 1).toNat ∧ p2 = (Tbl.get 0 tl.pend 2).toNat ∧
      p3 = (Tbl.get 0 tl.pend 3).toNat) ∧
    blockWord tl = preds + rr * 2 ^ 8 + halt * 2 ^ 12 + arm * 2 ^ 13 + l * 2 ^ 16 + flags * 2 ^ 24 + p0 * 2 ^ 32 + p1 * 2 ^ 40 +
      p2 * 2 ^ 48 + p3 * 2 ^ 56 :=
  ⟨_, _, _, _, _, _, _, _, _, _, ⟨tl.preds.isLt, Nat.mod_lt _ (by decide), Bool.toNat_lt _, Bool.toNat_lt _, tl.l.isLt, tl.flags.isLt⟩,
    ⟨BitVec.isLt _, BitVec.isLt _, BitVec.isLt _, BitVec.isLt _⟩, ⟨rfl, rfl, rfl, rfl, rfl, rfl⟩, ⟨rfl, rfl, rfl, rfl⟩, rfl⟩

theorem blockWord_lt (tl : Tile) : blockWord tl < 256 ^ 8 := by
  obtain ⟨preds, rr, halt, arm, l, flags, p0, p1, p2, p3, low, high, -, -, eq⟩ := blockWord_fields tl
  rw [eq]
  omega

/-- A part of a block past its first words. -/
theorem partOf_blockBytes (tl : Tile) (k : Nat) :
    partOf (blockBytes tl k) 0 8 = bytesOfNat 8 (blockWord tl) ∧
    partOf (blockBytes tl k) 8 8 = bytesOfNat 8 (tl.x.signExtend 64).toNat ∧
    partOf (blockBytes tl k) 16 8 = bytesOfNat 8 (tl.a.signExtend 64).toNat ∧
    partOf (blockBytes tl k) 24 8 = bytesOfNat 8 tl.swapped.toNat ∧
    (∀ i, i < 8 → partOf (blockBytes tl k) (0x20 + 4 * i) 4 = bytesOfNat 4 (tl.lc i).toNat) ∧
    (∀ i, i < 16 → partOf (blockBytes tl k) (0x40 + 4 * i) 4 = bytesOfNat 4 (Tbl.get 0 tl.rc i).toNat) ∧
    (∀ i, i < 16 → partOf (blockBytes tl k) (0x80 + 4 * i) 4 = bytesOfNat 4 (Tbl.get 0 tl.pos i).toNat) ∧
    ∀ i, i < 4 → partOf (blockBytes tl k) (0x100 + 64 * i) 64 =
      bytesOfNat 64 (if tileType k = .m ∨ tileType k = .v then (tl.vc i).toNat else 0) := by
  rw [blockBytes_eq]
  have skip {b : List (BitVec 8)} {v off len : Nat} (past : 8 ≤ off) : partOf (bytesOfNat 8 v ++ b) off len = partOf b (off - 8) len :=
    partOf_append_past length_bytesOfNat past
  have skipWords {b : List (BitVec 8)} {n off len : Nat} {f : Nat → Nat} (past : 4 * n ≤ off) :
      partOf (wordBytes 4 n f ++ b) off len = partOf b (off - 4 * n) len := partOf_append_past length_wordBytes past
  have here {b : List (BitVec 8)} {n off i : Nat} {f : Nat → Nat} (low : i < n) (at_ : off = 4 * i) :
      partOf (wordBytes 4 n f ++ b) off 4 = bytesOfNat 4 (f i) := by
    rw [at_, partOf_append_left (by rw [length_wordBytes]; omega), partOf_wordBytes low]
  refine ⟨partOf_append_first length_bytesOfNat, ?_, ?_, ?_, fun i low => ?_, fun i low => ?_, fun i low => ?_, fun i low => ?_⟩
  · rw [skip (by omega)]
    exact partOf_append_first length_bytesOfNat
  · rw [skip (by omega), skip (by omega)]
    exact partOf_append_first length_bytesOfNat
  · rw [skip (by omega), skip (by omega), skip (by omega)]
    exact partOf_append_first length_bytesOfNat
  · rw [skip (by omega), skip (by omega), skip (by omega), skip (by omega), here low (by omega)]
  · rw [skip (by omega), skip (by omega), skip (by omega), skip (by omega), skipWords (by omega), here low (by omega)]
  · rw [skip (by omega), skip (by omega), skip (by omega), skip (by omega), skipWords (by omega), skipWords (by omega),
      here low (by omega)]
  · rw [skip (by omega), skip (by omega), skip (by omega), skip (by omega), skipWords (by omega), skipWords (by omega),
      skipWords (by omega), partOf_append_past (List.length_replicate ..) (by omega),
      show 0x100 + 64 * i - 8 - 8 - 8 - 8 - 4 * 8 - 4 * 16 - 4 * 16 - 64 = 64 * i by omega, vectorBytes, partOf_wordBytes low]

/-- A word inside a block's first. -/
theorem natOfBytes_blockBytes_first (tl : Tile) (k : Nat) (h : off + len ≤ 8) :
    natOfBytes (partOf (blockBytes tl k) off len) = blockWord tl / 256 ^ off % 256 ^ len := by
  rw [blockBytes_eq, partOf_append_left (by simpa using h), natOfBytes_partOf h]

/-! ### A block read back (R140) -/

/-- A table of the first n keys. -/
theorem get_foldl_put {w : Nat} (f : Nat → BitVec w) :
    Tbl.get 0 ((List.range n).foldl (fun t i => Tbl.put 0 t i (f i)) []) i = if i < n then f i else 0 := by
  induction n with
  | zero => rfl
  | succ n ih =>
    rw [List.range_succ, List.foldl_append, List.foldl_cons, List.foldl_nil]
    by_cases same : i = n
    · subst same
      rw [Tbl.get_put_same, if_pos (Nat.lt_succ_self i)]
    · rw [Tbl.get_put_other same, ih]
      exact if_congr (by omega) rfl rfl

theorem ofNat_natOfBytes {w : Nat} (x : BitVec w) (h : w ≤ 8 * n) :
    BitVec.ofNat w (natOfBytes (bytesOfNat n x.toNat)) = x := by
  rw [natOfBytes_toNat x h, BitVec.ofNat_toNat, BitVec.setWidth_eq]

theorem ofNat_signExtend {w : Nat} (x : BitVec w) (h : w ≤ 64) :
    BitVec.ofNat w (natOfBytes (bytesOfNat 8 (x.signExtend 64).toNat)) = x := by
  rw [natOfBytes_toNat _ (by decide), BitVec.ofNat_toNat]
  refine BitVec.eq_of_getLsbD_eq fun i low => ?_
  rw [BitVec.getLsbD_setWidth, BitVec.getLsbD_signExtend]
  simp [low, Nat.lt_of_lt_of_le low h]

/-- The tables of a block read back. -/
theorem blockTile_tables (u : Tile) (bs : List (BitVec 8)) : let v := blockTile u bs
    (∀ o, o < 4 → Tbl.get 0 v.pend o = BitVec.ofNat 6 (natOfBytes (partOf bs 0 8) / 2 ^ (32 + 8 * o))) ∧
    (∀ i, i < 8 → v.lc i = BitVec.ofNat 32 (natOfBytes (partOf bs (0x20 + 4 * i) 4))) ∧
    (∀ i, i < 16 → Tbl.get 0 v.rc i = BitVec.ofNat 32 (natOfBytes (partOf bs (0x40 + 4 * i) 4))) ∧
    (∀ i, i < 16 → Tbl.get 0 v.pos i = BitVec.ofNat 32 (natOfBytes (partOf bs (0x80 + 4 * i) 4))) ∧
    ∀ i, i < 4 → v.vc i = BitVec.ofNat 512 (natOfBytes (partOf bs (0x100 + 64 * i) 64)) := by
  refine ⟨fun _ low => ?_, fun _ low => ?_, fun _ low => ?_, fun _ low => ?_, fun _ low => ?_⟩ <;>
    exact (get_foldl_put _).trans (if_pos low)

/-- The words of a block read back. -/
theorem blockTile_words (u : Tile) (bs : List (BitVec 8)) : let v := blockTile u bs
    let w := natOfBytes (partOf bs 0 8)
    (v.preds, v.rrPtr, v.halt, v.arm, v.l, v.flags) = (BitVec.ofNat 8 w, w / 2 ^ 8 % 16, w / 2 ^ 12 % 2 == 1, w / 2 ^ 13 % 2 == 1,
      BitVec.ofNat 4 (w / 2 ^ 16), BitVec.ofNat 8 (w / 2 ^ 24 % 128)) ∧
    (v.x, v.a, v.swapped) = (BitVec.ofNat 32 (natOfBytes (partOf bs 8 8)), BitVec.ofNat 33 (natOfBytes (partOf bs 16 8)),
      natOfBytes (partOf bs 24 8) % 2 == 1) ∧ (v.bufs, v.cfgs, v.mx, v.sp) = (u.bufs, u.cfgs, u.mx, u.sp) := ⟨rfl, rfl, rfl⟩

end Sys2Proof.Machine

namespace Sys2Proof.Claims

open Sys2Proof.Machine

/-- The words of a block (Table 8-5). -/
theorem blockBytes_words (tl : Tile) (k : Nat) :
    let word := fun off len => natOfBytes (partOf (blockBytes tl k) off len)
    (blockBytes tl k).length = 512 ∧
    word 0 4 = tl.preds.toNat + (tl.rrPtr % 16) * 2 ^ 8 + tl.halt.toNat * 2 ^ 12 + tl.arm.toNat * 2 ^ 13 + tl.l.toNat * 2 ^ 16 +
      tl.flags.toNat * 2 ^ 24 ∧
    (∀ o, o < 4 → word (4 + o) 1 = (Tbl.get 0 tl.pend o).toNat) ∧
    word 8 8 = (tl.x.signExtend 64).toNat ∧ word 16 8 = (tl.a.signExtend 64).toNat ∧ word 24 8 = tl.swapped.toNat ∧
    (∀ i, i < 8 → word (0x20 + 4 * i) 4 = (tl.lc i).toNat) ∧
    (∀ i, i < 16 → word (0x40 + 4 * i) 4 = (Tbl.get 0 tl.rc i).toNat) ∧
    (∀ i, i < 16 → word (0x80 + 4 * i) 4 = (Tbl.get 0 tl.pos i).toNat) ∧
    ∀ i, i < 4 → word (0x100 + 64 * i) 64 = if tileType k = .m ∨ tileType k = .v then (tl.vc i).toNat else 0 := by
  intro word
  obtain ⟨-, x, a, swapped, lc, rc, pos, vc⟩ := partOf_blockBytes tl k
  obtain ⟨preds, rr, halt, arm, l, flags, p0, p1, p2, p3, low, high, ⟨ePreds, eRr, eHalt, eArm, eL, eFlags⟩, ⟨e0, e1, e2, e3⟩, eq⟩ :=
    blockWord_fields tl
  refine ⟨length_blockBytes .., ?_, fun o four => ?_, ?_, ?_, ?_, fun i small => ?_, fun i small => ?_, fun i small => ?_,
    fun i small => ?_⟩
  · rw [← ePreds, ← eRr, ← eHalt, ← eArm, ← eL, ← eFlags]
    refine (natOfBytes_blockBytes_first tl k (by decide)).trans ?_
    rw [eq]
    omega
  · refine (natOfBytes_blockBytes_first tl k (by omega)).trans ?_
    rw [eq]
    interval_cases o
    · rw [← e0]
      omega
    · rw [← e1]
      omega
    · rw [← e2]
      omega
    · rw [← e3]
      omega
  · exact (congrArg natOfBytes x).trans (natOfBytes_toNat _ (by decide))
  · exact (congrArg natOfBytes a).trans (natOfBytes_toNat _ (by decide))
  · exact (congrArg natOfBytes swapped).trans (natOfBytes_bytesOfNat_of_lt (Nat.lt_trans (Bool.toNat_lt _) (by decide)))
  · exact (congrArg natOfBytes (lc i small)).trans (natOfBytes_toNat _ (by decide))
  · exact (congrArg natOfBytes (rc i small)).trans (natOfBytes_toNat _ (by decide))
  · exact (congrArg natOfBytes (pos i small)).trans (natOfBytes_toNat _ (by decide))
  · refine (congrArg natOfBytes (vc i small)).trans ?_
    split
    · exact natOfBytes_toNat _ (by decide)
    · exact natOfBytes_bytesOfNat.trans (Nat.zero_mod _)

theorem toNat_beq_one (b : Bool) : (b.toNat == 1) = b := by cases b <;> rfl

theorem toNat_lt_of_bit_seven {x : BitVec 8} (h : x.getLsbD 7 = false) : x.toNat < 128 := by
  have whole := x.isLt
  rw [BitVec.getLsbD, Nat.testBit_eq_decide_div_mod_eq, decide_eq_false_iff_not] at h
  omega

/-- The first word of a block holds its fields. -/
theorem blockWord_reads (tl : Tile) (reserved : tl.flags.getLsbD 7 = false) : let w := blockWord tl
    (w % 256 = tl.preds.toNat ∧ w / 2 ^ 8 % 16 = tl.rrPtr % 16 ∧ w / 2 ^ 12 % 2 = tl.halt.toNat ∧ w / 2 ^ 13 % 2 = tl.arm.toNat ∧
      w / 2 ^ 16 % 16 = tl.l.toNat ∧ w / 2 ^ 24 % 128 = tl.flags.toNat) ∧
    ∀ o, o < 4 → w / 2 ^ (32 + 8 * o) % 64 = (Tbl.get 0 tl.pend o).toNat := by
  intro w
  have narrow := toNat_lt_of_bit_seven reserved
  obtain ⟨preds, rr, halt, arm, l, flags, p0, p1, p2, p3, low, high, ⟨ePreds, eRr, eHalt, eArm, eL, eFlags⟩, ⟨e0, e1, e2, e3⟩, eq⟩ :=
    blockWord_fields tl
  rw [← eFlags] at narrow
  have pends (o : Nat) (four : o < 4) : w / 2 ^ (32 + 8 * o) % 64 = (Tbl.get 0 tl.pend o).toNat := by
    interval_cases o
    · rw [← e0]
      omega
    · rw [← e1]
      omega
    · rw [← e2]
      omega
    · rw [← e3]
      omega
  rw [← ePreds, ← eRr, ← eHalt, ← eArm, ← eL, ← eFlags]
  refine ⟨⟨?_, ?_, ?_, ?_, ?_, ?_⟩, pends⟩ <;> omega

/-- What TOKRS reads back of a block is what TOKSV wrote of its tile (R140). -/
theorem blockTile_blockBytes (tl u : Tile) (k : Nat) (rr : tl.rrPtr < 16) (reserved : tl.flags.getLsbD 7 = false) :
    let v := blockTile u (blockBytes tl k)
    (v.preds, v.rrPtr, v.halt, v.arm, v.l, v.flags, v.x, v.a, v.swapped) =
      (tl.preds, tl.rrPtr, tl.halt, tl.arm, tl.l, tl.flags, tl.x, tl.a, tl.swapped) ∧
    (∀ o, o < 4 → Tbl.get 0 v.pend o = Tbl.get 0 tl.pend o) ∧ (∀ i, i < 8 → v.lc i = tl.lc i) ∧
    (∀ i, i < 16 → Tbl.get 0 v.rc i = Tbl.get 0 tl.rc i ∧ Tbl.get 0 v.pos i = Tbl.get 0 tl.pos i) ∧
    (tileType k = .m ∨ tileType k = .v → ∀ i, i < 4 → v.vc i = tl.vc i) ∧
    (v.bufs, v.cfgs, v.mx, v.sp) = (u.bufs, u.cfgs, u.mx, u.sp) := by
  obtain ⟨first, x, a, swapped, lc, rc, pos, vc⟩ := partOf_blockBytes tl k
  have tables := blockTile_tables u (blockBytes tl k)
  have words := blockTile_words u (blockBytes tl k)
  dsimp only at tables words ⊢
  generalize blockTile u (blockBytes tl k) = v at tables words ⊢
  obtain ⟨readPend, readLc, readRc, readPos, readVc⟩ := tables
  obtain ⟨readFirst, readStream, keeps⟩ := words
  rw [first, natOfBytes_bytesOfNat_of_lt (blockWord_lt tl)] at readPend readFirst
  rw [x, a, swapped, ofNat_signExtend _ (by decide), ofNat_signExtend _ (by decide)] at readStream
  obtain ⟨⟨preds, ptr, halt, arm, l, flags⟩, pends⟩ := blockWord_reads tl reserved
  rw [natOfBytes_bytesOfNat_of_lt (Nat.lt_trans (Bool.toNat_lt _) (by decide)), Nat.mod_eq_of_lt (Bool.toNat_lt _), toNat_beq_one] at readStream
  rw [ptr, halt, arm, flags, Nat.mod_eq_of_lt rr, toNat_beq_one, toNat_beq_one, BitVec.ofNat_toNat, BitVec.setWidth_eq,
    BitVec.eq_of_toNat_eq (y := tl.preds) ((BitVec.toNat_ofNat ..).trans preds),
    BitVec.eq_of_toNat_eq (y := tl.l) ((BitVec.toNat_ofNat ..).trans l)] at readFirst
  refine ⟨?_, fun o four => ?_, fun i small => ?_, fun i small => ⟨?_, ?_⟩, fun vector i small => ?_, keeps⟩
  · simp only [Prod.mk.injEq] at readFirst readStream ⊢
    obtain ⟨h1, h2, h3, h4, h5, h6⟩ := readFirst
    exact ⟨h1, h2, h3, h4, h5, h6, readStream⟩
  · rw [readPend o four]
    exact BitVec.eq_of_toNat_eq ((BitVec.toNat_ofNat ..).trans (pends o four))
  · rw [readLc i small, lc i small, ofNat_natOfBytes _ (by decide)]
  · rw [readRc i small, rc i small, ofNat_natOfBytes _ (by decide)]
  · rw [readPos i small, pos i small, ofNat_natOfBytes _ (by decide)]
  · rw [readVc i small, vc i small, if_pos vector, ofNat_natOfBytes _ (by decide)]

/-! ### Tokens (Table 8-5) -/

/-- The fields of a token's header. -/
theorem datHeader_reads (k : Tok) : let h := datHeader k
    h < 256 ^ 2 ∧ h / 8192 % 8 = k.tag.toNat ∧ h / 4096 % 2 = k.eos.toNat ∧ h / 2048 % 2 = k.gen.toNat ∧ h / 32 % 64 = k.skip.toNat ∧
      h / 2 % 16 = k.iter.toNat ∧ h % 2 = k.prg.toNat := by
  intro h
  have tag := k.tag.isLt
  have eos := Bool.toNat_lt k.eos
  have gen := Bool.toNat_lt k.gen
  have skip := k.skip.isLt
  have iter := k.iter.isLt
  have prg := Bool.toNat_lt k.prg
  have eq : h = k.tag.toNat * 8192 + k.eos.toNat * 4096 + k.gen.toNat * 2048 + k.skip.toNat * 32 + k.iter.toNat * 2 + k.prg.toNat := rfl
  refine ⟨?_, ?_, ?_, ?_, ?_, ?_, ?_⟩ <;> omega

theorem ctlHeader_reads (k : Tok) : let h := ctlHeader k
    h < 256 ∧ h / 64 = k.kind.toNat ∧ h / 32 % 2 = k.eos.toNat ∧ h / 16 % 2 = k.gen.toNat ∧ h % 16 = k.iter.toNat := by
  intro h
  have kind := k.kind.isLt
  have eos := Bool.toNat_lt k.eos
  have gen := Bool.toNat_lt k.gen
  have iter := k.iter.isLt
  have eq : h = k.kind.toNat * 64 + k.eos.toNat * 32 + k.gen.toNat * 16 + k.iter.toNat := rfl
  refine ⟨?_, ?_, ?_, ?_, ?_⟩ <;> omega

theorem ofNat_of_mod {w v : Nat} {x : BitVec w} (h : v % 2 ^ w = x.toNat) : BitVec.ofNat w v = x :=
  BitVec.eq_of_toNat_eq ((BitVec.toNat_ofNat ..).trans h)

theorem tokOf_data {k : Tok} (dat : k.dat = true) : tokOf true (tokBytes k) = { k with kind := 0, arr := 0 } := by
  obtain ⟨small, tag, eos, gen, skip, iter, prg⟩ := datHeader_reads k
  have bytes : tokBytes k = bytesOfNat 64 k.val.toNat ++ (bytesOfNat 4 k.side.toNat ++ (bytesOfNat 2 (datHeader k) ++ [0, 0])) := by
    rw [tokBytes, if_pos dat, List.append_assoc, List.append_assoc]
  have val : partOf (tokBytes k) 0 64 = bytesOfNat 64 k.val.toNat := by
    rw [bytes]
    exact partOf_append_first length_bytesOfNat
  have side : partOf (tokBytes k) 64 4 = bytesOfNat 4 k.side.toNat := by
    rw [bytes, partOf_append_past length_bytesOfNat (Nat.le_refl _)]
    exact partOf_append_first length_bytesOfNat
  have header : partOf (tokBytes k) 68 2 = bytesOfNat 2 (datHeader k) := by
    rw [bytes, partOf_append_past length_bytesOfNat (by decide), partOf_append_past length_bytesOfNat (by decide)]
    exact partOf_append_first length_bytesOfNat
  have reads (bs : List (BitVec 8)) : tokOf true bs =
      { dat := true, val := BitVec.ofNat 512 (natOfBytes (partOf bs 0 64)),
        side := BitVec.ofNat 32 (natOfBytes (partOf bs 64 4)), tag := BitVec.ofNat 3 (natOfBytes (partOf bs 68 2) / 8192),
        eos := natOfBytes (partOf bs 68 2) / 4096 % 2 == 1, gen := natOfBytes (partOf bs 68 2) / 2048 % 2 == 1,
        skip := BitVec.ofNat 6 (natOfBytes (partOf bs 68 2) / 32), iter := BitVec.ofNat 4 (natOfBytes (partOf bs 68 2) / 2),
        prg := natOfBytes (partOf bs 68 2) % 2 == 1 } := rfl
  rw [reads, val, side, header, natOfBytes_bytesOfNat_of_lt small, ofNat_natOfBytes _ (by decide), ofNat_natOfBytes _ (by decide),
    eos, gen, prg, ofNat_of_mod tag, ofNat_of_mod skip, ofNat_of_mod iter, toNat_beq_one, toNat_beq_one, toNat_beq_one, ← dat]

theorem tokOf_control {k : Tok} (dat : k.dat = false) : tokOf false (tokBytes k) =
    { val := (k.val.setWidth 32).setWidth 512, kind := k.kind, eos := k.eos, gen := k.gen, iter := k.iter } := by
  obtain ⟨small, kind, eos, gen, iter⟩ := ctlHeader_reads k
  have low : k.val.toNat % 2 ^ 32 < 2 ^ 32 := Nat.mod_lt _ (by decide)
  have value : natOfBytes (tokBytes k) = k.val.toNat % 2 ^ 32 + ctlHeader k * 2 ^ 32 := by
    rw [tokBytes, if_neg (by simp [dat]), natOfBytes_bytesOfNat_of_lt (by omega)]
  have reads (bs : List (BitVec 8)) : tokOf false bs =
      { val := BitVec.ofNat 512 (natOfBytes bs % 2 ^ 32),
        kind := BitVec.ofNat 2 (natOfBytes bs / 2 ^ 32 % 256 / 64), eos := natOfBytes bs / 2 ^ 32 % 256 / 32 % 2 == 1,
        gen := natOfBytes bs / 2 ^ 32 % 256 / 16 % 2 == 1, iter := BitVec.ofNat 4 (natOfBytes bs / 2 ^ 32 % 256) } := rfl
  have header : (k.val.toNat % 2 ^ 32 + ctlHeader k * 2 ^ 32) / 2 ^ 32 % 256 = ctlHeader k := by omega
  have word : (k.val.toNat % 2 ^ 32 + ctlHeader k * 2 ^ 32) % 2 ^ 32 = k.val.toNat % 2 ^ 32 := by omega
  have val : BitVec.ofNat 512 (k.val.toNat % 2 ^ 32) = (k.val.setWidth 32).setWidth 512 := by
    rw [← BitVec.toNat_setWidth, BitVec.ofNat_toNat]
  rw [reads, value, header, word, val, kind, eos, gen, BitVec.ofNat_toNat (n := 2), BitVec.setWidth_eq, ofNat_of_mod iter, toNat_beq_one,
    toNat_beq_one]

/-! ### The whole area -/

/-- The header of a save area and its two parts. -/
theorem saveBytes_eq (s : State) (p : Nat) (r : Region) : saveBytes s p r =
    bytesOfNat 8 (r.h % 16 + r.w % 16 * 16 + r.fold.toNat * 2 ^ 8 + ((r.act.map (·.toNat)).getD 0) * 2 ^ 10 +
      (hdrCfgid (r.activeHdr s p)).toNat * 2 ^ 16 + (hdrGen (r.activeHdr s p)).toNat * 2 ^ 32) ++
    (bytesOfNat 8 (fullBufs s p r).length ++ (bytesOfNat 8 (saveBytes s p r).length ++ (List.replicate 40 0 ++
      ((r.tileList.flatMap fun t => blockBytes (s.tile p t) t) ++
        (fullBufs s p r).flatMap fun e => bytesOfNat 8 (recordWord r e.1 e.2.1 e.2.2) ++ e.2.2.flatMap tokBytes)))) := by
  have total : (saveBytes s p r).length = 64 + (r.tileList.flatMap fun t => blockBytes (s.tile p t) t).length +
      ((fullBufs s p r).flatMap fun e => bytesOfNat 8 (recordWord r e.1 e.2.1 e.2.2) ++ e.2.2.flatMap tokBytes).length := by
    unfold saveBytes
    simp only [List.length_append, length_bytesOfNat, List.length_replicate]
  rw [total]
  unfold saveBytes
  simp only [List.append_assoc]
  rfl

theorem saveBytes_header (s : State) (p : Nat) (r : Region) : let bs := saveBytes s p r
    natOfBytes (partOf bs 0 8) = r.h % 16 + r.w % 16 * 16 + r.fold.toNat * 2 ^ 8 + ((r.act.map (·.toNat)).getD 0) * 2 ^ 10 +
      (hdrCfgid (r.activeHdr s p)).toNat * 2 ^ 16 + (hdrGen (r.activeHdr s p)).toNat * 2 ^ 32 ∧
    natOfBytes (partOf bs 8 8) = (fullBufs s p r).length % 256 ^ 8 ∧ natOfBytes (partOf bs 16 8) = bs.length % 256 ^ 8 := by
  intro bs
  have act : (r.act.map (·.toNat)).getD 0 < 4 := by
    cases r.act with
    | none => decide
    | some a => exact a.isLt
  have fold := r.fold.isLt
  have cfgid := (hdrCfgid (r.activeHdr s p)).isLt
  have gen := Bool.toNat_lt (hdrGen (r.activeHdr s p))
  have first : partOf bs 0 8 = _ := (congrArg (partOf · 0 8) (saveBytes_eq s p r)).trans (partOf_append_first length_bytesOfNat)
  have count : partOf bs 8 8 = _ := (congrArg (partOf · 8 8) (saveBytes_eq s p r)).trans
    ((partOf_append_past length_bytesOfNat (Nat.le_refl _)).trans (partOf_append_first length_bytesOfNat))
  have total : partOf bs 16 8 = _ := (congrArg (partOf · 16 8) (saveBytes_eq s p r)).trans
    ((partOf_append_past length_bytesOfNat (by decide)).trans
      ((partOf_append_past length_bytesOfNat (Nat.le_refl _)).trans (partOf_append_first length_bytesOfNat)))
  rw [first, count, total]
  exact ⟨natOfBytes_bytesOfNat_of_lt (by omega), natOfBytes_bytesOfNat, natOfBytes_bytesOfNat⟩

/-- After the header of 64 bytes stand the blocks, then the records. -/
theorem saveBytes_parts (s : State) (p : Nat) (r : Region) : (saveBytes s p r).drop 64 =
    (r.tileList.flatMap fun t => blockBytes (s.tile p t) t) ++
      (fullBufs s p r).flatMap fun e => bytesOfNat 8 (recordWord r e.1 e.2.1 e.2.2) ++ e.2.2.flatMap tokBytes := by
  rw [saveBytes_eq]
  simp only [List.drop_append, length_bytesOfNat, List.length_replicate, List.drop_eq_nil_of_le, Nat.reduceLeDiff, Nat.reduceSub,
    List.nil_append, List.drop_zero, Nat.zero_sub]

theorem saveBytes_blocks (s : State) (p : Nat) (r : Region) :
    (∀ j k, r.tileList[j]? = some k → ((saveBytes s p r).drop (64 + 512 * j)).take 512 = blockBytes (s.tile p k) k) ∧
    (saveBytes s p r).drop (64 + 512 * r.tileList.length) =
      (fullBufs s p r).flatMap fun e => bytesOfNat 8 (recordWord r e.1 e.2.1 e.2.2) ++ e.2.2.flatMap tokBytes := by
  have length : (r.tileList.flatMap fun t => blockBytes (s.tile p t) t).length = 512 * r.tileList.length :=
    length_flatMap_of_length fun _ => length_blockBytes ..
  constructor
  · intro j k at_
    have inside : j < r.tileList.length := (List.getElem?_eq_some_iff.1 at_).1
    rw [← List.drop_drop, saveBytes_parts]
    exact (partOf_append_left (by rw [length]; omega)).trans (partOf_flatMap (fun _ => length_blockBytes ..) at_)
  · rw [← List.drop_drop, saveBytes_parts, ← length, List.drop_left]

theorem saveAreaContents : SaveAreaContents := by
  refine ⟨fun s p r => ?_, blockBytes_words, blockTile_blockBytes, fun k => ⟨tokOf_data, tokOf_control⟩⟩
  obtain ⟨first, count, total⟩ := saveBytes_header s p r
  obtain ⟨blocks, records⟩ := saveBytes_blocks s p r
  exact ⟨first, fun few => count.trans (Nat.mod_eq_of_lt (Nat.lt_trans few (by decide))),
    fun short => total.trans (Nat.mod_eq_of_lt short), blocks, records⟩

end Sys2Proof.Claims

end

/-! ## Save and restore (O20)

TOKSV writes its area from a state that a read finds alike, so what the write answers is known from before; TOKRS reads first, and
writes tiles and its region only where all of it fits. -/

section

namespace Sys2Proof.Claims

open Sys2Proof.Machine

variable {s t u : State} {p q id k n : Nat} {f : SeqF} {r : Region} {α : Type} {g : Tile → α} {va : BitVec 64}

/-! ### What a restore leaves (R140) -/

theorem reads_of_accessed (e : Accessed s t) (byte : SameBytes s t) : Reads s t := ⟨e.inner, byte, e.cur⟩

theorem readBytes_accesses {k : AccKind} : Accessed s (readBytes s p k va n).2 ∧ SameBytes s (readBytes s p k va n).2 :=
  ⟨readBytes_accessed, (readVA_reads _).byte⟩

/-- Records are read, and no more. -/
theorem readRecs_accesses {fuel : Nat} {acc : List SaveRec} :
    Accessed s (readRecs s p r fuel n va acc).2 ∧ SameBytes s (readRecs s p r fuel n va acc).2 := by
  have then_ {a b c : State} (x : Accessed a b ∧ SameBytes a b) (y : Accessed b c ∧ SameBytes b c) :
      Accessed a c ∧ SameBytes a c := ⟨x.1.trans y.1, fun h z => (y.2 h z).trans (x.2 h z)⟩
  induction fuel generalizing s n va acc with
  | zero => cases n <;> exact ⟨.refl s, fun _ _ => rfl⟩
  | succ fuel ih =>
    cases n with
    | zero => exact ⟨.refl s, fun _ _ => rfl⟩
    | succ n =>
      rw [readRecs]
      have word := readBytes_accesses (s := s) (p := p) (k := .read) (va := va) (n := 8)
      split <;> rename_i e <;> rw [e] at word
      · exact word
      rename_i bs v
      dsimp only
      have toks := readBytes_accesses (s := v) (p := p) (k := .read) (va := va + 8)
        (n := natOfBytes bs / 65536 % 32 * if (natOfBytes bs / 32768 % 2 == 1) = true then 72 else 8)
      split <;> rename_i e <;> rw [e] at toks
      · exact then_ word toks
      split
      · exact then_ (then_ word toks) ih
      · exact then_ word toks

/-- A save area's blocks and tokens in place, with the region's note that it runs. -/
def restoreTiles (s : State) (p id : Nat) (bs : List (BitVec 8)) (recs : List SaveRec) : State :=
  let r := s.region p id
  let s := r.tileList.zipIdx.foldl
    (fun s e => s.updTile p e.1 fun tl => blockTile tl ((bs.drop (64 + 512 * e.2)).take 512)) s
  let put := fun (s : State) (e : SaveRec) =>
    ((recDests s p e).getD []).foldl
      (fun s d => e.toks.foldl (fun s k => s.updBuf p d.1 d.2 fun b => b.push false { k with arr := s.fc p }) s) s
  (recs.filter (·.kind != 2) ++ recs.filter (·.kind == 2)).foldl put s

theorem tileWork_restoreTiles {bs : List (BitVec 8)} {recs : List SaveRec} (hblock : ∀ tl bs, g (blockTile tl bs) = g tl)
    (hbuf : ∀ tl m b, g (Tile.setBuf tl m b) = g tl) : TileWork g s (restoreTiles s p id bs recs) := by
  refine .trans (.foldl fun _ _ => tileWork_updTile fun _ => hblock ..) (.foldl fun _ _ => .foldl fun _ _ => .foldl fun _ _ => ?_)
  exact tileWork_updTile fun _ => hbuf ..

/-- A restore answers a fault where nothing but its reads has changed, and otherwise writes the tiles and notes that the region
runs. -/
theorem restoreRegion_cases : let r := s.region p id
    (∃ e v, restoreRegion s p id va = (.error e, v) ∧ Accessed s v ∧ SameBytes s v) ∨
    ∃ n v bs recs, restoreRegion s p id va = (.ok n, dropReplay ((restoreTiles v p id bs recs).updRegion p id fun r =>
        { r with saved := false, st := .running, runFrom := (restoreTiles v p id bs recs).fc p + 1, committed := false,
                 replayed := false, quiet := 0 }) p r) ∧ Accessed s v ∧ SameBytes s v := by
  intro r
  unfold restoreRegion
  have area := readBytes_accesses (s := s) (p := p) (k := .read) (va := va) (n := 64 + 512 * r.h * r.w)
  dsimp only
  split <;> rename_i e <;> rw [e] at area
  · exact .inl ⟨_, _, rfl, area⟩
  rename_i bs v
  split
  · exact .inl ⟨_, _, rfl, area⟩
  have recs := readRecs_accesses (s := v) (p := p) (r := r) (fuel := 24 * r.h * r.w)
    (n := natOfBytes ((bs.drop 8).take 4)) (va := va + BitVec.ofNat 64 (64 + 512 * r.h * r.w)) (acc := [])
  split <;> rename_i e <;> rw [e] at recs
  · exact .inl ⟨_, _, rfl, area.1.trans recs.1, fun h x => (recs.2 h x).trans (area.2 h x)⟩
  rename_i l fin w
  have all : Accessed s w ∧ SameBytes s w := ⟨area.1.trans recs.1, fun h x => (recs.2 h x).trans (area.2 h x)⟩
  split
  · exact .inl ⟨_, _, rfl, all⟩
  refine .inr ⟨(fin - va).toNat, w, bs, l, ?_, all⟩
  unfold restoreTiles
  rw [all.1.region]

/-- A restore that fails has only read. -/
theorem restoreRegion_error {e : RestFault} (h : restoreRegion s p id va = (.error e, t)) : Accessed s t ∧ SameBytes s t := by
  rcases restoreRegion_cases (s := s) (p := p) (id := id) (va := va) with ⟨_, _, same, read⟩ | ⟨_, _, _, _, same, -⟩
  · rw [h] at same
    obtain ⟨-, rfl⟩ := Prod.mk.inj same
    exact read
  · exact nomatch (Prod.mk.inj (h.symm.trans same)).1

/-- A region as a restore leaves it (R140). -/
def restored (r : Region) (fc : Nat) : Region :=
  { r with saved := false, st := .running, runFrom := fc + 1, committed := false, replayed := false, quiet := 0 }

/-- A restore that is answered: the region runs, no other region and nothing beside tiles has changed. -/
theorem restoreRegion_ok (h : restoreRegion s p id va = (.ok n, t)) :
    RegionWork p id s t ∧ t.region p id = restored (s.region p id) (s.fc p) := by
  rcases restoreRegion_cases (s := s) (p := p) (id := id) (va := va) with ⟨_, _, same, -⟩ | ⟨_, v, bs, recs, same, read, byte⟩
  · exact nomatch (Prod.mk.inj (h.symm.trans same)).1
  rw [h] at same
  obtain ⟨-, rfl⟩ := Prod.mk.inj same
  have reads : TileWork (fun _ => ()) s v := tileWork_of_accessed _ read byte
  have tiles := reads.trans (tileWork_restoreTiles (p := p) (id := id) (bs := bs) (recs := recs) (fun _ _ => rfl) fun _ _ _ => rfl)
  have drops (x : State) (r : Region) : TileWork (fun _ => ()) x (dropReplay x p r) := tileWork_dropReplay fun _ _ _ => rfl
  refine ⟨(tiles.regionWork.trans regionWork_updRegion).trans (drops _ _).regionWork, ?_⟩
  rw [(drops _ _).region, region_updRegion, tiles.region, tiles.work.fc]
  rfl

/-- What a restore leaves of every tile. -/
theorem restoreRegion_tile (h : restoreRegion s p id va = (.ok n, t)) (hblock : ∀ tl bs, g (blockTile tl bs) = g tl)
    (hbuf : ∀ tl m b, g (Tile.setBuf tl m b) = g tl)
    (hr : ∀ tl a b, g { tl with et := { tl.et with replay := a, served := b } } = g tl) (q k : Nat) :
    g (t.tile q k) = g (s.tile q k) := by
  rcases restoreRegion_cases (s := s) (p := p) (id := id) (va := va) with ⟨_, _, same, -⟩ | ⟨_, v, bs, recs, same, read, byte⟩
  · exact nomatch (Prod.mk.inj (h.symm.trans same)).1
  rw [h] at same
  obtain ⟨-, rfl⟩ := Prod.mk.inj same
  rw [(tileWork_dropReplay hr).tile, tile_updRegion, (tileWork_restoreTiles hblock hbuf).tile, read.tile]

/-! ### TOKRS (R140) -/

/-- The task of a restored region: nothing but its slot may change. -/
theorem taskRuns_leaves : let v := taskRuns s p r
    (∀ h k, v.ctx h k = s.ctx h k) ∧ (∀ h k, v.region h k = s.region h k) ∧ v.cur = s.cur ∧ SameBytes s v := by
  unfold taskRuns
  dsimp only
  split
  · split
    · exact ⟨fun _ _ => State.ctx_setTask .., fun _ _ => State.region_setTask .., rfl, fun _ _ => rfl⟩
    · exact ⟨fun _ _ => rfl, fun _ _ => rfl, rfl, fun _ _ => rfl⟩
  · exact ⟨fun _ _ => rfl, fun _ _ => rfl, rfl, fun _ _ => rfl⟩

theorem execTokrs_of_names {p : Fin 32} {q : Fin 4} (names : Names s p q f id) : exec (.tokrs f) s = .next
    (if (s.region p id).saved = true then
      match restoreRegion s p id (s.curCtx.rd f.b) with
      | (.error (.addr c va), v) => addrTrap v c va .read
      | (.error .mismatch, v) => refuseA v f 0x1A
      | (.ok n, v) => finishCur (taskRuns v p (s.region p id)) 1 (lines64 n) fun c => c
    else refuseA s f 0x16) := by
  have step : exec (.tokrs f) s = _ := (show exec (.tokrs f) s = execTokrs f s from rfl).trans (regionIns_of_names names)
  dsimp only at step
  rw [names.atP, Ctx.opB] at step
  rw [step]
  cases (s.region p id).saved <;> rfl

theorem refused_after_reading {i : Instr} {d : Nat} (reads : Reads s t) (h : exec i s = .next (refuseA t f d)) :
    Refused i s (s.curCtx.rd f.a) d := by
  refine ⟨_, h, ?_⟩
  unfold refuseA refuse
  rw [Reads.curCtx reads]
  exact precise_of_reads reads

/-- TOKRS completes: its region runs, with its configuration. -/
theorem tokrs_completes (h : restoreRegion s p id va = (.ok n, t)) :
    let v := finish (taskRuns t p r) p q 1 (lines64 n) fun c => c
    Completes s v p q 1 ((n + 63) / 64) ∧ NoWrite s v p q ∧ (v.region p id).saved = false ∧ (v.region p id).st = .running ∧
      (v.region p id).act = (s.region p id).act ∧ OtherRegions s v p id ∧ SameBytes s v := by
  obtain ⟨⟨work, others⟩, region⟩ := restoreRegion_ok h
  obtain ⟨ctx, regions, -, byte⟩ := taskRuns_leaves (s := t) (p := p) (r := r)
  obtain ⟨done, regs⟩ := finish_completes (ib := 1) (tb := lines64 n) ((ctx p q).trans (work.ctx p q))
  have same (x y : Nat) : (finish (taskRuns t p r) p q 1 (lines64 n) fun c => c).region x y = t.region x y := by
    rw [finish, State.region_setCtx, regions]
  refine ⟨done, regs, ?_, ?_, ?_, fun x y ne => (same x y).trans (others x y ne), fun x y => (byte x y).trans (work.byte x y)⟩ <;>
    rw [same, region] <;> rfl

/-! ### TOKSV (R139, R317) -/

theorem execToksv_of_names {p : Fin 32} {q : Fin 4} (names : Names s p q f id) : exec (.toksv f) s = .next
    (if canonical (s.curCtx.rd f.b) = true then
      if (s.curCtx.rd f.b).toNat % 64 = 0 then
        pollFor (s.updRegion p id fun r => { r with st := .frozen }) 0x67 f (s.region p id).st.code
      else addrTrap s cMISALIGN (s.curCtx.rd f.b) .write
    else addrTrap s cXLATE (s.curCtx.rd f.b) .write) := by
  have step : exec (.toksv f) s = _ := (show exec (.toksv f) s = execToksv f s from rfl).trans (regionIns_of_names names)
  dsimp only at step
  rw [names.atP, Ctx.opB] at step
  rw [step, ite_not]
  cases canonical (s.curCtx.rd f.b) <;> rfl

/-- A region frozen, and its TOKSV waits. -/
theorem toksv_waits (atP : s.cur.p = p) (atQ : s.cur.q = q) :
    let t := pollFor (s.updRegion p id fun r => { r with st := .frozen }) 0x67 f (s.region p id).st.code
    Polls s t p q 0x67 f (s.region p id).st.code 1 0 ∧ t.region p id = { s.region p id with st := .frozen } ∧
      OtherRegions s t p id ∧ NoWrite s t p q ∧ SameBytes s t := by
  intro t
  obtain ⟨polls, regs⟩ := pollFor_polls (s := s) (u := s.updRegion p id fun r => { r with st := .frozen }) (f := f) (opc := 0x67)
    (stage := (s.region p id).st.code) atP atQ (State.ctx_setRegion ..) (pollCost_one (by decide))
  obtain ⟨c, frame⟩ : ∃ c, t = (s.updRegion p id fun r => { r with st := .frozen }).setCtx p q c := pollFor_frame atP atQ
  refine ⟨polls, ?_, fun h k ne => ?_, regs, fun h a => ?_⟩ <;> rw [frame]
  · rw [State.region_setCtx, region_updRegion]
  · rw [State.region_setCtx]
    exact region_setRegion_ne ne
  · rfl

theorem addrTrap_enters {cause : BitVec 8} {kind : AccKind} (atP : s.cur.p = p) (atQ : s.cur.q = q) :
    Enters s (addrTrap s cause va kind) p q s.curCtx.pc cause (some va) (some (BitVec.ofNat 64 kind.code)) := by
  rw [← atP, ← atQ]
  exact precise_of_reads (Reads.refl s)

theorem saveBytes_congr (tile : ∀ k, t.tile p k = s.tile p k) : saveBytes t p r = saveBytes s p r := by
  unfold saveBytes fullBufs Region.activeHdr
  simp only [tile]

theorem tokens_noToks (tl : Tile) : tl.noToks.tokens = 0 := by
  refine tokens_of_empty fun e mem => ?_
  obtain ⟨x, -, kept⟩ := List.mem_filterMap.1 mem
  split at kept
  · exact nomatch kept
  · rw [← Option.some.inj kept]

/-- A region saved: frozen, its buffers empty, no other region changed. -/
theorem markSaved_leaves : let t := markSaved s p id
    RegionWork p id s t ∧ (t.region p id).saved = true ∧ (t.region p id).st = .frozen ∧
      ∀ k ∈ (s.region p id).tileList, (t.tile p k).tokens = 0 := by
  unfold markSaved
  dsimp only
  have tiles : TileWork (fun _ => ()) s ((s.region p id).tileList.foldl
      (fun s t => s.updTile p t fun tl => { tl.noToks with stopped := false }) s) := .foldl fun _ _ => tileWork_updTile fun _ => rfl
  have empty (k : Nat) (mem : k ∈ (s.region p id).tileList) := foldl_updTile_mem (s := s) (p := p) (P := fun tl => tl.tokens = 0)
    (g := fun tl => { tl.noToks with stopped := false }) (fun tl => tokens_noToks tl) mem
  generalize (s.region p id).tileList.foldl (fun s t => s.updTile p t fun tl => { tl.noToks with stopped := false }) s = v
    at tiles empty
  refine ⟨tiles.regionWork.trans regionWork_updRegion, ?_, ?_, fun k mem => ?_⟩
  · rw [region_updRegion]
  · rw [region_updRegion]
  · rw [tile_updRegion]
    exact empty k mem

/-- The state in which a waiting TOKSV writes. -/
def savesFrom (s : State) (p q : Nat) : State :=
  { judged s p q with cur := { (judged s p q).cur with p := p, q := q } }

theorem regionId_judged (named : ((s.ctx p q).rd f.a).toNat % 16 = id) : regionId (judged s p q) p q f = id := by
  unfold regionId judged
  rw [State.ctx_setCtx_same, fld_zero]
  exact named

/-- How a waiting TOKSV ends, from what its write answers. -/
def toksvEnds (p q id stage n : Nat) (f : SeqF) : Option (BitVec 8 × BitVec 64) × State → State
  | (some (c, va), v) => addrTrap (v.updRegion p id fun r => { r with st := RunSt.ofCode stage }) c va .write
  | (none, v) => finish (markSaved v p id) p q 1 (lines64 n) fun c => c.wr f.d (BitVec.ofNat 64 n)

theorem exec_toksv {p : Fin 32} {q : Fin 4} {st : Nat} (waits : PollsOn s p q 0x67 f st id) :
    let bs := saveBytes s p (s.region p id)
    exec (.seqOpComplete p q) s = .next (if settled s p (s.region p id) = true then
      (toksvEnds p q id st bs.length f (writeBytes (savesFrom s p q) p ((s.ctx p q).rd f.b) bs)).reissue p q else s) := by
  intro bs
  have again : s.unissue p q = judged s p q := unissue_one waits.waits (pollCost_one (by decide))
  have same : saveBytes (savesFrom s p q) p (s.region p id) = bs := saveBytes_congr fun k => State.tile_setCtx ..
  have operand : ((savesFrom s p q).ctx p q).opB f = (s.ctx p q).rd f.b := by
    show ((judged s p q).ctx p q).opB f = _
    rw [judged, State.ctx_setCtx_same]
    rfl
  have tries : tryPoll (judged s p q) p q (seqPack 0x67 f) st = tryToksv (judged s p q) p q f st := by
    simp [tryPoll]
  rw [exec_seqOpComplete waits.waits, again, tries, tryToksv, regionId_judged waits.named, judged_region]
  dsimp only
  rw [show settled (judged s p q) p (s.region p id) = settled s p (s.region p id) from settled_setCtx]
  rw [← savesFrom]
  split
  · rw [same, operand]
    generalize writeBytes (savesFrom s p q) p ((s.ctx p q).rd f.b) bs = w
    obtain ⟨_ | ⟨c, va⟩, v⟩ := w <;> rfl
  · rfl

/-- The state TOKSV writes from is the waiting one but for its context and the acting unit. -/
theorem savesFrom_leaves : ((savesFrom s p q).ctx p q = { s.ctx p q with ibud := (s.ctx p q).ibud + 1 }) ∧
    (∀ h k, (savesFrom s p q).region h k = s.region h k) ∧ (∀ h k, (savesFrom s p q).tile h k = s.tile h k) :=
  ⟨State.ctx_setCtx_same .., fun _ _ => State.region_setCtx .., fun _ _ => State.tile_setCtx ..⟩

/-- The write of a waiting TOKSV answers as it would from the state in which it waits. -/
theorem savesFrom_writes {bs : List (BitVec 8)} {o : Option (BitVec 8 × BitVec 64)} (h : writeBytes s p va bs = (o, t)) :
    ∃ v, writeBytes (savesFrom s p q) p va bs = (o, v) ∧ SameReach t v ∧ Accessed (savesFrom s p q) v := by
  have same : SameRead s (savesFrom s p q) := sameRead_setCtx _
  obtain ⟨answer, reach⟩ := same.reach.writeBytes (p := p) (va := va) (bs := bs)
  have writes := writeBytes_accessed (s := savesFrom s p q) (p := p) (va := va) (bs := bs)
  rw [h] at answer reach
  exact ⟨(writeBytes (savesFrom s p q) p va bs).2, Prod.ext answer rfl, reach, writes⟩

/-- An area written: TOKSV answers its size, and its region is saved. -/
theorem toksv_saves {st : Nat} {x v : State} (reach : SameReach x v) (writes : Accessed (savesFrom s p q) v) :
    let t := (toksvEnds p q id st n f (none, v)).reissue p q
    Completes s t p q 0 ((n + 63) / 64) ∧ Writes s t p q f.d (BitVec.ofNat 64 n) ∧ (t.region p id).saved = true ∧
      (t.region p id).st = .frozen ∧ (∀ k ∈ (s.region p id).tileList, (t.tile p k).tokens = 0) ∧ OtherRegions s t p id ∧
      ∀ h a, t.rdByte h a = x.rdByte h a := by
  obtain ⟨ctx, region, -⟩ := savesFrom_leaves (s := s) (p := p) (q := q)
  obtain ⟨⟨work, others⟩, saved, frozen, empty⟩ := markSaved_leaves (s := v) (p := p) (id := id)
  have ctx' : (markSaved v p id).ctx p q = { s.ctx p q with ibud := (s.ctx p q).ibud + 1 } :=
    (work.ctx p q).trans ((writes.ctx p q).trans ctx)
  have regions (h k : Nat) : v.region h k = s.region h k := (writes.region h k).trans (region h k)
  unfold toksvEnds
  dsimp only
  rw [finish_reissue]
  obtain ⟨done, wrote⟩ := finish_wr (s := s) (u := markSaved v p id) (p := p) (q := q) (ib := 1) (tb := lines64 n) (n := 0)
    (m := (n + 63) / 64) (d := f.d) (v := BitVec.ofNat 64 n) (by rw [ctx']) (by rw [ctx']) (by rw [ctx']; simp) (by rw [ctx']; rfl)
  refine ⟨done, wrote, ?_, ?_, fun k mem => ?_, fun h k ne => ?_, fun h a => ?_⟩
  · rw [finish, State.region_setCtx, saved]
  · rw [finish, State.region_setCtx, frozen]
  · rw [finish, State.tile_setCtx]
    exact empty k (by rwa [regions])
  · rw [finish, State.region_setCtx, others h k ne, regions]
  · exact (work.byte h a).trans reach.rdByte

/-- A write that faults: the region is as it was, and TOKSV traps with no charge. -/
theorem toksv_traps {st : Nat} {c : BitVec 8} {x : BitVec 64} {v : State} {bs : List (BitVec 8)}
    (fault : writeBytes (savesFrom s p q) p va bs = (some (c, x), v)) :
    let t := (toksvEnds p q id st n f (some (c, x), v)).reissue p q
    t.region p id = { s.region p id with st := RunSt.ofCode st } ∧ (t.ctx p q).tcause = c.setWidth 64 ∧ (t.ctx p q).tval = x ∧
      (t.ctx p q).ibud = (s.ctx p q).ibud + 1 ∧ ∀ a, t.rdByte false a = s.rdByte false a := by
  have writes := writeBytes_accessed (s := savesFrom s p q) (p := p) (va := va) (bs := bs)
  rw [fault] at writes
  dsimp only at writes
  obtain ⟨ctx, region, -⟩ := savesFrom_leaves (s := s) (p := p) (q := q)
  unfold toksvEnds
  dsimp only
  have enters := addrTrap_enters (s := v.updRegion p id fun r => { r with st := RunSt.ofCode st }) (p := p) (q := q) (cause := c)
    (va := x) (kind := .write) (congrArg Actor.p writes.cur) (congrArg Actor.q writes.cur)
  obtain ⟨-, -, ready⟩ := enters.goes
  rw [reissue_of_ready ready]
  refine ⟨?_, enters.causeIs, enters.tvalIs x rfl, ?_, fun a => (enters.byte a).trans (writeBytes_fault fault false a)⟩
  · rw [enters.region, region_updRegion, writes.region, region]
  · have kept := enters.keeps
    simp only [Prod.mk.injEq] at kept
    obtain ⟨-, -, ibud, -⟩ := kept
    rw [ibud, State.updRegion, State.ctx_setRegion, writes.ctx, ctx]

theorem regionSaveAndRestore : RegionSaveAndRestore := by
  refine ⟨fun f s p q id names => ?_, fun f s p q id st waits _ _ => ?_⟩
  · have save := execToksv_of_names names
    have restore := execTokrs_of_names names
    have traps (cause : BitVec 8) := addrTrap_enters (s := s) (p := p) (q := q) (va := s.curCtx.rd f.b) (cause := cause)
      (kind := .write) names.atP names.atQ
    dsimp only
    refine ⟨fun canon aligned => ⟨_, save.trans (by rw [if_pos canon, if_pos aligned]), toksv_waits names.atP names.atQ⟩,
      fun bad => ⟨_, save.trans (by rw [if_neg (by simp [bad])]), traps _⟩,
      fun canon odd => ⟨_, save.trans (by rw [if_pos canon, if_neg odd]), traps _⟩,
      fun unsaved => refused_of_refuseA (restore.trans (by rw [if_neg (by simp [unsaved])])), fun saved t failed => ?_,
      fun saved n t done => ?_⟩
    · rw [if_pos saved, failed] at restore
      obtain ⟨read, byte⟩ := restoreRegion_error failed
      exact refused_after_reading (reads_of_accessed read byte) restore
    · rw [if_pos saved, done] at restore
      refine ⟨_, restore.trans ?_, tokrs_completes (q := q) (r := s.region p id) done⟩
      obtain ⟨⟨work, -⟩, -⟩ := restoreRegion_ok done
      obtain ⟨-, -, cur, -⟩ := taskRuns_leaves (s := t) (p := p) (r := s.region p id)
      dsimp only
      rw [finishCur, cur, work.cur, names.atP, names.atQ]
  · have run := exec_toksv waits
    dsimp only at run ⊢
    refine ⟨fun ready x wrote => ?_, fun ready c va x wrote => ?_, fun no => ?_⟩
    · obtain ⟨v, writes, reach, kept⟩ := savesFrom_writes (q := q) wrote
      rw [if_pos ready, writes] at run
      exact ⟨_, run, toksv_saves reach kept⟩
    · obtain ⟨v, writes, -, -⟩ := savesFrom_writes (q := q) wrote
      rw [if_pos ready, writes] at run
      exact ⟨_, run, toksv_traps writes⟩
    · rw [run, if_neg (by simp [no])]

end Sys2Proof.Claims

end

/-! ## Folding (O20)

RFOLD empties the tiles that leave, cuts its region and makes its image resident in what is left; the granted rows of factor 0 come
back with the full image. -/

section

namespace Sys2Proof.Claims

open Sys2Proof.Machine

variable {s t u : State} {p q id k n : Nat} {f : SeqF} {r : Region} {α : Type} {g : Tile → α} {va : BitVec 64}

/-! ### Tiles that leave a region -/

theorem tileWork_cancelTile {k : Nat} (hb : ∀ tl m b, g (Tile.setBuf tl m b) = g tl) (hq : ∀ tl q, g { tl with outq := q } = g tl)
    (hc : ∀ tl, g (cancelParked tl).2 = g tl) : TileWork g s (cancelTile s p k).2 :=
  (tileWork_dropOut hb hq).trans (tileWork_setTile (hc _))

theorem tileWork_cancelTiles {l : List Nat} (hb : ∀ tl m b, g (Tile.setBuf tl m b) = g tl)
    (hq : ∀ tl q, g { tl with outq := q } = g tl) (hc : ∀ tl, g (cancelParked tl).2 = g tl) :
    TileWork g s (cancelTiles p l s).2 :=
  List.foldlRecOn (motive := fun a : Nat × State => TileWork g s a.2) l _ (TileWork.refl g s) fun _ h _ _ =>
    h.trans (tileWork_cancelTile hb hq hc)

theorem tileWork_freeTiles {l : List Nat} {by_ : Option (Nat × BitVec 14)} (hb : ∀ tl m b, g (Tile.setBuf tl m b) = g tl)
    (hq : ∀ tl q, g { tl with outq := q } = g tl) (hf : ∀ tl, g (freedTile tl by_) = g tl) : TileWork g s (freeTiles s p l by_) :=
  .foldl fun _ _ => (tileWork_dropOut hb hq).trans (tileWork_updTile hf)

/-- A tile with no configuration and no buffer. -/
def Bare (tl : Tile) : Prop := tl.cfgs = [] ∧ tl.bufs = []

theorem bare_release {tl : Tile} (h : Bare tl) : Bare (tl.setBuf n (tl.buf n).release) := by
  obtain ⟨cfgs, bufs⟩ := h
  have empty : tl.buf n = {} := by rw [Tile.buf, bufs]; rfl
  refine ⟨cfgs, ?_⟩
  rw [empty, Tile.setBuf, bufs]
  rfl

theorem bare_updTile {j : Nat} {h : Tile → Tile} (hh : ∀ tl, Bare tl → Bare (h tl)) (bare : Bare (s.tile p k)) :
    Bare ((s.updTile p j h).tile p k) := by
  rw [State.updTile]
  by_cases here : k = j
  · subst here
    rw [State.tile_setTile_same]
    exact hh _ bare
  · rwa [State.tile_setTile_other _ _ _ _ _ here]

/-- Results given up leave a bare tile bare: a place is given back to a buffer that holds nothing. -/
theorem bare_dropOut {j : Nat} {which : Deferred → Bool} (bare : Bare (s.tile p k)) : Bare ((dropOut s p j which).tile p k) := by
  unfold dropOut
  refine bare_updTile (fun _ h => h) ?_
  refine List.foldlRecOn (motive := fun v : State => Bare (v.tile p k)) _ _ bare fun v hv _ _ => ?_
  refine List.foldlRecOn (motive := fun v : State => Bare (v.tile p k)) _ _ hv fun v hv _ _ => ?_
  unfold releaseOut onDests
  refine List.foldlRecOn (motive := fun v : State => Bare (v.tile p k)) _ _ ?_ fun v hv _ _ => hv
  refine List.foldlRecOn (motive := fun v : State => Bare (v.tile p k)) _ _ hv fun v hv _ _ => ?_
  split
  · exact hv
  · exact bare_updTile (fun _ h => bare_release h) hv

/-- Tiles freed are bare. -/
theorem freeTiles_bare {l : List Nat} {by_ : Option (Nat × BitVec 14)} (mem : k ∈ l) : Bare ((freeTiles s p l by_).tile p k) := by
  unfold freeTiles
  induction l using List.reverseRecOn with
  | nil => simp at mem
  | append_singleton l e ih =>
    rw [List.foldl_append, List.foldl_cons, List.foldl_nil, State.updTile]
    by_cases here : k = e
    · subst here
      rw [State.tile_setTile_same]
      exact ⟨rfl, rfl⟩
    · rw [State.tile_setTile_other _ _ _ _ _ here]
      exact bare_dropOut (ih ((List.mem_append.mp mem).resolve_right fun h => here (List.mem_singleton.mp h)))

/-- An image stored leaves the tiles outside its rectangle. -/
theorem storeImage_otherTile {row0 col0 h w slot : Nat} {img : List (BitVec 64)} (out : k ∉ rectTiles row0 col0 h w) :
    (storeImage s p row0 col0 h w slot img).tile p k = s.tile p k := by
  refine List.foldlRecOn (motive := fun v : State => v.tile p k = s.tile p k) _ _ rfl fun v hv e mem => ?_
  have inside : e.1 ∈ rectTiles row0 col0 h w := List.mem_of_getElem? (List.mem_zipIdx_iff_getElem?.mp mem)
  have other : k ≠ e.1 := fun same => out (same ▸ inside)
  rw [State.updTile, State.tile_setTile_other _ _ _ _ _ other, hv]

/-! ### RFOLD of factor 1 or 2 (R141, R142) -/

/-- An image resident in the active slot of a rectangle. -/
def Resident (t : State) (p row0 col0 h w : Nat) (act : Option (BitVec 2)) (img : List (BitVec 64)) : Prop :=
  ∀ a, act = some a → ∀ k ∈ rectTiles row0 col0 h w, ∃ j : Nat, (rectTiles row0 col0 h w)[j]? = some k ∧
    Tbl.find? (t.tile p k).cfgs a.toNat = some ((img.drop (33 * j)).take 33)

theorem makeResident_resident {img : List (BitVec 64)} {act : Option (BitVec 2)} {h : Nat}
    (rect : rectOf (s.region p id) = (r.row0, r.col0, h, r.w)) :
    Resident (makeResident s p id (act.getD 0).toNat va img) p r.row0 r.col0 h r.w act img := by
  rintro a rfl k mem
  have tiles : (s.region p id).tileList = rectTiles r.row0 r.col0 h r.w := by
    simp only [rectOf, Prod.mk.injEq] at rect
    obtain ⟨row0, col0, height, width⟩ := rect
    rw [Region.tileList, row0, col0, height, width]
  obtain ⟨j, at_, stored⟩ := makeResident_stored (s := s) (p := p) (id := id) (slot := a.toNat) (va := va) (img := img)
    (k := k) (by rwa [tiles])
  exact ⟨j, by rwa [← tiles], stored⟩

/-- The rows that leave a folded region. -/
def foldedRows (r : Region) (hk : Nat) : List Nat := rectTiles (r.row0 + hk) r.col0 (r.h - hk) r.w

/-- A region cut, before its image is resident. -/
def cutRegion (s : State) (p id hk fac : Nat) : State :=
  (freeTiles (cancelTiles p (foldedRows (s.region p id) hk) s).2 p (foldedRows (s.region p id) hk) none).updRegion p id fun r =>
    { r with h := hk, fullH := r.h, fold := BitVec.ofNat 2 fac,
             drop := r.drop + (cancelTiles p (foldedRows (s.region p id) hk) s).1 }

theorem foldRegion_eq {hk fac : Nat} {img : List (BitVec 64)} : foldRegion s p id hk fac va img =
    let v := (makeResident (cutRegion s p id hk fac) p id ((s.region p id).act.getD 0).toNat va img).updPad p fun x =>
      { x with bidNow := true }
    dispatchEvent v p 1 (s.region p id).owner id (ttypeOf (v.pad p) (s.region p id).task) (s.region p id).row0 (s.region p id).col0
      (s.region p id).ord := rfl

theorem cutRegion_leaves {hk fac : Nat} : let t := cutRegion s p id hk fac
    RegionWork p id s t ∧ rectOf (t.region p id) = ((s.region p id).row0, (s.region p id).col0, hk, (s.region p id).w) ∧
      ((t.region p id).fullH, (t.region p id).fold) = ((s.region p id).h, BitVec.ofNat 2 fac) ∧
      ∀ k ∈ foldedRows (s.region p id) hk, Bare (t.tile p k) := by
  have tiles : TileWork (fun _ => ()) s (freeTiles (cancelTiles p (foldedRows (s.region p id) hk) s).2 p
      (foldedRows (s.region p id) hk) none) :=
    (tileWork_cancelTiles (fun _ _ _ => rfl) (fun _ _ => rfl) fun _ => rfl).trans
      (tileWork_freeTiles (fun _ _ _ => rfl) (fun _ _ => rfl) fun _ => rfl)
  unfold cutRegion
  refine ⟨tiles.regionWork.trans regionWork_updRegion, ?_, ?_, fun k mem => ?_⟩
  · rw [region_updRegion, tiles.region]
    rfl
  · rw [region_updRegion, tiles.region]
  · rw [tile_updRegion]
    exact freeTiles_bare mem

/-- The arbiter looks at bids in this fc: nothing else is noted. -/
theorem tileWork_bidNow : TileWork g s (s.updPad p fun x => { x with bidNow := true }) where
  work := work_setPad rfl
  region h k := by
    by_cases hp : h = p
    · subst hp
      rw [State.region, State.updPad, State.pad_setPad_same]
      rfl
    · rw [State.region, State.updPad, State.pad_setPad_other _ _ _ _ hp]
      rfl
  tile h k := by
    by_cases hp : h = p
    · subst hp
      rw [State.tile, State.updPad, State.pad_setPad_same]
      rfl
    · rw [State.tile, State.updPad, State.pad_setPad_other _ _ _ _ hp]
      rfl

/-- An image made resident leaves the tiles outside its region. -/
theorem makeResident_otherTile {slot : Nat} {img : List (BitVec 64)} (out : k ∉ (s.region p id).tileList) :
    (makeResident s p id slot va img).tile p k = s.tile p k := by
  unfold makeResident
  rw [tile_updRegion]
  exact storeImage_otherTile out

/-- What a fold leaves. -/
theorem foldRegion_leaves {hk fac : Nat} {img : List (BitVec 64)} (off : (s.pad p).trace.mode = 0) (at_ : s.region p id = r) :
    let t := foldRegion s p id hk fac va img
    RegionWork p id s t ∧ ((t.region p id).h, (t.region p id).fullH, (t.region p id).fold) = (hk, r.h, BitVec.ofNat 2 fac) ∧
      (∀ k ∈ rectTiles (r.row0 + hk) r.col0 (r.h - hk) r.w, k ∉ rectTiles r.row0 r.col0 hk r.w → Bare (t.tile p k)) ∧
      Resident t p r.row0 r.col0 hk r.w r.act img := by
  obtain ⟨cut, rect, sizes, bare⟩ := cutRegion_leaves (s := s) (p := p) (id := id) (hk := hk) (fac := fac)
  rw [foldRegion_eq]
  rw [at_] at rect sizes bare ⊢
  generalize cutRegion s p id hk fac = c at cut rect sizes bare
  have loads := makeResident_work (s := c) (p := p) (id := id) (slot := (r.act.getD 0).toNat) (va := va) (img := img)
  have resident := makeResident_resident (s := c) (p := p) (id := id) (va := va) (img := img) (act := r.act) rect
  have region := makeResident_region (s := c) (p := p) (id := id) (slot := (r.act.getD 0).toNat) (va := va) (img := img)
  have out (k : Nat) := makeResident_otherTile (s := c) (p := p) (id := id) (k := k) (slot := (r.act.getD 0).toNat) (va := va)
    (img := img)
  have tiles : (c.region p id).tileList = rectTiles r.row0 r.col0 hk r.w := by
    simp only [rectOf, Prod.mk.injEq] at rect
    obtain ⟨row0, col0, height, width⟩ := rect
    rw [Region.tileList, row0, col0, height, width]
  rw [tiles] at out
  generalize makeResident c p id (r.act.getD 0).toNat va img = d at loads resident region out
  have noted : TileWork (fun tl => tl) d (d.updPad p fun x => { x with bidNow := true }) := tileWork_bidNow
  have all : RegionWork p id s (d.updPad p fun x => { x with bidNow := true }) := (cut.trans loads).trans noted.regionWork
  dsimp only
  rw [dispatchEvent_off (by rw [all.work.trace, off])]
  refine ⟨all, ?_, fun k gone left => ?_, fun a act k mem => ?_⟩
  · obtain ⟨-, -, height, -⟩ : _ ∧ _ ∧ (c.region p id).h = hk ∧ _ := by simpa [rectOf] using rect
    obtain ⟨full, fold⟩ := Prod.mk.inj sizes
    rw [noted.region, region, ← full, ← fold, ← height]
  · rw [show (d.updPad p fun x => { x with bidNow := true }).tile p k = d.tile p k from noted.tile p k, out k left]
    exact bare k gone
  · rw [show (d.updPad p fun x => { x with bidNow := true }).tile p k = d.tile p k from noted.tile p k]
    exact resident a act k mem

/-- The image that RFOLD reads (R141). -/
theorem foldImage_eq {b : BitVec 64} {fac : Nat} (h : r.task = none ∧ va = b ∨ va ≠ 0 ∧ ∃ k, r.task = some k ∧
      va = if b ≠ 0 then b else if fac = 1 then (s.task p k).fold2 else (s.task p k).fold4) :
    foldImage s p r b fac = va ∧ (r.task.isSome && va == 0) = false := by
  unfold foldImage
  rcases h with ⟨own, rfl⟩ | ⟨some, k, task, rfl⟩
  · rw [own]
    exact ⟨rfl, rfl⟩
  · rw [task]
    dsimp only
    by_cases zero : b = 0
    · rw [if_neg (not_not_intro zero)] at some ⊢
      exact ⟨if_pos zero, by simpa using some⟩
    · rw [if_pos zero] at some ⊢
      exact ⟨if_neg zero, by simpa using some⟩

/-- How RFOLD ends, from what its image read as. -/
def rfoldEnds (s : State) (p id fac : Nat) (va : BitVec 64) : Except ImgFault (List (BitVec 64)) × State → State
  | (.error e, v) => imgTrap v e
  | (.ok img, v) =>
    let hk := ceilDiv (s.region p id).h (2 ^ fac)
    finishCur (foldRegion v p id hk fac va img) 16 (lines64 (264 * hk * (s.region p id).w)) fun c => c

theorem execRfold_of_names {p : Fin 32} {q : Fin 4} (names : Names s p q f id) : exec (.rfold f) s = .next
    (match foldRefusal s p (s.region p id) (f.imm.toNat % 4) with
    | some d => refuseA s f d
    | none =>
      let r := s.region p id
      let fac := f.imm.toNat % 4
      let va := foldImage s p r (s.curCtx.rd f.b) fac
      if (r.task.isSome && va == 0) = true then refuseA s f 0x14
      else rfoldEnds s p id fac va (readImage s p r.row0 r.col0 (ceilDiv r.h (2 ^ fac)) r.w (some (BitVec.ofNat 2 fac)) va)) := by
  have factor : fld f.imm 0 2 = f.imm.toNat % 4 := fld_zero ..
  have step : exec (.rfold f) s = _ := (show exec (.rfold f) s = execRfold f s from rfl).trans (regionIns_of_names names)
  dsimp only at step
  rw [factor, names.atP] at step
  rw [step]
  rfl

theorem execRfoldUnfold_of_names {p : Fin 32} {q : Fin 4} (names : Names s p q f id) : exec (.rfoldUnfold f) s = .next
    (match foldRefusal s p (s.region p id) 0 with
    | some d => refuseA s f d
    | none =>
      let r := s.region p id
      addBid (pollFor s 0x65 f 0) p
        { kind := .unfold id, row0 := r.row0 + r.h, col0 := r.col0, h := r.fullH - r.h, w := r.w, mode := 0, prio := r.prio,
          q := r.owner, arr := 0 }) := by
  have step : exec (.rfoldUnfold f) s = _ :=
    (show exec (.rfoldUnfold f) s = execRfoldUnfold f s from rfl).trans (regionIns_of_names names)
  rw [names.atP] at step
  exact step

/-! ### RFOLD of factor 0 (R142) -/

/-- RFOLD waits with the charge of its full image. -/
theorem pollCost_rfold (named : ((s.ctx p q).rd f.a).toNat % 16 = id) : pollCost s p q (seqPack 0x65 f) =
    (16, lines64 (264 * (s.region p id).fullH * (s.region p id).w)) := by
  have region : regionId s p q f = id := (fld_zero ..).trans named
  unfold pollCost
  rw [seqOpc_seqPack, seqFields_seqPack]
  dsimp only
  rw [region]
  rfl

/-- A region at its full height again, its image resident. -/
def unfolded (s : State) (p id : Nat) (va : BitVec 64) (img : List (BitVec 64)) : State :=
  let r := s.region p id
  let s := (rectTiles (r.row0 + r.h) r.col0 (r.fullH - r.h) r.w).foldl
    (fun s t => s.updTile p t fun tl => { freedTile tl none with flags := 0 }) s
  let s := s.updRegion p id fun r => { r with h := r.fullH, fold := 0 }
  makeResident s p id ((r.act.getD 0).toNat) va img

theorem unfolded_leaves {img : List (BitVec 64)} (at_ : s.region p id = r) : let t := unfolded s p id va img
    RegionWork p id s t ∧ ((t.region p id).h, (t.region p id).fold) = (r.fullH, 0) ∧
      Resident t p r.row0 r.col0 r.fullH r.w r.act img := by
  unfold unfolded
  dsimp only
  rw [at_]
  have tiles : TileWork (fun _ => ()) s ((rectTiles (r.row0 + r.h) r.col0 (r.fullH - r.h) r.w).foldl
      (fun s t => s.updTile p t fun tl => { freedTile tl none with flags := 0 }) s) := .foldl fun _ _ => tileWork_updTile fun _ => rfl
  generalize (rectTiles (r.row0 + r.h) r.col0 (r.fullH - r.h) r.w).foldl
    (fun s t => s.updTile p t fun tl => { freedTile tl none with flags := 0 }) s = v at tiles
  have region : (v.updRegion p id fun r => { r with h := r.fullH, fold := 0 }).region p id = { r with h := r.fullH, fold := 0 } := by
    rw [region_updRegion, tiles.region, at_]
  refine ⟨(tiles.regionWork.trans regionWork_updRegion).trans makeResident_work, ?_, makeResident_resident (by rw [region]; rfl)⟩
  rw [makeResident_region, region]

/-- The state in which a granted RFOLD is judged again. -/
def unfoldsFrom (s : State) (p q : Nat) : State := { s with cur := { s.cur with p := p, q := q } }

/-- Where the full image reads, the unfolded region is resident and its RFOLD complete. -/
theorem unfoldRegion_eq {img : List (BitVec 64)} (owner : (s.region p id).owner = q)
    (wait : (s.ctx p q).wait = .poll (seqPack 0x65 f) 0)
    (read : readImage (unfoldsFrom s p q) p (s.region p id).row0 (s.region p id).col0 (s.region p id).fullH (s.region p id).w
      (some 0) ((s.ctx p q).rd f.b) = (.ok img, u)) :
    ∃ v, Work ((unfoldsFrom s p q).unissue p q) v ∧ (∀ h k, v.region h k = s.region h k) ∧
      unfoldRegion s p id = finish (unfolded v p id ((s.ctx p q).rd f.b) img) p q 16
        (lines64 (264 * (s.region p id).fullH * (s.region p id).w)) fun c => c := by
  have polls : pollOf (unfoldsFrom s p q) p q 0x65 = some (f, 0) := pollOf_eq (opc := 0x65) wait
  have again := unissue_eq (s := unfoldsFrom s p q) (p := p) (q := q) wait
  have regions (h k : Nat) : ((unfoldsFrom s p q).unissue p q).region h k = s.region h k := by
    rw [again, State.region_setCtx]
    rfl
  have operand : (((unfoldsFrom s p q).unissue p q).ctx p q).opB f = (s.ctx p q).rd f.b := by
    rw [again, State.ctx_setCtx_same]
    rfl
  have same : SameRead (unfoldsFrom s p q) ((unfoldsFrom s p q).unissue p q) := by
    rw [again]
    exact sameRead_setCtx (unfoldsFrom s p q).cur
  have answer := same.readImage (p := p) (row0 := (s.region p id).row0) (col0 := (s.region p id).col0) (h := (s.region p id).fullH)
    (w := (s.region p id).w) (fold := some 0) (va := (s.ctx p q).rd f.b)
  have work := readImage_work (s := (unfoldsFrom s p q).unissue p q) (p := p) (row0 := (s.region p id).row0)
    (col0 := (s.region p id).col0) (h := (s.region p id).fullH) (w := (s.region p id).w) (fold := some 0)
    (va := (s.ctx p q).rd f.b)
  have kept := (readImage_accessed (s := (unfoldsFrom s p q).unissue p q) (p := p) (row0 := (s.region p id).row0)
    (col0 := (s.region p id).col0) (h := (s.region p id).fullH) (w := (s.region p id).w) (fold := some 0)
    (va := (s.ctx p q).rd f.b)).region
  rw [read] at answer
  generalize loads : readImage ((unfoldsFrom s p q).unissue p q) p (s.region p id).row0 (s.region p id).col0
    (s.region p id).fullH (s.region p id).w (some 0) ((s.ctx p q).rd f.b) = x at answer work kept
  obtain ⟨_, v⟩ := x
  obtain rfl := answer
  refine ⟨v, work, fun h k => (kept h k).trans (regions h k), ?_⟩
  have region : v.region p id = s.region p id := (kept p id).trans (regions p id)
  unfold unfoldRegion
  dsimp only
  rw [owner, ← unfoldsFrom, polls]
  dsimp only
  rw [operand, loads]
  dsimp only
  rw [unfolded, region]

/-- BID_ADMIT of the bid that an RFOLD waits for. -/
theorem exec_bidAdmit_unfold {p : Fin 32} {row0 col0 : Nat} {b : Bid} (pick : pickBid s p = (.grant n row0 col0, s))
    (at_ : (s.pad p).bids[n]? = some b) (kind : b.kind = .unfold id) (off : (s.pad p).trace.mode = 0) :
    exec (.bidAdmit p n) s = .next (unfoldRegion (takeBid s p n) p id) := by
  show execBidAdmit p n s = _
  unfold execBidAdmit
  rw [pick]
  dsimp only
  rw [if_neg (by simp), at_]
  dsimp only
  rw [kind]
  dsimp only
  rw [dispatchEvent_off (by rw [takeBid_trace, off])]

theorem resident_finish {ib tb row0 col0 h w : Nat} {upd : Ctx → Ctx} {act : Option (BitVec 2)} {img : List (BitVec 64)}
    (resident : Resident s p row0 col0 h w act img) : Resident (finish s p q ib tb upd) p row0 col0 h w act img := by
  intro a same k mem
  rw [finish, State.tile_setCtx]
  exact resident a same k mem

/-- RFOLD of factor 1 or 2 completes. -/
theorem rfold_completes {hk fac ib tb : Nat} {img : List (BitVec 64)} (work : Work s u) (same : ∀ h k, u.region h k = s.region h k)
    (off : (s.pad p).trace.mode = 0) (at_ : s.region p id = r) :
    let t := finish (foldRegion u p id hk fac va img) p q ib tb fun c => c
    Completes s t p q ib tb ∧ NoWrite s t p q ∧
      ((t.region p id).h, (t.region p id).fullH, (t.region p id).fold) = (hk, r.h, BitVec.ofNat 2 fac) ∧
      (∀ k ∈ rectTiles (r.row0 + hk) r.col0 (r.h - hk) r.w, k ∉ rectTiles r.row0 r.col0 hk r.w → Bare (t.tile p k)) ∧
      Resident t p r.row0 r.col0 hk r.w r.act img ∧ OtherRegions s t p id ∧ SameBytes s t := by
  obtain ⟨⟨all, others⟩, sizes, bare, resident⟩ := foldRegion_leaves (s := u) (p := p) (id := id) (hk := hk) (fac := fac) (va := va)
    (img := img) (by rw [work.trace, off]) ((same p id).trans at_)
  dsimp only
  generalize foldRegion u p id hk fac va img = v at all others sizes bare resident
  obtain ⟨done, regs⟩ := finish_completes (ib := ib) (tb := tb) ((all.ctx p q).trans (work.ctx p q))
  refine ⟨done, regs, ?_, fun k gone left => ?_, resident_finish resident, fun h k ne => ?_,
    fun h a => (all.byte h a).trans (work.byte h a)⟩
  · rw [finish, State.region_setCtx, sizes]
  · rw [finish, State.tile_setCtx]
    exact bare k gone left
  · rw [finish, State.region_setCtx, others h k ne, same]

/-- RFOLD of factor 0 bids for the rows that left, and waits. -/
theorem rfold_bids {b : Bid} (atP : s.cur.p = p) (atQ : s.cur.q = q) (named : ((s.ctx p q).rd f.a).toNat % 16 = id) :
    let t := addBid (pollFor s 0x65 f 0) p b
    Polls s t p q 0x65 f 0 16 ((264 * (s.region p id).fullH * (s.region p id).w + 63) / 64) ∧
      (t.pad p).bids = (s.pad p).bids ++ [{ b with arr := s.fc p, ord := (s.pad p).nextOrd b.q }] ∧ SameBytes s t := by
  obtain ⟨polls, -⟩ := pollFor_polls (s := s) (u := s) (stage := 0) atP atQ rfl (pollCost_rfold named)
  obtain ⟨c, frame⟩ := pollFor_frame (s := s) (f := f) (opc := 0x65) (stage := 0) atP atQ
  refine ⟨polls_of_ctx (addBid_ctx ..) polls, ?_, fun h a => by rw [frame]; rfl⟩
  rw [addBid_bids, frame, pad_setCtx, Paddock.setCtx_bids, fc_setCtx]
  rfl

theorem ceilDiv_two_pow (h fac : Nat) : ceilDiv h (2 ^ fac) = (h + 2 ^ fac - 1) / 2 ^ fac := rfl

theorem regionFold : RegionFold := by
  refine ⟨fun f s p q id names => ?_, fun f s p q n row0 col0 id b pick at_ kind waits off => ?_⟩
  · have fold := execRfold_of_names names
    have bids := execRfoldUnfold_of_names names
    dsimp only at fold bids ⊢
    refine ⟨fun d refused => refused_of_refuseA (fold.trans (by rw [refused])),
      fun d refused => refused_of_refuseA (bids.trans (by rw [refused])), fun unsaved => by simp [foldRefusal, unsaved],
      fun saved pos folded => ?_, fun _ allowed off va image img u read => ?_, fun _ allowed zero none_ => ?_, fun allowed => ?_⟩
    · rw [foldRefusal, saved, if_neg (by decide), if_neg (Nat.ne_of_gt pos), if_pos (.inr folded)]
    · obtain ⟨same, given⟩ := foldImage_eq (s := s) (p := p) image
      rw [allowed] at fold
      dsimp only at fold
      rw [same, given, if_neg (by decide), ceilDiv_two_pow, read] at fold
      have work := readImage_work (s := s) (p := p) (row0 := (s.region p id).row0) (col0 := (s.region p id).col0)
        (h := ((s.region p id).h + 2 ^ (f.imm.toNat % 4) - 1) / 2 ^ (f.imm.toNat % 4)) (w := (s.region p id).w)
        (fold := some (BitVec.ofNat 2 (f.imm.toNat % 4))) (va := va)
      have kept := (readImage_accessed (s := s) (p := p) (row0 := (s.region p id).row0) (col0 := (s.region p id).col0)
        (h := ((s.region p id).h + 2 ^ (f.imm.toNat % 4) - 1) / 2 ^ (f.imm.toNat % 4)) (w := (s.region p id).w)
        (fold := some (BitVec.ofNat 2 (f.imm.toNat % 4))) (va := va)).region
      rw [read] at work kept
      obtain ⟨⟨all, -⟩, -⟩ := foldRegion_leaves (s := u) (p := p) (id := id) (va := va) (img := img)
        (hk := ((s.region p id).h + 2 ^ (f.imm.toNat % 4) - 1) / 2 ^ (f.imm.toNat % 4)) (fac := f.imm.toNat % 4)
        (by rw [work.trace, off]) rfl
      have cur := all.cur.trans work.cur
      refine ⟨_, fold.trans ?_, rfold_completes (u := u) (va := va) work kept off rfl⟩
      rw [rfoldEnds, ceilDiv_two_pow, finishCur, cur, names.atP, names.atQ]
      rfl
    · obtain ⟨k, task, alternate⟩ := none_
      have image : foldImage s p (s.region p id) (s.curCtx.rd f.b) (f.imm.toNat % 4) = 0 := by
        rw [foldImage, task, zero]
        exact (if_pos rfl).trans alternate
      rw [allowed] at fold
      dsimp only at fold
      rw [image, if_pos (by simp [task])] at fold
      exact refused_of_refuseA fold
    · rw [allowed] at bids
      have named : ((s.ctx p q).rd f.a).toNat % 16 = id := by
        rw [← names.named, State.curCtx, names.atP, names.atQ]
      obtain ⟨polls, queue, bytes⟩ := rfold_bids (id := id) names.atP names.atQ named
      exact ⟨_, _, bids, polls, queue, rfl, rfl, bytes⟩
  · intro r img x read
    have region (h k : Nat) : (takeBid s p n).region h k = s.region h k := takeBid_region ..
    have ctx : (unfoldsFrom (takeBid s p n) p q).ctx p q = s.ctx p q := takeBid_ctx ..
    have wait : ((takeBid s p n).ctx p q).wait = .poll (seqPack 0x65 f) 0 := (congrArg Ctx.wait ctx).trans waits.waits
    have regs : (takeBid s p n).ctx p q = s.ctx p q := ctx
    obtain ⟨v, work, regions, run⟩ := unfoldRegion_eq (s := takeBid s p n) (id := id) (img := img) (u := x)
      (by rw [region]; exact waits.owns) wait (by rw [region, regs]; exact read)
    rw [region, regs] at run
    obtain ⟨⟨all, others⟩, sizes, resident⟩ := unfolded_leaves (p := p) (va := (s.ctx p q).rd f.b) (img := img)
      ((regions p id).trans (region p id))
    have size : (unfoldsFrom (takeBid s p n) p q).region p id = r := region p id
    have cost : pollCost (unfoldsFrom (takeBid s p n) p q) p q (seqPack 0x65 f) = (16, lines64 (264 * r.fullH * r.w)) := by
      rw [pollCost_rfold (id := id) (by rw [ctx]; exact waits.named), size]
    obtain ⟨done, wrote⟩ := finish_unissued (s := unfoldsFrom (takeBid s p n) p q) (d := 0) (v := 0) wait cost
      ((all.ctx p q).trans (work.ctx p q))
    generalize unfolded v p id ((s.ctx p q).rd f.b) img = w at run all others sizes resident done wrote
    refine ⟨_, (exec_bidAdmit_unfold pick at_ kind off).trans (congrArg Host.Outcome.next run), Completes.of_ctx ctx done,
      noWrite_of_writes_zero (Writes.of_ctx ctx wrote), ?_, resident_finish resident, fun h k ne => ?_, fun h a => ?_⟩
    · rw [finish, State.region_setCtx, sizes]
    · rw [finish, State.region_setCtx, others h k ne, regions, region]
    · refine (all.byte h a).trans ((work.byte h a).trans ?_)
      rw [unissue_eq (s := unfoldsFrom (takeBid s p n) p q) wait]
      rfl

end Sys2Proof.Claims

namespace Sys2Proof

/-- Settles O20: the save's write and the restore's reads, the area's words by their places, and a fold as rows freed, a region
cut and an image made resident. -/
theorem regionSaveRestoreFold : Obligations.RegionSaveRestoreFold :=
  ⟨Claims.regionSaveAndRestore, Claims.saveAreaContents, Claims.regionFold⟩

end Sys2Proof

end

/-! ## The lives of tasks (O23)

When a task stops or retires is said by the statement as by the model (`retireDue_iff`); a region that is freed takes its tiles,
messages and chains with it and leaves every desk. -/

section

namespace Sys2Proof.Claims

open Sys2Proof.Machine

variable {s t u : State} {p q id k n rid : Nat} {r : Region} {α : Type} {g : Tile → α} {y : Task}

/-! ### When a task stops, and when it retires (R133, R264, R267) -/

theorem firOf_tl : (firOf s p k).tl = s.tile p k := rfl

/-- Work is settled where nothing is in progress on any tile. -/
theorem workSettled_of_idle (h : ∀ k ∈ r.tileList, (s.tile p k).reqs = [] ∧ (s.tile p k).outq = [] ∧ (s.tile p k).mx.pass = none ∧
    (s.tile p k).mx.drain = none) : workSettled s p r = true := by
  unfold workSettled
  rw [List.all_eq_true]
  intro k mem
  obtain ⟨reqs, outq, pass, drain⟩ := h k mem
  unfold passWaits drainWaits
  dsimp only
  rw [firOf_tl, reqs, outq, pass, drain]
  simp [pacedReady]

theorem stopDue_of_stopNow {at_ : Option Nat} (h : StopNow s p rid at_) : stopDue s p rid at_ = true := by
  obtain ⟨alloc, trap, recover, saved, paused, ⟨n, rfl, now⟩, entries, idle⟩ := h
  have runs : entryRuns s p rid = false := by
    rw [entryRuns, List.any_eq_false]
    intro e mem running
    simp only [Bool.and_eq_true, beq_iff_eq, List.any_eq_true, decide_eq_true_eq] at running
    obtain ⟨⟨st, entry⟩, a, announced, mine, late⟩ := running
    have done := entries e mem st (by simpa [Option.isSome_iff_ne_none] using entry) a announced mine
    omega
  unfold stopDue settled
  dsimp only
  rw [alloc, runs, trap, saved, paused, recover, workSettled_of_idle idle]
  simpa using now

theorem stopDue_of {at_ : Option Nat} (h : stopDue s p rid at_ = true ∨ StopNow s p rid at_) : stopDue s p rid at_ = true :=
  h.elim id stopDue_of_stopNow

theorem stopDue_iff {at_ : Option Nat} : stopDue s p rid at_ = true ↔ (s.region p rid).alloc = true ∧ entryRuns s p rid = false ∧
    (s.region p rid).trap = none ∧ (s.region p rid).saved = false ∧ (s.region p rid).paused = false ∧
    (∃ n, at_ = some n ∧ n ≤ s.fc p) ∧ settled s p (s.region p rid) = true := by
  unfold stopDue
  cases at_ <;> simp [and_assoc]

theorem exhausted_iff : y.exhausted = true ↔ CounterAtMost y 0 := by
  simp [Task.exhausted, Task.enforceI, Task.enforceT, CounterAtMost]

theorem inDebt_iff : y.inDebt = true ↔ CounterAtMost y (-1) := by
  simp only [Task.inDebt, Task.enforceI, Task.enforceT, CounterAtMost, Bool.or_eq_true, Bool.and_eq_true, bne_iff_ne,
    decide_eq_true_eq]
  exact or_congr (and_congr Iff.rfl (by omega)) (and_congr Iff.rfl (by omega))

theorem opsDone_iff : OpsDone s p id r ↔ opsInProgress s p id r = false ∧ messaging s p id = false := by
  rw [opsInProgress_eq_false_iff, engineWorks_eq_false_iff, crossing_eq_false_iff, messaging_eq_false_iff]
  unfold OpsDone
  tauto

theorem haltedTile_iff : haltedTile s p k = true ↔
    (s.tile p k).halt = true ∨ ∀ i, i < 16 → ((firOf s p k).cfg.slot i).getLsbD 61 = false := by
  unfold haltedTile
  dsimp only
  rw [firOf_tl]
  simp

theorem retires_iff : retires s p rid (s.region p rid) = true ↔ RetiringRegion s p rid := by
  unfold retires RetiringRegion
  dsimp only
  rw [Bool.or_eq_true, Bool.and_eq_true, drained_iff, Bool.not_eq_true', opsDone_iff]
  refine or_congr Iff.rfl ?_
  simp only [Bool.and_eq_true, Option.isNone_iff_eq_none, List.all_eq_true, haltedTile_iff, Bool.not_eq_true']
  tauto

theorem retireDue_iff : retireDue s p k = true ↔ ∃ rid, RetireNow s p k rid := by
  unfold retireDue
  dsimp only
  split
  · rename_i none_
    exact ⟨nofun, fun ⟨rid, some_, _⟩ => nomatch none_.symm.trans some_⟩
  · rename_i rid at_
    have late : (s.pad p).late.any (lateOf s p k) = false ↔ ∀ e ∈ (s.pad p).late, e.1 ≠ .task k (s.task p k).ser := by
      simp [List.any_eq_false, lateOf]
    have this : (∃ r, RetireNow s p k r) ↔ RetireNow s p k rid := by
      refine ⟨fun ⟨r, h⟩ => ?_, fun h => ⟨rid, h⟩⟩
      obtain rfl : rid = r := Option.some.inj (at_.symm.trans h.1)
      exact h
    rw [this]
    unfold RetireNow
    simp only [Bool.and_eq_true, beq_iff_eq, Bool.not_eq_true', Option.isNone_iff_eq_none, List.isEmpty_iff, retires_iff, late, at_,
      true_and, ← inDebt_iff, Bool.not_eq_true]
    tauto

/-! ### A paddock written -/

theorem region_updPad {h : Paddock → Paddock} (hr : (h (s.pad p)).regions = (s.pad p).regions) (a b : Nat) :
    (s.updPad p h).region a b = s.region a b := by
  by_cases e : a = p
  · subst e
    rw [State.region, State.updPad, State.pad_setPad_same, Paddock.region, hr]
    rfl
  · rw [State.region, State.updPad, State.pad_setPad_other _ _ _ _ e]
    rfl

theorem tile_updPad {h : Paddock → Paddock} (ht : (h (s.pad p)).tiles = (s.pad p).tiles) (a b : Nat) :
    (s.updPad p h).tile a b = s.tile a b := by
  by_cases e : a = p
  · subst e
    rw [State.tile, State.updPad, State.pad_setPad_same, Paddock.tile, ht]
    rfl
  · rw [State.tile, State.updPad, State.pad_setPad_other _ _ _ _ e]
    rfl

theorem ctx_updPad {h : Paddock → Paddock} (hc : (h (s.pad p)).ctxs = (s.pad p).ctxs) (a b : Nat) :
    (s.updPad p h).ctx a b = s.ctx a b := by
  by_cases e : a = p
  · subst e
    rw [State.ctx, State.updPad, State.pad_setPad_same, Paddock.ctx, hc]
    rfl
  · rw [State.ctx, State.updPad, State.pad_setPad_other _ _ _ _ e]
    rfl

theorem task_updPad {h : Paddock → Paddock} (ht : (h (s.pad p)).tasks = (s.pad p).tasks) (a b : Nat) :
    (s.updPad p h).task a b = s.task a b := by
  by_cases e : a = p
  · subst e
    rw [State.task, State.updPad, State.pad_setPad_same, Paddock.task, ht]
    rfl
  · rw [State.task, State.updPad, State.pad_setPad_other _ _ _ _ e]
    rfl

/-! ### L1 fusion (R152) -/

/-- Fusion's note, and the lines it clears, are no part of a desk or a region. -/
theorem tileWork_fuse {on : Bool} : TileWork (fun _ => ()) s (fuse s p k on) := by
  have step {x : State} {h : Paddock → Paddock} (hd : desk (h (x.pad p)) = desk (x.pad p))
      (hr : (h (x.pad p)).regions = (x.pad p).regions) : TileWork (fun _ => ()) x (x.updPad p h) :=
    ⟨work_setPad hd, region_updPad hr, fun _ _ => rfl⟩
  unfold fuse
  dsimp only
  generalize (if on = true then if (s.pad p).fused.contains k = true then (s.pad p).fused else (s.pad p).fused ++ [k]
    else (s.pad p).fused.filter (· != k)) = l
  have noted : TileWork (fun _ => ()) s (s.updPad p fun x => { x with fused := l }) := step rfl rfl
  split
  · refine noted.trans ?_
    unfold clearL1
    exact step rfl rfl
  · exact noted

/-! ### A region freed (R126, R267) -/

/-- The charges of a region freed wait for their fc; nothing else changes but the region's own list. -/
theorem lateCharges_pad : (lateCharges s p rid).pad p = { (s.pad p).setRegion rid { s.region p rid with charges := [] } with
    late := (s.pad p).late ++ (s.region p rid).charges.map fun c => ((s.region p rid).heir s p, c) } := State.pad_setPad_same ..

theorem lateCharges_none (none_ : (s.region p rid).charges = []) : Work s (lateCharges s p rid) := by
  refine work_setPad ?_
  rw [none_, List.map_nil]
  simp only [List.append_nil]
  rfl

/-- What is freed with a region: every desk stays. -/
theorem freeRegion_work {by_ : Option (Nat × BitVec 14)} : Work (lateCharges s p rid) (freeRegion s p rid by_) := by
  have drops (x : State) (lost : Msg → Bool) : Work x (dropMessages x p lost) := by
    unfold dropMessages
    refine .trans (t := x.setPad p { x.pad p with msgs := (x.pad p).msgs.filter fun m => !lost m }) (work_setPad rfl)
      (.foldl fun v m => ?_)
    have counts : Work v (match (v.pad p).regionAt m.dest with
        | some (id, _) => v.updRegion p id fun r => { r with drop := r.drop + 1 }
        | none => v) := by
      split
      · exact work_setRegion ..
      · exact .refl v
    exact counts.trans (tileWork_updTile (g := fun _ => ()) fun _ => rfl).work
  have tiles : Work (lateCharges s p rid) (freeTiles (lateCharges s p rid) p (s.region p rid).tileList by_) :=
    (tileWork_freeTiles (g := fun _ => ()) (fun _ _ _ => rfl) (fun _ _ => rfl) fun _ => rfl).work
  unfold freeRegion
  dsimp only
  generalize freeTiles (lateCharges s p rid) p (s.region p rid).tileList by_ = v at tiles
  have dropped := drops v fun m => inRect (s.region p rid).row0 (s.region p rid).col0 (s.region p rid).h (s.region p rid).w m.dest
  generalize dropMessages v p (fun m => inRect (s.region p rid).row0 (s.region p rid).col0 (s.region p rid).h (s.region p rid).w m.dest) = w
    at dropped
  have orphans : Work w (orphan w p rid (s.region p rid)) := work_setPad rfl
  exact tiles.trans (dropped.trans (orphans.trans (work_setPad rfl)))

theorem freeRegion_region {by_ : Option (Nat × BitVec 14)} : (freeRegion s p rid by_).region p rid = {} := by
  have reset (x : State) : (x.updPad p fun y => { y.setRegion rid {} with bidNow := true }).region p rid = {} := by
    rw [State.region, State.updPad, State.pad_setPad_same]
    exact Paddock.region_setRegion_same ..
  exact reset _

/-- A region with no charge under way freed: every desk stays. -/
theorem freeRegion_free {by_ : Option (Nat × BitVec 14)} (none_ : (s.region p rid).charges = []) :
    Work s (freeRegion s p rid by_) := (lateCharges_none none_).trans freeRegion_work

/-- A region freed: contexts, tasks, bids and the trace stay. -/
theorem freeRegion_leaves {by_ : Option (Nat × BitVec 14)} : let t := freeRegion s p rid by_
    (∀ h k, t.ctx h k = s.ctx h k) ∧ (∀ h k, t.task h k = s.task h k) ∧ (t.pad p).bids = (s.pad p).bids ∧
      (t.pad p).trace = (s.pad p).trace ∧ SameBytes s t := by
  have work := freeRegion_work (s := s) (p := p) (rid := rid) (by_ := by_)
  refine ⟨fun h k => (work.ctx h k).trans (ctx_updPad rfl h k), fun h k => (work.task h k).trans (task_updPad rfl h k),
    (work.bids p).trans ?_, (work.trace p).trans ?_, fun h a => work.byte h a⟩ <;> rw [lateCharges_pad] <;> rfl

/-! ### Budgets returned (R264) -/

theorem returnBudget_ctx : (returnBudget s p k).ctx p (s.task p k).parent =
    { s.ctx p (s.task p k).parent with ibud := (s.ctx p (s.task p k).parent).ibud + (s.task p k).ibud
                                       tbud := (s.ctx p (s.task p k).parent).tbud + (s.task p k).tbud } := by
  rw [returnBudget, State.ctx_setTask, State.updCtx, State.ctx_setCtx_same]

theorem returnBudget_otherTask {h j : Nat} (ne : (h, j) ≠ (p, k)) : (returnBudget s p k).task h j = s.task h j := by
  by_cases e : h = p
  · subst e
    rw [returnBudget, State.task_setTask_other _ _ _ _ _ (fun same => ne (by rw [same])), State.updCtx, State.task_setCtx]
  · rw [returnBudget, State.task_setTask_pad _ _ _ _ _ _ e, State.updCtx, State.task_setCtx]

end Sys2Proof.Claims

end

/-! ### Charges reach their counters (R267) -/

section

namespace Sys2Proof.Claims

open Sys2Proof.Machine

variable {s t u : State} {p q id k n rid : Nat} {r x : Region} {y : Task}

/-- The charges of a list. -/
def chargesIb (l : List Charge) : Nat := l.foldl (fun n c => n + c.ib) 0
def chargesTb (l : List Charge) : Nat := l.foldl (fun n c => n + c.tb) 0

/-- A task with charges made. -/
def chargedTask (y : Task) (l : List Charge) : Task :=
  { y with ibud := y.ibud - BitVec.ofNat 64 (chargesIb l), tbud := y.tbud - BitVec.ofNat 64 (chargesTb l) }

/-- A region whose charges have reached its task. -/
def chargedState (s : State) (p r k : Nat) : State :=
  (s.setRegion p r { s.region p r with charges := (s.region p r).charges.filter fun c => !decide (c.fc + 3 ≤ s.fc p) }).setTask p k
    (chargedTask (s.task p k) (adderDue s p (s.region p r)))

theorem task_setTask_ne {h j : Nat} (ne : (h, j) ≠ (p, k)) : (s.setTask p k y).task h j = s.task h j := by
  by_cases e : h = p
  · subst e
    exact State.task_setTask_other _ _ _ _ _ fun same => ne (by rw [same])
  · exact State.task_setTask_pad _ _ _ _ _ _ e

theorem task_updRegion {f : Region → Region} (h j : Nat) : (s.updRegion p id f).task h j = s.task h j := State.task_setRegion ..

theorem fc_setTask : (s.setTask p k y).fc p = s.fc p := by
  rw [State.fc, State.setTask, State.pad_setPad_same]
  rfl

theorem fc_setRegion : (s.setRegion p id r).fc p = s.fc p := by
  rw [State.fc, State.setRegion, State.pad_setPad_same]
  rfl

theorem chargedState_leaves : let t := chargedState s p id k
    t.task p k = chargedTask (s.task p k) (adderDue s p (s.region p id)) ∧
      t.region p id = { s.region p id with charges := (s.region p id).charges.filter fun c => !decide (c.fc + 3 ≤ s.fc p) } ∧
      t.fc p = s.fc p ∧ OtherRegions s t p id ∧ OtherTasks s t p k ∧ SameBytes s t := by
  unfold chargedState
  refine ⟨State.task_setTask_same .., ?_, ?_, fun h j ne => ?_, fun h j ne => ?_, fun _ _ => rfl⟩
  · rw [State.region_setTask, State.region_setRegion_same]
  · rw [fc_setTask, fc_setRegion]
  · rw [State.region_setTask, region_setRegion_ne ne]
  · rw [task_setTask_ne ne, State.task_setRegion]

theorem freezeTrigger_eq (task : r.task = some k) : freezeTrigger s p r =
    if r.alloc ∧ ((s.task p k).st = .running ∨ (s.task p k).st = .faulted) ∧ r.freezeAt = none ∧ (s.task p k).exhausted
    then some k else none := by
  unfold freezeTrigger
  rw [task]

/-- What an adder update leaves where a freeze is set. -/
def frozenState (s : State) (p r k n : Nat) : State :=
  (s.updTask p k Task.frozenBy).updRegion p r fun x => { x with freezeAt := some n }

theorem exec_budgetAdderUpdate {p : Fin 32} {r : Fin 16} (task : (s.region p r).task = some k) :
    let v := chargedTask (s.task p k) (adderDue s p (s.region p r))
    exec (.budgetAdderUpdate p r) s = .next (
      if (s.region p r).alloc ∧ (v.st = .running ∨ v.st = .faulted) ∧ (s.region p r).freezeAt = none ∧ v.exhausted
      then frozenState (chargedState s p r k) p r k (s.fc p + 5) else chargedState s p r k) := by
  intro v
  obtain ⟨task_, region, fc, -⟩ := chargedState_leaves (s := s) (p := p) (id := r) (k := k)
  have charged : (s.setRegion p r { s.region p r with
      charges := (s.region p r).charges.filter fun c => !decide (c.fc + 3 ≤ s.fc p) }).updTask p k (fun t =>
        { t with ibud := t.ibud - BitVec.ofNat 64 (chargesIb (adderDue s p (s.region p r))),
                 tbud := t.tbud - BitVec.ofNat 64 (chargesTb (adderDue s p (s.region p r))) }) = chargedState s p r k := by
    rw [State.updTask, State.task_setRegion]
    rfl
  have trigger := freezeTrigger_eq (s := chargedState s p r k) (p := p) (k := k)
    (r := (chargedState s p r k).region p r) (by rw [region, task])
  rw [task_, region] at trigger
  show execBudgetAdderUpdate p r s = _
  unfold execBudgetAdderUpdate
  dsimp only at charged ⊢
  rw [← chargesIb, ← chargesTb]
  generalize s.setRegion p r _ = w at charged ⊢
  rw [task]
  dsimp only
  rw [charged, fc, region, trigger]
  dsimp only
  by_cases trips : (s.region p r).alloc ∧ (v.st = .running ∨ v.st = .faulted) ∧ (s.region p r).freezeAt = none ∧ v.exhausted
  · rw [if_pos trips, if_pos trips]
    rfl
  · rw [if_neg trips, if_neg trips]

theorem frozenState_leaves : let t := frozenState s p id k n
    (t.task p k).ibud = (s.task p k).ibud ∧ (t.task p k).tbud = (s.task p k).tbud ∧
      t.region p id = { s.region p id with freezeAt := some n } ∧ OtherRegions s t p id ∧ OtherTasks s t p k ∧ SameBytes s t := by
  unfold frozenState
  refine ⟨?_, ?_, ?_, fun h j ne => ?_, fun h j ne => ?_, fun _ _ => rfl⟩
  · rw [task_updRegion, State.updTask, State.task_setTask_same]
    rfl
  · rw [task_updRegion, State.updTask, State.task_setTask_same]
    rfl
  · rw [region_updRegion, State.updTask, State.region_setTask]
  · rw [State.updRegion, region_setRegion_ne ne, State.updTask, State.region_setTask]
  · rw [task_updRegion, State.updTask, task_setTask_ne ne]

/-- An adder update: the counters, the charges left, and the freeze that an exhausted counter sets (R267). -/
theorem budgetAdderUpdate_leaves {p : Fin 32} {r : Fin 16} (task : (s.region p r).task = some k)
    (alloc : (s.region p r).alloc = true) : let x := s.region p r
    let v := chargedTask (s.task p k) (adderDue s p x)
    ∃ t, exec (.budgetAdderUpdate p r) s = .next t ∧ (t.task p k).ibud = v.ibud ∧ (t.task p k).tbud = v.tbud ∧
      (t.region p r).charges = x.charges.filter (fun c => !decide (c.fc + 3 ≤ s.fc p)) ∧
      (CounterAtMost v 0 → (s.task p k).st = .running ∨ (s.task p k).st = .faulted → x.freezeAt = none →
        (t.region p r).freezeAt = some (s.fc p + 5)) ∧
      (¬ CounterAtMost v 0 → (t.region p r).freezeAt = x.freezeAt) ∧ OtherRegions s t p r ∧ OtherTasks s t p k ∧ SameBytes s t := by
  intro x v
  obtain ⟨charged, region, fc, others, tasks, bytes⟩ := chargedState_leaves (s := s) (p := p) (id := r) (k := k)
  have run := exec_budgetAdderUpdate task
  dsimp only at run
  generalize chargedState s p r k = u at *
  by_cases trips : x.alloc ∧ (v.st = .running ∨ v.st = .faulted) ∧ x.freezeAt = none ∧ v.exhausted
  · rw [if_pos trips] at run
    obtain ⟨-, -, -, out⟩ := trips
    obtain ⟨ib, tb, at_, regions, tasks', bytes'⟩ := frozenState_leaves (s := u) (p := p) (id := r) (k := k) (n := s.fc p + 5)
    generalize frozenState u p r k (s.fc p + 5) = t at *
    refine ⟨t, run, by rw [ib, charged], by rw [tb, charged], ?_, fun _ _ _ => ?_, fun pos => absurd (exhausted_iff.mp out) pos,
      fun h j ne => (regions h j ne).trans (others h j ne), fun h j ne => (tasks' h j ne).trans (tasks h j ne),
      fun h a => (bytes' h a).trans (bytes h a)⟩
    · rw [at_, region]
    · rw [at_]
  · rw [if_neg trips] at run
    refine ⟨_, run, ?_, ?_, ?_, fun out st none_ => absurd ⟨alloc, st, none_, exhausted_iff.mpr out⟩ trips, fun _ => ?_, others, tasks,
      bytes⟩
    · rw [charged]
    · rw [charged]
    · rw [region]
    · rw [region]

end Sys2Proof.Claims

end

/-! ### A due freeze (R268) -/

section

namespace Sys2Proof.Claims

open Sys2Proof.Machine

variable {s t u : State} {p q id k n rid : Nat} {r x : Region} {y : Task} {f : Task → Task}

theorem region_updTask (h j : Nat) : (s.updTask p k f).region h j = s.region h j := State.region_setTask ..
theorem task_updTask : (s.updTask p k f).task p k = f (s.task p k) := State.task_setTask_same ..
theorem ctx_updTask (h j : Nat) : (s.updTask p k f).ctx h j = s.ctx h j := State.ctx_setTask ..

/-- A tag set: counters, tasks, regions, bids and bytes stay. -/
theorem setTag_leaves : let t := setTag s p q n
    (t.ctx p q).ibud = (s.ctx p q).ibud ∧ (t.ctx p q).tbud = (s.ctx p q).tbud ∧
      (t.ctx p q).tags = (s.ctx p q).tags ||| BitVec.ofNat 64 (2 ^ n) ∧ (∀ h j, t.task h j = s.task h j) ∧
      (∀ h j, t.region h j = s.region h j) ∧ (t.pad p).bids = (s.pad p).bids ∧ SameBytes s t := by
  obtain ⟨m, l, w, set⟩ := setTag_frame (s := s) (p := p) (q := q) (n := n)
  rw [set]
  refine ⟨?_, ?_, ?_, fun h j => State.task_setCtx .., fun h j => State.region_setCtx .., ?_, fun _ _ => rfl⟩
  · exact (congrArg Ctx.ibud (State.ctx_setCtx_same ..)).trans rfl
  · exact (congrArg Ctx.tbud (State.ctx_setCtx_same ..)).trans rfl
  · exact congrArg Ctx.tags (State.ctx_setCtx_same ..)
  · exact (congrArg Paddock.bids (State.pad_setPad_same ..)).trans rfl

theorem yieldTag_leaves : let t := yieldTag s p k
    (∀ h j, t.task h j = s.task h j) ∧ (∀ h j, t.region h j = s.region h j) ∧ (t.pad p).bids = (s.pad p).bids ∧ SameBytes s t := by
  unfold yieldTag
  dsimp only
  split
  · obtain ⟨-, -, -, task, region, bids, bytes⟩ := setTag_leaves (s := s) (p := p) (q := (s.task p k).parent) (n := (s.task p k).ytag.toNat)
    exact ⟨task, region, bids, bytes⟩
  · exact ⟨fun _ _ => rfl, fun _ _ => rfl, rfl, fun _ _ => rfl⟩

/-- A first fault of a region stands as its trap. -/
theorem regionTrap_leaves {c : BitVec 8} {info : BitVec 64} (at_ : (s.pad p).regionAt n = some (id, r)) (none_ : r.trap = none) :
    (∃ tr, ((regionTrap s p n c info).region p id).trap = some tr ∧ tr.cause = c) ∧ SameBytes s (regionTrap s p n c info) := by
  unfold regionTrap fabricTrap
  dsimp only
  rw [at_]
  dsimp only
  rw [none_]
  refine ⟨⟨_, congrArg Region.trap (State.region_setRegion_same ..), rfl⟩, fun _ _ => rfl⟩

theorem saveTask_ok (saves : writeSome s p (s.task p k).contpt (saveBytes s p (s.region p rid)) = (none, t)) :
    saveTask s p k rid = (true, t) := by
  unfold saveTask
  dsimp only
  rw [saves]

theorem exec_budgetFreeze_of_retires {p : Fin 32} {r : Fin 16} (task : (s.region p r).task = some k) (retires : retireDue s p k = true) :
    exec (.budgetFreeze p r) s = .next s := by
  show execBudgetFreeze p r s = _
  unfold execBudgetFreeze
  dsimp only
  rw [task]
  dsimp only
  rw [retires, Bool.or_true, if_pos rfl]

theorem exec_budgetFreeze {p : Fin 32} {r : Fin 16} (task : (s.region p r).task = some k)
    (due : stopDue s p r (s.region p r).freezeAt = true) (stays : retireDue s p k = false) : exec (.budgetFreeze p r) s = .next
    (if (s.task p k).contpt = 0 then
      (regionTrap s p (tileAt (s.region p r).row0 (s.region p r).col0) (if (s.task p k).iexh then cBUDGET_I else cBUDGET_T) 0).updTask p k
        fun t => { t with st := .faulted }
    else match saveTask s p k r with
      | (false, v) => v
      | (true, v) => yieldTag ((markSaved v p r).updTask p k fun t => { t with st := .frozen }) p k) := by
  show execBudgetFreeze p r s = _
  unfold execBudgetFreeze
  dsimp only
  rw [task]
  dsimp only
  rw [due, stays, if_neg (by decide)]
  split
  · rfl
  · rcases saveTask s p k r with ⟨_ | _, v⟩ <;> rfl

/-- Without CONTPT a due freeze is a fabric trap. -/
theorem budgetFreeze_traps {p : Fin 32} {r : Fin 16} (task : (s.region p r).task = some k)
    (due : stopDue s p r (s.region p r).freezeAt = true) (stays : retireDue s p k = false) (none_ : (s.task p k).contpt = 0)
    (at_ : (s.pad p).regionAt (tileAt (s.region p r).row0 (s.region p r).col0) = some (r.val, s.region p r)) :
    ∃ t tr, exec (.budgetFreeze p r) s = .next t ∧ (t.region p r).trap = some tr ∧
      tr.cause = (if (s.task p k).iexh then cBUDGET_I else cBUDGET_T) ∧ (t.task p k).st = .faulted ∧ SameBytes s t := by
  have run := exec_budgetFreeze task due stays
  rw [if_pos none_] at run
  obtain ⟨-, -, noTrap, -⟩ := stopDue_iff.mp due
  obtain ⟨⟨tr, trap, cause⟩, bytes⟩ := regionTrap_leaves (c := if (s.task p k).iexh then cBUDGET_I else cBUDGET_T) (info := 0) at_ noTrap
  generalize regionTrap s p (tileAt (s.region p r).row0 (s.region p r).col0) _ 0 = v at run trap bytes
  exact ⟨_, tr, run, by rw [region_updTask, trap], cause, by rw [task_updTask], bytes⟩

/-- With CONTPT it saves the region and freezes the task. -/
theorem budgetFreeze_saves {p : Fin 32} {r : Fin 16} (task : (s.region p r).task = some k)
    (due : stopDue s p r (s.region p r).freezeAt = true) (stays : retireDue s p k = false) (some_ : (s.task p k).contpt ≠ 0)
    (saves : writeSome s p (s.task p k).contpt (saveBytes s p (s.region p r)) = (none, u)) :
    ∃ t, exec (.budgetFreeze p r) s = .next t ∧ (t.region p r).saved = true ∧ (t.region p r).st = .frozen ∧
      (t.task p k).st = .frozen ∧ SameBytes u t := by
  have run := exec_budgetFreeze task due stays
  rw [if_neg some_, saveTask_ok saves] at run
  dsimp only at run
  obtain ⟨work, saved, frozen, -⟩ := markSaved_leaves (s := u) (p := p) (id := r)
  generalize markSaved u p r = v at *
  obtain ⟨tasks, regions, -, bytes⟩ := yieldTag_leaves (s := v.updTask p k fun t => { t with st := .frozen }) (p := p) (k := k)
  refine ⟨_, run, ?_, ?_, ?_, fun h a => (bytes h a).trans (work.work.byte h a)⟩
  · rw [regions, region_updTask, saved]
  · rw [regions, region_updTask, frozen]
  · rw [tasks, task_updTask]

theorem stays_of_not (h : ∀ rid, ¬ RetireNow s p k rid) : retireDue s p k = false :=
  Bool.eq_false_iff.mpr fun due => let ⟨rid, now⟩ := retireDue_iff.mp due; h rid now

/-! ### Resumption (R269) -/

theorem taskResume_leaves {p : Fin 32} {k : Fin 64} (rid_ : (s.task p k).rid = some rid) (frozen : (s.task p k).st = .frozen)
    (positive : ¬ CounterAtMost (s.task p k) 0) (runs : (s.region p rid).paused = false)
    (restores : restoreRegion s p rid (s.task p k).contpt = (.ok n, u)) (off : (s.pad p).trace.mode = 0) :
    ∃ t, exec (.taskResume p k) s = .next t ∧ (t.task p k).st = .running ∧ (t.region p rid).st = .running ∧
      (t.region p rid).saved = false ∧ SameBytes s t := by
  have due : resumeDue s p k = true := by
    have more : (s.task p k).exhausted = false := Bool.eq_false_iff.mpr fun h => positive (exhausted_iff.mp h)
    unfold resumeDue
    dsimp only
    rw [frozen, rid_, more]
    dsimp only [Option.getD_some]
    rw [runs]
    rfl
  obtain ⟨work, region⟩ := restoreRegion_ok restores
  have off' : ((u.updTask p k fun t => { t with st := .running, contq := true }).pad p).trace.mode = 0 := by
    rw [State.updTask, State.setTask, State.pad_setPad_same]
    exact (congrArg Trace.mode (work.work.trace p)).trans off
  refine ⟨u.updTask p k fun t => { t with st := .running, contq := true }, ?_, ?_, ?_, ?_, work.work.byte⟩
  · show execTaskResume p k s = _
    unfold execTaskResume
    dsimp only
    rw [rid_]
    dsimp only
    rw [due, restores]
    dsimp only [Bool.not_true]
    rw [if_neg (by decide), dispatchEvent_off off']
  · rw [task_updTask]
  · rw [region_updTask, region]
    rfl
  · rw [region_updTask, region]
    rfl

/-! ### A yield (R273) -/

theorem exec_yieldRelease {p : Fin 32} {k : Fin 64} (rid_ : (s.task p k).rid = some rid) (running : (s.task p k).st = .running)
    (pending : (s.task p k).ypend = true) (due : stopDue s p rid (s.region p rid).yieldAt = true)
    (later : ∀ n, (s.region p rid).freezeAt = some n → s.fc p < n)
    (saves : writeSome s p (s.task p k).contpt (saveBytes s p (s.region p rid)) = (none, u)) (off : (u.pad p).trace.mode = 0) :
    exec (.yieldRelease p k) s = .next (taskBid (yieldTag ((freeRegion u p rid (some (k.val, (s.task p k).ser))).updTask p k fun t =>
      { t with st := .released, rid := none, contq := true, stopAt := (s.region p rid).freezeAt }) p k) p k) := by
  have noFreeze : (s.region p rid).freezeAt.any (fun n => decide (n ≤ s.fc p)) = false := by
    cases e : (s.region p rid).freezeAt with
    | none => rfl
    | some n =>
      have := later n e
      simp only [Option.any_some, decide_eq_false_iff_not]
      omega
  show execYieldRelease p k s = _
  unfold execYieldRelease
  dsimp only
  rw [rid_]
  dsimp only
  rw [if_neg (by rw [running, pending, due, noFreeze]; decide), saveTask_ok saves]
  dsimp only
  rw [dispatchEvent_off off]

theorem taskBid_leaves : let t := taskBid s p k
    (∀ h j, t.task h j = s.task h j) ∧ (∀ h j, t.region h j = s.region h j) ∧ (t.pad p).bids.length = (s.pad p).bids.length + 1 ∧
      SameBytes s t := by
  unfold taskBid
  dsimp only
  refine ⟨fun h j => ?_, fun h j => ?_, ?_, fun _ _ => rfl⟩
  · exact task_updPad rfl h j
  · exact region_updPad rfl h j
  · rw [addBid_bids, List.length_append]
    rfl

theorem yieldRelease_leaves {p : Fin 32} {k : Fin 64} (rid_ : (s.task p k).rid = some rid) (running : (s.task p k).st = .running)
    (pending : (s.task p k).ypend = true) (due : stopDue s p rid (s.region p rid).yieldAt = true)
    (later : ∀ n, (s.region p rid).freezeAt = some n → s.fc p < n) (off : (s.pad p).trace.mode = 0)
    (saves : writeSome s p (s.task p k).contpt (saveBytes s p (s.region p rid)) = (none, u)) :
    ∃ t, exec (.yieldRelease p k) s = .next t ∧ (t.task p k).st = .released ∧ (t.region p rid).alloc = false ∧
      (t.pad p).bids.length = (s.pad p).bids.length + 1 ∧ SameBytes u t := by
  have saved : Accessed s u := by
    have := writeSome_accessed (s := s) (p := p) (va := (s.task p k).contpt) (bs := saveBytes s p (s.region p rid))
    rwa [saves] at this
  have run := exec_yieldRelease rid_ running pending due later saves
    ((congrArg Trace.mode (saved.part (g := Paddock.trace) (fun _ => rfl) p)).trans off)
  obtain ⟨-, -, freedBids, -, freedBytes⟩ := freeRegion_leaves (s := u) (p := p) (rid := rid) (by_ := some (k.val, (s.task p k).ser))
  have freed := freeRegion_region (s := u) (p := p) (rid := rid) (by_ := some (k.val, (s.task p k).ser))
  generalize freeRegion u p rid (some (k.val, (s.task p k).ser)) = v at *
  obtain ⟨tasks, regions, bids, bytes⟩ := yieldTag_leaves (s := v.updTask p k fun t =>
    { t with st := .released, rid := none, contq := true, stopAt := (s.region p rid).freezeAt }) (p := p) (k := k)
  generalize ew : yieldTag (v.updTask p k _) p k = w at *
  obtain ⟨tasks', regions', length, bytes'⟩ := taskBid_leaves (s := w) (p := p) (k := k)
  refine ⟨_, run, ?_, ?_, ?_, fun h a => ((bytes' h a).trans (bytes h a)).trans (freedBytes h a)⟩
  · rw [tasks', tasks, task_updTask]
  · rw [regions', regions, region_updTask, freed]
  · have same : ((v.updTask p k fun t =>
        { t with st := .released, rid := none, contq := true, stopAt := (s.region p rid).freezeAt }).pad p).bids = (v.pad p).bids := by
      rw [State.updTask, State.setTask, State.pad_setPad_same]
      rfl
    rw [length, bids, same, freedBids, saved.part (g := Paddock.bids) (fun _ => rfl) p]

/-! ### Retirement (R264) -/

theorem exec_taskRetire {p : Fin 32} {k : Fin 64} (retires : RetireNow s p k rid) : exec (.taskRetire p k) s =
    .next (setTag ((fuse (freeRegion (returnBudget s p k) p rid none) p k false).setTask p k { ser := (s.task p k).ser }) p
      (s.task p k).parent (s.task p k).tag.toNat) := by
  show execTaskRetire p k s = _
  unfold execTaskRetire
  dsimp only
  rw [retires.1, retireDue_iff.mpr ⟨rid, retires⟩]
  rfl

theorem taskRetire_leaves {p : Fin 32} {k : Fin 64} (retires : RetireNow s p k rid) : let y := s.task p k
    ∃ t, exec (.taskRetire p k) s = .next t ∧ (t.task p k).st = .free ∧ (t.task p k).ser = y.ser ∧
      (t.region p rid).alloc = false ∧ (t.ctx p y.parent).ibud = (s.ctx p y.parent).ibud + y.ibud ∧
      (t.ctx p y.parent).tbud = (s.ctx p y.parent).tbud + y.tbud ∧
      (t.ctx p y.parent).tags.getLsbD y.tag.toNat = true ∧ OtherTasks s t p k ∧ SameBytes s t := by
  intro y
  have run := exec_taskRetire retires
  have parent := returnBudget_ctx (s := s) (p := p) (k := k)
  have others (h j : Nat) (ne : (h, j) ≠ (p.val, k.val)) := returnBudget_otherTask (s := s) (p := p) (k := k) ne
  have bytes : SameBytes s (returnBudget s p k) := fun _ _ => rfl
  generalize returnBudget s p k = v at *
  obtain ⟨ctx, task, -, -, bytes1⟩ := freeRegion_leaves (s := v) (p := p) (rid := rid) (by_ := none)
  have freed := freeRegion_region (s := v) (p := p) (rid := rid) (by_ := none)
  generalize freeRegion v p rid none = w at *
  have fused : TileWork (fun _ => ()) w (fuse w p k false) := tileWork_fuse
  generalize fuse w p k false = x at *
  obtain ⟨ibud, tbud, tags, tasks, regions, -, bytes2⟩ := setTag_leaves (s := x.setTask p k { ser := y.ser }) (p := p) (q := y.parent)
    (n := y.tag.toNat)
  have ctx' : (x.setTask p k { ser := y.ser }).ctx p y.parent = v.ctx p y.parent := by
    rw [State.ctx_setTask, fused.work.ctx, ctx]
  refine ⟨_, run, ?_, ?_, ?_, ?_, ?_, ?_, fun h j ne => ?_,
    fun h a => (((bytes2 h a).trans (fused.work.byte h a)).trans (bytes1 h a)).trans (bytes h a)⟩
  · rw [tasks, State.task_setTask_same]
  · rw [tasks, State.task_setTask_same]
  · rw [regions, State.region_setTask, fused.region, freed]
  · rw [ibud, ctx', parent]
  · rw [tbud, ctx', parent]
  · rw [tags]
    exact getLsbD_tags ..
  · rw [tasks, task_setTask_ne ne, fused.work.task, task, others h j ne]

/-- The life of a task, as the statement has it. -/
theorem taskLife : TaskLife := by
  refine ⟨fun s p r k task alloc => budgetAdderUpdate_leaves task alloc, fun s p r k task due => ?_,
    fun s p k rid n u rid_ frozen positive runs restores off => taskResume_leaves rid_ frozen positive runs restores off,
    fun s p k rid u rid_ running pending due later _ off saves =>
      yieldRelease_leaves rid_ running pending (stopDue_of due) later off saves,
    fun s p k rid retires _ => taskRetire_leaves retires⟩
  have due := stopDue_of due
  exact ⟨fun rid retires => exec_budgetFreeze_of_retires task (retireDue_iff.mpr ⟨rid, retires⟩),
    fun none_ stays at_ => budgetFreeze_traps task due (stays_of_not stays) none_ at_,
    fun u some_ stays saves => budgetFreeze_saves task due (stays_of_not stays) some_ saves⟩

end Sys2Proof.Claims

end

/-! ### A task that cannot be admitted (R263, R273)

Charges made late and budgets returned touch counters alone; what else of a paddock they keep is said once (`Paid`). -/

section

namespace Sys2Proof.Claims

open Sys2Proof.Machine

variable {s t u v : State} {p q id k n : Nat} {r : Region} {y : Task} {c : BitVec 8} {tval tval2 : BitVec 64}

/-- An operation on counters and states of tasks: reports, parents, regions and bytes stay. -/
structure Paid (s t : State) : Prop where
  reports : ∀ h j, (t.ctx h j).reports = (s.ctx h j).reports
  parent : ∀ h j, (t.task h j).parent = (s.task h j).parent
  region : ∀ h j, t.region h j = s.region h j
  byte : SameBytes s t

theorem Paid.refl (s : State) : Paid s s := ⟨fun _ _ => rfl, fun _ _ => rfl, fun _ _ => rfl, fun _ _ => rfl⟩

theorem Paid.trans (a : Paid s t) (b : Paid t u) : Paid s u :=
  ⟨fun h j => (b.reports h j).trans (a.reports h j), fun h j => (b.parent h j).trans (a.parent h j),
    fun h j => (b.region h j).trans (a.region h j), fun g x => (b.byte g x).trans (a.byte g x)⟩

theorem TileWork.paid {α : Type} {g : Tile → α} (e : TileWork g s t) : Paid s t :=
  ⟨fun h j => by rw [e.work.ctx], fun h j => by rw [e.work.task], e.region, e.work.byte⟩

theorem ctx_setCtx_ne {d : Ctx} {h j : Nat} (ne : (h, j) ≠ (p, q)) : (s.setCtx p q d).ctx h j = s.ctx h j := by
  by_cases e : h = p
  · subst e
    exact State.ctx_setCtx_other _ _ _ _ _ fun same => ne (by rw [same])
  · exact State.ctx_setCtx_pad _ _ _ _ _ _ e

theorem paid_updCtx {f : Ctx → Ctx} (hf : ∀ d, (f d).reports = d.reports) : Paid s (s.updCtx p q f) where
  reports h j := by
    by_cases e : (h, j) = (p, q)
    · obtain ⟨rfl, rfl⟩ := Prod.mk.inj e
      rw [State.updCtx, State.ctx_setCtx_same, hf]
    · rw [State.updCtx, ctx_setCtx_ne e]
  parent h j := congrArg Task.parent (State.task_setCtx ..)
  region h j := State.region_setCtx ..
  byte _ _ := rfl

theorem paid_setTask (same : y.parent = (s.task p k).parent) : Paid s (s.setTask p k y) where
  reports h j := congrArg Ctx.reports (State.ctx_setTask ..)
  parent h j := by
    by_cases e : (h, j) = (p, k)
    · obtain ⟨rfl, rfl⟩ := Prod.mk.inj e
      rw [State.task_setTask_same, same]
    · rw [task_setTask_ne e]
  region h j := State.region_setTask ..
  byte _ _ := rfl

theorem paid_payLate {e : Announcer × Charge} : Paid s (payLate s p e) := by
  unfold payLate
  split
  · exact paid_updCtx fun _ => rfl
  · dsimp only
    split
    · refine paid_setTask ?_
      beta_reduce
      split <;> rfl
    · exact .refl s
  · exact .refl s

theorem paid_payLates {now : Announcer × Charge → Bool} : Paid s (payLates s p now) := by
  unfold payLates
  dsimp only
  refine .trans (t := s.updPad p fun x => { x with late := (s.pad p).late.filter fun e => !now e }) ?_
    (List.foldlRecOn _ _ (Paid.refl _) fun _ h _ _ => h.trans paid_payLate)
  exact ⟨fun h j => by rw [ctx_updPad rfl], fun h j => by rw [task_updPad rfl], region_updPad rfl, fun _ _ => rfl⟩

theorem paid_returnBudget : Paid s (returnBudget s p k) := by
  unfold returnBudget
  dsimp only
  refine Paid.trans ?_ (paid_setTask ?_)
  · exact paid_updCtx fun _ => rfl
  · rw [State.updCtx, State.task_setCtx]

/-- Where no late charge is a task's own, paying its late charges changes no counter. -/
theorem payLates_none (none_ : ∀ e ∈ (s.pad p).late, e.1 ≠ .task k (s.task p k).ser) : let t := payLates s p (lateOf s p k)
    (∀ h j, t.ctx h j = s.ctx h j) ∧ ∀ h j, t.task h j = s.task h j := by
  have none' : (s.pad p).late.filter (lateOf s p k) = [] := List.filter_eq_nil_iff.mpr fun e mem => by
    simpa [lateOf] using none_ e mem
  unfold payLates
  dsimp only
  rw [none', List.foldl_nil]
  exact ⟨ctx_updPad rfl, task_updPad rfl⟩

theorem reportWaits_of_reports {src : Source} (h : ∀ q, (t.ctx p q).reports = (s.ctx p q).reports) :
    reportWaits t p src = reportWaits s p src := by
  unfold reportWaits Ctx.owes
  simp only [h]

/-- A report stands among its context's reports, or waits behind one of its source (R311). -/
theorem report_leaves {src : Source} : let t := report s p q c tval tval2 src
    (∀ h j, t.task h j = s.task h j) ∧ (∀ h j, t.region h j = s.region h j) ∧ SameBytes s t ∧
      (t.ctx p q).ibud = (s.ctx p q).ibud ∧ (t.ctx p q).tbud = (s.ctx p q).tbud ∧
      ∃ r : Report, r.cause = c ∧ r.tval = tval ∧ r.tval2 = tval2 ∧ r.src = src ∧
        if reportWaits s p src then (q, r) ∈ (t.pad p).behind else r ∈ (t.ctx p q).reports := by
  unfold report reportWith
  dsimp only
  by_cases waits : reportWaits s p src = true
  · rw [if_pos waits]
    refine ⟨task_updPad rfl, region_updPad rfl, fun _ _ => rfl, by rw [ctx_updPad rfl], by rw [ctx_updPad rfl],
      { cause := c, tval := tval, tval2 := tval2, src := src, fc := s.fc p, rec_ := [] }, rfl, rfl, rfl, rfl, ?_⟩
    rw [if_pos waits, State.updPad, State.pad_setPad_same]
    exact List.mem_append_right _ List.mem_cons_self
  · rw [if_neg waits]
    let r : Report := { cause := c, tval := tval, tval2 := tval2, src := src, fc := s.fc p, rec_ := [] }
    obtain ⟨m, w, pend⟩ := pendReport_frame s p q r
    rw [pend]
    have ctx := State.ctx_setCtx_same { s with free := m } p q
      { s.ctx p q with reports := insertReport r (s.ctx p q).reports, wait := w }
    refine ⟨fun h j => State.task_setCtx .., fun h j => State.region_setCtx .., fun _ _ => rfl, (congrArg Ctx.ibud ctx).trans rfl,
      (congrArg Ctx.tbud ctx).trans rfl, r, rfl, rfl, rfl, rfl, ?_⟩
    rw [if_neg waits]
    exact (congrArg Ctx.reports ctx).symm ▸ mem_insertReport _

/-- A task that could not be admitted has no region. -/
def failedTask (y : Task) : Task := { y with st := .faulted, rid := none }

/-- A paddock whose task could not be admitted, before its parent is told. -/
def failed (s : State) (p k id : Nat) : State :=
  fuse ((returnBudget (payLates (freeRegion s p id none) p (lateOf (freeRegion s p id none) p k)) p k).updTask p k failedTask) p k false

theorem failed_leaves (charges : (s.region p id).charges = []) : let t := failed s p k id
    (t.task p k).st = .faulted ∧ (t.task p k).rid = none ∧ (t.region p id).alloc = false ∧ SameBytes s t ∧
      (t.task p k).parent = (s.task p k).parent ∧ (∀ j, (t.ctx p j).reports = (s.ctx p j).reports) ∧
      ((∀ e ∈ (s.pad p).late, e.1 ≠ .task k (s.task p k).ser) →
        (t.ctx p (s.task p k).parent).ibud = (s.ctx p (s.task p k).parent).ibud + (s.task p k).ibud ∧
        (t.ctx p (s.task p k).parent).tbud = (s.ctx p (s.task p k).parent).tbud + (s.task p k).tbud) := by
  unfold failed
  have freed := freeRegion_free (by_ := none) charges
  have region := freeRegion_region (s := s) (p := p) (rid := id) (by_ := none)
  generalize freeRegion s p id none = v at *
  have paidLate := paid_payLates (s := v) (p := p) (now := lateOf v p k)
  have keeps (none_ : ∀ e ∈ (v.pad p).late, e.1 ≠ .task k (v.task p k).ser) := payLates_none none_
  generalize payLates v p (lateOf v p k) = w at *
  have returned := paid_returnBudget (s := w) (p := p) (k := k)
  have budgets := returnBudget_ctx (s := w) (p := p) (k := k)
  generalize returnBudget w p k = x at *
  have faulted : Paid x (x.updTask p k failedTask) := paid_setTask rfl
  have isFaulted : (x.updTask p k failedTask).task p k = failedTask (x.task p k) := task_updTask
  have sameCtx := ctx_updTask (s := x) (p := p) (k := k) (f := failedTask)
  generalize x.updTask p k failedTask = z at *
  have fused : TileWork (fun _ => ()) z (fuse z p k false) := tileWork_fuse
  generalize fuse z p k false = a at *
  have paid : Paid v a := ((paidLate.trans returned).trans faulted).trans fused.paid
  refine ⟨?_, ?_, ?_, fun g b => (paid.byte g b).trans (freed.byte g b), (paid.parent p k).trans (congrArg Task.parent (freed.task p k)),
    fun j => (paid.reports p j).trans (congrArg Ctx.reports (freed.ctx p j)), fun none_ => ?_⟩
  · rw [fused.work.task, isFaulted]
    rfl
  · rw [fused.work.task, isFaulted]
    rfl
  · rw [paid.region, region]
  · obtain ⟨ctx, task⟩ := keeps (by rw [freed.late, freed.task]; exact none_)
    have same : w.task p k = s.task p k := (task p k).trans (freed.task p k)
    rw [same] at budgets
    rw [fused.work.ctx, sameCtx, budgets, ctx, freed.ctx]
    exact ⟨rfl, rfl⟩

/-- A task that could not be admitted: its region is free, its budgets are its parent's again, and the parent is told. -/
theorem taskAdmitFault_leaves (charges : (s.region p id).charges = []) : let t := taskAdmitFault s p k id c tval tval2
    let q := (s.task p k).parent
    (t.task p k).st = .faulted ∧ (t.task p k).rid = none ∧ (t.region p id).alloc = false ∧ SameBytes s t ∧
      ((∀ e ∈ (s.pad p).late, e.1 ≠ .task k (s.task p k).ser) →
        (t.ctx p q).ibud = (s.ctx p q).ibud + (s.task p k).ibud ∧ (t.ctx p q).tbud = (s.ctx p q).tbud + (s.task p k).tbud) ∧
      ∃ r : Report, r.cause = c ∧ r.tval = tval ∧ r.tval2 = tval2 ∧ r.src = .task k ∧
        if reportWaits s p (.task k) then (q, r) ∈ (t.pad p).behind else r ∈ (t.ctx p q).reports := by
  have told : taskAdmitFault s p k id c tval tval2 =
    report (failed s p k id) p ((failed s p k id).task p k).parent c tval tval2 (.task k) := rfl
  obtain ⟨st, rid, alloc, bytes, parent, reports, budgets⟩ := failed_leaves (k := k) charges
  rw [told, parent]
  generalize failed s p k id = v at *
  obtain ⟨tasks, regions, bytes', ibud, tbud, r, cause, tv, tv2, src, stands⟩ := report_leaves (s := v) (p := p)
    (q := (s.task p k).parent) (c := c) (tval := tval) (tval2 := tval2) (src := .task k)
  rw [reportWaits_of_reports reports] at stands
  generalize report v p (s.task p k).parent c tval tval2 (.task k) = t at *
  exact ⟨by rw [tasks, st], by rw [tasks, rid], by rw [regions, alloc], fun g b => (bytes' g b).trans (bytes g b),
    fun none_ => by rw [ibud, tbud]; exact budgets none_, r, cause, tv, tv2, src, stands⟩

end Sys2Proof.Claims

end

/-! ### A task's bid admitted (R156, R188, R263, R273)

`loadTask` says what an admission does with what the read of its image answers; a task that is placed runs (`TaskRuns`), and a
restored continuation still does. -/

section

namespace Sys2Proof.Claims

open Sys2Proof.Machine

variable {s t u v : State} {p q id k n m row0 col0 : Nat} {b : Bid} {r : Region} {y : Task} {img : List (BitVec 64)} {main : BitVec 64}
  {cont : Bool} {α : Type} {g : Tile → α}

/-- The region made for a task's bid. -/
def taskRegion (s : State) (p n id k row0 col0 : Nat) (b : Bid) (cont : Bool) : State :=
  (newRegion (takeBid s p n) p id b row0 col0 (some k) (s.task p k).seed (!cont)).updRegion p id fun r =>
    { r with ufc := (s.task p k).ufc, fold := 0, fullH := (s.task p k).h }

/-- The image resident and active, the task running. -/
def placedTask (s : State) (p id k row0 col0 : Nat) (y : Task) (cont : Bool) (main : BitVec 64) (img : List (BitVec 64)) : State :=
  let s1 := activateRegion (makeResident s p id 0 main img) p id 0 (!cont)
  let s2 := (setSegs s1 p (s1.region p id) y.arg).setTask p k
    { y with st := .running, rid := some id, row0 := row0, col0 := col0, stopAt := none }
  s2.updRegion p id fun r => { r with freezeAt := y.stopAt }

/-- What a yield left on the tiles of a continuation goes on. -/
def backTiles (s : State) (p id k : Nat) (y : Task) : State :=
  ((s.region p id).tileList.foldl (fun s u => s.updTile p u (backTile · (k, y.ser))) s).updTask p k fun t =>
    { t with ypend := false, contq := true }

/-- How a continuation ends its admission, from what its restore answers. -/
def resumeTask (p id k : Nat) (y : Task) : Except RestFault Nat × State → State
  | (.ok _, v) => backTiles v p id k y
  | (.error _, v) => taskAdmitFault v p k id cACCESS (taskHandle k y) 0x1A

/-- How a task ends its admission, from what the read of its image answers. -/
def loadTask (p id k row0 col0 : Nat) (y : Task) (cont : Bool) (main : BitVec 64) : Except ImgFault (List (BitVec 64)) × State → State
  | (.error (.addr c va), v) => taskAdmitFault v p k id c va (taskHandle k y)
  | (.error (.word c va _), v) => taskAdmitFault v p k id c va (taskHandle k y)
  | (.ok img, v) =>
    let u := placedTask v p id k row0 col0 y cont main img
    if cont then resumeTask p id k y (restoreRegion u p id y.contpt) else u

theorem takeBid_task (h j : Nat) : (takeBid s p n).task h j = s.task h j := task_updPad rfl h j
theorem takeBid_tile (h j : Nat) : (takeBid s p n).tile h j = s.tile h j := tile_updPad rfl h j
theorem takeBid_late : ((takeBid s p n).pad p).late = (s.pad p).late := by
  rw [takeBid, State.updPad, State.pad_setPad_same]

theorem taskRegion_work : RegionWork p id (takeBid s p n) (taskRegion s p n id k row0 col0 b cont) :=
  newRegion_work.trans regionWork_updRegion

theorem taskRegion_region : (taskRegion s p n id k row0 col0 b cont).region p id =
    { madeRegion b row0 col0 (some k) (s.task p k).seed with ufc := (s.task p k).ufc, fold := 0, fullH := (s.task p k).h } := by
  rw [taskRegion, region_updRegion, newRegion_region]

/-- A tile freed keeps its scales and zero points (R126, R188). -/
theorem freedTile_zeros (tl : Tile) : (freedTile tl none).mx.scale = tl.mx.scale ∧ (freedTile tl none).mx.zp = tl.mx.zp := by
  show ((tl.mx.left none).scale = _ ∧ (tl.mx.left none).zp = _)
  unfold Matrix.left
  split <;> exact ⟨rfl, rfl⟩

theorem taskRegion_tile (hf : ∀ tl, g (freedTile tl none) = g tl) (hc : ∀ tl, g { tl with flags := 0 } = g tl) (h j : Nat) :
    g ((taskRegion s p n id k row0 col0 b cont).tile h j) = g (s.tile h j) := by
  unfold taskRegion newRegion
  dsimp only
  rw [tile_updRegion, State.tile_setRegion]
  refine ((TileWork.foldl (g := g) fun _ _ => tileWork_updTile fun tl => ?_).tile h j).trans (congrArg g (takeBid_tile h j))
  split
  · exact (hc _).trans (hf tl)
  · exact hf tl

theorem exec_bidAdmit_task {p : Fin 32} (pick : pickBid s p = (.grant n row0 col0, s)) (at_ : (s.pad p).bids[n]? = some b)
    (kind : b.kind = .task k) (free : (s.pad p).freeId = some id) (off : (s.pad p).trace.mode = 0)
    (stays : (s.task p k).moveTo = none) (noFuse : (s.task p k).fuse = false) :
    exec (.bidAdmit p n) s = .next (loadTask p id k row0 col0 (s.task p k) ((s.task p k).st == .released) (admitImage (s.task p k))
      (readImage (taskRegion s p n id k row0 col0 b ((s.task p k).st == .released)) p row0 col0 b.h b.w none
        (admitImage (s.task p k)))) := by
  have run : exec (.bidAdmit p n) s = .next (admitTask (takeBid s p n) p k b row0 col0) := by
    show execBidAdmit p n s = _
    unfold execBidAdmit
    rw [pick]
    dsimp only
    rw [if_neg (by simp), at_]
    dsimp only
    rw [kind]
  have noFold : ((s.task p k).moveTo.map (·.2)).getD 0 = 0 := by rw [stays]; rfl
  have unfused (x : State) : (if (s.task p k).fuse = true then fuse x p k true else x) = x := if_neg (by rw [noFuse]; decide)
  have untraced (x : State) (e : x = taskRegion s p n id k row0 col0 b ((s.task p k).st == .released)) : (x.pad p).trace.mode = 0 := by
    rw [e, taskRegion_work.work.trace, takeBid_trace, off]
  rw [run]
  congr 1
  unfold admitTask
  rw [takeBid_freeId, free]
  dsimp only
  rw [takeBid_task, noFold, dispatchEvent_off, ← taskRegion]
  swap
  · exact untraced _ rfl
  generalize readImage _ p row0 col0 b.h b.w none _ = x
  rcases x with ⟨(_ | _) | img, v⟩
  · rfl
  · rfl
  · dsimp only [loadTask]
    rw [unfused, ← placedTask]
    split
    · generalize restoreRegion _ p id _ = x
      rcases x with ⟨_ | _, w⟩ <;> rfl
    · rfl

end Sys2Proof.Claims

end

/-! ### What an admission leaves -/

section

namespace Sys2Proof.Claims

open Sys2Proof.Machine

variable {s t u v : State} {p q id k n m row0 col0 : Nat} {b : Bid} {r : Region} {y : Task} {img : List (BitVec 64)}
  {main va tval tval2 : BitVec 64} {c : BitVec 8} {cont : Bool} {α : Type} {g : Tile → α}

/-- An admission of task k: contexts, late charges, other regions, bytes, and what the task was given stay. -/
structure Admits (s t : State) (p id k : Nat) : Prop where
  ctx : ∀ h j, t.ctx h j = s.ctx h j
  late : (t.pad p).late = (s.pad p).late
  others : OtherRegions s t p id
  byte : SameBytes s t
  parent : (t.task p k).parent = (s.task p k).parent
  ser : (t.task p k).ser = (s.task p k).ser
  ibud : (t.task p k).ibud = (s.task p k).ibud
  tbud : (t.task p k).tbud = (s.task p k).tbud

theorem Admits.trans (a : Admits s t p id k) (b : Admits t u p id k) : Admits s u p id k :=
  ⟨fun h j => (b.ctx h j).trans (a.ctx h j), b.late.trans a.late, fun h j ne => (b.others h j ne).trans (a.others h j ne),
    fun h x => (b.byte h x).trans (a.byte h x), b.parent.trans a.parent, b.ser.trans a.ser, b.ibud.trans a.ibud, b.tbud.trans a.tbud⟩

theorem RegionWork.admits (e : RegionWork p id s t) : Admits s t p id k :=
  ⟨e.work.ctx, e.work.late p, e.others, e.work.byte, by rw [e.work.task], by rw [e.work.task], by rw [e.work.task], by rw [e.work.task]⟩

theorem admits_setTask (parent : y.parent = (s.task p k).parent) (ser : y.ser = (s.task p k).ser) (ibud : y.ibud = (s.task p k).ibud)
    (tbud : y.tbud = (s.task p k).tbud) : Admits s (s.setTask p k y) p id k where
  ctx _ _ := State.ctx_setTask ..
  late := by
    rw [State.setTask, State.pad_setPad_same]
    rfl
  others _ _ _ := State.region_setTask ..
  byte _ _ := rfl
  parent := by rw [State.task_setTask_same, parent]
  ser := by rw [State.task_setTask_same, ser]
  ibud := by rw [State.task_setTask_same, ibud]
  tbud := by rw [State.task_setTask_same, tbud]

theorem taskRegion_admits : Admits s (taskRegion s p n id k row0 col0 b cont) p id k := by
  refine .trans (t := takeBid s p n) ⟨takeBid_ctx, takeBid_late, fun h j _ => takeBid_region h j, fun _ _ => rfl, ?_, ?_, ?_, ?_⟩
    taskRegion_work.admits <;> rw [takeBid_task]

/-- A task that could not be admitted, as the statement has it. -/
theorem admissionFails {p : Fin 32} (e : Admits s v p id k) (charges : (v.region p id).charges = []) (owner : q = (s.task p k).parent)
    (run : exec (.bidAdmit p n) s = .next (taskAdmitFault v p k id c tval tval2)) :
    ∃ t, exec (.bidAdmit p n) s = .next t ∧ (t.task p k).st = .faulted ∧ (t.task p k).rid = none ∧
      (t.region p id).alloc = false ∧ SameBytes s t ∧
      ((∀ e ∈ (s.pad p).late, e.1 ≠ .task k (s.task p k).ser) →
        (t.ctx p q).ibud = (s.ctx p q).ibud + (s.task p k).ibud ∧ (t.ctx p q).tbud = (s.ctx p q).tbud + (s.task p k).tbud) ∧
      ∃ r : Report, r.cause = c ∧ r.tval = tval ∧ r.tval2 = tval2 ∧ r.src = .task k ∧
        if reportWaits s p (.task k) then (q, r) ∈ (t.pad p).behind else r ∈ (t.ctx p q).reports := by
  obtain ⟨st, rid, alloc, bytes, budgets, told⟩ := taskAdmitFault_leaves (k := k) (c := c) (tval := tval) (tval2 := tval2) charges
  rw [e.late, e.ser, e.ibud, e.tbud, e.ctx, e.parent, ← owner] at budgets
  rw [e.parent, ← owner, reportWaits_of_reports (s := s) fun j => by rw [e.ctx]] at told
  exact ⟨_, run, st, rid, alloc, fun h a => (bytes h a).trans (e.byte h a), budgets, told⟩

/-! ### A task placed -/

theorem setSegs_work (hg : ∀ tl e, g { tl with et := e } = g tl) {arg : BitVec 48} : TileWork g s (setSegs s p r arg) :=
  .foldl fun _ _ => tileWork_updTile fun _ => hg ..

theorem setSegs_seg {arg : BitVec 48} (mem : k ∈ r.tileList) (type : tileType k = .e) :
    Tbl.get 0 ((setSegs s p r arg).tile p k).et.seg 0 = arg.setWidth 64 := by
  refine foldl_updTile_mem (P := fun tl => Tbl.get 0 tl.et.seg 0 = arg.setWidth 64) (fun tl => Tbl.get_put_same) ?_
  exact List.mem_filter.mpr ⟨mem, by rw [type]; rfl⟩

/-- A region as its activation leaves it (R132, R134). -/
def activeRegion (r : Region) (slot : BitVec 2) (fc : Nat) : Region :=
  { r with act := some slot, st := .running, saved := false, dec := none, spl := none, trap := none, later := none, recover := none,
           quiet := 0, freezeAt := none, owesSave := false, committed := false, replayed := false, runFrom := fc + 1 }

theorem activateRegion_eq_activeRegion {slot : BitVec 2} {full : Bool} :
    (activateRegion s p id slot full).region p id = activeRegion (s.region p id) slot (s.fc p) := by
  have tiles : TileWork (fun _ => ()) s (activateTiles s p id slot full) := tileWork_activateTiles (fun _ _ _ => rfl) fun _ _ => rfl
  rw [activateRegion_eq, region_updRegion, tiles.region, tiles.work.fc]
  rfl

theorem placedTask_admits (y_ : y = s.task p k) (e : Admits s v p id k) :
    Admits s (placedTask v p id k row0 col0 y cont main img) p id k := by
  subst y_
  unfold placedTask
  dsimp only
  have active : RegionWork p id v (activateRegion (makeResident v p id 0 main img) p id 0 (!cont)) :=
    makeResident_work.trans activateRegion_work
  generalize activateRegion (makeResident v p id 0 main img) p id 0 (!cont) = w at *
  have segs := active.trans (setSegs_work (s := w) (p := p) (r := w.region p id) (arg := (s.task p k).arg) (g := fun _ => ())
    fun _ _ => rfl).regionWork
  generalize setSegs w p (w.region p id) (s.task p k).arg = x at *
  have x_ : Admits s x p id k := e.trans segs.admits
  refine (x_.trans ?_).trans regionWork_updRegion.admits
  exact admits_setTask x_.parent.symm x_.ser.symm x_.ibud.symm x_.tbud.symm

theorem placedTask_task : (placedTask v p id k row0 col0 y cont main img).task p k =
    { y with st := .running, rid := some id, row0 := row0, col0 := col0, stopAt := none } := by
  rw [placedTask, task_updRegion, State.task_setTask_same]

theorem placedTask_region : (placedTask v p id k row0 col0 y cont main img).region p id =
    { activeRegion ((makeResident v p id 0 main img).region p id) 0 (v.fc p) with freezeAt := y.stopAt } := by
  rw [placedTask, region_updRegion, State.region_setTask, (setSegs_work (g := fun _ => ()) fun _ _ => rfl).region,
    activateRegion_eq_activeRegion, makeResident_work.work.fc]

/-- A tile but for its element: what the segments set for a task do not touch. -/
def besidesEt (tl : Tile) : Tile := { tl with et := {} }

theorem cfgs_of_besidesEt {a b : Tile} (e : besidesEt a = besidesEt b) : a.cfgs = b.cfgs :=
  show (besidesEt a).cfgs = (besidesEt b).cfgs from congrArg Tile.cfgs e

theorem mx_of_besidesEt {a b : Tile} (e : besidesEt a = besidesEt b) : a.mx = b.mx :=
  show (besidesEt a).mx = (besidesEt b).mx from congrArg Tile.mx e

theorem placedTask_tile (j : Nat) : besidesEt ((placedTask v p id k row0 col0 y cont main img).tile p j) =
    besidesEt ((activateRegion (makeResident v p id 0 main img) p id 0 (!cont)).tile p j) := by
  rw [placedTask, tile_updRegion, State.tile_setTask]
  exact (setSegs_work (g := besidesEt) fun _ _ => rfl).tile p j

theorem placedTask_stored {j : Nat} (mem : j ∈ (v.region p id).tileList) : ∃ m : Nat, (v.region p id).tileList[m]? = some j ∧
    Tbl.find? ((placedTask v p id k row0 col0 y cont main img).tile p j).cfgs 0 = some ((img.drop (33 * m)).take 33) := by
  obtain ⟨m, at_, stored⟩ := makeResident_stored (slot := 0) (va := main) (img := img) mem
  refine ⟨m, at_, ?_⟩
  rw [cfgs_of_besidesEt (placedTask_tile j), activateRegion_keepsTile (g := Tile.cfgs) (fun _ _ _ => rfl)
    fun tl c => by unfold activateTile; dsimp only; split <;> rfl]
  exact stored

theorem placedTask_seg {j : Nat} (mem : j ∈ (v.region p id).tileList) (type : tileType j = .e) :
    Tbl.get 0 ((placedTask v p id k row0 col0 y cont main img).tile p j).et.seg 0 = y.arg.setWidth 64 := by
  rw [placedTask, tile_updRegion, State.tile_setTask]
  refine setSegs_seg ?_ type
  rw [activateRegion_eq_activeRegion, makeResident_region]
  exact mem

/-- A continuation's tiles keep their scales and zero points (R188). -/
theorem placedTask_zeros (j : Nat) : let tl := (placedTask v p id k row0 col0 y true main img).tile p j
    tl.mx.scale = (v.tile p j).mx.scale ∧ tl.mx.zp = (v.tile p j).mx.zp := by
  dsimp only
  rw [mx_of_besidesEt (placedTask_tile j), activateRegion_keepsTile (g := Tile.mx) (fun _ _ _ => rfl) fun _ _ => rfl,
    makeResident_tile (g := Tile.mx) fun _ _ => rfl]
  exact ⟨rfl, rfl⟩

/-- An activation is one of every state of the same fc and rectangle, whatever is then done to elements. -/
theorem activated_of_same {slot : Nat} (h : Activated s t p id slot true) (fc : u.fc p = s.fc p)
    (rect : rectOf (u.region p id) = rectOf (s.region p id)) {at_ : Option Nat}
    (region : v.region p id = { t.region p id with freezeAt := at_ }) (tile : ∀ j, besidesEt (v.tile p j) = besidesEt (t.tile p j)) :
    Activated u v p id slot true := by
  obtain ⟨act, st, saved, dec, spl, runFrom, place, tiles⟩ := h
  unfold Activated
  dsimp only
  rw [region, fc]
  refine ⟨act, st, saved, dec, spl, runFrom, place.trans rect.symm, fun j mem => ?_⟩
  rw [tileList_of_rect rect] at mem
  obtain ⟨preds, halt, arm, x, l, a, full, -⟩ := tiles j mem
  have same := tile j
  generalize v.tile p j = tl at *
  generalize t.tile p j = tl' at *
  refine ⟨(congrArg Tile.preds same).trans preds, (congrArg Tile.halt same).trans halt, (congrArg Tile.arm same).trans arm,
    (congrArg Tile.x same).trans x, (congrArg Tile.l same).trans l, (congrArg Tile.a same).trans a, fun _ i => ?_, nofun⟩
  obtain ⟨lc, vc, scale, zp⟩ := full rfl i
  exact ⟨(congrArg (Tile.lc · i) same).trans lc, (congrArg (Tile.vc · i) same).trans vc,
    (congrArg (fun z : Tile => Tbl.get 0x3F800000 z.mx.scale i) same).trans scale,
    (congrArg (fun z : Tile => Tbl.get 0 z.mx.zp i) same).trans zp⟩

/-! ### A task that runs -/

/-- Task k, admitted, runs its image in region id. -/
def TaskRuns (s t : State) (p id k row0 col0 : Nat) (b : Bid) (y : Task) (img : List (BitVec 64)) : Prop :=
  let rect := rectTiles row0 col0 b.h b.w
  (t.task p k).st = .running ∧ (t.task p k).rid = some id ∧
  (let r := t.region p id
   r.alloc = true ∧ r.task = some k ∧ r.act = some 0 ∧ r.st = .running ∧ (r.row0, r.col0, r.h, r.w) = (row0, col0, b.h, b.w)) ∧
  (∀ j ∈ rect, ∃ m : Nat, rect[m]? = some j ∧ Tbl.find? (t.tile p j).cfgs 0 = some ((img.drop (33 * m)).take 33)) ∧
  (∀ j ∈ rect, tileType j = .e → Tbl.get 0 (t.tile p j).et.seg 0 = y.arg.setWidth 64) ∧
  OtherRegions s t p id ∧ SameBytes s t

theorem tileList_taskRegion : ((taskRegion s p n id k row0 col0 b cont).region p id).tileList = rectTiles row0 col0 b.h b.w := by
  rw [taskRegion_region]
  rfl

theorem placedTask_runs (y_ : y = s.task p k) (e : Admits s v p id k)
    (region : v.region p id = (taskRegion s p n id k row0 col0 b cont).region p id) :
    TaskRuns s (placedTask v p id k row0 col0 y cont main img) p id k row0 col0 b y img := by
  have admits := placedTask_admits (row0 := row0) (col0 := col0) (cont := cont) (main := main) (img := img) y_ e
  have list : (v.region p id).tileList = rectTiles row0 col0 b.h b.w := by rw [region, tileList_taskRegion]
  refine ⟨by rw [placedTask_task], by rw [placedTask_task], ?_, fun j mem => ?_, fun j mem type => ?_, admits.others, admits.byte⟩
  · rw [placedTask_region, makeResident_region, region, taskRegion_region]
    exact ⟨rfl, rfl, rfl, rfl, rfl⟩
  · rw [← list] at mem ⊢
    exact placedTask_stored mem
  · rw [← list] at mem
    exact placedTask_seg mem type

theorem backTile_keeps {by_ : Nat × BitVec 14}
    (hg : ∀ tl a b c d, g { tl with mx := { tl.mx with away := a }, reqs := b, outq := c, pendP := d } = g tl) (tl : Tile) :
    g (backTile tl by_) = g tl := by
  unfold backTile
  split
  · rfl
  · exact hg ..

theorem backTiles_tile (hg : ∀ tl a b c d, g { tl with mx := { tl.mx with away := a }, reqs := b, outq := c, pendP := d } = g tl)
    (h j : Nat) : g ((backTiles s p id k y).tile h j) = g (s.tile h j) := by
  unfold backTiles
  rw [State.updTask, State.tile_setTask]
  exact (TileWork.foldl (g := g) fun _ _ => tileWork_updTile (backTile_keeps hg)).tile h j

theorem backTiles_leaves : let t := backTiles s p id k y
    (t.task p k).st = (s.task p k).st ∧ (t.task p k).rid = (s.task p k).rid ∧ (t.task p k).ypend = false ∧
      (∀ h j, t.region h j = s.region h j) ∧ SameBytes s t := by
  unfold backTiles
  have tiles : TileWork (fun _ => ()) s ((s.region p id).tileList.foldl (fun s u => s.updTile p u (backTile · (k, y.ser))) s) :=
    .foldl fun _ _ => tileWork_updTile fun _ => rfl
  generalize (s.region p id).tileList.foldl (fun s u => s.updTile p u (backTile · (k, y.ser))) s = v at *
  refine ⟨?_, ?_, ?_, fun h j => (region_updTask ..).trans (tiles.region h j), tiles.work.byte⟩
  · rw [task_updTask, tiles.work.task]
  · rw [task_updTask, tiles.work.task]
  · rw [task_updTask]

/-- A continuation restored still runs. -/
theorem TaskRuns.restored (h : TaskRuns s t p id k row0 col0 b y img) (restores : restoreRegion t p id va = (.ok m, u)) :
    TaskRuns s (backTiles u p id k y) p id k row0 col0 b y img ∧ ((backTiles u p id k y).region p id).saved = false := by
  obtain ⟨st, rid, ⟨alloc, task, act, running, place⟩, cfgs, segs, others, bytes⟩ := h
  obtain ⟨work, region⟩ := restoreRegion_ok restores
  obtain ⟨st', rid', -, regions, bytes'⟩ := backTiles_leaves (s := u) (p := p) (id := id) (k := k) (y := y)
  have kept (j : Nat) : ((Tbl.find? ((backTiles u p id k y).tile p j).cfgs 0, ((backTiles u p id k y).tile p j).et.seg)) =
      (Tbl.find? (t.tile p j).cfgs 0, (t.tile p j).et.seg) :=
    (backTiles_tile (g := fun tl => (Tbl.find? tl.cfgs 0, tl.et.seg)) (fun _ _ _ _ _ => rfl) p j).trans
      (restoreRegion_tile (g := fun tl => (Tbl.find? tl.cfgs 0, tl.et.seg)) restores (fun _ _ => rfl) (fun _ _ _ => rfl)
        (fun _ _ _ => rfl) p j)
  have keptCfgs (j : Nat) := (Prod.mk.inj (kept j)).1
  have keptSegs (j : Nat) := (Prod.mk.inj (kept j)).2
  generalize backTiles u p id k y = v at *
  refine ⟨⟨?_, ?_, ?_, fun j mem => ?_, fun j mem type => ?_, fun h j ne => ?_, fun h a => ?_⟩, ?_⟩
  · rw [st', work.work.task, st]
  · rw [rid', work.work.task, rid]
  · rw [regions, region]
    exact ⟨alloc, task, act, rfl, place⟩
  · rw [keptCfgs]
    exact cfgs j mem
  · rw [keptSegs]
    exact segs j mem type
  · rw [regions, work.others h j ne, others h j ne]
  · exact ((bytes' h a).trans (work.work.byte h a)).trans (bytes h a)
  · rw [regions, region]
    rfl

end Sys2Proof.Claims

end

/-! ### O23 -/

section

namespace Sys2Proof.Claims

open Sys2Proof.Machine

variable {s t u v : State} {p id k n m row0 col0 : Nat} {b : Bid} {img : List (BitVec 64)} {main : BitVec 64} {cont : Bool}
  {x : Except ImgFault (List (BitVec 64))}

section Reading

variable (read : readImage (taskRegion s p n id k row0 col0 b cont) p row0 col0 b.h b.w none main = (x, v))

include read

theorem accessed_of_readImage : Accessed (taskRegion s p n id k row0 col0 b cont) v ∧
    SameBytes (taskRegion s p n id k row0 col0 b cont) v := by
  have access := readImage_accessed (s := taskRegion s p n id k row0 col0 b cont) (p := p) (row0 := row0) (col0 := col0) (h := b.h)
    (w := b.w) (fold := none) (va := main)
  have bytes := (readImage_work (s := taskRegion s p n id k row0 col0 b cont) (p := p) (row0 := row0) (col0 := col0) (h := b.h)
    (w := b.w) (fold := none) (va := main)).byte
  rw [read] at access bytes
  exact ⟨access, bytes⟩

theorem admits_of_readImage : Admits s v p id k := by
  obtain ⟨access, bytes⟩ := accessed_of_readImage read
  exact taskRegion_admits.trans (RegionWork.admits ⟨work_of_accessed access bytes, fun h j _ => access.region h j⟩)

theorem region_of_readImage : v.region p id = (taskRegion s p n id k row0 col0 b cont).region p id :=
  (accessed_of_readImage read).1.region p id

theorem charges_of_readImage : (v.region p id).charges = [] := by
  rw [region_of_readImage read, taskRegion_region]
  rfl

/-- The activation is one of the region as it was made. -/
theorem activated_of_readImage {y : Task} :
    Activated (taskRegion s p n id k row0 col0 b cont) (placedTask v p id k row0 col0 y false main img) p id 0 true := by
  obtain ⟨access, bytes⟩ := accessed_of_readImage read
  refine activated_of_same (activateRegion_activated (.refl (makeResident v p id 0 main img) p id)) (at_ := y.stopAt) ?_ ?_ ?_
    fun j => placedTask_tile j
  · rw [makeResident_work.work.fc, (work_of_accessed access bytes).fc]
  · rw [makeResident_region, region_of_readImage read]
    rfl
  · rw [placedTask_region, activateRegion_eq_activeRegion, makeResident_work.work.fc]
    rfl

end Reading

theorem admitImage_queued {y : Task} (stays : y.moveTo = none) (queued : y.st = .queued) : admitImage y = y.main := by
  unfold admitImage
  rw [stays, queued]
  rfl

theorem admitImage_released {y : Task} (stays : y.moveTo = none) (released : y.st = .released) :
    admitImage y = if y.contc = 0 then y.main else y.contc := by
  unfold admitImage
  rw [stays, released]
  rfl

theorem admitImage_eq {y : Task} (stays : y.moveTo = none) (st : y.st = .queued ∨ y.st = .released) :
    admitImage y = if y.st = .queued ∨ y.contc = 0 then y.main else y.contc := by
  rcases st with queued | released
  · rw [admitImage_queued stays queued, if_pos (.inl queued)]
  · have neQueued : y.st ≠ .queued := by rw [released]; decide
    rw [admitImage_released stays released, if_congr (or_iff_right neQueued) rfl rfl]

theorem taskHandle_eq {y : Task} : taskHandle k y = BitVec.ofNat 64 (k + 256 * y.ser.toNat) := by
  rw [taskHandle, Nat.mul_comm]

/-- A continuation's tiles, restored: what the restore wrote, and the scales and zero points they held. -/
theorem continuation_tile {y : Task} {va : BitVec 64}
    (read : readImage (taskRegion s p n id k row0 col0 b cont) p row0 col0 b.h b.w none main = (x, v))
    (restores : restoreRegion (placedTask v p id k row0 col0 y true main img) p id va = (.ok m, u)) (j : Nat) :
    let tl := (backTiles u p id k y).tile p j
    tl.bufs = (u.tile p j).bufs ∧ tl.preds = (u.tile p j).preds ∧ (∀ i, tl.lc i = (u.tile p j).lc i ∧ tl.vc i = (u.tile p j).vc i) ∧
      tl.mx.scale = (s.tile p j).mx.scale ∧ tl.mx.zp = (s.tile p j).mx.zp := by
  have back {α : Type} {g : Tile → α} := backTiles_tile (g := g) (s := u) (p := p) (id := id) (k := k) (y := y)
  have bufs := back (g := Tile.bufs) (fun _ _ _ _ _ => rfl) p j
  have preds := back (g := Tile.preds) (fun _ _ _ _ _ => rfl) p j
  have lcs (i : Nat) := back (g := (Tile.lc · i)) (fun _ _ _ _ _ => rfl) p j
  have vcs (i : Nat) := back (g := (Tile.vc · i)) (fun _ _ _ _ _ => rfl) p j
  have scale := back (g := fun tl => tl.mx.scale) (fun _ _ _ _ _ => rfl) p j
  have zp := back (g := fun tl => tl.mx.zp) (fun _ _ _ _ _ => rfl) p j
  have restored := restoreRegion_tile (g := Tile.mx) restores (fun _ _ => rfl) (fun _ _ _ => rfl) (fun _ _ _ => rfl) p j
  obtain ⟨scale', zp'⟩ := placedTask_zeros (v := v) (p := p) (id := id) (k := k) (row0 := row0) (col0 := col0) (y := y) (main := main)
    (img := img) j
  have made := taskRegion_tile (s := s) (p := p) (n := n) (id := id) (k := k) (row0 := row0) (col0 := col0) (b := b) (cont := cont)
    (g := fun tl => (tl.mx.scale, tl.mx.zp)) (fun tl => Prod.ext (freedTile_zeros tl).1 (freedTile_zeros tl).2) (fun _ => rfl) p j
  obtain ⟨scale0, zp0⟩ := Prod.mk.inj made
  refine ⟨bufs, preds, fun i => ⟨lcs i, vcs i⟩, scale.trans ?_, zp.trans ?_⟩
  · rw [restored, scale', (accessed_of_readImage read).1.tile, scale0]
  · rw [restored, zp', (accessed_of_readImage read).1.tile, zp0]

/-! Where an admission ends. -/

variable {y : Task} {e : RestFault}

theorem loadTask_fresh : loadTask p id k row0 col0 y false main (.ok img, v) = placedTask v p id k row0 col0 y false main img := rfl

theorem loadTask_restored (restores : restoreRegion (placedTask v p id k row0 col0 y true main img) p id y.contpt = (.ok m, u)) :
    loadTask p id k row0 col0 y true main (.ok img, v) = backTiles u p id k y := by
  unfold loadTask
  dsimp only
  rw [if_pos rfl, restores]
  rfl

theorem loadTask_mismatch (restores : restoreRegion (placedTask v p id k row0 col0 y true main img) p id y.contpt = (.error e, u)) :
    loadTask p id k row0 col0 y true main (.ok img, v) =
      taskAdmitFault u p k id cACCESS (BitVec.ofNat 64 (k + 256 * y.ser.toNat)) 0x1A := by
  unfold loadTask
  dsimp only
  rw [if_pos rfl, restores, ← taskHandle_eq]
  rfl

theorem loadTask_fault {fault : ImgFault} {c : BitVec 8} {va : BitVec 64} (h : fault = .addr c va ∨ ∃ w, fault = .word c va w) :
    loadTask p id k row0 col0 y cont main (.error fault, v) =
      taskAdmitFault v p k id c va (BitVec.ofNat 64 (k + 256 * y.ser.toNat)) := by
  rw [← taskHandle_eq]
  rcases h with rfl | ⟨w, rfl⟩ <;> rfl

/-- A save area that does not match leaves the task as it was placed. -/
theorem admits_of_mismatch
    (read : readImage (taskRegion s p n id k row0 col0 b cont) p row0 col0 b.h b.w none main = (x, v))
    (restores : restoreRegion (placedTask v p id k row0 col0 (s.task p k) true main img) p id (s.task p k).contpt = (.error e, u)) :
    Admits s u p id k ∧ (u.region p id).charges = [] := by
  obtain ⟨access, bytes⟩ := restoreRegion_error restores
  refine ⟨(placedTask_admits rfl (admits_of_readImage read)).trans
    (RegionWork.admits ⟨work_of_accessed access bytes, fun h j _ => access.region h j⟩), ?_⟩
  rw [access.region, placedTask_region, makeResident_region]
  exact charges_of_readImage read

/-- The admission of a task, as the statement has it. -/
theorem taskAdmission : TaskAdmission := by
  intro s p n row0 col0 id k b pick at_ kind free off stays owner noFuse y rect handle from_ runs fails
  have run := exec_bidAdmit_task pick at_ kind free off stays noFuse
  refine ⟨fun queued img v read => ?_, fun released main main_ img v read => ?_, fun st e c va v fault read => ?_⟩
  · have fresh : (y.st == .released) = false := by rw [queued]; rfl
    rw [fresh, admitImage_queued stays queued, show readImage (taskRegion s p n id k row0 col0 b false) p row0 col0 b.h b.w none y.main =
      (.ok img, v) from read, loadTask_fresh] at run
    exact ⟨_, run, placedTask_runs rfl (admits_of_readImage read) (region_of_readImage read), activated_of_readImage read⟩
  · have cont : (y.st == .released) = true := by rw [released]; rfl
    have image : admitImage y = main := (admitImage_released stays released).trans main_.symm
    rw [cont, image, show readImage (taskRegion s p n id k row0 col0 b true) p row0 col0 b.h b.w none main = (.ok img, v) from read] at run
    refine ⟨fun m u restores => ?_, fun e u restores => ?_⟩
    · rw [loadTask_restored restores] at run
      obtain ⟨-, -, ypend, -⟩ := backTiles_leaves (s := u) (p := p) (id := id) (k := k) (y := y)
      obtain ⟨taskRuns, saved⟩ := (placedTask_runs (row0 := row0) (col0 := col0) (cont := true) (main := main) (img := img) rfl
        (admits_of_readImage read) (region_of_readImage read)).restored restores
      exact ⟨_, run, taskRuns, ypend, saved, fun j _ => continuation_tile read restores j⟩
    · rw [loadTask_mismatch restores] at run
      obtain ⟨admits, charges⟩ := admits_of_mismatch read restores
      exact admissionFails admits charges owner run
  · rw [admitImage_eq stays st, show readImage (taskRegion s p n id k row0 col0 b (y.st == .released)) p row0 col0 b.h b.w none
      (if y.st = .queued ∨ y.contc = 0 then y.main else y.contc) = (.error e, v) from read, loadTask_fault fault] at run
    exact admissionFails (admits_of_readImage read) (charges_of_readImage read) owner run

end Sys2Proof.Claims

namespace Sys2Proof

/-- Settles O23: the clauses on a task's life (`Claims.taskLife`) and on its admission (`Claims.taskAdmission`). -/
theorem taskLives : Obligations.TaskLives := ⟨Claims.taskLife, Claims.taskAdmission⟩

end Sys2Proof

end

/-! ## Memory nodes fire (O32)

A memory node checks its words or its address, then writes its tile once, as a deferred slot; what its reservations and dequeues
then leave is what `TokensOnly` says, and the predicates pending. -/

section

namespace Sys2Proof.Machine

variable {s t : State} {f : FabF} {opc : BitVec 8} {i : Instr}

/-! ### A deferred slot fires (R165) -/

/-- The tile of a slot that issues a request, before its outputs are reserved and its inputs dequeued. -/
def deferredTile (f : FabF) (writes : Bool) (n : Nat) (r : Req) (x : Fir) : Tile :=
  let tl := fireMarks f x true (deferMarks f writes x.tl)
  let ents := if f.om = 0 then [] else
    { id := r.id, om := f.om, held := f.om, tok := none } ::
      List.replicate (n - 1) { id := r.id, om := f.om, held := (0 : BitVec 4), tok := (none : Option Tok), paced := true }
  { tl with
    reqs := tl.reqs ++ [r], nextReq := tl.nextReq + 1, outq := tl.outq ++ ents
    et := if tileType x.t == .e then { tl.et with issued := tl.et.issued + 1 } else tl.et }

theorem deferredTile_frame (writes : Bool) (n : Nat) (r : Req) (x : Fir) : ∃ m c l o q e, deferredTile f writes n r x =
    { x.tl with rrPtr := m, pos := c, pendL := l, nextReq := o, outq := q, et := e, reqs := x.tl.reqs ++ [r],
                preds := if puLate f.pu then x.tl.preds else puApply x.tl.preds f.pu f.pd false false,
                pendP := if puLate f.pu then setBit x.tl.pendP f.pd.toNat true else x.tl.pendP } := by
  obtain ⟨m, c, marked⟩ := fireMarks_frame f x true (deferMarks f writes x.tl)
  unfold deferredTile
  rw [marked]
  exact ⟨_, _, _, _, _, _, rfl⟩

theorem pendP_deqIn {p k n h u : Nat} : ((deqIn s p k n).2.tile h u).pendP = (s.tile h u).pendP := by
  have written {v : Tile} (e : v.pendP = (s.tile p k).pendP) : ((s.setTile p k v).tile h u).pendP = (s.tile h u).pendP :=
    (Claims.leaves_setTile e).tile h u
  unfold deqIn
  dsimp only
  split
  · rfl
  split
  · exact written rfl
  split
  · split
    · exact written rfl
    · exact written rfl
  · exact written rfl

theorem pendP_deqMask {p k h u : Nat} {dq : BitVec 4} : ((deqMask s p k dq).2.tile h u).pendP = (s.tile h u).pendP :=
  List.foldlRecOn (motive := fun a : Nat × State => (a.2.tile h u).pendP = (s.tile h u).pendP) _ _ rfl fun _ e _ _ =>
    pendP_deqIn.trans e

/-- The acting tile is written, places are reserved and inputs dequeued, the region is charged and is busy. -/
theorem deferFire_stages (writes : Bool) (n ib tb : Nat) (r : Req) (s : State) :
    ∃ u, TokensOnly (s.setTile s.fir.p s.fir.t (deferredTile f writes n r s.fir)) u ∧
      TokensOnly (chargeRegion u s.fir.p s.fir.rid ib tb) (deferFire f writes n ib tb r s) ∧
      ∀ h k, ((deferFire f writes n ib tb r s).tile h k).pendP =
        ((s.setTile s.fir.p s.fir.t (deferredTile f writes n r s.fir)).tile h k).pendP := by
  unfold deferFire
  extract_lets x marked ents et tl s1 s2
  have reserved : TokensOnly s1 s2 := .foldl fun _ _ => tokensOnly_onDests
  have kept (h k : Nat) : (s2.tile h k).pendP = (s1.tile h k).pendP :=
    (Claims.Leaves.foldl fun _ _ => Claims.leaves_onDests fun _ _ _ => rfl).tile h k
  refine ⟨_, (reserved.trans tokensOnly_deqMask).trans tokensOnly_retire, tokensOnly_markBusy, fun h k => ?_⟩
  have retired : (((deqMask s2 x.p x.t f.dq).2.updPad x.p fun y =>
      { y with prg := y.prg + (deqMask s2 x.p x.t f.dq).1 }).tile h k) = (deqMask s2 x.p x.t f.dq).2.tile h k :=
    Claims.tile_updPad rfl h k
  rw [tile_markBusy, (leaves_chargeRegion Tile.pendP).tile, retired]
  exact pendP_deqMask.trans (kept h k)

end Sys2Proof.Machine

namespace Sys2Proof.Claims

open Sys2Proof.Machine

variable {s t u : State} {f : FabF} {opc : BitVec 8} {i : Instr} {due ib tb : Nat}

/-- A slot that issues a request fires it. -/
theorem requests_deferFire {writes : Bool} {n : Nat} {r : Req} (word : r.word = fabPack opc f) (slot : r.slot = s.fir.slot)
    (b : r.b = s.fir.opB f) (going : r.st = .going) (fired : r.fired = s.fc s.fir.p) (late : due ≤ r.due)
    (owed : ib ≠ 0 ∨ tb ≠ 0) :
    Requests s (deferFire f writes n ib tb r s) f opc due ib tb ∧ MxSame s (deferFire f writes n ib tb r s) ∧
      r ∈ ((deferFire f writes n ib tb r s).tile s.fir.p s.fir.t).reqs := by
  obtain ⟨v, moved, rest, pending⟩ := deferFire_stages (f := f) writes n ib tb r s
  have kept (h k : Nat) : ((deferFire f writes n ib tb r s).tile h k).kept =
      ((s.setTile s.fir.p s.fir.t (deferredTile f writes n r s.fir)).tile h k).kept := by
    rw [rest.leaves.tile, (leaves_chargeRegion Tile.kept).tile, moved.leaves.tile]
  have fabric : FabricOnly s (deferFire f writes n ib tb r s) :=
    (((fabricOnly_setTile ..).trans moved.leaves.fabric).trans (leaves_chargeRegion Tile.kept).fabric).trans rest.leaves.fabric
  obtain ⟨m, c, l, o, q, e, frame⟩ := deferredTile_frame (f := f) writes n r s.fir
  have own := kept s.fir.p s.fir.t
  have ownP := pending s.fir.p s.fir.t
  rw [State.tile_setTile_same, frame] at own ownP
  simp only [Tile.kept, Prod.mk.injEq] at own
  obtain ⟨⟨preds, loc, vec, flags, -, -, cfgs, -⟩, mx, sp, -, reqs⟩ := own
  refine ⟨⟨⟨r, reqs, word, slot, b, going, fired, late⟩, ?_, fun late => ?_, fun early m low => ?_, fun alloc => ?_,
    fun h k ne => ?_, fabric⟩, fun h k => ?_, ?_⟩
  · rw [loc, vec, flags, sp, cfgs]
    rfl
  · rw [preds, ownP, if_pos late, if_pos late, getLsbD_setBit _ _ f.pd.isLt, if_pos rfl]
    exact ⟨rfl, rfl⟩
  · rw [preds, if_neg (by simp [early])]
    exact getLsbD_puApply _ f false false low
  · obtain ⟨alloc', charges⟩ := Prod.mk.inj (moved.account s.fir.p s.fir.rid)
    rw [State.region_setTile] at alloc' charges
    rw [(Prod.mk.inj (rest.account ..)).2, charges_chargeRegion (alloc'.trans alloc) owed, charges, moved.fc,
      State.fc_setTile]
  · rw [tileKeeps_iff, kept, tile_setTile_ne ne]
  · by_cases same : (h, k) = (s.fir.p, s.fir.t)
    · obtain ⟨rfl, rfl⟩ := Prod.mk.inj same
      rw [mx]
      rfl
    · have other := kept h k
      rw [tile_setTile_ne same] at other
      exact congrArg (fun x => x.2.1) other
  · rw [reqs]
    exact List.mem_append_right _ (List.mem_singleton_self r)

/-- A state that differs from another in what an E tile holds for the acting element, or in the free values. -/
structure Prepares (s u : State) : Prop where
  fabric : FabricOnly s u
  fir : ∃ e, u.fir = { s.fir with tl := { s.fir.tl with et := e } }
  tile : ∀ h k, (h, k) ≠ (s.fir.p, s.fir.t) → u.tile h k = s.tile h k
  region : ∀ h k, u.region h k = s.region h k
  fc : ∀ h, u.fc h = s.fc h

theorem prepares_free (fr : Nat) : Prepares s { s with free := fr } :=
  ⟨⟨fun _ _ => rfl, fun _ _ => rfl, fun _ _ => rfl, rfl, fun _ _ => rfl⟩, ⟨_, rfl⟩, fun _ _ _ => rfl, fun _ _ => rfl, fun _ => rfl⟩

theorem Prepares.free (e : Prepares s u) (fr : Nat) : Prepares s { u with free := fr } :=
  ⟨e.fabric.trans (prepares_free fr).fabric, e.fir, e.tile, e.region, e.fc⟩

/-- A request fired from a prepared state is fired from the state itself. -/
theorem Prepares.requests (e : Prepares s u) (fired : Requests u t f opc due ib tb) (same : MxSame u t) :
    Requests s t f opc due ib tb ∧ MxSame s t := by
  obtain ⟨x, fir⟩ := e.fir
  have own : u.tile u.fir.p u.fir.t = u.fir.tl := rfl
  unfold Requests at fired
  dsimp only at fired
  rw [own] at fired
  simp only [fir, e.region, e.fc] at fired
  obtain ⟨issued, keeps, late, early, charged, others, fabric⟩ := fired
  refine ⟨⟨issued, keeps, late, early, charged, fun h k ne => ?_, e.fabric.trans fabric⟩, fun h k => ?_⟩
  · rw [← e.tile h k ne]
    exact others h k ne
  · rw [same h k]
    by_cases at_ : (h, k) = (s.fir.p, s.fir.t)
    · obtain ⟨rfl, rfl⟩ := Prod.mk.inj at_
      have tl : u.tile s.fir.p s.fir.t = u.fir.tl := by
        rw [← own, fir]
      rw [tl, fir]
      rfl
    · rw [e.tile h k at_]

/-- A request fired from a prepared state is one of the state itself. -/
theorem Prepares.fires (e : Prepares s u) {writes : Bool} {n : Nat} {r : Req} (word : r.word = fabPack opc f)
    (slot : r.slot = u.fir.slot) (b : r.b = u.fir.opB f) (going : r.st = .going) (fired : r.fired = u.fc u.fir.p)
    (late : u.fc u.fir.p + 1 ≤ r.due) (owed : ib ≠ 0 ∨ tb ≠ 0) :
    Requests s (deferFire f writes n ib tb r u) f opc (s.fc s.fir.p + 1) ib tb ∧ MxSame s (deferFire f writes n ib tb r u) ∧
      r ∈ ((deferFire f writes n ib tb r u).tile s.fir.p s.fir.t).reqs := by
  obtain ⟨requests, same, mem⟩ := requests_deferFire (writes := writes) (n := n) word slot b going fired late owed
  obtain ⟨x, fir⟩ := e.fir
  have p : u.fir.p = s.fir.p := by rw [fir]
  have k : u.fir.t = s.fir.t := by rw [fir]
  rw [p, k] at mem
  rw [p, e.fc] at requests
  obtain ⟨requests, same⟩ := e.requests requests same
  exact ⟨requests, same, mem⟩

/-- Such a request as the nodes make it, due after a delay of at least 1 fc. -/
theorem Prepares.firesNew (e : Prepares s u) {writes : Bool} {n d : Nat} {va : BitVec 64} (owed : ib ≠ 0 ∨ tb ≠ 0)
    (pos : 1 ≤ d) : ∃ r : Req, r = newReq opc f u.fir (u.fc u.fir.p) (u.fc u.fir.p + d) va ∧
      Requests s (deferFire f writes n ib tb r u) f opc (s.fc s.fir.p + 1) ib tb ∧ MxSame s (deferFire f writes n ib tb r u) ∧
      r ∈ ((deferFire f writes n ib tb r u).tile s.fir.p s.fir.t).reqs :=
  ⟨_, rfl, e.fires rfl rfl rfl rfl rfl (Nat.add_le_add_left pos _) owed⟩

/-! ### Scratchpad nodes (R154, R163 to R165, R173) -/

/-- A scratchpad node checks the words it reaches from i, and fires. -/
theorem exec_spadNode {n : Fir → Nat} (h : spadNode i = some (f, opc, n)) :
    ∃ writes, exec i s = spadFire opc f writes (n s.fir) s := by
  unfold spadNode at h
  split at h <;> cases h
  case h_9 =>
    refine ⟨false, congrArg (spadFire 0x68 _ false · s) ?_⟩
    unfold sfeWords
    dsimp only
    split <;> omega
  all_goals exact ⟨_, rfl⟩

theorem spadBad_iff {x : Fir} {j : BitVec 32} {n : Nat} : spadBad s x j n = true ↔
    65535 < j.toNat + n - 1 ∨ (reorderReserved s x.p (x.t / 12) = true ∧ 57344 ≤ j.toNat + n - 1) := by
  simp [spadBad, tileRow]

theorem scratchpadNodesFire : ScratchpadNodesFire := by
  intro i f opc n s row x last bad
  obtain ⟨writes, run⟩ := exec_spadNode (s := s) row
  refine ⟨fun good => ?_, fun isBad => ?_⟩
  · obtain ⟨r, rfl, requests, same, -⟩ := (prepares_free (s := s) (s.free + 1)).firesNew (f := f) (opc := opc) (writes := writes)
      (n := 1) (ib := 1) (tb := 0) (va := 0) (.inl one_ne_zero) (Nat.le_add_right 1 (Config.delay s.free))
    exact ⟨_, run.trans (if_neg (mt spadBad_iff.1 good)), requests, same⟩
  · exact run.trans (if_pos (spadBad_iff.2 isBad))

/-! ### Global nodes (R156, R163 to R165, R172 to R177) -/

theorem globBad_none {base va : BitVec 64} {n : Nat} (hb : canonical base = true) (hv : canonical va = true)
    (aligned : va.toNat % n = 0) : globBad base va n = none := by
  simp [globBad, hb, hv, aligned]

theorem globBad_xlate {base va : BitVec 64} {n : Nat} (h : canonical base = false ∨ canonical va = false) :
    globBad base va n = some cXLATE := by
  obtain h | h := h <;> simp [globBad, h]

theorem globBad_misalign {base va : BitVec 64} {n : Nat} (hb : canonical base = true) (hv : canonical va = true)
    (odd : va.toNat % n ≠ 0) : globBad base va n = some cMISALIGN := by
  simp [globBad, hb, hv, odd]

/-- The state in which a GATH that fires counts its row. -/
def countsRow (s : State) : State := updActing s.fir s fun tl => { tl with et := { tl.et with gseq := tl.et.gseq + 1 } }

/-- A global node checks its address, and fires; a GATH counts its row first. -/
theorem exec_globNode {base va : BitVec 64} {n : Nat} (h : globNode s.fir i = some (f, opc, base, va, n)) :
    ∃ writes m, exec i s = globFire opc f writes m base va n s ∨
      exec i s = globFire opc f writes m base va n (if (globBad base va n).isNone then countsRow s else s) := by
  unfold globNode at h
  split at h <;> cases h
  case h_7 => exact ⟨false, _, .inr rfl⟩
  all_goals exact ⟨_, _, .inl rfl⟩

theorem fir_countsRow : (countsRow s).fir = { s.fir with tl := { s.fir.tl with et := { s.fir.tl.et with gseq := s.fir.tl.et.gseq + 1 } } } := by
  have pad : (countsRow s).pad s.cur.p = (s.pad s.cur.p).setTile s.cur.t
      { s.fir.tl with et := { s.fir.tl.et with gseq := s.fir.tl.et.gseq + 1 } } := State.pad_setPad_same ..
  have cur : (countsRow s).cur = s.cur := rfl
  unfold State.fir
  dsimp only
  rw [cur, pad]
  unfold Paddock.cfgAt
  rw [Paddock.tile_setTile_same]
  rfl

theorem prepares_countsRow : Prepares s (countsRow s) where
  fabric := fabricOnly_setTile ..
  fir := ⟨_, fir_countsRow⟩
  tile _ _ ne := tile_setTile_ne ne
  region _ _ := State.region_setTile ..
  fc _ := State.fc_setTile ..

theorem globFire_fires {writes : Bool} {m n : Nat} {base va : BitVec 64} (good : globBad base va n = none) (e : Prepares s u) :
    ∃ t, globFire opc f writes m base va n u = .next t ∧ Requests s t f opc (s.fc s.cur.p + 1) 2 0 ∧ MxSame s t ∧
      ∃ r ∈ (t.tile s.cur.p s.cur.t).reqs, r.va = va ∧ r.word = fabPack opc f := by
  obtain ⟨r, rfl, requests, same, mem⟩ := (e.free (u.free + 1)).firesNew (f := f) (opc := opc) (writes := writes) (n := m)
    (ib := 2) (tb := 0) (va := va) (.inl two_ne_zero) (Nat.le_add_right 1 (Config.delay u.free))
  refine ⟨_, ?_, requests, same, _, mem, rfl, rfl⟩
  unfold globFire
  dsimp only
  rw [good]
  rfl

/-- A global node whose address is good issues its request. -/
theorem globNode_fires {base va : BitVec 64} {n : Nat} (row : globNode s.fir i = some (f, opc, base, va, n))
    (good : globBad base va n = none) : ∃ t, exec i s = .next t ∧ Requests s t f opc (s.fc s.cur.p + 1) 2 0 ∧ MxSame s t ∧
      ∃ r ∈ (t.tile s.cur.p s.cur.t).reqs, r.va = va ∧ r.word = fabPack opc f := by
  obtain ⟨writes, m, run | run⟩ := exec_globNode row
  · rw [run]
    exact globFire_fires good (prepares_free s.free)
  · rw [run, good]
    exact globFire_fires good prepares_countsRow

/-- A global node whose address is not good faults before firing. -/
theorem globNode_faults {base va : BitVec 64} {n : Nat} {cause : BitVec 8} (row : globNode s.fir i = some (f, opc, base, va, n))
    (bad : globBad base va n = some cause) : FaultsBefore i s opc f cause va := by
  have faults (writes : Bool) (m : Nat) : globFire opc f writes m base va n s = .next (trapBefore s opc f cause 0 va) := by
    unfold globFire
    dsimp only
    rw [bad]
  obtain ⟨writes, m, run | run⟩ := exec_globNode row
  · exact run.trans (faults writes m)
  · rw [bad] at run
    exact run.trans (faults writes m)

/-- PREF fires whatever its address. -/
theorem execFabPref_fires : ∃ t, exec (.fabPref f) s = .next t ∧ Requests s t f 0x7A (s.fc s.fir.p + 1) 2 0 ∧ MxSame s t := by
  obtain ⟨r, rfl, requests, same, -⟩ := (prepares_free (s := s) (s.free + 1)).firesNew (f := f) (opc := 0x7A) (writes := false)
    (n := 1) (ib := 2) (tb := 0) (va := segAddr s.fir.tl (s.fir.opB f)) (.inl two_ne_zero)
    (Nat.le_add_right 1 (Config.delay s.free))
  exact ⟨_, rfl, requests, same⟩

/-- FENCE fires; it waits 1 fc at least. -/
theorem execFabFence_fires : ∃ t, exec (.fabFence f) s = .next t ∧ Requests s t f 0x79 (s.fc s.fir.p + 1) 1 0 ∧ MxSame s t := by
  have pos : 1 ≤ if f.pd = 5 ∧ s.fir.tl.et.hostWrite.isSome then (freeDelay s 1).1 else 1 := by
    split
    · exact Nat.le_add_right ..
    · exact le_rfl
  obtain ⟨r, rfl, requests, same, -⟩ := (prepares_free (s := s) (s.free + 1)).firesNew (f := f) (opc := 0x79) (writes := false)
    (n := 1) (ib := 1) (tb := 0) (va := 0) (.inl one_ne_zero) pos
  exact ⟨_, rfl, requests, same⟩

/-- OJOIN acts in the firing fc; its free value is its nonzero operand's. -/
theorem execOjoin_acts : ∃ n fr, exec (.ojoin f) s =
    .next (applyEffect f { sends := toAll f.om (s.fir.ordTok f), nonzero := n } { s with free := fr }) := by
  obtain ⟨n, fr, tested⟩ := freeNz_eq (f := f) (s := s)
  refine ⟨n, fr, ?_⟩
  change execOjoin f s = _
  unfold execOjoin
  rw [tested]

theorem globalNodesFire : GlobalNodesFire := by
  constructor
  · exact fun i f opc base va n s row =>
      ⟨fun hb hv aligned => globNode_fires row (globBad_none hb hv aligned),
       fun foreign => globNode_faults row (globBad_xlate foreign),
       fun hb hv odd => globNode_faults row (globBad_misalign hb hv odd)⟩
  · intro f s x
    exact ⟨execFabPref_fires, execFabFence_fires, execOjoin_acts, rfl⟩

end Sys2Proof.Claims

namespace Sys2Proof

/-- Settles O32: a node that passes its checks is one deferred firing (`Claims.Prepares.fires`); one that fails them is a fault
before firing. -/
theorem memoryNodesFire : Obligations.MemoryNodesFire := ⟨Claims.scratchpadNodesFire, Claims.globalNodesFire⟩

end Sys2Proof

end

/-! ## A gather parked at a scratchpad word (O33)

A parked request that its word's bit lets go is served by its word alone, whatever its opcode. A gather that is served so stays
in its tile, performed, until its last token has left (R173); and its token waits behind that of an earlier deferred result. -/

section

namespace Sys2Proof.Claims

open Sys2Proof.Machine

/-- A GATH of one token on output 0. -/
def parkedGather : Req :=
  { id := 5, slot := 0, word := fabPack 0x76 { om := 1 }, fired := 0, due := 0, iter := 0, b := 9, st := .parkedFE }

/-- An S tile's gather parked at its word 9, which is full; the gather's token has a result before it. -/
def parkedGatherTile : Tile :=
  { reqs := [parkedGather]
    outq := [{ id := 4, om := 0xF, held := 0xF, tok := none }, { id := 5, om := 1, held := 1, tok := none }]
    sp := { full := [(9, true)], loadQ := [(9, [5])] } }

/-- Paddock 0 holds that tile at row 1 and column 6. -/
def parkedGatherState : State := { pads := [(0, { tiles := [(18, parkedGatherTile)] })] }

/-- Its service leaves the gather in the tile. -/
theorem parkedGather_stays : ∃ t, exec (.memNodeComplete 0 18 5) parkedGatherState = .next t ∧
    ∃ q ∈ (t.tile 0 18).reqs, q.id = 5 :=
  ⟨_, rfl, by decide⟩

end Sys2Proof.Claims

namespace Sys2Proof

open Sys2Proof.Claims

/-- Refutes O33: a parked request whose word's bit lets it go has not left its tile when it is a gather whose token waits behind
an earlier one. -/
theorem not_scratchpadResults : ¬ Obligations.ScratchpadResults := by
  rintro ⟨-, -, -, served, -⟩
  obtain ⟨t, run, left, -⟩ := served parkedGatherState 0 18 parkedGather rfl rfl rfl rfl (.inl ⟨rfl, rfl⟩)
  obtain ⟨u, run', q, mem, id⟩ := parkedGather_stays
  obtain rfl : u = t := by simpa using run'.symm.trans run
  exact left q mem id

end Sys2Proof

end

/-! ## Two gathers of one id (O34)

A request is written back by its id. Nothing in the statement keeps two requests of a tile from having one id; where they do, a
gather that has read its row is written over the other, whose places of the reorder area count as free then (R173). -/

section

namespace Sys2Proof.Machine

variable {s v : State} {p t : Nat} {r r' : Req}

/-! ### A gather that reads its last word -/

/-- The words of an access that translate, in no line with an error, go on. -/
theorem partGo_ok {k : AccKind} {go : State → List (Nat × Bool) → Nat → State} {segs : List (Nat × Bool × Nat)}
    (found : xlSegs s p t k (segments 10 r.va (reqLen r)) = (.ok segs, v)) (good : badSeg v segs = none) :
    partGo s p t r k go =
      go (freePart v ((segWords segs).length - r.prog)).2 (segWords segs) (freePart v ((segWords segs).length - r.prog)).1 := by
  unfold partGo
  rw [found]
  dsimp only
  rw [good, ite_self]

/-- A row is read: `r` was its request before its last words and `r'` is it after them, `tb` lines having moved. -/
def rowDone (s : State) (p t : Nat) (r r' : Req) (tb : Nat) : State :=
  coalDone (r'.row.zipIdx.foldl (fun s e => replayNote s p t r (r.va + BitVec.ofNat 64 (64 * e.2)) e.1 0) (partDone s p t r' tb))
    p t r.id

/-- A gather that reads its last word goes on to the reorder area. -/
theorem gathGo_lastWord {segs : List (Nat × Bool × Nat)} {ws : List (Nat × Bool)} (started : r.prog ≠ 0)
    (found : xlSegs s p t .read (segments 10 r.va (reqLen r)) = (.ok segs, v)) (good : badSeg v segs = none)
    (last : (segWords segs).length = r.prog + 1) (length : 16 * 2 ^ (fabFields r.word).pd.toNat = r.prog + 1)
    (rest : ((segWords segs).drop r.prog).take 1 = ws) (read : (fetchWords v p t r.id ws).1.foldl Req.addWord r = r')
    (all : r.prog < r'.prog) :
    gathGo s p t r = gathStage (rowDone (fetchWords v p t r.id ws).2.2 p t r r' (fetchWords v p t r.id ws).2.1) p t r' := by
  have part : freePart v ((segWords segs).length - r.prog) = (1, v) := by
    rw [last, Nat.add_sub_cancel_left]
    rfl
  unfold gathGo
  rw [if_neg started, length, if_pos (Nat.lt_succ_self _)]
  refine (partGo_ok found good).trans ?_
  rw [part]
  dsimp only
  rw [rest, read, if_neg (by omega)]
  rfl

/-! ### Its places -/

theorem lt_of_mem_takePlaces {d n x : Nat} {used : List Nat} (mem : x ∈ takePlaces d used n) : x < 512 := by
  obtain ⟨i, -, rfl⟩ := List.mem_map.1 (List.mem_filter.1 (List.mem_of_mem_take mem)).1
  exact Nat.mod_lt _ (by decide)

/-- A place can be had where none is held. -/
theorem takePlaces_one_ne_nil {d : Nat} : takePlaces d [] 1 ≠ [] := by
  simp [takePlaces]

/-- No word is staged in an fc in which the bank of a token's first word has made its access. -/
theorem stageWords_bankTaken {n : Nat}
    (taken : bitAt ((s.spad p (tileAt (tileRow t) 6)).usedIn (s.fc p)) 0 = true) : stageWords s p t r 0 n = (0, s) := by
  cases n with
  | zero => rfl
  | succ n =>
    have bank : (57344 + 16 * r.places.getD (0 / 16) 0 + 0 % 16) % 8 = 0 := by omega
    have busy : bankTake s p (tileAt (tileRow t) 6) (57344 + 16 * r.places.getD (0 / 16) 0 + 0 % 16) = (false, s) := by
      unfold bankTake
      dsimp only
      rw [bank, taken, if_pos rfl]
    unfold stageWords
    dsimp only
    rw [busy]

/-- A row that has no places yet takes free ones, and waits for its bank. -/
theorem gathStage_bankTaken (unplaced : r.places = []) (read : r.prog = 16 * 2 ^ (fabFields r.word).pd.toNat)
    (taken : bitAt ((s.spad p (tileAt (tileRow t) 6)).usedIn (s.fc p)) 0 = true) :
    gathStage s p t r = { s with free := s.free + 1 }.updReq p t r.id fun _ =>
      { r with places := takePlaces (0 + Config.delay s.free) (heldPlaces (s.tile p t)) (2 ^ (fabFields r.word).pd.toNat) } := by
  have staged (x : Req) (n : Nat) : stageWords { s with free := s.free + 1 } p t x 0 n = (0, { s with free := s.free + 1 }) :=
    stageWords_bankTaken taken
  unfold gathStage freeDelay
  simp only [unplaced, List.isEmpty_nil, if_true, read, Nat.sub_self, staged, Nat.add_zero]
  rw [if_pos (by have := Nat.two_pow_pos (fabFields r.word).pd.toNat; omega)]
  rfl

end Sys2Proof.Machine

namespace Sys2Proof.Claims

open Sys2Proof.Machine

/-! ### The counterexample -/

/-- A GATH of one line at address 0 that has its last word to read. -/
def lastWordGather : Req := { id := 5, slot := 0, word := fabPack 0x76 {}, fired := 0, due := 0, iter := 0, prog := 15 }

/-- A GATH of the same id that holds the whole reorder area. -/
def areaGather : Req := { lastWordGather with places := List.range 512 }

/-- Paddock 0 holds both at row 1 and column 0, and bank 0 of the row's S tile has made its access. Byte 0 of its memory is a table
whose first entry leads to the table itself and, at level 3, maps addresses from 0 on to themselves for reads. -/
def twoGathers : State :=
  { pads := [(0, { tiles := [(12, { reqs := [lastWordGather, areaGather] }), (18, { sp := { used := 1 } })] })]
    mem := [(0, 7)], parts := [(0, { bound := true })], roots := [(0, 0)] }

/-- The words of line 0. -/
def lineZero : List (Nat × Bool) := segWords [(0, false, 64)]

/-- The state after the translation of line 0. -/
def twoGathersWalked : State := (translate twoGathers 0 (some 12) 0 .read 64).2

theorem twoGathers_walk : xlSegs twoGathers 0 12 .read (segments 10 lastWordGather.va (reqLen lastWordGather)) =
    (.ok [(0, false, 64)], twoGathersWalked) := rfl

theorem twoGathers_goes : Goes twoGathers 0 12 lastWordGather := ⟨rfl, rfl, by decide +kernel, rfl⟩

theorem twoGathers_reaches : Reaches twoGathers twoGathersWalked 0 12 lastWordGather .read 64 lineZero :=
  ⟨⟨_, twoGathers_walk, rfl, by decide⟩, by decide, by decide⟩

theorem areaGather_places : areaGather.places = List.range 512 := by
  simp only [areaGather]

theorem twoGathers_notVia : viaStile twoGathers 0 lastWordGather.va = false := by decide +kernel

theorem twoGathers_first : nodBefore twoGathers 0 12 lastWordGather = [] := by decide +kernel

/-- The first gather with its row read. -/
def rowRead : Req := { lastWordGather with prog := 16, row := [0] }

/-- The state in which it has read its row and takes its places. -/
def twoGathersRead : State :=
  let read := fetchWords twoGathersWalked 0 12 lastWordGather.id [(60, false)]
  rowDone read.2.2 0 12 lastWordGather rowRead read.2.1

theorem twoGathers_reads : gathGo twoGathers 0 12 lastWordGather = gathStage twoGathersRead 0 12 rowRead :=
  gathGo_lastWord (by decide) twoGathers_walk (by decide +kernel) (by decide) (by decide) (by decide) (by decide +kernel)
    (by decide)

/-- It now stands in the tile twice, and no place counts as held. -/
theorem twoGathersRead_reqs : (twoGathersRead.tile 0 12).reqs = [rowRead, rowRead] := by decide +kernel

theorem twoGathersRead_bankTaken :
    bitAt ((twoGathersRead.spad 0 (tileAt (tileRow 12) 6)).usedIn (twoGathersRead.fc 0)) 0 = true := by decide +kernel

/-- The first gather with the place it takes. -/
def rowPlaced : Req := { rowRead with places := takePlaces (0 + Config.delay twoGathersRead.free) [] 1 }

theorem rowPlaced_places : rowPlaced.places = takePlaces (0 + Config.delay twoGathersRead.free) [] 1 := by
  simp only [rowPlaced]

theorem twoGathers_runs : exec (.memNodeComplete 0 12 5) twoGathers = .next (reqGo twoGathers 0 12 lastWordGather) := rfl

theorem twoGathers_goesOn : ∃ t, exec (.memNodeComplete 0 12 5) twoGathers = .next t ∧ (t.tile 0 12).req 5 = some rowPlaced := by
  have held : heldPlaces (twoGathersRead.tile 0 12) = [] := by
    unfold heldPlaces
    rw [twoGathersRead_reqs]
    rfl
  have go : reqGo twoGathers 0 12 lastWordGather = gathStage twoGathersRead 0 12 rowRead := by
    rw [← twoGathers_reads]
    have opc : (fabOpc lastWordGather.word).toNat = 0x76 := by decide
    unfold reqGo globGo
    simp [opc, twoGathers_notVia, twoGathers_first]
  refine ⟨_, twoGathers_runs, ?_⟩
  rw [go, gathStage_bankTaken rfl (by decide) twoGathersRead_bankTaken, held]
  unfold State.updReq State.updTile
  rw [State.tile_setTile_same]
  unfold Tile.req
  dsimp only
  have reqs : (State.tile { twoGathersRead with free := twoGathersRead.free + 1 } 0 12).reqs = [rowRead, rowRead] :=
    twoGathersRead_reqs
  rw [reqs]
  rfl

end Sys2Proof.Claims

namespace Sys2Proof

open Sys2Proof.Claims Sys2Proof.Machine

/-- Refutes O34: of two gathers with one id, the one that has read its row takes a place that the other holds. -/
theorem not_globalResults : ¬ Obligations.GlobalResults := by
  intro h
  obtain ⟨-, -, -, -, -, gath, -⟩ :=
    h twoGathers twoGathersWalked 0 12 lastWordGather twoGathers_goes twoGathers_notVia twoGathers_first (by decide) (by decide)
  obtain ⟨t, m, y, row, res, run, pos, bound, found, -, -, -, -, -, -, whole, -⟩ :=
    gath lineZero (by decide) (by decide) (by decide) twoGathers_reaches (by decide) rfl (by decide +kernel)
  obtain ⟨u, run', placed⟩ := twoGathers_goesOn
  obtain rfl : u = t := by simpa using run'.symm.trans run
  obtain rfl : rowPlaced = y := by simpa using placed.symm.trans found
  have last : m = 1 := by
    change 15 + m ≤ 16 at bound
    omega
  obtain ⟨-, free⟩ := (whole (by rw [last]; rfl)).2 rfl
  rw [rowPlaced_places] at free
  obtain ⟨x, mem⟩ := List.exists_mem_of_ne_nil _ takePlaces_one_ne_nil
  have inArea : x ∈ areaGather.places := areaGather_places ▸ List.mem_range.2 (lt_of_mem_takePlaces mem)
  exact (free x mem).2 areaGather (.tail _ (.head _)) nofun inArea

end Sys2Proof

end

/-! ## Waiting requests (O35)

A request that completes with one token leaves its tile: it writes its tile, gives its token and charges its region. What it waits
for is said by its tile's requests alone. -/

section

namespace Sys2Proof.Machine

open Claims

variable {s t u : State} {p k n : Nat} {r : Req} {f : FabF}

/-! ### Deferred results leave (R165) -/

theorem tokensOnly_drainGo {l : List Deferred} {blk : BitVec 4} : TokensOnly s (drainGo p k l blk s).2 := by
  induction l generalizing blk s with
  | nil => exact .refl s
  | cons e es ih =>
    unfold drainGo
    dsimp only
    refine .trans ?_ ih
    split
    · exact .foldl fun _ _ => tokensOnly_emitOut
    · exact .refl s

/-- Tokens given to a request's entries move tokens, and then write the tile's queue; requests whose last token has left go. -/
theorem giveToks_stages (id : Nat) (ks : List Tok) :
    ∃ u q, TokensOnly s u ∧ giveToks s p k id ks = u.updTile p k fun tl => ({ tl with outq := q } : Tile).gathDone := by
  have queued : TokensOnly s (s.updTile p k fun tl => { tl with outq := giveGo id tl.outq ks }) := tokensOnly_setTile rfl
  exact ⟨_, _, queued.trans tokensOnly_drainGo, rfl⟩

theorem mem_gathDone {tl : Tile} {q : Req} (mem : q ∈ tl.gathDone.reqs) : q ∈ tl.reqs := (List.mem_filter.1 mem).1

/-! ### A request completes (R165) -/

/-- What one request's completion leaves of its tile: its L1 and the requests of other ids. -/
structure Completed (s t : State) (p k : Nat) (r : Req) : Prop where
  fabric : FabricOnly s t
  left : Left t p k r
  lines : (t.tile p k).et.lines = (s.tile p k).et.lines

theorem tile_chargeRegion {ib tb h j : Nat} : (chargeRegion s p n ib tb).tile h j = s.tile h j := (leaves_chargeRegion id).tile h j

/-- A tile that drops a request is written, tokens leave and the region is charged. -/
theorem completed_of_tile {fr rid ib tb : Nat} {v : Tile} {ks : List Tok} (reqs : v.reqs = (dropReq (s.tile p k) r false).reqs)
    (lines : v.et.lines = (s.tile p k).et.lines) : Completed s
      (markBusy (chargeRegion (giveToks (State.setTile { s with free := fr } p k v) p k r.id ks) p rid ib tb) p rid) p k r := by
  obtain ⟨u, q, moved, given⟩ := giveToks_stages (s := State.setTile { s with free := fr } p k v) (p := p) (k := k) r.id ks
  have kept := moved.leaves.tile p k
  rw [State.tile_setTile_same] at kept
  simp only [Tile.kept, Prod.mk.injEq] at kept
  obtain ⟨-, -, -, et, tileReqs⟩ := kept
  have own : (markBusy (chargeRegion (giveToks (State.setTile { s with free := fr } p k v) p k r.id ks) p rid ib tb) p rid).tile
      p k = ({ u.tile p k with outq := q } : Tile).gathDone := by
    rw [tile_markBusy, tile_chargeRegion, given, State.updTile, State.tile_setTile_same]
  refine ⟨?_, fun x mem same => ?_, ?_⟩
  · refine .trans (.trans (.trans (prepares_free fr).fabric (fabricOnly_setTile ..)) (moved.leaves.fabric.trans ?_))
      ((leaves_chargeRegion Tile.kept).fabric.trans tokensOnly_markBusy.leaves.fabric)
    rw [given]
    exact fabricOnly_setTile ..
  · rw [own] at mem
    have stays := mem_gathDone mem
    rw [show ({ u.tile p k with outq := q } : Tile).reqs = v.reqs from tileReqs, reqs] at stays
    simpa [same] using (List.mem_filter.1 stays).2
  · rw [own, ← lines, ← et]
    rfl

theorem memFinish_completed {writes flag : Bool} {res : Option (BitVec 32)} {tb : Nat} {toks : List Tok}
    (one : toks.length ≤ 1) (plain : (fabOpc r.word == 0x76) = false) :
    Completed s (memFinish s p k r writes res flag tb toks) p k r := by
  have goes : (decide (1 < toks.length) || fabOpc r.word == 0x76) = false := by
    rw [plain, Bool.or_false, decide_eq_false (Nat.not_lt.2 one)]
  unfold memFinish
  rw [goes]
  cases res with
  | some v =>
    refine completed_of_tile (fr := s.free) rfl ?_
    dsimp only
    split <;> rfl
  | none =>
    obtain ⟨nz, fr, taken⟩ := freeNz_eq (f := fabFields r.word) (s := s)
    dsimp only
    rw [taken]
    refine completed_of_tile (fr := fr) rfl ?_
    dsimp only
    split <;> rfl

theorem finishTok_completed {flag : Bool} {tb : Nat} (plain : (fabOpc r.word == 0x76) = false) :
    Completed s (finishTok s p k r flag tb) p k r := memFinish_completed (Nat.le_refl 1) plain

/-! ### What a prefetch and a fence leave of memory (R151, R158, R175, R177) -/

theorem sameBytes_trans (a : SameBytes s t) (b : SameBytes t u) : SameBytes s u := fun h x => (b h x).trans (a h x)

theorem fixWalk_bytes {a : BitVec 16} {va : BitVec 64} : SameBytes s (s.fixWalk a va) := by
  obtain ⟨l, walked⟩ := fixWalk_frame (s := s) (va := va) a
  rw [walked]
  exact (fixLines_reads l).byte

/-- A translation through a micro-TLB, too, writes no byte. -/
theorem translate_bytes {tile : Option Nat} {va : BitVec 64} {kind : AccKind} :
    SameBytes s (translate s p tile va kind n).2 := by
  unfold translate
  split
  · exact fun _ _ => rfl
  dsimp only
  split
  · split
    · exact fun _ _ => rfl
    · exact fun h x => fixWalk_bytes (s := { s with free := s.free + 1 }) h x
  · split
    · exact fixWalk_bytes
    · cases tile <;> exact fun h x => fixWalk_bytes h x

theorem l1Put_bytes {key : Nat} {v : BitVec 512} : SameBytes s (l1Put s p k key v) := by
  unfold l1Put
  extract_lets l1 set mates old put
  intro h x
  change put.rdByte h x = s.rdByte h x
  by_cases room : mates.length < 8
  · rw [show put = s.updL1 p k key fun l => Tbl.set l key v from if_pos room]
    rfl
  · rw [show put = _ from if_neg room]
    rfl

theorem l1Store_bytes {pa : Nat} {host : Bool} {bs : List (BitVec 8)} : SameBytes s (l1Store s p k pa host bs) := by
  unfold l1Store
  dsimp only
  split
  · exact fun _ _ => rfl
  · exact fun _ _ => rfl

theorem l1Read_bytes {pa : Nat} {host : Bool} : SameBytes s (l1Read s p k pa host).2.2 := by
  unfold l1Read
  dsimp only
  split
  · exact sameBytes_trans fixLine_reads.byte l1Put_bytes
  · split
    · exact fun _ _ => rfl
    · refine sameBytes_trans (fun h x => ?_) l1Store_bytes
      exact (fixLine_reads (s := (freeChoice (l1Use s p k (lineKey pa host))).2)).byte h x

/-- A prefetch completes; before that it may translate and fill a line. -/
theorem prefGo_completed (plain : (fabOpc r.word == 0x76) = false) :
    ∃ u, SameBytes s u ∧ Completed u (prefGo s p k r) p k r := by
  unfold prefGo
  dsimp only
  split
  · exact ⟨s, fun _ _ => rfl, finishTok_completed plain⟩
  have walked : SameBytes s (translate s p (some k) r.va .pref).2 := translate_bytes
  split
  · rename_i c u e
    rw [e] at walked
    exact ⟨u, walked, finishTok_completed plain⟩
  · rename_i pa host u e
    rw [e] at walked
    split
    · exact ⟨{ u with free := u.free + 1 }, walked, finishTok_completed plain⟩
    · exact ⟨_, sameBytes_trans walked fun h x => l1Read_bytes (s := { u with free := u.free + 1 }) h x,
        finishTok_completed plain⟩

/-- The L1 lines of a tile that a fence of a scope invalidates. -/
def fenceLines (s : State) (p k scope : Nat) : State :=
  if tileType k != .e then s
  else if !(s.pad p).fused.isEmpty then (if 3 ≤ scope then clearL1 s p else s)
  else if 2 ≤ scope then s.updTile p k fun tl => { tl with et := { tl.et with lines := [] } }
  else s

theorem fenceLines_bytes {scope : Nat} : SameBytes s (fenceLines s p k scope) := by
  intro h x
  unfold fenceLines
  split
  · rfl
  · split
    · split
      · rfl
      · rfl
    · split
      · rfl
      · rfl

theorem fenceLines_lines {scope : Nat} (wide : 2 ≤ scope) (e : tileType k = .e) (fused : (s.pad p).fused = []) :
    ((fenceLines s p k scope).tile p k).et.lines = [] := by
  unfold fenceLines
  rw [e, fused, if_neg (by decide), if_neg (by decide), if_pos wide, State.updTile, State.tile_setTile_same]

/-- A fence whose element's earlier requests are performed completes; before that it invalidates L1 lines by its scope. -/
theorem fenceGo_completed (plain : (fabOpc r.word == 0x76) = false)
    (alone : ((memReqs (s.tile p k)).any fun q => decide (q.id < r.id) && q.st != .performed) = false) :
    ∃ u, SameBytes s u ∧ Completed u (fenceGo s p k r) p k r ∧
      (u.tile p k).et.lines = ((fenceLines s p k (fabFields r.word).pd.toNat).tile p k).et.lines := by
  unfold fenceGo
  dsimp only
  rw [alone, if_neg Bool.false_ne_true]
  by_cases host : (fabFields r.word).pd.toNat = 5
  · rw [if_pos host]
    refine ⟨_, ?_, finishTok_completed plain, ?_⟩
    · exact fenceLines_bytes
    · rw [State.updTile, State.tile_setTile_same]
      rfl
  · rw [if_neg host]
    exact ⟨_, fenceLines_bytes, finishTok_completed plain, rfl⟩

end Sys2Proof.Machine

namespace Sys2Proof.Claims

open Sys2Proof.Machine

/-! ### Memory requests and engine requests that go on -/

theorem exec_of_goes {s : State} {p : Fin 32} {k : Fin 144} {r : Req} (goes : Goes s p k r)
    (mem : isMemOpc (fabOpc r.word).toNat = true) : exec (.memNodeComplete p k r.id) s = .next (reqGo s p k r) := by
  change execMemNodeComplete p k r.id s = _
  unfold execMemNodeComplete
  rw [goes.found]
  exact if_pos ⟨mem, goes.going, goes.due⟩

theorem exec_of_engReqDue {s : State} {p : Fin 32} {k : Fin 144} {r : Req} (found : (s.tile p k).req r.id = some r)
    (other : isMemOpc (fabOpc r.word).toNat = false) (due : engReqDue s p r = true) :
    exec (.memNodeComplete p k r.id) s = .next (engReqGo s p k r) := by
  change execMemNodeComplete p k r.id s = _
  unfold execMemNodeComplete
  rw [found]
  dsimp only
  rw [if_neg (by simp [other]), if_pos due]

theorem engReqDue_tagset {s : State} {p : Fin 32} {k : Fin 144} {r : Req} (goes : Goes s p k r)
    (opc : (fabOpc r.word).toNat = 0xE4) : engReqDue s p r = true := by
  have due : r.due ≤ s.fc p := by simpa [reqDue, opc] using goes.due
  simp [engReqDue, opc, goes.going, due]

theorem engReqDue_msend {s : State} {p : Fin 32} {r : Req} (opc : fabOpc r.word = 0xE3) (st : r.st = .performed) :
    engReqDue s p r = true := by
  simp [engReqDue, opc, st]

variable {s t : State} {p : Fin 32} {k : Fin 144} {r : Req}

/-- An earlier memory request of the element is not performed. -/
def memPending (s : State) (p k : Nat) (r : Req) : Bool :=
  (memReqs (s.tile p k)).any fun q => decide (q.id < r.id) && q.st != .performed

/-- An earlier CHAPP of the element is not performed. -/
def chappPending (s : State) (p k : Nat) (r : Req) : Bool :=
  (s.tile p k).reqs.any fun q => fabOpc q.word == 0xE0 && decide (q.id < r.id) && q.st != .performed

/-- What a TAGSET waits for is one of the two. -/
theorem orderedReqs_pending : ((orderedReqs (s.tile p k)).any fun q => decide (q.id < r.id) && q.st != .performed) =
    (memPending s p k r || chappPending s p k r) := by
  rw [Bool.eq_iff_iff]
  simp only [orderedReqs, memPending, memReqs, chappPending, List.any_filter, List.any_eq_true, Bool.or_eq_true, Bool.and_eq_true,
    and_assoc]
  constructor
  · rintro ⟨q, mem, isMem | isChapp, open_⟩
    · exact .inl ⟨q, mem, isMem, open_⟩
    · exact .inr ⟨q, mem, isChapp, open_⟩
  · rintro (⟨q, mem, isMem, open_⟩ | ⟨q, mem, isChapp, open_⟩)
    · exact ⟨q, mem, .inl isMem, open_⟩
    · exact ⟨q, mem, .inr isChapp, open_⟩

theorem not_gather {opc : Nat} (at_ : (fabOpc r.word).toNat = opc) (ne : opc ≠ 0x76) : (fabOpc r.word == 0x76) = false := by
  rw [beq_eq_false_iff_ne]
  rintro same
  exact ne (at_.symm.trans (by rw [same]; rfl))

theorem reqGo_fence (opc : (fabOpc r.word).toNat = 0x79) : reqGo s p k r = fenceGo s p k r := by
  simp [reqGo, opc]

theorem reqGo_pref (opc : (fabOpc r.word).toNat = 0x7A) : reqGo s p k r = prefGo s p k r := by
  simp [reqGo, opc]

/-- A tag set is set, and no byte is written. -/
theorem setTag_sets {q n : Nat} (low : n < 64) :
    ((setTag s p q n).ctx p q).tags.getLsbD n = true ∧ SameBytes s (setTag s p q n) := by
  obtain ⟨m, l, w, frame⟩ := setTag_frame (s := s) (p := p) (q := q) (n := n)
  have own := getLsbD_tags (s.ctx p q).tags (BitVec.ofNat 6 n)
  rw [BitVec.toNat_ofNat, Nat.mod_eq_of_lt low] at own
  rw [frame]
  refine ⟨?_, fun _ _ => rfl⟩
  change ((s.setCtx p q _).ctx p q).tags.getLsbD n = true
  rw [State.ctx_setCtx_same]
  exact own

/-- A TAGSET goes on. -/
theorem engReqGo_tagset (opc : (fabOpc r.word).toNat = 0xE4)
    (alone : ((orderedReqs (s.tile p k)).any fun q => decide (q.id < r.id) && q.st != .performed) = false) :
    engReqGo s p k r = finishTok (setTag s p (firOf s p k).reg.owner (r.b.toNat % 64)) p k r false 0 := by
  have tag : fld r.b 0 6 = r.b.toNat % 64 := rfl
  unfold engReqGo
  dsimp only
  rw [opc, if_neg (by decide), if_pos rfl, alone, if_neg Bool.false_ne_true, tag]
  rfl

/-- A FENCE waits for its element's earlier memory requests. -/
theorem fence_waits (goes : Goes s p k r) (fence : (fabOpc r.word).toNat = 0x79) (waits : memPending s p k r = true) :
    exec (.memNodeComplete p k r.id) s = .next s := by
  rw [exec_of_goes goes (by rw [fence]; rfl), reqGo_fence fence]
  unfold fenceGo
  exact congrArg _ (if_pos waits)

theorem fence_completes (goes : Goes s p k r) (fence : (fabOpc r.word).toNat = 0x79) (alone : memPending s p k r = false) :
    ∃ t, exec (.memNodeComplete p k r.id) s = .next t ∧ Left t p k r ∧ SameBytes s t ∧
      (2 ≤ (fabFields r.word).pd.toNat → tileType k = .e → (s.pad p).fused = [] → (t.tile p k).et.lines = []) := by
  obtain ⟨u, bytes, done, lines⟩ := fenceGo_completed (p := p) (k := k) (not_gather fence (by decide)) alone
  refine ⟨_, exec_of_goes goes (by rw [fence]; rfl), ?_⟩
  rw [reqGo_fence fence]
  exact ⟨done.left, sameBytes_trans bytes done.fabric.byte, fun wide e fused =>
    done.lines.trans (lines.trans (fenceLines_lines wide e fused))⟩

theorem pref_completes (goes : Goes s p k r) (pref : (fabOpc r.word).toNat = 0x7A) :
    ∃ t, exec (.memNodeComplete p k r.id) s = .next t ∧ Left t p k r ∧ SameBytes s t := by
  obtain ⟨u, bytes, done⟩ := prefGo_completed (s := s) (p := p) (k := k) (not_gather pref (by decide))
  refine ⟨_, exec_of_goes goes (by rw [pref]; rfl), ?_⟩
  rw [reqGo_pref pref]
  exact ⟨done.left, sameBytes_trans bytes done.fabric.byte⟩

/-- A TAGSET waits for its element's earlier memory requests and CHAPPs. -/
theorem tagset_waits (goes : Goes s p k r) (tagset : (fabOpc r.word).toNat = 0xE4)
    (waits : memPending s p k r = true ∨ chappPending s p k r = true) : exec (.memNodeComplete p k r.id) s = .next s := by
  rw [exec_of_engReqDue goes.found (by rw [tagset]; rfl) (engReqDue_tagset goes tagset)]
  unfold engReqGo
  dsimp only
  rw [tagset, if_neg (by decide), if_pos rfl, orderedReqs_pending, if_pos (by simpa using waits)]

theorem tagset_completes (goes : Goes s p k r) (tagset : (fabOpc r.word).toNat = 0xE4) (noMem : memPending s p k r = false)
    (noChapp : chappPending s p k r = false) : ∃ t, exec (.memNodeComplete p k r.id) s = .next t ∧ Left t p k r ∧
      (t.ctx p (firOf s p k).reg.owner).tags.getLsbD (r.b.toNat % 64) = true ∧ SameBytes s t := by
  have alone : ((orderedReqs (s.tile p k)).any fun q => decide (q.id < r.id) && q.st != .performed) = false := by
    rw [orderedReqs_pending, noMem, noChapp, Bool.or_false]
  obtain ⟨set, bytes⟩ := setTag_sets (s := s) (p := p) (q := (firOf s p k).reg.owner) (Nat.mod_lt r.b.toNat (by decide : 0 < 64))
  have done := finishTok_completed (s := setTag s p (firOf s p k).reg.owner (r.b.toNat % 64)) (p := p) (k := k) (flag := false)
    (tb := 0) (not_gather tagset (by decide))
  refine ⟨_, exec_of_engReqDue goes.found (by rw [tagset]; rfl) (engReqDue_tagset goes tagset), ?_⟩
  rw [engReqGo_tagset tagset alone]
  exact ⟨done.left, by rw [done.fabric.ctx]; exact set, sameBytes_trans bytes done.fabric.byte⟩

/-- An MSEND whose message has left completes. -/
theorem msendCompletes (found : (s.tile p k).req r.id = some r) (opc : fabOpc r.word = 0xE3) (st : r.st = .performed)
    (left : r.flag = true) : ∃ t, exec (.memNodeComplete p k r.id) s = .next t ∧ Left t p k r ∧ FabricOnly s t := by
  have go : engReqGo s p k r = finishTok s p k r (r.b.getLsbD 11) 0 := by
    unfold engReqGo
    simp [opc, left]
  have done := finishTok_completed (s := s) (p := p) (k := k) (flag := r.b.getLsbD 11) (tb := 0)
    (not_gather (congrArg BitVec.toNat opc) (by decide))
  refine ⟨_, exec_of_engReqDue found (by rw [opc]; rfl) (engReqDue_msend opc st), ?_⟩
  rw [go]
  exact ⟨done.left, done.fabric⟩

/-! ### Requests parked on faults (R159) -/

/-- A request that walks again. -/
def retried (fc : Nat) (r : Req) : Req :=
  match r.st with
  | .parkedFault _ => { r with st := .going, due := fc, fired := fc }
  | _ => r

theorem retried_id {fc : Nat} : (retried fc r).id = r.id := by
  unfold retried
  split <;> rfl

theorem retried_keeps {fc : Nat} : ((retried fc r).word, (retried fc r).slot, (retried fc r).va, (retried fc r).a) =
    (r.word, r.slot, r.va, r.a) := by
  unfold retried
  split <;> rfl

theorem retried_of_fault {fc : Nat} {c : BitVec 8} (st : r.st = .parkedFault c) :
    (retried fc r).st = .going ∧ (retried fc r).due = fc := by
  unfold retried
  rw [st]
  exact ⟨rfl, rfl⟩

theorem retried_of_other {fc : Nat} (other : ∀ c, r.st ≠ .parkedFault c) : retried fc r = r := by
  unfold retried
  split
  · rename_i c st
    exact absurd st (other c)
  · rfl

theorem parkedRequestsRetried (s : State) (p : Fin 32) (k : Fin 144) :
    ∃ t, exec (.parkedRequestRetry p k) s = .next t ∧ (t.tile p k).et.reported = false ∧
      (∀ n r, (s.tile p k).req n = some r →
        ∃ y, (t.tile p k).req n = some y ∧ (y.word, y.slot, y.va, y.a) = (r.word, r.slot, r.va, r.a) ∧
          (∀ c, r.st = .parkedFault c → y.st = .going ∧ y.due = s.fc p) ∧ ((∀ c, r.st ≠ .parkedFault c) → y = r)) ∧
      FabricOnly s t := by
  refine ⟨_, rfl, ?_, fun n r found => ⟨retried (s.fc p) r, ?_, retried_keeps, fun c st => retried_of_fault st, retried_of_other⟩,
    fabricOnly_setTile ..⟩
  · rw [State.updTile, State.tile_setTile_same]
  · rw [State.updTile, State.tile_setTile_same]
    have same : ((fun q : Req => q.id == n) ∘ retried (s.fc p)) = fun q => q.id == n := funext fun q => by
      rw [Function.comp_apply, retried_id]
    change List.find? (fun q => q.id == n) ((s.tile p k).reqs.map (retried (s.fc p))) = _
    rw [List.find?_map, same, show (s.tile p k).reqs.find? (fun q => q.id == n) = some r from found]
    rfl

end Sys2Proof.Claims

namespace Sys2Proof

open Sys2Proof.Claims

/-- Settles O35: each request that may go on completes with one token (`Completed`), after what its own operation does. -/
theorem waitingRequests : Obligations.WaitingRequests :=
  ⟨fun _ _ _ _ goes => ⟨fence_waits goes, fence_completes goes, pref_completes goes, tagset_waits goes, tagset_completes goes⟩,
    fun _ _ _ _ found opc st left => msendCompletes found opc st left,
    parkedRequestsRetried⟩

end Sys2Proof

end

/-! ## Mailbox commands about spaces and control (O51)

A command of a module that is up writes its words, runs its body and answers (`command_up`); the words are all that its body finds
changed (`boxWords`). -/

section

namespace Sys2Proof.Machine.Tbl

variable {α β : Type} {t : Tbl α} {k j : Nat}

theorem find?_del_same : find? (del t k) k = none := by
  induction t with
  | nil => rfl
  | cons e t ih =>
    unfold del
    split
    · exact ih
    · rename_i ne
      simp [find?, ne, ih]

theorem find?_del_other (h : j ≠ k) : find? (del t k) j = find? t j := by
  induction t with
  | nil => rfl
  | cons e t ih =>
    unfold del
    split
    · rename_i same
      simp [find?, same, Ne.symm h, ih]
    · simp [find?, ih]

/-- A table whose values are all mapped. -/
theorem get_map {d : α} {e : β} {f : α → β} (h : f d = e) : get e (t.map fun x => (x.1, f x.2)) k = f (get d t k) := by
  induction t with
  | nil => exact h.symm
  | cons x t ih =>
    simp only [List.map_cons, get, ih]
    split <;> rfl

end Sys2Proof.Machine.Tbl

namespace Sys2Proof.Claims

open Sys2Proof.Machine

variable {s u : State} {m : Mbox} {code st d n : Nat}

/-! ### A command runs (R376) -/

theorem command_up {i : Instr} {body : State → Nat × Nat × State} (up : Up s) (ran : body (boxWords s code m) = (st, d, u)) :
    command s code m i body = .next (boxStatus u code st d) := by
  obtain ⟨power, stage, safe⟩ := up
  have words : (boxWords s code m).nv.safe = false ∧ (boxWords s code m).boot.stage.toNat = 3 := ⟨safe, congrArg BitVec.toNat stage⟩
  unfold command
  dsimp only
  rw [power, words.1, words.2, ran]
  simp

/-- A command answers the status of its body. -/
theorem command_answers {i : Instr} {body : State → Nat × Nat × State} {P : State → Prop} (up : Up s)
    (ran : body (boxWords s code m) = (st, d, u)) (left : P (boxStatus u code st d)) :
    ∃ t, command s code m i body = .next t ∧ Status t code st d ∧ P t := ⟨_, command_up up ran, rfl, left⟩

/-- The window is where the words leave it. -/
theorem inWindow_boxWords {a : Nat} : inWindow (boxWords s code m) a n = inWindow s a n := by
  unfold inWindow boxWords
  dsimp only
  split
  · rfl
  · rfl

theorem ring_boxWords : (boxWords s code m).box.ring = s.box.ring := by
  unfold boxWords
  dsimp only
  split
  · rfl
  · rfl

theorem rdNat_boxWords {a : Nat} : (boxWords s code m).rdNat true a n = s.rdNat true a n := rdNat_of_rdByte fun _ => rfl

theorem rdBytes_boxWords {a : Nat} : (boxWords s code m).rdBytes true a n = s.rdBytes true a n :=
  State.rdBytes_congr true a n fun _ => rfl

/-! ### Address spaces, partitions and windows (R158, R240, R376, R379) -/

theorem setroot_sets (up : Up s) : ∃ t, exec (.setroot m) s = .next t ∧ Status t 1 0 0 ∧ BoxOnly s t ∧
    Tbl.find? t.roots (m.w1.toNat % 65536) = some m.w2 ∧
    ∀ a, a ≠ m.w1.toNat % 65536 → Tbl.find? t.roots a = Tbl.find? s.roots a := by
  change ∃ t, execSetroot m s = .next t ∧ _
  unfold execSetroot
  refine command_answers up rfl ?_
  exact ⟨⟨rfl, rfl, rfl, rfl, rfl, rfl⟩, Tbl.find?_set_same, fun _ ne => Tbl.find?_set_other ne⟩

theorem bindpart_binds (up : Up s) (named : m.w1.toNat < 32) :
    ∃ t, exec (.bindpart m) s = .next t ∧ Status t 2 0 0 ∧ BoxOnly s t ∧
      t.part m.w1.toNat = { s.part m.w1.toNat with
        asid := m.w2.setWidth 16, pasid := m.w3.setWidth 20, link := m.w4.getLsbD 0, bound := true } ∧
      ∀ k, k ≠ m.w1.toNat → t.part k = s.part k := by
  change ∃ t, execBindpart m s = .next t ∧ _
  unfold execBindpart
  refine command_answers up (if_neg (Nat.not_le.2 named)) ?_
  exact ⟨⟨rfl, rfl, rfl, rfl, rfl, rfl⟩, Tbl.get_set_same, fun _ ne => Tbl.get_set_other ne⟩

/-- A paddock whose TLBs lose the entries that are hit. -/
def invalidated (hit : TlbEnt → Bool) (x : Paddock) : Paddock :=
  { x with
    tlb := x.tlb.filter fun t => !hit t
    tiles := x.tiles.map fun f => (f.1, { f.2 with et := { f.2.et with tlb := f.2.et.tlb.filter fun t => !hit t } }) }

theorem pad_invalidate {hit : TlbEnt → Bool} (h : Nat) : (invalidate s hit).pad h = invalidated hit (s.pad h) :=
  Tbl.get_map (f := invalidated hit) rfl

theorem ctx_invalidate {hit : TlbEnt → Bool} (h q : Nat) : (invalidate s hit).ctx h q = s.ctx h q := by
  rw [State.ctx, pad_invalidate]
  rfl

theorem inval_invalidates (up : Up s) : ∃ t, exec (.inval m) s = .next t ∧ Status t 3 0 0 ∧ SameBytes s t ∧
    (∀ h k, t.ctx h k = s.ctx h k) ∧
    ∀ h e, e ∈ (t.pad h).tlb ↔ e ∈ (s.pad h).tlb ∧ ¬ (e.asid = m.w1.setWidth 16 ∧
      e.base.toNat < m.w2.toNat % 2 ^ 57 + m.w3.toNat ∧ m.w2.toNat % 2 ^ 57 < e.base.toNat + e.size) := by
  change ∃ t, execInval m s = .next t ∧ _
  unfold execInval
  refine command_answers up rfl ?_
  refine ⟨fun _ _ => rfl, fun h k => ctx_invalidate (s := boxWords s 3 m) h k, fun h e => ?_⟩
  rw [show ∀ v : State, (boxStatus v 3 0 0).pad h = v.pad h from fun _ => rfl, pad_invalidate, invalidated, List.mem_filter]
  simp only [Bool.not_eq_true', Bool.and_eq_false_iff, beq_eq_false_iff_ne, decide_eq_false_iff_not, not_and_or]
  tauto

theorem hostwin_sets (up : Up s) (named : m.w1.toNat < 32) (index : m.w2.toNat ≤ 15) :
    ∃ t, exec (.hostwin m) s = .next t ∧ Status t 4 0 0 ∧ BoxOnly s t ∧
      Tbl.find? (t.part m.w1.toNat).wins m.w2.toNat =
        (if m.w4 = 0 then none else some { base := m.w3, size := m.w4, write := m.w5.getLsbD 0 }) ∧
      ∀ k, k ≠ m.w2.toNat → Tbl.find? (t.part m.w1.toNat).wins k = Tbl.find? (s.part m.w1.toNat).wins k := by
  change ∃ t, execHostwin m s = .next t ∧ _
  unfold execHostwin
  refine command_answers up (if_neg (by omega)) ?_
  refine ⟨⟨rfl, rfl, rfl, rfl, rfl, rfl⟩, ?_⟩
  have own (f : Partition → Partition) : (boxStatus ((boxWords s 4 m).updPart m.w1.toNat f) 4 0 0).part m.w1.toNat =
      f (s.part m.w1.toNat) := Tbl.get_set_same
  rw [own]
  dsimp only
  split
  · exact ⟨Tbl.find?_del_same, fun _ ne => Tbl.find?_del_other ne⟩
  · exact ⟨Tbl.find?_set_same, fun _ ne => Tbl.find?_set_other ne⟩

theorem group_forms (up : Up s) (reach : inWindow s m.w3.toNat (8 * m.w2.toNat) = true) :
    ∃ t, exec (.group m) s = .next t ∧ Status t 5 0 0 ∧ BoxOnly s t ∧ Tbl.find? t.groups (m.w1.toNat % 2 ^ 32) =
      some { n := m.w2.toNat, members := (List.range m.w2.toNat).map fun i => s.rdNat true (m.w3.toNat + 8 * i) 8 } := by
  change ∃ t, execGroup m s = .next t ∧ _
  unfold execGroup
  refine command_answers up (if_neg (by rw [inWindow_boxWords, reach]; decide)) ?_
  refine ⟨⟨rfl, rfl, rfl, rfl, rfl, rfl⟩, ?_⟩
  simp only [rdNat_boxWords]
  exact Tbl.find?_set_same

theorem linkwin_sets (up : Up s) (named : m.w1.toNat < 32) : ∃ t, exec (.linkwin m) s = .next t ∧ Status t 6 0 0 ∧ BoxOnly s t ∧
    ∀ w : LinkWin, w ∈ t.linkWins ↔
      w = { part := m.w1.toNat, srcMod := m.w2.setWidth 20, srcPart := m.w3.toNat % 32, asid := m.w4.setWidth 16 } ∨
      (w ∈ s.linkWins ∧ (w.srcMod ≠ m.w2.setWidth 20 ∨ w.srcPart ≠ m.w3.toNat % 32)) := by
  change ∃ t, execLinkwin m s = .next t ∧ _
  unfold execLinkwin
  refine command_answers up (if_neg (Nat.not_le.2 named)) ?_
  refine ⟨⟨rfl, rfl, rfl, rfl, rfl, rfl⟩, fun w => ?_⟩
  have from_ : fld m.w3 0 5 = m.w3.toNat % 32 := rfl
  change w ∈ s.linkWins.filter _ ++ [_] ↔ _
  rw [List.mem_append, List.mem_filter, List.mem_singleton, or_comm]
  simp [from_, -not_and]

/-! ### Commands refused -/

theorem bindpart_refused (up : Up s) (unnamed : 32 ≤ m.w1.toNat) :
    ∃ t, exec (.bindpart m) s = .next t ∧ Status t 2 1 0 ∧ BoxOnly s t ∧ t.parts = s.parts ∧ t.linkWins = s.linkWins := by
  change ∃ t, execBindpart m s = .next t ∧ _
  unfold execBindpart
  refine command_answers up (if_pos unnamed) ?_
  exact ⟨⟨rfl, rfl, rfl, rfl, rfl, rfl⟩, rfl, rfl⟩

theorem linkwin_refused (up : Up s) (unnamed : 32 ≤ m.w1.toNat) :
    ∃ t, exec (.linkwin m) s = .next t ∧ Status t 6 1 0 ∧ BoxOnly s t ∧ t.parts = s.parts ∧ t.linkWins = s.linkWins := by
  change ∃ t, execLinkwin m s = .next t ∧ _
  unfold execLinkwin
  refine command_answers up (if_pos unnamed) ?_
  exact ⟨⟨rfl, rfl, rfl, rfl, rfl, rfl⟩, rfl, rfl⟩

theorem hostwin_refused (up : Up s) (bad : 32 ≤ m.w1.toNat ∨ 15 < m.w2.toNat) :
    ∃ t, exec (.hostwin m) s = .next t ∧ Status t 4 1 0 ∧ BoxOnly s t ∧ t.parts = s.parts ∧ t.linkWins = s.linkWins := by
  change ∃ t, execHostwin m s = .next t ∧ _
  unfold execHostwin
  refine command_answers up (if_pos bad) ?_
  exact ⟨⟨rfl, rfl, rfl, rfl, rfl, rfl⟩, rfl, rfl⟩

/-- A command that names no partition is refused. -/
theorem unnamed_refused (up : Up s) (unnamed : 32 ≤ m.w1.toNat) : ∀ i ∈ [(Instr.bindpart m, 2), (.hostwin m, 4), (.linkwin m, 6)],
    ∃ t, exec i.1 s = .next t ∧ Status t i.2 1 0 ∧ BoxOnly s t ∧ t.parts = s.parts ∧ t.linkWins = s.linkWins := by
  intro i mem
  simp only [List.mem_cons, List.not_mem_nil, or_false] at mem
  obtain rfl | rfl | rfl := mem
  · exact bindpart_refused up unnamed
  · exact hostwin_refused up (.inl unnamed)
  · exact linkwin_refused up unnamed

theorem group_refused (up : Up s) (out : inWindow s m.w3.toNat (8 * m.w2.toNat) = false) :
    ∃ t, exec (.group m) s = .next t ∧ Status t 5 1 0 ∧ BoxOnly s t ∧ t.groups = s.groups := by
  change ∃ t, execGroup m s = .next t ∧ _
  unfold execGroup
  refine command_answers up (if_pos (by rw [inWindow_boxWords, out]; rfl)) ?_
  exact ⟨⟨rfl, rfl, rfl, rfl, rfl, rfl⟩, rfl⟩

theorem spaceCommands : SpaceCommands := fun _ _ up =>
  ⟨setroot_sets up, bindpart_binds up, inval_invalidates up, hostwin_sets up, group_forms up, linkwin_sets up, unnamed_refused up,
    fun _ index => (hostwin_refused up (.inr index)).imp fun _ ⟨run, status, box, parts, _⟩ => ⟨run, status, box, parts⟩,
    group_refused up⟩

/-! ### Contexts and power (R313, R376, R388) -/

/-- A halted context as RESTART runs it. -/
def restarted (c : Ctx) : Ctx := { c with halted := false, haltCode := 0, saved := false, wait := .ready, pc := c.epc }

/-- The state after it. -/
def restartedState (s : State) (p q : Nat) : State := (s.updCtx p q restarted).updPad p fun x => { x with gatedF3 := false }

theorem ctx_restartedState (p q a b : Nat) : (restartedState s p q).ctx a b = (s.updCtx p q restarted).ctx a b :=
  ctx_updPad (h := fun x => { x with gatedF3 := false }) rfl a b

theorem restart_runs {p : Fin 32} {q : Fin 4} (up : Up s) (pad : m.w1.toNat = p.val) (queue : m.w2.toNat = q.val)
    (lit : (s.pad p).up = true) (halted : (s.ctx p q).halted = true) (gate : (s.pad p).gate ≠ .resetting) :
    ∃ t, exec (.restart m) s = .next t ∧ Status t 7 0 0 ∧ SameBytes s t ∧
      ((t.ctx p q).halted, (t.ctx p q).haltCode, (t.ctx p q).pc, (t.ctx p q).wait) = (false, 0, (s.ctx p q).epc, .ready) ∧
      ∀ p' q', (p', q') ≠ (p.val, q.val) → t.ctx p' q' = s.ctx p' q' := by
  have runs : ¬ (32 ≤ m.w1.toNat ∨ 4 ≤ m.w2.toNat ∨ (!(s.pad m.w1.toNat).up) = true ∨ ((s.pad m.w1.toNat).gate == .resetting) = true ∨
      (!(s.ctx m.w1.toNat m.w2.toNat).halted) = true) := by
    rw [pad, queue, lit, halted, beq_eq_false_iff_ne.2 gate]
    simp
  change ∃ t, execRestart m s = .next t ∧ _
  unfold execRestart
  refine command_answers (u := restartedState (boxWords s 7 m) m.w1.toNat m.w2.toNat) up (if_neg runs)
    ⟨fun _ _ => rfl, ?_, fun a b ne => ?_⟩
  · have own : (restartedState (boxWords s 7 m) m.w1.toNat m.w2.toNat).ctx p q = restarted (s.ctx p q) := by
      rw [ctx_restartedState, pad, queue]
      exact State.ctx_setCtx_same ..
    exact congrArg (fun c : Ctx => (c.halted, c.haltCode, c.pc, c.wait)) own
  · change (restartedState (boxWords s 7 m) m.w1.toNat m.w2.toNat).ctx a b = s.ctx a b
    rw [ctx_restartedState, pad, queue]
    exact ctx_setCtx_ne ne

theorem restart_refused {p : Fin 32} {q : Fin 4} (up : Up s) (pad : m.w1.toNat = p.val) (queue : m.w2.toNat = q.val)
    (no : (s.ctx p q).halted = false ∨ (s.pad p).gate = .resetting) :
    ∃ t, exec (.restart m) s = .next t ∧ Status t 7 1 0 ∧ BoxOnly s t := by
  change ∃ t, execRestart m s = .next t ∧ _
  unfold execRestart
  refine command_answers up (if_pos ?_) ⟨rfl, rfl, rfl, rfl, rfl, rfl⟩
  change 32 ≤ m.w1.toNat ∨ 4 ≤ m.w2.toNat ∨ (!(s.pad m.w1.toNat).up) = true ∨ ((s.pad m.w1.toNat).gate == .resetting) = true ∨
    (!(s.ctx m.w1.toNat m.w2.toNat).halted) = true
  rw [pad, queue]
  obtain halted | gate := no
  · simp [halted]
  · simp [gate]

/-- The ring of a notice and its descriptor lie in the window, and its size is allowed. -/
def NoticeOk (s : State) (m : Mbox) : Prop := 4 ≤ m.w2.toNat ∧ m.w2.toNat ≤ 12 ∧ inWindow s m.w1.toNat 64 = true ∧
  inWindow s (s.rdNat true m.w1.toNat 8) (32 * 2 ^ m.w2.toNat) = true

theorem notice_sets (up : Up s) (ok : NoticeOk s m) :
    ∃ t, exec (.notice m) s = .next t ∧ Status t 9 0 0 ∧ BoxOnly s t ∧ t.box.ring = some (m.w1, m.w2.toNat) := by
  obtain ⟨low, high, desc, ring⟩ := ok
  change ∃ t, execNotice m s = .next t ∧ _
  unfold execNotice
  refine command_answers up ((if_neg ?_).trans (if_neg ?_)) ⟨⟨rfl, rfl, rfl, rfl, rfl, rfl⟩, rfl⟩
  · rw [inWindow_boxWords, desc]
    simp
    omega
  · rw [inWindow_boxWords, rdNat_boxWords, ring]
    simp

theorem notice_refused (up : Up s) (bad : ¬ NoticeOk s m) :
    ∃ t, exec (.notice m) s = .next t ∧ Status t 9 1 0 ∧ BoxOnly s t ∧ t.box.ring = s.box.ring := by
  change ∃ t, execNotice m s = .next t ∧ _
  unfold execNotice
  refine command_answers (u := boxWords s 9 m) up ?_ ⟨⟨rfl, rfl, rfl, rfl, rfl, rfl⟩, ring_boxWords⟩
  dsimp only
  rw [inWindow_boxWords, inWindow_boxWords, rdNat_boxWords]
  by_cases size : m.w2.toNat < 4 ∨ 12 < m.w2.toNat ∨ (!inWindow s m.w1.toNat 64) = true
  · exact if_pos size
  · rw [if_neg size]
    refine if_pos ?_
    simp only [not_or, Nat.not_lt, Bool.not_eq_true, Bool.not_eq_false'] at size
    obtain ⟨low, high, desc⟩ := size
    simpa [NoticeOk, low, high, desc] using bad

theorem plimit_sets (up : Up s) (low : 1200 ≤ m.w1.toNat) (high : m.w1.toNat ≤ 2200) :
    ∃ t, exec (.plimit m) s = .next t ∧ Status t 14 0 0 ∧ BoxOnly s t ∧ t.plim = m.w1.toNat := by
  change ∃ t, execPlimit m s = .next t ∧ _
  unfold execPlimit
  exact command_answers up (if_neg (by omega)) ⟨⟨rfl, rfl, rfl, rfl, rfl, rfl⟩, rfl⟩

theorem plimit_refused (up : Up s) (bad : m.w1.toNat < 1200 ∨ 2200 < m.w1.toNat) :
    ∃ t, exec (.plimit m) s = .next t ∧ Status t 14 1 0 ∧ BoxOnly s t ∧ t.plim = s.plim := by
  change ∃ t, execPlimit m s = .next t ∧ _
  unfold execPlimit
  exact command_answers up (if_pos bad) ⟨⟨rfl, rfl, rfl, rfl, rfl, rfl⟩, rfl⟩

/-! ### A proposal of the host (R307, R393) -/

theorem propose_outside (up : Up s) (out : inWindow s m.w2.toNat 64 = false) :
    ∃ t, exec (.propose m) s = .next t ∧ Status t 8 1 0 ∧ BoxOnly s t ∧ t.parts = s.parts := by
  change ∃ t, execPropose m s = .next t ∧ _
  unfold execPropose
  exact command_answers up (if_pos (by rw [inWindow_boxWords, out]; rfl)) ⟨⟨rfl, rfl, rfl, rfl, rfl, rfl⟩, rfl⟩

theorem propose_noArea (up : Up s) (reach : inWindow s m.w2.toNat 64 = true) (none : (s.jr m.w1.toNat).area = none) :
    ∃ t, exec (.propose m) s = .next t ∧ Status t 8 1 0 ∧ BoxOnly s t ∧ t.parts = s.parts ∧
      Tbl.get 0 t.box.words 7 = jStatus 5 (s.jr m.w1.toNat).last := by
  have window : ¬ (!inWindow (boxWords s 8 m) m.w2.toNat 64) = true := by rw [inWindow_boxWords, reach]; decide
  have area : (s.jr m.w1.toNat).area.isNone = true := by rw [none]; rfl
  change ∃ t, execPropose m s = .next t ∧ _
  unfold execPropose
  exact command_answers up ((if_neg window).trans (if_pos area)) ⟨⟨rfl, rfl, rfl, rfl, rfl, rfl⟩, rfl, Tbl.get_set_same⟩

theorem propose_done {idx : Nat} {seq : BitVec 48} {after : BitVec 64} {deps : List Nat} (up : Up s) (reach : inWindow s m.w2.toNat 64 = true)
    (area : (s.jr m.w1.toNat).area.isSome = true) (aligned : m.w2.toNat % 64 = 0)
    (parsed : parseRequest (s.rdBytes true m.w2.toNat 64) = some (idx, after, deps))
    (done : propose (boxWords s 8 m) m.w1.toNat idx after deps 3 = (.done seq, u)) :
    ∃ t, exec (.propose m) s = .next t ∧ Status t 8 0 0 ∧ Tbl.get 0 t.box.words 7 = jStatus 0 seq ∧ t.parts = u.parts := by
  have window : ¬ (!inWindow (boxWords s 8 m) m.w2.toNat 64) = true := by rw [inWindow_boxWords, reach]; decide
  have some_ : ¬ ((boxWords s 8 m).jr m.w1.toNat).area.isNone = true := by
    rw [show (boxWords s 8 m).jr m.w1.toNat = s.jr m.w1.toNat from rfl, Option.isNone_iff_eq_none]
    exact Option.isSome_iff_ne_none.1 area
  change ∃ t, execPropose m s = .next t ∧ _
  unfold execPropose
  refine command_answers (u := boxWord7 u (jStatus 0 seq)) up ?_ ⟨Tbl.get_set_same, rfl⟩
  dsimp only
  rw [if_neg window, if_neg some_, if_neg (not_not.2 aligned), rdBytes_boxWords, parsed]
  dsimp only
  rw [done]

theorem controlCommands : ControlCommands := by
  intro s m up
  refine ⟨fun p q pad queue lit => ⟨restart_runs up pad queue lit, restart_refused up pad queue⟩, ⟨notice_sets up, notice_refused up⟩,
    ⟨plimit_sets up, plimit_refused up⟩, propose_outside up, fun reach => ⟨propose_noArea up reach, ?_⟩⟩
  exact fun area aligned idx after deps u seq => propose_done up reach area aligned

end Sys2Proof.Claims

namespace Sys2Proof

/-- Settles O51: each command is its body run on the words written, and its answer (`Claims.command_answers`). -/
theorem spaceAndControlCommands : Obligations.SpaceAndControlCommands := ⟨Claims.spaceCommands, Claims.controlCommands⟩

end Sys2Proof

end
